-- ==== Sys2Proof/Word.lean ====
section
/-! DEFINITION. The word types of the machine and the plainest arithmetic on them. -/

namespace Sys2Proof

/-- A 32-bit register value or instruction word. -/
abbrev Word := BitVec 32

/-- A byte of memory, at the lowest address bits [7:0] of a multi-byte value (R1). -/
abbrev Byte := BitVec 8

/-- A set of lanes of a group: bit l is lane l (R108). -/
abbrev Lanes := BitVec 32

/-- A poison tag: [11:9] unit class, [8:0] slot of the error record (R213). -/
abbrev PTag := BitVec 12

/-! ## Errors of the hardware (R208, R436) -/

/-- Where an error of stored bits, of a checker or of a move lies until the device finds it (R208). -/
inductive FlawAt where
  /-- A lane of a register of a group. -/
  | reg (g r lane : Nat)
  /-- A row of a tile of a workgroup. -/
  | row (w t row : Nat)
  /-- An 8-byte word of a workgroup's banks, by bank place div 8. -/
  | sram (w k : Nat)
  /-- A core's cached copy of a line. -/
  | copy (core line : Nat)
  /-- The L2 copy of a line in a die. -/
  | slice (die line : Nat)
  /-- The line in the memory array of its home. -/
  | array (line : Nat)
  /-- The directory entry or stamp of a line in a die's slice; the entry of a line in its home's table. -/
  | dir (die line : Nat)
  | entry (line : Nat)
  /-- The line on its way through a die's network to its home. -/
  | net (die line : Nat)
  /-- A checker or crossbar parity of the next vector, lane or memory instruction of a group (R211). -/
  | pipe (g : Nat)
  /-- The engine that runs queue q of a group, 5 the matrix queue (R212). -/
  | engine (g q : Nat)
deriving DecidableEq, Repr

/-- An error: where it lies, whether its check corrects it, whether the owning copy can still be identified (R226), and
its syndrome. -/
structure Flaw where
  at_   : FlawAt
  fixed : Bool
  known : Bool
  synd  : Nat
deriving DecidableEq, Repr

/-! ## What the host reaches (R23, R59) -/

/-- A register that the host writes or reads: an offset of BAR0, the address, data or control word of an MSI-X vector in
BAR4, or a control of the configuration space. -/
inductive HostReg where
  | bar0 (off : Nat)
  | vecAddr (n : Nat)
  | vecData (n : Nat)
  | vecCtl (n : Nat)
  | pending (k : Nat)
  | msixCtl
  | bar2Size
  | powerState
  /-- AER: uncorrectable and correctable errors reported, and the control of ECRC. -/
  | aer
  | aerCor
  | aerCtl
  /-- What the device can do and does: device capabilities 1 to 3, device control, link capabilities and link status. -/
  | devCap
  | devCap2
  | devCap3
  | devCtl
  | linkCap
  | linkSta
deriving DecidableEq, Repr

/-- A PCIe packet, as far as the device's rules speak of it: an access of the host, or what the device sends the host. -/
inductive Tlp where
  | readReg (r : HostReg)
  | writeReg (r : HostReg) (v : BitVec 64)
  | readMem (pa n : Nat)
  | writeMem (pa : Nat) (data : List Byte) (ep : Bool)
  /-- A packet of the host whose ECRC does not fit (R23, R208). -/
  | badEcrc
  /-- A write of the device to host memory; an MSI-X message of a vector, the write of its data word to its address; the
  answer to a read, in completions no longer than the payload size in force, and its EP bit. -/
  | hostWrite (addr : Nat) (data : List Byte)
  | msix (vec : Nat) (addr : BitVec 64) (data : BitVec 32)
  | data (data : List Byte) (ep : Bool)
deriving DecidableEq, Repr

/-- Through what a register write comes (R421): the host port, or the sideband of the board controller. -/
inductive Door where
  | host
  | sideband
deriving DecidableEq, Repr

/-- A register as it is reached, through a door; whether the ECRC of the packet that reaches it fits (R23). -/
structure RegAt where
  door : Door
  reg  : HostReg
  ecrc : Bool
deriving DecidableEq, Repr

/-- A physical address that the host reaches through BAR2; whether the ECRC of its packet fits (R23). -/
structure BarAt where
  pa   : Nat
  ecrc : Bool
deriving DecidableEq, Repr

/-- The Ethernet port at which a frame arrives, and the UDP port it names (R26). -/
structure EthAt where
  port : BitVec 2
  udp  : BitVec 16
deriving DecidableEq, Repr

/-- What Tabor reads in one iteration of its loop: the 50 µs average, temperatures, rail currents (R30, R42). -/
structure Sensed where
  average : Nat
  temps   : List Nat
  amps    : List Nat
deriving DecidableEq, Repr

/-- The flit whose check failed, whether the module sent it, whether it was being replayed, and how many flits are replayed
from it on (R16). -/
structure FlitRun where
  out      : Bool
  replayed : Bool
  seq      : BitVec 12
  flits    : Nat
deriving DecidableEq, Repr

/-- The beat whose check failed, whether it went from the lower die of the bridge to the other, and whether it was being
replayed (R13). -/
structure BeatRun where
  up       : Bool
  replayed : Bool
  seq      : BitVec 10
deriving DecidableEq, Repr

/-- Nanoseconds of a time message, and the interval in units of 1/16 ns that an Announce message names (R28, R29). -/
structure PtpRest where
  ns       : Nat
  announce : Option Nat
deriving DecidableEq, Repr

end Sys2Proof
end

