-- ==== Sys2Proof/Config.lean ====
section
/-! DEFINITION. What the spec leaves to the implementation, as constants without a body: nothing can be proved about
their values. A free value is applied to the machine's counter of draws (State.draws), so that each use is fresh. -/

namespace Sys2Proof.Config

/-- The number a value the spec calls undefined takes (R215 poisoned lanes, R192 struck values). -/
opaque freeWord : Nat → Word

/-- A choice the spec leaves open: an order, a victim, a moment. -/
opaque freeNat : Nat → Nat

/-- A yes or no the spec leaves open. -/
opaque freeBit : Nat → Bool

/-- A byte the spec gives no value. -/
opaque freeByte : Nat → Byte

/-- The errors that the hardware suffers in a cycle (R208): how often, and where, the spec does not say. -/
opaque flaws : Nat → List Flaw

/-- Units of 1/16 ns that Peal time moves in one device cycle (the clock rate is not fixed by the spec, R3, R231). -/
opaque cycleUnits : Nat → Nat

/-- The key hash fused into the device (R82). -/
opaque fusedKeyHash : List Byte

/-- The device identifier fused into the device (R84). -/
opaque devId : BitVec 128

/-- The fused security counter at power-on (R84). -/
opaque fuseCtr : Nat

/-- Byte i of the two signatures of an attestation report over a message (R86): 16,608 bytes from offset 0x100. -/
opaque attestSig : List Byte → Nat → Byte

/-- Certificate i of the four that follow a report (R86), in DER, from the hashes of the started images: attestation RSA,
attestation SLH-DSA, device identity RSA, device identity SLH-DSA. -/
opaque attestCert : Nat → List Byte → List Byte

/-- The bits a page of the flash array holds where the spec lays nothing out. -/
opaque flashByte : Nat → Byte

end Sys2Proof.Config
end

