-- ==== Sys2Proof/Machine/Maps.lean ====
section
/-! DEFINITION. Keyed collections and lane collections: plain lists with the few operations the machine uses. -/

namespace Sys2Proof.Machine

/-- A collection by key: a list of (key, value) pairs with rising keys. -/
abbrev Map (α : Type) := List (Nat × α)

/-- The entry of key k, if there is one. -/
def mget? {α : Type} : Map α → Nat → Option α
  | [], _ => none
  | (k, v) :: r, n => if n = k then some v else mget? r n

/-- The entry of key n, or d. -/
def mgetD {α : Type} (m : Map α) (n : Nat) (d : α) : α := (mget? m n).getD d

/-- Sets the entry of key n. -/
def mput {α : Type} : Map α → Nat → α → Map α
  | [], n, a => [(n, a)]
  | (k, v) :: r, n, a =>
    if n < k then (n, a) :: (k, v) :: r
    else if n = k then (n, a) :: r
    else (k, v) :: mput r n a

/-- Takes the entry of key n away. -/
def mdel {α : Type} (m : Map α) (n : Nat) : Map α := m.filter (fun e => e.1 != n)

/-- Changes the entry of key n, if there is one. -/
def mupd {α : Type} (m : Map α) (n : Nat) (f : α → α) : Map α :=
  match mget? m n with
  | some v => mput m n (f v)
  | none => m

/-- Applies f to every value. -/
def mmap {α β : Type} (m : Map α) (f : Nat → α → β) : Map β := m.map (fun e => (e.1, f e.1 e.2))

/-- The values, in key order. -/
def mvals {α : Type} (m : Map α) : List α := m.map (·.2)

/-- The keys, in order. -/
def mkeys {α : Type} (m : Map α) : List Nat := m.map (·.1)

/-- Keys strictly rising. -/
def keysRise {α : Type} : Map α → Bool
  | [] => true
  | [_] => true
  | a :: b :: r => decide (a.1 < b.1) && keysRise (b :: r)

/-- The first n naturals as a list. -/
def upto (n : Nat) : List Nat := List.range n

/-- The 32 lane numbers. -/
def allLanes : List Nat := List.range 32

/-- The lanes of a mask, ascending. -/
def lanesOf (m : Lanes) : List Nat := allLanes.filter (fun l => m.getLsbD l)

/-- The mask with exactly the lanes where f is true. -/
def maskOf (f : Nat → Bool) : Lanes :=
  allLanes.foldl (fun m l => if f l then m ||| (1#32 <<< l) else m) 0#32

/-- The lowest lane of a mask. -/
def lowLane (m : Lanes) : Option Nat := (lanesOf m).head?

/-- The mask of one lane. -/
def laneBit (l : Nat) : Lanes := 1#32 <<< l

/-- How many lanes a mask has. -/
def laneCount (m : Lanes) : Nat := (lanesOf m).length

/-- Bits [hi:lo] of a natural number (R282). -/
def nbits (x hi lo : Nat) : Nat := x / 2 ^ lo % 2 ^ (hi + 1 - lo)

/-- Bit k of a natural number. -/
def nbit (x k : Nat) : Bool := x / 2 ^ k % 2 == 1

/-- A Bool as 0 or 1. -/
def b2n (b : Bool) : Nat := if b then 1 else 0

/-- Bits [hi:lo] of a 64-bit value as a number. -/
def b64 (v : BitVec 64) (hi lo : Nat) : Nat := nbits v.toNat hi lo

/-- x as an n-bit two's-complement integer (R282). -/
def sextInt (n x : Nat) : Int := if x % 2 ^ n < 2 ^ (n - 1) then (x % 2 ^ n : Nat) else ((x % 2 ^ n : Nat) : Int) - (2 ^ n : Nat)

/-- The low n bits of an integer, as a number. -/
def wrapInt (n : Nat) (x : Int) : Nat := (x % ((2 ^ n : Nat) : Int)).toNat

/-- The n bytes of x, least significant first (R1). -/
def bytesLE : Nat → Nat → List Byte
  | 0, _ => []
  | n + 1, x => BitVec.ofNat 8 x :: bytesLE n (x / 256)

/-- The value of bytes, least significant first (R1). -/
def ofBytesLE : List Byte → Nat
  | [] => 0
  | b :: r => b.toNat + 256 * ofBytesLE r

/-- Removes repeats, keeping first occurrences. -/
def dedup (l : List Nat) : List Nat := l.foldl (fun acc x => if acc.contains x then acc else acc ++ [x]) []

/-- Sorted insertion by a key. -/
def insertBy {α : Type} (k : α → Nat) (a : α) : List α → List α
  | [] => [a]
  | b :: r => if k a ≤ k b then a :: b :: r else b :: insertBy k a r

/-- Sort by a key, stable. -/
def sortBy {α : Type} (k : α → Nat) : List α → List α
  | [] => []
  | a :: r => insertBy k a (sortBy k r)

/-- The element with the least key, the first on ties. -/
def leastBy {α : Type} (k : α → Nat) : List α → Option α
  | [] => none
  | a :: r => match leastBy k r with
    | none => some a
    | some b => if k b < k a then some b else some a

/-- Saturating sum below a bound. -/
def satAdd (hi a b : Nat) : Nat := min hi (a + b)

/-- The lesser of two optional poison tags; none means clean (R213). -/
def tagMin (a b : Option PTag) : Option PTag :=
  match a, b with
  | none, b => b
  | a, none => a
  | some x, some y => some (if y.toNat < x.toNat then y else x)

/-- The least poison tag of a list (R213). -/
def tagMinL (l : List (Option PTag)) : Option PTag := l.foldl tagMin none

end Sys2Proof.Machine
end

