-- ==== Sys2Proof/Syntax.lean ====
section
/-! DEFINITION. The syntax: one constructor for each row of the opcode table. The first 142 are instruction
words (R276 to R280), with the fields of the word as arguments. The rest are the device events that the table lists
without a word: a step of the device that is not an instruction of a group, whose arguments say which part of the
machine takes the step, and what arrives from outside (a packet, a register write, a sensor reading). What arrives from
outside stands last. -/

namespace Sys2Proof

/-- One step of the Z9: an instruction word of a split, or a device event. The number is the rule that gives it. -/
inductive Instr where
  /-- CLAUSE (R269). -/
  | clause (w : BitVec 12) (a : BitVec 4) (b : BitVec 4) (l : BitVec 4) (y : BitVec 1)
  /-- BRA (R320). -/
  | bra (o : BitVec 22)
  /-- BRA_ANY (R320). -/
  | braAny (o : BitVec 22)
  /-- BRA_ALL (R320). -/
  | braAll (o : BitVec 22)
  /-- CALL (R321). -/
  | call (o : BitVec 22)
  /-- BRX (R322). -/
  | brx (a : BitVec 7)
  /-- CALLX (R321). -/
  | callx (a : BitVec 7)
  /-- RET (R322). -/
  | ret (a : BitVec 7)
  /-- JTAB (R323). -/
  | jtab (a : BitVec 7) (n : BitVec 11)
  /-- SWITCH (R323). -/
  | switch (a : BitVec 7) (n : BitVec 11)
  /-- JOIN (R324). -/
  | join
  /-- EXIT (R325). -/
  | exit
  /-- NOP (R326). -/
  | nop
  /-- YIELD (R327). -/
  | yield
  /-- ENSURE (R328). -/
  | ensure (c : BitVec 7) (e : BitVec 18)
  /-- ELSEBY (R329). -/
  | elseby (n : BitVec 22)
  /-- ELSEERR (R329). -/
  | elseerr
  /-- ACCEPT (R331). -/
  | accept (p : BitVec 3)
  /-- REJECT (R332). -/
  | reject
  /-- CONVJ (R334). -/
  | convj (a : BitVec 7) (h : BitVec 4)
  /-- CONVL (R335). -/
  | convl
  /-- SETM (R336). -/
  | setm (v : BitVec 16)
  /-- SETM_REGISTER (R336). -/
  | setmRegister (s : BitVec 7)
  /-- GETM (R337). -/
  | getm (d : BitVec 7)
  /-- TRAP (R338). -/
  | trap (c : BitVec 16)
  /-- BKPT (R339). -/
  | bkpt (t : BitVec 16)
  /-- ERET (R340). -/
  | eret
  /-- ERET_SKIP (R340). -/
  | eretSkip
  /-- VADD (R346). -/
  | vadd (d : BitVec 7) (a : BitVec 7) (b : BitVec 7)
  /-- VSUB (R346). -/
  | vsub (d : BitVec 7) (a : BitVec 7) (b : BitVec 7)
  /-- VMUL (R346). -/
  | vmul (d : BitVec 7) (a : BitVec 7) (b : BitVec 7)
  /-- VMULH (R346). -/
  | vmulh (d : BitVec 7) (a : BitVec 7) (b : BitVec 7)
  /-- VMAD (R346). -/
  | vmad (d : BitVec 7) (a : BitVec 7) (b : BitVec 7)
  /-- VMIN (R346). -/
  | vmin (d : BitVec 7) (a : BitVec 7) (b : BitVec 7)
  /-- VMAX (R346). -/
  | vmax (d : BitVec 7) (a : BitVec 7) (b : BitVec 7)
  /-- VABS (R346). -/
  | vabs (d : BitVec 7) (a : BitVec 7)
  /-- VNEG (R346). -/
  | vneg (d : BitVec 7) (a : BitVec 7)
  /-- VDOT4 (R346). -/
  | vdot4 (d : BitVec 7) (a : BitVec 7) (b : BitVec 7)
  /-- VAND (R348). -/
  | vand (d : BitVec 7) (a : BitVec 7) (b : BitVec 7)
  /-- VOR (R348). -/
  | vor (d : BitVec 7) (a : BitVec 7) (b : BitVec 7)
  /-- VXOR (R348). -/
  | vxor (d : BitVec 7) (a : BitVec 7) (b : BitVec 7)
  /-- VSHL (R348). -/
  | vshl (d : BitVec 7) (a : BitVec 7) (b : BitVec 7)
  /-- VSHR (R348). -/
  | vshr (d : BitVec 7) (a : BitVec 7) (b : BitVec 7)
  /-- VROL (R348). -/
  | vrol (d : BitVec 7) (a : BitVec 7) (b : BitVec 7)
  /-- VCLZ (R348). -/
  | vclz (d : BitVec 7) (a : BitVec 7)
  /-- VPOPC (R348). -/
  | vpopc (d : BitVec 7) (a : BitVec 7)
  /-- VBREV (R348). -/
  | vbrev (d : BitVec 7) (a : BitVec 7)
  /-- VBFE (R348). -/
  | vbfe (d : BitVec 7) (a : BitVec 7) (b : BitVec 7)
  /-- VBFI (R348). -/
  | vbfi (d : BitVec 7) (a : BitVec 7) (b : BitVec 7)
  /-- VMOV (R349). -/
  | vmov (d : BitVec 7) (a : BitVec 7)
  /-- VTAG (R349). -/
  | vtag (d : BitVec 7) (a : BitVec 7)
  /-- VPACK (R349). -/
  | vpack (d : BitVec 7) (a : BitVec 7) (b : BitVec 7)
  /-- VUNPK (R349). -/
  | vunpk (d : BitVec 7) (a : BitVec 7)
  /-- VCMP (R350). -/
  | vcmp (p : BitVec 3) (a : BitVec 7) (b : BitVec 7) (c : BitVec 4)
  /-- VSEL (R349). -/
  | vsel (d : BitVec 7) (a : BitVec 7) (s : BitVec 1) (p : BitVec 3) (b : BitVec 7)
  /-- VADDI (R347). -/
  | vaddi (d : BitVec 7) (a : BitVec 7) (i : BitVec 11)
  /-- VANDI (R347). -/
  | vandi (d : BitVec 7) (a : BitVec 7) (i : BitVec 11)
  /-- VORI (R347). -/
  | vori (d : BitVec 7) (a : BitVec 7) (i : BitVec 11)
  /-- VXORI (R347). -/
  | vxori (d : BitVec 7) (a : BitVec 7) (i : BitVec 11)
  /-- VSHLI (R347). -/
  | vshli (d : BitVec 7) (a : BitVec 7) (k : BitVec 5)
  /-- VSHRI (R347). -/
  | vshri (d : BitVec 7) (a : BitVec 7) (k : BitVec 5)
  /-- VCMPI (R350). -/
  | vcmpi (c : BitVec 4) (p : BitVec 3) (a : BitVec 7) (i : BitVec 11)
  /-- VAFF (R347). -/
  | vaff (d : BitVec 7) (a : BitVec 7) (i : BitVec 11)
  /-- VMOVI (R347). -/
  | vmovi (d : BitVec 7) (i : BitVec 18)
  /-- VLUI (R347). -/
  | vlui (d : BitVec 7) (i : BitVec 18)
  /-- VBCAST (R351). -/
  | vbcast (d : BitVec 7) (a : BitVec 7) (b : BitVec 7)
  /-- VSHFL (R351). -/
  | vshfl (d : BitVec 7) (a : BitVec 7) (b : BitVec 7)
  /-- VSHFX (R351). -/
  | vshfx (d : BitVec 7) (a : BitVec 7) (b : BitVec 7)
  /-- VRED (R352). -/
  | vred (d : BitVec 7) (a : BitVec 7) (o : BitVec 4)
  /-- VSCAN (R352). -/
  | vscan (d : BitVec 7) (a : BitVec 7) (e : BitVec 1) (o : BitVec 4)
  /-- PAND (R353). -/
  | pand (d : BitVec 3) (a : BitVec 3) (b : BitVec 3)
  /-- POR (R353). -/
  | por (d : BitVec 3) (a : BitVec 3) (b : BitVec 3)
  /-- PXOR (R353). -/
  | pxor (d : BitVec 3) (a : BitVec 3) (b : BitVec 3)
  /-- PNOT (R353). -/
  | pnot (d : BitVec 3) (a : BitVec 3)
  /-- BALLOT (R353). -/
  | ballot (d : BitVec 7) (a : BitVec 3)
  /-- PMASK (R353). -/
  | pmask (d : BitVec 3) (a : BitVec 7)
  /-- VFADD (R354). -/
  | vfadd (d : BitVec 7) (a : BitVec 7) (b : BitVec 7) (t : BitVec 1)
  /-- VFSUB (R354). -/
  | vfsub (d : BitVec 7) (a : BitVec 7) (b : BitVec 7) (t : BitVec 1)
  /-- VFMUL (R354). -/
  | vfmul (d : BitVec 7) (a : BitVec 7) (b : BitVec 7) (t : BitVec 1)
  /-- VFMA (R354). -/
  | vfma (d : BitVec 7) (a : BitVec 7) (b : BitVec 7) (t : BitVec 1)
  /-- VFMIN (R354). -/
  | vfmin (d : BitVec 7) (a : BitVec 7) (b : BitVec 7) (t : BitVec 1)
  /-- VFMAX (R354). -/
  | vfmax (d : BitVec 7) (a : BitVec 7) (b : BitVec 7) (t : BitVec 1)
  /-- VFDIV (R354). -/
  | vfdiv (d : BitVec 7) (a : BitVec 7) (b : BitVec 7) (t : BitVec 1)
  /-- VFCMP (R355). -/
  | vfcmp (p : BitVec 3) (a : BitVec 7) (b : BitVec 7) (c : BitVec 3)
  /-- VRCP (R356). -/
  | vrcp (d : BitVec 7) (a : BitVec 7) (t : BitVec 1)
  /-- VRSQ (R356). -/
  | vrsq (d : BitVec 7) (a : BitVec 7) (t : BitVec 1)
  /-- VSQRT (R354). -/
  | vsqrt (d : BitVec 7) (a : BitVec 7) (t : BitVec 1)
  /-- VEXP2 (R356). -/
  | vexp2 (d : BitVec 7) (a : BitVec 7) (t : BitVec 1)
  /-- VLOG2 (R356). -/
  | vlog2 (d : BitVec 7) (a : BitVec 7) (t : BitVec 1)
  /-- VSIN (R356). -/
  | vsin (d : BitVec 7) (a : BitVec 7) (t : BitVec 1)
  /-- VCOS (R356). -/
  | vcos (d : BitVec 7) (a : BitVec 7) (t : BitVec 1)
  /-- VFRND (R354). -/
  | vfrnd (d : BitVec 7) (a : BitVec 7) (t : BitVec 1)
  /-- VCVT (R357). -/
  | vcvt (d : BitVec 7) (a : BitVec 7) (y : BitVec 4) (t : BitVec 1)
  /-- VCVTN (R359). -/
  | vcvtn (d : BitVec 7) (a : BitVec 7) (f : BitVec 3) (t : BitVec 1)
  /-- VAMAX (R358). -/
  | vamax (d : BitVec 7) (a : BitVec 7) (n : BitVec 2)
  /-- VSCL (R358). -/
  | vscl (d : BitVec 7) (a : BitVec 7) (f : BitVec 3) (t : BitVec 1)
  /-- VRAND (R360). -/
  | vrand (d : BitVec 7) (n : BitVec 2)
  /-- VSPR (R361). -/
  | vspr (d : BitVec 7) (n : BitVec 18)
  /-- LD (R365). -/
  | ld (d : BitVec 7) (a : BitVec 7) (h : BitVec 4) (s : BitVec 3) (x : BitVec 1)
  /-- ST (R365). -/
  | st (d : BitVec 7) (a : BitVec 7) (h : BitVec 4) (s : BitVec 3)
  /-- LDA (R366). -/
  | lda (d : BitVec 7) (a : BitVec 7) (h : BitVec 4) (s : BitVec 3) (c : BitVec 3)
  /-- STRL (R366). -/
  | strl (d : BitVec 7) (a : BitVec 7) (h : BitVec 4) (s : BitVec 3) (c : BitVec 3)
  /-- LDW (R367). -/
  | ldw (d : BitVec 7) (a : BitVec 7) (h : BitVec 4) (s : BitVec 3) (t : BitVec 3)
  /-- CHK (R369). -/
  | chk (m : BitVec 8) (o : BitVec 10)
  /-- FENCE (R370). -/
  | fence (p : BitVec 1) (s : BitVec 3) (k : BitVec 3)
  /-- ATOM (R371). -/
  | atom (d : BitVec 7) (a : BitVec 7) (h : BitVec 4) (s : BitVec 3) (n : BitVec 1) (o : BitVec 3)
  /-- ATOM_ACQ (R371). -/
  | atomAcq (d : BitVec 7) (a : BitVec 7) (h : BitVec 4) (s : BitVec 3) (n : BitVec 1) (o : BitVec 3)
  /-- ATOM_REL (R371). -/
  | atomRel (d : BitVec 7) (a : BitVec 7) (h : BitVec 4) (s : BitVec 3) (n : BitVec 1) (o : BitVec 3)
  /-- ATOM_AR (R371). -/
  | atomAr (d : BitVec 7) (a : BitVec 7) (h : BitVec 4) (s : BitVec 3) (n : BitVec 1) (o : BitVec 3)
  /-- LR (R372). -/
  | lr (d : BitVec 7) (a : BitVec 7) (h : BitVec 4) (z : BitVec 3) (q : BitVec 1) (c : BitVec 3)
  /-- SC (R372). -/
  | sc (d : BitVec 7) (a : BitVec 7) (h : BitVec 4) (z : BitVec 3) (q : BitVec 1) (c : BitVec 3)
  /-- PREF (R373). -/
  | pref (a : BitVec 7) (h : BitVec 4) (l : BitVec 1)
  /-- HLOAD (R374). -/
  | hload (e : BitVec 4) (s : BitVec 4)
  /-- CBINV (R375). -/
  | cbinv
  /-- CPY (R379). -/
  | cpy (d : BitVec 7) (a : BitVec 7) (b : BitVec 7) (q : BitVec 2)
  /-- CPYB (R382). -/
  | cpyb (d : BitVec 7) (a : BitVec 7) (b : BitVec 7) (q : BitVec 3)
  /-- CPYX_G (R388). -/
  | cpyxG (d : BitVec 7) (a : BitVec 7) (b : BitVec 7) (q : BitVec 3)
  /-- CPYX_S (R388). -/
  | cpyxS (d : BitVec 7) (a : BitVec 7) (b : BitVec 7) (q : BitVec 3)
  /-- QFENCE (R390). -/
  | qfence (m : BitVec 6)
  /-- MMA (R399). -/
  | mma (f : BitVec 3) (t : BitVec 4) (a : BitVec 7) (b : BitVec 7)
  /-- MMACK (R400). -/
  | mmack (f : BitVec 3) (t : BitVec 4) (a : BitVec 7) (b : BitVec 7)
  /-- MZERO (R401). -/
  | mzero (m : BitVec 16)
  /-- MLD (R402). -/
  | mld (t : BitVec 4) (a : BitVec 7) (h : BitVec 4)
  /-- MST (R402). -/
  | mst (t : BitVec 4) (a : BitVec 7) (h : BitVec 4)
  /-- MSTN (R403). -/
  | mstn (f : BitVec 3) (t : BitVec 4) (a : BitVec 7) (h : BitVec 4)
  /-- MCKV (R405). -/
  | mckv (d : BitVec 7) (t : BitVec 4) (b : BitVec 7)
  /-- MCKC (R406). -/
  | mckc (t : BitVec 4) (q : BitVec 7)
  /-- WBAR (R409). -/
  | wbar
  /-- GBAR (R410). -/
  | gbar
  /-- FPUSH (R412). -/
  | fpush (d : BitVec 7) (b : BitVec 5)
  /-- FPOP (R413). -/
  | fpop (d : BitVec 7) (b : BitVec 5)
  /-- BANKM (R414). -/
  | bankm (d : BitVec 7) (e : BitVec 3) (m : BitVec 2) (b : BitVec 5)
  /-- EVSIG_ADD (R415). -/
  | evsigAdd (a : BitVec 7) (b : BitVec 7)
  /-- EVSIG_SET (R415). -/
  | evsigSet (a : BitVec 7) (b : BitVec 7)
  /-- EVSIG_CLR (R415). -/
  | evsigClr (a : BitVec 7)
  /-- EVQRY (R416). -/
  | evqry (d : BitVec 7) (a : BitVec 7)
  /-- TRACE (R417). -/
  | trace (d : BitVec 7) (c : BitVec 16)
  /-- TMARK (R417). -/
  | tmark (c : BitVec 16)
  /-- SYSR (R420). -/
  | sysr (d : BitVec 7) (n : BitVec 16)
  /-- SYSW (R420). -/
  | sysw (d : BitVec 7) (n : BitVec 16)
  /-- WAITF (R418). -/
  | waitf (m : BitVec 12)
  /-- HALT (R419). -/
  | halt
  /-- SPLIT_ROTATION (R111). -/
  | splitRotation (g ix : Nat)
  /-- GBAR_RELEASE (R120). -/
  | gbarRelease (gang : Nat)
  /-- DELAYED_ACCESS_FAULT (R363). -/
  | delayedAccessFault (g id : Nat)
  /-- BLOCK_OPEN (R127). -/
  | blockOpen (w : Nat)
  /-- ROUTINE_END (R128). -/
  | routineEnd (w : Nat)
  /-- CYCLE_LIMIT (R130). -/
  | cycleLimit (w : Nat)
  /-- ROLLBACK (R131). -/
  | rollback (w : Nat)
  /-- CONVERSATION_JOINED (R136). -/
  | conversationJoined (gang : Nat) (members : BitVec 24)
  /-- RETURN_WRITTEN (R270). -/
  | returnWritten (g id : Nat)
  /-- WRITES_PERFORMED (R270). -/
  | writesPerformed (g id : Nat)
  /-- GROUP_RETIRE (R325). -/
  | groupRetire (g : Nat)
  /-- LAUNCH_RETIRE (R69). -/
  | launchRetire (l : Nat)
  /-- CQ_COALESCE_TIMER (R80). -/
  | cqCoalesceTimer (q : BitVec 8)
  /-- KULINTANG_ROUND (R77). -/
  | kulintangRound
  /-- WAITER_FIRE (R96). -/
  | waiterFire (n : Nat)
  /-- DAMAVI_RETRANSMIT (R385). -/
  | damaviRetransmit (conn psn : BitVec 24)
  /-- SEND_RETRY (R387). -/
  | sendRetry (conn psn : BitVec 24)
  /-- TABOR_LOOP_TICK (R42). -/
  | taborLoopTick (projected : Nat) (seen : Sensed)
  /-- POWER_FAIL (R47). -/
  | powerFail (energy : Nat)
  /-- DRAIN_SECTION_END (R48). -/
  | drainSectionEnd
  /-- DRAIN_END (R50). -/
  | drainEnd
  /-- HOLDUP_EXHAUSTED (R52). -/
  | holdupExhausted (saved : Nat)
  /-- INPUT_RETURN (R53). -/
  | inputReturn
  /-- POWER_ON_RESET (R54). -/
  | powerOnReset (sl15 : Bool)
  /-- SIDEBAND_POWER_ON (R30). -/
  | sidebandPowerOn
  /-- SIDEBAND_POWER_OFF (R30). -/
  | sidebandPowerOff
  /-- RESTORE (R54). -/
  | restore
  /-- RESTORED (R424). -/
  | restored
  /-- CLAIM (R54). -/
  | claim
  /-- MARGCMD_START (R58). -/
  | margcmdStart (v : BitVec 64)
  /-- REPLAN_TIMER (R55). -/
  | replanTimer (hours : Nat)
  /-- REPLAN_ISLAND (R55). -/
  | replanIsland (readings : List (List Nat))
  /-- MARGIN_LOWER_APPLY (R55). -/
  | marginLowerApply (island : BitVec 8)
  /-- BOOTGO (R85). -/
  | bootgo
  /-- BUNDLE_START (R82). -/
  | bundleStart
  /-- COMMIT (R84). -/
  | commit
  /-- ATGO (R84). -/
  | atgo
  /-- ATDONE (R83). -/
  | atdone
  /-- CPART_WRITE (R91). -/
  | cpartWrite (n : BitVec 8) (v : BitVec 64)
  /-- PARTCTL_WRITE (R91). -/
  | partctlWrite (n : BitVec 4) (v : BitVec 64)
  /-- PLACEMENT_PASS (R100). -/
  | placementPass (p : BitVec 4)
  /-- PLACEMENT_RETRY (R100). -/
  | placementRetry (p : BitVec 4)
  /-- DRAIN_COMPLETE (R104). -/
  | drainComplete (q : BitVec 10)
  /-- DRAIN_LIMIT (R104). -/
  | drainLimit (q : BitVec 10)
  /-- SAVE (R104). -/
  | save (gang : Nat)
  /-- SAVE_LIMIT (R104). -/
  | saveLimit (q : BitVec 10)
  /-- FRESUME_REPLAY (R125). -/
  | fresumeReplay (v : BitVec 64)
  /-- FRESUME_SKIP (R125). -/
  | fresumeSkip (v : BitVec 64)
  /-- FRESUME_EXIT (R125). -/
  | fresumeExit (v : BitVec 64)
  /-- OWNERSHIP_REQUEST (R157). -/
  | ownershipRequest (die : BitVec 2) (line : Nat)
  /-- REVALIDATION (R156). -/
  | revalidation (die : BitVec 2) (line : Nat)
  /-- WATCH_VERDICT (R160). -/
  | watchVerdict (g n : Nat)
  /-- WRAP_CLEAR (R158). -/
  | wrapClear (die : Option (BitVec 2)) (line : Nat)
  /-- ASCTL_INVAL (R169). -/
  | asctlInval (v : BitVec 64)
  /-- ASCTL_ADVANCE (R169). -/
  | asctlAdvance (v : BitVec 64)
  /-- ASCTL_DONE (R169). -/
  | asctlDone
  /-- COPY_START (R380). -/
  | copyStart (g : Nat) (q : BitVec 3)
  /-- COPY_DONE (R377). -/
  | copyDone (g : Nat) (q : BitVec 3)
  /-- COPY_STOP (R378). -/
  | copyStop (g : Nat) (q : BitVec 3)
  /-- MATRIX_OP_START (R398). -/
  | matrixOpStart (core : BitVec 8)
  /-- MATRIX_OP_DONE (R398). -/
  | matrixOpDone (core : BitVec 8)
  /-- SCRUB (R225). -/
  | scrub (found : BitVec 2)
  /-- INJ_ARM (R223). -/
  | injArm (v : BitVec 64)
  /-- ERRACK_FREE (R222). -/
  | errackFree (v : BitVec 64)
  /-- ERRBASE_ENABLE (R219). -/
  | errbaseEnable (v : BitVec 64)
  /-- DIE_FAILURE (R228). -/
  | dieFailure (die : BitVec 2)
  /-- STACK_FAILURE (R229). -/
  | stackFailure (stack : BitVec 3)
  /-- CONTROLLER_FAILURE (R230). -/
  | controllerFailure (ctl : BitVec 1)
  /-- TIME_RECORD (R236). -/
  | timeRecord
  /-- SOURCE_TIME_REPORT (R242). -/
  | sourceTimeReport (sclass : BitVec 8) (sinst : BitVec 12)
  /-- PEAL_RECORD_WRITE (R242). -/
  | pealRecordWrite (p : BitVec 4)
  /-- DEVICE_RECORD_TIMEOUT (R243). -/
  | deviceRecordTimeout (p : BitVec 4)
  /-- PERTURB (R244). -/
  | perturb (sclass : BitVec 8) (sinst : BitVec 12)
  /-- SAMPLE (R248). -/
  | sample (core : BitVec 8) (sched : BitVec 2)
  /-- PCTL_ENABLE (R239). -/
  | pctlEnable (p : BitVec 4) (v : BitVec 64)
  /-- RP_WRITE (R240). -/
  | rpWrite (p : BitVec 4) (v : BitVec 64)
  /-- DEBUG_STOP (R252). -/
  | debugStop (v : BitVec 64)
  /-- QUIET_POINT (R253). -/
  | quietPoint (core : BitVec 8) (sched : BitVec 2)
  /-- DEBUG_STOP_END (R254). -/
  | debugStopEnd (v : BitVec 64)
  /-- RESUME_HALTED_GANG (R261). -/
  | resumeHaltedGang (v : BitVec 64)
  /-- DBGD_READ (R256). -/
  | dbgdRead
  /-- DBGD_WRITE (R256). -/
  | dbgdWrite (v : BitVec 64)
  /-- HLOAD_BINDING (R374). -/
  | hloadBinding (g : Nat)
  /-- BANKM_COMPLETION (R151). -/
  | bankmCompletion (g : Nat)
  /-- PORT_DOWN (R16). -/
  | portDown (port : BitVec 4)
  /-- PORT_NARROW (R19). -/
  | portNarrow (port : BitVec 4)
  /-- BRIDGE_FAILED (R14). -/
  | bridgeFailed (bridge : BitVec 2) (lost : List Nat)
  /-- DOORBELL (R65). -/
  | doorbell (q : BitVec 10) (v : BitVec 64)
  /-- DOORBELL_RSY (R64). -/
  | doorbellRsy (q : BitVec 10) (v : BitVec 64)
  /-- DOORBELL_CLRERR (R64). -/
  | doorbellClrerr (q : BitVec 10) (v : BitVec 64)
  /-- QUEUE_ENABLE (R60). -/
  | queueEnable (q : BitVec 10) (v : BitVec 64)
  /-- QUEUE_DISABLE (R60). -/
  | queueDisable (q : BitVec 10) (v : BitVec 64)
  /-- CQ_ENABLE (R78). -/
  | cqEnable (q : BitVec 8) (v : BitVec 64)
  /-- CQHEAD_WRITE (R78). -/
  | cqheadWrite (q : BitVec 8) (v : BitVec 64)
  /-- PQW (R74). -/
  | pqw (port : BitVec 4) (beat packet : BitVec 512)
  /-- PDB (R74). -/
  | pdb (port : BitVec 4) (beat : BitVec 512)
  /-- MRD (R76). -/
  | mrd (port : BitVec 4) (beat : BitVec 512)
  /-- MWR (R76). -/
  | mwr (port : BitVec 4) (beat : BitVec 512) (data : List Byte)
  /-- CPL (R17). -/
  | cpl (port : BitVec 4) (beat : BitVec 512) (data : List Byte)
  /-- HTN (R21). -/
  | htn (port : BitVec 4) (beat : BitVec 512) (tlp : Tlp)
  /-- LCT (R19). -/
  | lct (port : BitVec 4) (beat : BitVec 512)
  /-- BADPKT (R17). -/
  | badpkt (port : BitVec 4) (beat : BitVec 512)
  /-- FLIT_CRC_FAIL (R16). -/
  | flitCrcFail (port : BitVec 4) (run : FlitRun)
  /-- LINK_TRAINING (R18). -/
  | linkTraining (port : BitVec 4) (peer : BitVec 12)
  /-- LDOWN_CLEAR (R20). -/
  | ldownClear (port : BitVec 4)
  /-- DEVNUM_WRITE (R21). -/
  | devnumWrite (v : BitVec 64)
  /-- BEAT_CRC_FAIL (R13). -/
  | beatCrcFail (bridge : BitVec 2) (fail : BeatRun)
  /-- HOST_MEMORY_READ (R155). -/
  | hostMemoryRead (at_ : BarAt) (n : Nat)
  /-- HOST_MEMORY_WRITE (R155). -/
  | hostMemoryWrite (at_ : BarAt) (data : List Byte) (ep : Bool)
  /-- REGISTER_WRITE (R421). -/
  | registerWrite (at_ : RegAt) (v : BitVec 64)
  /-- DAMAVI_WRITE (R26). -/
  | damaviWrite (at_ : EthAt) (hdr : BitVec 256) (data : List Byte)
  /-- DAMAVI_READ (R26). -/
  | damaviRead (at_ : EthAt) (hdr : BitVec 256)
  /-- DAMAVI_READ_RESP (R385). -/
  | damaviReadResp (at_ : EthAt) (hdr : BitVec 256) (data : List Byte)
  /-- DAMAVI_ACK (R27). -/
  | damaviAck (at_ : EthAt) (hdr : BitVec 256)
  /-- DAMAVI_NAK (R27). -/
  | damaviNak (at_ : EthAt) (hdr : BitVec 256)
  /-- DAMAVI_SEND (R387). -/
  | damaviSend (at_ : EthAt) (hdr : BitVec 256) (data : List Byte)
  /-- OTHER_FRAME (R25). -/
  | otherFrame (port : BitVec 2)
  /-- PTP_MESSAGE (R28). -/
  | ptpMessage (port : BitVec 2) (domain : BitVec 16) (sec : Nat) (rest : PtpRest)
  /-- HOLDOVER (R29). -/
  | holdover
  /-- PPS_EDGE (R28). -/
  | ppsEdge (ns : Nat)
  /-- TOCSIN (R31). -/
  | tocsin (tsel : BitVec 3)
  /-- TOCSIN_MESSAGE (R31). -/
  | tocsinMessage (level : BitVec 3)
  /-- TSLVL_WRITE (R39). -/
  | tslvlWrite (n : BitVec 3) (v : BitVec 64)
  /-- CURRENT_LIMIT_TRIP (R36). -/
  | currentLimitTrip (amps : Nat)
  /-- CURRENT_LIMIT_STEP (R36). -/
  | currentLimitStep (amps : Nat)
  /-- CURRENT_LIMIT_RESTORE (R36). -/
  | currentLimitRestore
  deriving DecidableEq, Repr

end Sys2Proof
end

