-- ==== Sys2Proof/Machine/State.lean ====
section
/-! DEFINITION. The state of the device as plain data, the reasons a step can stop, and the state after reset. -/

namespace Sys2Proof.Machine

/-- Why a step stops. -/
inductive Fault where
  /-- An instruction word is executed though no split of a resident group is issuing (State.focus is none): the model's
  own stop, raised by every instruction of a group. Safe. -/
  | noIssuer
deriving DecidableEq, Repr

/-- Why an instruction has no meaning here. -/
inductive Refusal where
  /-- Raised by an arm of exec whose instruction has no meaning yet. Safe. -/
  | notModelled (mnemonic : String)
deriving DecidableEq, Repr

/-! ## Storage of a group and its workgroup -/

/-- A register shape tag (R115). -/
inductive Tag where
  | U
  | A
  | G
deriving DecidableEq, Repr

/-- A vector register of a group: 32 lane values, one shape tag, and the poison tags of poisoned lanes by lane
(R115, R214). -/
structure Reg where
  val  : List Word
  tag  : Tag
  pois : Map PTag
deriving DecidableEq, Repr

/-- A lane value on its way: the number and its poison (R215). -/
structure Val where
  w : Word
  p : Option PTag
deriving DecidableEq, Repr

/-- An accumulator tile: 4096 cells, row-major (R262, R394); an empty list of cells is all zeros; poison by row (R214). -/
structure Tile where
  cells : List Word
  pois  : Map PTag
deriving DecidableEq, Repr

/-- A handle entry as bound by HLOAD (R144), with the fields of its kind (R162, R165). -/
structure Handle where
  base    : Nat
  limit   : Nat
  path    : Nat
  kind    : Nat
  policy  : Nat
  rr      : Bool
  rw      : Bool
  ra      : Bool
  persist : Bool
  gen     : Nat
  kinfo   : BitVec 128
deriving DecidableEq, Repr

/-- The mode of a logical bank (R87, R150). -/
inductive BankMode where
  | cache
  | scratch
  | fifo
  | log
deriving DecidableEq, Repr

/-- A logical bank of a workgroup: its mode, the physical bank it owns, and its FIFO state (R147, R149, R411): e gives
ESIZE, wp and rp are slot indices, count the slots pushed and not popped, and held the slots popped and not freed,
each with the group that holds it and whether it was popped in an open block. -/
structure Bank where
  mode  : BankMode
  phys  : Option Nat
  e     : Nat
  wp    : Nat
  rp    : Nat
  count : Nat
  held  : List (Nat × Nat × Bool)
deriving DecidableEq, Repr

/-! ## Recovery blocks -/

/-- One entry of the recovery log (R132), with the location and its pre-image. -/
inductive LogEntry where
  /-- Kinds 1 to 3: a register of group k of the workgroup, at its tag. -/
  | reg (k r : Nat) (old : Reg)
  /-- Kinds 4 and 5: a 4-byte scratchpad word of a workgroup; own says kind 4. -/
  | word (own : Bool) (w off : Nat) (old : Word) (pois : Option PTag)
  /-- Kind 6: a 128-byte line of coherent storage, by line number. -/
  | line (ln : Nat) (old : BitVec 1024) (pois : Option PTag)
  /-- Kind 7: a tile. -/
  | tile (t : Nat) (old : Tile)
  /-- Kind 8: a handle slot. -/
  | handle (h : Nat) (old : Option Handle)
  /-- Kind 9: the pointers of a FIFO bank. -/
  | fifo (b : Nat) (old : Bank)
  /-- Kind 10: a 128-byte granule of a workgroup's scratchpad, with the poison of its four sectors. -/
  | granule (w off : Nat) (old : BitVec 1024) (pois : List (Option PTag))
deriving DecidableEq, Repr

/-- What the frame keeps of one group (R132): predicates, mode, stochastic counters and the lanes active at ENSURE. -/
structure GroupFrame where
  k     : Nat
  preds : Map Lanes
  m     : BitVec 16
  srctr : Map Word
  lanes : Lanes
  /-- The fault entry, when the group runs it: its return point, code and FAULTINFO by lane. -/
  ret   : Option (Nat × Nat)
  finfo : Map Word
  /-- What the group had written and not published before the block opened (R197). -/
  pub0  : List (Option Nat × Nat)
deriving DecidableEq, Repr

/-- An open recovery block (R127 to R134). -/
structure Block where
  /-- The current terminator. -/
  term    : Nat
  /-- The cycle count of the routine, and the limit in cycles; 0 is no limit. -/
  cycles  : Nat
  limit   : Nat
  /-- Whether the workgroup is in the acceptance test. -/
  inTest  : Bool
  /-- Word offset of the ELSEERR found at the routine end. -/
  elseerr : Nat
  frames  : List GroupFrame
  /-- Entries, newest first. -/
  log     : List LogEntry
  /-- Pushes held and tiles stored to when the block opened (R164). -/
  pushes0 : Nat
  dirty0  : List Handle
deriving DecidableEq, Repr

/-! ## Splits and groups -/

/-- Where a parked split waits (R110). -/
inductive WaitAt where
  | join
  | wbar
  | gbar
  | ensure
  | term
  | accept
  | convj
deriving DecidableEq, Repr

/-- The state of a split (R109). -/
inductive SplitState where
  | live (ix : Nat)
  | ready
  | waiting (at_ : WaitAt)
  | faulted
deriving DecidableEq, Repr

/-- An instruction whose split waits until the device has finished it (R151, R374): HLOAD of entry e into slot h; BANKM of
bank b to mode m with ESIZE e, its result due in Vd for the lanes act, behind every access with an identifier below before. -/
inductive Busy where
  | hload (e h : Nat)
  | bankm (d e m b : Nat) (act : Lanes) (before : Nat)
deriving DecidableEq, Repr

/-- A split record (R108 to R112, R138), with its clause context (R268, R269). -/
structure Split where
  mask      : Lanes
  pc        : Nat
  st        : SplitState
  /-- Cycles eligible and not issued (R106). -/
  age       : Nat
  /-- Instructions issued since it last became live (R111). -/
  issued    : Nat
  /-- Return point, and whether it runs the fault entry (R124). -/
  ret       : Nat
  handler   : Bool
  fcode     : Nat
  /-- In a clause: its flags, the word after its last word, and the yield hint. -/
  inClause  : Bool
  setA      : Nat
  setB      : Nat
  clauseEnd : Nat
  yieldHint : Bool
  /-- Flags the clause start still waits for (R269 step 1). -/
  wait      : BitVec 12
  /-- Not eligible in the next cycle of its scheduler (R272). -/
  yielded   : Bool
  /-- The stall reason of its last attempt to issue (R246). -/
  stall     : Nat
  /-- The vote of a split waiting at ACCEPT; the end offset or operand of a split at ENSURE (R127, R129). -/
  arg       : Nat
  /-- The split resumes inside a clause: its clause context is taken when it next issues (R269 step 5). -/
  resume    : Bool
  /-- An HLOAD or BANKM at the split's word is not finished. -/
  busy      : Option Busy
deriving DecidableEq, Repr

/-- Where a byte of an access lies: coherent storage at a physical address, the scratchpad of a workgroup, or a
compressed line of a sparse view with its first dense byte, element width and NZ (R140, R163, R165). -/
inductive Loc where
  | mem (pa : Nat)
  | scr (w off : Nat)
  | sparse (linePa first w nz : Nat)
deriving DecidableEq, Repr

/-- Where a line that an access brings in is kept: the core cache and L2, or L2 only, and at the lowest replacement
priority or not (R140, R146). -/
inductive Keep where
  | core
  | coreLow
  | l2
  | l2Low
deriving DecidableEq, Repr

/-- One part of a lane's pending access: n bytes at byte off of the lane's value. An access has several parts only
where its bytes lie in several places (a tiled-halo access that crosses its tile's edge, R163). -/
structure Access where
  lane : Nat
  /-- The address formed under R143, and its path. -/
  addr : Nat
  path : Nat
  loc  : Loc
  off  : Nat
  n    : Nat
  keep : Keep
  /-- The bytes it stores, or the operand of an atomic, with their poison. -/
  data : Nat
  pois : Option PTag
  /-- Second operand of CAS. -/
  cmp  : Nat
deriving DecidableEq, Repr

/-- What a pending long-latency operation does when it is performed (R270). -/
inductive PendOp where
  | load (bytes : Nat) (sx : Bool)
  | watched (bytes tag : Nat)
  | store (bytes : Nat)
  | atom (op : Nat) (ty : Nat) (ret : Bool)
  | lr (bytes : Nat)
  | sc (bytes : Nat)
  | value (vals : List Val) (unit : Nat)
  | evqry (ev : Nat)
  | check (vals : List Val)
deriving DecidableEq, Repr

/-- A long-latency operation issued and not yet performed or returned (R270). -/
structure Pend where
  id    : Nat
  pc    : Nat
  op    : PendOp
  /-- First destination register, and how many. -/
  dst   : Nat
  nreg  : Nat
  lanes : Lanes
  tag   : Tag
  acc   : List Access
  flag  : Nat
  /-- The workgroup's register generation at issue (R131, R282). -/
  gen   : Nat
  acq   : Bool
  /-- The scope of an acquire or an atomic. Of a plain store one more than the widest scope at which a release has passed it, so
  that no lane of that instance reads any more what it replaces, though it is not performed yet; 0 for none (R186). -/
  scope : Nat
  /-- Whether the operation has met a debug stop and is held (R253). -/
  held  : Bool
  /-- Registers whose held write the debugger has cancelled (R254). -/
  cut   : List Nat
  /-- The tiled-halo handle through which it stores (R164). -/
  tile  : Option Handle
  /-- Event number and address hash of record and replay, and what replay delivers in place of the live result (R258). -/
  evno  : Nat
  hash  : Nat
  rep   : Option (Nat × List Word)
  /-- The address hash of its first destination byte, of one that writes memory (R258). -/
  dhash : Nat
  /-- Whether the return is to be dropped because the group retired or the gang ended (R325, R419). -/
  drop  : Bool
deriving DecidableEq, Repr

/-- The state of a watch entry (R159). -/
inductive WatchState where
  /-- Taken by an LDW whose value is not read yet. -/
  | fetching
  | pending
  | confirmed
  | struck
deriving DecidableEq, Repr

/-- A watch entry of a group (R159). -/
structure Watch where
  n     : Nat
  /-- The identifier of its LDW. -/
  id    : Nat
  tag   : Nat
  lanes : Lanes
  line  : Nat
  gen   : Nat
  ver   : Nat
  stamp : Nat
  /-- The copy used was a W copy of the core; false for the V copy of the die (R160, R367). -/
  ofW   : Bool
  st    : WatchState
  /-- Lanes already consumed by CHK (R194). -/
  used  : Lanes
deriving DecidableEq, Repr

/-- The engine operation an instruction queued (R377, R398). -/
inductive EngOp where
  | cpy (parts : List (List Access × List Access))
  | cpyb (desc dst src : Nat)
  | cpyx (scatter : Bool) (desc side list : Nat)
  | mma (chk : Bool) (slot t : Nat) (aw bw : Nat) (scales : List Val)
  | mzero (mask : Nat)
  | mld (t : Nat) (parts : List Access)
  | mst (t : Nat) (parts : List Access)
  | mstn (slot t : Nat) (parts : List Access) (scales : List Val) (sr : List Word)
  | mckv (d t : Nat) (tau : Val)
  | mckc (t : Nat) (masks : List Nat)
deriving DecidableEq, Repr

/-- An operation in a copy queue (q 0 to 4) or the matrix queue (q 5) of a group (R377, R398). -/
structure QOp where
  id      : Nat
  q       : Nat
  pc      : Nat
  op      : EngOp
  flag    : Nat
  gen     : Nat
  started : Bool
  /-- A recovery block was open at issue (R385). -/
  inBlock : Bool
  /-- Operations that must have performed first (R390). -/
  after   : List Nat
  /-- Bytes or rows done by a remote operation, and its error (R385, R386). -/
  sent    : Nat
  acked   : Nat
  rerr    : Nat
  /-- A remote operation has met poisoned data (R381, R386). -/
  met     : Bool
  /-- Bytes of a remote read that have come while the engine is held back, by their offset in the run (R243). -/
  come    : List (Nat × List Byte × Option PTag)
  /-- The Scasutal port of a peer operation (R385). -/
  port    : Nat
  /-- The descriptor's bytes, read when the operation starts (R377), and the fault that start met. -/
  bound   : Option Nat
  fcode   : Nat
  /-- The core position the operation was issued from (R258 hash address). -/
  hash    : Nat
  /-- Destination registers that the debugger has written since it was issued (R254). -/
  cut     : List Nat
deriving DecidableEq, Repr

/-- A fault of an engine operation not yet delivered (R378, R212). -/
structure Delayed where
  id   : Nat
  flag : Nat
  /-- Fault code; 0x0B is the trap of R212. -/
  code : Nat
  /-- It fails an open block with cause 9 (R385). -/
  escape : Bool
deriving DecidableEq, Repr

/-- A group of 32 lanes (R262). -/
structure Group where
  wg      : Nat
  k       : Nat
  core    : Nat
  sched   : Nat
  slot    : Nat
  /-- Registers, absent ones zero and tagged U. -/
  regs    : Map Reg
  preds   : Map Lanes
  flags   : Map Nat
  m       : BitVec 16
  srctr   : Map Word
  /-- FAULTINFO by lane, for lanes running the fault entry (R124). -/
  finfo   : Map Word
  exited  : Lanes
  splits  : List Split
  watches : List Watch
  pend    : List Pend
  ops     : List QOp
  /-- Order set by QFENCE, by queue (R390). -/
  fences  : Map (List Nat)
  /-- AR fences that stores before them have not been performed for yet: their lanes, and the first identifier after them (R180). -/
  ars     : List (Lanes × Nat)
  delayed : List Delayed
  /-- Reservations by lane: the physical line (R187). -/
  resv    : Map Nat
  /-- Stall counters C0 to C7 (R249). -/
  cnt     : Map Nat
  /-- Instructions issued since placement, event number of record and replay (R258). -/
  issued  : Nat
  evno    : Nat
  /-- The cycle of its last issue, plus 1. -/
  lastIss : Nat
  /-- An exited group whose flags are not yet zero (R325). -/
  retiring : Bool
  retired  : Bool
  /-- The group's vote at ACCEPT (R129). -/
  vote    : Option Bool
  /-- Flag decrements that replay holds back: (flag, issued count), and the event number after the last decrement of each
  flag taken from the log (R260). -/
  heldDec : List (Nat × Nat)
  decno   : Map Nat
  /-- MEMBERS read at the group's CONVJ (R334). -/
  conv    : Option Nat
  /-- What the group has written since the innermost block opened (R197): none for global storage, a workgroup for its
  scratchpad; with the widest scope at which it has been published since, 0 for none. -/
  pub     : List (Option Nat × Nat)
deriving DecidableEq, Repr

/-- A failure of a block waiting for its rollback (R130, R131). -/
structure Failing where
  cause : Nat
  /-- The cycle it came about in. -/
  clk   : Nat
  /-- How many open blocks from the innermost the failing block is: 0 the innermost. -/
  depth : Nat
  /-- The word at which the failure came about, for the closing walk (R330). -/
  pc    : Nat
  /-- The failure is a false vote at ACCEPT: the word of that ACCEPT. -/
  atAccept : Bool
deriving DecidableEq, Repr

/-- A workgroup. -/
structure Wg where
  gang    : Nat
  k       : Nat
  core    : Nat
  handles : Map Handle
  tiles   : Map Tile
  banks   : Map Bank
  /-- Logical banks of the scratchpad list, ascending (R148). -/
  list    : List Nat
  /-- Bytes of owned banks by bank × 0x20000 + offset; absent ones are 0. -/
  sram    : List Host.Cell
  /-- Poison of sectors, by address div 32 (R214). -/
  spois   : Map PTag
  blocks  : List Block
  rbcause : Nat
  latedrop : Nat
  gen     : Nat
  failing : Option Failing
  /-- The first end offset of an ENSURE being gathered (R127). -/
  ensureEnd : Option Nat
  /-- MEMBERS of the conversation the workgroup is in (R136), and the block's 64 bytes' value. -/
  conv    : Option Nat
  /-- Groups that issued CONVL and are gathered (R335). -/
  convl   : List Nat
  /-- Tiled-halo handles through which the workgroup has stored to its tile since its last push (R164). -/
  dirty   : List Handle
  /-- Pushed bytes held back by an open block: workgroup, scratchpad offset, byte and poison (R164, R216). -/
  pushes  : List (Nat × Nat × Byte × Option PTag)
  /-- Engines that have performed an operation for it, as class × 4096 + core: class 1 copy, 2 matrix (R244). -/
  served  : List Nat
  retired : Bool
deriving DecidableEq, Repr

/-- The state of a gang (R102). -/
inductive GangState where
  | placed
  | running
  | draining
  | saving
  | saved
  | retired
deriving DecidableEq, Repr

/-- A gang that has been placed at least once (R89, R102). -/
structure Gang where
  launch : Nat
  index  : Nat
  st     : GangState
  die    : Nat
  /-- Origin: row × 8 + column in the die. -/
  origin : Nat
  w      : Nat
  h      : Nat
  slot   : Option Nat
  steps  : Nat
  /-- Halted by a replay divergence; running free of the log (R261). -/
  halted : Bool
  free   : Bool
  /-- Entries of the record log used, and its overflow, divergence marks (R259). -/
  rrn    : Nat
  rrpos  : Nat
  rrovf  : Bool
  rrdiv  : Bool
  /-- HALT or the end of its launch has ended it (R419, R92). -/
  ended  : Bool
deriving DecidableEq, Repr

/-- A launch handed to the dispatcher (R69, R87). -/
structure Launch where
  queue   : Nat
  index   : Nat
  lrec    : Nat
  tag     : Nat
  cqe     : Bool
  part    : Nat
  prio    : Nat
  faulten : Bool
  codebase : Nat
  entry   : Nat
  faultoff : Nat
  aspace  : Nat
  gen     : Nat
  gx      : Nat
  gy      : Nat
  gz      : Nat
  w       : Nat
  h       : Nat
  ncopy   : Nat
  nmat    : Nat
  nepi    : Nat
  rcopy   : Nat
  rmat    : Nat
  repi    : Nat
  bankplan : Nat
  scratch : Nat
  tiles   : Nat
  htab    : Nat
  hcount  : Nat
  cyclim  : Nat
  seed    : BitVec 64
  savearea : Nat
  savestride : Nat
  saveslots : Nat
  trfilt  : BitVec 128
  /-- Dependencies: event, threshold, met (R87, R95). -/
  deps    : List (Nat × Nat × Bool)
  slots   : List (BitVec 64)
  sigev   : Nat
  sigen   : Bool
  sigadd  : Nat
  /-- First gang index never placed, and whether the launch was ended (R92). -/
  nextGang : Nat
  ended   : Option Nat
  /-- Recovery failures propagated, and the last cause (R134). -/
  rfail   : Nat
  rcause  : Nat
  rung    : Nat
  order   : Nat
deriving DecidableEq, Repr

/-! ## Coherent memory -/

/-- What the home and the owning die hold about a line (R155, R153, R158). -/
structure Line where
  version : Nat
  owner   : Option Nat
  wrap    : Bool
  /-- The owner has modified the line since it was granted. -/
  dirty   : Bool
  /-- Stamp, its WRAP flag, and the version granted, in the owning die's slice. -/
  stamp   : Nat
  swrap   : Bool
  granted : Nat
  /-- The directory's owning core: it holds the line in M, or in O when other cores of the die hold it too; without one, the
  cores that hold the line (State.mm.held) have it in S, or in E when there is one (R153). -/
  mcore   : Option Nat
  /-- The bit that a silent injection flipped in the data granted to the owner (R224). -/
  flip    : Option Nat
  /-- Address space and generation of the last writer (R171). -/
  writer  : Nat
  /-- When the home entry was last used, for the choice of R158. -/
  used    : Nat
  /-- The first identifier given after WRAP was set at the home, and after it was set in the slice (R153, R158). -/
  wrapId  : Nat
  swrapId : Nat
  /-- The poison marker of the line (R214). -/
  pois    : Option PTag
deriving DecidableEq, Repr

/-- A copy of a line that its home does not track: the die's V copy, or a core's W or R copy (R153, R155). -/
structure Copy where
  ver   : Nat
  stamp : Nat
  data  : BitVec 1024
  pois  : Option PTag
  /-- A read-only copy (state R) of path 0x2. -/
  ro    : Bool
deriving DecidableEq, Repr

/-- A translation of a 64 KB granule: physical base, store and fetch rights (R166, R167). -/
structure Trans where
  base : Nat
  w    : Bool
  x    : Bool
deriving DecidableEq, Repr

/-- The memory system. -/
structure MemSys where
  /-- The newest value of every byte of coherent storage, by physical address. -/
  bytes  : List Host.Cell
  lines  : Map Line
  /-- V copies of dies by die × 2^44 + line number. -/
  vcopy  : Map Copy
  /-- Core copies in M, O, E or S: lines a core holds of its die's owned lines, by core × 2^44 + line. -/
  held   : List Nat
  /-- The bit that a silent injection flipped in the data that filled such a copy, by the copy's key (R224). -/
  flips  : Map Nat
  /-- W and R copies of cores by core × 2^44 + line. -/
  wcopy  : Map Copy
  /-- Instruction-fetch copies of cores by core × 2^44 + line (R375). -/
  icache : Map (BitVec 1024)
  /-- Lines inserted at the lowest replacement priority, in the L2 of dies and in core caches, by the keys of copies. -/
  lowL2   : List Nat
  lowCore : List Nat
  /-- The line a core missed last on path 0x5 (R161). -/
  run    : Map Nat
  /-- Cached translations by address space × 2^36 + granule. -/
  tlb    : Map Trans
  /-- The old values of 8-byte words that writes have changed, newest first, by address / 8: what a walker may still hold of a
  table, or a core of a translation (R168). -/
  olds   : List (Nat × Nat)
  /-- How many of them were there when the ASCTL action that last completed on an address space was ordered, and when the one in
  progress was: those are used no more once it has completed (R168, R169). -/
  marks  : Map Nat
  asMark : Nat
  /-- Generation of each address space; an action in progress with its kind (R169). -/
  gens   : Map Nat
  asBusy : Option (Nat × Bool)
  /-- Failed compute dies, stacks and second-tier controllers, with the poison tag of the failure. -/
  deadDie   : Map PTag
  deadStack : Map PTag
  deadCtl   : Map PTag
  /-- Entries written to the salvage area (R171). -/
  salvaged  : Nat
deriving DecidableEq, Repr

/-! ## Host queues, events and the dispatcher -/

/-- The state of a queue (R71). -/
inductive QState where
  | disabled
  | idle
  | ready
  | held
  | waiting
  | blocked
  | stopped
  | error
deriving DecidableEq, Repr

/-- A ladder in progress on a queue (R104). -/
structure Ladder where
  top    : Nat
  hold   : Bool
  /-- 1 drain, 2 save, and when that step began. -/
  step   : Nat
  since  : Nat
  /-- The deepest rung reached so far. -/
  rung   : Nat
  /-- Packets whose kind 4 entries are due: queue, tag, index, and whether CQE was set. -/
  done   : List (Nat × Nat × Nat × Bool)
  /-- The queue is disabled when the ladder ends (R60). -/
  disable : Bool
deriving DecidableEq, Repr

/-- A command queue (R60 to R73). -/
structure Queue where
  addr   : Nat
  enable : Bool
  ring   : Nat
  size   : Nat
  part   : Nat
  prio   : Nat
  cqid   : Nat
  peer   : Bool
  rsyaddr : Nat
  rsylen : Nat
  rdidx  : Nat
  wrseen : Nat
  st     : QState
  err    : Nat
  faults : Nat
  peerdrop : Nat
  cqstall : Bool
  hold   : Bool
  rung   : Nat
  rsy    : Bool
  lane   : Option Nat
  parsed : Nat
  ladder : Option Ladder
  /-- Tag and index of a WAIT packet whose queue waits, and whether it posts. -/
  wait   : Option (Nat × Nat × Bool)
  /-- A packet copied from the ring that is not carried out yet: its ring index and its 64 bytes (R63). -/
  bound  : Option (Nat × Nat)
  /-- Kulintang has read a control block at ADDR, which it keeps up to date (R61, R72). -/
  used   : Bool
deriving DecidableEq, Repr

/-- A completion entry on its way: 128 bits but for the phase, whether it needs the next position too, and the queue it blocks. -/
structure CqItem where
  lo    : Nat
  pair  : Option Nat
  queue : Nat
deriving DecidableEq, Repr

/-- A completion queue (R78 to R80). -/
structure Cq where
  base   : Nat
  cfg    : BitVec 64
  head   : Nat
  tail   : Nat
  phase  : Bool
  coal   : BitVec 64
  p      : Nat
  first  : Nat
  items  : List CqItem
deriving DecidableEq, Repr

/-- A waiter on an event (R95): a queue's WAIT packet, with its tag and ring index and whether it posts, or dependency d of a
launch. -/
inductive WaitOwner where
  | queue (q tag ix : Nat) (post : Bool)
  | dep (l d : Nat)
deriving DecidableEq, Repr

/-- A wait entry: event, threshold, owner, partition, and its place: none in hardware, or an overflow entry (R95). -/
structure Waiter where
  n      : Nat
  event  : Nat
  thresh : Nat
  owner  : WaitOwner
  part   : Nat
  ovf    : Option Nat
  fired  : Bool
deriving DecidableEq, Repr

/-- An event update on its way to the end of a round (R94): event, operation, value, and the source of its record. -/
structure EvUpd where
  ev   : Nat
  op   : Nat
  v    : Nat
  part : Nat
  sclass : Nat
  sinst : Nat
  mask  : Bool
deriving DecidableEq, Repr

/-- Kulintang and the dispatcher. -/
structure Kul where
  queues  : Map Queue
  cqs     : Map Cq
  /-- Values of named events that are not 0 (R94). -/
  events  : Map Nat
  held    : List EvUpd
  waiters : List Waiter
  nwait   : Nat
  lastQ   : Nat
  /-- Anchor of a partition: gang key, die, origin, w, h (R101). -/
  anchors : Map (Nat × Nat × Nat × Nat × Nat)
  fails   : Map (Nat × Nat)
  nlaunch : Nat
  /-- Partitions a placement pass is due in, and when the last pass over a partition ended (R100). -/
  passes  : List Nat
  lastPass : Map Nat
  /-- Host pages of R59 kept as registers: PAT, PATSTAT. -/
  pat     : Map (BitVec 64)
  patstat : BitVec 64
  launched : Bool
deriving DecidableEq, Repr

/-- Boot and attestation (R82 to R84). -/
structure Boot where
  addr    : BitVec 64
  len     : BitVec 64
  runver  : Nat
  /-- The fused counter, when COMMIT has advanced it; none is the value of the fuses. -/
  ctr     : Option Nat
  running : Bool
  busy    : Bool
  fail    : Nat
  nonce   : List (BitVec 64)
  atdst   : BitVec 64
  atlen   : Nat
  aterr   : Bool
  atdone  : Bool
  atbusy  : Bool
  atnonce : List (BitVec 64)
  hashes  : List Byte
deriving DecidableEq, Repr

/-! ## Reliability, Peal and debug -/

/-- An error record (R220). -/
structure ErrRec where
  valid : Bool
  ovf   : Bool
  sev   : Nat
  inj   : Bool
  count : Nat
  addr  : Nat
  time  : Nat
  hold  : Bool
  unit  : Nat
  kind  : Nat
  space : Nat
  synd  : Nat
  owner : Option (Nat × Nat)
deriving DecidableEq, Repr

/-- Tabor's error records and the armed injection (R219, R223, R225). -/
structure Rel where
  /-- Records by class × 512 + slot. -/
  recs   : Map ErrRec
  /-- The record each class wrote last (R219 merge). -/
  last   : Map Nat
  counts : Map Nat
  /-- Records not yet written to memory, by class × 512 + slot. -/
  heldR  : List Nat
  scrubAt : Nat
  /-- Errors that nothing has found yet (R436). -/
  latent : List Flaw
deriving DecidableEq, Repr

/-- A Peal record that its buffer does not hold yet (R233, R242). -/
structure PRec where
  part : Nat
  ts   : Nat
  die  : Nat
  sclass : Nat
  sinst  : Nat
  kind : Nat
  payload : Nat
  /-- It has been counted as stalled (R244). -/
  stalled : Bool
deriving DecidableEq, Repr

/-- Peal (R231 to R249, R438). -/
structure Peal where
  /-- Records emitted and not written. -/
  wait    : List PRec
  /-- DROP records owed, by partition: records dropped since the last one. -/
  owed    : Map Nat
  susp    : Bool
  /-- Stall cycles, records stalled and the partition, by source (class × 4096 + instance), R244. -/
  perturb : Map (Nat × Nat × Nat)
  /-- Slot last sampled by a scheduler (R248). -/
  sampled : Map Nat
  /-- Peal time of the copy beside each die's sources, and of the package's own, 4 (R232). -/
  copies  : Map Nat
  /-- The time that every source has reported, and later reports by source (R242). -/
  all_    : Nat
  reports : Map Nat
deriving DecidableEq, Repr

/-- A debug stop of a scheduler (R252, R255). -/
structure Stop where
  cause : Nat
  time  : Nat
  quiet : Option Nat
  clock : Nat
  /-- Stall reasons before the stop of the frozen groups' live splits, by group × 4 + live index. -/
  before : Map Nat
deriving DecidableEq, Repr

/-! ## Links, time and power -/

/-- A Scasutal port (R16 to R20). -/
structure Port where
  peer    : Nat
  badpkt  : Nat
  replays : Nat
  narrow  : Bool
  ldown   : Bool
  trained : Bool
  enable  : Bool
  /-- Requests sent and not answered, oldest first: the group, its operation, and the offset and bytes of the run. -/
  open_   : List (Nat × Nat × Nat × Nat)
  /-- By direction, 1 for what the module sends: the flit that failed its CRC last and how many of its replays failed in
  succession; the flits that a running replay has still to deliver. Replays of a flit are exhausted (R16, R19). -/
  runs    : Map (Nat × Nat)
  replay  : Map Nat
  dying   : Bool
  /-- A change of width has been asked of the partner by an LCT exchange, and agreed (R19). -/
  asked   : Bool
  agreed  : Bool
deriving DecidableEq, Repr

/-- Where a Damavi packet goes: the peer's IP address, first byte lowest, and UDP port, and the UDP port it comes from (R26,
R425). -/
structure UdpTo where
  addr : BitVec 128
  udp  : BitVec 16
  src  : BitVec 16
deriving DecidableEq, Repr

/-- A packet or other thing the device has sent outside, oldest first. -/
inductive OutItem where
  /-- A Scasutal packet over a port: beat 0 and its data. -/
  | packet (port : Nat) (beat : BitVec 512) (data : List Byte)
  /-- A Damavi packet over an Ethernet port, with the UDP addressing it carries. -/
  | damavi (port : Nat) (dest : UdpTo) (hdr : BitVec 256) (data : List Byte)
  /-- A PCIe packet over the host port. -/
  | host (p : Tlp)
  /-- A PCIe packet carried in an HTN packet over a Scasutal port: beat 0 and the packet (R17). -/
  | htn (port : Nat) (beat : BitVec 512) (p : Tlp)
  /-- A port starts training (R20, R21). -/
  | train (port : Nat)
deriving DecidableEq, Repr

/-- A Damavi packet sent and not done with (R27, R385, R387). -/
structure Unacked where
  /-- The group and operation it belongs to; none for a READ-RESP. -/
  op    : Option (Nat × Nat)
  /-- Offset and bytes of the run it carries or asks for, and the bytes of a READ that have come. -/
  off   : Nat
  n     : Nat
  got   : Nat
  /-- How often it was retransmitted, and when it was sent last. -/
  tries : Nat
  at_   : Nat
  /-- An ACK has covered it (a READ goes on waiting for its bytes); when a full slot refused it. -/
  acked : Bool
  full  : Option Nat
  port  : Nat
  dest  : UdpTo
  hdr   : BitVec 256
  data  : List Byte
deriving DecidableEq, Repr

/-- The host port's configuration (R23): MSI-X table entries by vector as address, data and control word, the pending
bits, MSI-X Enable and Function Mask, the binary logarithm of the size of BAR2, D3hot, the AER status bits of uncorrectable
and of correctable errors that are set, the enables of ECRC generation and checking, device control, and the rate and the
number of lanes to which the port has trained. -/
structure Pci where
  table   : Map (BitVec 64 × BitVec 32 × BitVec 32)
  pend    : List Nat
  msixOn  : Bool
  masked  : Bool
  bar2    : Nat
  d3hot   : Bool
  aer     : BitVec 32
  aerCor  : BitVec 32
  ecrcGen : Bool
  ecrcChk : Bool
  devCtl  : BitVec 16
  rate    : Nat
  width   : Nat
deriving DecidableEq, Repr

/-- Links and network. -/
structure Links where
  ports   : Map Port
  /-- Failed bridges; bridges whose replays are exhausted; by bridge × 2, and 1 for beats from its lower die, the beat that
  failed last and how many of its replays failed in succession (R13). -/
  bridges : List Nat
  dyingB  : List Nat
  beatRun : Map (Nat × Nat)
  /-- The port over which the last HTN packet came, of a module without a host port (R17). -/
  htnPort : Option Nat
  pci     : Pci
  /-- Damavi packets sent and not acknowledged, by connection × 2^24 + PSN. -/
  unacked : Map Unacked
  holdover : Bool
  /-- The SL15_MODE strap: port 15 is the host port (R22). -/
  sl15    : Bool
  /-- The PTP second of the last TIME record (R236), and whether the last PPS mismatched (R28). -/
  ptpSec  : Nat
  pps     : Bool
  /-- The master time has been set by a PTP message; units it is still to be slewed by (R231). -/
  locked  : Bool
  slew    : Int
  /-- When the last Announce message came, and the announce interval it named, in units of 1/16 ns (R29). -/
  annAt   : Nat
  annEvery : Nat
  out     : List OutItem
deriving DecidableEq, Repr

/-- The context of a saved gang (R104, R137): its workgroups and groups. What the layout of the save area gives a place to
is read back from memory on restore. -/
structure Saved where
  wgs    : Map Wg
  groups : Map Group
deriving DecidableEq, Repr

/-- The fields of a drain record that a drain changes (R51): LEVEL, STATUS, the saved bytes of the five sections, and the
persist ranges with planned and saved bytes. -/
structure DrainRec where
  level   : Nat
  status  : Nat
  saved   : List Nat
  plist   : List (Nat × Nat × Nat)
deriving DecidableEq, Repr

/-- A drain in one of the two slots of the flash array (R48 to R52). -/
structure Drain where
  seq     : Nat
  time    : Nat
  energy  : Nat
  /-- Planned bytes of the five sections. -/
  planned : List Nat
  /-- Mode of each SRAM bank that is not in cache mode, by core × 24 + bank (R51). -/
  banks   : Map Nat
  /-- The initial record, and the final one once it is written. -/
  first   : DrainRec
  final   : Option DrainRec
  /-- Sections that the completion log has an entry for; the chunk table, by chunk index. -/
  done    : Nat
  chunks  : Map (BitVec 32)
  /-- What sections 1 to 4 save: registers, tiles and banks, resident gangs, queues and events. -/
  kept    : Saved
  gangs   : Map Gang
  kul     : Kul
  /-- Section 5: the saved bytes of persist lines by physical address, and the poison of these lines. -/
  bytes   : List Host.Cell
  pois    : Map PTag
  claimed : Bool
deriving DecidableEq, Repr

/-- What the power of the device is doing (R34, R47, R53). -/
inductive PowerState where
  | on
  | draining
  | off
deriving DecidableEq, Repr

/-- Power management (R30 to R58). -/
structure Power where
  st      : PowerState
  /-- The module's main input is present (R30, R53), and a power-on reset is due. -/
  input   : Bool
  wake    : Bool
  /-- Level and source of the order in force (R31), and whether its cap was reached (R46). -/
  level   : Nat
  src     : Nat
  met     : Bool
  /-- When the last pin order arrived (R31), and when a lowering order not yet met did (R44, R46). -/
  pinAt   : Option Nat
  pursue  : Option Nat
  /-- Stages of the grades applied, the most recent first (R41, R42). -/
  applied : List Nat
  /-- Matrix issue duty of the current limit, in eighths, and whether it is being lowered (R36). -/
  duty    : Nat
  limiting : Bool
  /-- What Tabor's sensors showed last: temperatures and rail currents (R30). -/
  temps   : List Nat
  amps    : List Nat
  /-- An order that arrived during the trap (R45), and whether the input returned during the drain (R53). -/
  ordered : Option Nat
  back    : Bool
  /-- The persist list: physical base, bytes, and the launches that hold the range (R49). -/
  persist : List (Nat × Nat × List Nat)
  /-- Drain slots A and B, the slot being written, and the one selected at power-on (R50, R54). -/
  slotA   : Option Drain
  slotB   : Option Drain
  writing : Nat
  sel     : Option Nat
  restoring : Bool
  /-- Islands a re-plan still has to handle, and those of one that Tocsin aborted (R45, R55). -/
  replan  : List Nat
  replanWait : List Nat
  /-- Power-on hours at the last timed re-plan; power-on hours last told, and the cycles that the device has been powered
  since (R57). -/
  hours   : Nat
  hoursAt : Nat × Nat
  /-- First slack at OP0 by island; margins in force, and lowered margins that wait for an empty island, by island × 8 +
  operating point, in mV (R55). -/
  slack0  : Map Nat
  margins : Map Nat
  lower   : Map Nat
deriving DecidableEq, Repr

/-- What the running step issues: the group and which of its splits. -/
structure Focus where
  g  : Nat
  ix : Nat
  /-- Why the last instruction executed for it did not issue (R246); 0 when it issued. -/
  stall : Nat
  /-- The duty limits do not withhold it: what it would do is looked at, no more. -/
  look  : Bool
deriving DecidableEq, Repr

/-- What a step is to do next (the model's own order of the device's concurrent parts). -/
inductive Turn where
  | issue (core sched : Nat)
  | event (e : Instr)
deriving DecidableEq, Repr

/-- The device. -/
structure State where
  /-- Groups by group key, workgroups, gangs and launches by theirs. -/
  groups   : Map Group
  wgs      : Map Wg
  gangs    : Map Gang
  launches : Map Launch
  /-- Contexts of saved gangs by gang key. -/
  saved    : Map Saved
  /-- Position last issued by each scheduler (R106), by core × 4 + scheduler. -/
  lastPos  : Map Nat
  /-- Engine position last served by each core (R398). -/
  engPos   : Map Nat
  /-- Stopped schedulers (R252). -/
  stops    : Map Stop
  mm       : MemSys
  kul      : Kul
  boot     : Boot
  rel      : Rel
  peal     : Peal
  links    : Links
  power    : Power
  /-- Stored fields of system registers by number (R422); absent ones hold their reset value. -/
  regs     : Map (BitVec 64)
  /-- Peal time in 1/16 ns (R231), and cycles since power-on. -/
  time     : Nat
  clk      : Nat
  /-- Cycles of 850 MHz in which the clock of a core had no edge, by core (R3, R37). -/
  skips    : Map Nat
  nextId   : Nat
  /-- The model's own: who issues, the turns still due in this cycle, and draws of free values taken. -/
  focus    : Option Focus
  agenda   : List Turn
  draws    : Nat
deriving DecidableEq, Repr

/-! ## Reset -/

/-- The memory system after reset: nothing written, no line known, no copy anywhere. -/
def MemSys.reset : MemSys :=
  { bytes := [], lines := [], vcopy := [], held := [], flips := [], wcopy := [], icache := [], lowL2 := [], lowCore := [], run := [], tlb := [],
    olds := [], marks := [], asMark := 0, gens := [], asBusy := none,
    deadDie := [], deadStack := [], deadCtl := [], salvaged := 0 }

/-- Kulintang and the dispatcher after reset: every queue disabled, every event 0. -/
def Kul.reset : Kul :=
  { queues := [], cqs := [], events := [], held := [], waiters := [], nwait := 0, lastQ := 1023, anchors := [], fails := [],
    nlaunch := 0, passes := [], lastPass := [], pat := [], patstat := 0#64, launched := false }

/-- Boot after reset: nothing loaded (R84). -/
def Boot.reset : Boot :=
  { addr := 0#64, len := 0#64, runver := 0, ctr := none, running := false, busy := false, fail := 0, nonce := [],
    atdst := 0#64, atlen := 0, aterr := false, atdone := false, atbusy := false, atnonce := [], hashes := [] }

/-- Reliability after reset: no error recorded (R219, R225). -/
def Rel.reset : Rel := { recs := [], last := [], counts := [], heldR := [], scrubAt := 0, latent := [] }

/-- Peal after reset. -/
def Peal.reset : Peal := { wait := [], owed := [], susp := false, perturb := [], sampled := [], copies := [], all_ := 0, reports := [] }

/-- The host port after reset: MSI-X off, every vector masked, BAR2 at its largest, ECRC off, payloads of at most 128 bytes,
128 GT/s and 16 lanes (log entry 129). -/
def Pci.reset : Pci :=
  { table := [], pend := [], msixOn := false, masked := false, bar2 := 39, d3hot := false, aer := 0#32,
    aerCor := 0#32, ecrcGen := false, ecrcChk := false, devCtl := 0x2810#16, rate := 7, width := 16 }

/-- Links after reset: no port trained (R20); an announce interval of 2 s until a message names one (log entry 130). -/
def Links.reset : Links :=
  { ports := [], bridges := [], dyingB := [], beatRun := [], htnPort := none, pci := Pci.reset, unacked := [], holdover := false, sl15 := false, ptpSec := 0, pps := false, locked := false, slew := 0,
    annAt := 0, annEvery := 32000000000, out := [] }

/-- Power after reset: level L0, no grade applied, nothing drained (R39, R46). -/
def Power.reset : Power :=
  { st := .on, input := true, wake := false, level := 0, src := 0, met := true, pinAt := none, pursue := none, applied := [],
    duty := 8, limiting := false, temps := [], amps := [], ordered := none, back := false, persist := [], slotA := none, slotB := none, writing := 0,
    sel := none, restoring := false, replan := [], replanWait := [], hours := 0, hoursAt := (0, 0), slack0 := [], margins := [], lower := [] }

/-- THE MACHINE RIGHT AFTER RESET (R20, R39, R46, R60, R71, R78, R84, R94, R142, R422): no launch, no group, memory with
nothing listed; registers that are not listed hold the values of Machine.regReset. -/
def State.reset : State :=
  { groups := [], wgs := [], gangs := [], launches := [], saved := [], lastPos := [], engPos := [], stops := [], mm := MemSys.reset,
    kul := Kul.reset, boot := Boot.reset, rel := Rel.reset, peal := Peal.reset, links := Links.reset,
    power := Power.reset, regs := [], time := 0, clk := 0, skips := [], nextId := 0, focus := none, agenda := [], draws := 0 }

end Sys2Proof.Machine
end

