-- ==== Sys2Proof/Machine/Mem.lean ====
section
/-! DEFINITION. Bytes of coherent storage in their canonical form, where an address lies (R11, R142, R161), system
register fields, and writes of the device's own units. -/

namespace Sys2Proof.Machine

/-! ## Bytes -/

/-- The byte at address a; an address that is not listed reads as 0 (assumption 1). -/
def memGet : List Host.Cell → Nat → Byte
  | [], _ => 0#8
  | (k, v) :: r, a => if a = k then v else if a < k then 0#8 else memGet r a

/-- Writes the byte b at address a, keeping addresses rising and listing no byte 0. -/
def memPut : List Host.Cell → Nat → Byte → List Host.Cell
  | [], a, b => if b = 0#8 then [] else [(a, b)]
  | (k, v) :: r, a, b =>
    if a < k then (if b = 0#8 then (k, v) :: r else (a, b) :: (k, v) :: r)
    else if a = k then (if b = 0#8 then r else (a, b) :: r)
    else (k, v) :: memPut r a b

/-- The canonical form: addresses strictly rising, and no entry equal to what an unlisted address reads as. -/
def Memory.wf : List Host.Cell → Bool
  | [] => true
  | [(_, v)] => v != 0#8
  | (k, v) :: (k', v') :: r => v != 0#8 && decide (k < k') && Memory.wf ((k', v') :: r)

/-- Writes bytes from address a upwards. -/
def memPutL : List Host.Cell → Nat → List Byte → List Host.Cell
  | m, _, [] => m
  | m, a, b :: r => memPutL (memPut m a b) (a + 1) r

/-- n bytes from address a. -/
def memGetL (m : List Host.Cell) (a : Nat) : Nat → List Byte
  | 0 => []
  | n + 1 => memGet m a :: memGetL m (a + 1) n

/-- n bytes from address a as a number, least significant first (R1). -/
def memRead (m : List Host.Cell) (a n : Nat) : Nat := ofBytesLE (memGetL m a n)

/-- Takes away every byte in [lo, hi). -/
def memClear (m : List Host.Cell) (lo hi : Nat) : List Host.Cell := m.filter (fun c => c.1 < lo || hi ≤ c.1)

/-- One byte of coherent storage. -/
def State.byteAt (s : State) (pa : Nat) : Byte := memGet s.mm.bytes pa

/-- n bytes of coherent storage as a number. -/
def State.readN (s : State) (pa n : Nat) : Nat := memRead s.mm.bytes pa n

/-- Replaces the memory system. -/
def State.setMM (s : State) (m : MemSys) : State := { s with mm := m }

/-- The 8-byte words from pa whose values differ between two memories, with the values of the first (R168). -/
def changedWords (old new : List Host.Cell) (pa n : Nat) : List (Nat × Nat) :=
  (upto ((pa + n + 7) / 8 - pa / 8)).filterMap (fun i =>
    let w := pa / 8 + i
    let v := memRead old (8 * w) 8
    if v = memRead new (8 * w) 8 then none else some (w, v))

/-- Writes bytes of coherent storage; the words changed may still be held as they were by what caches tables (R168). -/
def State.putBytes (s : State) (pa : Nat) (bs : List Byte) : State :=
  let m := memPutL s.mm.bytes pa bs
  s.setMM { s.mm with bytes := m, olds := changedWords s.mm.bytes m pa bs.length ++ s.mm.olds }

/-- The 128 bytes of a line. -/
def State.lineData (s : State) (ln : Nat) : BitVec 1024 := BitVec.ofNat 1024 (s.readN (ln * 128) 128)

/-! ## Where an address lies -/

/-- Stacked DRAM proper (R142). -/
def inDram (pa : Nat) : Bool := pa < 0x7FFE000000

/-- A wait-entry overflow area (R95, R142). -/
def inOvf (pa : Nat) : Bool := 0x7FFE000000 ≤ pa && pa < 0x8000000000

/-- All stacked DRAM, overflow areas included. -/
def inStack (pa : Nat) : Bool := pa < 0x8000000000

/-- The second tier that translation reaches (R142). -/
def inTier2 (pa : Nat) : Bool := 0x100000000000 ≤ pa && pa < 0x15FF00000000

/-- The salvage area (R142). -/
def inSalvage (pa : Nat) : Bool := 0x15FF00000000 ≤ pa && pa < 0x160000000000

/-- A physical address with memory behind it (R142). -/
def paExists (pa : Nat) : Bool := inStack pa || inTier2 pa || inSalvage pa

/-- A physical address that translation may reach (R142). -/
def paReachable (pa : Nat) : Bool := inDram pa || inTier2 pa

/-- The stack that holds a stacked DRAM address (R11). -/
def stackOf (pa : Nat) : Nat := (nbits pa 14 12) ^^^ (nbits pa 23 21) ^^^ (nbits pa 32 30)

/-- The channel of a second-tier address (R161). -/
def channelOf (pa : Nat) : Nat := (pa - 0x100000000000) / 4096 % 24

/-- The home of a line: stacks 0 to 7, second-tier controllers 8 and 9 (R155, R161). -/
def homeOf (pa : Nat) : Nat := if inStack pa then stackOf pa else if channelOf pa < 12 then 8 else 9

/-- The unit class of a home's poison (R213). -/
def homeClass (pa : Nat) : Nat := if inStack pa then 0 else 1

/-- The tag of a failed home's addresses, when the home of pa has failed (R229, R230). -/
def State.deadHome (s : State) (pa : Nat) : Option PTag :=
  if inStack pa then mget? s.mm.deadStack (stackOf pa)
  else if inTier2 pa || inSalvage pa then mget? s.mm.deadCtl (if channelOf pa < 12 then 0 else 1)
  else none

/-- The line record of a line nobody has touched: version 0, no owner, clean (assumption 2). -/
def Line.fresh : Line :=
  { version := 0, owner := none, wrap := false, dirty := false, stamp := 0, swrap := false, granted := 0,
    mcore := none, flip := none, writer := 0, used := 0, wrapId := 0, swrapId := 0, pois := none }

/-- The record of line ln. -/
def State.line (s : State) (ln : Nat) : Line := mgetD s.mm.lines ln Line.fresh

/-- Sets the record of line ln. -/
def State.setLine (s : State) (ln : Nat) (x : Line) : State :=
  s.setMM { s.mm with lines := if x = Line.fresh then mdel s.mm.lines ln else mput s.mm.lines ln x }

/-- Changes the record of line ln. -/
def State.updLine (s : State) (ln : Nat) (f : Line → Line) : State := s.setLine ln (f (s.line ln))

/-- The poison of a line: its marker, or the tag of its failed home (R214, R229). -/
def State.linePois (s : State) (ln : Nat) : Option PTag :=
  match s.deadHome (ln * 128) with
  | some t => some t
  | none => (s.line ln).pois

/-- Keys of copies by die or core. -/
def copyKey (who ln : Nat) : Nat := who * 2 ^ 44 + ln

/-- Drops every copy of line ln that a home does not track: V copies of dies, and with them the W and R copies of their cores,
which the L2 includes (R152, R153, R158). -/
def State.dropCopies (s : State) (ln : Nat) : State :=
  s.setMM { s.mm with
    vcopy := s.mm.vcopy.filter (fun e => e.1 % 2 ^ 44 != ln)
    wcopy := s.mm.wcopy.filter (fun e => e.1 % 2 ^ 44 != ln) }

/-- The home advances the version of a line by one; at the wrap every die is ordered to drop its copies (R155, R158). -/
def State.bumpVersion (s : State) (ln : Nat) : State :=
  let x := s.line ln
  if x.version = 0xFFFF then (s.setLine ln { x with version := 0, wrap := true, wrapId := s.nextId }).dropCopies ln
  else s.setLine ln { x with version := x.version + 1 }

/-- The lines a reservation set holds (R187): value is sequence × 2^44 + line. -/
def resvLine (v : Nat) : Nat := v % 2 ^ 44

/-- A write to line ln ends every reservation on it (R187). -/
def State.loseResv (s : State) (ln : Nat) : State :=
  if s.groups.any (fun e => e.2.resv.any (fun r => resvLine r.2 == ln)) then
    { s with groups := mmap s.groups (fun _ g => { g with resv := g.resv.filter (fun r => resvLine r.2 != ln) }) }
  else s

/-! ## System register fields -/

/-- The reset value of the stored fields of register n (R422). -/
def regReset (n : Nat) : BitVec 64 :=
  if 0x40 ≤ n ∧ n ≤ 0x4F then BitVec.ofNat 64 (0xF * 2 ^ 60 + 0x1000 * 2 ^ 32 + (n - 0x40) * 0x1000)
  else if 0x100 ≤ n ∧ n ≤ 0x1BF then 0x10#64
  else if n = 0x1E then 100#64
  else if n = 0x1F then 500#64
  else if n = 0x28 then BitVec.ofNat 64 (24 * 2 ^ 32 + 1)
  else if n = 0x30 then 0xB1A8#64
  else if n = 0x36 then 0xFFF#64
  else if 0x10 ≤ n ∧ n ≤ 0x17 then BitVec.ofNat 64 (0x110000 + 2000 - 200 * (n - 0x10))
  else if 0x200 ≤ n ∧ n ≤ 0x2FF then 0xA0000#64
  else 0#64

/-- The stored fields of register n. -/
def State.reg (s : State) (n : Nat) : BitVec 64 := mgetD s.regs n (regReset n)

/-- Stores the fields of register n. -/
def State.setReg (s : State) (n : Nat) (v : BitVec 64) : State := { s with regs := mput s.regs n v }

/-- Bits [hi:lo] of register n. -/
def State.fld (s : State) (n hi lo : Nat) : Nat := b64 (s.reg n) hi lo

/-- v with bits [hi:lo] replaced by x. -/
def setBits (v : BitVec 64) (hi lo x : Nat) : BitVec 64 :=
  BitVec.ofNat 64 (v.toNat - nbits v.toNat hi lo * 2 ^ lo + x % 2 ^ (hi + 1 - lo) * 2 ^ lo)

/-- Stores x in bits [hi:lo] of register n. -/
def State.setFld (s : State) (n hi lo x : Nat) : State := s.setReg n (setBits (s.reg n) hi lo x)

/-! ## Errors that lie in the hardware until they are found (R208, R436) -/

/-- The error at a place, if there is one. -/
def State.flaw (s : State) (p : FlawAt) : Option Flaw := s.rel.latent.find? (fun f => f.at_ == p)

/-- Takes the errors away whose places p names: found, or replaced by a write of clean data (R436). -/
def State.dropFlaws (s : State) (p : FlawAt → Bool) : State :=
  if s.rel.latent.isEmpty then s
  else { s with rel := { s.rel with latent := s.rel.latent.filter (fun f => !p f.at_) } }

/-! ## Writes and reads of the device's own units -/

/-- Flips one bit of the stored line. -/
def State.flipBit (s : State) (ln b : Nat) : State :=
  let a := ln * 128 + b / 8
  s.putBytes a [s.byteAt a ^^^ (1#8 <<< (b % 8))]

/-- Takes ownership of a line back from the die that has it, for a home access; true when it was modified. The data
are already in storage. The recalled die keeps V at the version the home assigns (R155, R157). -/
def State.takeBack (s : State) (ln : Nat) : State × Option Nat × Bool :=
  let x := s.line ln
  match x.owner with
  | none => (s, none, false)
  | some d =>
    let s := match x.flip, x.dirty with
      | some b, false => s.flipBit ln b
      | _, _ => s
    let s := s.setLine ln { x with
      owner := none, dirty := false, stamp := 0, swrap := false, granted := 0, mcore := none, flip := none }
    let s := s.setMM { s.mm with
      held := s.mm.held.filter (fun k => k % 2 ^ 44 != ln)
      flips := s.mm.flips.filter (fun e => e.1 % 2 ^ 44 != ln)
      wcopy := s.mm.wcopy.filter (fun e => e.1 % 2 ^ 44 != ln || e.2.ro || (e.1 / 2 ^ 44) / 48 != d) }
    (s, some d, x.dirty)

/-- Line ln leaves the L2 of die d, which does not own it: no core of the die keeps a copy (R152). -/
def State.dropDie (s : State) (d ln : Nat) : State :=
  s.setMM { s.mm with
    vcopy := mdel s.mm.vcopy (copyKey d ln)
    wcopy := s.mm.wcopy.filter (fun e => !(e.1 % 2 ^ 44 == ln && (e.1 / 2 ^ 44) / 48 == d)) }

/-- A V copy of the current value and version of line ln on die d (R155). -/
def State.keepV (s : State) (d ln : Nat) : State :=
  let c : Copy :=
    { ver := (s.line ln).version, stamp := 0, data := s.lineData ln, pois := s.linePois ln, ro := false }
  s.setMM { s.mm with vcopy := mput s.mm.vcopy (copyKey d ln) c }

/-- The part of the bytes bs at pa that lies in line ln. -/
def inLine (pa : Nat) (bs : List Byte) (ln : Nat) : List Byte :=
  let lo := ln * 128 - pa
  (bs.drop lo).take (if pa < ln * 128 then 128 else (ln + 1) * 128 - pa)

/-- The lines an access of n bytes at pa touches. -/
def linesOf (pa n : Nat) : List Nat := (List.range ((pa + n + 127) / 128 - pa / 128)).map (fun i => pa / 128 + i)

/-- A write at the home of part of one line, not from a die: the owner is recalled, the data merged, and the version
advances exactly once (R155); a write of the whole line with clean data clears its poison, any other leaves or adds it
(R214, R216); reservations on the line are lost. -/
def State.homeWriteLine (s : State) (pa : Nat) (bs : List Byte) (pois : Option PTag) : State :=
  let ln := pa / 128
  match s.deadHome pa with
  | some _ => s
  | none =>
    let (s, d, _) := s.takeBack ln
    let s := match d with
      | some d => s.keepV d ln
      | none => s
    let s := s.putBytes pa bs
    let s := s.updLine ln (fun x => { x with pois := if bs.length = 128 && pois.isNone then none else tagMin pois x.pois, writer := 0 })
    let s := if bs.length = 128 && pois.isNone then s.dropFlaws (· == .array ln) else s
    (s.bumpVersion ln).loseResv ln

/-- A write at the home of bytes over any lines (R155). -/
def State.homeWrite (s : State) (pa : Nat) (bs : List Byte) (pois : Option PTag) : State :=
  (linesOf pa bs.length).foldl (fun s ln => s.homeWriteLine (max pa (ln * 128)) (inLine pa bs ln) pois) s

/-- Whether any line of the range is poisoned. -/
def State.anyPois (s : State) (pa n : Nat) : Option PTag := tagMinL ((linesOf pa n).map s.linePois)

/-! ## Small state updates -/

/-- Changes a group. -/
def State.updGroup (s : State) (g : Nat) (f : Group → Group) : State := { s with groups := mupd s.groups g f }

/-- Changes a workgroup. -/
def State.updWg (s : State) (w : Nat) (f : Wg → Wg) : State := { s with wgs := mupd s.wgs w f }

/-- Changes a gang. -/
def State.updGang (s : State) (g : Nat) (f : Gang → Gang) : State := { s with gangs := mupd s.gangs g f }

/-- Changes a launch. -/
def State.updLaunch (s : State) (l : Nat) (f : Launch → Launch) : State := { s with launches := mupd s.launches l f }

/-- A fresh identifier. -/
def State.takeId (s : State) : Nat × State := (s.nextId, { s with nextId := s.nextId + 1 })

/-- Takes n draws of free values. -/
def State.draw (s : State) (n : Nat) : State := { s with draws := s.draws + n }

/-- Sends something outside. -/
def State.send (s : State) (o : OutItem) : State := { s with links := { s.links with out := s.links.out ++ [o] } }

/-- Keys: a gang's from its launch and index, a workgroup's from its gang, a group's from its workgroup. -/
def gangKey (l g : Nat) : Nat := l * 2 ^ 48 + g
def wgKey (g k : Nat) : Nat := g * 32 + k
def groupKey (w n : Nat) : Nat := w * 32 + n
def launchKey (q ix : Nat) : Nat := q * 2 ^ 32 + ix

end Sys2Proof.Machine
end

