-- ==== Sys2Proof/Machine/Trace.lean ====
section
/-! DEFINITION. What the units report: Peal records (R231 to R245, R438), error records (R219 to R222), messages to the host
(R23, R80), and what a queue and a completion entry are (R60, R79). -/

namespace Sys2Proof.Machine

/-! ## Peal -/

/-- System register numbers of partition p's Peal registers (R422). -/
def nPCTL (p : Nat) : Nat := 0x300 + p
def nPBUF (p : Nat) : Nat := 0x310 + p
def nPPTR (p : Nat) : Nat := 0x320 + p
def nPSTAT (p : Nat) : Nat := 0x330 + p
def nPCNT (p : Nat) : Nat := 0x340 + p

/-- PCTL fields (R239). -/
def State.pealOn (s : State) (p : Nat) : Bool := s.fld (nPCTL p) 0 0 == 1
def State.pealDev (s : State) (p : Nat) : Bool := s.fld (nPCTL p) 2 2 == 1
def State.pealQ (s : State) (p : Nat) : Bool := s.fld (nPCTL p) 4 4 == 1

/-- Lossless mode in force in partition p (R241). -/
def State.effLL (s : State) (p : Nat) : Bool := s.fld (nPCTL p) 1 1 == 1 && !s.peal.susp

/-- The ring size of partition p's buffer in records (R240). -/
def State.pealE (s : State) (p : Nat) : Nat := 2 ^ (s.fld (nPBUF p) 4 0 + 8)

/-- The buffer of partition p is full (R240). -/
def State.pealFull (s : State) (p : Nat) : Bool :=
  (s.fld (nPPTR p) 31 0 + 2 ^ 32 - s.fld (nPPTR p) 63 32) % 2 ^ 32 == s.pealE p

/-- The order of R242: time stamp, die, class, instance. -/
def PRec.before (a b : PRec) : Bool :=
  a.ts < b.ts || (a.ts == b.ts && (a.die < b.die || (a.die == b.die && (a.sclass < b.sclass ||
    (a.sclass == b.sclass && a.sinst ≤ b.sinst)))))

/-- Puts a record behind those that R242 writes before it. -/
def pealInsert (r : PRec) : List PRec → List PRec
  | [] => [r]
  | x :: xs => if x.before r then x :: pealInsert r xs else r :: x :: xs

/-- Peal time of the copy beside the sources of a die; 4 is the package's (R232, R234). -/
def State.copyTime (s : State) (die : Nat) : Nat := mgetD s.peal.copies die s.time

/-- The copies of Peal time after a master time of t: each within 32 units of it, and none goes back (R232). -/
def State.copyTimes (s : State) (t : Nat) : Map Nat :=
  (upto 5).map (fun d => (d, max (s.copyTime d) (min (t + 32) (t - 32 + Config.freeNat (s.draws + d) % 65))))

/-- Offers a record to partition p's buffer when the partition's Peal is on (R237). -/
def State.emitTo (s : State) (p die sclass sinst kind payload : Nat) : State :=
  let r : PRec :=
    { part := p, ts := s.copyTime die, die := die, sclass := sclass, sinst := sinst, kind := kind, payload := payload,
      stalled := false }
  if s.pealOn p then { s with peal := { s.peal with wait := pealInsert r s.peal.wait } } else s

/-- The 128 bits of a record (R233). -/
def PRec.bits (r : PRec) : Nat :=
  r.ts % 2 ^ 48 * 2 ^ 80 + r.sclass % 256 * 2 ^ 72 + r.sinst % 4096 * 2 ^ 60 + r.kind % 64 * 2 ^ 54
    + r.part % 16 * 2 ^ 50 + r.payload % 2 ^ 50

/-- A source of partition p is held back: its latch keeps a record that a full buffer cannot take; PERTURB records have a
place of their own (R243, R244). -/
def State.latched (s : State) (p sclass sinst : Nat) : Bool :=
  s.effLL p && s.pealFull p &&
    s.peal.wait.any (fun r => r.part == p && r.sclass == sclass && r.sinst == sinst && r.kind != 0x03)

/-- Offers a device record to every partition with DEVREC (R237). -/
def State.emitDev (s : State) (sclass sinst kind payload : Nat) : State :=
  (upto 16).foldl (fun s p => if s.pealDev p then s.emitTo p 4 sclass sinst kind payload else s) s

/-- Offers a queue-level record (R237). -/
def State.emitQ (s : State) (p sinst kind payload : Nat) : State :=
  if s.pealQ p then s.emitTo p 4 4 sinst kind payload else s

/-- The launch's KINDMASK has bit kind (R238). -/
def Launch.traces (l : Launch) (kind : Nat) : Bool := l.trfilt.getLsbD kind

/-- Offers a record of a launch (R237). -/
def State.emitL (s : State) (l : Launch) (die sclass sinst kind payload : Nat) : State :=
  if l.traces kind then s.emitTo l.part die sclass sinst kind payload else s

/-- The PTP second of the master time. -/
def State.second (s : State) : Nat := s.time / 16000000000

/-! ## Messages and completion entries -/

/-- Beat 0 of a Scasutal packet to device d (R17); the source is stamped by the receiver. -/
def beat0 (kind d rest : Nat) : BitVec 512 := BitVec.ofNat 512 (kind % 256 + d % 4096 * 2 ^ 8 + rest * 2 ^ 32)

/-- Sends a PCIe packet to the host: over the module's own host port, or as an HTN packet to the partner over whose port
the host's packets come (R17, R21, log entry 131); nowhere before one has come. -/
def State.toHost (s : State) (p : Tlp) : State :=
  if s.links.sl15 then s.send (.host p)
  else match s.links.htnPort with
    | some n => s.send (.htn n (beat0 6 (match mget? s.links.ports n with
        | some x => x.peer
        | none => 0xFFF) 0) p)
    | none => s

/-- Replaces the host port's configuration. -/
def State.setPci (s : State) (p : Pci) : State := { s with links := { s.links with pci := p } }

/-- The table entry of a vector that nothing has written: masked (R23, log entry 129). -/
def Pci.vector (p : Pci) (n : Nat) : BitVec 64 × BitVec 32 × BitVec 32 := mgetD p.table n (0#64, 0#32, 1#32)

/-- A vector cannot send: MSI-X is off, the function is masked or in D3hot, or the vector is masked (R23, R80). -/
def Pci.holds (p : Pci) (n : Nat) : Bool := !p.msixOn || p.masked || p.d3hot || (p.vector n).2.2.getLsbD 0

/-- The MSI-X message of a vector (R23). -/
def Pci.message (p : Pci) (n : Nat) : Tlp := .msix n (p.vector n).1 (p.vector n).2.1

/-- Sends the MSI-X message of a vector, or sets its pending bit (R80). -/
def State.interrupt (s : State) (n : Nat) : State :=
  let p := s.links.pci
  if p.holds n then s.setPci { p with pend := if p.pend.contains n then p.pend else insertBy (fun x => x) n p.pend }
  else s.toHost (p.message n)

/-- The queue of number q, disabled and all zero until enabled (R60). -/
def Queue.fresh : Queue :=
  { addr := 0, enable := false, ring := 0, size := 0, part := 0, prio := 0, cqid := 0, peer := false, rsyaddr := 0,
    rsylen := 0, rdidx := 0, wrseen := 0, st := .disabled, err := 0, faults := 0, peerdrop := 0, cqstall := false,
    hold := false, rung := 0, rsy := false, lane := none, parsed := 0, ladder := none, wait := none, bound := none, used := false }

def State.queue (s : State) (q : Nat) : Queue := mgetD s.kul.queues q Queue.fresh

/-! ## Error records -/

/-- A record slot nothing has written. -/
def ErrRec.fresh : ErrRec :=
  { valid := false, ovf := false, sev := 0, inj := false, count := 0, addr := 0, time := 0, hold := false, unit := 0,
    kind := 0, space := 0, synd := 0, owner := none }

def State.rec_ (s : State) (i : Nat) : ErrRec := mgetD s.rel.recs i ErrRec.fresh

/-- The eight bytes of HEAD (R220). -/
def ErrRec.head (r : ErrRec) (i : Nat) : Nat :=
  b2n r.valid + b2n r.ovf * 2 + r.sev % 8 * 4 + i / 512 % 8 * 32 + i % 512 * 256 + b2n r.inj * 2 ^ 17
    + min r.count 0xFFFFFFFF * 2 ^ 32

/-- The 64 bytes of a record (R220). -/
def ErrRec.bits (r : ErrRec) (i : Nat) : Nat :=
  r.head i + r.addr % 2 ^ 64 * 2 ^ 64 + (r.time % 2 ^ 48 + b2n r.hold * 2 ^ 63) * 2 ^ 128
    + r.unit % 65536 * 2 ^ 192 + r.kind % 256 * 2 ^ 224 + r.space % 2 ^ 20 * 2 ^ 256 + r.synd % 2 ^ 32 * 2 ^ 288
    + (match r.owner with
      | some (q, g) => (q % 1024 + g % 2 ^ 18 * 2 ^ 10 + 2 ^ 31) * 2 ^ 320
      | none => 0)

/-- Writes record i to memory when ERRBASE is enabled, and otherwise keeps it held (R219); the recall of this write fires no
injection (log entry 176). -/
def State.recStore (s : State) (i : Nat) : State :=
  if s.fld 0x23 0 0 = 1 then
    let s := s.homeWrite (s.fld 0x23 44 18 * 2 ^ 18 + i * 64) (bytesLE 64 ((s.rec_ i).bits i)) none
    { s with rel := { s.rel with heldR := s.rel.heldR.filter (· != i) } }
  else if s.rel.heldR.contains i then s
  else { s with rel := { s.rel with heldR := s.rel.heldR ++ [i] } }

/-- Sets record i and the record its class wrote last. -/
def State.setRec (s : State) (i : Nat) (r : ErrRec) : State :=
  { s with rel := { s.rel with recs := mput s.rel.recs i r, last := mput s.rel.last (i / 512) i } }

/-- Counts an event of a class (R219, R81). -/
def State.countErr (s : State) (c : Nat) : State :=
  { s with rel := { s.rel with counts := mput s.rel.counts c (satAdd 0xFFFFFFFF (mgetD s.rel.counts c 0) 1) } }

/-- The slot a new event of class c takes: the lowest free of 0 to 510, or 511; before ERRBASE is enabled only 32
records in slots 0 to 510 are held (R219). -/
def State.newSlot (s : State) (c : Nat) : Nat :=
  let inUse := (s.rel.heldR.filter (fun i => i % 512 != 511)).length
  if s.fld 0x23 0 0 = 0 ∧ 32 ≤ inUse then 511
  else ((upto 511).find? (fun k => !(s.rec_ (c * 512 + k)).valid)).getD 511

/-- The ERROR record of Peal (R235 kind 0x18), to the owner's partition when there is one (R237). -/
def State.emitErr (s : State) (i kind sev : Nat) (merge : Bool) (owner : Option (Nat × Nat)) : State :=
  let pl := i / 512 % 8 + i % 512 * 8 + kind % 256 * 2 ^ 12 + sev % 8 * 2 ^ 20 + b2n merge * 2 ^ 23
  match owner with
  | some (q, _) =>
    let p := (s.queue q).part
    if s.pealDev p then s.emitTo p 4 5 0 0x18 pl else s
  | none => s.emitDev 5 0 0x18 pl

/-- Sends the message of a record of severity sev that has just been written to memory (R222). -/
def State.errMessage (s : State) (sev : Nat) : State :=
  if s.fld 0x23 0 0 = 1 && s.fld 0x24 15 15 = 1 && nbit (s.fld 0x24 20 16) sev then s.interrupt (s.fld 0x24 10 0) else s

/-- Records an error event (R219): merges it, takes a slot, or overflows to slot 511; returns the slot. -/
def State.record (s : State) (cls kind sev : Nat) (inj : Bool) (addr unit space synd : Nat)
    (owner : Option (Nat × Nat)) : Nat × State :=
  let s := s.countErr cls
  let same (i : Nat) : Bool :=
    let r := s.rec_ i
    r.valid && r.kind == kind && r.unit == unit && r.addr == addr && r.sev == 0
  match mget? s.rel.last cls with
  | some i =>
    if sev = 0 && same i then
      let r := s.rec_ i
      let s := s.setRec i { r with count := satAdd 0xFFFFFFFF r.count 1 }
      (i % 512, (s.recStore i).emitErr i kind sev true owner)
    else go s (s.newSlot cls)
  | none => go s (s.newSlot cls)
where
  go (s : State) (k : Nat) : Nat × State :=
    let i := cls * 512 + k
    let old := s.rec_ i
    let r : ErrRec :=
      { valid := true, ovf := k == 511, sev := sev, inj := inj, count := 1, addr := addr, time := s.time,
        hold := s.links.holdover, unit := unit, kind := kind, space := space, synd := synd, owner := owner }
    let r := if k = 511 && old.valid then { old with ovf := true, count := satAdd 0xFFFFFFFF old.count 1 } else r
    let s := ((s.setRec i r).recStore i).errMessage sev
    (k, s.emitErr i kind sev false owner)

/-- The poison tag of a class and slot (R213). -/
def mkTag (cls slot : Nat) : PTag := BitVec.ofNat 12 (cls * 512 + slot)

/-! ## Errors that lie in the hardware until they are found (R208, R436) -/

/-- An error is found at a place whose unit reports class cls (R208): one that the check corrects is recorded as kind 0x01;
any other is recorded as kind 0x02, and its poison tag is answered (log entry 139). -/
def State.findFlaw (s : State) (p : FlawAt) (cls unit addr space : Nat) (owner : Option (Nat × Nat)) :
    Option PTag × State :=
  match s.flaw p with
  | none => (none, s)
  | some f =>
    let s := s.dropFlaws (· == p)
    if f.fixed then (none, (s.record cls 0x01 0 false addr unit space f.synd owner).2)
    else
      let (k, s) := s.record cls 0x02 1 false addr unit space f.synd owner
      (some (mkTag cls k), s)

end Sys2Proof.Machine
end

