-- ==== Sys2Proof/Machine/Coherence.lean ====
section
/-! DEFINITION. Coherence: dies, cores, homes, versions and stamps (R152 to R158), the one-shot injection (R224),
strikes of watch entries (R159, R160) and reservations (R187). The newest value of every line stands in State.mm.bytes;
copies that a home does not track hold the value they were filled with. -/

namespace Sys2Proof.Machine

/-! ## Units -/

/-- The slice of a line within a die (R152). -/
def sliceOf (pa : Nat) : Nat := (nbits pa 11 7) ^^^ (nbits pa 16 12) ^^^ (nbits pa 21 17)

/-- UNIT of a home (R437). -/
def homeUnit (pa : Nat) : Nat :=
  if inStack pa then 240 + stackOf pa else (if channelOf pa < 12 then 254 else 255) + channelOf pa * 256

/-- UNIT of a slice of a die (R437). -/
def sliceUnit (die pa : Nat) : Nat := 192 + die * 8 + sliceOf pa / 4 + sliceOf pa * 256

/-- The core cache may take the line; the line goes in at the lowest replacement priority (R140, R146). -/
def Keep.inCore : Keep → Bool
  | .core | .coreLow => true
  | _ => false
def Keep.low : Keep → Bool
  | .coreLow | .l2Low => true
  | _ => false

/-! ## Strikes -/

/-- Marks entry n of group g struck and offers its STRIKE record (R160, R235). -/
def State.strike (s : State) (g n cause : Nat) : State :=
  match mget? s.groups g with
  | none => s
  | some gr =>
    match gr.watches.find? (fun w => w.n == n && w.st == .pending) with
    | none => s
    | some w =>
      let s := s.updGroup g (fun x =>
        { x with watches := x.watches.map (fun v => if v.n = n then { v with st := .struck } else v) })
      match mget? s.wgs gr.wg with
      | none => s
      | some wg => match mget? s.gangs wg.gang with
        | none => s
        | some gg => match mget? s.launches gg.launch with
          | none => s
          | some l =>
            s.emitL l (gr.core / 48) 0 (gr.core * 4 + gr.sched) 0x0E
              (w.lanes.toNat + w.tag * 2 ^ 32 + gr.slot * 2 ^ 35 + cause * 2 ^ 39)

/-- Strikes every pending entry on line ln of the groups that p names (R158, R226). -/
def State.strikeLine (s : State) (ln cause : Nat) (p : Group → Bool) : State :=
  s.groups.foldl (fun s e =>
    if p e.2 then
      (e.2.watches.filter (fun w => w.line == ln && w.st == .pending)).foldl (fun s w => s.strike e.1 w.n cause) s
    else s) s

/-- A line has a pending watch somewhere. -/
def State.watched (s : State) (ln : Nat) : Bool :=
  s.groups.any (fun e => e.2.watches.any (fun w => w.line == ln && w.st == .pending))

/-- Strikes every pending entry on a line; which cause the record gives is left open (log entry 19). -/
def State.strikeLost (s : State) (ln : Nat) : State :=
  (s.strikeLine ln (Config.freeNat s.draws % 7) (fun _ => true)).draw 1

/-! ## Errors found in caches, directories, arrays and on the network (R208, R226, R227, R436) -/

/-- The line in the L2 of die d is read: an error that the check does not correct poisons a modified line with class 2,
and makes a clean one be dropped and fetched again (R208). -/
def State.checkSlice (s : State) (d ln : Nat) : State :=
  match s.flaw (.slice d ln) with
  | none => s
  | some f =>
    let s := s.dropFlaws (· == .slice d ln)
    let x := s.line ln
    if !f.fixed && x.owner = some d && x.dirty then
      let (k, s) := s.record 2 0x02 1 false (ln * 128) (sliceUnit d (ln * 128)) 0 f.synd none
      s.updLine ln (fun x => { x with pois := tagMin (some (mkTag 2 k)) x.pois })
    else
      let s := (s.record 2 0x01 0 false (ln * 128) (sliceUnit d (ln * 128)) 0 f.synd none).2
      if f.fixed || x.owner = some d then s else s.dropDie d ln

/-- The line in the memory array of its home is read: an error that the check does not correct writes the poison marker
(R208, R436). -/
def State.checkArray (s : State) (ln : Nat) : State :=
  match s.findFlaw (.array ln) (homeClass (ln * 128)) (homeUnit (ln * 128)) (ln * 128) 0 none with
  | (some t, s) => s.updLine ln (fun x => { x with pois := tagMin (some t) x.pois })
  | (none, s) => s

/-- A structure of class cls that tracks line ln has lost its entry (R226): the copies it tracks are invalidated, modified
data are written back, the line is poisoned when the owning copy cannot be identified, and its watches are struck. -/
def State.loseEntry (s : State) (p : FlawAt) (cls unit ln : Nat) : State :=
  match s.flaw p with
  | none => s
  | some f =>
    let s := s.dropFlaws (· == p)
    if f.fixed then (s.record cls 0x01 0 false (ln * 128) unit 0 f.synd none).2
    else
      let (k, s) := s.record cls 0x0B (if f.known then 0 else 1) false (ln * 128) unit 0 f.synd none
      let s := s.strikeLost ln
      let (s, d, m) := s.takeBack ln
      let s := match d with
        | some d => s.dropDie d ln
        | none => s
      let s := if m then s.bumpVersion ln else s
      if f.known then s else s.updLine ln (fun x => { x with pois := tagMin (some (mkTag cls k)) x.pois })

/-- The directory entry or stamp that die d keeps of a line it owns is read (R226). -/
def State.checkDir (s : State) (d ln : Nat) : State :=
  if (s.line ln).owner = some d then s.loseEntry (.dir d ln) 2 (sliceUnit d (ln * 128)) ln else s

/-- The entry of a line in the table of its home is read (R226). -/
def State.checkEntry (s : State) (ln : Nat) : State := s.loseEntry (.entry ln) 0 (homeUnit (ln * 128)) ln

/-- A modified line goes through the network of die d to its home: one that is lost is poisoned there with class 5 (R227). -/
def State.sendLine (s : State) (d ln : Nat) : State :=
  match s.findFlaw (.net d ln) 5 (sliceUnit d (ln * 128)) (ln * 128) 0 none with
  | (some t, s) => s.updLine ln (fun x => { x with pois := tagMin (some t) x.pois })
  | (none, s) => s

/-- A read answer goes through the network of die d: one that is lost is asked for again, and the refetch is recorded as a
corrected error is (R221, R227). -/
def State.fetchLine (s : State) (d ln : Nat) : State :=
  match s.flaw (.net d ln) with
  | some f =>
    ((s.dropFlaws (· == .net d ln)).record 5 0x01 0 false (ln * 128) (sliceUnit d (ln * 128)) 0 f.synd none).2
  | none => s

/-! ## Injection -/

/-- The armed error fires on a read of line ln from the target: 0 the home's array, 1 the L2 of a die (R224). Answers
the bit flipped in the data sent, if any, the poison made, if any, and the state. -/
def State.inject (s : State) (ln target die : Nat) : Option Nat × Option PTag × State :=
  let ctl := s.reg 0x27
  if b64 ctl 0 0 = 1 && s.fld 0x26 47 7 = ln && b64 ctl 5 5 = target && (target = 0 || b64 ctl 9 8 = die) then
    let kind := b64 ctl 2 1
    let bit := b64 ctl 31 22
    let unit := if target = 0 then homeUnit (ln * 128) else sliceUnit die (ln * 128)
    let (k, s) := s.record 7 0x06 kind true (ln * 128) unit 0 bit none
    let v := setBits (setBits (setBits (s.reg 0x27) 0 0 0) 12 12 1) 21 13 k
    let s := s.setReg 0x27 v
    if kind = 1 then
      let t := mkTag 7 k
      let key := copyKey die ln
      let s := if target = 0 ∨ (s.line ln).owner = some die then
          s.updLine ln (fun x => { x with pois := tagMin (some t) x.pois })
        else s.setMM { s.mm with vcopy := mupd s.mm.vcopy key (fun c => { c with pois := tagMin (some t) c.pois }) }
      (none, some t, s)
    else if kind = 2 then (some bit, none, s)
    else (none, none, s)
  else (none, none, s)

/-- Data with the flipped bit of a silent injection. -/
def flipped (d : BitVec 1024) (b : Option Nat) : BitVec 1024 :=
  match b with
  | some b => d ^^^ (1#1024 <<< b)
  | none => d

/-! ## Copies of cores -/

/-- The banks of a core that workgroups own (R147). -/
def State.ownedBanks (s : State) (core : Nat) : List Nat :=
  (s.wgs.filter (fun e => e.2.core == core && !e.2.retired)).flatMap (fun e =>
    (mvals e.2.banks).filterMap (·.phys))

/-- Ways of the cache pool of a core (R147). -/
def State.ways (s : State) (core : Nat) : Nat := 24 - (s.ownedBanks core).length

/-- A core holds line ln as a copy of its die's owned line: M, O, E or S (R153). -/
def State.holdsLine (s : State) (core ln : Nat) : Bool := s.mm.held.contains (copyKey core ln)

/-- Drops every copy a core holds of line ln; the owning core writes what it modified back to the slice. -/
def State.dropCore (s : State) (core ln : Nat) : State :=
  let k := copyKey core ln
  let s := s.setMM { s.mm with held := s.mm.held.filter (· != k), wcopy := mdel s.mm.wcopy k, flips := mdel s.mm.flips k }
  if (s.line ln).mcore = some core then s.updLine ln (fun x => { x with mcore := none }) else s

/-- Lines a core's cache holds. -/
def State.coreLines (s : State) (core : Nat) : List Nat :=
  ((s.mm.held.filter (fun k => k / 2 ^ 44 == core)).map (· % 2 ^ 44)) ++
    ((s.mm.wcopy.filter (fun e => e.1 / 2 ^ 44 == core)).map (fun e => e.1 % 2 ^ 44))

/-- A core's copy of a line is read: an error that the check does not correct poisons a line that the core has modified with
class 3, and makes a clean copy be dropped and fetched again (R208). Which bank of the pool holds it is left open. -/
def State.checkCopy (s : State) (core ln : Nat) : State :=
  match s.flaw (.copy core ln) with
  | none => s
  | some f =>
    let s := s.dropFlaws (· == .copy core ln)
    if !((s.coreLines core).contains ln) then s
    else
      let pool := (upto 24).filter (fun b => !(s.ownedBanks core).contains b)
      let unit := core + (0x20 + pool.getD (Config.freeNat s.draws % pool.length) 0) * 256
      let s := s.draw 1
      let x := s.line ln
      if !f.fixed && x.mcore = some core && x.dirty && s.holdsLine core ln then
        let (k, s) := s.record 3 0x02 1 false (ln * 128) unit 0 f.synd none
        s.updLine ln (fun x => { x with pois := tagMin (some (mkTag 3 k)) x.pois })
      else
        let s := (s.record 3 0x01 0 false (ln * 128) unit 0 f.synd none).2
        if f.fixed then s else s.dropCore core ln

/-- The newest value of a line is read where die d, which owns it, holds it: in its owning core, or else in the slice
(R153, R208, R436). -/
def State.checkOwn (s : State) (d ln : Nat) : State :=
  let s := match (s.line ln).mcore with
    | some c => s.checkCopy c ln
    | none => s
  if (s.line ln).mcore.isSome then s else s.checkSlice d ln

/-! ## Recall, and the entry table -/

/-- Recalls the owner of line ln, if a die has it (R157 step 1), with the injection of R224. Answers whether the version
must advance. -/
def State.recall (s : State) (ln : Nat) : State × Bool :=
  match (s.line ln).owner with
  | none => (s, false)
  | some d =>
    let s := s.checkOwn d ln
    let (fl, _, s) := s.inject ln 1 d
    match fl with
    | some b =>
      let s := s.updLine ln (fun x => { x with dirty := true })
      let (s, _, _) := s.takeBack ln
      ((s.dropDie d ln).flipBit ln b, true)
    | none =>
      let (s, _, m) := s.takeBack ln
      let s := if m then s.sendLine d ln else s
      (s.keepV d ln, m)

/-- Recall and the advance of R157 step 2; the recalled die keeps V at the version assigned, unless this advance is the one
that orders every die to drop its copies (R158). Answers whether the version advanced. -/
def State.recallStep (s : State) (ln : Nat) : State × Bool :=
  let d := (s.line ln).owner
  let (s, m) := s.recall ln
  if m then
    let s := s.bumpVersion ln
    (match d with
     | some d => if (mget? s.mm.vcopy (copyKey d ln)).isSome then s.keepV d ln else s
     | none => s, true)
  else (s, false)

/-- The home entry of a line is in use (R158). -/
def State.entryUsed (s : State) (ln : Nat) (x : Line) : Bool := x.owner.isSome || x.wrap || s.watched ln

/-- Gives a line its entry in its home's table: a set of 16 entries may need a victim, which is an entry without
outstanding watches if there is one (which one is left open, assumption 9), else the least recently used, whose watches are
struck (R158). -/
def State.useEntry (s : State) (ln : Nat) : State :=
  let (t, s) := s.takeId
  let s := s.updLine ln (fun x => { x with used := t })
  let home := homeOf (ln * 128)
  let peers := s.mm.lines.filter (fun e =>
    e.1 != ln && homeOf (e.1 * 128) == home && e.1 % 2 ^ 14 == ln % 2 ^ 14 && s.entryUsed e.1 e.2)
  if peers.length < 16 then s
  else
    match peers.filter (fun e => !s.watched e.1) with
    | v :: vs =>
      let n := ((v :: vs).getD (Config.freeNat s.draws % (vs.length + 1)) v).1
      let s := ((s.draw 1).recallStep n).1
      s.updLine n (fun x => { x with wrap := false })
    | [] =>
      match leastBy (fun e => e.2.used) peers with
      | some v => ((s.strikeLine v.1 4 (fun _ => true)).recallStep v.1).1.updLine v.1 (fun x => { x with wrap := false })
      | none => s

/-! ## L2 and core cache places -/

/-- Lines that die d holds in L2: owned or V (R152). -/
def State.dieLines (s : State) (d : Nat) : List Nat :=
  ((s.mm.lines.filter (fun e => e.2.owner == some d)).map (·.1)) ++
    ((s.mm.vcopy.filter (fun e => e.1 / 2 ^ 44 == d)).map (fun e => e.1 % 2 ^ 44))

/-- Takes line ln out of the L2 of die d: core copies go first, ownership goes back (R152, R157). -/
def State.evictL2 (s : State) (d ln : Nat) : State :=
  let s := if (s.line ln).owner = some d then
      let s := if (s.line ln).dirty then s.checkOwn d ln else s
      let (s, _, m) := s.takeBack ln
      if m then (s.sendLine d ln).bumpVersion ln else s
    else s
  s.dropDie d ln

/-- The line that leaves a full set: one at the lowest replacement priority if there is one; which is left open
(assumption 9). -/
def State.victim (s : State) (set low : List Nat) : Nat × State :=
  let lows := set.filter low.contains
  let c := if lows.isEmpty then set else lows
  (c.getD (Config.freeNat s.draws % c.length) 0, s.draw 1)

/-- A list of keys with the mark of one set or cleared. -/
def marked (l : List Nat) (k : Nat) (on : Bool) : List Nat :=
  let r := l.filter (· != k)
  if on then k :: r else r

/-- Line ln comes into the L2 of die d: its set has 16 ways, and a full one loses a line (R152). -/
def State.roomL2 (s : State) (d ln : Nat) (low : Bool) : State :=
  let ls := s.dieLines d
  if ls.contains ln then s
  else
    let pa := ln * 128
    let same := ls.filter (fun m => sliceOf (m * 128) == sliceOf pa && nbits (m * 128) 21 12 == nbits pa 21 12)
    let s := if same.length < 16 then s
      else
        let (v, s) := s.victim same ((s.mm.lowL2.filter (fun k => k / 2 ^ 44 == d)).map (· % 2 ^ 44))
        s.evictL2 d v
    s.setMM { s.mm with lowL2 := marked s.mm.lowL2 (copyKey d ln) low }

/-- Line ln leaves a core's cache; what the core has modified is read to be written back (R147, R436). -/
def State.leaveCore (s : State) (core ln : Nat) : State :=
  (if (s.line ln).mcore = some core then s.checkCopy core ln else s).dropCore core ln

/-- Line ln comes into a core's cache: false when the pool has no way; a full set loses a line (R147). -/
def State.roomCore (s : State) (core ln : Nat) (low : Bool) : Bool × State :=
  let w := s.ways core
  if w = 0 then (false, s)
  else
    let ls := s.coreLines core
    if ls.contains ln then (true, s)
    else
      let same := ls.filter (fun m => m % 1024 == ln % 1024)
      let s := if same.length < w then s
        else
          let (v, s) := s.victim same ((s.mm.lowCore.filter (fun k => k / 2 ^ 44 == core)).map (· % 2 ^ 44))
          s.leaveCore core v
      (true, s.setMM { s.mm with lowCore := marked s.mm.lowCore (copyKey core ln) low })

/-- Puts line ln into a core's cache as a copy of the die's owned line (E or S, beside an owning core that has it in O), with
the bit that a silent injection has flipped in the data sent (R153, R224). -/
def State.fillHeld (s : State) (core ln : Nat) (low : Bool) (fl : Option Nat) : State :=
  let (ok, s) := s.roomCore core ln low
  if ok then
    let k := copyKey core ln
    s.setMM { s.mm with
      held := k :: s.mm.held.filter (· != k), wcopy := mdel s.mm.wcopy k
      flips := match fl with
        | some b => mput s.mm.flips k b
        | none => mdel s.mm.flips k }
  else s

/-- Puts a W or R copy into a core's cache (R153, R154). -/
def State.fillCopy (s : State) (core ln : Nat) (low : Bool) (c : Copy) : State :=
  let (ok, s) := s.roomCore core ln low
  if ok then
    let k := copyKey core ln
    s.setMM { s.mm with held := s.mm.held.filter (· != k), wcopy := mput s.mm.wcopy k c, flips := mdel s.mm.flips k }
  else s

/-- The bit that is flipped in a core's copy of line ln (R224). -/
def State.heldFlip (s : State) (core ln : Nat) : Option Nat := mget? s.mm.flips (copyKey core ln)

/-- Turns the core copies of an owned line, but for that of core keep, into W copies with the version and stamp they were
filled with; no other core owns it (R153). -/
def State.weaken (s : State) (ln : Nat) (keep : Option Nat) : State :=
  let x := s.line ln
  let d := s.lineData ln
  let cs := (s.mm.held.filter (fun k => k % 2 ^ 44 == ln && some (k / 2 ^ 44) != keep))
  let s := s.setMM { s.mm with held := s.mm.held.filter (fun k => k % 2 ^ 44 != ln || some (k / 2 ^ 44) == keep) }
  cs.foldl (fun s k => s.setMM { s.mm with
    flips := mdel s.mm.flips k
    wcopy := mput s.mm.wcopy k
      { ver := x.granted, stamp := x.stamp, data := flipped d (mget? s.mm.flips k), pois := x.pois, ro := false } }) s

/-- Another core of the die than this one holds line ln (R153). -/
def State.sharedIn (s : State) (core ln : Nat) : Bool :=
  s.mm.held.any (fun k => k % 2 ^ 44 == ln && (k / 2 ^ 44) / 48 == core / 48 && k / 2 ^ 44 != core)

/-- The states of a line in a core cache (R153). -/
inductive CoreState where
  | M
  | O
  | E
  | S
  | W
  | R
deriving DecidableEq, Repr

/-- The state of line ln in a core's cache, none when it is invalid there: what the directory holds of an owned line, the copies
themselves of any other (R153). -/
def State.coreState (s : State) (core ln : Nat) : Option CoreState :=
  if s.holdsLine core ln then
    match (s.line ln).mcore, s.sharedIn core ln with
    | none, false => some .E
    | none, true => some .S
    | some c, shared => some (if c ≠ core then .S else if shared then .O else .M)
  else (mget? s.mm.wcopy (copyKey core ln)).map (fun c => if c.ro then .R else .W)

/-- The slice's stamp advances by one; at the wrap every core of the die drops its W copies (R153). -/
def State.bumpStamp (s : State) (ln : Nat) : State :=
  let x := s.line ln
  if x.stamp = 0xFFFF then
    let s := s.setLine ln { x with stamp := 0, swrap := true, swrapId := s.nextId }
    match x.owner with
    | some d => s.setMM { s.mm with wcopy := s.mm.wcopy.filter (fun e =>
        !(e.1 % 2 ^ 44 == ln && (e.1 / 2 ^ 44) / 48 == d && !e.2.ro)) }
    | none => s
  else s.setLine ln { x with stamp := x.stamp + 1 }

/-! ## Loads and stores of dies -/

/-- Fresh data with the current version from the home (R156); had says that they come from a recalled die and not from the
array, on which an injection with TARGET 0 does not fire (R224). -/
def State.freshLine (s : State) (core ln : Nat) (k : Keep) (had : Bool) : BitVec 1024 × Option PTag × State :=
  let die := core / 48
  let s := s.roomL2 die ln k.low
  let s := s.fetchLine die ln
  let s := if had then s else s.checkArray ln
  let (fl, _, s) := if had then (none, none, s) else s.inject ln 0 0
  let c : Copy :=
    { ver := (s.line ln).version, stamp := 0, data := flipped (s.lineData ln) fl, pois := s.linePois ln, ro := false }
  let s := s.setMM { s.mm with vcopy := mput s.mm.vcopy (copyKey die ln) c }
  let s := if k.inCore then s.fillCopy core ln k.low c else s
  (c.data, c.pois, s)

/-- A coherent read of line ln by a core, served by its core cache when allowed, its L2 or the home (R153, R156): the
data, their poison, and the state. A revalidation of a V line has an entry in the home's table (R158). -/
def State.readLine (s : State) (core ln : Nat) (k : Keep) : BitVec 1024 × Option PTag × State :=
  let die := core / 48
  let s := s.checkDir die ln
  if (s.line ln).owner = some die then
    let s := if k.inCore then s.checkCopy core ln else s
    if k.inCore && s.holdsLine core ln then (flipped (s.lineData ln) (s.heldFlip core ln), s.linePois ln, s)
    else
      let s := s.checkOwn die ln
      let (fl, _, s) := s.inject ln 1 die
      let s := if k.inCore then s.fillHeld core ln k.low fl else s
      (flipped (s.lineData ln) fl, s.linePois ln, s)
  else
    let s := s.checkEntry ln
    let s := if (mget? s.mm.vcopy (copyKey die ln)).isSome then s.useEntry ln else s
    let had := (s.line ln).owner.isSome
    let s := (s.recallStep ln).1
    let s := s.checkSlice die ln
    match mget? s.mm.vcopy (copyKey die ln) with
    | some c =>
      if c.ver = (s.line ln).version then
        let (fl, t, s) := s.inject ln 1 die
        let s := if k.inCore then
            s.fillCopy core ln k.low { c with data := flipped c.data fl, pois := tagMin t c.pois } else s
        (flipped c.data fl, tagMin t (tagMin c.pois (s.deadHome (ln * 128))), s)
      else s.freshLine core ln k had
    | none => s.freshLine core ln k had

/-- A prefetch of line ln into the L2 of a core's die, and into the core when k says so: it takes no ownership from another
die, so that it moves no version, and fires no injection (R155, R161, R224, R373). -/
def State.prefetch (s : State) (core ln : Nat) (k : Keep) : State :=
  let die := core / 48
  if (s.line ln).owner = some die then
    (if k.inCore && !s.holdsLine core ln then (s.checkOwn die ln).fillHeld core ln k.low none else s)
  else if (s.line ln).owner.isSome || (s.deadHome (ln * 128)).isSome then s
  else
    let s := s.checkArray ln
    let c : Copy :=
      { ver := (s.line ln).version, stamp := 0, data := s.lineData ln, pois := s.linePois ln, ro := false }
    let s := match mget? s.mm.vcopy (copyKey die ln) with
      | some o => if o.ver = c.ver then s else s.setMM { s.mm with vcopy := mput s.mm.vcopy (copyKey die ln) c }
      | none =>
        let s := s.roomL2 die ln k.low
        s.setMM { s.mm with vcopy := mput s.mm.vcopy (copyKey die ln) c }
    if k.inCore then s.fillCopy core ln k.low c else s

/-- A miss of a core on path 0x5 that continues an ascending run brings the next four lines into L2, unless Tocsin stage 1
is applied (R41, R161). The run is that of the core's last miss (log entry 132). -/
def State.runAhead (s : State) (core ln : Nat) : State :=
  let on := mget? s.mm.run core = some (ln - 1) && ln ≠ 0 && !s.power.applied.contains 1
  let s := s.setMM { s.mm with run := mput s.mm.run core ln }
  if on then ([1, 2, 3, 4].filter (fun i => inTier2 ((ln + i) * 128))).foldl (fun s i => s.prefetch core (ln + i) .l2) s
  else s

/-- Whether line ln is in the L2 of a core's die. -/
def State.inL2 (s : State) (core ln : Nat) : Bool := (s.dieLines (core / 48)).contains ln

/-- A die gets ownership of a line (R157). -/
def State.own (s : State) (die ln : Nat) (low : Bool) : State :=
  let s := s.checkDir die ln
  if (s.line ln).owner = some die then s
  else
    let s := s.checkEntry ln
    let had := (s.line ln).owner.isSome
    let s := (s.recallStep ln).1
    let s := s.useEntry ln
    let s := s.roomL2 die ln low
    let s := s.fetchLine die ln
    let s := if had then s else s.checkArray ln
    let (fl, _, s) := if had then (none, none, s) else s.inject ln 0 0
    let s := s.setMM { s.mm with vcopy := mdel s.mm.vcopy (copyKey die ln) }
    let s := match fl with
      | some b => s.flipBit ln b
      | none => s
    s.updLine ln (fun x => { x with
      owner := some die, dirty := false, stamp := 0, swrap := false, granted := x.version, mcore := none, flip := fl })

/-- A store finds line ln in its core, or fills the core from where its die, which owns the line, holds it: the data may carry
an error, or the injection, which a silent flip leaves in the core's modified copy (R224). -/
def State.fillFrom (s : State) (core ln : Nat) : State :=
  let s := s.checkCopy core ln
  let (fl, s) := if s.holdsLine core ln then (s.heldFlip core ln, s)
    else
      let (fl, _, s) := (s.checkOwn (core / 48) ln).inject ln 1 (core / 48)
      (fl, s)
  let s := s.setMM { s.mm with flips := mdel s.mm.flips (copyKey core ln) }
  match fl with
  | some b => s.flipBit ln b
  | none => s

/-- Ownership and, for a cached store, the state M of the core, which one in O gains again when the other copies are invalidated;
for any other store the slice writes (R153, R157). -/
def State.gain (s : State) (core ln : Nat) (k : Keep) : State :=
  let had := (s.line ln).owner = some (core / 48)
  let s := s.own (core / 48) ln k.low
  if k.inCore && (s.ways core != 0) then
    if s.coreState core ln = some .M then s
    else
      let s := if had then s.fillFrom core ln else s
      let s := s.weaken ln (some core)
      let s := s.bumpStamp ln
      let s := s.fillHeld core ln k.low none
      s.updLine ln (fun x => { x with mcore := some core })
  else
    let s := if had then s.checkOwn (core / 48) ln else s
    let s := s.weaken ln none
    let s := s.bumpStamp ln
    s.updLine ln (fun x => { x with mcore := none })

/-- A write of bytes of one line by a core of a die: merged into the newest value; a whole clean line clears poison, any
other write leaves or adds it (R214, R216); every other reservation on the line is lost (R187). -/
def State.writeLine (s : State) (core pa : Nat) (bs : List Byte) (k : Keep) (pois : Option PTag) (writer : Nat) :
    State :=
  let ln := pa / 128
  let s := s.gain core ln k
  let s := s.putBytes pa bs
  let s := s.updLine ln (fun x => { x with
    dirty := true, writer := writer, pois := if bs.length = 128 && pois.isNone then none else tagMin pois x.pois })
  let s := if bs.length = 128 && pois.isNone then
      s.dropFlaws (fun p => p == .array ln || p == .slice (core / 48) ln || p == .copy core ln)
    else s
  s.loseResv ln

/-- A load through the read-only path 0x2: the core's R copy, filled when absent and policy 2 does not keep it out (R146,
R154). -/
def State.readRO (s : State) (core ln : Nat) (k : Keep) : BitVec 1024 × Option PTag × State :=
  let s := s.checkCopy core ln
  match mget? s.mm.wcopy (copyKey core ln) with
  | some c => if c.ro then (c.data, c.pois, s) else fill s
  | none => fill s
where
  fill (s : State) : BitVec 1024 × Option PTag × State :=
    let (d, p, s) := s.readLine core ln (if k.low then .l2Low else .l2)
    (d, p, if k.inCore then s.fillCopy core ln k.low { ver := 0, stamp := 0, data := d, pois := p, ro := true } else s)

/-- A read at the home of one line that does not come from a die (R155). -/
def State.homeReadLine (s : State) (ln : Nat) : BitVec 1024 × Option PTag × State :=
  let s := s.checkEntry ln
  let had := (s.line ln).owner.isSome
  let s := (s.recallStep ln).1
  let s := if had then s else s.checkArray ln
  let (fl, _, s) := if had then (none, none, s) else s.inject ln 0 0
  (flipped (s.lineData ln) fl, s.linePois ln, s)

/-- Bytes [off, off + n) of a line's data. -/
def lineBytes (d : BitVec 1024) (off n : Nat) : List Byte := bytesLE n (d.toNat / 2 ^ (8 * off))

/-- A read of n bytes at the home (R155): the bytes, the lowest poison tag, the state. -/
def State.homeRead (s : State) (pa n : Nat) : List Byte × Option PTag × State :=
  (linesOf pa n).foldl (fun acc ln =>
    let (bs, p, s) := acc
    let (d, p', s) := s.homeReadLine ln
    let lo := max pa (ln * 128)
    let hi := min (pa + n) ((ln + 1) * 128)
    (bs ++ lineBytes d (lo - ln * 128) (hi - lo), tagMin p p', s)) ([], none, s)

/-- A write that does not come from a die: the recall of each line's owner may fire the injection, then the home writes
(R155, R224). -/
def State.outsideWrite (s : State) (pa : Nat) (bs : List Byte) (pois : Option PTag) : State :=
  (linesOf pa bs.length).foldl (fun s ln =>
    let (s, _) := s.recall ln
    s.homeWriteLine (max pa (ln * 128)) (inLine pa bs ln) pois) s

/-- A write of the device's own units (Kulintang, Tabor, Peal) of n bytes, value v. -/
def State.devWrite (s : State) (pa n v : Nat) : State := s.outsideWrite pa (bytesLE n v) none

/-- A coherent read of n bytes by a core (not crossing a line). -/
def State.readPa (s : State) (core pa n : Nat) (k : Keep) : List Byte × Option PTag × State :=
  let (d, p, s) := s.readLine core (pa / 128) k
  (lineBytes d (pa % 128) n, p, s)

/-! ## Watched copies -/

/-- The verdict on a pending entry (R160): none confirms, some c strikes with cause c; and the state after it. -/
def State.verdict (s : State) (core : Nat) (w : Watch) (stale : Bool) : Option Nat × State :=
  let die := core / 48
  let x := s.line w.line
  if stale then (some 6, s)
  else if x.owner = some die && w.ofW then
    if x.swrap then (some 5, s)
    else if w.ver = x.granted && w.stamp = x.stamp then (none, s) else (some 1, s)
  else if x.owner = some die then
    if w.ver = x.granted && !x.dirty then (none, s) else (some 1, s)
  else
    match mget? s.mm.vcopy (copyKey die w.line) with
    | some c =>
      if c.ver ≠ w.ver then
        (some 2, s.setMM { s.mm with wcopy := mupd s.mm.wcopy (copyKey core w.line) (fun o =>
          if o.ro then o else { c with stamp := 0 }) })
      else home s
    | none => home s
where
  /-- The home's part of R160; the cause is that of R192, a recall only of a modified line. -/
  home (s : State) : Option Nat × State :=
    let s := s.checkEntry w.line
    let s := s.useEntry w.line
    let had := (s.line w.line).owner.isSome
    let (s, moved) := s.recallStep w.line
    let x := s.line w.line
    if x.wrap then (some 5, s)
    else if w.ver ≠ x.version then (some (if moved then 3 else 0), (s.freshLine core w.line .l2 had).2.2)
    else (none, s)

/-- What an LDW takes of a line (R367): its data and poison, whether it is confirmed at once, and the version and stamp
of the copy, with whether that is a W copy of the core. -/
def State.watchedRead (s : State) (core ln : Nat) (k : Keep) :
    BitVec 1024 × Option PTag × Bool × Nat × Nat × Bool × State :=
  let die := core / 48
  let s := (s.checkCopy core ln).checkDir die ln
  let x := s.line ln
  match mget? s.mm.wcopy (copyKey core ln) with
  | some c =>
    if c.ro then other s die x else (c.data, c.pois, false, c.ver, c.stamp, true, s)
  | none => other s die x
where
  other (s : State) (die : Nat) (x : Line) : BitVec 1024 × Option PTag × Bool × Nat × Nat × Bool × State :=
    if x.owner = some die then
      let (d, p, s) := s.readLine core ln k
      (d, p, true, x.granted, x.stamp, false, s)
    else
      let s := s.checkSlice die ln
      match mget? s.mm.vcopy (copyKey die ln) with
      | some c =>
        let (fl, t, s) := s.inject ln 1 die
        (flipped c.data fl, tagMin t c.pois, false, c.ver, 0, false, s)
      | none =>
        let (d, p, s) := s.readLine core ln k
        (d, p, true, (s.line ln).version, 0, false, s)

/-! ## Reservations -/

/-- Sets the reservation of a lane on line ln; a home full of reservations takes its oldest (R158, R187). -/
def State.reserve (s : State) (g lane ln : Nat) : State :=
  let (t, s) := s.takeId
  let s := s.updGroup g (fun x => { x with resv := mput x.resv lane (t * 2 ^ 44 + ln) })
  let home := homeOf (ln * 128)
  let all := s.groups.flatMap (fun e =>
    (e.2.resv.filter (fun r => homeOf (resvLine r.2 * 128) == home)).map (fun r => (e.1, r.1, r.2)))
  if all.length ≤ 8192 then s
  else match leastBy (fun r => r.2.2) all with
    | some (g', l', _) => s.updGroup g' (fun x => { x with resv := mdel x.resv l' })
    | none => s

/-- Whether a lane's reservation on line ln still exists. -/
def Group.reserved (g : Group) (lane ln : Nat) : Bool :=
  match mget? g.resv lane with
  | some v => resvLine v == ln
  | none => false

end Sys2Proof.Machine
end

