-- ==== Sys2Proof/Machine/Report.lean ====
section
/-! DEFINITION. What the device's own units write to memory as they report: Peal buffers (R240 to R243), the queue status word
(R61, R72), and completion entries with their interrupts (R78 to R80). -/

namespace Sys2Proof.Machine

/-! ## Peal buffers -/

/-- Writes a record at WP and advances WP (R240). -/
def State.pealStore (s : State) (r : PRec) : State :=
  let p := r.part
  let wp := s.fld (nPPTR p) 31 0
  let s := s.devWrite (s.fld (nPBUF p) 44 12 * 4096 + 16 * (wp % s.pealE p)) 16 r.bits
  s.setFld (nPPTR p) 31 0 (wp + 1)

/-- Drops a record: counted in DROPS, and a DROP record is owed (R243, R438). -/
def State.pealDrop (s : State) (r : PRec) : State :=
  let s := s.setFld (nPSTAT r.part) 63 32 (satAdd 0xFFFFFFFF (s.fld (nPSTAT r.part) 63 32) 1)
  { s with peal := { s.peal with owed := mput s.peal.owed r.part (mgetD s.peal.owed r.part 0 + 1) } }

/-- Takes a record off the waiting list. -/
def State.pealTake (s : State) (r : PRec) : State := { s with peal := { s.peal with wait := s.peal.wait.erase r } }

/-- Writes the first waiting record of partition p. One that finds its buffer full is dropped, or waits where it stands while
lossless mode is in force; a DROP record always waits (R242, R243, R438). -/
def State.pealWrite (s : State) (r : PRec) : State :=
  if !s.pealFull r.part then (s.pealTake r).pealStore r
  else if s.effLL r.part || r.kind == 0x02 then s
  else (s.pealTake r).pealDrop r

/-! ## Completion queues and the queue status word -/

/-- The entries of a completion queue that nothing has set (R78 reset values). -/
def Cq.fresh : Cq :=
  { base := 0, cfg := 0#64, head := 0, tail := 0, phase := false, coal := 0#64, p := 0, first := 0, items := [] }

def State.cq (s : State) (c : Nat) : Cq := mgetD s.kul.cqs c Cq.fresh
def State.setCq (s : State) (c : Nat) (x : Cq) : State := { s with kul := { s.kul with cqs := mput s.kul.cqs c x } }

/-- CQCFG fields (R78). -/
def Cq.size (x : Cq) : Nat := 2 ^ (b64 x.cfg 4 0 + 4)
def Cq.enabled (x : Cq) : Bool := b64 x.cfg 32 32 == 1

/-- Launches of a queue handed over and not retired (R72). -/
def State.inflight (s : State) (q : Nat) : Nat := (s.launches.filter (fun e => e.2.queue == q)).length

/-- The STATE code (R71). -/
def QState.code : QState → Nat
  | .disabled => 0
  | .idle => 1
  | .ready => 2
  | .held => 3
  | .waiting => 4
  | .blocked => 5
  | .stopped => 6
  | .error => 7

/-- The queue status word (R72). -/
def State.qsw (s : State) (q : Nat) : Nat :=
  let x := s.queue q
  min x.peerdrop 0xFFFF * 2 ^ 48 + s.inflight q % 256 * 2 ^ 40 + min x.faults 0xFFFF * 2 ^ 24 + x.err % 256 * 2 ^ 16
    + x.part % 16 * 2 ^ 12 + b2n x.cqstall * 2 ^ 9 + x.st.code * 2 ^ 6 + b2n x.hold * 2 ^ 5 + x.rung % 8

/-- Kulintang writes RDIDX, WRSEEN and QSW back to the control block of a queue that has one (R61, R72). -/
def State.syncQ (s : State) (q : Nat) : State :=
  let x := s.queue q
  if !x.used || !inStack (x.addr + 63) then s
  else s.devWrite (x.addr + 16) 16 (x.rdidx % 2 ^ 32 + x.wrseen % 2 ^ 32 * 2 ^ 32 + s.qsw q * 2 ^ 64)

/-- A queue with an entry held back for a full completion queue is BLOCKED instead of going on (R71, R78). -/
def Queue.stalled (x : Queue) : Queue :=
  if x.cqstall && (x.st == .idle || x.st == .ready || x.st == .held) then { x with st := .blocked, lane := none } else x

/-- Changes a queue and writes its control block back. -/
def State.updQueue (s : State) (q : Nat) (f : Queue → Queue) : State :=
  let s := { s with kul := { s.kul with queues := mput s.kul.queues q (f (s.queue q)).stalled } }
  s.syncQ q

/-- Sends the interrupt of a completion queue when R80 says so. -/
def State.coalesce (s : State) (c : Nat) : State :=
  let x := s.cq c
  let count := b64 x.coal 7 0
  let timer := b64 x.coal 23 8
  if b64 x.coal 24 24 = 1 && ((count ≠ 0 && count ≤ x.p) || (count = 0 && timer = 0 && 1 ≤ x.p)) then
    (s.setCq c { x with p := 0 }).interrupt (b64 x.cfg 26 16)
  else s

/-- Writes one 16-byte entry at TAIL with the phase (R78). -/
def State.cqWrite (s : State) (c lo : Nat) : State :=
  let x := s.cq c
  let e := lo + b2n x.phase * 2 ^ 127
  let pos := x.tail % x.size
  let s := if b64 x.cfg 27 27 = 1 then s.toHost (.hostWrite (x.base + 16 * pos) (bytesLE 16 e))
    else s.devWrite (x.base + 16 * pos) 16 e
  s.setCq c { x with
    tail := (x.tail + 1) % 2 ^ 32
    phase := if pos + 1 = x.size then !x.phase else x.phase
    p := x.p + 1
    first := if x.p = 0 then s.time else x.first }

/-- Room for n entries (R78). -/
def Cq.room (x : Cq) (n : Nat) : Bool := (x.tail + 2 ^ 32 - x.head) % 2 ^ 32 + n ≤ x.size

/-- Writes held entries in order while there is room, with fuel (R78, R79 pairs). -/
def State.cqDrain (s : State) (c : Nat) : Nat → State
  | 0 => s
  | fuel + 1 =>
    let x := s.cq c
    match x.items with
    | [] => s
    | i :: rest =>
      if x.enabled && x.room (if i.pair.isSome then 2 else 1) then
        let s := s.setCq c { x with items := rest }
        let s := s.cqWrite c i.lo
        let s := match i.pair with
          | some lo2 => s.cqWrite c lo2
          | none => s
        (s.coalesce c).cqDrain c fuel
      else s

/-- A completion queue holds an entry of queue q back (R78). -/
def State.owes (s : State) (q : Nat) : Bool := s.kul.cqs.any (fun e => e.2.items.any (fun i => i.queue == q))

/-- A queue with an entry held back has CQSTALL, and is BLOCKED; one with none left is freed (R78, R71). -/
def State.cqStalls (s : State) : State :=
  s.kul.queues.foldl (fun s e =>
    if s.owes e.1 = e.2.cqstall then s
    else s.updQueue e.1 (fun x =>
      { x with cqstall := !x.cqstall, st := if x.cqstall && x.st == .blocked then .ready else x.st })) s

/-- Posts an entry of queue q to completion queue c, or holds it while that is full or disabled (R78, log entry 161). -/
def State.postTo (s : State) (c q lo : Nat) (pair : Option Nat) : State :=
  let x := s.cq c
  let s := s.setCq c { x with items := x.items ++ [{ lo := lo, pair := pair, queue := q }] }
  (s.cqDrain c (x.items.length + 1)).cqStalls

/-- Posts an entry to the queue's own completion queue (R78). -/
def State.postCq (s : State) (q lo : Nat) (pair : Option Nat) : State := s.postTo (s.queue q).cqid q lo pair

/-- The bits of a completion entry but for the phase (R79). -/
def cqe (kind queue tag err index detail : Nat) : Nat :=
  kind % 8 * 2 ^ 124 + queue % 1024 * 2 ^ 114 + tag % 65536 * 2 ^ 98 + err % 256 * 2 ^ 90 + index % 2 ^ 32 * 2 ^ 58
    + detail % 2 ^ 58

/-- Posts an error entry of a queue (R79 kind 3). -/
def State.postErr (s : State) (q tag err index : Nat) : State := s.postCq q (cqe 3 q tag err index 0) none

end Sys2Proof.Machine
end

