-- ==== Sys2Proof/WellFormed.lean ====
section
/-! DEFINITION. Well-formedness of an instruction word: every field holds a value that the opcode map or the
instruction's description assigns (R274), and a register pair or quad and an even tile are aligned (R263, R392). An
instruction word that is not well formed raises the illegal-instruction fault 0x01 at issue (R281). A device event
has no word and is always well formed. -/

namespace Sys2Proof

/-- A scope code of R172: 6 and 7 are reserved. -/
def scopeOk (c : BitVec 3) : Bool := c.toNat ≤ 5

/-- Register d names an aligned group of k registers: any register, a pair or a quad (R263). -/
def aligned (k : Nat) (d : BitVec 7) : Bool := d.toNat % k == 0

/-- How many registers an access of size code s takes: one, a pair for 8 bytes, a quad for 16 (R365). -/
def sizeRegs (s : Nat) : Nat := if s = 3 then 2 else if s = 4 then 4 else 1

/-- The address operand: a flat pair through H0 is aligned, a slot takes one offset register (R143, R263). -/
def addrOk (h : BitVec 4) (a : BitVec 7) : Bool := h != 0#4 || aligned 2 a

/-- System register numbers that R422 assigns. -/
def sysAssigned (n : Nat) : Bool :=
  n ≤ 0x36 || (0x40 ≤ n && n ≤ 0x5F) || (0x100 ≤ n && n ≤ 0x1BF) || (0x200 ≤ n && n ≤ 0x34F)

/-- The fields of a memory access that moves registers: size at most hi, register and address aligned. -/
def accessOk (lo hi : Nat) (d a : BitVec 7) (h : BitVec 4) (s : BitVec 3) : Bool :=
  lo ≤ s.toNat && s.toNat ≤ hi && aligned (sizeRegs s.toNat) d && addrOk h a

/-- ATOM: a scope in the size field, and CAS with an even Vd and NR = 0 (R279). -/
def atomOk (d a : BitVec 7) (h : BitVec 4) (s : BitVec 3) (n : BitVec 1) (o : BitVec 3) : Bool :=
  scopeOk s && addrOk h a && (o != 7#3 || (n == 0#1 && aligned 2 d))

/-- The encoding check of R263 on the word alone. -/
def Instr.wf : Instr → Bool
  | .clause _ a b l _ => l != 0#4 && (a.toNat ≤ 11 || a == 15#4) && (b.toNat ≤ 11 || b == 15#4)
  | .jtab _ n | .switch _ n => n != 0#11
  | .ensure _ e => e != 0#18
  | .elseby n => n != 0#22 && n.toNat < 0x200000
  | .convj a h => addrOk h a
  | .vunpk d _ => aligned 2 d
  | .vcmp _ _ _ c => c.toNat ≤ 5
  | .vcmpi c _ _ _ => c.toNat ≤ 5
  | .vred _ _ o => o.toNat ≤ 8
  | .vscan _ _ _ o => o.toNat ≤ 8
  | .vcvt _ _ y _ => y.toNat ≤ 9
  | .vcvtn d a _ _ => aligned 2 d && aligned 4 a
  | .vamax _ a n => n != 3#2 && aligned (if n = 2#2 then 4 else if n = 1#2 then 2 else 1) a
  | .vrand d n => n != 3#2 && aligned (if n = 2#2 then 4 else if n = 1#2 then 2 else 1) d
  | .vspr d n => n.toNat ≤ 14 && (aligned 2 d || !([5, 10, 11].contains n.toNat))
  | .ld d a h s x => accessOk 0 4 d a h s && (x == 0#1 || s.toNat ≤ 1)
  | .st d a h s => accessOk 0 4 d a h s
  | .lda d a h s c | .strl d a h s c => accessOk 0 3 d a h s && scopeOk c
  | .ldw d a h s _ => accessOk 2 3 d a h s
  | .chk m _ => m != 0#8
  | .fence p s k => k.toNat ≤ 4 && scopeOk s && (k != 0#3 || (p == 1#1 && s == 0#3))
  | .atom d a h s n o | .atomAcq d a h s n o | .atomRel d a h s n o | .atomAr d a h s n o => atomOk d a h s n o
  | .lr d a h z _ c | .sc d a h z _ c => accessOk 2 3 d a h z && scopeOk c
  | .pref a h _ => addrOk h a
  | .hload e s => s != 0#4 && e != 15#4
  | .cpy _ a b _ => aligned 2 a && aligned 2 b
  | .cpyb d a b q | .cpyxG d a b q | .cpyxS d a b q =>
    q.toNat ≤ 4 && aligned 2 d && aligned 2 a && aligned 2 b
  | .qfence m => m != 0#6
  | .mmack _ t _ _ => t.toNat % 2 == 0
  | .mzero m => m != 0#16
  | .mld _ a h | .mst _ a h | .mstn _ _ a h => addrOk h a
  | .mckv d t _ => aligned 4 d && t.toNat % 2 == 0
  | .mckc t q => aligned 4 q && t.toNat % 2 == 0
  | .fpush _ b | .fpop _ b => b.toNat ≤ 23
  | .bankm _ e m b => b.toNat ≤ 23 && (m == 2#2 || e == 0#3)
  | .sysr d n | .sysw d n => aligned 2 d && sysAssigned n.toNat
  | .waitf m => m != 0#12
  | _ => true

end Sys2Proof
end

