-- ==== Sys2Proof/Machine/Operands.lean ====
section
/-! DEFINITION. What an instruction names: the registers it reads and writes, the tiles, its guard and its place in a
clause, the mode values it accepts (R263, R266, R267, R270, R271, R318, R362, R392, R408). -/

namespace Sys2Proof.Machine

/-- ahash of R258. -/
def ahash (a : Nat) : Nat := nbits a 22 7 ^^^ nbits a 38 23 ^^^ nbits a 51 39

/-- A range of registers: the first and how many. -/
abbrev Regs := List (Nat × Nat)

/-- Registers of an address operand: a flat pair through H0, one offset register otherwise (R143). -/
def addrRegs (h : BitVec 4) (a : BitVec 7) : Regs := [(a.toNat, if h = 0#4 then 2 else 1)]

/-- Registers that n consecutive values take for VAMAX and VRAND counts 0, 1, 2. -/
def countRegs (n : BitVec 2) : Nat := if n = 2#2 then 4 else if n = 1#2 then 2 else 1

/-- TYPE of a mode word (R265). -/
def tyOf (m : BitVec 16) : Nat := nbits m.toNat 8 5
/-- RND of a mode word (R265). -/
def rndOf (m : BitVec 16) : Nat := nbits m.toNat 11 9
/-- SAT and FTZ of a mode word (R265). -/
def satOf (m : BitVec 16) : Bool := m.getLsbD 12
def ftzOf (m : BitVec 16) : Bool := m.getLsbD 13

/-- Element width of a TYPE (R265, R290, R292). -/
def tyWidth (t : Nat) : Nat :=
  match t with
  | 0 | 1 | 6 => 32
  | 2 | 3 | 7 | 8 => 16
  | _ => 8

/-- Elements per word of a TYPE. -/
def tyCount (t : Nat) : Nat := 32 / tyWidth t

/-- Source and target registers of VCVT from the TYPE s to t (R357). -/
def cvtSrc (s t : Nat) : Nat := max 1 (tyCount t / tyCount s)
def cvtDst (s t : Nat) : Nat := max 1 (tyCount s / tyCount t)

/-- Registers that an instruction reads under mode word m. -/
def readsOf (m : BitVec 16) : Instr → Regs
  | .brx a | .callx a | .ret a | .jtab a _ | .switch a _ => [(a.toNat, 1)]
  | .ensure c _ => [(c.toNat, 1)]
  | .convj a h => addrRegs h a
  | .setmRegister v => [(v.toNat, 1)]
  | .vadd _ a b | .vsub _ a b | .vmul _ a b | .vmulh _ a b | .vmin _ a b | .vmax _ a b | .vand _ a b | .vor _ a b
  | .vxor _ a b | .vshl _ a b | .vshr _ a b | .vrol _ a b | .vbfe _ a b | .vpack _ a b | .vbcast _ a b | .vshfl _ a b
  | .vshfx _ a b | .vcmp _ a b _ | .vfcmp _ a b _ | .vfadd _ a b _ | .vfsub _ a b _ | .vfmul _ a b _ | .vfmin _ a b _
  | .vfmax _ a b _ | .vfdiv _ a b _ => [(a.toNat, 1), (b.toNat, 1)]
  | .vmad d a b | .vdot4 d a b | .vbfi d a b | .vfma d a b _ => [(d.toNat, 1), (a.toNat, 1), (b.toNat, 1)]
  | .vsel _ a _ _ b => [(a.toNat, 1), (b.toNat, 1)]
  | .vabs _ a | .vneg _ a | .vclz _ a | .vpopc _ a | .vbrev _ a | .vmov _ a | .vtag _ a | .vunpk _ a | .vaddi _ a _
  | .vandi _ a _ | .vori _ a _ | .vxori _ a _ | .vshli _ a _ | .vshri _ a _ | .vcmpi _ _ a _ | .vaff _ a _
  | .vred _ a _ | .vscan _ a _ _ | .pmask _ a | .vrcp _ a _ | .vrsq _ a _ | .vsqrt _ a _ | .vexp2 _ a _ | .vlog2 _ a _
  | .vsin _ a _ | .vcos _ a _ | .vfrnd _ a _ | .vscl _ a _ _ => [(a.toNat, 1)]
  | .vcvt _ a y _ => [(a.toNat, cvtSrc (tyOf m) y.toNat)]
  | .vlui d _ => [(d.toNat, 1)]
  | .vcvtn d a _ _ => [(d.toNat + 1, 1), (a.toNat, 4)]
  | .vamax _ a n => [(a.toNat, countRegs n)]
  | .ld _ a h _ _ | .lda _ a h _ _ | .ldw _ a h _ _ | .pref a h _ | .lr _ a h _ _ _ => addrRegs h a
  | .st d a h z | .strl d a h z _ | .sc d a h z _ _ => (d.toNat, sizeRegs z.toNat) :: addrRegs h a
  | .atom d a h _ _ o | .atomAcq d a h _ _ o | .atomRel d a h _ _ o | .atomAr d a h _ _ o =>
    (d.toNat, if o = 7#3 then 2 else 1) :: addrRegs h a
  | .cpy d a b _ => [(d.toNat, 1), (a.toNat, 2), (b.toNat, 2)]
  | .cpyb d a b _ | .cpyxG d a b _ | .cpyxS d a b _ => [(d.toNat, 2), (a.toNat, 2), (b.toNat, 2)]
  | .mma _ _ a b | .mmack _ _ a b => [(a.toNat, 1), (b.toNat, 1)]
  | .mld _ a h | .mst _ a h | .mstn _ _ a h => addrRegs h a
  | .mckv _ _ b => [(b.toNat, 1)]
  | .mckc _ q => [(q.toNat, 4)]
  | .fpush d _ | .trace d _ => [(d.toNat, 1)]
  | .evsigAdd a b | .evsigSet a b => [(a.toNat, 1), (b.toNat, 1)]
  | .evsigClr a | .evqry _ a => [(a.toNat, 1)]
  | .sysw d _ => [(d.toNat, 2)]
  | _ => []

/-- Registers that an instruction writes under mode word m. -/
def writesOf (m : BitVec 16) : Instr → Regs
  | .call _ | .callx _ => [(1, 1)]
  | .getm d | .vadd d _ _ | .vsub d _ _ | .vmul d _ _ | .vmulh d _ _ | .vmad d _ _ | .vmin d _ _ | .vmax d _ _
  | .vabs d _ | .vneg d _ | .vdot4 d _ _ | .vand d _ _ | .vor d _ _ | .vxor d _ _ | .vshl d _ _ | .vshr d _ _
  | .vrol d _ _ | .vclz d _ | .vpopc d _ | .vbrev d _ | .vbfe d _ _ | .vbfi d _ _ | .vmov d _ | .vtag d _
  | .vpack d _ _ | .vsel d _ _ _ _ | .vaddi d _ _ | .vandi d _ _ | .vori d _ _ | .vxori d _ _ | .vshli d _ _
  | .vshri d _ _ | .vaff d _ _ | .vmovi d _ | .vlui d _ | .vbcast d _ _ | .vshfl d _ _ | .vshfx d _ _ | .vred d _ _
  | .vscan d _ _ _ | .ballot d _ | .vfadd d _ _ _ | .vfsub d _ _ _ | .vfmul d _ _ _ | .vfma d _ _ _ | .vfmin d _ _ _
  | .vfmax d _ _ _ | .vfdiv d _ _ _ | .vrcp d _ _ | .vrsq d _ _ | .vsqrt d _ _ | .vexp2 d _ _ | .vlog2 d _ _
  | .vsin d _ _ | .vcos d _ _ | .vfrnd d _ _ | .vamax d _ _ | .vscl d _ _ _ => [(d.toNat, 1)]
  | .vcvt d _ y _ => [(d.toNat, cvtDst (tyOf m) y.toNat)]
  | .vunpk d _ | .vcvtn d _ _ _ | .sysr d _ => [(d.toNat, 2)]
  | .vrand d n => [(d.toNat, countRegs n)]
  | .vspr d n => [(d.toNat, if [5, 10, 11].contains n.toNat then 2 else 1)]
  | .ld d _ _ z _ | .lda d _ _ z _ | .ldw d _ _ z _ | .lr d _ _ z _ _ => [(d.toNat, sizeRegs z.toNat)]
  | .atom d _ _ _ n _ | .atomAcq d _ _ _ n _ | .atomRel d _ _ _ n _ | .atomAr d _ _ _ n _ =>
    if n = 0#1 then [(d.toNat, 1)] else []
  | .sc d _ _ _ _ _ | .fpop d _ | .bankm d _ _ _ | .evqry d _ => [(d.toNat, 1)]
  | .mckv d _ _ => [(d.toNat, 4)]
  | _ => []

/-- Every register an instruction names under mode word m. -/
def regsOf (m : BitVec 16) (i : Instr) : Regs := readsOf m i ++ writesOf m i

/-- The single registers of a list of ranges. -/
def regNums (r : Regs) : List Nat := r.flatMap (fun p => (upto p.2).map (p.1 + ·))

/-- Tiles that an instruction names (R397 step 3). -/
def tilesOf : Instr → List Nat
  | .mma _ t _ _ | .mld t _ _ | .mst t _ _ | .mstn _ t _ _ => [t.toNat]
  | .mmack _ t _ _ | .mckv _ t _ | .mckc t _ => [t.toNat, t.toNat + 1]
  | .mzero m => (upto 16).filter (fun i => m.getLsbD i)
  | _ => []

/-- Group instructions (R114). -/
def isGroup : Instr → Bool
  | .ensure _ _ | .elseby _ | .elseerr | .accept _ | .convj _ _ | .convl | .cpyb _ _ _ _ | .cpyxG _ _ _ _
  | .cpyxS _ _ _ _ | .qfence _ | .mma _ _ _ _ | .mmack _ _ _ _ | .mzero _ | .mld _ _ _ | .mst _ _ _ | .mstn _ _ _ _
  | .mckv _ _ _ | .mckc _ _ => true
  | _ => false

/-- Instructions that act for every active lane whatever the guard (R266). -/
def noGuard : Instr → Bool
  | .nop | .yield | .join | .wbar | .gbar => true
  | _ => false

/-- Instructions that must be the last word of their clause (R271). -/
def lastOnly : Instr → Bool
  | .bra _ | .braAny _ | .braAll _ | .brx _ | .call _ | .callx _ | .ret _ | .jtab _ _ | .switch _ _ | .eret | .eretSkip
  | .trap _ | .join | .ensure _ _ | .elseby _ | .elseerr | .accept _ | .reject | .convj _ _ | .wbar | .gbar | .exit
  | .halt | .yield => true
  | _ => false

/-- TYPE is one of the integer types I32 to N8x4. -/
def intTy (m : BitVec 16) : Bool := tyOf m ≤ 5
/-- TYPE is one of the float types F32, F16x2, BF16x2. -/
def fltTy (m : BitVec 16) : Bool := 6 ≤ tyOf m && tyOf m ≤ 8

/-- A matrix instruction, held by the duty limits and Tocsin stage 4 (R106, R398). -/
def isMatrix : Instr → Bool
  | .mma _ _ _ _ | .mmack _ _ _ _ | .mzero _ | .mld _ _ _ | .mst _ _ _ | .mstn _ _ _ _ | .mckv _ _ _ | .mckc _ _ => true
  | _ => false

/-- A vector instruction, held by the duty limits (R106): the words of majors 0x20 to 0x44. -/
def isVector (i : Instr) : Bool :=
  match i with
  | .vcmp .. | .vcmpi .. | .pand .. | .por .. | .pxor .. | .pnot .. | .ballot .. | .pmask .. | .vfcmp .. | .vtag ..
  | .vspr .. | .vrand .. => true
  | _ => (match writesOf 0#16 i with
    | [] => false
    | _ => match i with
      | .call _ | .callx _ | .getm _ | .sysr _ _ | .fpop _ _ | .bankm _ _ _ _ | .evqry _ _ | .mckv _ _ _ | .ld ..
      | .lda .. | .ldw .. | .lr .. | .sc .. | .atom .. | .atomAcq .. | .atomRel .. | .atomAr .. => false
      | _ => true)

end Sys2Proof.Machine
end

