-- ==== Sys2Proof/Machine/Access.lean ====
section
/-! DEFINITION. Reaching storage: the issuing context, translation (R166 to R170), the forming and checking of an
access (R143, R363), tiled-halo and sparse views (R162 to R165), and the reads and writes of its parts. -/

namespace Sys2Proof.Machine

/-! ## The issuing context -/

/-- Everything an instruction looks at when it issues: its group, split, workgroup, gang and launch. -/
structure Ctx where
  gk : Nat
  ix : Nat
  g  : Group
  sp : Split
  wk : Nat
  wg : Wg
  nk : Nat
  gg : Gang
  lk : Nat
  l  : Launch
deriving DecidableEq, Repr

/-- The context of group gk with split number ix. -/
def State.ctxOf (s : State) (gk ix : Nat) : Option Ctx :=
  match mget? s.groups gk with
  | none => none
  | some g => match g.splits[ix]? with
    | none => none
    | some sp => match mget? s.wgs g.wg with
      | none => none
      | some wg => match mget? s.gangs wg.gang with
        | none => none
        | some gg => match mget? s.launches gg.launch with
          | none => none
          | some l => some { gk := gk, ix := ix, g := g, sp := sp, wk := g.wg, wg := wg, nk := wg.gang, gg := gg,
                             lk := gg.launch, l := l }

/-- The context of the split that issues. -/
def State.ctx (s : State) : Option Ctx :=
  match s.focus with
  | none => none
  | some f => s.ctxOf f.g f.ix

/-- The zero register (R262 at placement). -/
def Reg.zero : Reg := { val := allLanes.map (fun _ => 0#32), tag := .U, pois := [] }

/-- Register r of a group; V0 is zero (R116). -/
def Group.reg (g : Group) (r : Nat) : Reg := if r = 0 then Reg.zero else mgetD g.regs r Reg.zero

/-- Lane l of register r with its poison (R282 read_v). -/
def Group.lane (g : Group) (r l : Nat) : Val :=
  let x := g.reg r
  { w := x.val.getD l 0#32, p := mget? x.pois l }

/-- Lane l of the pair r:r+1 as a number, with the lowest of the two tags (R213, R282). -/
def Group.pair (g : Group) (r l : Nat) : Nat × Option PTag :=
  let a := g.lane r l
  let b := g.lane (r + 1) l
  (a.w.toNat + b.w.toNat * 2 ^ 32, tagMin a.p b.p)

/-- Predicate p; P7 is true everywhere (R262). -/
def Group.pred (g : Group) (p : Nat) : Lanes := if p = 7 then BitVec.allOnes 32 else mgetD g.preds p 0#32

/-- Completion flag f; 15 names none (R268). -/
def Group.flag (g : Group) (f : Nat) : Nat := mgetD g.flags f 0

/-- Lanes whose guard is true under mode word m (R266). -/
def Group.guard (g : Group) (m : BitVec 16) : Lanes :=
  if m.getLsbD 0 then
    (let p := g.pred (nbits m.toNat 4 2)
     if m.getLsbD 1 then ~~~ p else p)
  else BitVec.allOnes 32

/-- The active, guard-true lanes of the issuing split. -/
def Ctx.act (c : Ctx) : Lanes := c.sp.mask &&& c.g.guard c.g.m

/-- The operand lane: the lowest active, guard-true lane (R408). -/
def Ctx.opLane (c : Ctx) : Option Nat := lowLane c.act

/-- The lanes of the group that have not exited. -/
def Group.present (g : Group) : Lanes := ~~~ g.exited

/-- The lowest non-exited lane (R380, R393). -/
def Group.low (g : Group) : Nat := (lowLane g.present).getD 0

/-- Die of the core a group runs on. -/
def Group.die (g : Group) : Nat := g.core / 48

/-- A split stands where at least one block is open. -/
def Ctx.inBlock (c : Ctx) : Bool := !c.wg.blocks.isEmpty

/-- The role's register budget (R89, R116). -/
def Ctx.budget (c : Ctx) : Nat :=
  if c.g.k < c.l.ncopy then c.l.rcopy else if c.g.k < c.l.ncopy + c.l.nmat then c.l.rmat else c.l.repi

/-- The current generation of an address space (R169). -/
def State.asGen (s : State) (asp : Nat) : Nat := mgetD s.mm.gens asp 0

/-- Accesses of a launch are rejected for a stale generation (R170). While an ADVANCE of the space is in progress, a unit
may still hold the generation before it (R169): whether this one does is left open. -/
def State.stale (s : State) (l : Launch) : Bool :=
  let now := s.asGen l.aspace
  let old := s.mm.asBusy == some (l.aspace, true) && Config.freeBit s.draws
  (if old then (now + 255) % 256 else now) != l.gen

/-- Address space and generation of a launch, as error records and salvage entries hold them. -/
def Launch.space (l : Launch) : Nat := l.aspace % 4096 + l.gen % 256 * 4096

/-! ## Translation -/

/-- Reads an 8-byte table entry through the L2 of the core's die (R168); none where no memory is or the line is poisoned. -/
def State.tableWord (s : State) (core pa : Nat) : Option Nat × State :=
  if paExists pa then
    let (bs, p, s) := s.readPa core pa 8 .l2
    (if p.isSome then none else some (ofBytesLE bs), s)
  else (none, s)

/-- The index of va in a table of level lv (R166). -/
def tableIndex (lv va : Nat) : Nat :=
  match lv with
  | 0 => nbits va 51 48
  | 1 => nbits va 47 39
  | 2 => nbits va 38 30
  | 3 => nbits va 29 21
  | _ => nbits va 20 16

/-- What the entry e of a table of level lv says of va: a leaf's translation, the table of the next level, or neither
(R166, R167). -/
def tableEntry (lv e va : Nat) : Option (Sum Trans Nat) :=
  if !nbit e 0 || nbits e 63 45 ≠ 0 || nbit e 6 || nbits e 3 2 ≠ 0 then none
  else
    let addr := nbits e 44 7 * 128
    if nbit e 1 then
      let size := match lv with
        | 2 => 2 ^ 30
        | 3 => 2 ^ 21
        | _ => 2 ^ 16
      if lv < 2 || addr % size ≠ 0 || !paReachable addr || !paReachable (addr + size - 1)
          || inDram addr != inDram (addr + size - 1) then none
      else some (.inl { base := addr + va % size / 65536 * 65536, w := nbit e 4, x := nbit e 5 })
    else if lv = 4 || addr % (if lv = 3 then 256 else 4096) ≠ 0 then none
    else some (.inr addr)

/-- The level-0 table that the two words of an entry of the address-space table name (R168). -/
def spaceEntry (a b : Nat) : Option Nat :=
  if b ≠ 0 || !nbit a 0 || nbits a 63 45 ≠ 0 || nbits a 6 1 ≠ 0 then none else some (nbits a 44 7 * 128)

/-- The walk of levels lv and below from the table at pa (R166, R167); fuel is the number of levels left. -/
def State.walkFrom (s : State) (core tab va : Nat) : Nat → Option Trans × State
  | 0 => (none, s)
  | fuel + 1 =>
    let (e, s) := s.tableWord core (tab + 8 * tableIndex (4 - fuel) va)
    match e.bind (fun e => tableEntry (4 - fuel) e va) with
    | none => (none, s)
    | some (.inl t) => (some t, s)
    | some (.inr next) => s.walkFrom core next va fuel

/-- Where the entry of an address space lies (R168). -/
def State.spaceAt (s : State) (asp : Nat) : Nat := s.fld 0x21 44 16 * 65536 + 16 * asp

/-- A walk for va of an address space (R168). -/
def State.walk (s : State) (core asp va : Nat) : Option Trans × State :=
  if asp = 0 || s.fld 0x21 0 0 = 0 then (none, s)
  else
    let (a, s) := s.tableWord core (s.spaceAt asp)
    let (b, s) := s.tableWord core (s.spaceAt asp + 8)
    match a.bind (fun a => b.bind (spaceEntry a)) with
    | some tab => s.walkFrom core tab va 5
    | none => (none, s)

/-- Key of a cached translation. -/
def tlbKey (asp va : Nat) : Nat := asp * 2 ^ 36 + va / 65536 % 2 ^ 36

/-- What a table entry at pa may read as for an address space: what memory holds now, and all that it has held since the ASCTL
action that last completed was ordered, which a walker may have cached (R168). -/
def State.heldWords (s : State) (asp pa : Nat) : List Nat :=
  if !paExists pa then []
  else
    (if (s.linePois (pa / 128)).isSome then [] else [s.readN pa 8]) ++
    (s.mm.olds.take (s.mm.olds.length - mgetD s.mm.marks asp 0)).filterMap (fun e => if e.1 = pa / 8 then some e.2 else none)

/-- The translations that a walk from the table at tab comes to through entries that may be held (R168). -/
def State.heldWalk (s : State) (asp tab va : Nat) : Nat → List Trans
  | 0 => []
  | fuel + 1 => (s.heldWords asp (tab + 8 * tableIndex (4 - fuel) va)).flatMap (fun e =>
    match tableEntry (4 - fuel) e va with
    | none => []
    | some (.inl t) => [t]
    | some (.inr next) => s.heldWalk asp next va fuel)

/-- The translations of va from old and new contents of the tables (R168). -/
def State.heldTrans (s : State) (asp va : Nat) : List Trans :=
  (s.heldWords asp (s.spaceAt asp)).flatMap (fun a => (s.heldWords asp (s.spaceAt asp + 8)).flatMap (fun b =>
    match spaceEntry a b with
    | some tab => s.heldWalk asp tab va 5
    | none => []))

/-- The translation of va. Where what a core caches, what a walker may hold of the tables and the tables now differ, any of
those that translate may be used until the next ASCTL action completes, on any core (R168, assumption 8). -/
def State.translate (s : State) (core asp va : Nat) : Option Trans × State :=
  if asp = 0 || s.fld 0x21 0 0 = 0 then (none, s)
  else
    let cached := mget? s.mm.tlb (tlbKey asp va)
    let (now, s) := if cached.isSome then ((s.walk core asp va).1, s) else s.walk core asp va
    let old := (cached.toList ++ s.heldTrans asp va).map some
    let (t, s) :=
      if old.all (· == now) then (now, s)
      else ((now :: old).getD (Config.freeNat s.draws % (old.length + 1)) now, s.draw 1)
    match t with
    | some x => (t, s.setMM { s.mm with tlb := mput s.mm.tlb (tlbKey asp va) x })
    | none => (t, s)

/-! ## Scratchpad places -/

/-- ESIZE and DEPTH of a FIFO bank (R149). -/
def Bank.esize (b : Bank) : Nat := 128 * 2 ^ b.e
def Bank.depth (b : Bank) : Nat := 0x20000 / b.esize

/-- The place in the workgroup's banks of scratchpad byte off, when its bank is in scratchpad mode (R148). -/
def Wg.scrAt (w : Wg) (off : Nat) : Option Nat :=
  match w.list[off / 0x20000]? with
  | none => none
  | some b => match mget? w.banks b with
    | some k => if k.mode = .scratch then some (b * 0x20000 + off % 0x20000) else none
    | none => none

/-- Every byte of [off, off + n) of the scratchpad lies in a scratchpad-mode bank. -/
def Wg.scrOk (w : Wg) (off n : Nat) : Bool :=
  (upto ((off + n + 0x1FFFF) / 0x20000 - off / 0x20000)).all (fun i => (w.scrAt (off / 0x20000 * 0x20000 + i * 0x20000)).isSome)

/-- n bytes of a workgroup's banks at bank place a (bank × 0x20000 + offset), with the lowest sector tag. -/
def Wg.bankRead (w : Wg) (a n : Nat) : List Byte × Option PTag :=
  (memGetL w.sram a n,
   tagMinL ((upto ((a + n + 31) / 32 - a / 32)).map (fun i => mget? w.spois (a / 32 + i))))

/-- Writes bytes at bank place a: a sector written whole with clean data loses its poison, any other keeps it or takes
that of the write (R214, R216). -/
def Wg.bankWrite (w : Wg) (a : Nat) (bs : List Byte) (p : Option PTag) : Wg :=
  let n := bs.length
  let sectors := (upto ((a + n + 31) / 32 - a / 32)).map (fun i => a / 32 + i)
  let sp := sectors.foldl (fun m k =>
    let whole := a ≤ k * 32 && k * 32 + 32 ≤ a + n
    match (if whole && p.isNone then none else tagMin p (mget? m k)) with
    | some t => mput m k t
    | none => mdel m k) w.spois
  { w with sram := memPutL w.sram a bs, spois := sp }

/-- A write of clean data takes errors away unfound from the 8-byte words that it writes whole (R208, R436). -/
def State.dropSram (s : State) (wk a n : Nat) (p : Option PTag) : State :=
  if p.isSome then s
  else s.dropFlaws (fun x => match x with
    | .sram w k => w = wk && a ≤ k * 8 && k * 8 + 8 ≤ a + n
    | _ => false)

/-- n bytes of the scratchpad of workgroup wk at off. -/
def State.scrRead (s : State) (wk off n : Nat) : List Byte × Option PTag :=
  match mget? s.wgs wk with
  | none => (bytesLE n 0, none)
  | some w => match w.scrAt off with
    | none => (bytesLE n 0, none)
    | some a => w.bankRead a n

/-- The launch's space and the queue and gang index that own a workgroup, as error records name them (R220, log entry 141). -/
def State.ownerOf (s : State) (wk : Nat) : Nat × Option (Nat × Nat) :=
  match mget? s.wgs wk with
  | none => (0, none)
  | some w => match mget? s.gangs w.gang with
    | none => (0, none)
    | some g => match mget? s.launches g.launch with
      | none => (0, none)
      | some l => (l.space, some (l.queue, g.index))

/-- The lanes m of register r of a group are read and checked: an error that the check does not correct poisons its lane
with class 4 (R208, R436, R437). -/
def State.checkReg (s : State) (gk : Nat) (m : Lanes) (r : Nat) : State :=
  if s.rel.latent.isEmpty then s
  else match mget? s.groups gk with
    | none => s
    | some g =>
      let o := s.ownerOf g.wg
      (lanesOf m).foldl (fun s l => match s.findFlaw (.reg gk r l) 4 (g.core + g.sched * 256) 0 o.1 o.2 with
        | (some t, s) => s.updGroup gk (fun g =>
            let x := g.reg r
            { g with regs := mput g.regs r { x with
              val := x.val.set l (Config.freeWord s.draws), tag := .G, pois := mput x.pois l t } })
        | (none, s) => s) s

/-- The 8-byte word k of a workgroup's banks is read and checked: an error that the check does not correct poisons its
sector with class 3 (R208, R436). -/
def State.checkWord (s : State) (wk k : Nat) : State :=
  match mget? s.wgs wk with
  | none => s
  | some w =>
    let bank := match mget? w.banks (k / 16384) with
      | some b => b.phys.getD 0
      | none => 0
    let o := s.ownerOf wk
    match s.findFlaw (.sram wk k) 3 (w.core + (0x20 + bank) * 256) 0 o.1 o.2 with
    | (some t, s) => s.updWg wk (fun w =>
        { w with spois := mput w.spois (k / 4) (((tagMin (some t) (mget? w.spois (k / 4)))).getD t) })
    | (none, s) => s

/-- The n bytes at bank place a are read and checked. -/
def State.checkSram (s : State) (wk a n : Nat) : State :=
  s.rel.latent.foldl (fun s f => match f.at_ with
    | .sram w k => if w = wk && a / 8 ≤ k && k * 8 < a + n then s.checkWord wk k else s
    | _ => s) s

/-- A read of n bytes of the scratchpad of workgroup wk at off, which finds the errors that lie there. -/
def State.scrLook (s : State) (wk off n : Nat) : List Byte × Option PTag × State :=
  let s := match mget? s.wgs wk with
    | none => s
    | some w => match w.scrAt off with
      | none => s
      | some a => s.checkSram wk a n
  let (b, p) := s.scrRead wk off n
  (b, p, s)

/-- Writes bytes to the scratchpad of workgroup wk at off. -/
def State.scrWrite (s : State) (wk off : Nat) (bs : List Byte) (p : Option PTag) : State :=
  match mget? s.wgs wk with
  | none => s
  | some w => match w.scrAt off with
    | none => s
    | some a => (s.updWg wk (fun w => w.bankWrite a bs p)).dropSram wk a bs.length p

/-! ## Views -/

/-- Element bits of a format code (R90). -/
def fmtWidth (f : Nat) : Nat :=
  if 1 ≤ f ∧ f ≤ 8 then f else if f = 9 ∨ f = 10 then 8 else if f = 11 ∨ f = 12 then 16 else if f = 13 then 32 else 0

/-- Fields of the kind information of a tiled-halo handle (R162). -/
structure Halo where
  tw : Nat
  th : Nat
  hx : Nat
  hy : Nat
  wrap : Bool
  hoff : Nat

def Handle.halo (h : Handle) : Halo :=
  let k := h.kinfo.toNat
  { tw := nbits k 15 0, th := nbits k 31 16, hx := nbits k 39 32, hy := nbits k 47 40, wrap := nbit k 48,
    hoff := nbits k 63 49 * 128 }

/-- RSIZE of R162. -/
def Halo.rsize (h : Halo) : Nat := 2 * h.hy * (h.tw + 8 * h.hx) + 8 * h.th * h.hx

/-- Where in the replica the byte at row dy, column dx relative to the own tile's corner lies: none outside the halo. -/
def Halo.pos (h : Halo) (dx dy : Int) : Option Nat :=
  let x4 : Int := 4 * h.hx
  let tw : Int := h.tw
  let th : Int := h.th
  let hy : Int := h.hy
  let roww := h.tw + 8 * h.hx
  if dx < -x4 ∨ tw + x4 ≤ dx ∨ dy < -hy ∨ th + hy ≤ dy then none
  else if dy < 0 then some ((dy + hy).toNat * roww + (dx + x4).toNat)
  else if th ≤ dy then some (h.hy * roww + (dy - th).toNat * roww + (dx + x4).toNat)
  else if dx < 0 then some (2 * h.hy * roww + dy.toNat * (4 * h.hx) + (dx + x4).toNat)
  else if tw ≤ dx then some (2 * h.hy * roww + h.th * (4 * h.hx) + dy.toNat * (4 * h.hx) + (dx - tw).toNat)
  else none

/-- What an access to a byte of the region reaches: the own tile, a place of the replica, or nothing (R163). -/
inductive HaloAt where
  | own
  | rep (pos : Nat)
  | out
deriving DecidableEq

/-- Every place that region byte o has in the replica of workgroup k of a w × hh gang: several, or one besides the own
tile, where tiles wrap and W or H is 1 or 2 (R162, R163). -/
def Halo.places (h : Halo) (w hh k o : Nat) : List Nat :=
  if h.tw = 0 || h.th = 0 || w = 0 then []
  else
    let dx : Int := ((o % (w * h.tw) : Nat) : Int) - ((k % w * h.tw : Nat) : Int)
    let dy : Int := ((o / (w * h.tw) : Nat) : Int) - ((k / w * h.th : Nat) : Int)
    let rw : Int := ((w * h.tw : Nat) : Int)
    let rh : Int := ((hh * h.th : Nat) : Int)
    let xs := if h.wrap then [dx, dx - rw, dx + rw] else [dx]
    let ys := if h.wrap then [dy, dy - rh, dy + rh] else [dy]
    (ys.flatMap (fun y => xs.map (fun x => h.pos x y))).filterMap id

/-- Region byte o is in the tile of workgroup k (R163). -/
def Halo.owns (h : Halo) (w k o : Nat) : Bool :=
  h.tw != 0 && h.th != 0 && w != 0 && o / (w * h.tw) / h.th * w + o % (w * h.tw) / h.tw == k

/-- What workgroup k of a w × hh gang reaches at byte o of the region (R163). -/
def Halo.at (h : Halo) (w hh k o : Nat) : HaloAt :=
  if h.owns w k o then .own
  else match h.places w hh k o with
    | p :: _ => .rep p
    | [] => .out

/-! ## Forming an access -/

/-- What an access is for, as far as paths, rights and pages care (R146, R363). -/
inductive AccKind where
  | load
  | watched
  | store
  | atom
  | lrsc
  | pref
  | conv
deriving DecidableEq

def AccKind.writes : AccKind → Bool
  | .store | .atom | .lrsc => true
  | _ => false

/-- The instruction is permitted on the path, the own tile standing for path 0x7 (R363). -/
def AccKind.pathOk (k : AccKind) (path : Nat) (own : Bool) : Bool :=
  match k with
  | .load | .pref => path ≤ 7
  | .conv => path = 0 || path = 1 || path = 4
  | .watched => path = 0 || (path = 7 && own)
  | .store | .atom => [0, 1, 3, 4, 5].contains path || (path = 7 && own)
  | .lrsc => path = 0 || path = 5

/-- The rights of a slot; a flat access has those of R143. -/
def AccKind.rights (k : AccKind) (h : Option Handle) : Bool :=
  match h with
  | none => true
  | some h => match k with
    | .load | .watched | .pref | .conv => h.rr
    | .store => h.rw
    | .atom | .lrsc => h.ra && h.rw

/-- What steps 6 and 7 of R363 say of a byte: no translation, a path that does not reach it, a home that is gone, a page that
must not be written. -/
inductive PageAt where
  | none
  | tier
  | dead
  | ro
  | ok
deriving DecidableEq

/-- The order of these checks, and their faults. -/
def PageAt.rank : PageAt → Nat
  | .none => 0
  | .tier => 1
  | .dead => 2
  | .ro => 3
  | .ok => 4

def PageAt.code : PageAt → Nat
  | .none | .dead => 7
  | .tier | .ro => 5
  | .ok => 0

/-- Steps 6 and 7 of R363 at a virtual address, with the physical one. -/
def State.pageAt (s : State) (c : Ctx) (k : AccKind) (path va : Nat) : PageAt × Nat × State :=
  let (t, s) := s.translate c.g.core c.l.aspace va
  match t with
  | none => (.none, 0, s)
  | some t =>
    let pa := t.base + va % 65536
    (if path = 5 && !inTier2 pa then .tier
     else if k.writes && (s.deadHome pa).isSome then .dead
     else if k.writes && !t.w then .ro
     else .ok, pa, s)

/-- The part of a virtual address range that one place holds: the translation of R363 steps 6 and 7. Answers a fault
code, or the physical address. -/
def State.pageOf (s : State) (c : Ctx) (k : AccKind) (path va : Nat) : Sum Nat Nat × State :=
  match s.pageAt c k path va with
  | (.ok, pa, s) => (.inr pa, s)
  | (g, _, s) => (.inl g.code, s)

/-- Where an access of a path and a cache policy keeps its lines (R140, R146): policy 0 for a flat access. -/
def keepOf (path : Nat) (h : Option Handle) : Keep :=
  let policy := match h with
    | some h => h.policy
    | none => 0
  if path = 1 || (path = 5 && policy = 1) then .l2Low
  else if path = 5 || policy = 2 then .l2
  else if policy = 1 then .coreLow
  else .core

/-- A part of an access on a path that names its place at once. -/
def mkAcc (lane addr path : Nat) (loc : Loc) (off n : Nat) (keep : Keep) : Access :=
  { lane := lane, addr := addr, path := path, loc := loc, off := off, n := n, keep := keep, data := 0, pois := none,
    cmp := 0 }

/-- Steps 3, 4, 5 of R363 on address addr, and steps 6, 7 for a translated path: the parts of the access, or a fault.
h is the slot's entry, none for a flat access; off its offset; al the alignment. -/
def State.formParts (s : State) (c : Ctx) (h : Option Handle) (off addr n al : Nat) (k : AccKind) (lane : Nat) :
    Sum Nat (List Access) × State :=
  let path := addr / 2 ^ 60
  let lo := addr % 2 ^ 60
  let keep := keepOf path h
  let aligned := (if path = 6 then off else lo) % al == 0
  let right := k.rights h
  let late : Option Nat := if !aligned then some 4 else if !right then some 5 else none
  -- the bytes whose bank's mode is checked before the alignment: a misaligned access is refused for that, wherever it ends
  let m := if aligned then n else 1
  if 8 ≤ path then (.inl 5, s)
  else if path = 3 then
    if nbits lo 59 22 ≠ 0 || c.l.scratch ≤ lo || !k.pathOk path false || !c.wg.scrOk lo m then (.inl 5, s)
    else match late with
      | some f => (.inl f, s)
      | none => (.inr [mkAcc lane addr path (.scr c.wk lo) 0 n keep], s)
  else if path = 4 then
    let wgn := lo / 0x400000
    let b := lo % 0x400000
    let okBank := match mget? s.wgs (wgKey c.nk wgn) with
      | some w => w.scrOk b m
      | none => false
    if nbits lo 59 27 ≠ 0 || c.gg.w * c.gg.h ≤ wgn || c.l.scratch ≤ b || !k.pathOk path false || !okBank then
      (.inl 5, s)
    else match late with
      | some f => (.inl f, s)
      | none => (.inr [mkAcc lane addr path (.scr (wgKey c.nk wgn) b) 0 n keep], s)
  else if nbits lo 59 52 ≠ 0 then (.inl 5, s)
  else
    match path, h with
    | 6, none => (.inl 5, s)
    | 7, none => (.inl 5, s)
    | 6, some hd =>
      if !k.pathOk path false then (.inl 5, s)
      else match late with
        | some f => (.inl f, s)
        | none =>
          let w := fmtWidth (nbits hd.kinfo.toNat 4 0)
          let g := 16 * w
          if g = 0 then (.inl 6, s)
          else match s.pageOf c k 0 (hd.base + 128 * (off / g)) with
            | (.inl f, s) => (.inl f, s)
            | (.inr pa, s) => (.inr [mkAcc lane addr path (.sparse pa (off % g) w (nbits hd.kinfo.toNat 11 5)) 0 n keep], s)
    | 7, some hd =>
      let hl := hd.halo
      let at_ := fun i => hl.at c.gg.w c.gg.h c.wg.k (off + i)
      let own := (upto n).all (fun i => at_ i = .own)
      let okAll := (upto n).all (fun i => at_ i ≠ .out)
      if !okAll || !k.pathOk path own then (.inl 5, s)
      else match late with
        | some f => (.inl f, s)
        | none =>
          if own then
            match s.pageOf c k 0 lo with
            | (.inl f, s) => (.inl f, s)
            | (.inr pa, s) => (.inr [mkAcc lane addr path (.mem pa) 0 n keep], s)
          else
            (upto n).foldl (fun acc i => match acc with
              | (.inl f, s) => (.inl f, s)
              | (.inr ps, s) => match at_ i with
                | .own => (match s.pageOf c k 0 (lo + i) with
                  | (.inl f, s) => (.inl f, s)
                  | (.inr pa, s) => (.inr (ps ++ [mkAcc lane addr path (.mem pa) i 1 keep]), s))
                | .rep p =>
                  if c.wg.scrOk (hl.hoff + p) 1 then
                    (.inr (ps ++ [mkAcc lane addr path (.scr c.wk (hl.hoff + p)) i 1 keep]), s)
                  else (.inl 5, s)
                | .out => (.inl 5, s)) (.inr [], s)
    | _, _ =>
      if !k.pathOk path false then (.inl 5, s)
      else match late with
        | some f => (.inl f, s)
        | none => match s.pageOf c k path lo with
          | (.inl f, s) => (.inl f, s)
          | (.inr pa, s) => (.inr [mkAcc lane addr path (.mem pa) 0 n keep], s)

/-- The access of lane l through slot h and register a, n bytes (R143, R363 steps 1 to 7). -/
def State.formAccess (s : State) (c : Ctx) (h a n : Nat) (k : AccKind) (l : Nat) : Sum Nat (List Access) × State :=
  if h = 0 then
    let (addr, p) := c.g.pair a l
    if p.isSome then (.inl 9, s) else s.formParts c none 0 addr n n k l
  else
    let v := c.g.lane a l
    if v.p.isSome then (.inl 9, s)
    else match mget? c.wg.handles h with
      | none => (.inl 6, s)
      | some hd =>
        let off := v.w.toNat
        if hd.limit < off + n - 1 then (.inl 6, s)
        else s.formParts c (some hd) off (hd.path * 2 ^ 60 + (hd.base + off) % 2 ^ 60) n n k l

/-! ## The parts of an access -/

/-- Bit i of the mask of an N:128 line: the first 16 bytes (R297). -/
def lineMask (d : BitVec 1024) (i : Nat) : Bool := d.getLsbD i

/-- Mask bits set in a line. -/
def lineCount (d : BitVec 1024) : Nat := ((upto 128).filter (lineMask d)).length

/-- Element i of an N:128 line of width w, 0 where absent: packed values follow the mask in index order (R297). -/
def lineElem (d : BitVec 1024) (w i : Nat) : Nat :=
  if lineMask d i then
    let r := ((upto i).filter (lineMask d)).length
    d.toNat / 2 ^ (128 + w * r) % 2 ^ w
  else 0

/-- Bytes [o, o + n) of the dense view of an N:128 line (R165). -/
def denseBytes (d : BitVec 1024) (w o n : Nat) : List Byte :=
  (upto n).map (fun i =>
    let bit := 8 * (o + i)
    BitVec.ofNat 8 (lineElem d w (bit / w) / 2 ^ (bit % w)))

/-- An access on path 0x5 has reached line ln: one that missed L2 may continue an ascending run (R161). -/
def State.reached (s : State) (core ln : Nat) (a : Access) (hit : Bool) : State :=
  if a.path = 5 && !hit then s.runAhead core ln else s

/-- Reads one part: its bytes, their poison, the state. -/
def State.readPart (s : State) (core : Nat) (a : Access) : List Byte × Option PTag × State :=
  match a.loc with
  | .scr wk off => s.scrLook wk off a.n
  | .mem pa =>
    if a.path = 2 then
      let (d, p, s) := s.readRO core (pa / 128) a.keep
      (lineBytes d (pa % 128) a.n, p, s)
    else
      let hit := s.inL2 core (pa / 128)
      let (bs, p, s) := s.readPa core pa a.n a.keep
      (bs, p, s.reached core (pa / 128) a hit)
  | .sparse pa o w _ =>
    let (d, p, s) := s.readLine core (pa / 128) a.keep
    (denseBytes d w o a.n, p, s)

/-- Reads an access in its parts: its value and poison. -/
def State.readParts (s : State) (core : Nat) (ps : List Access) : Nat × Option PTag × State :=
  ps.foldl (fun acc a =>
    let (v, p, s) := acc
    let (bs, p', s) := s.readPart core a
    (v + ofBytesLE bs * 2 ^ (8 * a.off), tagMin p p', s)) (0, none, s)

/-- Writes one part. -/
def State.writePart (s : State) (core writer : Nat) (a : Access) (bs : List Byte) (p : Option PTag) : State :=
  match a.loc with
  | .scr wk off => s.scrWrite wk off bs p
  | .mem pa => (s.writeLine core pa bs a.keep p writer).reached core (pa / 128) a (s.inL2 core (pa / 128))
  | .sparse .. => s

end Sys2Proof.Machine
end

