-- ==== Sys2Proof/Machine/Ops.lean ====
section
/-! DEFINITION. The shared operations of instructions: splits (R109 to R113), stalls, the taking of a fault (R121 to
R124) and the return from the fault entry (R340), block failure (R130), the recovery log (R132), register and predicate
writes (R115, R282), completion flags (R270), and the checks every instruction passes at issue (R263). -/

namespace Sys2Proof.Machine

/-! ## Splits -/

/-- The live index of a split. -/
def Split.liveIx (p : Split) : Option Nat :=
  match p.st with
  | .live i => some i
  | _ => none

/-- Live indices of a group that no split holds, ascending. -/
def freeIx (ps : List Split) : List Nat := [0, 1, 2, 3].filter (fun i => !(ps.any (fun p => p.liveIx == some i)))

/-- Lowest lane of a split, for the ties of R111. -/
def Split.lane0 (p : Split) : Nat := (lowLane p.mask).getD 32

/-- The order of R111: program counter, then lowest lane. -/
def Split.rank (p : Split) : Nat := p.pc * 64 + p.lane0

/-- The position of the ready split that refill takes, leaving out position ex (R111 step 2). -/
def nextReady (ps : List Split) (ex : Option Nat) : Option Nat :=
  ((leastBy (fun e => e.1.rank) (ps.zipIdx.filter (fun e => e.1.st == .ready && some e.2 != ex))).map (·.2))

/-- A split becomes live at index i: its rotation count starts anew (R111). -/
def Split.goLive (p : Split) (i : Nat) : Split := { p with st := .live i, issued := 0 }

/-- Fills free live slots from the ready splits (R111 step 2); fuel is the number of slots. -/
def refillList (ps : List Split) : Nat → List Split
  | 0 => ps
  | fuel + 1 =>
    match freeIx ps, nextReady ps none with
    | i :: _, some k => refillList (ps.modify k (·.goLive i)) fuel
    | _, _ => ps

/-- Refill of a group (R111 step 2). -/
def Group.refill (g : Group) : Group := { g with splits := refillList g.splits 4 }

/-- Two splits of one group merge (R112). -/
def canMerge (a b : Split) : Bool :=
  a.pc == b.pc && a.busy.isNone && b.busy.isNone &&
  (match a.st, b.st with
  | .live _, .live _ | .live _, .ready | .ready, .live _ | .ready, .ready =>
    if a.handler || b.handler then a.handler && b.handler && a.ret == b.ret else true
  | .waiting x, .waiting y => x == y && a.handler == b.handler && (!a.handler || a.ret == b.ret)
  | _, _ => false)

/-- The state of a merged split: live at the lower index if either is live (R112). -/
def mergeSt (a b : SplitState) : SplitState :=
  match a, b with
  | .live i, .live j => .live (min i j)
  | .live i, _ => .live i
  | _, .live j => .live j
  | x, _ => x

/-- The union of two splits that merge; its age is 0 (R112). -/
def mergeTwo (a b : Split) : Split :=
  { (if a.liveIx.isNone && b.liveIx.isSome then b else a) with
    mask := a.mask ||| b.mask, st := mergeSt a.st b.st, age := 0, issued := max a.issued b.issued
    yielded := a.yielded || b.yielded }

/-- Merges the split at position ix with every split it may merge with (R112): the group, and the new position. -/
def Group.mergeAt (g : Group) (ix : Nat) : Group × Nat :=
  match g.splits[ix]? with
  | none => (g, ix)
  | some p =>
    let others := g.splits.zipIdx.filter (fun e => e.2 != ix && canMerge p e.1)
    match others with
    | [] => (g, ix)
    | _ =>
      let m := others.foldl (fun a e => mergeTwo a e.1) p
      let gone := others.map (·.2)
      let kept := (g.splits.set ix m).zipIdx.filter (fun e => !gone.contains e.2)
      ({ g with splits := kept.map (·.1) }, ix - (gone.filter (· < ix)).length)

/-- A split is parked, waiting (R110). -/
def Split.isWaiting (p : Split) : Bool :=
  match p.st with
  | .waiting _ => true
  | _ => false

/-- The split is one of the splits before, or what is left of one: it has not been parked since. -/
def Split.stood (p : Split) (old : List Split) : Bool :=
  old.any (fun o => o.st == p.st && o.pc == p.pc && (p.mask &&& ~~~ o.mask) == 0#32)

/-- Split p of the group, where it still stands alone, merges with the splits it may merge with. -/
def Group.mergeSplit (g : Group) (p : Split) : Group :=
  match g.splits.zipIdx.find? (fun e => e.1 == p) with
  | some e => (g.mergeAt e.2).1
  | none => g

/-- Every split that has been parked since the group's splits were old merges with the splits it may merge with (R112). -/
def Group.mergeParked (g : Group) (old : List Split) : Group :=
  (g.splits.filter (fun p => (p.isWaiting || p.st == .ready) && !p.stood old)).foldl (fun g p => g.mergeSplit p) g

/-- The split at position ix gives its live slot to the ready split that refill takes, and is parked, ready; without a
ready split it keeps its slot (R111 step 3, R327). -/
def Group.giveWay (g : Group) (ix : Nat) : Group :=
  match g.splits[ix]? with
  | none => g
  | some p => match p.liveIx, nextReady g.splits (some ix) with
    | some i, some k =>
      ({ g with splits := (g.splits.set ix { p with st := .ready, issued := 0, age := 0, stall := 12 }).modify k (·.goLive i) } :
        Group).mergeParked g.splits
    | _, _ => g

/-- The release of JOIN (R113): when every non-exited lane is parked, waiting, the splits at the JOIN of lowest program
counter merge and go on after it. -/
def Group.joinRelease (g : Group) : Group :=
  let waits := g.splits.all (·.isWaiting)
  let joins := g.splits.filter (fun p => p.st == .waiting .join)
  if !waits then g
  else match leastBy (·.pc) joins with
    | none => g
    | some j =>
      let here := joins.filter (fun p => p.pc == j.pc && canMerge j p)
      let m := here.foldl (fun a p => { a with mask := a.mask ||| p.mask, yielded := a.yielded || p.yielded }) j
      let rest := g.splits.filter (fun p => !(p.st == .waiting .join && p.pc == j.pc && canMerge j p))
      let st : SplitState := match freeIx rest with
        | i :: _ => .live i
        | [] => .ready
      { g with splits := rest ++ [{ m with pc := j.pc + 1, st := st, age := 0, issued := 0, inClause := false }] }

/-- What parking, exiting and releasing bring about in a group whose splits were old: merging, JOIN release, refill (R111 to
R113). -/
def Group.settle (g : Group) (old : List Split) : Group := ((g.mergeParked old).joinRelease).refill

/-- Puts the parts a split has divided into in its place (R111 step 1): ordered by program counter, the first takes the
live index of the split, the others free indices, the rest are ready; faulted parts take no slot. -/
def Group.divide (g : Group) (ix : Nat) (parts : List Split) : Group :=
  match g.splits[ix]? with
  | none => g
  | some p =>
    let run := sortBy (·.rank) (parts.filter (fun q => q.mask != 0#32 && q.st != .faulted))
    let bad := parts.filter (fun q => q.mask != 0#32 && q.st == .faulted)
    let rest := g.splits.eraseIdx ix
    let ixs := (match p.liveIx with
      | some i => [i]
      | none => []) ++ freeIx (g.splits)
    let run := run.zipIdx.map (fun e => match ixs[e.2]? with
      | some i => { e.1 with st := .live i, issued := if e.2 = 0 then e.1.issued else 0 }
      | none => { e.1 with st := .ready, stall := 12 })
    { g with splits := rest.take ix ++ run ++ bad ++ rest.drop ix }

/-- A ready split of lanes m at word pc, outside any clause. -/
def Split.start (m : Lanes) (pc : Nat) : Split :=
  { mask := m, pc := pc, st := .ready, age := 0, issued := 0, ret := 0, handler := false, fcode := 0, inClause := false,
    setA := 15, setB := 15, clauseEnd := 0, yieldHint := false, wait := 0#12, yielded := false, stall := 0, arg := 0,
    resume := false, busy := none }

/-! ## Stalls and advancing -/

/-- The instruction does not issue, for reason r (R246): the split waits where it stands. -/
def State.stallBy (s : State) (c : Ctx) (r : Nat) : State :=
  let s := s.updGroup c.gk (fun g => { g with splits := g.splits.modify c.ix (fun p => { p with stall := r }) })
  { s with focus := s.focus.map (fun f => { f with stall := r }) }

/-- The record of split p standing at word t after an instruction: in its clause when t follows inside it (R269). -/
def Split.goTo (p : Split) (t : Nat) : Split :=
  let inside := p.inClause && t == p.pc + 1 && t != p.clauseEnd
  { p with
    pc := t, inClause := inside, age := 0, wait := 0#12, resume := false, busy := none
    yielded := p.inClause && !inside && p.yieldHint }

/-! ## Block failure and the log -/

/-- Logs of a workgroup: the bytes its log-mode banks hold (R132). -/
def Wg.logCap (w : Wg) : Nat := ((mvals w.banks).filter (fun b => b.mode == .log)).length * 0x20000

/-- Logical banks in log mode, in the order in which the log fills them (R132). -/
def Wg.logList (w : Wg) : List Nat := (w.banks.filter (fun b => b.2.mode == .log)).map (·.1)

/-- Bytes an entry takes (R132). -/
def LogEntry.size : LogEntry → Nat
  | .reg _ _ old => if old.tag = .G ∨ old.pois ≠ [] then 144 else 16
  | .word .. => 16
  | .line .. => 144
  | .tile .. => 16400
  | .handle .. => 48
  | .fifo .. => 16
  | .granule .. => 144

/-- Two entries name one location (R133). -/
def sameLoc : LogEntry → LogEntry → Bool
  | .reg k r _, .reg k' r' _ => k == k' && r == r'
  | .word _ w o _ _, .word _ w' o' _ _ => w == w' && o == o'
  | .line n _ _, .line n' _ _ => n == n'
  | .tile t _, .tile t' _ => t == t'
  | .handle h _, .handle h' _ => h == h'
  | .fifo b _, .fifo b' _ => b == b'
  | .granule w o _ _, .granule w' o' _ _ => w == w' && o == o'
  | _, _ => false

/-- Groups of a workgroup of a launch (R88). -/
def Launch.groups (l : Launch) : Nat := l.ncopy + l.nmat + l.nepi

/-- Bytes of a frame (R132). -/
def frameSize (l : Launch) : Nat := 64 + 192 * l.groups

/-- Bytes the log of a workgroup holds. -/
def Wg.logUsed (w : Wg) (l : Launch) : Nat :=
  (w.blocks.map (fun b => frameSize l + (b.log.map LogEntry.size).foldl (· + ·) 0)).foldl (· + ·) 0

/-- The scheduler that holds group 0 of a workgroup, as SINST (R235). -/
def State.sched0 (s : State) (wk : Nat) : Nat × Nat :=
  match mget? s.groups (groupKey wk 0) with
  | some g => (g.core / 48, g.core * 4 + g.sched)
  | none => (0, 0)

/-- Offers a BLOCK record: what, cause, depth after (R235). -/
def State.emitBlock (s : State) (wk what cause depth : Nat) : State :=
  match mget? s.wgs wk with
  | none => s
  | some w => match mget? s.gangs w.gang with
    | none => s
    | some gg => match mget? s.launches gg.launch with
      | none => s
      | some l =>
        let (die, inst) := s.sched0 wk
        s.emitL l die 0 inst 0x0C (what + cause * 4 + depth * 64 + w.k * 2 ^ 9 + gg.index % 2 ^ 18 * 2 ^ 14)

/-- The start of a failure in one workgroup (R130, R131): the workgroup freezes, its generations move on, operations that
have not started are cancelled. Of several causes of one cycle the lowest is kept, on the outermost block; a later
failure of an outer block takes the place of one that is not rolled back yet. -/
def State.failHere (s : State) (wk cause depth pc : Nat) (atAccept : Bool) : State :=
  match mget? s.wgs wk with
  | none => s
  | some w =>
    if w.blocks.isEmpty then s
    else match w.failing with
      | some f =>
        if f.clk = s.clk then
          let f' : Failing := if f.depth < depth || (f.depth = depth && atAccept)
            then { f with cause := min f.cause cause, depth := depth, pc := pc, atAccept := atAccept }
            else { f with cause := min f.cause cause }
          s.updWg wk (fun w => { w with failing := some f' })
        else if f.depth < depth then
          (let f' : Failing := { f with cause := cause, depth := depth, pc := pc, atAccept := atAccept }
           s.updWg wk (fun w => { w with failing := some f' }))
        else s
      | none =>
        let s := s.updWg wk (fun w => { w with
          gen := w.gen + 1
          failing := some { cause := cause, clk := s.clk, depth := depth, pc := pc, atAccept := atAccept } })
        { s with groups := mmap s.groups (fun _ g =>
            if g.wg = wk then { g with ops := g.ops.filter (·.started) } else g) }

/-- The innermost open block of a workgroup fails, or the one at a depth from it (R130); in a conversation, the failure
of an outermost block fails the blocks of every other member with cause 8 (R136). -/
def State.failBlock (s : State) (wk cause depth pc : Nat) (atAccept : Bool) : State :=
  match mget? s.wgs wk with
  | none => s
  | some w =>
    let s := s.failHere wk cause depth pc atAccept
    match w.conv with
    | some m =>
      if depth + 1 = w.blocks.length then
        (upto 24).foldl (fun s k =>
          let other := wgKey w.gang k
          match mget? s.wgs other with
          | some o => if nbit m k && other ≠ wk && o.conv == some m then
              s.failHere other 8 (o.blocks.length - 1) 0 false else s
          | none => s) s
      else s
    | none => s

/-- A failing workgroup has no further effect (R131). -/
def State.frozen (s : State) (wk : Nat) : Bool :=
  match mget? s.wgs wk with
  | some w => w.failing.isSome
  | none => false

/-- The block of a workgroup is failing since this cycle (R130). -/
def State.failsNow (s : State) (wk : Nat) : Bool :=
  match mget? s.wgs wk with
  | some w => w.failing.any (fun f => f.clk == s.clk)
  | none => false

/-- A write of the location of e would be the first in the innermost open block, so that the location is read for its
pre-image (R132). -/
def State.logsNew (s : State) (wk : Nat) (e : LogEntry) : Bool :=
  match mget? s.wgs wk with
  | some w => match w.blocks with
    | b :: _ => !b.log.any (sameLoc e)
    | [] => false
  | none => false

/-- The pre-image of line ln is read where die d, which gets ownership for the write, holds it (R132, R436). -/
def State.linePre (s : State) (wk core ln : Nat) (low : Bool) : LogEntry × State :=
  let s := s.own (core / 48) ln low
  let s := if s.logsNew wk (.line ln 0#1024 none) then s.checkOwn (core / 48) ln else s
  (.line ln (s.lineData ln) (s.linePois ln), s)

/-- Appends an entry to the innermost block's log when its location is not logged yet; an entry that does not fit fails
the block with cause 7 (R132). False when the write must not be made. -/
def State.logFirst (s : State) (wk : Nat) (e : LogEntry) (pc : Nat) : Bool × State :=
  match mget? s.wgs wk with
  | none => (true, s)
  | some w => match w.blocks with
    | [] => (true, s)
    | b :: rest =>
      if b.log.any (sameLoc e) then (true, s)
      else
        let l := match mget? s.gangs w.gang with
          | some gg => mget? s.launches gg.launch
          | none => none
        match l with
        | none => (true, s)
        | some l =>
          if w.logCap < w.logUsed l + e.size then (false, s.failBlock wk 7 0 pc false)
          else (true, s.updWg wk (fun w => { w with blocks := { b with log := e :: b.log } :: rest }))

/-! ## Taking a fault -/

/-- The cause of R123 of a fault code in an open block, when it has one. -/
def faultCause (code : Nat) : Option Nat :=
  if 4 ≤ code ∧ code ≤ 8 then some 2
  else if code = 9 then some 5
  else if code = 0x0A then some 3
  else if code = 0x0B then some 4
  else if code = 0x0C then some 6
  else none

/-- Posts the kind 2 entry of a fault with its kind 6 continuation, and counts it in FAULTS (R79, R124). -/
def State.postFault (s : State) (c : Ctx) (code pc : Nat) : State :=
  let s := s.updQueue c.l.queue (fun q => { q with faults := satAdd 0xFFFF q.faults 1 })
  let detail := code % 256 * 2 ^ 50 + c.gg.index % 2 ^ 18 * 2 ^ 32 + c.wg.k * 2 ^ 27 + c.g.k * 2 ^ 22 + pc % 2 ^ 22
  s.postCq c.l.queue (cqe 2 c.l.queue c.l.tag 0 c.l.index detail)
    (some (cqe 6 c.l.queue c.l.tag 0 c.l.index (c.gg.index % 2 ^ 48)))

/-- Offers the FAULT record (R235). -/
def State.emitFault (s : State) (c : Ctx) (code ret : Nat) : State :=
  s.emitL c.l c.g.die 0 (c.g.core * 4 + c.g.sched) 0x0B (code % 256 + ret % 2 ^ 22 * 2 ^ 8 + c.g.slot * 2 ^ 30)

/-- The mask of lanes for which a code is given. -/
def codeMask (f : Nat → Option Nat) : Lanes := maskOf (fun l => (f l).isSome)

/-- FAULTINFO of a fault (R124). -/
def faultInfo (code ret : Nat) : Word := BitVec.ofNat 32 (code % 256 + ret % 2 ^ 22 * 2 ^ 8)

/-- The split of the faulting lanes m, with the code of its lowest lane (R124): at the fault entry when the launch has
one and the split is not already in it, and a faulted split at the instruction otherwise. -/
def faultSplit (c : Ctx) (m : Lanes) (pc code : Nat) : Split :=
  if c.l.faulten && !c.sp.handler then
    { c.sp with
      busy := none, mask := m, pc := c.l.faultoff, handler := true, ret := pc, fcode := code, inClause := false, age := 0, issued := 0
      yielded := false, st := .ready, wait := 0#12, resume := false }
  else
    { c.sp with
      busy := none, mask := m, pc := pc, st := .faulted, ret := pc, age := 0, stall := 27
      fcode := if c.sp.handler then 0x11 else code }

/-- TAKING A FAULT (R122 to R124): the lanes for which code names a fault form a split at the fault entry or a faulted
split, with return point pc; place says what becomes of the other lanes of the group. In an open block the faults of R123
fail the innermost block instead. -/
def State.takeFaultAt (s : State) (c : Ctx) (code : Nat → Option Nat) (pc : Nat) (place : Group → List Split → Group) :
    State :=
  let m := codeMask code
  let codes := (lanesOf m).filterMap code
  match c.inBlock, codes.filterMap faultCause with
  | true, x :: xs => s.failBlock c.wk (xs.foldl min x) 0 pc false
  | _, _ =>
    if m = 0#32 then s.updGroup c.gk (fun g => place g [])
    else
      let entry := c.l.faulten && !c.sp.handler
      let bad := faultSplit c m pc (codes.headD 0)
      let s := s.updGroup c.gk (fun g =>
        place { g with
          resv := g.resv.filter (fun r => !m.getLsbD r.1)
          finfo := if entry then
              (lanesOf m).foldl (fun f l => mput f l (faultInfo ((code l).getD 0) pc)) g.finfo
            else g.finfo } [bad])
      let s := s.emitFault c bad.fcode pc
      if entry then s else s.postFault c bad.fcode pc

/-- The issuing split divides into parts and the faulting split (R111, R124). -/
def Ctx.splitUp (c : Ctx) (parts : List Split) (g : Group) (bad : List Split) : Group :=
  (g.divide c.ix (parts ++ bad)).settle g.splits

/-- A fault at the issue of an instruction: the lanes with a code leave the split at instruction pc, and its other lanes
go on at next. -/
def State.takeFault (s : State) (c : Ctx) (code : Nat → Option Nat) (pc : Nat) (next : List (Lanes × Nat)) : State :=
  s.takeFaultAt c code pc (c.splitUp (next.map (fun p => { c.sp.goTo p.2 with mask := p.1 })))

/-- A fault of the whole issuing split: nothing of the instruction is performed (R122). -/
def State.raiseAll (s : State) (c : Ctx) (code : Nat) : State :=
  s.takeFault c (fun l => if c.sp.mask.getLsbD l then some code else none) c.sp.pc []

/-- Faults of the instruction whose block fails in this cycle already: their causes count for it too (R123, R130). -/
def State.failAlso (s : State) (c : Ctx) (code : Nat → Option Nat) : State :=
  match ((lanesOf (codeMask code)).filterMap code).filterMap faultCause with
  | x :: xs => if s.failsNow c.wk then s.failBlock c.wk (xs.foldl min x) 0 c.sp.pc false else s
  | [] => s

/-- The instruction ends: lanes with a fault code leave, the others go on at the next word (R122). -/
def State.endInstr (s : State) (c : Ctx) (code : Nat → Option Nat) : State :=
  if s.frozen c.wk then s.failAlso c code
  else s.takeFault c code c.sp.pc [(c.sp.mask &&& ~~~ codeMask code, c.sp.pc + 1)]

/-- No lane faults. -/
def noFault : Nat → Option Nat := fun _ => none

/-- The instruction completes in every lane: the split goes on at the next word. -/
def State.advance (s : State) (c : Ctx) : State := s.endInstr c noFault

/-- THE RETURN FROM THE FAULT ENTRY (R340): the lanes m go back to the return point plus k, with the clause context of
R269 step 5 to be taken when the split next issues; the others stay in the handler. -/
def State.faultReturn (s : State) (c : Ctx) (m : Lanes) (k : Nat) : State :=
  let back : Split :=
    { c.sp with
      mask := m, pc := c.sp.ret + k, handler := false, fcode := 0, ret := 0, inClause := false, age := 0
      resume := true, yielded := c.sp.inClause && c.sp.yieldHint }
  let stay : Split := { c.sp.goTo (c.sp.pc + 1) with mask := c.sp.mask &&& ~~~ m }
  s.updGroup c.gk (fun g =>
    let g := { g with finfo := g.finfo.filter (fun e => !m.getLsbD e.1) }
    (g.divide c.ix [back, stay]).settle g.splits)

/-! ## Writing registers and predicates -/

/-- The tag a register takes from a write (R115): of mask m, result tag t, values f. -/
def newTag (old : Reg) (m : Lanes) (t : Tag) (f : Nat → Val) : Tag :=
  let ls := lanesOf m
  if ls.any (fun l => (f l).p.isSome) then .G
  else if m = BitVec.allOnes 32 then t
  else if old.tag = .U && old.pois.isEmpty && ls.all (fun l => (f l).w == old.val.getD 0 0#32) then .U
  else .G

/-- The register after a write of values f in the lanes m; a poisoned lane takes a free number (R115, R215). -/
def Reg.write (old : Reg) (m : Lanes) (t : Tag) (f : Nat → Val) (draws : Nat) : Reg :=
  if m = 0#32 then old
  else
    { val := allLanes.map (fun l =>
        if m.getLsbD l then (match (f l).p with
          | some _ => Config.freeWord (draws + l)
          | none => (f l).w)
        else old.val.getD l 0#32)
      tag := newTag old m t f
      pois := allLanes.filterMap (fun l =>
        (if m.getLsbD l then (f l).p else mget? old.pois l).map (fun p => (l, p))) }

/-- Whether a write of these values draws free numbers. -/
def anyPoisoned (m : Lanes) (f : Nat → Val) : Bool := (lanesOf m).any (fun l => (f l).p.isSome)

/-- A write of lanes of a register takes errors in them away unfound (R436). -/
def State.dropReg (s : State) (gk d : Nat) (m : Lanes) : State :=
  s.dropFlaws (fun x => match x with
    | .reg g r l => g = gk && r = d && m.getLsbD l
    | _ => false)

/-- Writes register d of a group without logging. -/
def State.putReg (s : State) (gk d : Nat) (m : Lanes) (t : Tag) (f : Nat → Val) : State :=
  if d = 0 || m = 0#32 then s
  else
    let s' := (s.updGroup gk (fun g => { g with regs := mput g.regs d ((g.reg d).write m t f s.draws) })).dropReg gk d m
    if anyPoisoned m f then s'.draw 32 else s'

/-- The instruction's write of register d in the lanes m, with result tag t and values f (R282 write_v): V0 discards it,
an open block logs the register first, and a log that is full fails the block instead. -/
def State.writeV (s : State) (c : Ctx) (d : Nat) (m : Lanes) (t : Tag) (f : Nat → Val) : State :=
  if d = 0 || m = 0#32 || s.frozen c.wk then s
  else if c.inBlock then
    let (ok, s) := s.logFirst c.wk (.reg c.g.k d (c.g.reg d)) c.sp.pc
    if ok then s.putReg c.gk d m t f else s
  else s.putReg c.gk d m t f

/-- Writes consecutive registers from d (R263 pairs and quads): word j of lane l is f j l. -/
def State.writeVs (s : State) (c : Ctx) (d n : Nat) (m : Lanes) (t : Tag) (f : Nat → Nat → Val) : State :=
  (upto n).foldl (fun s j => s.writeV c (d + j) m t (f j)) s

/-- Writes predicate p in the lanes m; P7 does not change (R262, R282). -/
def State.writeP (s : State) (gk p : Nat) (m b : Lanes) : State :=
  if p = 7 || m = 0#32 then s
  else s.updGroup gk (fun g => { g with preds := mput g.preds p ((g.pred p &&& ~~~ m) ||| (b &&& m)) })

/-- A clean value. -/
def clean (w : Word) : Val := { w := w, p := none }

/-- The value of a function of two lane values; poison of either decides (R215). -/
def Val.map2 (f : Word → Word → Word) (a b : Val) : Val := { w := f a.w b.w, p := tagMin a.p b.p }

/-- The value of a function of one lane value (R215). -/
def Val.map1 (f : Word → Word) (a : Val) : Val := { w := f a.w, p := a.p }

/-! ## Flags of the group -/

/-- Adds 1 to flag f; 15 names no flag (R268, R270). -/
def Group.flagInc (g : Group) (f : Nat) : Group :=
  if 12 ≤ f then g else { g with flags := mput g.flags f (g.flag f + 1) }

/-- Takes 1 from flag f. -/
def Group.flagDec (g : Group) (f : Nat) : Group :=
  if 12 ≤ f then g else { g with flags := mput g.flags f (g.flag f - 1) }

/-- Every flag of a 12-bit mask is zero (R269, R418). -/
def Group.flagsZero (g : Group) (m : BitVec 12) : Bool := (upto 12).all (fun f => !m.getLsbD f || g.flag f == 0)

/-- The flag an operation would count on stands at 255 (R270). -/
def Group.flagFull (g : Group) (f : Nat) : Bool := f < 12 && 255 ≤ g.flag f

/-- The operation writes memory when it is performed. -/
def PendOp.writes : PendOp → Bool
  | .store _ | .atom .. | .sc _ => true
  | _ => false

/-! ## Delayed faults -/

/-- The delayed fault that is delivered at a point that sees the flags of mask fs (all when none), earliest first
(R378, R212). -/
def Group.due (g : Group) (fs : Option (BitVec 12)) : Option Delayed :=
  leastBy (·.id) (g.delayed.filter (fun d => match fs with
    | none => true
    | some m => d.flag < 12 && m.getLsbD d.flag))

/-- Delivers a delayed fault to the issuing split (R378): it is raised for the whole split, or fails the block. -/
def State.deliver (s : State) (c : Ctx) (d : Delayed) : State :=
  let s := s.updGroup c.gk (fun g => { g with delayed := g.delayed.filter (·.id != d.id) })
  if d.escape then s.failBlock c.wk 9 0 c.sp.pc false
  else s.raiseAll c d.code

/-! ## Checks at issue -/

/-- What the checks at issue decide. -/
inductive Pre where
  | go
  | fault (code : Nat)
  | stall (r : Nat)
  | deliver (d : Delayed)
deriving DecidableEq, Repr

/-- A pending return will write one of these registers (R270). -/
def Group.pendingOn (g : Group) (rs : List Nat) : Bool :=
  g.pend.any (fun p => !p.drop && (regNums [(p.dst, p.nreg)]).any (fun r => r != 0 && rs.contains r)) ||
  g.ops.any (fun o => match o.op with
    | .mckv d _ _ => (regNums [(d, 4)]).any (fun r => r != 0 && rs.contains r)
    | _ => false)

/-- An acquire of a lane of mask m has not been performed (R186). -/
def Group.acquiring (g : Group) (m : Lanes) : Bool := g.pend.any (fun p => p.acq && (p.lanes &&& m) != 0#32)

/-- A memory instruction, which an unperformed acquire holds back (R186). -/
def isMemory : Instr → Bool
  | .ld .. | .st .. | .lda .. | .strl .. | .ldw .. | .atom .. | .atomAcq .. | .atomRel .. | .atomAr .. | .lr .. | .sc ..
  | .cpy .. | .cpyb .. | .cpyxG .. | .cpyxS .. | .fence .. => true
  | _ => false

/-- Convergence of R114: the split holds every non-exited lane, all of them guard-true. -/
def Ctx.converged (c : Ctx) : Bool := c.sp.mask == c.g.present && c.act == c.g.present

/-- A debug stop holds the scheduler of a group (R252). -/
def State.isStopped (s : State) (g : Group) : Bool := (mget? s.stops (g.core * 4 + g.sched)).isSome

/-- The reason that goes before every other (R246): the gang is being saved, or the group stands in a debug stop or its gang
is halted (R252, R261). -/
def State.foremost (s : State) (g : Group) (gg : Gang) : Option Nat :=
  if gg.st = .saving ∨ gg.st = .saved then some 29
  else if s.isStopped g || gg.halted then some 26
  else none

/-- The reasons for which the split does not look at an instruction at all: the foremost ones, and an HLOAD or BANKM of its
own that is not finished (R151, R374), behind which stands a rollback of its workgroup (R246). -/
def State.holds (s : State) (c : Ctx) : Option Nat :=
  match s.foremost c.g c.gg with
  | some r => some r
  | none => c.sp.busy.map (fun b => match b with
    | .hload .. => 19
    | .bankm .. => if c.wg.failing.isSome then 22 else 28)

/-! ## Operating points and duties (R36, R37, R41) -/

/-- Arithmetic clock in kHz and nominal voltage in mV of an operating point (R37). -/
def opClock (p : Nat) : Nat := [850000, 750000, 637500, 531250, 425000, 212500].getD p 212500
def opVolt (p : Nat) : Nat := [420, 400, 380, 360, 340, 300].getD p 300

/-- The operating point of a core island: one step below the highest point that its margins allow for each grade of Tocsin
stage 6, down to OP5 (R37, R41, R56); OP4 in a drain (R47), whatever CAP says (log entry 166). -/
def State.opPoint (s : State) (core : Nat) : Nat :=
  if s.power.st = .draining then 4
  else min 5 (s.fld (0x200 + core) 15 13 + (s.power.applied.filter (· == 6)).length)

/-- The island's clock has an edge in this cycle of the model, which is one of the 850 MHz of OP0: at a lower point only the
share of its clock has one (R3, R37). Which they are is left open (log entry 140). -/
def State.edgeAt (s : State) (clk core : Nat) : Bool :=
  let f := opClock (s.opPoint core)
  let n := clk + Config.freeNat core
  s.opPoint core == 0 || n * f / 850000 != (n + 1) * f / 850000

/-- The island's clock has an edge in the cycle now. -/
def State.edge (s : State) (core : Nat) : Bool := s.edgeAt s.clk core

/-- Cycles of a core's own clock (R3). -/
def State.coreClk (s : State) (core : Nat) : Nat := s.clk - mgetD s.skips core 0

/-- Issue duties of matrix and vector instructions in eighths: the current limit, and Tocsin stages 4 and 5 (R36, R41); of two
limits on matrix issue the lower holds (log entry 147), and a floor that a new order brings does not raise the duty that was
reached (log entry 164). -/
def State.matrixDuty (s : State) : Nat := min s.power.duty (8 - (s.power.applied.filter (· == 4)).length)
def State.vectorDuty (s : State) : Nat := 8 - (s.power.applied.filter (· == 5)).length

/-- The delayed fault that the split meets at the wait of its clause (R378). -/
def Ctx.clauseDue (c : Ctx) : Option Delayed := if c.sp.wait = 0#12 then none else c.g.due (some c.sp.wait)

/-- The duty limits withhold a vector or matrix instruction in this cycle, or the lower clock of stage 6 every one (R36, R41,
R45, R106); which of eight cycles the duties leave is left open. A look at what a withheld instruction would do is not held
back (R246). -/
def State.throttled (s : State) (core : Nat) (i : Instr) : Bool :=
  let d := if isMatrix i then s.matrixDuty else if isVector i then s.vectorDuty else 8
  !s.focus.any (·.look) && (!s.edge core || (d < 8 && d ≤ (Config.freeNat (s.clk / 8) + s.clk) % 8))

/-- What of an encoding the place of the word and TYPE decide: the terminator of an ENSURE lies in the code (R328), the
register groups of VCVT are aligned (R263, R357). -/
def Ctx.encoded (c : Ctx) : Instr → Bool
  | .ensure _ e => c.sp.pc + e.toNat < 2 ^ 22
  | .vcvt d a y _ => aligned (cvtSrc (tyOf c.g.m) y.toNat) a && aligned (cvtDst (tyOf c.g.m) y.toNat) d
  | _ => true

/-- The checks of an instruction that may issue: the waits of R246 that its words and registers decide, the lowest first; a
delayed fault that the wait of its clause delivers; then R263 in its order: encoding (with the clause position of R269,
R271), convergence, budgets; last the fields of M that it reads (R267, R342). Operand values come after. -/
def State.pre (s : State) (c : Ctx) (i : Instr) (mOk : Bool) : Pre :=
  let rs := regNums (regsOf c.g.m i)
  match s.holds c with
  | some r => .stall r
  | none =>
    if !c.g.flagsZero c.sp.wait then .stall 2
    else if i.wf && c.g.pendingOn rs then .stall 3
    else if isMemory i && c.g.acquiring c.sp.mask then .stall 17
    else if c.wg.failing.isSome then .stall 22
    else if s.throttled c.g.core i then .stall 25
    else if let some d := c.clauseDue then .deliver d
    else if !i.wf || !c.encoded i || !c.sp.inClause || (lastOnly i && c.sp.pc + 1 != c.sp.clauseEnd) then .fault 1
    else if isGroup i && !c.converged then .fault 2
    else if rs.any (fun r => c.budget ≤ r) || (tilesOf i).any (fun t => c.l.tiles ≤ t) then .fault 3
    else if !mOk then .fault 1
    else .go

/-- Of reason r and the reason for which the instruction itself does not issue, the lower is reported, unless r goes before
every other (R246). -/
def State.leastReason (s : State) (r : Nat) (s' : State) : Nat :=
  if r = 26 ∨ r = 29 ∨ s'.focus = s.focus then r
  else match s'.focus with
    | some f => if f.stall = 0 then r else min r f.stall
    | none => r

/-- What the split does. Where the block of its workgroup has failed in this cycle already, it may give that failure one more
cause (R130), and does nothing else. -/
def State.orMerge (s : State) (c : Ctx) (run : Ctx → State) : State :=
  match c.wg.failing with
  | none => run c
  | some f =>
    if f.clk ≠ s.clk then run c
    else match (mget? (run { c with wg := { c.wg with failing := none } }).wgs c.wk).bind (·.failing) with
      | some f' => if f' = f then run c else s.failBlock c.wk f'.cause f'.depth f'.pc f'.atAccept
      | none => run c

/-- The word of a clause's body cannot be executed: the fault of code k, behind the wait of the clause (R269). -/
def State.noWord (s : State) (c : Ctx) (k : Nat) : State := s.orMerge c fun c =>
  if !c.g.flagsZero c.sp.wait then s.stallBy c 2
  else if c.wg.failing.isSome then s.stallBy c 22
  else match c.clauseDue with
    | some d => s.deliver c d
    | none => s.raiseAll c k

/-- Issues an instruction: the checks (mOk adds the mode values it accepts, R267), then what it does. Without an
issuing split there is nothing to do (the model's own stop). -/
def State.issue (s : State) (i : Instr) (mOk : Ctx → Bool) (body : Ctx → State) :
    Host.Outcome State Fault Refusal :=
  match s.ctx with
  | none => .fault .noIssuer
  | some c => .next (s.orMerge c fun c => match s.pre c i (mOk c) with
    | .fault k => s.raiseAll c k
    | .stall r => s.stallBy c (s.leastReason r (body c))
    | .deliver d => s.deliver c d
    | .go => body c)

/-- The instruction accepts every mode. -/
def anyMode : Ctx → Bool := fun _ => true

end Sys2Proof.Machine
end

