-- ==== Sys2Proof/Machine/Blocks.lean ====
section
/-! DEFINITION. Waiting points and recovery blocks: releases (R174, R186, R193), halo pushes (R164), delivery of delayed
faults (R378, R212), barrier release (R118), votes and commit (R129, R133, R136), instruction fetch (R275) and the
transfer step (R319). -/

namespace Sys2Proof.Machine

/-! ## Instruction fetch -/

/-- The 128 bytes of a code line: the core's fetch copy, filled when absent (R275, R375). -/
def State.codeLine (s : State) (core ln : Nat) : BitVec 1024 × State :=
  match mget? s.mm.icache (copyKey core ln) with
  | some d => (d, s)
  | none =>
    let (d, _, s) := s.readLine core ln .l2
    (d, s.setMM { s.mm with icache := mput s.mm.icache (copyKey core ln) d })

/-- The word at offset t from CODEBASE, or the fault of its fetch: path (page without X), translation, generation
(R167, R170, R275); past the last code address it is the illegal-instruction fault. -/
def State.fetch (s : State) (c : Ctx) (t : Nat) : Sum Nat Word × State :=
  if 2 ^ 22 ≤ t then (.inl 1, s)
  else if s.stale c.l then (.inl 8, s)
  else
    let va := c.l.codebase % 2 ^ 60 + 4 * t
    if nbits va 59 52 ≠ 0 then (.inl 5, s)
    else
      let (tr, s) := s.translate c.g.core c.l.aspace va
      match tr with
      | none => (.inl 7, s)
      | some tr =>
        if !tr.x then (.inl 5, s)
        else
          let pa := tr.base + va % 65536
          let (d, s) := s.codeLine c.g.core (pa / 128)
          (.inr (BitVec.ofNat 32 (d.toNat / 2 ^ (8 * (pa % 128)))), s)

/-- A word is a clause header (R268). -/
def isHeader (w : Word) : Bool := w.toNat / 2 ^ 25 == 0x7F

/-! ## The transfer step -/

/-- The fault of landing on word t: out of range, not a header, or its fetch (R269, R275); the continuation is not checked. -/
def State.landing (s : State) (c : Ctx) (cont : Nat) (t : Option Nat) : Option Nat × State :=
  match t with
  | none => (some 1, s)
  | some t =>
    if t = cont then (none, s)
    else match s.fetch c t with
      | (.inl k, s) => (some k, s)
      | (.inr w, s) => (if isHeader w then none else some 1, s)

/-- The faults of every target among the lanes, by target + 1 (0 for one out of range). -/
def State.landings (s : State) (c : Ctx) (cont : Nat) (ts : List Nat) : Map (Option Nat) × State :=
  ts.foldl (fun acc k =>
    let (m, s) := acc
    let (f, s) := s.landing c cont (if k = 0 then none else some (k - 1))
    (mput m k f, s)) ([], s)

/-- A target as a key: 0 when it lies outside the code (R275). -/
def tgtKey (t : Int) : Nat := if 0 ≤ t ∧ t < 2 ^ 22 then t.toNat + 1 else 0

/-- TRANSFER (R319): lane l of the split goes to word tgt l, where a lane that does not transfer has cont; lanes in pre
have faulted already. link says that transferring lanes take pc + 1 in V1 (R321). -/
def State.transfer (s : State) (c : Ctx) (cont : Nat) (takes : Lanes) (tgt : Nat → Int) (pre : Nat → Option Nat)
    (link : Bool) : State :=
  let part := c.sp.mask &&& ~~~ codeMask pre
  let key := fun l => if takes.getLsbD l then tgtKey (tgt l) else cont + 1
  let keys := dedup ((lanesOf part).map key)
  let (m, s) := s.landings c cont keys
  let code := fun l =>
    if part.getLsbD l then mgetD m (key l) none else if c.sp.mask.getLsbD l then pre l else none
  let good := part &&& ~~~ codeMask code
  let s := if link then s.writeV c 1 (good &&& takes) .U (fun _ => clean (BitVec.ofNat 32 (c.sp.pc + 1))) else s
  if s.frozen c.wk then s
  else
    let dests := (dedup ((lanesOf good).map key)).map (fun k =>
      (maskOf (fun l => good.getLsbD l && key l == k), k - 1))
    s.takeFault c code c.sp.pc dests

/-! ## Releases -/

/-- Some watch entry of the group is still pending (R193). -/
def Group.watching (g : Group) : Bool := g.watches.any (fun w => w.st == .pending || w.st == .fetching)

/-- Some struck lane of the group has not been consumed by CHK (R193). -/
def Group.struck (g : Group) : Bool :=
  g.watches.any (fun w => w.st == .struck && (w.lanes &&& ~~~ w.used) != 0#32)

/-- Accesses of these lanes have not been performed (R186). -/
def Group.accessing (g : Group) (m : Lanes) : Bool := g.pend.any (fun p => !p.acc.isEmpty && (p.lanes &&& m) != 0#32)

/-- The groups of workgroup wk. -/
def State.groupsOf (s : State) (wk : Nat) : Map Group := s.groups.filter (fun e => e.2.wg == wk)

/-- A plain store, through no tiled halo. -/
def Pend.plain (p : Pend) : Bool := match p.op with
  | .store _ => p.tile.isNone
  | _ => false

/-- How widely releases have passed a store that is not performed yet: 0 not at all, else one more than the scope at which it is
performed already, since no lane of that instance reads its bytes before it (R186, State.passedBy). -/
def Pend.passed (p : Pend) : Nat := if p.plain then p.scope else 0

/-- Group e of the state lies in the instance of scope n - 1 (GROUP, WG, GANG or DIE) of group gk, or of any group when there is
none, of workgroup wk on a die (R172, R173). -/
def inScope (n : Nat) (e : Nat × Group) (gk : Option Nat) (wk die : Nat) : Bool :=
  match n with
  | 0 => false
  | 1 => e.2.wg == wk && (gk.isNone || gk == some e.1)
  | 2 => e.2.wg == wk
  | 3 => e.2.wg / 32 == wk / 32
  | _ => e.2.die == die

/-- Group e has a store of the instance of the context that a release has passed, no further than the scope, and that is not
performed yet. -/
def Ctx.sees (c : Ctx) (e : Nat × Group) (q : Pend) (scope : Nat) : Bool :=
  q.passed ≤ scope && inScope q.passed e (some c.gk) c.wk c.g.die

/-- Some store of an instance that a workgroup lies in is passed and not performed yet. -/
def State.passing (s : State) (wk : Nat) : Bool :=
  s.groups.any (fun e => e.2.pend.any (fun q => q.passed != 0 &&
    s.groups.any (fun f => f.2.wg == wk && inScope q.passed e none wk f.2.die)))

/-- Accesses that are ordered before a release of the issuing split at this scope are not performed at it (R186): those of its
lanes that no release so wide has passed, and those that have been passed for it among fewer lanes, since what they precede may
have been seen (R182). -/
def State.relHeld (s : State) (c : Ctx) (scope : Nat) : Bool :=
  c.g.pend.any (fun p => !p.acc.isEmpty && (p.lanes &&& c.sp.mask) != 0#32 && p.passed ≤ scope) ||
    s.groups.any (fun e => e.2.pend.any (fun q => c.sees e q scope))

/-- A release narrower than DEV waits for earlier stores to be performed for every agent, or only until no lane of its instance
reads any more what they replace: the spec leaves open which (R173, R186), and so does the model (log entry 3). -/
def State.narrow (s : State) (c : Ctx) (scope : Nat) : State :=
  if 4 ≤ scope then s
  else
    (if Config.freeBit s.draws then
      { s with groups := mmap s.groups (fun k g => { g with pend := g.pend.map (fun p =>
        if p.plain && (k == c.gk && (p.lanes &&& c.sp.mask) != 0#32 && p.passed ≤ scope || c.sees (k, g) p scope)
          then { p with scope := scope + 1 } else p) }) }
    else s).draw 1

/-- All that an AR fence of the issuing split waits for are stores of its lanes: it orders them before the stores, atomics and SCs
of these lanes that follow, but before no later load (R180, R202). -/
def State.storesOnly (s : State) (c : Ctx) (scope : Nat) : Bool :=
  s.relHeld c scope && !c.g.watching && c.g.pend.all (fun p => p.acc.isEmpty || (p.lanes &&& c.sp.mask) == 0#32 || p.plain) &&
    !s.groups.any (fun e => e.2.pend.any (fun q => c.sees e q scope))

/-- A store before an AR fence that lanes of the operation have passed is not performed yet (R180). -/
def Group.fenced (g : Group) (p : Pend) : Bool :=
  g.ars.any (fun f => f.2 ≤ p.id && g.pend.any (fun q => q.plain && q.id < f.2 && (q.lanes &&& f.1 &&& p.lanes) != 0#32))

/-- Another store than operation id stands before an AR fence that its lanes have passed. -/
def Group.arHolds (g : Group) (id : Nat) (f : Lanes × Nat) : Bool :=
  g.pend.any (fun q => q.plain && q.id != id && q.id < f.2 && (q.lanes &&& f.1) != 0#32)

/-- What stands before a release of the issuing split (R186, R193, R378): waits with reason r for watches and for
what is held to be unperformed, a delivery, or an unconsumed strike. -/
inductive Rel0 where
  | ok
  | wait (r : Nat)
  | deliver (d : Delayed)
  | strike
deriving DecidableEq, Repr

def Ctx.relCheck (c : Ctx) (r : Nat) (held : Bool) : Rel0 :=
  if c.g.watching || held then .wait r
  else match c.g.due none with
    | some d => .deliver d
    | none => if c.g.struck then .strike else .ok

/-- Frees the confirmed entries of the group, when a release has passed its check (R367). -/
def Group.freeConfirmed (g : Group) : Group := { g with watches := g.watches.filter (fun w => w.st != .confirmed) }

/-- Bytes of the own tile of workgroup k that lie in the halo of workgroup j, with each of their places in j's replica
(R164). -/
def haloPairs (h : Halo) (w hh k j : Nat) : List (Nat × Nat) :=
  let rowB := w * h.tw
  let base := (k / w) * h.th * rowB + (k % w) * h.tw
  (upto h.th).flatMap (fun y => (upto h.tw).flatMap (fun x =>
    let o := base + y * rowB + x
    (h.places w hh j o).map (fun p => (o, p))))

/-- The push of a workgroup's tile through a handle: the values that the halos take, its own among them where tiles wrap
onto themselves (R162, R164), as writes (workgroup, scratchpad offset, byte, poison). Under a stale generation its accesses
are rejected (R170). -/
def State.pushOf (s : State) (c : Ctx) (hd : Handle) : List (Nat × Nat × Byte × Option PTag) × State :=
  let hl := hd.halo
  if s.stale c.l then ([], s)
  else (upto (c.gg.w * c.gg.h)).foldl (fun acc j =>
    (haloPairs hl c.gg.w c.gg.h c.wg.k j).foldl (fun acc op =>
      let (ws, s) := acc
      let (r, s) := s.pageOf c .load 0 (hd.base + op.1)
      match r with
      | .inl _ => (ws, s)
      | .inr pa =>
        let (b, t, s) := s.readPa c.g.core pa 1 (keepOf 7 (some hd))
        (ws ++ [(wgKey c.nk j, hl.hoff + op.2, b.headD 0#8, t)], s)) acc) ([], s)

/-- Makes pushed writes of a launch in the replicas, unless its generation is stale (R170). -/
def State.doPush (s : State) (l : Launch) (ws : List (Nat × Nat × Byte × Option PTag)) : State :=
  if s.stale l then s else ws.foldl (fun s w => s.scrWrite w.1 w.2.1 [w.2.2.1] w.2.2.2) s

/-- A release at WG scope or wider pushes every tile stored to since the last push (R164); in an open block the push is
held until the outermost block commits. -/
def State.pushTiles (s : State) (c : Ctx) : State :=
  c.wg.dirty.foldl (fun s hd =>
    let (ws, s) := s.pushOf c hd
    let s := s.updWg c.wk (fun w => { w with dirty := w.dirty.filter (· != hd) })
    if c.inBlock then s.updWg c.wk (fun w => { w with pushes := w.pushes ++ ws }) else s.doPush c.l ws) s

/-- What a release at a scope leaves unpublished: every write is published at least that widely (R197). -/
def pubUp (scope : Nat) (l : List (Option Nat × Nat)) : List (Option Nat × Nat) := l.map (fun e => (e.1, max e.2 scope))

/-- The frames of a workgroup after a release of group k at a scope (R197). -/
def Wg.pubUp (w : Wg) (k scope : Nat) : Wg :=
  { w with blocks := w.blocks.map (fun b => { b with frames := b.frames.map (fun f =>
      if f.k = k then { f with pub0 := Machine.pubUp scope f.pub0 } else f) }) }

/-- A release that has passed its check (R164, R197, R367): scope WG is 1. -/
def State.released (s : State) (c : Ctx) (scope : Nat) : State :=
  let s := s.updGroup c.gk (fun g => { g.freeConfirmed with pub := pubUp scope g.pub })
  let s := if c.inBlock then s.updWg c.wk (fun w => w.pubUp c.g.k scope) else s
  if 1 ≤ scope then s.pushTiles c else s

/-- A release, fence or atomic of this scope is an escape in the open block (R135, R197): wider than WG, unless the
workgroup is in a conversation and everything the group publishes lies in members' scratchpads. -/
def Ctx.escapes (c : Ctx) (scope : Nat) : Bool :=
  c.inBlock && 2 ≤ scope &&
  !(match c.wg.conv with
    | some m => c.g.pub.all (fun x => scope ≤ x.2 || (match x.1 with
      | none => false
      | some w => (upto 24).any (fun k => nbit m k && wgKey c.nk k == w)))
    | none => false)

/-! ## Parking and the barrier of the workgroup -/

/-- Parks the issuing split at a waiting point, with its stall reason (R110). -/
def State.park (s : State) (c : Ctx) (at_ : WaitAt) (r arg : Nat) : State :=
  s.updGroup c.gk (fun g =>
    ({ g with splits := g.splits.modify c.ix (fun p =>
        { p with
          st := .waiting at_, stall := r, arg := arg, age := 0, wait := 0#12
          yielded := p.inClause && p.yieldHint }) } : Group).settle g.splits)

/-- Every non-exited lane of the group waits at this point; a group without one counts as arrived (R118). -/
def Group.arrived (g : Group) (at_ : WaitAt) : Bool := g.splits.all (fun p => p.st == .waiting at_)

/-- Some group of the workgroup waits there, and all have arrived. -/
def State.gathered (s : State) (wk : Nat) (at_ : WaitAt) : Bool :=
  let gs := s.groupsOf wk
  gs.all (fun e => e.2.arrived at_) && gs.any (fun e => !e.2.splits.isEmpty)

/-- Lets every split of a group that waits at a point go on at its next word (R112, R118). -/
def Group.goOn (g : Group) (at_ : WaitAt) : Group :=
  ({ g with splits := g.splits.map (fun p => if p.st = .waiting at_ then
      { p with st := .ready, pc := p.pc + 1, inClause := false, arg := 0 } else p) } : Group).settle g.splits

/-- Lets the groups of a workgroup go on from a point. -/
def State.goOnAll (s : State) (wk : Nat) (at_ : WaitAt) : State :=
  { s with groups := mmap s.groups (fun _ g => if g.wg = wk then g.goOn at_ else g) }

/-- The launch of a workgroup. -/
def State.launchOf (s : State) (wk : Nat) : Option (Wg × Gang × Launch) :=
  match mget? s.wgs wk with
  | none => none
  | some w => match mget? s.gangs w.gang with
    | none => none
    | some g => match mget? s.launches g.launch with
      | none => none
      | some l => some (w, g, l)

/-- Offers a record from the scheduler that holds group 0 of a workgroup. -/
def State.emitWg (s : State) (wk kind payload : Nat) : State :=
  match s.launchOf wk with
  | some (_, _, l) =>
    let (die, inst) := s.sched0 wk
    s.emitL l die 0 inst kind payload
  | none => s

/-- WBAR releases when every group that has a non-exited lane has all such lanes at WBAR (R118). -/
def State.wbarCheck (s : State) (wk : Nat) : State :=
  if s.gathered wk .wbar then
    match s.launchOf wk with
    | some (w, gg, _) => (s.goOnAll wk .wbar).emitWg wk 0x14 (w.k + gg.index % 2 ^ 18 * 32)
    | none => s
  else s

/-! ## Commit -/

/-- Popped slots of a FIFO bank after the outermost block commits: of each group only the newest stays held (R133, R411). -/
def Bank.commitHeld (b : Bank) : Bank :=
  let rec keep : List (Nat × Nat × Bool) → List (Nat × Nat × Bool)
    | [] => []
    | (j, g, blk) :: r =>
      if blk && r.any (fun x => x.2.1 == g) then keep r else (j, g, false) :: keep r
  { b with held := keep b.held }

/-- What is unpublished after writes that newer ones follow (R197): the lesser scope of the two. -/
def mergePub (old new : List (Option Nat × Nat)) : List (Option Nat × Nat) :=
  new.foldl (fun l e =>
    if l.any (fun x => x.1 == e.1) then l.map (fun x => if x.1 = e.1 then (x.1, min x.2 e.2) else x) else l ++ [e]) old

/-- A block commits (R129, R133): entries the enclosing block has not logged become its own; at depth 0 the log is
discarded, held pushes are made and popped slots freed. -/
def State.commit (s : State) (wk : Nat) : State :=
  match mget? s.wgs wk with
  | none => s
  | some w => match w.blocks with
    | [] => s
    | [_] =>
      let s := s.updWg wk (fun w =>
        { w with blocks := [], rbcause := 0, pushes := [], banks := mmap w.banks (fun _ b => b.commitHeld) })
      (match s.launchOf wk with
        | some (_, _, l) => s.doPush l w.pushes
        | none => s).emitBlock wk 1 0 0
    | b :: o :: rest =>
      let kept := b.log.filter (fun e => !o.log.any (sameLoc e))
      let s := s.updWg wk (fun w => { w with blocks := { o with log := kept ++ o.log } :: rest, rbcause := 0 })
      let s := b.frames.foldl (fun s f => s.updGroup (groupKey wk f.k) (fun g => { g with pub := mergePub f.pub0 g.pub })) s
      s.emitBlock wk 1 0 (rest.length + 1)

/-- The members of the conversation of a workgroup whose blocks are coupled with its outermost block: itself alone when
the block is an inner one or there is no conversation (R136). -/
def State.coupled (s : State) (wk : Nat) : List Nat :=
  match mget? s.wgs wk with
  | none => []
  | some w => match w.conv with
    | some m =>
      if w.blocks.length = 1 then
        ((upto 24).filter (fun k => nbit m k)).map (wgKey w.gang) |>.filter (fun o =>
          match mget? s.wgs o with
          | some x => x.conv == some m && !x.retired
          | none => false)
      else [wk]
    | none => [wk]

/-- Every group of a workgroup votes at the ACCEPT of its block, which stands n deep and is not failing (R129). -/
def State.voted (s : State) (wk n : Nat) : Bool :=
  match mget? s.wgs wk with
  | some w => w.failing.isNone && w.blocks.length == n && s.gathered wk .accept
  | none => false

/-- No group of a workgroup that waits at ACCEPT has voted false. -/
def State.votesTrue (s : State) (wk : Nat) : Bool :=
  (mvals (s.groupsOf wk)).all (fun g => g.splits.all (fun p => p.arg != 0))

/-- The word at which a workgroup's first split stands. -/
def State.wgPc (s : State) (wk : Nat) : Nat := (((mvals (s.groupsOf wk)).flatMap (·.splits)).head?.map (·.pc)).getD 0

/-- Votes at ACCEPT (R129, R136, R331): once every workgroup whose block is coupled with this one has voted, all commit and
go on when every vote is true, and the blocks of those that voted false fail; until then a gathered workgroup waits for the
other members with reason 23. -/
def State.acceptCheck (s : State) (wk : Nat) : State :=
  match mget? s.wgs wk with
  | none => s
  | some w =>
    if !s.voted wk w.blocks.length then s
    else
      let ms := s.coupled wk
      if !ms.all (fun m => s.voted m w.blocks.length) then
        { s with groups := mmap s.groups (fun _ g => if g.wg = wk then
          { g with splits := g.splits.map (fun p => if p.st = .waiting .accept then { p with stall := 23 } else p) } else g) }
      else if ms.all s.votesTrue then ms.foldl (fun s m => (s.goOnAll m .accept).commit m) s
      else (ms.filter (fun m => !s.votesTrue m)).foldl (fun s m => s.failBlock m 0 0 (s.wgPc m) true) s

/-- A conversation is left by workgroup wk; a conversation of one member ends, and the members that are left may all have
voted (R335). -/
def State.leaveConv (s : State) (wk : Nat) : State :=
  match mget? s.wgs wk with
  | none => s
  | some w => match w.conv with
    | none => s
    | some m =>
      let s := s.emitWg wk 0x0D (m % 2 ^ 24 + 2 ^ 24 + w.k * 2 ^ 25)
      let s := s.updWg wk (fun w => { w with conv := none, convl := [] })
      let left := ((upto 24).filter (fun k => nbit m k)).map (wgKey w.gang) |>.filter (fun o =>
        match mget? s.wgs o with
        | some x => x.conv == some m
        | none => false)
      let s := match left with
        | [o] => s.updWg o (fun w => { w with conv := none, convl := [] })
        | _ => s
      left.foldl (fun s o => s.acceptCheck o) s

/-- CONVL has been issued by every group of a workgroup that has a lane left, or was issued by some before the others
exited (R325, R335). -/
def State.convlCheck (s : State) (wk : Nat) : State :=
  match mget? s.wgs wk with
  | none => s
  | some w =>
    if w.conv.isSome && !w.convl.isEmpty &&
        (mvals (s.groupsOf wk)).all (fun g => g.splits.isEmpty || w.convl.contains g.k) then s.leaveConv wk else s

/-- What the exit of lanes or the freeing of a point brings about in a workgroup (R118, R325, R331). -/
def State.wgSettle (s : State) (wk : Nat) : State := ((s.wbarCheck wk).convlCheck wk).acceptCheck wk

/-! ## Ending a group -/

/-- The group releases the FIFO slots it held (R411). -/
def Wg.freeHeld (w : Wg) (gk : Nat) : Wg :=
  { w with banks := mmap w.banks (fun _ b => { b with held := b.held.filter (fun x => x.2.1 != gk) }) }

/-- The last lane of a group has exited: due returns of class A are dropped; its class B operations are still to be
performed before it retires (R325). -/
def Group.lastExit (g : Group) : Group :=
  if g.splits.isEmpty && g.exited == BitVec.allOnes 32 then
    { g with
      retiring := true
      pend := g.pend.map (fun p => match p.op with
        | .store _ => p
        | .atom _ _ false => p
        | _ => { p with drop := true }) }
  else g

/-! ## Debug stop -/

/-- Some group of a workgroup is frozen by a debug stop (R252). -/
def State.wgStopped (s : State) (wk : Nat) : Bool :=
  s.groups.any (fun e => e.2.wg == wk && (mget? s.stops (e.2.core * 4 + e.2.sched)).isSome)

/-- Offers a STOP record of a scheduler, to the partition whose groups it holds (R235, R252). -/
def State.emitStop (s : State) (core sched phase cause : Nat) : State :=
  match s.groups.find? (fun e => e.2.core == core && e.2.sched == sched && !e.2.retired) with
  | some (_, g) => (match s.launchOf g.wg with
    | some (_, _, l) => s.emitL l (core / 48) 0 (core * 4 + sched) 0x19 (phase + cause * 4)
    | none => s)
  | none => s

/-- A debug stop of a scheduler begins (R252). -/
def State.beginStop (s : State) (core sched cause : Nat) : State :=
  let k := core * 4 + sched
  if (mget? s.stops k).isSome then s
  else
    let before := s.groups.flatMap (fun e => if e.2.core = core ∧ e.2.sched = sched then
        e.2.splits.filterMap (fun p => p.liveIx.map (fun i => (e.1 * 4 + i, p.stall))) else [])
    let s := { s with stops := mput s.stops k { cause := cause, time := s.time, quiet := none, clock := s.coreClk core, before := before } }
    s.emitStop core sched 0 cause

end Sys2Proof.Machine
end

