-- ==== Sys2Proof/Machine/Numbers.lean ====
section
/-! DEFINITION. Number formats and arithmetic (R290 to R316): elements, exact values, rounding, conversion, the special
functions of R356, stochastic words (R307), quantisation (R304) and the sums of the matrix engine (R311 to R316). -/

namespace Sys2Proof.Machine

/-! ## Elements of a word -/

/-- Whether an integer TYPE is signed (R290). -/
def tySigned (t : Nat) : Bool := t == 0 || t == 2 || t == 4

/-- Element i of width w of a word (R290). -/
def elem (w : Nat) (x : Word) (i : Nat) : Nat := x.toNat / 2 ^ (w * i) % 2 ^ w

/-- The word of elements of width w, element 0 least significant. -/
def packElems (w : Nat) : List Nat → Nat
  | [] => 0
  | x :: r => x % 2 ^ w + 2 ^ w * packElems w r

/-- A word from its elements. -/
def mkWord (w : Nat) (l : List Nat) : Word := BitVec.ofNat 32 (packElems w l)

/-- The integer value of element i of a word of integer TYPE t (R346 e(v, i)). -/
def intElem (t : Nat) (x : Word) (i : Nat) : Int :=
  if tySigned t then sextInt (tyWidth t) (elem (tyWidth t) x i) else (elem (tyWidth t) x i : Int)

/-- Least and greatest value of an integer of width w (R290). -/
def intLo (sg : Bool) (w : Nat) : Int := if sg then -((2 ^ (w - 1) : Nat) : Int) else 0
def intHi (sg : Bool) (w : Nat) : Int := if sg then ((2 ^ (w - 1) : Nat) : Int) - 1 else ((2 ^ w : Nat) : Int) - 1

/-- x clamped to [lo, hi]. -/
def clampInt (lo hi x : Int) : Int := if x < lo then lo else if hi < x then hi else x

/-- The exact result x delivered to an element of integer TYPE t (R291): wrapped, or clamped with SAT. -/
def intOut (t : Nat) (sat : Bool) (x : Int) : Nat :=
  wrapInt (tyWidth t) (if sat then clampInt (intLo (tySigned t) (tyWidth t)) (intHi (tySigned t) (tyWidth t)) x else x)

/-- Applies f to the elements of integer TYPE t of two or three words and delivers the results (R346). -/
def intMap (t : Nat) (sat : Bool) (f : Int → Int → Int → Int) (a b d : Word) : Word :=
  mkWord (tyWidth t) ((upto (tyCount t)).map (fun i => intOut t sat (f (intElem t a i) (intElem t b i) (intElem t d i))))

/-! ## Floating-point values -/

/-- A floating-point format: exponent bits, fraction bits, and whether it has infinities (R292). -/
structure Fmt where
  eb  : Nat
  mb  : Nat
  inf : Bool
deriving DecidableEq, Repr

def f32 : Fmt := { eb := 8, mb := 23, inf := true }
def f16 : Fmt := { eb := 5, mb := 10, inf := true }
def bf16 : Fmt := { eb := 8, mb := 7, inf := true }
def e4m3 : Fmt := { eb := 4, mb := 3, inf := false }

/-- The format of a float TYPE (6 F32, 7 F16, 8 BF16, 9 E4M3). -/
def tyFmt (t : Nat) : Fmt := if t = 6 then f32 else if t = 7 then f16 else if t = 8 then bf16 else e4m3

def Fmt.bias (f : Fmt) : Nat := 2 ^ (f.eb - 1) - 1
def Fmt.width (f : Fmt) : Nat := 1 + f.eb + f.mb
/-- The magnitude code past the largest finite one. -/
def Fmt.over (f : Fmt) : Nat := if f.inf then (2 ^ f.eb - 1) * 2 ^ f.mb else 2 ^ (f.eb + f.mb) - 1
def Fmt.sign (f : Fmt) (neg : Bool) : Nat := if neg then 2 ^ (f.eb + f.mb) else 0
/-- The canonical NaN (R293). -/
def Fmt.nan (f : Fmt) : Nat := if f.inf then (2 ^ f.eb - 1) * 2 ^ f.mb + 2 ^ (f.mb - 1) else 2 ^ (f.eb + f.mb) - 1
/-- An infinity of a sign; in E4M3 the NaN of that sign (R301). -/
def Fmt.infinity (f : Fmt) (neg : Bool) : Nat := f.sign neg + f.over
/-- The largest finite value of a sign. -/
def Fmt.max (f : Fmt) (neg : Bool) : Nat := f.sign neg + f.over - 1

/-- An exact value: (−1)^neg × p ÷ q for a number (q is never 0; p = 0 is a signed zero), an infinity, or a NaN. -/
inductive FNum where
  | nan
  | inf (neg : Bool)
  | fin (neg : Bool) (p q : Nat)
deriving DecidableEq, Repr

/-- The value of a code (R292). -/
def Fmt.dec (f : Fmt) (x : Nat) : FNum :=
  let neg := nbit x (f.eb + f.mb)
  let e := x / 2 ^ f.mb % 2 ^ f.eb
  let m := x % 2 ^ f.mb
  if f.inf && e = 2 ^ f.eb - 1 then (if m = 0 then .inf neg else .nan)
  else if !f.inf && x % 2 ^ (f.eb + f.mb) = f.over then .nan
  else
    let e' := if e = 0 then 1 else e
    let m' := if e = 0 then m else m + 2 ^ f.mb
    if f.bias + f.mb ≤ e' then .fin neg (m' * 2 ^ (e' - f.bias - f.mb)) 1
    else .fin neg m' (2 ^ (f.bias + f.mb - e'))

/-- A code with a subnormal magnitude. -/
def Fmt.isSub (f : Fmt) (x : Nat) : Bool := x / 2 ^ f.mb % 2 ^ f.eb == 0 && x % 2 ^ f.mb != 0

/-- The code with subnormals taken as zero of the same sign under FTZ (R303). -/
def Fmt.flush (f : Fmt) (ftz : Bool) (x : Nat) : Nat := if ftz && f.isSub x then x / 2 ^ (f.eb + f.mb) * 2 ^ (f.eb + f.mb) else x

/-- The value of an input code under FTZ. -/
def Fmt.read (f : Fmt) (ftz : Bool) (x : Nat) : FNum := f.dec (f.flush ftz (x % 2 ^ f.width))

/-- 2^e as a fraction multiplied into p ÷ q. -/
def scale2 (p q : Nat) (e : Int) : Nat × Nat := if 0 ≤ e then (p * 2 ^ e.toNat, q) else (p, q * 2 ^ (-e).toNat)

/-- floor(log2(p ÷ q)) for p, q not 0. -/
def log2Frac (p q : Nat) : Int :=
  let k : Int := (Nat.log2 p : Int) - (Nat.log2 q : Int)
  let (p', q') := scale2 p q (-k)
  if q' ≤ p' then k else k - 1

/-- Whether the choice of R300 between a = m and b = m + 1 takes b: rem ÷ den is the discarded part, not 0. -/
def takeUp (mode : Nat) (neg : Bool) (m rem den u : Nat) : Bool :=
  match mode with
  | 0 => den < 2 * rem || (2 * rem = den && m % 2 = 1)
  | 1 => false
  | 2 => !neg
  | 3 => neg
  | 4 => den ≤ 2 * rem
  | _ => u < rem * 2 ^ 32 / den

/-- A rounded result: the code, whether it overflowed (R301), and whether it is subnormal after rounding. -/
structure Rnd where
  bits : Nat
  ovf  : Bool
deriving DecidableEq, Repr

/-- round(x, fmt, mode) of a nonzero or zero number, with the stochastic word u (R300, R301, R306). -/
def Fmt.round (f : Fmt) (mode u : Nat) (neg : Bool) (p q : Nat) : Rnd :=
  if p = 0 then { bits := f.sign neg, ovf := false }
  else
    let emin : Int := 1 - (f.bias : Int)
    let e := log2Frac p q
    let e := if e < emin then emin else e
    let (n, d) := scale2 p q ((f.mb : Int) - e)
    let m := n / d
    let rem := n % d
    let m := if rem ≠ 0 && takeUp mode neg m rem d u then m + 1 else m
    let code := (e + (f.bias : Int) - 1).toNat * 2 ^ f.mb + m
    if code < f.over then { bits := f.sign neg + code, ovf := false }
    else
      let toInf := match mode with
        | 1 => false
        | 2 => !neg
        | 3 => neg
        | _ => true
      { bits := if toInf then f.infinity neg else f.max neg, ovf := true }

/-- The result of an operation on elements: its code, an event of R305, and whether the result is overflow. -/
structure Res where
  bits : Nat
  ev   : Bool
deriving DecidableEq, Repr

/-- Delivers an exact value to a format: NaN canonical, infinities as they are, numbers rounded, FTZ on the result
(R293, R300 to R303). invalid says that a NaN is one. -/
def Fmt.out (f : Fmt) (mode u : Nat) (ftz : Bool) (invalid : Bool) (x : FNum) : Res :=
  match x with
  | .nan => { bits := f.nan, ev := invalid }
  | .inf n => { bits := f.infinity n, ev := false }
  | .fin n p q =>
    let r := f.round mode u n p q
    { bits := f.flush ftz r.bits, ev := r.ovf }

/-- An operation on values, with whether a NaN it gives is an invalid operation. -/
abbrev NumOp := FNum × Bool

def FNum.isNan : FNum → Bool
  | .nan => true
  | _ => false

def FNum.neg : FNum → FNum
  | .nan => .nan
  | .inf n => .inf (!n)
  | .fin n p q => .fin (!n) p q

def FNum.abs : FNum → FNum
  | .nan => .nan
  | .inf _ => .inf false
  | .fin _ p q => .fin false p q

/-- The signed sum of two numbers; the sign of an exact zero is that of both, or + (− under RDN) (R293). -/
def addFin (mode : Nat) (n : Bool) (p q : Nat) (n' : Bool) (p' q' : Nat) : FNum :=
  let a := p * q'
  let b := p' * q
  let d := q * q'
  if n = n' then .fin n (a + b) d
  else if a = b then .fin (mode == 3) 0 d
  else if b < a then .fin n (a - b) d
  else .fin n' (b - a) d

/-- x + y (R293, R354). -/
def numAdd (mode : Nat) (x y : FNum) : NumOp :=
  match x, y with
  | .nan, _ => (.nan, false)
  | _, .nan => (.nan, false)
  | .inf a, .inf b => if a = b then (.inf a, false) else (.nan, true)
  | .inf a, _ => (.inf a, false)
  | _, .inf b => (.inf b, false)
  | .fin n p q, .fin n' p' q' => (addFin mode n p q n' p' q', false)

/-- x × y (R293). -/
def numMul (x y : FNum) : NumOp :=
  match x, y with
  | .nan, _ => (.nan, false)
  | _, .nan => (.nan, false)
  | .inf a, .inf b => (.inf (a != b), false)
  | .inf a, .fin n p _ => if p = 0 then (.nan, true) else (.inf (a != n), false)
  | .fin n p _, .inf b => if p = 0 then (.nan, true) else (.inf (n != b), false)
  | .fin n p q, .fin n' p' q' => (.fin (n != n') (p * p') (q * q'), false)

/-- x ÷ y (R293, R354). -/
def numDiv (x y : FNum) : NumOp :=
  match x, y with
  | .nan, _ => (.nan, false)
  | _, .nan => (.nan, false)
  | .inf _, .inf _ => (.nan, true)
  | .inf a, .fin n _ _ => (.inf (a != n), false)
  | .fin n _ _, .inf b => (.fin (n != b) 0 1, false)
  | .fin n p q, .fin n' p' q' =>
    if p' = 0 then (if p = 0 then (.nan, true) else (.inf (n != n'), false)) else (.fin (n != n') (p * q') (q * p'), false)

/-- x × y + z, exact (R354 VFMA). -/
def numFma (mode : Nat) (x y z : FNum) : NumOp :=
  let (m, inv) := numMul x y
  if inv then (.nan, !z.isNan)
  else
    let (r, inv2) := numAdd mode m z
    (r, inv2)

/-- x below y as numbers, −0 below +0; neither a NaN (R354, R355). -/
def numLt (x y : FNum) : Bool :=
  match x, y with
  | .inf true, .inf true => false
  | .inf true, _ => true
  | _, .inf true => false
  | .inf false, _ => false
  | _, .inf false => true
  | .fin n p q, .fin n' p' q' =>
    match n, n' with
    | true, false => true
    | false, true => false
    | false, false => p * q' < p' * q
    | true, true => p' * q < p * q'
  | _, _ => false

/-- x and y are the same number, −0 = +0; neither a NaN. -/
def numEq (x y : FNum) : Bool :=
  match x, y with
  | .inf a, .inf b => a == b
  | .fin n p q, .fin n' p' q' => (p == 0 && p' == 0) || (n == n' && p * q' == p' * q)
  | _, _ => false

/-- The lesser or greater of two values (R354 VFMIN, VFMAX). -/
def numMin (x y : FNum) : FNum := if x.isNan || y.isNan then .nan else if numLt y x then y else x
def numMax (x y : FNum) : FNum := if x.isNan || y.isNan then .nan else if numLt x y then y else x

/-! ## Square roots -/

/-- Sets result bits of an integer square root from bit k down. -/
def isqrtGo (n : Nat) : Nat → Nat → Nat
  | 0, acc => acc
  | k + 1, acc => isqrtGo n k (if (acc + 2 ^ k) * (acc + 2 ^ k) ≤ n then acc + 2 ^ k else acc)

/-- floor(√n). -/
def isqrt (n : Nat) : Nat := isqrtGo n (Nat.log2 n / 2 + 1) 0

/-- √(p ÷ q) as a fraction that rounds as the exact root does: 64 more bits than any format, and a sticky bit. -/
def sqrtFrac (p q : Nat) : Nat × Nat :=
  let k := 96 + Nat.log2 q
  let s := isqrt (p * 2 ^ (2 * k) / q)
  if s * s * q = p * 2 ^ (2 * k) then (s, 2 ^ k) else (2 * s + 1, 2 ^ (k + 1))

/-- √x (R293, R354). -/
def numSqrt (x : FNum) : NumOp :=
  match x with
  | .nan => (.nan, false)
  | .inf false => (.inf false, false)
  | .inf true => (.nan, true)
  | .fin n p q =>
    if p = 0 then (.fin n 0 1, false)
    else if n then (.nan, true)
    else
      let (a, b) := sqrtFrac p q
      (.fin false a b, false)

/-! ## The special functions (R356)

Each is computed in fixed point with 512 fraction bits and handed to the rounding with a sticky bit below; a result that
is not exact is irrational, so it never lies on a tie (assumption 20). -/

/-- Fraction bits of the fixed point. -/
def fxBits : Nat := 512
def fxOne : Nat := 2 ^ 512

/-- The sum of the terms t k = x^(2k+1) ÷ (2k+1), with signs alternating when alt (atan) or all positive (atanh). -/
def oddSeries (alt : Bool) (x2 : Nat) : Nat → Nat → Nat → Int
  | 0, _, _ => 0
  | fuel + 1, k, pw =>
    let t : Int := ((pw / (2 * k + 1) : Nat) : Int)
    (if alt && k % 2 = 1 then -t else t) + oddSeries alt x2 fuel (k + 1) (pw * x2 / fxOne)

/-- atan(1 ÷ n) in fixed point. -/
def fxAtanInv (n : Nat) : Int := oddSeries true (fxOne / (n * n)) 260 0 (fxOne / n)

/-- π in fixed point (Machin). -/
def fxPi : Nat := (16 * fxAtanInv 5 - 4 * fxAtanInv 239).toNat

/-- atanh(a ÷ b) in fixed point, for 0 ≤ a ÷ b ≤ 1/3. -/
def fxAtanh (a b : Nat) : Nat :=
  let x := a * fxOne / b
  (oddSeries false (x * x / fxOne) 340 0 x).toNat

/-- ln 2 in fixed point. -/
def fxLn2 : Nat := 2 * fxAtanh 1 3

/-- e^x in fixed point for 0 ≤ x < 1: the series from term k on. -/
def fxExpGo (x : Nat) : Nat → Nat → Nat → Nat
  | 0, _, _ => 0
  | fuel + 1, k, t => t + fxExpGo x fuel (k + 1) (t * x / fxOne / (k + 1))

def fxExp (x : Nat) : Nat := fxExpGo x 120 0 fxOne

/-- The alternating series of sine (k odd) or cosine (k even) at x: the terms x^k ÷ k!. -/
def fxTrigGo (x2 : Nat) : Nat → Nat → Nat → Bool → Int
  | 0, _, _, _ => 0
  | fuel + 1, k, t, neg =>
    (if neg then -((t : Nat) : Int) else ((t : Nat) : Int)) + fxTrigGo x2 fuel (k + 2) (t * x2 / fxOne / ((k + 1) * (k + 2))) (!neg)

def fxSin (x : Nat) : Nat := (fxTrigGo (x * x / fxOne) 80 1 x false).toNat
def fxCos (x : Nat) : Nat := (fxTrigGo (x * x / fxOne) 80 0 fxOne false).toNat

/-- A fixed-point value as a fraction with a sticky bit. -/
def fxFrac (neg : Bool) (v : Nat) : FNum := .fin neg (2 * v + 1) (2 * fxOne)

/-- 1 ÷ a (R356 VRCP). -/
def numRcp (x : FNum) : NumOp :=
  match x with
  | .nan => (.nan, false)
  | .inf n => (.fin n 0 1, false)
  | .fin n p q => if p = 0 then (.inf n, false) else (.fin n q p, false)

/-- 1 ÷ √a (R356 VRSQ). -/
def numRsq (x : FNum) : NumOp :=
  match x with
  | .nan => (.nan, false)
  | .inf false => (.fin false 0 1, false)
  | .inf true => (.nan, true)
  | .fin n p q =>
    if p = 0 then (.inf n, false)
    else if n then (.nan, true)
    else
      let (a, b) := sqrtFrac q p
      (.fin false a b, false)

/-- 2^a (R356 VEXP2). -/
def numExp2 (x : FNum) : NumOp :=
  match x with
  | .nan => (.nan, false)
  | .inf false => (.inf false, false)
  | .inf true => (.fin false 0 1, false)
  | .fin n p q =>
    let whole := p / q
    if 300 ≤ whole then (if n then (.fin false 1 (2 ^ 300), false) else (.fin false (2 ^ 300) 1, false))
    else if p % q = 0 then (if n then (.fin false 1 (2 ^ whole), false) else (.fin false (2 ^ whole) 1, false))
    else
      let i : Int := if n then -((whole : Int) + 1) else (whole : Int)
      let r := if n then q - p % q else p % q
      let v := fxExp (r * fxLn2 / q)
      let (a, b) := scale2 (2 * v + 1) (2 * fxOne) i
      (.fin false a b, false)

/-- log2 a (R356 VLOG2). -/
def numLog2 (x : FNum) : NumOp :=
  match x with
  | .nan => (.nan, false)
  | .inf false => (.inf false, false)
  | .inf true => (.nan, true)
  | .fin n p q =>
    if p = 0 then (.inf true, false)
    else if n then (.nan, true)
    else
      let e := log2Frac p q
      let (a, b) := scale2 p q (-e)
      if a = b then (.fin (e < 0) e.natAbs 1, false)
      else
        let f := 2 * fxAtanh (a - b) (a + b) * fxOne / fxLn2
        let v : Int := e * (fxOne : Int) + (f : Int)
        (fxFrac (v < 0) v.natAbs, false)

/-- sin(2πa) or cos(2πa) (R356): the argument is reduced exactly by its integral part. -/
def numTrig (cosine : Bool) (x : FNum) : NumOp :=
  match x with
  | .nan => (.nan, false)
  | .inf _ => (.nan, true)
  | .fin n p q =>
    let r := p % q
    let quad := 4 * r / q
    let rest := 4 * r % q
    let ang := rest * fxPi / (2 * q)
    let k := if cosine then quad + 1 else quad
    let useCos := k % 2 = 1
    let neg := (if cosine then false else n) != (2 ≤ k % 4)
    if rest = 0 then (if useCos then (.fin neg 1 1, false) else (.fin false 0 1, false))
    else (fxFrac neg (if useCos then fxCos ang else fxSin ang), false)

/-! ## Conversion to integers -/

/-- round(x, integer, mode) of a number, with the stochastic word u (R300). -/
def roundInt (mode u : Nat) (neg : Bool) (p q : Nat) : Int :=
  let m := p / q
  let rem := p % q
  let m := if rem ≠ 0 && takeUp mode neg m rem q u then m + 1 else m
  if neg then -(m : Int) else (m : Int)

/-- A value converted to an integer of width w: NaN is 0; the flag says that it was clamped or a NaN (R302, R357). -/
def toInt (sg : Bool) (w mode u : Nat) (x : FNum) : Int × Bool :=
  match x with
  | .nan => (0, true)
  | .inf n => (if n then intLo sg w else intHi sg w, true)
  | .fin n p q =>
    let v := roundInt mode u n p q
    let c := clampInt (intLo sg w) (intHi sg w) v
    (c, c != v)

/-- An integer as a value. -/
def ofInt (x : Int) : FNum := .fin (x < 0) x.natAbs 1

/-- A value rounded to an integral value of its format (R354 VFRND): the sign of a zero result is that of x. -/
def numRint (mode u : Nat) (x : FNum) : FNum :=
  match x with
  | .fin n p q =>
    let m := p / q
    let rem := p % q
    .fin n (if rem ≠ 0 && takeUp mode n m rem q u then m + 1 else m) 1
  | x => x

/-- A converted float element with SAT (R302): the code, and whether it has an event of R357. -/
def convOut (f : Fmt) (mode u : Nat) (ftz sat : Bool) (x : FNum) : Res :=
  match x with
  | .nan => { bits := f.nan, ev := false }
  | .inf n =>
    if sat then { bits := f.max n, ev := true }
    else { bits := f.infinity n, ev := !f.inf }
  | .fin n p q =>
    let r := f.round mode u n p q
    let toMax := sat && r.ovf && r.bits % 2 ^ (f.eb + f.mb) = f.over
    { bits := f.flush ftz (if toMax then f.max n else r.bits), ev := r.ovf }

/-! ## Stochastic words -/

/-- One round of Philox4x32 (R307). -/
def philoxRound (k0 k1 c0 c1 c2 c3 : Nat) : Nat × Nat × Nat × Nat :=
  let p := 0xD2511F53 * c0
  let q := 0xCD9E8D57 * c2
  ((q / 2 ^ 32) ^^^ c1 ^^^ k0, q % 2 ^ 32, (p / 2 ^ 32) ^^^ c3 ^^^ k1, p % 2 ^ 32)

/-- n rounds, with the key schedule of R307. -/
def philoxGo : Nat → Nat → Nat → Nat × Nat × Nat × Nat → Nat × Nat × Nat × Nat
  | 0, _, _, c => c
  | n + 1, k0, k1, (c0, c1, c2, c3) =>
    philoxGo n ((k0 + 0x9E3779B9) % 2 ^ 32) ((k1 + 0xBB67AE85) % 2 ^ 32) (philoxRound k0 k1 c0 c1 c2 c3)

/-- The block of a key and a counter (R307), as the list x0 to x3. -/
def philox (k0 k1 c0 c1 c2 c3 : Nat) : List Nat :=
  let (a, b, c, d) := philoxGo 10 k0 k1 (c0, c1, c2, c3)
  [a, b, c, d]

/-- Word e of the draw of a lane: seed, counter, global lane number (R308). -/
def drawWord (seed : BitVec 64) (srctr : Word) (gl e : Nat) : Nat :=
  (philox (b64 seed 31 0) (b64 seed 63 32) ((srctr.toNat + e / 4) % 2 ^ 32) 0 (gl % 2 ^ 32) (gl / 2 ^ 32 % 2 ^ 32)).getD
    (e % 4) 0

/-! ## Quantisation -/

/-- A quantised element: its code as a number, saturated, flushed (R304). -/
structure Quant where
  code : Int
  sat  : Bool
  flsh : Bool
deriving DecidableEq, Repr

/-- Least and greatest code of BQ2 to BQ8 (format code 2 to 8) and NQ8 (9) (R294). -/
def codeLo (f : Nat) : Int := if f = 9 then 0 else intLo true f
def codeHi (f : Nat) : Int := if f = 9 then 255 else intHi true f

/-- Conversion of x to BQn or NQ8 (format code f) with scale s (R304). -/
def quantise (f mode u : Nat) (s x : FNum) : Quant :=
  let bad := match s with
    | .fin _ p _ => p == 0
    | _ => true
  if bad then { code := 0, sat := true, flsh := false }
  else if f = 1 then
    match (numDiv x s).1 with
    | .nan => { code := 0, sat := true, flsh := false }
    | .inf n => { code := b2n n, sat := false, flsh := false }
    | .fin n p _ => { code := b2n (n && p != 0), sat := false, flsh := false }
  else
    match (numDiv x s).1 with
    | .nan => { code := 0, sat := true, flsh := false }
    | .inf n => { code := if n then codeLo f else codeHi f, sat := true, flsh := false }
    | .fin n p q =>
      let v := roundInt mode u n p q
      let c := clampInt (codeLo f) (codeHi f) v
      { code := c, sat := c != v, flsh := p != 0 && c == 0 }

/-- The counts and flags of a block (R310): NSAT, NFLUSH, ALLZERO, ALLSAT. -/
def blockFlags (l : List Quant) : Nat × Nat × Bool × Bool :=
  let ns := (l.filter (·.sat)).length
  let nf := (l.filter (·.flsh)).length
  (ns, nf, l.all (·.code == 0) && 1 ≤ nf, ns = l.length && 1 ≤ l.length)

/-! ## Matrix sums -/

/-- The value of an operand element of a format code (R292, R294), without its scale. -/
def operandVal (f c : Nat) : FNum :=
  if f = 1 then .fin (c % 2 == 1) 1 1
  else if f ≤ 8 then ofInt (sextInt f c)
  else if f = 9 then .fin false (c % 256) 1
  else if f = 10 then e4m3.dec (c % 256)
  else if f = 11 then f16.dec (c % 65536)
  else if f = 12 then bf16.dec (c % 65536)
  else f32.dec (c % 2 ^ 32)

/-- The float format of an accumulation format FC: 0 F32, 2 F16, 3 BF16 (R90). -/
def fcFmt (fc : Nat) : Fmt := if fc = 2 then f16 else if fc = 3 then bf16 else f32

/-- What special terms decide of a sum (R311): NaN, an infinity, or nothing. -/
def specialSum (l : List FNum) : Option FNum :=
  if l.any (·.isNan) then some .nan
  else
    let pos := l.any (· == .inf false)
    let neg := l.any (· == .inf true)
    if pos && neg then some .nan else if pos then some (.inf false) else if neg then some (.inf true) else none

/-- A number is zero. -/
def FNum.isZero : FNum → Bool
  | .fin _ 0 _ => true
  | _ => false

/-- Truncated magnitude of a term in units of 2^ue, and whether anything was cut (R313). -/
def windowTerm (ue : Int) (x : FNum) : Int × Bool :=
  match x with
  | .fin n p q =>
    let (a, b) := scale2 p q (-ue)
    let m := a / b
    (if n then -(m : Int) else (m : Int), a % b != 0)
  | _ => (0, false)

/-- Exponent of a nonzero number. -/
def FNum.expo : FNum → Int
  | .fin _ p q => log2Frac p q
  | _ => 0

/-- window_sum of terms to float format f, RNE (R313, special terms per R311): the code. -/
def windowSum (f : Fmt) (l : List FNum) : Nat :=
  match specialSum l with
  | some x => (f.out 0 0 false false x).bits
  | none =>
    let nz := l.filter (fun x => !x.isZero)
    match nz with
    | [] => f.sign (l.all (fun x => match x with
        | .fin n _ _ => n
        | _ => false))
    | y :: ys =>
      let emax := ys.foldl (fun m x => if m < x.expo then x.expo else m) y.expo
      let ue := emax - 58
      let ts := nz.map (windowTerm ue)
      let sum := ts.foldl (fun a t => a + t.1) 0
      let sticky := ts.any (·.2)
      if sum = 0 then 0
      else
        let m := 2 ^ 200 * sum.natAbs + b2n sticky
        let (p, q) := scale2 m (2 ^ 200) ue
        (f.round 0 0 (sum < 0) p q).bits

/-- The denominator of a finite number. -/
def FNum.den : FNum → Nat
  | .fin _ _ q => q
  | _ => 1

/-- A finite number in units of 1 / d, when its denominator divides d. -/
def FNum.scaled (d : Nat) : FNum → Int
  | .fin n p q => if n then -((p * (d / q) : Nat) : Int) else ((p * (d / q) : Nat) : Int)
  | _ => 0

/-- An exact sum of numbers (R315, R400); special terms decide first. -/
def exactSum (l : List FNum) : FNum :=
  match specialSum l with
  | some x => x
  | none =>
    let d := l.foldl (fun a x => Nat.lcm a x.den) 1
    let t := l.foldl (fun a x => a + x.scaled d) (0 : Int)
    if t = 0 then .fin (!l.isEmpty && l.all (fun x => match x with
      | .fin n p _ => n && p == 0
      | _ => false)) 0 1
    else .fin (t < 0) t.natAbs d

end Sys2Proof.Machine
end

