-- ==== Sys2Proof/Machine/Flags.lean ====
section
/-! DEFINITION. What an instruction's result carries besides its number: the shape tag of each result (R344), predicate
conditions (R350, R355), the lanes that a poisoned source of a predicate faults (R217), arithmetic events (R305), and the
stochastic words and counter of R308. -/

namespace Sys2Proof.Machine

/-! ## Sources -/

/-- Lane l of source register r. -/
def Ctx.src (c : Ctx) (r : BitVec 7) (l : Nat) : Val := c.g.lane r.toNat l

/-- The value of a function of three lane values (R215). -/
def Val.map3 (f : Word → Word → Word → Word) (a b d : Val) : Val :=
  { w := f a.w b.w d.w, p := tagMin (tagMin a.p b.p) d.p }

/-- The shape tag of a source register. -/
def Ctx.tag (c : Ctx) (r : BitVec 7) : Tag := (c.g.reg r.toNat).tag

/-! ## Shape tags of results (R344) -/

/-- U when every source is U, else G: the element-wise instructions. -/
def tagU (ts : List Tag) : Tag := if ts.all (· == .U) then .U else .G

/-- M holds TYPE I32 or N32 and SAT = 0, so that A results are computed. -/
def affineMode (m : BitVec 16) : Bool := tyOf m ≤ 1 && !satOf m

/-- VADD and VSUB: A of operands tagged U or A, at least one A. -/
def tagAdd (m : BitVec 16) (a b : Tag) : Tag :=
  if a = .U ∧ b = .U then .U else if affineMode m && a != .G && b != .G then .A else .G

/-- VADDI, VNEG, VSHLI: A of A. -/
def tagScale (m : BitVec 16) (a : Tag) : Tag := if a = .U then .U else if affineMode m && a == .A then .A else .G

/-- VMUL: A of A with U, in either order. -/
def tagMul (m : BitVec 16) (a b : Tag) : Tag :=
  match a, b with
  | .U, .U => .U
  | .A, .U | .U, .A => if affineMode m then .A else .G
  | _, _ => .G

/-- VSHL: A of A by U. -/
def tagShl (m : BitVec 16) (a b : Tag) : Tag :=
  match a, b with
  | .U, .U => .U
  | .A, .U => if affineMode m then .A else .G
  | _, _ => .G

/-- VAFF: A of U or A. -/
def tagAff (a : Tag) : Tag := if a = .G then .G else .A

/-- VSEL: p says which source every lane selects, when all select one; eq that the two values are equal. -/
def tagSel (a b : Tag) (p : Option Bool) (eq : Bool) : Tag :=
  if a = .U ∧ b = .U ∧ (p.isSome ∨ eq) then .U
  else match p with
    | some true => if a = .A then .A else .G
    | some false => if b = .A then .A else .G
    | none => .G

/-! ## Conditions -/

/-- Integer conditions EQ, NE, LT, LE, GT, GE (R350). -/
def intCond (k : Nat) (a b : Int) : Bool :=
  match k with
  | 0 => a == b
  | 1 => a != b
  | 2 => decide (a < b)
  | 3 => decide (a ≤ b)
  | 4 => decide (b < a)
  | _ => decide (b ≤ a)

/-- Float conditions EQ, NE, LT, LE, GT, GE, UN, ORD, with −0 = +0 (R355). -/
def fltCond (k : Nat) (a b : FNum) : Bool :=
  if a.isNan || b.isNan then k == 1 || k == 6
  else
    let lt := fun x y => numLt x y && !numEq x y
    match k with
    | 0 => numEq a b
    | 1 => !numEq a b
    | 2 => lt a b
    | 3 => lt a b || numEq a b
    | 4 => lt b a
    | 5 => lt b a || numEq a b
    | 6 => false
    | _ => true

/-- The active lanes in which one of the registers is poisoned fault 0x09 (R217). -/
def Ctx.poisonUse (c : Ctx) (rs : List (BitVec 7)) : Nat → Option Nat :=
  fun l => if c.act.getLsbD l && rs.any (fun r => (c.src r l).p.isSome) then some 9 else none

/-- Writes predicate d with f in the active lanes that do not fault, and ends the instruction. -/
def State.predOut (s : State) (c : Ctx) (d : BitVec 3) (code : Nat → Option Nat) (f : Nat → Bool) : State :=
  let good := c.act &&& ~~~ codeMask code
  (s.writeP c.gk d.toNat good (maskOf f)).endInstr c code

/-! ## Stochastic words (R308) -/

/-- The global lane number of lane l (R308). -/
def Ctx.gl (c : Ctx) (l : Nat) : Nat := c.gg.index * 24576 + c.wg.k * 1024 + c.g.k * 32 + l

/-- SRCTR of lane l. -/
def Group.sr (g : Group) (l : Nat) : Word := mgetD g.srctr l 0#32

/-- Word e of lane l's draw. -/
def Ctx.sr (c : Ctx) (l e : Nat) : Nat := drawWord c.l.seed (c.g.sr l) (c.gl l) e

/-- The lanes m have drawn e words each: SRCTR advances by their blocks. -/
def State.drew (s : State) (gk : Nat) (m : Lanes) (e : Nat) : State :=
  if e = 0 then s
  else s.updGroup gk (fun g =>
    { g with srctr := (lanesOf m).foldl (fun t l => mput t l (g.sr l + BitVec.ofNat 32 ((e + 3) / 4))) g.srctr })

/-! ## Delivering results -/

/-- Writes d with f in the active lanes and ends the instruction: results without events. -/
def State.put (s : State) (c : Ctx) (d : BitVec 7) (t : Tag) (f : Nat → Val) : State :=
  (s.writeV c d.toNat c.act t f).advance c

/-- A lane's results of an instruction that can have arithmetic events: its words, and whether it has one. -/
structure LaneRes where
  vals : List Val
  ev   : Bool

/-- The results of the active lanes, by lane. -/
def Ctx.results (c : Ctx) (f : Nat → LaneRes) : Map LaneRes := (lanesOf c.act).map (fun l => (l, f l))

/-- Word j of lane l of the results. -/
def resWord (rs : Map LaneRes) (j l : Nat) : Val :=
  match mget? rs l with
  | some r => r.vals.getD j (clean 0#32)
  | none => clean 0#32

/-- The lanes with an event fault 0x0A when the trap is enabled (R305, R343). -/
def trapped (rs : Map LaneRes) (te : BitVec 1) : Nat → Option Nat :=
  fun l => match mget? rs l with
    | some r => if te = 1#1 && r.ev then some 0x0A else none
    | none => none

/-- Writes n registers from d with the results of the lanes that do not trap, draws e words each, and ends (R305, R308). -/
def State.putRes (s : State) (c : Ctx) (d : BitVec 7) (n : Nat) (t : Nat → Tag) (te : BitVec 1) (e : Nat)
    (rs : Map LaneRes) : State :=
  let code := trapped rs te
  let good := c.act &&& ~~~ codeMask code
  let s := (upto n).foldl (fun s j => s.writeV c (d.toNat + j) good (t j) (resWord rs j)) s
  (s.drew c.gk good e).endInstr c code

end Sys2Proof.Machine
end

