-- ==== Sys2Proof/Machine/Replay.lean ====
section
/-! DEFINITION. The record log of a gang and its replay (R238, R258 to R261), and accesses of the device to a launch's
virtual addresses. -/

namespace Sys2Proof.Machine

/-! ## Work of a group that no split issues -/

/-- The context of group gk for work outside any split. -/
def State.gctx (s : State) (gk : Nat) : Option Ctx :=
  match mget? s.groups gk with
  | none => none
  | some g => match s.launchOf g.wg with
    | none => none
    | some (w, gg, l) => some { gk := gk, ix := 0, g := g, sp := Split.start 0#32 0, wk := g.wg, wg := w, nk := w.gang,
                                gg := gg, lk := gg.launch, l := l }

/-- The physical address of a byte of a launch's address space on path 0x0, if it is translated. -/
def State.vaOf (s : State) (core : Nat) (l : Launch) (va : Nat) : Option Nat × State :=
  let (t, s) := s.translate core l.aspace (va % 2 ^ 52)
  (t.map (fun t => t.base + va % 65536), s)

/-- Writes bytes at a virtual address, line by line; bytes without a translation are not written. -/
def State.vaWrite (s : State) (core : Nat) (l : Launch) (va : Nat) (bs : List Byte) : State :=
  (linesOf va bs.length).foldl (fun s ln =>
    let a := max va (ln * 128)
    match s.vaOf core l a with
    | (some pa, s) => s.writeLine core pa (inLine va bs ln) .l2 none l.space
    | (none, s) => s) s

/-- Reads n bytes at a virtual address, line by line; bytes without a translation read 0. -/
def State.vaRead (s : State) (core : Nat) (l : Launch) (va n : Nat) : List Byte × State :=
  (linesOf va n).foldl (fun acc ln =>
    let a := max va (ln * 128)
    let k := min (va + n) ((ln + 1) * 128) - a
    match acc.2.vaOf core l a with
    | (some pa, s) => (let (b, _, s) := s.readPa core pa k .l2; (acc.1 ++ b, s))
    | (none, s) => (acc.1 ++ bytesLE k 0, s)) ([], s)

/-- A number of n bytes at a virtual address. -/
def State.vaNum (s : State) (core : Nat) (l : Launch) (va n : Nat) : Nat × State :=
  let (b, s) := s.vaRead core l va n
  (ofBytesLE b, s)

/-! ## The log -/

/-- RRMODE: 0 off, 1 record, 2 replay. -/
def Launch.rrMode (l : Launch) : Nat := nbits l.trfilt.toNat 66 65
def Launch.freerun (l : Launch) : Bool := l.trfilt.getLsbD 67
def Launch.rrBytes (l : Launch) : Nat := 2 ^ (nbits l.trfilt.toNat 71 68 + 16)

/-- The virtual address of the log of gang g (R259). -/
def Launch.rrBase (l : Launch) (g : Nat) : Nat := nbits l.trfilt.toNat 127 72 * 256 + g * l.rrBytes

/-- The gang runs with live outcomes: recording or replay is off, or it runs free after a divergence (R261). -/
def Ctx.rrOn (c : Ctx) (mode : Nat) : Bool := c.l.rrMode == mode && !c.gg.free

/-- Whether an EKIND carries 128 bytes of lane values. -/
def wideKind (k : Nat) : Bool := k == 2 || k == 4

/-- The 16 bytes of an entry (R259). -/
def rrEntry (k w g hash no value : Nat) : Nat :=
  k % 16 + w % 32 * 2 ^ 4 + g % 32 * 2 ^ 9 + hash % 2 ^ 16 * 2 ^ 16 + no % 2 ^ 32 * 2 ^ 32 + value % 2 ^ 64 * 2 ^ 64

/-- The header of a recording gang's log when the gang is first placed: MAGIC, no entry, no flag, and no divergence (R259; when
it is written is log entry 133). -/
def State.rrHeader (s : State) (core : Nat) (l : Launch) (g : Nat) : State :=
  if l.rrMode = 1 then s.vaWrite core l (l.rrBase g) (bytesLE 0x400 0x474F4C52) else s

/-- Sets a flag of the log's header word at 0x00C. -/
def State.rrFlag (s : State) (core : Nat) (l : Launch) (g bit : Nat) : State :=
  let a := l.rrBase g + 0x0C
  let (v, s) := s.vaNum core l a 4
  s.vaWrite core l a (bytesLE 4 (v ||| 2 ^ bit))

/-- The place of a group's next event number in the log of its gang (R259). -/
def Launch.rrPlace (l : Launch) (g w k : Nat) : Nat := l.rrBase g + 0x400 + (w * 32 + k) * 4

/-- Writes the next event number of every group of a gang to the log, at its save and its retirement (R259). -/
def State.rrNumbers (s : State) (nk : Nat) : State :=
  s.groups.foldl (fun s e => match s.launchOf e.2.wg with
    | some (w, gg, l) =>
      if w.gang = nk && l.rrMode ≠ 0 then
        s.vaWrite e.2.core l (l.rrPlace gg.index w.k e.2.k) (bytesLE 4 e.2.evno)
      else s
    | none => s) s

/-- A gang of a launch that records or replays retires: its groups' numbers, and COMPLETE (R259). -/
def State.rrComplete (s : State) (nk : Nat) : State :=
  match mget? s.gangs nk with
  | none => s
  | some gg => match mget? s.launches gg.launch with
    | none => s
    | some l =>
      if l.rrMode = 0 then s else (s.rrNumbers nk).rrFlag (gg.die * 48 + gg.origin) l gg.index 2

/-- A restored group goes on with the event number that the log has for it (R259). -/
def State.rrResume (s : State) (gk : Nat) : State :=
  match s.gctx gk with
  | none => s
  | some c =>
    if c.l.rrMode = 0 then s
    else
      let (n, s) := s.vaNum c.g.core c.l (c.l.rrPlace c.gg.index c.wg.k c.g.k) 4
      s.updGroup gk (fun g => { g with evno := n })

/-- Appends an entry to the log of a recording gang; one that does not fit stops the recording (R259). -/
def State.rrRecord (s : State) (c : Ctx) (k hash no value : Nat) (lanes : List Word) : State :=
  if c.l.rrMode ≠ 1 || c.gg.rrovf then s
  else
    let n := if wideKind k then 144 else 16
    let base := c.l.rrBase c.gg.index
    let gg := mgetD s.gangs c.nk c.gg
    if c.l.rrBytes < 0x1000 + gg.rrpos + n then (s.updGang c.nk (fun g => { g with rrovf := true })).rrFlag c.g.core c.l c.gg.index 0
    else
      let body := bytesLE 16 (rrEntry k c.wg.k c.g.k hash no value) ++
        (if wideKind k then allLanes.flatMap (fun l => bytesLE 4 (lanes.getD l 0#32).toNat) else [])
      let s := s.vaWrite c.g.core c.l (base + 0x1000 + gg.rrpos) body
      let s := s.vaWrite c.g.core c.l (base + 8) (bytesLE 4 (gg.rrn + 1))
      s.updGang c.nk (fun g => { g with rrn := g.rrn + 1, rrpos := g.rrpos + n })

/-- An entry of the log: EKIND, hash, event number, value, and where it lies. -/
structure RrEntry where
  kind  : Nat
  hash  : Nat
  no    : Nat
  value : Nat
  at_   : Nat

/-- The first entry of the group from position pos on that p accepts, among the entries left. -/
def State.rrScan (s : State) (c : Ctx) (p : RrEntry → Bool) (pos : Nat) : Nat → Option RrEntry × State
  | 0 => (none, s)
  | left + 1 =>
    let a := c.l.rrBase c.gg.index + 0x1000 + pos
    let (v, s) := s.vaNum c.g.core c.l a 16
    let e : RrEntry :=
      { kind := nbits v 3 0, hash := nbits v 31 16, no := nbits v 63 32, value := nbits v 127 64, at_ := a }
    if nbits v 8 4 = c.wg.k && nbits v 13 9 = c.g.k && p e then (some e, s)
    else s.rrScan c p (pos + (if wideKind e.kind then 144 else 16)) left

/-- The group's next entry that p accepts. -/
def State.rrNext (s : State) (c : Ctx) (p : RrEntry → Bool) : Option RrEntry × State :=
  let (n, s) := s.vaNum c.g.core c.l (c.l.rrBase c.gg.index + 8) 4
  s.rrScan c p 0 n

/-- A divergence (R260, R261): the first of the gang is written to the header and recorded; without FREERUN every group
halts. -/
def State.rrDiverge (s : State) (c : Ctx) (no expect observed : Nat) : State :=
  let s :=
    if c.gg.rrdiv then s
    else
      let b := c.l.rrBase c.gg.index
      let s := s.vaWrite c.g.core c.l (b + 0x10)
        (bytesLE 4 no ++ bytesLE 4 (c.sp.pc % 2 ^ 22 + c.g.k * 2 ^ 22 + c.wg.k * 2 ^ 27)
          ++ bytesLE 8 expect ++ bytesLE 8 observed)
      let s := s.rrFlag c.g.core c.l c.gg.index 1
      s.emitL c.l c.g.die 0 (c.g.core * 4 + c.g.sched) 0x1A
        (no % 2 ^ 32 + c.g.k * 2 ^ 32 + c.wg.k * 2 ^ 37 + expect % 16 * 2 ^ 42 + observed % 16 * 2 ^ 46)
  s.updGang c.nk (fun g =>
    if c.l.freerun then { g with rrdiv := true, free := true } else { g with rrdiv := true, halted := true })

/-- What replay says of an instruction that produces an event of kind k with this hash: it runs with its live outcome, it
takes the recorded value (and lane values), or it halts before it is performed (R260, R261). -/
inductive RrTake where
  | live
  | value (v : Nat) (lanes : List Word)
  | halt

/-- The next entry of the group's instruction events from number no on: the one of least number, since entries stand in the
order in which operations were performed (R258, R259); flag decrements are passed over. best is the least found so far. -/
def State.rrSeek (s : State) (c : Ctx) (no : Nat) (best : Option RrEntry) : Nat → Option RrEntry × State
  | 0 => (best, s)
  | fuel + 1 =>
    match s.rrNext c (fun e => e.kind != 5 && no ≤ e.no && best.all (fun b => e.no < b.no)) with
    | (some e, s) => s.rrSeek c no (some e) fuel
    | (none, s) => (best, s)

/-- The replay of the group's next instruction event; entries of flag decrements are taken by flagDown. -/
def State.rrTake (s : State) (c : Ctx) (k hash : Nat) : RrTake × State :=
  if !c.rrOn 2 then (.live, s)
  else
    let (n, s) := s.vaNum c.g.core c.l (c.l.rrBase c.gg.index + 8) 4
    let (e, s) := s.rrSeek c c.g.evno none (n + 1)
    let observed := k + hash * 16
    match e with
    | none =>
      let s := s.rrDiverge c c.g.evno 0 observed
      (if c.l.freerun then .live else .halt, s)
    | some e =>
      if e.kind = k && e.hash = hash then
        let (b, s) := if wideKind k then s.vaRead c.g.core c.l (e.at_ + 16) 128 else ([], s)
        let lanes := allLanes.map (fun l => BitVec.ofNat 32 (ofBytesLE ((b.drop (4 * l)).take 4)))
        (.value e.value lanes, s.updGroup c.gk (fun g => { g with evno := e.no }))
      else
        let s := s.rrDiverge c e.no (e.kind + e.hash * 16) observed
        (if c.l.freerun then .live else .halt, s)

/-- Takes the group's next event number. -/
def State.rrNumber (s : State) (c : Ctx) : Nat × State :=
  let n := match mget? s.groups c.gk with
    | some g => g.evno
    | none => 0
  (n, s.updGroup c.gk (fun g => { g with evno := g.evno + 1 }))

/-- A completion flag's decrement becomes due: recorded with the group's issue count, or in replay held back until the
recorded count (R258, R260); otherwise it is made at once. -/
def State.flagDown (s : State) (gk f hash : Nat) : State :=
  if 12 ≤ f then s
  else match s.gctx gk with
    | none => s.updGroup gk (·.flagDec f)
    | some c =>
      if c.rrOn 1 && !c.gg.rrovf then
        let (no, s) := s.rrNumber c
        (s.rrRecord c 5 hash no (c.g.issued % 2 ^ 32 + f * 2 ^ 32) []).updGroup gk (·.flagDec f)
      else if c.rrOn 2 then
        let (e, s) := s.rrNext c (fun e => e.kind == 5 && mgetD c.g.decno f 0 ≤ e.no && nbits e.value 35 32 == f)
        match e with
        | some e =>
          if e.hash = hash then
            s.updGroup gk (fun g =>
              { g with heldDec := g.heldDec ++ [(f, nbits e.value 31 0)], decno := mput g.decno f (e.no + 1) })
          else (s.rrDiverge c e.no (5 + e.hash * 16) (5 + hash * 16)).updGroup gk (·.flagDec f)
        | none => (s.rrDiverge c c.g.evno 0 (5 + hash * 16)).updGroup gk (·.flagDec f)
      else s.updGroup gk (·.flagDec f)

/-- Held decrements whose issue count the group has reached become visible (R260); all of them once the gang runs free. -/
def Group.heldDown (g : Group) (free : Bool) : Group :=
  let due := g.heldDec.filter (fun d => free || d.2 ≤ g.issued)
  due.foldl (fun g d => g.flagDec d.1) { g with heldDec := g.heldDec.filter (fun d => !(free || d.2 ≤ g.issued)) }

end Sys2Proof.Machine
end

