-- ==== Sys2Proof/Machine/Placement.lean ====
section
/-! DEFINITION. What a core has free, and groups, workgroups and gangs as they are placed (R89, R98, R99, R102, R108, R116,
R147, R148, R262). -/

namespace Sys2Proof.Machine

/-! ## What a workgroup needs -/

/-- Register budget of group k of a launch (R89, R116). -/
def Launch.budget (l : Launch) (k : Nat) : Nat :=
  if k < l.ncopy then l.rcopy else if k < l.ncopy + l.nmat then l.rmat else l.repi

/-- Vector registers of a workgroup. -/
def Launch.regTotal (l : Launch) : Nat := l.ncopy * l.rcopy + l.nmat * l.rmat + l.nepi * l.repi

/-- The mode that BANKPLAN gives logical bank b (R87). -/
def Launch.bankMode (l : Launch) (b : Nat) : BankMode :=
  match l.bankplan / 4 ^ b % 4 with
  | 0 => .cache
  | 1 => .scratch
  | 2 => .fifo
  | _ => .log

/-- Logical banks that own a bank at placement. -/
def Launch.ownBanks (l : Launch) : List Nat := (upto 24).filter (fun b => l.bankMode b != .cache)

/-! ## What a core has free (R98) -/

/-- Groups on a core's scheduler. -/
def State.slotsUsed (s : State) (core sched : Nat) : List Nat :=
  (s.groups.filter (fun e => e.2.core == core && e.2.sched == sched)).map (·.2.slot)

/-- The lowest free slot of a scheduler. -/
def freeSlot (used : List Nat) : Nat := ((upto 16).find? (fun i => !used.contains i)).getD 0

/-- The first scheduler that is dealt a group: that with the most free slots, the lowest on ties. -/
def State.firstSched (s : State) (core : Nat) : Nat :=
  (leastBy (fun k => (s.slotsUsed core k).length) [0, 1, 2, 3]).getD 0

/-- Groups that a scheduler is dealt of n groups. -/
def dealt (first n k : Nat) : Nat := ((upto n).filter (fun i => (first + i) % 4 == k)).length

/-- Workgroups resident on a core. -/
def State.wgsOn (s : State) (core : Nat) : List Wg := (mvals s.wgs).filter (fun w => w.core == core)

/-- Launches of the workgroups on a core. -/
def State.launchesOn (s : State) (core : Nat) : List Launch :=
  (s.wgsOn core).filterMap (fun w => match mget? s.gangs w.gang with
    | some g => mget? s.launches g.launch
    | none => none)

/-- Sum of a list. -/
def sumL (l : List Nat) : Nat := l.foldl (· + ·) 0

/-- A workgroup of a launch that owns nb banks fits a core (R98). -/
def State.fits (s : State) (l : Launch) (nb core : Nat) : Bool :=
  let first := s.firstSched core
  let ls := s.launchesOn core
  [0, 1, 2, 3].all (fun k => (s.slotsUsed core k).length + dealt first l.groups k ≤ 16) &&
  128 * (sumL (ls.map Launch.regTotal) + l.regTotal) ≤ 0x80000 &&
  (s.ownedBanks core).length + nb ≤ 24 &&
  sumL (ls.map (·.tiles)) + l.tiles ≤ 16

/-- Cores of a W×H rectangle at a die, row and column, in workgroup order (R33, R89). -/
def rectangle (die row col w h : Nat) : List Nat :=
  (upto (w * h)).map (fun n => die * 48 + (row + n / w) * 8 + col + n % w)

/-! ## Placing -/

/-- A group as it is placed: every register zero and tagged U, one split of all lanes at the entry (R108, R109, R262). -/
def Group.placed (wk k core sched slot entry : Nat) : Group :=
  { wg := wk, k := k, core := core, sched := sched, slot := slot, regs := [], preds := [], flags := [], m := 0#16,
    srctr := [], finfo := [], exited := 0#32,
    splits := [{ Split.start (BitVec.allOnes 32) entry with st := .live 0 }], watches := [], pend := [], ops := [],
    fences := [], ars := [], delayed := [], resv := [], cnt := [], issued := 0, evno := 0, lastIss := 0, retiring := false,
    retired := false, vote := none, heldDec := [], decno := [], conv := none, pub := [] }

/-- A bank of mode m on physical bank phys (R149). -/
def Bank.placed (m : BankMode) (phys : Option Nat) : Bank :=
  { mode := m, phys := phys, e := 5, wp := 0, rp := 0, count := 0, held := [] }

/-- The physical bank that a logical bank takes: the lowest that no workgroup owns (R147). -/
def freeBank (owned : List Nat) : Option Nat := (upto 24).find? (fun b => !owned.contains b)

/-- The banks of a workgroup at placement (R147). -/
def Launch.banks (l : Launch) (owned : List Nat) : Map Bank :=
  ((upto 24).foldl (fun acc b =>
    match l.bankMode b with
    | .cache => (mput acc.1 b (Bank.placed .cache none), acc.2)
    | m => match freeBank acc.2 with
      | some p => (mput acc.1 b (Bank.placed m (some p)), p :: acc.2)
      | none => (mput acc.1 b (Bank.placed .cache none), acc.2)) (([] : Map Bank), owned)).1

/-- A workgroup as it is placed. -/
def Wg.placed (l : Launch) (gang k core : Nat) (owned : List Nat) : Wg :=
  { gang := gang, k := k, core := core, handles := [], tiles := [], banks := l.banks owned,
    list := (upto 24).filter (fun b => l.bankMode b == .scratch), sram := [], spois := [], blocks := [], rbcause := 0,
    latedrop := 0, gen := 0, failing := none, ensureEnd := none, conv := none, convl := [], dirty := [], pushes := [],
    served := [], retired := false }

/-- A bank leaves the cache pool of a core, one way of it: of each set it takes at most one line, which is written back and
dropped, and must take one of a set that fills all the ways left and more (R147). Which line lay in it is left open. -/
def State.dropWay (s : State) (core w : Nat) : State :=
  let ls := s.coreLines core
  let s' := (dedup (ls.map (· % 1024))).foldl (fun s set =>
    let here := ls.filter (fun x => x % 1024 == set)
    let k := Config.freeNat (s.draws + set) % (if w < here.length then here.length else w + 1)
    match here[k]? with
    | some ln => s.leaveCore core ln
    | none => s) s
  if ls.isEmpty then s else s'.draw 1024

/-- Banks have left the cache pool of a core, n of them (R147). -/
def State.shrinkPool (s : State) (core n : Nat) : State :=
  (upto n).foldl (fun s i => s.dropWay core (s.ways core + n - 1 - i)) s

/-- Deals the groups gs, group 0 first, to the schedulers of a core in rotation, each to its scheduler's lowest free slot
(R98). -/
def State.dealGroups (s : State) (core wk : Nat) (gs : List Group) : State :=
  let first := s.firstSched core
  gs.zipIdx.foldl (fun s e =>
    let sched := (first + e.2) % 4
    let g := { e.1 with core := core, sched := sched, slot := freeSlot (s.slotsUsed core sched) }
    { s with groups := mput s.groups (groupKey wk e.1.k) g }) s

/-- Drops the R lines of a core: CBINV, and the placing and the retirement of a workgroup (R154). -/
def State.dropR (s : State) (core : Nat) : State :=
  s.setMM { s.mm with wcopy := s.mm.wcopy.filter (fun e => !(e.2.ro && e.1 / 2 ^ 44 == core)) }

/-- Places the workgroup number n of gang nk on a core. -/
def State.placeWg (s : State) (l : Launch) (nk n core : Nat) : State :=
  let s := s.dropR core
  let wk := wgKey nk n
  let w := Wg.placed l nk n core (s.ownedBanks core)
  let s := { s with wgs := mput s.wgs wk w }
  let s := s.dealGroups core wk ((upto l.groups).map (fun k => Group.placed wk k core 0 0 l.entry))
  s.shrinkPool core l.ownBanks.length

/-- Places a gang that has never run at an origin (R99, R102). -/
def State.placeGang (s : State) (lk : Nat) (l : Launch) (index die row col : Nat) (slot : Option Nat) : State :=
  let nk := gangKey lk index
  let g : Gang :=
    { launch := lk, index := index, st := .placed, die := die, origin := row * 8 + col, w := l.w, h := l.h, slot := slot,
      steps := 0, halted := false, free := false, rrn := 0, rrpos := 0, rrovf := false, rrdiv := false, ended := false }
  let s := { s with gangs := mput s.gangs nk g }
  let s := (rectangle die row col l.w l.h).zipIdx.foldl (fun s e => s.placeWg l nk e.2 e.1) s
  s.rrHeader (die * 48 + row * 8 + col) l index

end Sys2Proof.Machine
end

