-- ==== Sys2Proof/Machine/Load.lean ====
section
/-! DEFINITION. The placing of one instruction word where the next step fetches it: what a host's LAUNCH packet and the
dispatcher's placement bring about, in the smallest form (assumption 30). -/

namespace Sys2Proof.Machine

/-- A launch of one gang of one workgroup of one epilogue group, with 128 registers and 16 tiles, in address space 1. -/
def Launch.single (gen codebase : Nat) : Launch :=
  { queue := 0, index := 0, lrec := 0, tag := 0, cqe := false, part := 0, prio := 0, faulten := false,
    codebase := codebase, entry := 0, faultoff := 0, aspace := 1, gen := gen, gx := 1, gy := 1, gz := 1, w := 1, h := 1,
    ncopy := 0, nmat := 0, nepi := 1, rcopy := 0, rmat := 0, repi := 128, bankplan := 0, scratch := 0, tiles := 16,
    htab := 0, hcount := 0, cyclim := 0, seed := 0#64, savearea := 0, savestride := 0, saveslots := 0, trfilt := 0#128,
    deps := [], slots := [], sigev := 0, sigen := false, sigadd := 0, nextGang := 1, ended := none, rfail := 0, rcause := 0,
    rung := 0, order := 0 }

/-- Physical places of what is loaded: the address-space table, the tables of levels 0 to 2, and the code. -/
def loadTab : Nat := 0x10000
def loadL0 : Nat := 0x20000
def loadL1 : Nat := 0x21000
def loadL2 : Nat := 0x22000
def loadCode : Nat := 0x40000

/-- Translation tables of address space 1 that map the lowest gigabyte to itself, with every right, as after a completed ASCTL
action (R166 to R168). -/
def State.loadTables (s : State) : State :=
  let s := s.devWrite (loadTab + 16) 16 (loadL0 + 1)
  let s := s.devWrite loadL0 8 (loadL1 + 1)
  let s := s.devWrite loadL1 8 (loadL2 + 1)
  let s := s.devWrite loadL2 8 0x33
  let s := s.setReg 0x21 (BitVec.ofNat 64 (loadTab + 1))
  s.setMM { s.mm with tlb := mdel s.mm.tlb (tlbKey 1 loadCode), marks := mput s.mm.marks 1 s.mm.olds.length }

/-- Writes the header of a clause of one word at word 0 and the word w at word 1; the word after them is zero. -/
def State.loadWords (s : State) (w : Nat) : State :=
  let s := s.devWrite loadCode 12 (0xFE001FE2 + w % 2 ^ 32 * 2 ^ 32)
  s.setMM { s.mm with icache := s.mm.icache.filter (fun e => e.1 % 2 ^ 44 != loadCode / 128) }

/-- The group that runs the word: at word 1 in the clause of word 0; a clause header stands at word 0 itself. -/
def State.loadGroup (s : State) (w : Nat) : State :=
  let l := Launch.single (s.asGen 1) loadCode
  let s := { s with launches := mput s.launches 0 l }
  let wk := wgKey 0 0
  let gk := groupKey wk 0
  let s := { s with
    gangs := mput s.gangs 0
      { launch := 0, index := 0, st := .running, die := 0, origin := 0, w := 1, h := 1, slot := none, steps := 0,
        halted := false, free := false, rrn := 0, rrpos := 0, rrovf := false, rrdiv := false, ended := false }
    wgs := mput s.wgs wk (Wg.placed l 0 0 0 []) }
  let g := Group.placed wk 0 0 0 0 0
  let head := w / 2 ^ 25 % 128 = 0x7F
  let sp : Split := { Split.start (BitVec.allOnes 32) (if head then 0 else 1) with
    st := .live 0, inClause := !head, clauseEnd := 2 }
  { s with groups := mput s.groups gk { g with splits := [sp] } }

/-- Stores the word w where the next step fetches, with the launch that runs it, and gives scheduler 0 of core 0 the next
turn. A clause header is stored at word 0. -/
def State.placeWord (s : State) (w : Nat) : State :=
  let s := s.loadTables
  let s := if w / 2 ^ 25 % 128 = 0x7F then
      (let s := s.devWrite loadCode 12 (w % 2 ^ 32)
       s.setMM { s.mm with icache := s.mm.icache.filter (fun e => e.1 % 2 ^ 44 != loadCode / 128) })
    else s.loadWords w
  let s := s.loadGroup w
  { s with
    focus := none
    stops := mdel s.stops 0
    power := { s.power with st := .on }
    agenda := [.issue 0 0] }

end Sys2Proof.Machine
end

