-- ==== Sys2Proof/Decode.lean ====
section
/-! DEFINITION. The decoder of instruction words (R273 to R281), total on every word and rejecting by name, and after it
the encoder, written from the same formats. A word whose fields are all placed but hold a value that no rule assigns
decodes, and is not well formed: Instr.wf. -/

namespace Sys2Proof

/-- Why a word is no instruction (R281). -/
inductive Reject where
  /-- The major is in none of the tables of R276 to R280. -/
  | unassignedMajor
  /-- The selector (minor, kind, size or scope bit that must hold one value) is not listed for the major. -/
  | unassignedSelector
  /-- A field or sub-field that the instruction does not use is not zero (R274). -/
  | unusedField
  /-- Fewer than the four bytes of a word are left. -/
  | truncated
  deriving DecidableEq, Repr

/-- The n bits of w from bit lo up. -/
def fieldOf (n lo w : Nat) : BitVec n := BitVec.ofNat n (w / 2 ^ lo)

/-- The instruction, when the bits u that it does not use are zero. -/
def unusedZero {n : Nat} (u : BitVec n) (i : Instr) : Except Reject Instr :=
  if u = 0#n then .ok i else .error .unusedField

/-- Major 0x01. Branches (R276). -/
def dec01 (k : Nat) (o : BitVec 22) : Except Reject Instr :=
  match k with
  | 0 => .ok (.bra o)
  | 1 => .ok (.braAny o)
  | 2 => .ok (.braAll o)
  | _ => .error .unassignedSelector

/-- Major 0x02. CALL. -/
def dec02 (k : Nat) (o : BitVec 22) : Except Reject Instr :=
  match k with
  | 0 => .ok (.call o)
  | _ => .error .unassignedSelector

/-- Major 0x03. Register transfers. -/
def dec03 (d a b : BitVec 7) (m : Nat) : Except Reject Instr :=
  match m with
  | 0 => unusedZero (d ++ b) (.brx a)
  | 1 => unusedZero (d ++ b) (.callx a)
  | 2 => unusedZero (d ++ b) (.ret a)
  | _ => .error .unassignedSelector

/-- Major 0x04. JTAB. -/
def dec04 (d a : BitVec 7) (i : BitVec 11) : Except Reject Instr :=
  unusedZero (d) (.jtab a i)

/-- Major 0x05. SWITCH. -/
def dec05 (d a : BitVec 7) (i : BitVec 11) : Except Reject Instr :=
  unusedZero (d) (.switch a i)

/-- Major 0x06. JOIN, EXIT, NOP, YIELD. -/
def dec06 (d a b : BitVec 7) (m : Nat) : Except Reject Instr :=
  match m with
  | 0 => unusedZero (d ++ a ++ b) (.join)
  | 1 => unusedZero (d ++ a ++ b) (.exit)
  | 2 => unusedZero (d ++ a ++ b) (.nop)
  | 3 => unusedZero (d ++ a ++ b) (.yield)
  | _ => .error .unassignedSelector

/-- Major 0x10. ENSURE. -/
def dec10 (d : BitVec 7) (i : BitVec 18) : Except Reject Instr :=
  .ok (.ensure d i)

/-- Major 0x11. ELSEBY. -/
def dec11 (k : Nat) (o : BitVec 22) : Except Reject Instr :=
  match k with
  | 0 => .ok (.elseby o)
  | _ => .error .unassignedSelector

/-- Major 0x12. ELSEERR. -/
def dec12 (k : Nat) (o : BitVec 22) : Except Reject Instr :=
  match k with
  | 0 => unusedZero (o) (.elseerr)
  | _ => .error .unassignedSelector

/-- Major 0x13. ACCEPT, REJECT. -/
def dec13 (d a b : BitVec 7) (m : Nat) : Except Reject Instr :=
  match m with
  | 0 => unusedZero (d ++ (a).extractLsb' 3 4 ++ b) (.accept ((a).extractLsb' 0 3))
  | 1 => unusedZero (d ++ a ++ b) (.reject)
  | _ => .error .unassignedSelector

/-- Major 0x14. CONVJ. -/
def dec14 (d a : BitVec 7) (h : BitVec 4) (s : BitVec 3) (m : BitVec 4) : Except Reject Instr :=
  unusedZero (d ++ s ++ m) (.convj a h)

/-- Major 0x15. CONVL. -/
def dec15 (d a b : BitVec 7) (m : Nat) : Except Reject Instr :=
  match m with
  | 0 => unusedZero (d ++ a ++ b) (.convl)
  | _ => .error .unassignedSelector

/-- Major 0x18. SETM. -/
def dec18 (d : BitVec 7) (i : BitVec 18) : Except Reject Instr :=
  match ((i).extractLsb' 16 2).toNat with
  | 0 => unusedZero (d) (.setm ((i).extractLsb' 0 16))
  | 1 => unusedZero ((i).extractLsb' 0 16) (.setmRegister d)
  | _ => .error .unassignedSelector

/-- Major 0x19. GETM. -/
def dec19 (d : BitVec 7) (i : BitVec 18) : Except Reject Instr :=
  unusedZero (i) (.getm d)

/-- Major 0x1A. TRAP. -/
def dec1A (d : BitVec 7) (i : BitVec 18) : Except Reject Instr :=
  unusedZero (d ++ (i).extractLsb' 16 2) (.trap ((i).extractLsb' 0 16))

/-- Major 0x1B. BKPT. -/
def dec1B (d : BitVec 7) (i : BitVec 18) : Except Reject Instr :=
  unusedZero (d ++ (i).extractLsb' 16 2) (.bkpt ((i).extractLsb' 0 16))

/-- Major 0x1C. ERET. -/
def dec1C (d : BitVec 7) (i : BitVec 18) : Except Reject Instr :=
  match ((i).extractLsb' 0 1).toNat with
  | 0 => unusedZero (d ++ (i).extractLsb' 1 17) (.eret)
  | 1 => unusedZero (d ++ (i).extractLsb' 1 17) (.eretSkip)
  | _ => .error .unassignedSelector

/-- Major 0x20. Integer arithmetic (R277). -/
def dec20 (d a b : BitVec 7) (m : Nat) : Except Reject Instr :=
  match m with
  | 0 => .ok (.vadd d a b)
  | 1 => .ok (.vsub d a b)
  | 2 => .ok (.vmul d a b)
  | 3 => .ok (.vmulh d a b)
  | 4 => .ok (.vmad d a b)
  | 5 => .ok (.vmin d a b)
  | 6 => .ok (.vmax d a b)
  | 7 => unusedZero (b) (.vabs d a)
  | 8 => unusedZero (b) (.vneg d a)
  | 9 => .ok (.vdot4 d a b)
  | _ => .error .unassignedSelector

/-- Major 0x21. Logic and shifts. -/
def dec21 (d a b : BitVec 7) (m : Nat) : Except Reject Instr :=
  match m with
  | 0 => .ok (.vand d a b)
  | 1 => .ok (.vor d a b)
  | 2 => .ok (.vxor d a b)
  | 3 => .ok (.vshl d a b)
  | 4 => .ok (.vshr d a b)
  | 5 => .ok (.vrol d a b)
  | 6 => unusedZero (b) (.vclz d a)
  | 7 => unusedZero (b) (.vpopc d a)
  | 8 => unusedZero (b) (.vbrev d a)
  | _ => .error .unassignedSelector

/-- Major 0x22. Bit fields, moves, packing. -/
def dec22 (d a b : BitVec 7) (m : Nat) : Except Reject Instr :=
  match m with
  | 0 => .ok (.vbfe d a b)
  | 1 => .ok (.vbfi d a b)
  | 2 => unusedZero (b) (.vmov d a)
  | 3 => unusedZero (b) (.vtag d a)
  | 4 => .ok (.vpack d a b)
  | 5 => unusedZero (b) (.vunpk d a)
  | _ => .error .unassignedSelector

/-- Major 0x23. VCMP. -/
def dec23 (d a b : BitVec 7) (m : BitVec 4) : Except Reject Instr :=
  unusedZero ((d).extractLsb' 3 4) (.vcmp ((d).extractLsb' 0 3) a b m)

/-- Major 0x24. VSEL. -/
def dec24 (d a : BitVec 7) (i : BitVec 11) : Except Reject Instr :=
  .ok (.vsel d a ((i).extractLsb' 10 1) ((i).extractLsb' 7 3) ((i).extractLsb' 0 7))

/-- Major 0x28. VADDI. -/
def dec28 (d a : BitVec 7) (i : BitVec 11) : Except Reject Instr :=
  .ok (.vaddi d a i)

/-- Major 0x29. VANDI. -/
def dec29 (d a : BitVec 7) (i : BitVec 11) : Except Reject Instr :=
  .ok (.vandi d a i)

/-- Major 0x2A. VORI. -/
def dec2A (d a : BitVec 7) (i : BitVec 11) : Except Reject Instr :=
  .ok (.vori d a i)

/-- Major 0x2B. VXORI. -/
def dec2B (d a : BitVec 7) (i : BitVec 11) : Except Reject Instr :=
  .ok (.vxori d a i)

/-- Major 0x2F. VAFF. -/
def dec2F (d a : BitVec 7) (i : BitVec 11) : Except Reject Instr :=
  .ok (.vaff d a i)

/-- Major 0x2C. VSHLI. -/
def dec2C (d a : BitVec 7) (i : BitVec 11) : Except Reject Instr :=
  unusedZero ((i).extractLsb' 5 6) (.vshli d a ((i).extractLsb' 0 5))

/-- Major 0x2D. VSHRI. -/
def dec2D (d a : BitVec 7) (i : BitVec 11) : Except Reject Instr :=
  unusedZero ((i).extractLsb' 5 6) (.vshri d a ((i).extractLsb' 0 5))

/-- Major 0x2E. VCMPI. -/
def dec2E (d a : BitVec 7) (i : BitVec 11) : Except Reject Instr :=
  .ok (.vcmpi ((d).extractLsb' 3 4) ((d).extractLsb' 0 3) a i)

/-- Major 0x30. VMOVI. -/
def dec30 (d : BitVec 7) (i : BitVec 18) : Except Reject Instr :=
  .ok (.vmovi d i)

/-- Major 0x31. VLUI. -/
def dec31 (d : BitVec 7) (i : BitVec 18) : Except Reject Instr :=
  .ok (.vlui d i)

/-- Major 0x38. Lane operations. -/
def dec38 (d a b : BitVec 7) (m : Nat) : Except Reject Instr :=
  match m with
  | 0 => .ok (.vbcast d a b)
  | 1 => .ok (.vshfl d a b)
  | 2 => .ok (.vshfx d a b)
  | 3 => unusedZero ((b).extractLsb' 4 3) (.vred d a ((b).extractLsb' 0 4))
  | 4 => unusedZero ((b).extractLsb' 5 2) (.vscan d a ((b).extractLsb' 4 1) ((b).extractLsb' 0 4))
  | _ => .error .unassignedSelector

/-- Major 0x39. Predicates. -/
def dec39 (d a b : BitVec 7) (m : Nat) : Except Reject Instr :=
  match m with
  | 0 => unusedZero ((d).extractLsb' 3 4 ++ (a).extractLsb' 3 4 ++ (b).extractLsb' 3 4) (.pand ((d).extractLsb' 0 3) ((a).extractLsb' 0 3) ((b).extractLsb' 0 3))
  | 1 => unusedZero ((d).extractLsb' 3 4 ++ (a).extractLsb' 3 4 ++ (b).extractLsb' 3 4) (.por ((d).extractLsb' 0 3) ((a).extractLsb' 0 3) ((b).extractLsb' 0 3))
  | 2 => unusedZero ((d).extractLsb' 3 4 ++ (a).extractLsb' 3 4 ++ (b).extractLsb' 3 4) (.pxor ((d).extractLsb' 0 3) ((a).extractLsb' 0 3) ((b).extractLsb' 0 3))
  | 3 => unusedZero ((d).extractLsb' 3 4 ++ (a).extractLsb' 3 4 ++ b) (.pnot ((d).extractLsb' 0 3) ((a).extractLsb' 0 3))
  | 4 => unusedZero ((a).extractLsb' 3 4 ++ b) (.ballot d ((a).extractLsb' 0 3))
  | 5 => unusedZero ((d).extractLsb' 3 4 ++ b) (.pmask ((d).extractLsb' 0 3) a)
  | _ => .error .unassignedSelector

/-- Major 0x40. Float arithmetic (R278, R343: t is TE). -/
def dec40 (d a b : BitVec 7) (t : BitVec 1) (m : Nat) : Except Reject Instr :=
  match m with
  | 0 => .ok (.vfadd d a b t)
  | 1 => .ok (.vfsub d a b t)
  | 2 => .ok (.vfmul d a b t)
  | 3 => .ok (.vfma d a b t)
  | 4 => .ok (.vfmin d a b t)
  | 5 => .ok (.vfmax d a b t)
  | 6 => .ok (.vfdiv d a b t)
  | _ => .error .unassignedSelector

/-- Major 0x41. VFCMP. -/
def dec41 (d a b : BitVec 7) (t : BitVec 1) (c : BitVec 3) : Except Reject Instr :=
  unusedZero ((d).extractLsb' 3 4 ++ t) (.vfcmp ((d).extractLsb' 0 3) a b c)

/-- Major 0x42. Special functions. -/
def dec42 (d a b : BitVec 7) (t : BitVec 1) (m : Nat) : Except Reject Instr :=
  match m with
  | 0 => unusedZero (b) (.vrcp d a t)
  | 1 => unusedZero (b) (.vrsq d a t)
  | 2 => unusedZero (b) (.vsqrt d a t)
  | 3 => unusedZero (b) (.vexp2 d a t)
  | 4 => unusedZero (b) (.vlog2 d a t)
  | 5 => unusedZero (b) (.vsin d a t)
  | 6 => unusedZero (b) (.vcos d a t)
  | 7 => unusedZero (b) (.vfrnd d a t)
  | _ => .error .unassignedSelector

/-- Major 0x43. Conversions. -/
def dec43 (d a b : BitVec 7) (t : BitVec 1) (m : Nat) : Except Reject Instr :=
  match m with
  | 0 => unusedZero ((b).extractLsb' 4 3) (.vcvt d a ((b).extractLsb' 0 4) t)
  | 1 => unusedZero ((b).extractLsb' 3 4) (.vcvtn d a ((b).extractLsb' 0 3) t)
  | 2 => unusedZero ((b).extractLsb' 2 5 ++ t) (.vamax d a ((b).extractLsb' 0 2))
  | 3 => unusedZero ((b).extractLsb' 3 4) (.vscl d a ((b).extractLsb' 0 3) t)
  | 4 => unusedZero (a ++ (b).extractLsb' 2 5 ++ t) (.vrand d ((b).extractLsb' 0 2))
  | _ => .error .unassignedSelector

/-- Major 0x44. VSPR. -/
def dec44 (d : BitVec 7) (i : BitVec 18) : Except Reject Instr :=
  .ok (.vspr d i)

/-- Major 0x50. LD (R279). -/
def dec50 (d a : BitVec 7) (h : BitVec 4) (s : BitVec 3) (m : BitVec 4) : Except Reject Instr :=
  unusedZero ((m).extractLsb' 1 3) (.ld d a h s (m.extractLsb' 0 1))

/-- Major 0x51. ST. -/
def dec51 (d a : BitVec 7) (h : BitVec 4) (s : BitVec 3) (m : BitVec 4) : Except Reject Instr :=
  unusedZero (m) (.st d a h s)

/-- Major 0x52. LDA. -/
def dec52 (d a : BitVec 7) (h : BitVec 4) (s : BitVec 3) (m : BitVec 4) : Except Reject Instr :=
  unusedZero ((m).extractLsb' 3 1) (.lda d a h s (m.extractLsb' 0 3))

/-- Major 0x53. STRL. -/
def dec53 (d a : BitVec 7) (h : BitVec 4) (s : BitVec 3) (m : BitVec 4) : Except Reject Instr :=
  unusedZero ((m).extractLsb' 3 1) (.strl d a h s (m.extractLsb' 0 3))

/-- Major 0x54. LDW. -/
def dec54 (d a : BitVec 7) (h : BitVec 4) (s : BitVec 3) (m : BitVec 4) : Except Reject Instr :=
  unusedZero ((m).extractLsb' 3 1) (.ldw d a h s (m.extractLsb' 0 3))

/-- Major 0x55. CHK. -/
def dec55 (d : BitVec 7) (i : BitVec 18) : Except Reject Instr :=
  unusedZero (d) (.chk ((i).extractLsb' 10 8) ((i).extractLsb' 0 10))

/-- Major 0x56. FENCE. -/
def dec56 (d : BitVec 7) (i : BitVec 18) : Except Reject Instr :=
  unusedZero (d ++ (i).extractLsb' 7 11) (.fence ((i).extractLsb' 6 1) ((i).extractLsb' 3 3) ((i).extractLsb' 0 3))

/-- Major 0x57. atom. -/
def dec57 (d a : BitVec 7) (h : BitVec 4) (s : BitVec 3) (m : BitVec 4) : Except Reject Instr :=
  .ok (.atom d a h s (m.extractLsb' 3 1) (m.extractLsb' 0 3))

/-- Major 0x58. atomAcq. -/
def dec58 (d a : BitVec 7) (h : BitVec 4) (s : BitVec 3) (m : BitVec 4) : Except Reject Instr :=
  .ok (.atomAcq d a h s (m.extractLsb' 3 1) (m.extractLsb' 0 3))

/-- Major 0x59. atomRel. -/
def dec59 (d a : BitVec 7) (h : BitVec 4) (s : BitVec 3) (m : BitVec 4) : Except Reject Instr :=
  .ok (.atomRel d a h s (m.extractLsb' 3 1) (m.extractLsb' 0 3))

/-- Major 0x5A. atomAr. -/
def dec5A (d a : BitVec 7) (h : BitVec 4) (s : BitVec 3) (m : BitVec 4) : Except Reject Instr :=
  .ok (.atomAr d a h s (m.extractLsb' 3 1) (m.extractLsb' 0 3))

/-- Major 0x5B. LR. -/
def dec5B (d a : BitVec 7) (h : BitVec 4) (s : BitVec 3) (m : BitVec 4) : Except Reject Instr :=
  .ok (.lr d a h s (m.extractLsb' 3 1) (m.extractLsb' 0 3))

/-- Major 0x5C. SC. -/
def dec5C (d a : BitVec 7) (h : BitVec 4) (s : BitVec 3) (m : BitVec 4) : Except Reject Instr :=
  .ok (.sc d a h s (m.extractLsb' 3 1) (m.extractLsb' 0 3))

/-- Major 0x5D. PREF. -/
def dec5D (d a : BitVec 7) (h : BitVec 4) (s : BitVec 3) (m : BitVec 4) : Except Reject Instr :=
  unusedZero (d ++ s ++ (m).extractLsb' 1 3) (.pref a h (m.extractLsb' 0 1))

/-- Major 0x5E. HLOAD. -/
def dec5E (d : BitVec 7) (i : BitVec 18) : Except Reject Instr :=
  unusedZero (d ++ (i).extractLsb' 8 10) (.hload ((i).extractLsb' 4 4) ((i).extractLsb' 0 4))

/-- Major 0x5F. CBINV. -/
def dec5F (d : BitVec 7) (i : BitVec 18) : Except Reject Instr :=
  unusedZero (d ++ i) (.cbinv)

/-- Major 0x60. CPY. -/
def dec60 (d a b : BitVec 7) (m : BitVec 4) : Except Reject Instr :=
  unusedZero ((m).extractLsb' 2 2) (.cpy d a b (m.extractLsb' 0 2))

/-- Major 0x61. CPYB. -/
def dec61 (d a b : BitVec 7) (m : BitVec 4) : Except Reject Instr :=
  unusedZero ((m).extractLsb' 3 1) (.cpyb d a b (m.extractLsb' 0 3))

/-- Major 0x62. CPYX. -/
def dec62 (d a b : BitVec 7) (m : BitVec 4) : Except Reject Instr :=
  if m.extractLsb' 3 1 = 0#1 then .ok (.cpyxG d a b (m.extractLsb' 0 3)) else .ok (.cpyxS d a b (m.extractLsb' 0 3))

/-- Major 0x63. QFENCE. -/
def dec63 (d : BitVec 7) (i : BitVec 18) : Except Reject Instr :=
  unusedZero (d ++ (i).extractLsb' 6 12) (.qfence ((i).extractLsb' 0 6))

/-- Major 0x68. MMA (R280). -/
def dec68 (d a b : BitVec 7) (m : Nat) : Except Reject Instr :=
  match m with
  | 0 => .ok (.mma ((d).extractLsb' 4 3) ((d).extractLsb' 0 4) a b)
  | _ => .error .unassignedSelector

/-- Major 0x69. MMACK (R280). -/
def dec69 (d a b : BitVec 7) (m : Nat) : Except Reject Instr :=
  match m with
  | 0 => .ok (.mmack ((d).extractLsb' 4 3) ((d).extractLsb' 0 4) a b)
  | _ => .error .unassignedSelector

/-- Major 0x6A. MZERO. -/
def dec6A (d : BitVec 7) (i : BitVec 18) : Except Reject Instr :=
  unusedZero (d ++ (i).extractLsb' 16 2) (.mzero ((i).extractLsb' 0 16))

/-- Major 0x6B. MLD. -/
def dec6B (d a : BitVec 7) (h : BitVec 4) (s : BitVec 3) (m : BitVec 4) : Except Reject Instr :=
  unusedZero ((d).extractLsb' 4 3 ++ s ++ m) (.mld ((d).extractLsb' 0 4) a h)

/-- Major 0x6C. MST. -/
def dec6C (d a : BitVec 7) (h : BitVec 4) (s : BitVec 3) (m : BitVec 4) : Except Reject Instr :=
  unusedZero ((d).extractLsb' 4 3 ++ s ++ m) (.mst ((d).extractLsb' 0 4) a h)

/-- Major 0x6D. MSTN. -/
def dec6D (d a : BitVec 7) (h : BitVec 4) (s : BitVec 3) (m : BitVec 4) : Except Reject Instr :=
  unusedZero (s ++ m) (.mstn ((d).extractLsb' 4 3) ((d).extractLsb' 0 4) a h)

/-- Major 0x6E. MCKV (R392). -/
def dec6E (d a b : BitVec 7) (m : BitVec 4) : Except Reject Instr :=
  unusedZero ((a).extractLsb' 4 3 ++ m) (.mckv d ((a).extractLsb' 0 4) b)

/-- Major 0x6F. MCKC (R392). -/
def dec6F (d a b : BitVec 7) (m : BitVec 4) : Except Reject Instr :=
  unusedZero ((d).extractLsb' 4 3 ++ b ++ m) (.mckc ((d).extractLsb' 0 4) a)

/-- Major 0x70. Barriers. -/
def dec70 (d a b : BitVec 7) (m : Nat) : Except Reject Instr :=
  match m with
  | 0 => unusedZero (d ++ a ++ b) (.wbar)
  | 1 => unusedZero (d ++ a ++ b) (.gbar)
  | _ => .error .unassignedSelector

/-- Major 0x71. FPUSH, FPOP. -/
def dec71 (d : BitVec 7) (i : BitVec 18) : Except Reject Instr :=
  match ((i).extractLsb' 17 1).toNat with
  | 0 => unusedZero ((i).extractLsb' 5 12) (.fpush d ((i).extractLsb' 0 5))
  | 1 => unusedZero ((i).extractLsb' 5 12) (.fpop d ((i).extractLsb' 0 5))
  | _ => .error .unassignedSelector

/-- Major 0x72. BANKM. -/
def dec72 (d : BitVec 7) (i : BitVec 18) : Except Reject Instr :=
  unusedZero ((i).extractLsb' 10 8) (.bankm d ((i).extractLsb' 7 3) ((i).extractLsb' 5 2) ((i).extractLsb' 0 5))

/-- Major 0x73. Events. -/
def dec73 (d a b : BitVec 7) (m : Nat) : Except Reject Instr :=
  match m with
  | 0 => unusedZero (d) (.evsigAdd a b)
  | 1 => unusedZero (d) (.evsigSet a b)
  | 2 => unusedZero (d ++ b) (.evsigClr a)
  | 3 => unusedZero (b) (.evqry d a)
  | _ => .error .unassignedSelector

/-- Major 0x74. TRACE, TMARK. -/
def dec74 (d : BitVec 7) (i : BitVec 18) : Except Reject Instr :=
  match ((i).extractLsb' 17 1).toNat with
  | 0 => unusedZero ((i).extractLsb' 16 1) (.trace d ((i).extractLsb' 0 16))
  | 1 => unusedZero (d ++ (i).extractLsb' 16 1) (.tmark ((i).extractLsb' 0 16))
  | _ => .error .unassignedSelector

/-- Major 0x75. SYSR, SYSW. -/
def dec75 (d : BitVec 7) (i : BitVec 18) : Except Reject Instr :=
  match ((i).extractLsb' 17 1).toNat with
  | 0 => unusedZero ((i).extractLsb' 16 1) (.sysr d ((i).extractLsb' 0 16))
  | 1 => unusedZero ((i).extractLsb' 16 1) (.sysw d ((i).extractLsb' 0 16))
  | _ => .error .unassignedSelector

/-- Major 0x76. WAITF. -/
def dec76 (d : BitVec 7) (i : BitVec 18) : Except Reject Instr :=
  unusedZero (d ++ (i).extractLsb' 12 6) (.waitf ((i).extractLsb' 0 12))

/-- Major 0x77. HALT. -/
def dec77 (d : BitVec 7) (i : BitVec 18) : Except Reject Instr :=
  unusedZero (d ++ i) (.halt)

/-- The clause header: major 0x7F (R268). -/
def decHeader (w : Nat) : Instr :=
  .clause (fieldOf 12 13 w) (fieldOf 4 9 w) (fieldOf 4 5 w) (fieldOf 4 1 w) (fieldOf 1 0 w)

/-- The instruction that the 32 bits w hold: the major selects the format and the family (R273, R276 to R280). -/
def decodeNat (w : Nat) : Except Reject Instr :=
  match w / 2 ^ 25 % 128 with
  | 0x01 => dec01 (w / 2 ^ 22 % 8) (fieldOf 22 0 w)
  | 0x02 => dec02 (w / 2 ^ 22 % 8) (fieldOf 22 0 w)
  | 0x03 => dec03 (fieldOf 7 18 w) (fieldOf 7 11 w) (fieldOf 7 4 w) (w % 16)
  | 0x04 => dec04 (fieldOf 7 18 w) (fieldOf 7 11 w) (fieldOf 11 0 w)
  | 0x05 => dec05 (fieldOf 7 18 w) (fieldOf 7 11 w) (fieldOf 11 0 w)
  | 0x06 => dec06 (fieldOf 7 18 w) (fieldOf 7 11 w) (fieldOf 7 4 w) (w % 16)
  | 0x10 => dec10 (fieldOf 7 18 w) (fieldOf 18 0 w)
  | 0x11 => dec11 (w / 2 ^ 22 % 8) (fieldOf 22 0 w)
  | 0x12 => dec12 (w / 2 ^ 22 % 8) (fieldOf 22 0 w)
  | 0x13 => dec13 (fieldOf 7 18 w) (fieldOf 7 11 w) (fieldOf 7 4 w) (w % 16)
  | 0x14 => dec14 (fieldOf 7 18 w) (fieldOf 7 11 w) (fieldOf 4 7 w) (fieldOf 3 4 w) (fieldOf 4 0 w)
  | 0x15 => dec15 (fieldOf 7 18 w) (fieldOf 7 11 w) (fieldOf 7 4 w) (w % 16)
  | 0x18 => dec18 (fieldOf 7 18 w) (fieldOf 18 0 w)
  | 0x19 => dec19 (fieldOf 7 18 w) (fieldOf 18 0 w)
  | 0x1A => dec1A (fieldOf 7 18 w) (fieldOf 18 0 w)
  | 0x1B => dec1B (fieldOf 7 18 w) (fieldOf 18 0 w)
  | 0x1C => dec1C (fieldOf 7 18 w) (fieldOf 18 0 w)
  | 0x20 => dec20 (fieldOf 7 18 w) (fieldOf 7 11 w) (fieldOf 7 4 w) (w % 16)
  | 0x21 => dec21 (fieldOf 7 18 w) (fieldOf 7 11 w) (fieldOf 7 4 w) (w % 16)
  | 0x22 => dec22 (fieldOf 7 18 w) (fieldOf 7 11 w) (fieldOf 7 4 w) (w % 16)
  | 0x23 => dec23 (fieldOf 7 18 w) (fieldOf 7 11 w) (fieldOf 7 4 w) (fieldOf 4 0 w)
  | 0x24 => dec24 (fieldOf 7 18 w) (fieldOf 7 11 w) (fieldOf 11 0 w)
  | 0x28 => dec28 (fieldOf 7 18 w) (fieldOf 7 11 w) (fieldOf 11 0 w)
  | 0x29 => dec29 (fieldOf 7 18 w) (fieldOf 7 11 w) (fieldOf 11 0 w)
  | 0x2A => dec2A (fieldOf 7 18 w) (fieldOf 7 11 w) (fieldOf 11 0 w)
  | 0x2B => dec2B (fieldOf 7 18 w) (fieldOf 7 11 w) (fieldOf 11 0 w)
  | 0x2F => dec2F (fieldOf 7 18 w) (fieldOf 7 11 w) (fieldOf 11 0 w)
  | 0x2C => dec2C (fieldOf 7 18 w) (fieldOf 7 11 w) (fieldOf 11 0 w)
  | 0x2D => dec2D (fieldOf 7 18 w) (fieldOf 7 11 w) (fieldOf 11 0 w)
  | 0x2E => dec2E (fieldOf 7 18 w) (fieldOf 7 11 w) (fieldOf 11 0 w)
  | 0x30 => dec30 (fieldOf 7 18 w) (fieldOf 18 0 w)
  | 0x31 => dec31 (fieldOf 7 18 w) (fieldOf 18 0 w)
  | 0x38 => dec38 (fieldOf 7 18 w) (fieldOf 7 11 w) (fieldOf 7 4 w) (w % 16)
  | 0x39 => dec39 (fieldOf 7 18 w) (fieldOf 7 11 w) (fieldOf 7 4 w) (w % 16)
  | 0x40 => dec40 (fieldOf 7 18 w) (fieldOf 7 11 w) (fieldOf 7 4 w) (fieldOf 1 3 w) (w % 8)
  | 0x41 => dec41 (fieldOf 7 18 w) (fieldOf 7 11 w) (fieldOf 7 4 w) (fieldOf 1 3 w) (fieldOf 3 0 w)
  | 0x42 => dec42 (fieldOf 7 18 w) (fieldOf 7 11 w) (fieldOf 7 4 w) (fieldOf 1 3 w) (w % 8)
  | 0x43 => dec43 (fieldOf 7 18 w) (fieldOf 7 11 w) (fieldOf 7 4 w) (fieldOf 1 3 w) (w % 8)
  | 0x44 => dec44 (fieldOf 7 18 w) (fieldOf 18 0 w)
  | 0x50 => dec50 (fieldOf 7 18 w) (fieldOf 7 11 w) (fieldOf 4 7 w) (fieldOf 3 4 w) (fieldOf 4 0 w)
  | 0x51 => dec51 (fieldOf 7 18 w) (fieldOf 7 11 w) (fieldOf 4 7 w) (fieldOf 3 4 w) (fieldOf 4 0 w)
  | 0x52 => dec52 (fieldOf 7 18 w) (fieldOf 7 11 w) (fieldOf 4 7 w) (fieldOf 3 4 w) (fieldOf 4 0 w)
  | 0x53 => dec53 (fieldOf 7 18 w) (fieldOf 7 11 w) (fieldOf 4 7 w) (fieldOf 3 4 w) (fieldOf 4 0 w)
  | 0x54 => dec54 (fieldOf 7 18 w) (fieldOf 7 11 w) (fieldOf 4 7 w) (fieldOf 3 4 w) (fieldOf 4 0 w)
  | 0x55 => dec55 (fieldOf 7 18 w) (fieldOf 18 0 w)
  | 0x56 => dec56 (fieldOf 7 18 w) (fieldOf 18 0 w)
  | 0x57 => dec57 (fieldOf 7 18 w) (fieldOf 7 11 w) (fieldOf 4 7 w) (fieldOf 3 4 w) (fieldOf 4 0 w)
  | 0x58 => dec58 (fieldOf 7 18 w) (fieldOf 7 11 w) (fieldOf 4 7 w) (fieldOf 3 4 w) (fieldOf 4 0 w)
  | 0x59 => dec59 (fieldOf 7 18 w) (fieldOf 7 11 w) (fieldOf 4 7 w) (fieldOf 3 4 w) (fieldOf 4 0 w)
  | 0x5A => dec5A (fieldOf 7 18 w) (fieldOf 7 11 w) (fieldOf 4 7 w) (fieldOf 3 4 w) (fieldOf 4 0 w)
  | 0x5B => dec5B (fieldOf 7 18 w) (fieldOf 7 11 w) (fieldOf 4 7 w) (fieldOf 3 4 w) (fieldOf 4 0 w)
  | 0x5C => dec5C (fieldOf 7 18 w) (fieldOf 7 11 w) (fieldOf 4 7 w) (fieldOf 3 4 w) (fieldOf 4 0 w)
  | 0x5D => dec5D (fieldOf 7 18 w) (fieldOf 7 11 w) (fieldOf 4 7 w) (fieldOf 3 4 w) (fieldOf 4 0 w)
  | 0x5E => dec5E (fieldOf 7 18 w) (fieldOf 18 0 w)
  | 0x5F => dec5F (fieldOf 7 18 w) (fieldOf 18 0 w)
  | 0x60 => dec60 (fieldOf 7 18 w) (fieldOf 7 11 w) (fieldOf 7 4 w) (fieldOf 4 0 w)
  | 0x61 => dec61 (fieldOf 7 18 w) (fieldOf 7 11 w) (fieldOf 7 4 w) (fieldOf 4 0 w)
  | 0x62 => dec62 (fieldOf 7 18 w) (fieldOf 7 11 w) (fieldOf 7 4 w) (fieldOf 4 0 w)
  | 0x63 => dec63 (fieldOf 7 18 w) (fieldOf 18 0 w)
  | 0x68 => dec68 (fieldOf 7 18 w) (fieldOf 7 11 w) (fieldOf 7 4 w) (w % 16)
  | 0x69 => dec69 (fieldOf 7 18 w) (fieldOf 7 11 w) (fieldOf 7 4 w) (w % 16)
  | 0x6A => dec6A (fieldOf 7 18 w) (fieldOf 18 0 w)
  | 0x6B => dec6B (fieldOf 7 18 w) (fieldOf 7 11 w) (fieldOf 4 7 w) (fieldOf 3 4 w) (fieldOf 4 0 w)
  | 0x6C => dec6C (fieldOf 7 18 w) (fieldOf 7 11 w) (fieldOf 4 7 w) (fieldOf 3 4 w) (fieldOf 4 0 w)
  | 0x6D => dec6D (fieldOf 7 18 w) (fieldOf 7 11 w) (fieldOf 4 7 w) (fieldOf 3 4 w) (fieldOf 4 0 w)
  | 0x6E => dec6E (fieldOf 7 18 w) (fieldOf 7 11 w) (fieldOf 7 4 w) (fieldOf 4 0 w)
  | 0x6F => dec6F (fieldOf 7 18 w) (fieldOf 7 11 w) (fieldOf 7 4 w) (fieldOf 4 0 w)
  | 0x70 => dec70 (fieldOf 7 18 w) (fieldOf 7 11 w) (fieldOf 7 4 w) (w % 16)
  | 0x71 => dec71 (fieldOf 7 18 w) (fieldOf 18 0 w)
  | 0x72 => dec72 (fieldOf 7 18 w) (fieldOf 18 0 w)
  | 0x73 => dec73 (fieldOf 7 18 w) (fieldOf 7 11 w) (fieldOf 7 4 w) (w % 16)
  | 0x74 => dec74 (fieldOf 7 18 w) (fieldOf 18 0 w)
  | 0x75 => dec75 (fieldOf 7 18 w) (fieldOf 18 0 w)
  | 0x76 => dec76 (fieldOf 7 18 w) (fieldOf 18 0 w)
  | 0x77 => dec77 (fieldOf 7 18 w) (fieldOf 18 0 w)
  | 0x7F => .ok (decHeader w)
  | _ => .error .unassignedMajor

/-- The instruction of a fetched word. -/
def decodeWord (w : Word) : Except Reject Instr := decodeNat w.toNat

/-- The decoder over bytes: the first four bytes are one little-endian word (R1). -/
def decode : List Byte → Except Reject (Instr × List Byte)
  | b0 :: b1 :: b2 :: b3 :: rest =>
    match decodeNat (b0.toNat + 256 * b1.toNat + 65536 * b2.toNat + 16777216 * b3.toNat) with
    | .ok i => .ok (i, rest)
    | .error e => .error e
  | _ => .error .truncated

/-- A table word of JTAB or SWITCH: case [31:16] and offset [15:0] (R273). -/
def tableWord (w : Word) : BitVec 16 × BitVec 16 := (w.extractLsb' 16 16, w.extractLsb' 0 16)

/-- The four bytes of a word, lowest address first (R1). -/
def wordBytes (w : Nat) : List Byte :=
  [BitVec.ofNat 8 w, BitVec.ofNat 8 (w / 256), BitVec.ofNat 8 (w / 65536), BitVec.ofNat 8 (w / 16777216)]

/-- The instruction that the decoder reads from an opcode-table row's bits: one 32-bit word, laid out little-endian. -/
def decodeTableWord (nbits w : Nat) : Option Instr :=
  match decode (wordBytes (w % 2 ^ nbits)) with
  | .ok (i, _) => some i
  | .error _ => none

/-! The encoder. The formats of R273, as numbers below 2^32. -/

/-- F3: major, Vd, Va, Vb, minor. -/
def f3 (maj d a b m : Nat) : Nat := maj * 2 ^ 25 + d * 2 ^ 18 + a * 2 ^ 11 + b * 2 ^ 4 + m
/-- FI: major, Vd, Va, imm11. -/
def fi (maj d a i : Nat) : Nat := maj * 2 ^ 25 + d * 2 ^ 18 + a * 2 ^ 11 + i
/-- FU: major, Vd, imm18. -/
def fu (maj d i : Nat) : Nat := maj * 2 ^ 25 + d * 2 ^ 18 + i
/-- FB: major, kind, offset. -/
def fb (maj k o : Nat) : Nat := maj * 2 ^ 25 + k * 2 ^ 22 + o
/-- FM: major, Vd, Va, H, size, minor. -/
def fm (maj d a h s m : Nat) : Nat := maj * 2 ^ 25 + d * 2 ^ 18 + a * 2 ^ 11 + h * 2 ^ 7 + s * 2 ^ 4 + m

/-- The word of an instruction, as a number; a device event has none. -/
def encodeNat : Instr → Option Nat
  | .clause w a b l y => some (0x7F * 2 ^ 25 + w.toNat * 2 ^ 13 + a.toNat * 2 ^ 9 + b.toNat * 2 ^ 5 + l.toNat * 2 + y.toNat)
  | .bra o => some (fb 1 0 o.toNat)
  | .braAny o => some (fb 1 1 o.toNat)
  | .braAll o => some (fb 1 2 o.toNat)
  | .call o => some (fb 2 0 o.toNat)
  | .brx a => some (f3 3 0 a.toNat 0 0)
  | .callx a => some (f3 3 0 a.toNat 0 1)
  | .ret a => some (f3 3 0 a.toNat 0 2)
  | .jtab a n => some (fi 4 0 a.toNat n.toNat)
  | .switch a n => some (fi 5 0 a.toNat n.toNat)
  | .join => some (f3 6 0 0 0 0)
  | .exit => some (f3 6 0 0 0 1)
  | .nop => some (f3 6 0 0 0 2)
  | .yield => some (f3 6 0 0 0 3)
  | .ensure c x => some (fu 0x10 c.toNat x.toNat)
  | .elseby n => some (fb 0x11 0 n.toNat)
  | .elseerr => some (fb 0x12 0 0)
  | .accept p => some (f3 0x13 0 p.toNat 0 0)
  | .reject => some (f3 0x13 0 0 0 1)
  | .convj a h => some (fm 0x14 0 a.toNat h.toNat 0 0)
  | .convl => some (f3 0x15 0 0 0 0)
  | .setm v => some (fu 0x18 0 v.toNat)
  | .setmRegister s => some (fu 0x18 s.toNat 0x10000)
  | .getm d => some (fu 0x19 d.toNat 0)
  | .trap c => some (fu 0x1A 0 c.toNat)
  | .bkpt t => some (fu 0x1B 0 t.toNat)
  | .eret => some (fu 0x1C 0 0)
  | .eretSkip => some (fu 0x1C 0 1)
  | .vadd d a b => some (f3 0x20 d.toNat a.toNat b.toNat 0)
  | .vsub d a b => some (f3 0x20 d.toNat a.toNat b.toNat 1)
  | .vmul d a b => some (f3 0x20 d.toNat a.toNat b.toNat 2)
  | .vmulh d a b => some (f3 0x20 d.toNat a.toNat b.toNat 3)
  | .vmad d a b => some (f3 0x20 d.toNat a.toNat b.toNat 4)
  | .vmin d a b => some (f3 0x20 d.toNat a.toNat b.toNat 5)
  | .vmax d a b => some (f3 0x20 d.toNat a.toNat b.toNat 6)
  | .vabs d a => some (f3 0x20 d.toNat a.toNat 0 7)
  | .vneg d a => some (f3 0x20 d.toNat a.toNat 0 8)
  | .vdot4 d a b => some (f3 0x20 d.toNat a.toNat b.toNat 9)
  | .vand d a b => some (f3 0x21 d.toNat a.toNat b.toNat 0)
  | .vor d a b => some (f3 0x21 d.toNat a.toNat b.toNat 1)
  | .vxor d a b => some (f3 0x21 d.toNat a.toNat b.toNat 2)
  | .vshl d a b => some (f3 0x21 d.toNat a.toNat b.toNat 3)
  | .vshr d a b => some (f3 0x21 d.toNat a.toNat b.toNat 4)
  | .vrol d a b => some (f3 0x21 d.toNat a.toNat b.toNat 5)
  | .vclz d a => some (f3 0x21 d.toNat a.toNat 0 6)
  | .vpopc d a => some (f3 0x21 d.toNat a.toNat 0 7)
  | .vbrev d a => some (f3 0x21 d.toNat a.toNat 0 8)
  | .vbfe d a b => some (f3 0x22 d.toNat a.toNat b.toNat 0)
  | .vbfi d a b => some (f3 0x22 d.toNat a.toNat b.toNat 1)
  | .vmov d a => some (f3 0x22 d.toNat a.toNat 0 2)
  | .vtag d a => some (f3 0x22 d.toNat a.toNat 0 3)
  | .vpack d a b => some (f3 0x22 d.toNat a.toNat b.toNat 4)
  | .vunpk d a => some (f3 0x22 d.toNat a.toNat 0 5)
  | .vcmp p a b c => some (f3 0x23 p.toNat a.toNat b.toNat c.toNat)
  | .vsel d a s p b => some (fi 0x24 d.toNat a.toNat (s.toNat * 2 ^ 10 + p.toNat * 2 ^ 7 + b.toNat))
  | .vaddi d a i => some (fi 0x28 d.toNat a.toNat i.toNat)
  | .vandi d a i => some (fi 0x29 d.toNat a.toNat i.toNat)
  | .vori d a i => some (fi 0x2A d.toNat a.toNat i.toNat)
  | .vxori d a i => some (fi 0x2B d.toNat a.toNat i.toNat)
  | .vaff d a i => some (fi 0x2F d.toNat a.toNat i.toNat)
  | .vshli d a k => some (fi 0x2C d.toNat a.toNat k.toNat)
  | .vshri d a k => some (fi 0x2D d.toNat a.toNat k.toNat)
  | .vcmpi c p a i => some (fi 0x2E (c.toNat * 2 ^ 3 + p.toNat) a.toNat i.toNat)
  | .vmovi d i => some (fu 0x30 d.toNat i.toNat)
  | .vlui d i => some (fu 0x31 d.toNat i.toNat)
  | .vbcast d a b => some (f3 0x38 d.toNat a.toNat b.toNat 0)
  | .vshfl d a b => some (f3 0x38 d.toNat a.toNat b.toNat 1)
  | .vshfx d a b => some (f3 0x38 d.toNat a.toNat b.toNat 2)
  | .vred d a o => some (f3 0x38 d.toNat a.toNat o.toNat 3)
  | .vscan d a x o => some (f3 0x38 d.toNat a.toNat (x.toNat * 2 ^ 4 + o.toNat) 4)
  | .pand d a b => some (f3 0x39 d.toNat a.toNat b.toNat 0)
  | .por d a b => some (f3 0x39 d.toNat a.toNat b.toNat 1)
  | .pxor d a b => some (f3 0x39 d.toNat a.toNat b.toNat 2)
  | .pnot d a => some (f3 0x39 d.toNat a.toNat 0 3)
  | .ballot d a => some (f3 0x39 d.toNat a.toNat 0 4)
  | .pmask d a => some (f3 0x39 d.toNat a.toNat 0 5)
  | .vfadd d a b t => some (f3 0x40 d.toNat a.toNat b.toNat (t.toNat * 2 ^ 3 + 0))
  | .vfsub d a b t => some (f3 0x40 d.toNat a.toNat b.toNat (t.toNat * 2 ^ 3 + 1))
  | .vfmul d a b t => some (f3 0x40 d.toNat a.toNat b.toNat (t.toNat * 2 ^ 3 + 2))
  | .vfma d a b t => some (f3 0x40 d.toNat a.toNat b.toNat (t.toNat * 2 ^ 3 + 3))
  | .vfmin d a b t => some (f3 0x40 d.toNat a.toNat b.toNat (t.toNat * 2 ^ 3 + 4))
  | .vfmax d a b t => some (f3 0x40 d.toNat a.toNat b.toNat (t.toNat * 2 ^ 3 + 5))
  | .vfdiv d a b t => some (f3 0x40 d.toNat a.toNat b.toNat (t.toNat * 2 ^ 3 + 6))
  | .vfcmp p a b c => some (f3 0x41 p.toNat a.toNat b.toNat c.toNat)
  | .vrcp d a t => some (f3 0x42 d.toNat a.toNat 0 (t.toNat * 2 ^ 3 + 0))
  | .vrsq d a t => some (f3 0x42 d.toNat a.toNat 0 (t.toNat * 2 ^ 3 + 1))
  | .vsqrt d a t => some (f3 0x42 d.toNat a.toNat 0 (t.toNat * 2 ^ 3 + 2))
  | .vexp2 d a t => some (f3 0x42 d.toNat a.toNat 0 (t.toNat * 2 ^ 3 + 3))
  | .vlog2 d a t => some (f3 0x42 d.toNat a.toNat 0 (t.toNat * 2 ^ 3 + 4))
  | .vsin d a t => some (f3 0x42 d.toNat a.toNat 0 (t.toNat * 2 ^ 3 + 5))
  | .vcos d a t => some (f3 0x42 d.toNat a.toNat 0 (t.toNat * 2 ^ 3 + 6))
  | .vfrnd d a t => some (f3 0x42 d.toNat a.toNat 0 (t.toNat * 2 ^ 3 + 7))
  | .vcvt d a y t => some (f3 0x43 d.toNat a.toNat y.toNat (t.toNat * 2 ^ 3 + 0))
  | .vcvtn d a f t => some (f3 0x43 d.toNat a.toNat f.toNat (t.toNat * 2 ^ 3 + 1))
  | .vamax d a n => some (f3 0x43 d.toNat a.toNat n.toNat 2)
  | .vscl d a f t => some (f3 0x43 d.toNat a.toNat f.toNat (t.toNat * 2 ^ 3 + 3))
  | .vrand d n => some (f3 0x43 d.toNat 0 n.toNat 4)
  | .vspr d n => some (fu 0x44 d.toNat n.toNat)
  | .ld d a h s x => some (fm 0x50 d.toNat a.toNat h.toNat s.toNat x.toNat)
  | .st d a h s => some (fm 0x51 d.toNat a.toNat h.toNat s.toNat 0)
  | .lda d a h s c => some (fm 0x52 d.toNat a.toNat h.toNat s.toNat c.toNat)
  | .strl d a h s c => some (fm 0x53 d.toNat a.toNat h.toNat s.toNat c.toNat)
  | .ldw d a h s t => some (fm 0x54 d.toNat a.toNat h.toNat s.toNat t.toNat)
  | .chk m o => some (fu 0x55 0 (m.toNat * 2 ^ 10 + o.toNat))
  | .fence p s k => some (fu 0x56 0 (p.toNat * 2 ^ 6 + s.toNat * 2 ^ 3 + k.toNat))
  | .atom d a h s n o => some (fm 0x57 d.toNat a.toNat h.toNat s.toNat (n.toNat * 2 ^ 3 + o.toNat))
  | .atomAcq d a h s n o => some (fm 0x58 d.toNat a.toNat h.toNat s.toNat (n.toNat * 2 ^ 3 + o.toNat))
  | .atomRel d a h s n o => some (fm 0x59 d.toNat a.toNat h.toNat s.toNat (n.toNat * 2 ^ 3 + o.toNat))
  | .atomAr d a h s n o => some (fm 0x5A d.toNat a.toNat h.toNat s.toNat (n.toNat * 2 ^ 3 + o.toNat))
  | .lr d a h s q c => some (fm 0x5B d.toNat a.toNat h.toNat s.toNat (q.toNat * 2 ^ 3 + c.toNat))
  | .sc d a h s q c => some (fm 0x5C d.toNat a.toNat h.toNat s.toNat (q.toNat * 2 ^ 3 + c.toNat))
  | .pref a h l => some (fm 0x5D 0 a.toNat h.toNat 0 l.toNat)
  | .hload x s => some (fu 0x5E 0 (x.toNat * 2 ^ 4 + s.toNat))
  | .cbinv => some (fu 0x5F 0 0)
  | .cpy d a b q => some (f3 0x60 d.toNat a.toNat b.toNat q.toNat)
  | .cpyb d a b q => some (f3 0x61 d.toNat a.toNat b.toNat q.toNat)
  | .cpyxG d a b q => some (f3 0x62 d.toNat a.toNat b.toNat q.toNat)
  | .cpyxS d a b q => some (f3 0x62 d.toNat a.toNat b.toNat (8 + q.toNat))
  | .qfence m => some (fu 0x63 0 m.toNat)
  | .mma f t a b => some (f3 0x68 (f.toNat * 2 ^ 4 + t.toNat) a.toNat b.toNat 0)
  | .mmack f t a b => some (f3 0x69 (f.toNat * 2 ^ 4 + t.toNat) a.toNat b.toNat 0)
  | .mzero m => some (fu 0x6A 0 m.toNat)
  | .mld t a h => some (fm 0x6B t.toNat a.toNat h.toNat 0 0)
  | .mst t a h => some (fm 0x6C t.toNat a.toNat h.toNat 0 0)
  | .mstn f t a h => some (fm 0x6D (f.toNat * 2 ^ 4 + t.toNat) a.toNat h.toNat 0 0)
  | .mckv d t b => some (f3 0x6E d.toNat t.toNat b.toNat 0)
  | .mckc t q => some (f3 0x6F t.toNat q.toNat 0 0)
  | .wbar => some (f3 0x70 0 0 0 0)
  | .gbar => some (f3 0x70 0 0 0 1)
  | .fpush d b => some (fu 0x71 d.toNat b.toNat)
  | .fpop d b => some (fu 0x71 d.toNat (2 ^ 17 + b.toNat))
  | .bankm d x m b => some (fu 0x72 d.toNat (x.toNat * 2 ^ 7 + m.toNat * 2 ^ 5 + b.toNat))
  | .evsigAdd a b => some (f3 0x73 0 a.toNat b.toNat 0)
  | .evsigSet a b => some (f3 0x73 0 a.toNat b.toNat 1)
  | .evsigClr a => some (f3 0x73 0 a.toNat 0 2)
  | .evqry d a => some (f3 0x73 d.toNat a.toNat 0 3)
  | .trace d c => some (fu 0x74 d.toNat c.toNat)
  | .tmark c => some (fu 0x74 0 (2 ^ 17 + c.toNat))
  | .sysr d n => some (fu 0x75 d.toNat n.toNat)
  | .sysw d n => some (fu 0x75 d.toNat (2 ^ 17 + n.toNat))
  | .waitf m => some (fu 0x76 0 m.toNat)
  | .halt => some (fu 0x77 0 0)
  | _ => none

/-- The word of an instruction (R273). -/
def encode (i : Instr) : Option Word := (encodeNat i).map (BitVec.ofNat 32)

end Sys2Proof
end

