-- ==== Sys2Proof/Machine/Crypto.lean ====
section
/-! DEFINITION. The standards that R82 and R85 name for a bundle's checks: SHA-2 (FIPS 180-4), RSASSA-PSS (RFC 8017) and
the verification of SLH-DSA-SHA2-192s (FIPS 205). Their text stands outside the spec (log entry 158). -/

namespace Sys2Proof.Machine

/-- n bytes of a byte string from offset o. -/
def slice (b : List Byte) (o n : Nat) : List Byte := (b.drop o).take n

/-- The value of bytes, and a value in n bytes, most significant first. -/
def ofBytesBE (b : List Byte) : Nat := b.foldl (fun a x => a * 256 + x.toNat) 0
def bytesBE (n v : Nat) : List Byte := (bytesLE n v).reverse

/-! ## SHA-2 -/

/-- The first 80 primes. -/
def primes : List Nat := (upto 410).filter (fun n => 2 ≤ n && (upto n).all (fun d => d < 2 || n % d ≠ 0))

/-- The largest x below 2 ^ bits with x ^ k at most v. -/
def rootOf (k v : Nat) : Nat → Nat → Nat
  | 0, x => x
  | bits + 1, x => rootOf k v bits (if (x + 2 ^ bits) ^ k ≤ v then x + 2 ^ bits else x)

/-- The first w bits of the fractional part of the k-th root of p. -/
def rootBits (w k p : Nat) : Nat := rootOf k (p * 2 ^ (k * w)) (w + 5) 0 % 2 ^ w

/-- One function of the family: the bits of a word, the rounds, the shifts of the four sigma functions (of the last two the
third is a plain shift), the first hash value and the bytes of the result. -/
structure Sha where
  w      : Nat
  rounds : Nat
  big0   : Nat × Nat × Nat
  big1   : Nat × Nat × Nat
  small0 : Nat × Nat × Nat
  small1 : Nat × Nat × Nat
  init   : List Nat
  out    : Nat

def sha256 : Sha :=
  { w := 32, rounds := 64, big0 := (2, 13, 22), big1 := (6, 11, 25), small0 := (7, 18, 3), small1 := (17, 19, 10)
    init := (primes.take 8).map (rootBits 32 2), out := 32 }

def sha512 : Sha :=
  { w := 64, rounds := 80, big0 := (28, 34, 39), big1 := (14, 18, 41), small0 := (1, 8, 7), small1 := (19, 61, 6)
    init := (primes.take 8).map (rootBits 64 2), out := 64 }

def sha384 : Sha := { sha512 with init := ((primes.drop 8).take 8).map (rootBits 64 2), out := 48 }

/-- A rotation right of a word, and the two kinds of sigma function. -/
def Sha.rotr (k : Sha) (n x : Nat) : Nat := x >>> n ||| x <<< (k.w - n) % 2 ^ k.w
def Sha.big (k : Sha) (r : Nat × Nat × Nat) (x : Nat) : Nat := k.rotr r.1 x ^^^ k.rotr r.2.1 x ^^^ k.rotr r.2.2 x
def Sha.small (k : Sha) (r : Nat × Nat × Nat) (x : Nat) : Nat := k.rotr r.1 x ^^^ k.rotr r.2.1 x ^^^ x >>> r.2.2

/-- One round with constant c: win holds this round's message word and the fifteen after it, h the working variables. -/
def Sha.round (k : Sha) (win h : List Nat) (c : Nat) : List Nat × List Nat :=
  let v := fun i => h.getD i 0
  let m := fun i => win.getD i 0
  let ch := (v 4 &&& v 5) ^^^ ((2 ^ k.w - 1 - v 4) &&& v 6)
  let maj := (v 0 &&& v 1) ^^^ (v 0 &&& v 2) ^^^ (v 1 &&& v 2)
  let t1 := v 7 + k.big k.big1 (v 4) + ch + c + m 0
  let t2 := k.big k.big0 (v 0) + maj
  let next := (k.small k.small1 (m 14) + m 9 + k.small k.small0 (m 1) + m 0) % 2 ^ k.w
  (win.drop 1 ++ [next], [(t1 + t2) % 2 ^ k.w, v 0, v 1, v 2, (v 3 + t1) % 2 ^ k.w, v 4, v 5, v 6])

/-- The hash value after a block of sixteen words. -/
def Sha.compress (k : Sha) (h : List Nat) (block : List Byte) : List Nat :=
  let win := (upto 16).map (fun i => ofBytesBE (slice block (i * (k.w / 8)) (k.w / 8)))
  let r := ((primes.take k.rounds).map (rootBits k.w 3)).foldl (fun a c => k.round a.1 a.2 c) (win, h)
  (h.zip r.2).map (fun x => (x.1 + x.2) % 2 ^ k.w)

/-- The padded message: a one bit, zeros, and the length in bits in two words. -/
def Sha.pad (k : Sha) (m : List Byte) : List Byte :=
  let b := 2 * k.w
  let tail := m.length + 1 + k.w / 4
  m ++ [0x80#8] ++ bytesBE ((b - tail % b) % b) 0 ++ bytesBE (k.w / 4) (8 * m.length)

/-- The hash of a message. -/
def Sha.hash (k : Sha) (m : List Byte) : List Byte :=
  let p := k.pad m
  ((((upto (p.length / (2 * k.w))).foldl (fun h i => k.compress h (slice p (i * (2 * k.w)) (2 * k.w))) k.init).flatMap
    (bytesBE (k.w / 8))).take k.out)

/-- MGF1 with a hash: the first n bytes of the mask of a seed. -/
def Sha.mgf1 (k : Sha) (seed : List Byte) (n : Nat) : List Byte :=
  ((upto ((n + k.out - 1) / k.out)).flatMap (fun i => k.hash (seed ++ bytesBE 4 i))).take n

/-! ## RSASSA-PSS -/

/-- b ^ e mod n, by the low bits of e. -/
def powMod (n : Nat) : Nat → Nat → Nat → Nat
  | 0, _, _ => 1 % n
  | bits + 1, b, e => (powMod n bits (b * b % n) (e / 2) * if e % 2 = 1 then b else 1) % n

/-- EMSA-PSS-VERIFY with SHA-384, MGF1 with SHA-384 and a 48-byte salt, of an encoded message of the given bits. -/
def pssOk (msg em : List Byte) (bits : Nat) : Bool :=
  let n := (bits + 7) / 8
  let db := n - 49
  let h := slice em db 48
  let unused := 8 * n - bits
  let masked := ofBytesBE (slice em 0 db)
  let plain := bytesBE db ((masked ^^^ ofBytesBE (sha384.mgf1 h db)) % 2 ^ (8 * db - unused))
  98 ≤ n && em.length == n && slice em (n - 1) 1 == [0xBC#8] && masked < 2 ^ (8 * db - unused) &&
    slice plain 0 (db - 48) == bytesBE (db - 48) 1 &&
    sha384.hash (bytesBE 8 0 ++ sha384.hash msg ++ slice plain (db - 48) 48) == h

/-- RSASSA-PSS-VERIFY (R85): modulus and exponent most significant byte first. -/
def rsaVerify (modulus exponent msg sig : List Byte) : Bool :=
  let n := ofBytesBE modulus
  let bits := n.log2 + 1
  let x := ofBytesBE sig
  let m := powMod n (8 * exponent.length) x (ofBytesBE exponent)
  n ≠ 0 && sig.length == (bits + 7) / 8 && x < n && m < 2 ^ (8 * ((bits + 6) / 8)) &&
    pssOk msg (bytesBE ((bits + 6) / 8) m) (bits - 1)

/-! ## SLH-DSA-SHA2-192s: n 24, h 63, d 7, h' 9, a 14, k 17, lg w 4 -/

/-- An address in its compressed form of 22 bytes: layer, tree, type and three words. -/
def adrs (layer tree kind : Nat) (x y z : Nat) : List Byte :=
  bytesBE 1 layer ++ bytesBE 8 tree ++ bytesBE 1 kind ++ bytesBE 4 x ++ bytesBE 4 y ++ bytesBE 4 z

/-- F, and H with the functions T: hashes of an address and a message to 24 bytes. -/
def slhF (seed adr m : List Byte) : List Byte := (sha256.hash (seed ++ bytesBE 40 0 ++ adr ++ m)).take 24
def slhT (seed adr m : List Byte) : List Byte := (sha512.hash (seed ++ bytesBE 104 0 ++ adr ++ m)).take 24

/-- Value i of a byte string read as values of b bits, most significant first. -/
def digit (b : Nat) (x : List Byte) (i : Nat) : Nat := ofBytesBE x >>> (8 * x.length - b * (i + 1)) % 2 ^ b

/-- The root over a node at place idx, by the nodes beside its path; adr gives the address of a node by height and place. -/
def climb (seed : List Byte) (adr : Nat → Nat → List Byte) (idx : Nat) (auth : List Byte) (n : Nat) (leaf : List Byte) :
    List Byte :=
  (upto n).foldl (fun node j =>
    let beside := slice auth (24 * j) 24
    let pair := if idx >>> j % 2 = 0 then node ++ beside else beside ++ node
    slhT seed (adr (j + 1) (idx >>> (j + 1))) pair) leaf

/-- The FORS public key that a signature gives. -/
def forsRoot (seed : List Byte) (tree leaf : Nat) (md sig : List Byte) : List Byte :=
  slhT seed (adrs 0 tree 4 leaf 0 0) ((upto 17).flatMap (fun i =>
    let at_ := i * 2 ^ 14 + digit 14 md i
    let part := slice sig (i * 360) 360
    climb seed (adrs 0 tree 3 leaf) at_ (part.drop 24) 14 (slhF seed (adrs 0 tree 3 leaf 0 at_) (part.take 24))))

/-- The 51 base-16 values that a WOTS signature of a 24-byte message covers. -/
def wotsDigits (m : List Byte) : List Nat :=
  let d := (upto 48).map (digit 4 m)
  let sum := d.foldl (fun a x => a + (15 - x)) 0
  d ++ (upto 3).map (digit 4 (bytesBE 2 (sum * 16)))

/-- The WOTS public key that a signature of a message gives. -/
def wotsKey (seed : List Byte) (layer tree leaf : Nat) (sig m : List Byte) : List Byte :=
  let d := wotsDigits m
  slhT seed (adrs layer tree 1 leaf 0 0) ((upto 51).flatMap (fun i =>
    let from_ := d.getD i 0
    (upto (15 - from_)).foldl (fun x j => slhF seed (adrs layer tree 0 leaf i (from_ + j)) x) (slice sig (24 * i) 24)))

/-- The root of the XMSS tree at a layer that a signature of a message gives. -/
def xmssRoot (seed : List Byte) (layer tree leaf : Nat) (sig m : List Byte) : List Byte :=
  climb seed (adrs layer tree 2 0) leaf (sig.drop 1224) 9 (wotsKey seed layer tree leaf sig m)

/-- The verification of a pure signature with an empty context (R85): public key, message, signature. -/
def slhVerify (pk msg sig : List Byte) : Bool :=
  let (seed, root) := (pk.take 24, slice pk 24 24)
  let r := sig.take 24
  let inner := sha512.hash (r ++ pk ++ bytesBE 2 0 ++ msg)
  let dig := sha512.mgf1 (r ++ seed ++ inner) 39
  let tree := ofBytesBE (slice dig 30 7) % 2 ^ 54
  let leaf := ofBytesBE (slice dig 37 2) % 2 ^ 9
  let fors := forsRoot seed tree leaf (dig.take 30) (slice sig 24 6120)
  let top := (upto 7).foldl (fun m j =>
    xmssRoot seed j (tree >>> (9 * j)) ((tree * 2 ^ 9 + leaf) >>> (9 * j) % 2 ^ 9) (slice sig (6144 + 1440 * j) 1440) m) fors
  pk.length == 48 && sig.length == 16224 && top == root

end Sys2Proof.Machine
end

