-- ==== Sys2Proof/Machine/Float.lean ====
section
/-! DEFINITION. Floating-point arithmetic, special functions, conversions and random words (R354 to R360). -/

namespace Sys2Proof.Machine

/-! ## Element-wise results -/

/-- TYPE is a float type (R354). -/
def Ctx.fltMode (c : Ctx) : Bool := fltTy c.g.m

/-- Poison of source registers in lane l. -/
def Ctx.poisOf (c : Ctx) (rs : List Nat) (l : Nat) : Option PTag := tagMinL (rs.map (fun r => (c.g.lane r l).p))

/-- One float operation on the elements of the source words xs of lane l (R354): values of element i of each source give
the exact result; elements are read and delivered under FTZ and rounded with RND. -/
def Ctx.fltLane (c : Ctx) (rs : List (BitVec 7)) (draws : Nat) (f : List FNum → NumOp) (l : Nat) : LaneRes :=
  let m := c.g.m
  let t := tyOf m
  let fm := tyFmt t
  let out := (upto (tyCount t)).map (fun i =>
    let xs := rs.map (fun r => fm.read (ftzOf m) (elem (tyWidth t) (c.src r l).w i))
    let (x, inv) := f xs
    fm.out (rndOf m) (if draws = 0 then 0 else c.sr l i) (ftzOf m) inv x)
  { vals := [{ w := mkWord (tyWidth t) (out.map (·.bits)), p := c.poisOf (rs.map (·.toNat)) l }]
    ev := out.any (·.ev) }

/-- Words that a rounding instruction draws per lane (R354): one per element under SR. -/
def Ctx.srCount (c : Ctx) : Nat := if rndOf c.g.m = 5 then tyCount (tyOf c.g.m) else 0

/-- The tag of an element-wise result: U needs sources all U and no stochastic word (R344). -/
def Ctx.tagE (c : Ctx) (rs : List Nat) (draws : Nat) : Tag := if draws = 0 then tagU (rs.map (fun r => (c.g.reg r).tag)) else .G

/-- A float instruction that writes at once: E words are drawn when it rounds. -/
def State.fltOp (s : State) (c : Ctx) (d : BitVec 7) (rs : List (BitVec 7)) (te : BitVec 1) (rounds : Bool)
    (f : List FNum → NumOp) : State :=
  let e := if rounds then c.srCount else 0
  s.putRes c d 1 (fun _ => c.tagE (rs.map (·.toNat)) e) te e (c.results (c.fltLane rs e f))

/-- The binary operation of a list of two values. -/
def num2 (f : FNum → FNum → NumOp) : List FNum → NumOp
  | [x, y] => f x y
  | _ => (.nan, false)

/-- The ternary operation of a list of three values. -/
def num3 (f : FNum → FNum → FNum → NumOp) : List FNum → NumOp
  | [x, y, z] => f x y z
  | _ => (.nan, false)

/-- The operation of one value. -/
def num1 (f : FNum → NumOp) : List FNum → NumOp
  | [x] => f x
  | _ => (.nan, false)

/-- VFADD (R354). -/
def execVfadd (d a b : BitVec 7) (t : BitVec 1) (s : State) : Host.Outcome State Fault Refusal :=
  s.issue (.vfadd d a b t) Ctx.fltMode fun c => s.fltOp c d [a, b] t true (num2 (numAdd (rndOf c.g.m)))

/-- VFSUB (R354). -/
def execVfsub (d a b : BitVec 7) (t : BitVec 1) (s : State) : Host.Outcome State Fault Refusal :=
  s.issue (.vfsub d a b t) Ctx.fltMode fun c =>
    s.fltOp c d [a, b] t true (num2 (fun x y => numAdd (rndOf c.g.m) x y.neg))

/-- VFMUL (R354). -/
def execVfmul (d a b : BitVec 7) (t : BitVec 1) (s : State) : Host.Outcome State Fault Refusal :=
  s.issue (.vfmul d a b t) Ctx.fltMode fun c => s.fltOp c d [a, b] t true (num2 numMul)

/-- VFMA (R354): a × b + d, rounded once. -/
def execVfma (d a b : BitVec 7) (t : BitVec 1) (s : State) : Host.Outcome State Fault Refusal :=
  s.issue (.vfma d a b t) Ctx.fltMode fun c => s.fltOp c d [a, b, d] t true (num3 (numFma (rndOf c.g.m)))

/-- VFMIN (R354): no rounding, so no words are drawn. -/
def execVfmin (d a b : BitVec 7) (t : BitVec 1) (s : State) : Host.Outcome State Fault Refusal :=
  s.issue (.vfmin d a b t) Ctx.fltMode fun c => s.fltOp c d [a, b] t false (num2 (fun x y => (numMin x y, false)))

/-- VFMAX (R354). -/
def execVfmax (d a b : BitVec 7) (t : BitVec 1) (s : State) : Host.Outcome State Fault Refusal :=
  s.issue (.vfmax d a b t) Ctx.fltMode fun c => s.fltOp c d [a, b] t false (num2 (fun x y => (numMax x y, false)))

/-- An element rounded to an integral value by the word u: the result is exact in the format. -/
def Ctx.rintLane (c : Ctx) (a : BitVec 7) (draws l : Nat) : LaneRes :=
  let m := c.g.m
  let t := tyOf m
  let fm := tyFmt t
  let out := (upto (tyCount t)).map (fun i =>
    let x := fm.read (ftzOf m) (elem (tyWidth t) (c.src a l).w i)
    fm.out 0 0 (ftzOf m) false (numRint (rndOf m) (if draws = 0 then 0 else c.sr l i) x))
  { vals := [{ w := mkWord (tyWidth t) (out.map (·.bits)), p := (c.src a l).p }], ev := out.any (·.ev) }

/-- VFRND (R354). -/
def execVfrnd (d a : BitVec 7) (t : BitVec 1) (s : State) : Host.Outcome State Fault Refusal :=
  s.issue (.vfrnd d a t) Ctx.fltMode fun c =>
    s.putRes c d 1 (fun _ => c.tagE [a.toNat] c.srCount) t c.srCount (c.results (c.rintLane a c.srCount))

/-- TYPE is F32 (R355). -/
def Ctx.f32Mode (c : Ctx) : Bool := tyOf c.g.m == 6

/-- VFCMP (R355). -/
def execVfcmp (p : BitVec 3) (a b : BitVec 7) (k : BitVec 3) (s : State) : Host.Outcome State Fault Refusal :=
  s.issue (.vfcmp p a b k) Ctx.f32Mode fun c =>
    s.predOut c p (c.poisonUse [a, b]) (fun l =>
      fltCond k.toNat (f32.read (ftzOf c.g.m) (c.src a l).w.toNat) (f32.read (ftzOf c.g.m) (c.src b l).w.toNat))

/-! ## Long-latency results: division, roots and the special functions (R270, R354, R356) -/

/-- A pending operation of the group, with nothing filled in but its destination and lanes. -/
def Ctx.pend (c : Ctx) (op : PendOp) (d n : Nat) (lanes : Lanes) (tag : Tag) (acc : List Access) (flag : Nat) : Pend :=
  { id := 0, pc := c.sp.pc, op := op, dst := d, nreg := n, lanes := lanes, tag := tag, acc := acc, flag := flag,
    gen := c.wg.gen, acq := false, scope := 0, held := false, cut := [], tile := none, evno := 0, hash := 0, rep := none, dhash := 0
    drop := false }

/-- Issues a long-latency operation for its lanes (R270): it is counted on its flag and waits to be performed; with no
lane left nothing is issued. Lanes with a code fault. -/
def State.startPend (s : State) (c : Ctx) (p : Pend) (code : Nat → Option Nat) : State :=
  if p.lanes = 0#32 then s.endInstr c code
  else
    let (id, s) := s.takeId
    let dh := if p.op.writes then (p.acc.head?.map (fun a => ahash a.addr)).getD 0 else 0
    let s := s.updGroup c.gk (fun g => ({ g with pend := g.pend ++ [{ p with id := id, dhash := dh }] } : Group).flagInc p.flag)
    s.endInstr c code

/-- Issues a computed class A result: it is written to d when it returns (R270); a full flag makes it wait. -/
def State.longRes (s : State) (c : Ctx) (d : BitVec 7) (t : Tag) (te : BitVec 1) (e : Nat) (rs : Map LaneRes) : State :=
  if c.g.flagFull c.sp.setA then s.stallBy c 2
  else
    let code := trapped rs te
    let good := c.act &&& ~~~ codeMask code
    let p := c.pend (.value (allLanes.map (resWord rs 0)) 6) d.toNat 1 good t [] c.sp.setA
    (s.drew c.gk good e).startPend c p code

/-- VFDIV (R354). -/
def execVfdiv (d a b : BitVec 7) (t : BitVec 1) (s : State) : Host.Outcome State Fault Refusal :=
  s.issue (.vfdiv d a b t) Ctx.fltMode fun c =>
    s.longRes c d (c.tagE [a.toNat, b.toNat] c.srCount) t c.srCount (c.results (c.fltLane [a, b] c.srCount (num2 numDiv)))

/-- VSQRT (R354). -/
def execVsqrt (d a : BitVec 7) (t : BitVec 1) (s : State) : Host.Outcome State Fault Refusal :=
  s.issue (.vsqrt d a t) Ctx.fltMode fun c =>
    s.longRes c d (c.tagE [a.toNat] c.srCount) t c.srCount (c.results (c.fltLane [a] c.srCount (num1 numSqrt)))

/-- The result of a special function on one element (R356): the F32 result, rounded once more to a packed format; exactly
zero results of VSIN and VCOS are +0 already. -/
def sfuElem (fm : Fmt) (ftz : Bool) (f : FNum → NumOp) (x : Nat) : Res :=
  let (v, inv) := f (fm.read ftz x)
  let r := f32.out 0 0 ftz inv v
  if fm = f32 then r
  else
    let q := fm.out 0 0 ftz false (f32.dec r.bits)
    { bits := q.bits, ev := r.ev || q.ev }

/-- A special function of a lane. -/
def Ctx.sfuLane (c : Ctx) (a : BitVec 7) (f : FNum → NumOp) (l : Nat) : LaneRes :=
  let t := tyOf c.g.m
  let out := (upto (tyCount t)).map (fun i => sfuElem (tyFmt t) (ftzOf c.g.m) f (elem (tyWidth t) (c.src a l).w i))
  { vals := [{ w := mkWord (tyWidth t) (out.map (·.bits)), p := (c.src a l).p }], ev := out.any (·.ev) }

/-- A special-function instruction. -/
def State.sfu (s : State) (c : Ctx) (d a : BitVec 7) (t : BitVec 1) (f : FNum → NumOp) : State :=
  s.longRes c d (tagU [c.tag a]) t 0 (c.results (c.sfuLane a f))

/-- VRCP (R356). -/
def execVrcp (d a : BitVec 7) (t : BitVec 1) (s : State) : Host.Outcome State Fault Refusal :=
  s.issue (.vrcp d a t) Ctx.fltMode fun c => s.sfu c d a t numRcp

/-- VRSQ (R356). -/
def execVrsq (d a : BitVec 7) (t : BitVec 1) (s : State) : Host.Outcome State Fault Refusal :=
  s.issue (.vrsq d a t) Ctx.fltMode fun c => s.sfu c d a t numRsq

/-- VEXP2 (R356). -/
def execVexp2 (d a : BitVec 7) (t : BitVec 1) (s : State) : Host.Outcome State Fault Refusal :=
  s.issue (.vexp2 d a t) Ctx.fltMode fun c => s.sfu c d a t numExp2

/-- VLOG2 (R356). -/
def execVlog2 (d a : BitVec 7) (t : BitVec 1) (s : State) : Host.Outcome State Fault Refusal :=
  s.issue (.vlog2 d a t) Ctx.fltMode fun c => s.sfu c d a t numLog2

/-- VSIN (R356). -/
def execVsin (d a : BitVec 7) (t : BitVec 1) (s : State) : Host.Outcome State Fault Refusal :=
  s.issue (.vsin d a t) Ctx.fltMode fun c => s.sfu c d a t (numTrig false)

/-- VCOS (R356). -/
def execVcos (d a : BitVec 7) (t : BitVec 1) (s : State) : Host.Outcome State Fault Refusal :=
  s.issue (.vcos d a t) Ctx.fltMode fun c => s.sfu c d a t (numTrig true)

/-! ## Conversions (R357) -/

/-- One element of type code k converted from TYPE st to TYPE dt: its code, and whether it has an event. -/
def cvtElem (m : BitVec 16) (dt u x : Nat) : Res :=
  let st := tyOf m
  let ints := fun (v : Int) =>
    let k := clampInt (intLo (tySigned dt) (tyWidth dt)) (intHi (tySigned dt) (tyWidth dt)) v
    ({ bits := wrapInt (tyWidth dt) k, ev := k != v } : Res)
  if st ≤ 5 then
    let v := if tySigned st then sextInt (tyWidth st) x else (x : Int)
    if dt ≤ 5 then ints v else convOut (tyFmt dt) (rndOf m) u (ftzOf m) (satOf m) (ofInt v)
  else
    let v := (tyFmt st).read (ftzOf m) x
    if dt ≤ 5 then
      let (k, ev) := toInt (tySigned dt) (tyWidth dt) (rndOf m) u v
      { bits := wrapInt (tyWidth dt) k, ev := ev }
    else convOut (tyFmt dt) (rndOf m) u (ftzOf m) (satOf m) v

/-- The results of VCVT in lane l: entry e of the source becomes entry e of the target. -/
def Ctx.cvtLane (c : Ctx) (a : BitVec 7) (dt draws l : Nat) : LaneRes :=
  let st := tyOf c.g.m
  let ns := tyCount st
  let nd := tyCount dt
  let out := (upto (max ns nd)).map (fun e =>
    cvtElem c.g.m dt (if draws = 0 then 0 else c.sr l e) (elem (tyWidth st) (c.g.lane (a.toNat + e / ns) l).w (e % ns)))
  let p := c.poisOf ((upto (cvtSrc st dt)).map (a.toNat + ·)) l
  { vals := (upto (cvtDst st dt)).map (fun j =>
      { w := mkWord (tyWidth dt) (((out.drop (j * nd)).take nd).map (·.bits)), p := p })
    ev := out.any (·.ev) }

/-- VCVT (R357): its register groups are aligned for the pair of types. -/
def execVcvt (d a : BitVec 7) (y : BitVec 4) (t : BitVec 1) (s : State) : Host.Outcome State Fault Refusal :=
  s.issue (.vcvt d a y t)
    (fun c => aligned (cvtSrc (tyOf c.g.m) y.toNat) a && aligned (cvtDst (tyOf c.g.m) y.toNat) d) fun c =>
    let st := tyOf c.g.m
    let dt := y.toNat
    let e := if rndOf c.g.m = 5 && !(st ≤ 5 && dt ≤ 5) then max (tyCount st) (tyCount dt) else 0
    let tag := c.tagE ((upto (cvtSrc st dt)).map (a.toNat + ·)) e
    s.putRes c d (cvtDst st dt) (fun _ => tag) t e (c.results (c.cvtLane a dt e))

/-! ## Quantisation (R358, R359) -/

/-- Fields of a format slot (R90). -/
def slotFA (v : BitVec 64) : Nat := b64 v 4 0
def slotFB (v : BitVec 64) : Nat := b64 v 9 5
def slotFC (v : BitVec 64) : Nat := b64 v 12 10
def slotK (v : BitVec 64) : Nat := 16 * 2 ^ b64 v 15 13
def slotAM (v : BitVec 64) : Nat := b64 v 17 16
def slotSCL (v : BitVec 64) : Bool := v.getLsbD 18
def slotSA (v : BitVec 64) : Nat := b64 v 25 19
def slotSB (v : BitVec 64) : Nat := b64 v 32 26
def slotNZ (v : BitVec 64) : Nat := b64 v 39 33
def slotOR (v : BitVec 64) : Nat := b64 v 42 40
def slotOSAT (v : BitVec 64) : Bool := v.getLsbD 43

/-- Format slot f of the launch; a slot of zeros is unused (R90). -/
def Ctx.slot (c : Ctx) (f : BitVec 3) : BitVec 64 := c.l.slots.getD f.toNat 0#64

/-- TYPE is F32, F16, BF16 or E4M3 (R358). -/
def Ctx.amaxMode (c : Ctx) : Bool := 6 ≤ tyOf c.g.m && tyOf c.g.m ≤ 9

/-- VAMAX (R358). -/
def execVamax (d a : BitVec 7) (n : BitVec 2) (s : State) : Host.Outcome State Fault Refusal :=
  s.issue (.vamax d a n) Ctx.amaxMode fun c =>
    let t := tyOf c.g.m
    let regs := (upto (countRegs n)).map (a.toNat + ·)
    let xs := (lanesOf c.act).flatMap (fun l => regs.flatMap (fun r =>
      (upto (tyCount t)).map (fun i =>
        ((tyFmt t).read (ftzOf c.g.m) (elem (tyWidth t) (c.g.lane r l).w i)).abs)))
    let v := xs.foldl numMax (.fin false 0 1)
    let p := tagMinL ((lanesOf c.act).map (c.poisOf regs))
    s.put c d .U (fun _ => { w := BitVec.ofNat 32 (f32.out 0 0 false false v).bits, p := p })

/-- q of VSCL for a format code (R358); none for a format it refuses. -/
def sclQ (fa : Nat) : Option Nat :=
  if fa = 1 then some 1
  else if 2 ≤ fa ∧ fa ≤ 8 then some (2 ^ (fa - 1) - 1)
  else if fa = 9 then some 255
  else if fa = 10 then some 448
  else none

/-- The result of VSCL for the F32 code x (R358). -/
def sclElem (q : Nat) (ftz sat : Bool) (x : Nat) : Res :=
  match (f32.read ftz x).abs with
  | .nan => { bits := f32.nan, ev := false }
  | .inf _ => if sat then { bits := f32.max false, ev := true } else { bits := f32.infinity false, ev := false }
  | .fin _ p d =>
    if p = 0 then { bits := 0x3F800000, ev := false }
    else { bits := f32.flush ftz (f32.round 2 0 false p (d * q)).bits, ev := false }

/-- VSCL (R358). -/
def execVscl (d a : BitVec 7) (f : BitVec 3) (t : BitVec 1) (s : State) : Host.Outcome State Fault Refusal :=
  s.issue (.vscl d a f t) (fun c => (sclQ (slotFA (c.slot f))).isSome) fun c =>
    let q := (sclQ (slotFA (c.slot f))).getD 1
    s.putRes c d 1 (fun _ => tagU [c.tag a]) t 0 (c.results (fun l =>
      let r := sclElem q (ftzOf c.g.m) (satOf c.g.m) (c.src a l).w.toNat
      { vals := [{ w := BitVec.ofNat 32 r.bits, p := (c.src a l).p }], ev := r.ev }))

/-- The codes of the four elements of lane l of VCVTN (R304, R359). -/
def Ctx.cvtnLane (c : Ctx) (a : BitVec 7) (slot : BitVec 64) (sc : FNum) (draws l : Nat) : List Quant :=
  (upto 4).map (fun j =>
    quantise (slotFA slot) (slotOR slot) (if draws = 0 then 0 else c.sr l j) sc
      (f32.dec (c.g.lane (a.toNat + j) l).w.toNat))

/-- The code word of four codes of width n. -/
def codeWord (n : Nat) (q : List Quant) : Word := mkWord n (q.map (fun x => wrapInt n x.code))

/-- The status word of a block (R359). -/
def statusWord (q : List Quant) : Word :=
  let (ns, nf, az, as_) := blockFlags q
  BitVec.ofNat 32 (ns + nf * 2 ^ 8 + b2n az * 2 ^ 16 + b2n as_ * 2 ^ 17)

/-- VCVTN (R359): Vd+1 is tagged U, the slot's FA is a quantised format. -/
def execVcvtn (d a : BitVec 7) (f : BitVec 3) (t : BitVec 1) (s : State) : Host.Outcome State Fault Refusal :=
  s.issue (.vcvtn d a f t)
    (fun c => 1 ≤ slotFA (c.slot f) && slotFA (c.slot f) ≤ 9 && (c.g.reg (d.toNat + 1)).tag == .U) fun c =>
    let slot := c.slot f
    let scale := c.g.lane (d.toNat + 1) (c.opLane.getD 0)
    let e := if slotOR slot = 5 && slotFA slot ≠ 1 then 4 else 0
    let pois := fun l => tagMin scale.p (c.poisOf ((upto 4).map (a.toNat + ·)) l)
    let qs := (lanesOf c.act).map (fun l => (l, c.cvtnLane a slot (f32.dec scale.w.toNat) e l))
    let status := statusWord ((qs.filter (fun x => (pois x.1).isNone)).flatMap (·.2))
    let rs := qs.map (fun x =>
      (x.1, { vals := [{ w := codeWord (fmtWidth (slotFA slot)) x.2, p := pois x.1 }, clean status],
              ev := (pois x.1).isNone && x.2.any (·.sat) }))
    s.putRes c d 2 (fun j => if j = 0 then .G else .U) t e rs

/-! ## Random words (R360) -/

/-- VRAND (R360): one block per lane. -/
def execVrand (d : BitVec 7) (n : BitVec 2) (s : State) : Host.Outcome State Fault Refusal :=
  s.issue (.vrand d n) anyMode fun c =>
    let s' := s.writeVs c d.toNat (countRegs n) c.act .G (fun j l => clean (BitVec.ofNat 32 (c.sr l j)))
    (s'.drew c.gk c.act 4).advance c

end Sys2Proof.Machine
end

