-- ==== Sys2Proof/Machine/Memory.lean ====
section
/-! DEFINITION. Loads, stores, atomics, watched loads, fences, reservations, handles and cache control (R363 to R375), and
the events that perform them (R160, R270, R363). -/

namespace Sys2Proof.Machine

/-! ## Addresses of an instruction -/

/-- What became of each guard-true active lane's access: a fault, or its parts. -/
abbrev Forms := List (Nat × Sum Nat (List Access))

/-- Forms and checks the accesses of every guard-true active lane, in lane order (R363). -/
def State.formAll (s : State) (c : Ctx) (h : BitVec 4) (a : BitVec 7) (n : Nat) (k : AccKind) : Forms × State :=
  (lanesOf c.act).foldl (fun acc l =>
    let (r, s) := acc.2.formAccess c h.toNat a.toNat n k l
    (acc.1 ++ [(l, r)], s)) ([], s)

/-- The faults of the forms, by lane. -/
def Forms.code (fs : Forms) : Nat → Option Nat :=
  fun l => fs.findSome? (fun e => match e.2 with
    | .inl k => if e.1 = l then some k else none
    | .inr _ => none)

/-- The lanes that did not fault. -/
def Forms.good (fs : Forms) : Lanes := maskOf (fun l => fs.any (fun e => e.1 == l && e.2.isRight))

/-- The parts of the lanes that did not fault, in lane order. -/
def Forms.parts (fs : Forms) : List Access := fs.flatMap (fun e => match e.2 with
  | .inr ps => ps
  | .inl _ => [])

/-- The address of lane l as R143 forms it, checked or not. -/
def Ctx.rawAddr (c : Ctx) (h a l : Nat) : Nat :=
  if h = 0 then (c.g.pair a l).1
  else match mget? c.wg.handles h with
    | some hd => hd.path * 2 ^ 60 + (hd.base + (c.g.lane a l).w.toNat) % 2 ^ 60
    | none => 0

/-- The address hash of an instruction: that of its lowest active lane (R258). -/
def Ctx.addrHash (c : Ctx) (h : BitVec 4) (a : BitVec 7) : Nat := ahash (c.rawAddr h.toNat a.toNat (c.opLane.getD 0))

/-- The byte of the own scratchpad that lane l's access begins at, when it reaches it (paths 0x3, 0x4 and halos). -/
def Ctx.ownOff (c : Ctx) (h a l : Nat) : Option Nat :=
  let addr := c.rawAddr h a l
  let lo := addr % 2 ^ 60
  match addr / 2 ^ 60 with
  | 3 => some lo
  | 4 => if lo / 0x400000 = c.wg.k then some (lo % 0x400000) else none
  | 7 => match mget? c.wg.handles h with
    | some hd => match hd.halo.at c.gg.w c.gg.h c.wg.k (c.g.lane a l).w.toNat with
      | .rep p => some (hd.halo.hoff + p)
      | _ => none
    | none => none
  | _ => none

/-- A BANKM of logical bank b is not finished in a workgroup (R151). -/
def State.bankBusy (s : State) (wk b : Nat) : Bool :=
  s.groups.any (fun e => e.2.wg == wk && e.2.splits.any (fun p => match p.busy with
    | some (.bankm _ _ _ b' _ _) => b' == b
    | _ => false))

/-- A BANKM is not finished on a bank of the bytes [o, o + n) of a workgroup's scratchpad (R151). -/
def State.scrBusy (s : State) (c : Ctx) (o n : Nat) : Bool :=
  (upto ((o + n + 0x1FFFF) / 0x20000 - o / 0x20000)).any (fun i => match c.wg.list[o / 0x20000 + i]? with
    | some b => s.bankBusy c.wk b
    | none => false)

/-- The same of n bytes at a flat address, where it reaches the own scratchpad (R140, R151). -/
def State.flatBusy (s : State) (c : Ctx) (addr n : Nat) : Bool :=
  let lo := addr % 2 ^ 60
  match addr / 2 ^ 60 with
  | 3 => s.scrBusy c lo n
  | 4 => lo / 0x400000 == c.wg.k && s.scrBusy c (lo % 0x400000) n
  | _ => false

/-- An access of the instruction must wait for a BANKM (R151). -/
def State.bankWait (s : State) (c : Ctx) (h : BitVec 4) (a : BitVec 7) : Bool :=
  (lanesOf c.act).any (fun l => match c.ownOff h.toNat a.toNat l with
    | some o => s.scrBusy c o 1
    | none => false)

/-- Some earlier LDW of one of these lanes is not resolved (R193). -/
def Group.watchingLanes (g : Group) (m : Lanes) : Bool :=
  g.watches.any (fun w => (w.st == .pending || w.st == .fetching) && (w.lanes &&& m) != 0#32)

/-! ## Issue of loads and stores -/

/-- Logs the destination registers of an access in an open block, when it issues (R364); false when the log is full. -/
def State.logRegs (s : State) (c : Ctx) (d n : Nat) : Bool × State :=
  (upto n).foldl (fun acc j =>
    if acc.1 && c.inBlock && d + j ≠ 0 then acc.2.logFirst c.wk (.reg c.g.k (d + j) (c.g.reg (d + j))) c.sp.pc else acc)
    (true, s)

/-- Logs them for the lanes that did not fault; without such a lane nothing is written and nothing logged (R132). A log that is
full fails the block, with the lowest cause of the instruction (R130). -/
def State.logDst (s : State) (c : Ctx) (d n : Nat) (fs : Forms) : Bool × State :=
  if fs.good = 0#32 then (true, s)
  else match s.logRegs c d n with
    | (true, s) => (true, s)
    | (false, s) => (false, s.failAlso c fs.code)

/-- The tag of a load's result: U when every address register is tagged U, so that all lanes name the same bytes (R364). -/
def Ctx.loadTag (c : Ctx) (h : BitVec 4) (a : BitVec 7) : Tag :=
  if h = 0#4 then tagU [(c.g.reg a.toNat).tag, (c.g.reg (a.toNat + 1)).tag] else tagU [c.tag a]

/-- Bytes of a size code. -/
def sizeBytes (z : BitVec 3) : Nat := 2 ^ z.toNat

/-- Issues a load-like instruction of class A: the accesses are formed, the destinations logged, and the operation waits
to be performed. -/
def State.loadOp (s : State) (c : Ctx) (p : Pend) (h : BitVec 4) (a : BitVec 7) (n : Nat) (k : AccKind) : State :=
  if c.g.flagFull c.sp.setA then s.stallBy c 2
  else if s.bankWait c h a then s.stallBy c 28
  else
    let (fs, s) := s.formAll c h a n k
    let (ok, s) := s.logDst c p.dst p.nreg fs
    if ok then s.startPend c { p with lanes := fs.good, acc := fs.parts, flag := c.sp.setA } fs.code else s

/-- LD (R365). -/
def execLd (d a : BitVec 7) (h : BitVec 4) (z : BitVec 3) (x : BitVec 1) (s : State) :
    Host.Outcome State Fault Refusal :=
  s.issue (.ld d a h z x) anyMode fun c =>
    s.loadOp c (c.pend (.load (sizeBytes z) (x == 1#1)) d.toNat (sizeRegs z.toNat) 0#32 (c.loadTag h a) [] 15) h a
      (sizeBytes z) .load

/-- LDA (R366): it also waits for every earlier LDW of its lanes. -/
def execLda (d a : BitVec 7) (h : BitVec 4) (z k : BitVec 3) (s : State) : Host.Outcome State Fault Refusal :=
  s.issue (.lda d a h z k) anyMode fun c =>
    if c.g.flagFull c.sp.setA then s.stallBy c 2
    else if c.g.watchingLanes c.sp.mask then s.stallBy c 17
    else
      let p := c.pend (.load (sizeBytes z) false) d.toNat (sizeRegs z.toNat) 0#32 (c.loadTag h a) [] 15
      s.loadOp c { p with acq := true, scope := k.toNat } h a (sizeBytes z) .load

/-- The n bytes of lane l's data from register d up, as a number, with their poison. -/
def Ctx.dataOf (c : Ctx) (d n l : Nat) : Nat × Option PTag :=
  let rs := (upto ((n + 3) / 4)).map (fun j => (j, c.g.lane (d + j) l))
  (rs.foldl (fun v r => v + r.2.w.toNat * 2 ^ (32 * r.1)) 0 % 2 ^ (8 * n), tagMinL (rs.map (·.2.p)))

/-- Fills the data of the parts from the lanes' registers. -/
def Ctx.withData (c : Ctx) (d n : Nat) (ps : List Access) : List Access :=
  ps.map (fun p => let v := c.dataOf d n p.lane; { p with data := v.1, pois := v.2 })

/-- What the parts write and nothing has published yet (R197): none for global storage, a workgroup for its scratchpad. -/
def pubOf (ps : List Access) : List (Option Nat × Nat) := ps.map (fun p => match p.loc with
  | .scr w _ => (some w, 0)
  | _ => (none, 0))

/-- The tiled-halo handle through which the parts store to the tile (R164). -/
def Ctx.tileOf (c : Ctx) (h : BitVec 4) (ps : List Access) : Option Handle :=
  if ps.any (fun p => p.path == 7) then mget? c.wg.handles h.toNat else none

/-- A store through a tiled-halo handle has been performed: the tile is pushed by the next release (R164). -/
def State.storedTile (s : State) (wk : Nat) (p : Pend) : State :=
  match p.tile with
  | some h => s.updWg wk (fun w => if w.dirty.contains h then w else { w with dirty := w.dirty ++ [h] })
  | none => s

/-- Issues the stores of class B. -/
def State.storeOp (s : State) (c : Ctx) (p : Pend) (h : BitVec 4) (fs : Forms) (d n : Nat) : State :=
  let ps := c.withData d n fs.parts
  let s := s.updGroup c.gk (fun g => { g with pub := mergePub g.pub (pubOf ps) })
  s.startPend c { p with lanes := fs.good, acc := ps, flag := c.sp.setB, tile := c.tileOf h ps } fs.code

/-- ST (R365). -/
def execSt (d a : BitVec 7) (h : BitVec 4) (z : BitVec 3) (s : State) : Host.Outcome State Fault Refusal :=
  s.issue (.st d a h z) anyMode fun c =>
    if c.g.flagFull c.sp.setB then s.stallBy c 2
    else if s.bankWait c h a then s.stallBy c 28
    else
      let (fs, s) := s.formAll c h a (sizeBytes z) .store
      s.storeOp c (c.pend (.store (sizeBytes z)) 0 0 0#32 .G [] 15) h fs d.toNat (sizeBytes z)

/-- A release of the issuing split has to wait (R186, R193). -/
def State.relWaits (s : State) (c : Ctx) (scope : Nat) : Bool := c.g.watching || s.relHeld c scope

/-- An access that escapes fails the innermost block (R135); where lanes of it fault too, the lowest cause of that cycle is
recorded (R130). -/
def State.escape (s : State) (c : Ctx) (code : Nat → Option Nat) : State :=
  s.failBlock c.wk ((((lanesOf c.act).filterMap code).filterMap faultCause).foldl min 9) 0 c.sp.pc false

/-- A release of the issuing split passes its waits, deliveries and check (R186, R193, R378) and takes effect; an access
with these locations that is wider than WG escapes an open block (R135, R197). -/
def State.relWith (s : State) (c : Ctx) (r scope : Nat) (own : List (Option Nat × Nat)) (code : Nat → Option Nat)
    (held : Bool) (k : State → State) : State :=
  match c.relCheck r held with
  | .wait w => (s.narrow c scope).stallBy c w
  | .deliver d => s.deliver c d
  | .strike => s.raiseAll c 0x0C
  | .ok =>
    if { c with g := { c.g with pub := mergePub c.g.pub own } }.escapes scope then s.escape c code
    else k (s.released c scope)

/-- Such a release, which waits for what is not performed at its scope (R186). -/
def State.relThen (s : State) (c : Ctx) (r scope : Nat) (own : List (Option Nat × Nat)) (code : Nat → Option Nat)
    (k : State → State) : State :=
  s.relWith c r scope own code (s.relHeld c scope) k

/-- An access of a scope wider than WG that is no release is an escape under the same rule (R135). -/
def Ctx.escapeOf (c : Ctx) (scope : Nat) (own : List (Option Nat × Nat)) : Bool :=
  { c with g := { c.g with pub := mergePub c.g.pub own } }.escapes scope

/-- STRL (R366). -/
def execStrl (d a : BitVec 7) (h : BitVec 4) (z k : BitVec 3) (s : State) : Host.Outcome State Fault Refusal :=
  s.issue (.strl d a h z k) anyMode fun c =>
    if c.act = 0#32 then s.advance c
    else if c.g.flagFull c.sp.setB then s.stallBy c 2
    else if s.relWaits c k.toNat then (s.narrow c k.toNat).stallBy c 16
    else if s.bankWait c h a then s.stallBy c 28
    else
      let (fs, s') := s.formAll c h a (sizeBytes z) .store
      s'.relThen c 16 k.toNat (pubOf fs.parts) fs.code fun s =>
        s.storeOp c (c.pend (.store (sizeBytes z)) 0 0 0#32 .G [] 15) h fs d.toNat (sizeBytes z)

/-! ## Watched loads (R367 to R369) -/

/-- Watch entries that a core holds. -/
def State.coreWatches (s : State) (core : Nat) : Nat :=
  ((s.groups.filter (fun e => e.2.core == core)).map (fun e => e.2.watches.length)).foldl (· + ·) 0

/-- Takes a watch entry for each distinct line of an LDW, lines in ascending order, while the group and the core have room
(R159, R367, R368). -/
def State.takeWatches (s : State) (c : Ctx) (id tag : Nat) (ps : List Access) : State :=
  let line := fun (p : Access) => match p.loc with
    | .mem pa => some (pa / 128)
    | _ => none
  let lines := sortBy (fun x => x) (dedup (ps.filterMap line))
  lines.foldl (fun s ln =>
    let g := mgetD s.groups c.gk c.g
    if 16 ≤ g.watches.length || 512 ≤ s.coreWatches c.g.core then s
    else
      let (n, s) := s.takeId
      let w : Watch :=
        { n := n, id := id, tag := tag, lanes := maskOf (fun l => ps.any (fun p => p.lane == l && line p == some ln))
          line := ln, gen := c.l.gen, ver := 0, stamp := 0, ofW := false, st := .fetching, used := 0#32 }
      s.updGroup c.gk (fun g => { g with watches := g.watches ++ [w] })) s

/-- LDW (R367). -/
def execLdw (d a : BitVec 7) (h : BitVec 4) (z t : BitVec 3) (s : State) : Host.Outcome State Fault Refusal :=
  s.issue (.ldw d a h z t) anyMode fun c =>
    if c.g.flagFull c.sp.setA then s.stallBy c 2
    else
      let (fs, s) := s.formAll c h a (sizeBytes z) .watched
      let (ok, s) := s.logDst c d.toNat (sizeRegs z.toNat) fs
      if !ok then s
      else
        let id := s.nextId
        let p := c.pend (.watched (sizeBytes z) t.toNat) d.toNat (sizeRegs z.toNat) fs.good (c.loadTag h a) fs.parts
          c.sp.setA
        (s.startPend c p fs.code).takeWatches c id t.toNat (if fs.good = 0#32 then [] else fs.parts)

/-- A watch entry has one of the tags of a CHK mask. -/
def Watch.named (w : Watch) (m : BitVec 8) : Bool := m.getLsbD w.tag

/-- The struck lanes of one tag that have not been consumed. -/
def Group.struckLanes (g : Group) (t : Nat) : Lanes :=
  g.watches.foldl (fun m w => if w.tag = t && w.st = .struck then m ||| (w.lanes &&& ~~~ w.used) else m) 0#32

/-- Consumes the entries with a named tag for the lanes m; an entry whose lanes are all consumed is freed (R194). -/
def Group.consume (g : Group) (mask : BitVec 8) (m : Lanes) : Group :=
  let ws := g.watches.map (fun w => if w.named mask then { w with used := w.used ||| m } else w)
  { g with watches := ws.filter (fun w => !(w.named mask && (w.lanes &&& ~~~ w.used) == 0#32)) }

/-- The struck lanes of a CHK, tag by tag: replay puts the recorded lanes in place of the live ones (R258, R260). -/
def State.chkStruck (s : State) (c : Ctx) (mask : BitVec 8) : Option Lanes × State :=
  ((upto 8).filter (fun t => mask.getLsbD t)).foldl (fun acc t => match acc with
    | (none, s) => (none, s)
    | (some m, s) =>
      let live := c.g.struckLanes t &&& c.act
      let c := { c with g := mgetD s.groups c.gk c.g, gg := mgetD s.gangs c.nk c.gg }
      match s.rrTake c 1 0 with
      | (.halt, s) => (none, s)
      | (.live, s) =>
        let (no, s) := s.rrNumber c
        (some (m ||| live), s.rrRecord c 1 0 no (live.toNat + t * 2 ^ 32) [])
      | (.value v _, s) =>
        let (_, s) := s.rrNumber c
        (some (m ||| (BitVec.ofNat 32 v &&& c.act)), s)) (some 0#32, s)

/-- CHK (R369). -/
def execChk (m : BitVec 8) (o : BitVec 10) (s : State) : Host.Outcome State Fault Refusal :=
  s.issue (.chk m o) anyMode fun c =>
    if c.g.watches.any (fun w => w.named m && (w.st == .pending || w.st == .fetching)) then s.stallBy c 15
    else match s.chkStruck c m with
      | (none, s) => s.stallBy c 26
      | (some struck, s) =>
        let tgt : Int := (c.sp.pc : Int) + o.toInt
        let cont := c.sp.pc + 1
        let k := tgtKey tgt
        let (bad, s) := if struck = 0#32 then (none, s) else s.landing c cont (if k = 0 then none else some (k - 1))
        let used := if bad.isSome then c.act &&& ~~~ struck else c.act
        let s := s.updGroup c.gk (·.consume m used)
        let s := if struck = 0#32 || bad.isSome then s
          else s.emitL c.l c.g.die 0 (c.g.core * 4 + c.g.sched) 0x0F (struck.toNat + c.g.slot * 2 ^ 32)
        s.transfer c cont struck (fun _ => tgt) noFault false

/-! ## Fences (R370) -/

/-- Loads, atomics and LRs of these lanes have not been performed (R180 rule 3). -/
def Group.loading (g : Group) (m : Lanes) : Bool :=
  g.pend.any (fun p => !p.acc.isEmpty && (p.lanes &&& m) != 0#32 && (match p.op with
    | .store _ => false
    | _ => true))

/-- FENCE (R370). An AR fence that only stores stand before waits for them as R186 says, or holds the writes of its lanes that
follow back and lets their loads go on, as R180 and R202 allow: a free value decides (log entry 3). -/
def execFence (p : BitVec 1) (k sc : BitVec 3) (s : State) : Host.Outcome State Fault Refusal :=
  s.issue (.fence p k sc) anyMode fun c =>
    let kind := sc.toNat
    let acq := kind = 1 || 3 ≤ kind
    let wait := (acq && (c.g.watchingLanes c.act || c.g.loading c.act)) ||
      ((p = 1#1 || kind = 4) && c.g.accessing c.act)
    if c.act = 0#32 then s.advance c
    else if 2 ≤ kind then
      let go := fun (s : State) => if wait then s.stallBy c 17 else s.advance c
      let s' := if kind = 3 then s.draw 1 else s
      if kind = 3 && s.storesOnly c k.toNat && Config.freeBit s.draws then
        (s'.updGroup c.gk (fun g => { g with ars := (c.sp.mask, s.nextId) :: g.ars })).relWith c 16 k.toNat [] noFault false go
      else s'.relThen c 16 k.toNat [] noFault go
    else if wait then s.stallBy c 17
    else if c.escapeOf k.toNat [] then s.escape c noFault
    else s.advance c

/-! ## Atomics, LR and SC (R371, R372) -/

/-- Ordering of the four atomic majors. -/
structure AtomOrd where
  acq : Bool
  rel : Bool

/-- Sets the data and the second operand of the parts of an atomic. -/
def Ctx.atomData (c : Ctx) (d : Nat) (cas : Bool) (ps : List Access) : List Access :=
  ps.map (fun p =>
    let x := c.g.lane d p.lane
    let y := c.g.lane (d + 1) p.lane
    if cas then { p with data := x.w.toNat, cmp := y.w.toNat, pois := tagMin x.p y.p }
    else { p with data := x.w.toNat, pois := x.p })

/-- Numbers an instruction that produces an event at issue and asks replay for its value (R258, R260): none when the gang
halts before it. -/
def State.rrIssue (s : State) (c : Ctx) (k hash : Nat) : Option (Nat × Option (Nat × List Word)) × State :=
  match s.rrTake c k hash with
  | (.halt, s) => (none, s)
  | (.live, s) => let (no, s) := s.rrNumber c; (some (no, none), s)
  | (.value v ls, s) => let (no, s) := s.rrNumber c; (some (no, some (v, ls)), s)

/-- ATOM in its four orders (R371). -/
def State.atomOp (s : State) (c : Ctx) (d a : BitVec 7) (h : BitVec 4) (k : BitVec 3) (n : BitVec 1) (o : BitVec 3)
    (ord : AtomOrd) : State :=
  let ret := n = 0#1
  let flag := if ret then c.sp.setA else c.sp.setB
  if c.act = 0#32 then s.advance c
  else if c.g.flagFull flag then s.stallBy c 2
  else if ord.rel && s.relWaits c k.toNat then (s.narrow c k.toNat).stallBy c 16
  else if ord.acq && c.g.watchingLanes c.sp.mask then s.stallBy c 17
  else if s.bankWait c h a then s.stallBy c 28
  else
    let (fs, s') := s.formAll c h a 4 .atom
    let go := fun (s : State) =>
      match (if ret && fs.good ≠ 0#32 then s.rrIssue c 4 (c.addrHash h a) else (some (0, none), s)) with
      | (none, s) => s.stallBy c 26
      | (some (no, rep), s) =>
        let ps := c.atomData d.toNat (o = 7#3) fs.parts
        let (ok, s) := if ret then s.logDst c d.toNat 1 fs else (true, s)
        let s := s.updGroup c.gk (fun g => { g with pub := mergePub g.pub (pubOf ps) })
        let p := c.pend (.atom o.toNat (tyOf c.g.m) ret) d.toNat (if ret then 1 else 0) fs.good .G ps flag
        if ok then
          s.startPend c { p with
            acq := ord.acq, scope := k.toNat, evno := no, rep := rep, tile := c.tileOf h ps
            hash := c.addrHash h a } fs.code
        else s
    if ord.rel then s'.relThen c 16 k.toNat (pubOf fs.parts) fs.code go
    else if c.escapeOf k.toNat (pubOf fs.parts) then s'.escape c fs.code
    else go s'

/-- MIN and MAX need TYPE I32 or N32 (R371). -/
def atomMode (o : BitVec 3) (c : Ctx) : Bool := (o != 4#3 && o != 5#3) || tyOf c.g.m ≤ 1

/-- ATOM, relaxed (R371). -/
def execAtom (d a : BitVec 7) (h : BitVec 4) (k : BitVec 3) (n : BitVec 1) (o : BitVec 3) (s : State) :
    Host.Outcome State Fault Refusal :=
  s.issue (.atom d a h k n o) (atomMode o) fun c => s.atomOp c d a h k n o { acq := false, rel := false }

/-- ATOM.ACQ (R371). -/
def execAtomAcq (d a : BitVec 7) (h : BitVec 4) (k : BitVec 3) (n : BitVec 1) (o : BitVec 3) (s : State) :
    Host.Outcome State Fault Refusal :=
  s.issue (.atomAcq d a h k n o) (atomMode o) fun c => s.atomOp c d a h k n o { acq := true, rel := false }

/-- ATOM.REL (R371). -/
def execAtomRel (d a : BitVec 7) (h : BitVec 4) (k : BitVec 3) (n : BitVec 1) (o : BitVec 3) (s : State) :
    Host.Outcome State Fault Refusal :=
  s.issue (.atomRel d a h k n o) (atomMode o) fun c => s.atomOp c d a h k n o { acq := false, rel := true }

/-- ATOM.AR (R371). -/
def execAtomAr (d a : BitVec 7) (h : BitVec 4) (k : BitVec 3) (n : BitVec 1) (o : BitVec 3) (s : State) :
    Host.Outcome State Fault Refusal :=
  s.issue (.atomAr d a h k n o) (atomMode o) fun c => s.atomOp c d a h k n o { acq := true, rel := true }

/-- LR (R372). -/
def execLr (d a : BitVec 7) (h : BitVec 4) (z : BitVec 3) (q : BitVec 1) (k : BitVec 3) (s : State) :
    Host.Outcome State Fault Refusal :=
  s.issue (.lr d a h z q k) anyMode fun c =>
    if c.g.flagFull c.sp.setA then s.stallBy c 2
    else if q = 1#1 && c.g.watchingLanes c.sp.mask then s.stallBy c 17
    else if c.act = 0#32 then s.advance c
    else
      let (fs, s') := s.formAll c h a (sizeBytes z) .lrsc
      match (if fs.good = 0#32 then (some (0, none), s') else s'.rrIssue c 2 (c.addrHash h a)) with
      | (none, s) => s.stallBy c 26
      | (some (no, rep), s) =>
        let (ok, s) := s.logDst c d.toNat (sizeRegs z.toNat) fs
        let p := c.pend (.lr (sizeBytes z)) d.toNat (sizeRegs z.toNat) fs.good (c.loadTag h a) fs.parts c.sp.setA
        if ok then
          s.startPend c { p with acq := q == 1#1, scope := k.toNat, evno := no, rep := rep, hash := c.addrHash h a } fs.code
        else s

/-- SC (R372). -/
def execSc (d a : BitVec 7) (h : BitVec 4) (z : BitVec 3) (q : BitVec 1) (k : BitVec 3) (s : State) :
    Host.Outcome State Fault Refusal :=
  s.issue (.sc d a h z q k) anyMode fun c =>
    if c.act = 0#32 then s.advance c
    else if c.g.flagFull c.sp.setA then s.stallBy c 2
    else
      let (fs, s') := s.formAll c h a (sizeBytes z) .lrsc
      let go := fun (s : State) =>
        match (if fs.good = 0#32 then (some (0, none), s) else s.rrIssue c 3 (c.addrHash h a)) with
        | (none, s) => s.stallBy c 26
        | (some (no, rep), s) =>
          let ps := c.withData d.toNat (sizeBytes z) fs.parts
          let (ok, s) := s.logDst c d.toNat 1 fs
          let s := s.updGroup c.gk (fun g => { g with pub := mergePub g.pub (pubOf ps) })
          let p := c.pend (.sc (sizeBytes z)) d.toNat 1 fs.good .G ps c.sp.setA
          if ok then
            s.startPend c { p with scope := k.toNat, evno := no, rep := rep, hash := c.addrHash h a } fs.code
          else s
      if q = 1#1 then s'.relThen c 16 k.toNat (pubOf fs.parts) fs.code go else go s'

/-! ## Prefetch and cache control (R373, R375) -/

/-- Where PREF puts a line: in L2 only with the L2 form, and on path 0x2 (R154, R373). -/
def Access.prefKeep (a : Access) (l2 : Bool) : Keep :=
  if !l2 && a.path ≠ 2 then a.keep else if a.keep.low then .l2Low else .l2

/-- PREF (R373): poisoned address lanes fault; other lanes whose checks fail are dropped; a line is brought in when that
needs no recall, so that no version moves. -/
def execPref (a : BitVec 7) (h : BitVec 4) (v : BitVec 1) (s : State) : Host.Outcome State Fault Refusal :=
  s.issue (.pref a h v) anyMode fun c =>
    let (fs, s) := s.formAll c h a 1 .pref
    let s := if s.stale c.l then s else fs.parts.foldl (fun s p => match p.loc with
      | .mem pa => s.prefetch c.g.core (pa / 128) (p.prefKeep (v == 1#1))
      | _ => s) s
    s.endInstr c (fun l => if fs.code l = some 9 then some 9 else none)

/-- Drops the R copies and the fetch copies of a core (R154, R375). -/
def State.dropRO (s : State) (core : Nat) : State :=
  let s := s.dropR core
  s.setMM { s.mm with icache := s.mm.icache.filter (fun e => e.1 / 2 ^ 44 != core) }

/-- CBINV (R375). -/
def execCbinv (s : State) : Host.Outcome State Fault Refusal :=
  s.issue .cbinv anyMode fun c => if c.act = 0#32 then s.advance c else (s.dropRO c.g.core).advance c

/-! ## Handles (R144, R145, R374) -/

/-- HLOAD (R374): the split waits until the slot is bound. -/
def execHload (e h : BitVec 4) (s : State) : Host.Outcome State Fault Refusal :=
  s.issue (.hload e h) anyMode fun c =>
    if c.act = 0#32 then s.advance c
    else if c.l.hcount ≤ e.toNat then s.raiseAll c 6
    else s.updGroup c.gk (fun g => { g with splits := g.splits.modify c.ix (fun p =>
      { p with busy := some (.hload e.toNat h.toNat), stall := 19 }) })

/-- The handle entry that 32 bytes hold (R144). -/
def handleOf (v : Nat) : Handle :=
  { base := nbits v 63 0, limit := nbits v 95 64, path := nbits v 99 96, kind := nbits v 101 100,
    policy := nbits v 104 102, rr := nbit v 105, rw := nbit v 106, ra := nbit v 107, persist := nbit v 108,
    gen := nbits v 119 112, kinfo := BitVec.ofNat 128 (v / 2 ^ 128) }

/-- The kind information of a tiled-halo entry breaks R162. -/
def haloBad (c : Ctx) (h : Handle) : Bool :=
  let k := h.kinfo.toNat
  let x := h.halo
  nbits k 127 64 != 0 || x.th = 0 || x.tw < 4 || x.tw % 4 != 0 || x.th < x.hy || x.tw / 4 < x.hx ||
    h.limit + 1 != c.gg.w * x.tw * (c.gg.h * x.th) || c.l.scratch < x.hoff + x.rsize

/-- The kind information of a sparse-view entry breaks R165. -/
def sparseBad (h : Handle) : Bool :=
  let k := h.kinfo.toNat
  let f := nbits k 4 0
  let nz := nbits k 11 5
  nbits k 127 12 != 0 || !([8, 9, 10, 11, 12, 13].contains f) || nz = 0 || 896 < nz * fmtWidth f ||
    (h.limit + 1) % (16 * fmtWidth f) != 0

/-- The entry of 32 bytes v is refused (R145, R6), but for the persist list. -/
def handleBad (c : Ctx) (v : Nat) : Bool :=
  let h := handleOf v
  nbits v 127 120 != 0 || nbits v 111 109 != 0 || 3 ≤ h.policy || h.kind = 3 || nbits v 63 52 != 0 ||
    h.gen != c.l.gen || 8 ≤ h.path ||
    (match h.kind with
      | 0 => h.path = 6 || h.path = 7 || h.kinfo != 0#128 || h.base % 4 != 0
      | 1 => h.path != 7 || h.base % 128 != 0 || haloBad c h
      | _ => h.path != 6 || h.base % 128 != 0 || sparseBad h) ||
    (h.persist && !([0, 1, 5].contains h.path))

/-- The physical pieces of a virtual range, granule by granule, joined where they touch; none without a translation (R49). -/
def State.pieces (s : State) (c : Ctx) (va n : Nat) : Option (List (Nat × Nat)) × State :=
  (upto ((va + n + 65535) / 65536 - va / 65536)).foldl (fun acc i => match acc with
    | (none, s) => (none, s)
    | (some ps, s) =>
      let a := max va ((va / 65536 + i) * 65536)
      let k := min (va + n) ((va / 65536 + i + 1) * 65536) - a
      match s.vaOf c.g.core c.l a with
      | (none, s) => (none, s)
      | (some pa, s) =>
        match ps.getLast? with
        | some (b, m) => if b + m = pa then (some (ps.dropLast ++ [(b, m + k)]), s) else (some (ps ++ [(pa, k)]), s)
        | none => (some [(pa, k)], s)) (some [], s)

/-- Enters ranges into the persist list for a launch; none when it has no room for all the new ones (R49). -/
def persistAdd (l : List (Nat × Nat × List Nat)) (ps : List (Nat × Nat)) (lk : Nat) : Option (List (Nat × Nat × List Nat)) :=
  let l' := ps.foldl (fun l p =>
    if l.any (fun e => e.1 == p.1 && e.2.1 == p.2) then
      l.map (fun e => if e.1 = p.1 ∧ e.2.1 = p.2 then
        (e.1, e.2.1, if e.2.2.contains lk then e.2.2 else e.2.2 ++ [lk]) else e)
    else l ++ [(p.1, p.2, [lk])]) l
  if 64 < l'.length then none else some l'

/-- Fills the replica of a tiled-halo handle with coherent reads, every place of it; none when a byte has no translation
(R162). -/
def State.fillHalo (s : State) (c : Ctx) (h : Handle) : Option State :=
  let x := h.halo
  let region := c.gg.w * x.tw * (c.gg.h * x.th)
  (upto region).foldl (fun r o => match r with
    | none => none
    | some s => match x.places c.gg.w c.gg.h c.wg.k o with
      | [] => some s
      | ps => match s.vaOf c.g.core c.l (h.base + o) with
        | (some pa, s) =>
          let (b, t, s) := s.readPa c.g.core pa 1 (keepOf 7 (some h))
          some (ps.foldl (fun s p => s.scrWrite c.wk (x.hoff + p) b t) s)
        | (none, _) => none) (some s)

/-- Binds slot h of the issuing workgroup to entry e, or raises the fault that its read or R145 gives (R374). -/
def State.bindHandle (s : State) (c : Ctx) (e h : Nat) : State :=
  match s.vaOf c.g.core c.l (c.l.htab + 32 * e) with
  | (none, s) => s.raiseAll c 7
  | (some pa, s) =>
    if s.stale c.l then s.raiseAll c 8
    else
      let (bs, p, s) := s.readPa c.g.core pa 32 .l2
      let v := ofBytesLE bs
      let hd := handleOf v
      if p.isSome || handleBad c v then s.raiseAll c 6
      else
        let (per, s) :=
          if hd.persist then
            (match s.pieces c hd.base (hd.limit + 1) with
            | (none, s) => (Sum.inl 7, s)
            | (some ps, s) => (match persistAdd s.power.persist ps c.lk with
              | none => (Sum.inl 6, s)
              | some l => (Sum.inr l, s)))
          else (Sum.inr s.power.persist, s)
        match per with
        | .inl k => s.raiseAll c k
        | .inr l =>
          let (ok, s) := if c.inBlock then s.logFirst c.wk (.handle h (mget? c.wg.handles h)) c.sp.pc else (true, s)
          if !ok then s
          else
            match (if hd.kind = 1 then s.fillHalo c hd else some s) with
            | none => s.raiseAll c 7
            | some s =>
              let s := { s with power := { s.power with persist := l } }
              (s.updWg c.wk (fun w => { w with handles := mput w.handles h hd })).advance c

/-- The first split of a group whose unfinished instruction p accepts. -/
def Group.busyIx (g : Group) (p : Busy → Bool) : Option Nat :=
  g.splits.findIdx? (fun q => match q.busy with
    | some b => p b
    | none => false)

/-- HLOAD_BINDING (R374): an HLOAD of the group completes. -/
def execHloadBinding (g : Nat) (s : State) : Host.Outcome State Fault Refusal :=
  .next (match mget? s.groups g with
  | none => s
  | some gr => match gr.busyIx (fun b => match b with
      | .hload .. => true
      | _ => false) with
    | none => s
    | some ix => match s.ctxOf g ix with
      | none => s
      | some c => if s.frozen c.wk || s.passing c.wk then s else (match c.sp.busy with
        | some (.hload e h) => s.bindHandle c e h
        | _ => s))

/-! ## Performing accesses -/

/-- The words of an n-byte value in lane registers (R263, R365): register j. -/
def loadWord (n : Nat) (sx : Bool) (v j : Nat) : Word :=
  if n < 4 then (if sx then BitVec.ofInt 32 (sextInt (8 * n) v) else BitVec.ofNat 32 v)
  else BitVec.ofNat 32 (v / 2 ^ (32 * j))

/-- The parts of lane l. -/
def Pend.parts (p : Pend) (l : Nat) : List Access := p.acc.filter (fun a => a.lane == l)

/-- Two places overlap. -/
def Access.overlaps (a b : Access) : Bool :=
  a.path == b.path && (match a.loc, b.loc with
  | .mem x, .mem y => x < y + b.n && y < x + a.n
  | .scr w x, .scr w' y => w == w' && x < y + b.n && y < x + a.n
  | .sparse x .., .sparse y .. => x / 128 == y / 128
  | _, _ => false)

/-- An earlier access of the same lane through the same path to the same bytes has not been performed (R177). -/
def Group.behind (g : Group) (p : Pend) : Bool :=
  g.pend.any (fun q => q.id < p.id && q.acc.any (fun b => p.acc.any (fun a => a.lane == b.lane && a.overlaps b)))

/-- Logs what a write changes, in an open block, just before the write (R132): scratchpad words, or the line. -/
def State.logTarget (s : State) (c : Ctx) (a : Access) : Bool × State :=
  if !c.inBlock then (true, s)
  else match a.loc with
    | .mem pa =>
      let (e, s) := s.linePre c.wk c.g.core (pa / 128) a.keep.low
      s.logFirst c.wk e c.sp.pc
    | .scr wk off =>
      (upto ((off + a.n + 3) / 4 - off / 4)).foldl (fun acc i =>
        if acc.1 then
          let o := off / 4 * 4 + 4 * i
          if acc.2.logsNew c.wk (.word (wk == c.wk) wk o 0#32 none) then
            let (bs, p, s) := acc.2.scrLook wk o 4
            s.logFirst c.wk (.word (wk == c.wk) wk o (BitVec.ofNat 32 (ofBytesLE bs)) p) c.sp.pc
          else acc
        else acc) (true, s)
    | .sparse .. => (true, s)

/-- Counts a late return of a workgroup (R131). -/
def State.late (s : State) (wk : Nat) : State := s.updWg wk (fun w => { w with latedrop := satAdd 0xFFFFFFFF w.latedrop 1 })

/-- The value of lane l of a load: its bytes and poison. -/
def State.loadLane (s : State) (c : Ctx) (p : Pend) (l : Nat) : Nat × Option PTag × State :=
  s.readParts c.g.core (p.parts l)

/-- Lane values of a load, by register and lane. -/
abbrev Got := Map (Nat × Option PTag)

/-- Reads every lane of a load. -/
def State.loadLanes (s : State) (c : Ctx) (p : Pend) : Got × State :=
  (lanesOf p.lanes).foldl (fun acc l =>
    let (v, t, s) := acc.2.loadLane c p l
    (acc.1 ++ [(l, (v, t))], s)) ([], s)

/-- The values of an LDW (R367): a line with an entry gives what the core or the die holds, and resolves or leaves the
entry pending; other lines are ordinary loads (R368). -/
def State.watchLanes (s : State) (c : Ctx) (p : Pend) : Got × State :=
  let lines := dedup (p.acc.filterMap (fun a => match a.loc with
    | .mem pa => some (pa / 128)
    | _ => none))
  lines.foldl (fun acc ln =>
    let (got, s) := acc
    let g := mgetD s.groups c.gk c.g
    let mine := p.acc.filter (fun a => match a.loc with
      | .mem pa => pa / 128 == ln
      | _ => false)
    let keep := (mine.map (·.keep)).headD .core
    let pick := fun (d : BitVec 1024) (t : Option PTag) => mine.map (fun a => match a.loc with
      | .mem pa => (a.lane, (ofBytesLE (lineBytes d (pa % 128) a.n), t))
      | _ => (a.lane, (0, none)))
    match g.watches.find? (fun w => w.id == p.id && w.line == ln) with
    | some w =>
      let (d, t, now, ver, stamp, ofW, s) := s.watchedRead c.g.core ln keep
      let s := s.updGroup c.gk (fun g => { g with watches := g.watches.map (fun x => if x.n = w.n then
        { x with ver := ver, stamp := stamp, ofW := ofW, st := if now then .confirmed else .pending } else x) })
      (got ++ pick d t, s)
    | none =>
      let (d, t, s) := s.readLine c.g.core ln keep
      (got ++ pick d t, s)) ([], s)

/-- f(old, x) of R371. -/
def atomNew (o ty old x y : Nat) : Nat :=
  let a := BitVec.ofNat 32 old
  let b := BitVec.ofNat 32 x
  let less := if ty = 0 then a.slt b else a.ult b
  match o with
  | 0 => (a + b).toNat
  | 1 => (a &&& b).toNat
  | 2 => (a ||| b).toNat
  | 3 => (a ^^^ b).toNat
  | 4 => if less then old else x
  | 5 => if less then x else old
  | 6 => x
  | _ => y

/-- Performs one lane of an ATOM (R187, R216, R371): the old value and its poison. In an open block the target is logged
first; without room nothing is written. -/
def State.atomLane (s : State) (c : Ctx) (o ty : Nat) (a : Access) : Nat × Option PTag × State :=
  let (bs, t, s) := s.readPart c.g.core a
  let old := ofBytesLE bs
  match tagMin t a.pois with
  | some tag =>
    let (ok, s) := s.logTarget c a
    (0, some tag, if ok then s.writePart c.g.core c.l.space a bs (some tag) else s)
  | none =>
    if o = 7 && old ≠ a.data then
      (old, none, match a.loc with
        | .mem pa => s.own c.g.die (pa / 128) a.keep.low
        | _ => s)
    else
      let (ok, s) := s.logTarget c a
      (old, none, if ok then s.writePart c.g.core c.l.space a (bytesLE 4 (atomNew o ty old a.data a.cmp)) none else s)

/-- A write to a scratchpad that arrives with an old generation is dropped (R131). -/
def Ctx.dropsPart (c : Ctx) (p : Pend) (a : Access) : Bool :=
  p.gen != c.wg.gen && (match a.loc with
  | .scr .. => true
  | _ => false)

/-- Writes that an operation without a return has dropped count as a late return (R131). -/
def State.lateParts (s : State) (c : Ctx) (p : Pend) : State := if p.acc.any (c.dropsPart p) then s.late c.wk else s

/-- Performs every lane of an ATOM, in an order the model leaves open (R175); one to a scratchpad under an old generation is
dropped (R131). -/
def State.atomLanes (s : State) (c : Ctx) (o ty : Nat) (p : Pend) : Got × State :=
  let order := sortBy (fun (a : Access) => Config.freeNat (s.draws + a.lane)) p.acc
  order.foldl (fun acc a =>
    if c.dropsPart p a then acc
    else
      let (v, t, s) := acc.2.atomLane c o ty a
      (mput acc.1 a.lane (v, t), s)) ([], s.draw 32)

/-- Performs one lane of an SC (R187, R216, R372): whether it succeeded. -/
def State.scLane (s : State) (c : Ctx) (a : Access) : Bool × State :=
  match a.loc with
  | .mem pa =>
    let ln := pa / 128
    let g := mgetD s.groups c.gk c.g
    let held := g.reserved a.lane ln
    let s := s.updGroup c.gk (fun g => { g with resv := mdel g.resv a.lane })
    if held && a.pois.isNone && (s.linePois ln).isNone then
      let (ok, s) := s.logTarget c a
      if ok then (true, s.writePart c.g.core c.l.space a (bytesLE a.n a.data) none) else (false, s)
    else (false, s)
  | _ => (false, s)

/-- Performs an LR: its values, with the reservations set (R187, R372). -/
def State.lrLanes (s : State) (c : Ctx) (p : Pend) : Got × State :=
  p.acc.foldl (fun acc a => match a.loc with
    | .mem pa =>
      let (bs, t, s) := acc.2.readPart c.g.core a
      (acc.1 ++ [(a.lane, (ofBytesLE bs, t))], s.reserve c.gk a.lane (pa / 128))
    | _ => acc) ([], s)

/-- The parts, all of them clean, that cover every byte of the n from x of one place. -/
def coversAll (ps : List Access) (at_ : Access → Option Nat) (x n : Nat) : Bool :=
  let here := ps.filter (fun a => match at_ a with
    | some y => decide (x ≤ y ∧ y < x + n)
    | none => false)
  here.all (fun a => a.pois.isNone) &&
  (upto n).all (fun i => here.any (fun a => match at_ a with
    | some y => decide (y ≤ x + i ∧ x + i < y + a.n)
    | none => false))

/-- The lanes of one store are merged into line writes (R209): a line or a sector that they replace whole with clean data
loses its poison (R214, log entry 115). -/
def State.mergedClean (s : State) (core : Nat) (ps : List Access) : State :=
  let memAt := fun (a : Access) => match a.loc with
    | .mem pa => some pa
    | _ => none
  let scrAt := fun (w : Nat) (a : Access) => match a.loc with
    | .scr w' off => if w' = w then some off else none
    | _ => none
  let s := (dedup ((ps.filterMap memAt).map (· / 128))).foldl (fun s ln =>
    if coversAll ps memAt (ln * 128) 128 then
      (s.updLine ln (fun x => { x with pois := none })).dropFlaws
        (fun p => p == .array ln || p == .slice (core / 48) ln || p == .copy core ln)
    else s) s
  let scr := ps.filterMap (fun a => match a.loc with
    | .scr w off => some (w, off / 32)
    | _ => none)
  scr.foldl (fun s e =>
    if coversAll ps (scrAt e.1) (e.2 * 32) 32 then
      s.updWg e.1 (fun w => match w.scrAt (e.2 * 32) with
        | some a => { w with spois := mdel w.spois (a / 32) }
        | none => w)
    else s) s

/-- Performs a store: every lane ascending, each logged first in an open block; writes to scratchpads under an old
generation are dropped (R131, R132, R175, R365). -/
def State.storeLanes (s : State) (c : Ctx) (p : Pend) : State :=
  let ps := p.acc.filter (fun a => !c.dropsPart p a)
  let was := s.frozen c.wk
  let s := ps.foldl (fun s a =>
    let (ok, s) := s.logTarget c a
    if ok then s.writePart c.g.core c.l.space a (bytesLE a.n (a.data / 2 ^ (8 * a.off))) a.pois else s) s
  let s := if s.frozen c.wk = was then s.mergedClean c.g.core ps else s
  (s.storedTile c.wk p).lateParts c p

/-- Takes a pending operation away and counts its flag down (R270). -/
def State.finishPend (s : State) (gk : Nat) (p : Pend) : State :=
  let s := s.updGroup gk (fun g => { g with pend := g.pend.filter (fun q => q.id != p.id), ars := g.ars.filter (g.arHolds p.id) })
  s.flagDown gk p.flag p.dhash

/-- Writes the registers of a return, logging them first in an open block (R132, R282). -/
def State.writeBack (s : State) (c : Ctx) (p : Pend) (m : Lanes) (f : Nat → Nat → Val) : State :=
  (upto p.nreg).foldl (fun s j =>
    let d := p.dst + j
    if d = 0 || m = 0#32 || p.cut.contains d then s
    else if c.inBlock then
      let (ok, s) := s.logFirst c.wk (.reg c.g.k d (c.g.reg d)) p.pc
      if ok then s.putReg c.gk d m p.tag (f j) else s
    else s.putReg c.gk d m p.tag (f j)) s

/-- The unit of a held return in a stop report (R255). -/
def PendOp.unit : PendOp → Nat
  | .load .. => 1
  | .watched .. => 2
  | .atom .. => 3
  | .lr _ => 4
  | .sc _ => 5
  | .value _ u => u
  | .check _ => 7
  | .evqry _ => 8
  | .store _ => 0

/-- Delivers a return to its registers: that of a group that has exited is dropped (R325); a changed generation drops it and
counts it (R131); a stopped scheduler holds it (R253); otherwise it is written; its flag is counted down (R270). -/
def State.deliverRet (s : State) (c : Ctx) (p : Pend) (m : Lanes) (f : Nat → Nat → Val) : State :=
  if p.drop then s.finishPend c.gk p
  else if p.gen ≠ c.wg.gen then (s.finishPend c.gk p).late c.wk
  else if (mget? s.stops (c.g.core * 4 + c.g.sched)).isSome then
    let vals := (upto p.nreg).flatMap (fun j => allLanes.map (fun l => f j l))
    s.updGroup c.gk (fun g => { g with pend := g.pend.map (fun q => if q.id = p.id then
      { q with op := .value vals p.op.unit, lanes := m, acc := [], acq := false, held := true } else q) })
  else (s.writeBack c p m f).finishPend c.gk p

/-- The value of a got lane: register j of an n-byte load. -/
def Got.val (g : Got) (n : Nat) (sx : Bool) (j l : Nat) : Val :=
  match mget? g l with
  | some (v, t) => { w := loadWord n sx v j, p := t }
  | none => clean 0#32

/-- Lane values as 32 words, for record and replay. -/
def Got.words (g : Got) : List Word := allLanes.map (fun l => match mget? g l with
  | some (v, _) => BitVec.ofNat 32 v
  | none => 0#32)

/-- The lane values that replay delivers in place of the live ones (R260); the log holds four bytes of a lane, so that of an
8-byte LR the high word stays live (R259, log entry 134). -/
def Got.replayed (g : Got) (r : Option (Nat × List Word)) : Got :=
  match r with
  | some (_, ls) => g.map (fun e => (e.1, (e.2.1 / 2 ^ 32 * 2 ^ 32 + (ls.getD e.1 0#32).toNat, e.2.2)))
  | none => g

/-- Performs a class A operation and delivers its return. -/
def State.performRet (s : State) (c : Ctx) (p : Pend) : State :=
  match p.op with
  | .load n sx =>
    let (g, s) := s.loadLanes c p
    s.deliverRet c p p.lanes (g.val n sx)
  | .watched n _ =>
    let (g, s) := s.watchLanes c p
    s.deliverRet { c with g := mgetD s.groups c.gk c.g } p p.lanes (g.val n false)
  | .atom o ty _ =>
    let (g, s) := s.atomLanes c o ty p
    let s := s.storedTile c.wk p
    let g := g.replayed p.rep
    let s := s.rrRecord c 4 p.hash p.evno 0 g.words
    s.deliverRet c p p.lanes (g.val 4 false)
  | .lr n =>
    let (g, s) := s.lrLanes c p
    let g := g.replayed p.rep
    let s := s.rrRecord c 2 p.hash p.evno 0 g.words
    s.deliverRet c p p.lanes (g.val n false)
  | .sc _ =>
    let order := sortBy (fun (a : Access) => Config.freeNat (s.draws + a.lane)) p.acc
    let (won, s) := order.foldl (fun acc a =>
      let (ok, s) := acc.2.scLane c a
      (if ok then acc.1 ||| laneBit a.lane else acc.1, s)) ((0#32 : Lanes), s.draw 32)
    let won := match p.rep with
      | some (v, _) => BitVec.ofNat 32 v
      | none => won
    let s := s.rrRecord c 3 p.hash p.evno won.toNat []
    s.deliverRet c p p.lanes (fun _ l => clean (if won.getLsbD l then 0#32 else 1#32))
  | .value vals _ | .check vals => s.deliverRet c p p.lanes (fun j l => vals.getD (j * 32 + l) (clean 0#32))
  | .evqry ev =>
    let v := mgetD s.kul.events ev 0
    s.deliverRet c p p.lanes (fun _ _ => clean (BitVec.ofNat 32 v))
  | .store _ => s

/-- An access of the operation would be rejected where it is served: its generation is stale (R170), or a sparse line has
more than NZ mask bits (R165). -/
def State.lateCode (s : State) (c : Ctx) (p : Pend) : Nat → Option Nat :=
  let stale := s.stale c.l
  fun l =>
    if !p.lanes.getLsbD l || p.acc.isEmpty then none
    else if stale then some 8
    else if (p.parts l).any (fun a => match a.loc with
      | .sparse pa _ _ nz => decide (nz < lineCount (s.lineData (pa / 128)))
      | _ => false) then some 6
    else none

/-- Two places share bytes, through whatever paths (R178). -/
def Access.meets (a b : Access) : Bool := match a.loc, b.loc with
  | .mem x, .mem y => x < y + b.n && y < x + a.n
  | .scr w x, .scr w' y => w == w' && x < y + b.n && y < x + a.n
  | .sparse x .., .mem y => x / 128 == y / 128
  | _, _ => false

/-- The operation reaches bytes of a store that a release has passed, of an instance that its group lies in, and that is not
performed yet: it waits for that store (R173, R186). -/
def State.passedBy (s : State) (c : Ctx) (p : Pend) : Bool :=
  s.groups.any (fun e => e.2.pend.any (fun q =>
    c.sees e q 4 && q.id < p.id && q.acc.any (fun b => p.acc.any (fun a => a.meets b))))

/-- The operation may be performed now: nothing of R177, R180 or R186 stands before it, no lane would be rejected. -/
def State.canPerform (s : State) (c : Ctx) (p : Pend) : Bool :=
  !p.held && !c.g.behind p && !s.passedBy c p && !(p.op.writes && c.g.fenced p) && codeMask (s.lateCode c p) == 0#32

/-- RETURN_WRITTEN (R270): a class A operation is performed and its return written, held or dropped. -/
def execReturnWritten (g id : Nat) (s : State) : Host.Outcome State Fault Refusal :=
  .next (match s.gctx g with
  | none => s
  | some c => match c.g.pend.find? (fun p => p.id == id) with
    | none => s
    | some p =>
      let c := { c with sp := { c.sp with pc := p.pc } }
      if p.drop && !p.op.writes then s.finishPend g p
      else match p.op with
        | .store _ => s
        | .atom _ _ false => s
        | _ => if s.canPerform c p then s.performRet c p else s)

/-- WRITES_PERFORMED (R270): a class B memory operation performs its writes and its flag is counted down. -/
def execWritesPerformed (g id : Nat) (s : State) : Host.Outcome State Fault Refusal :=
  .next (match s.gctx g with
  | none => s
  | some c => match c.g.pend.find? (fun p => p.id == id) with
    | none => s
    | some p =>
      let c := { c with sp := { c.sp with pc := p.pc } }
      if !s.canPerform c p then s
      else match p.op with
        | .store _ => (s.storeLanes c p).finishPend g p
        | .atom o ty false => (((s.atomLanes c o ty p).2.storedTile c.wk p).lateParts c p).finishPend g p
        | _ => s)

/-! ## Faults where an access is served -/

/-- Lanes of a pending operation leave it. -/
def Pend.less (p : Pend) (m : Lanes) : Pend :=
  { p with lanes := p.lanes &&& ~~~ m, acc := p.acc.filter (fun a => !m.getLsbD a.lane) }

/-- Takes lanes out of the split at position ix, wherever it stands, and adds the faulting split (R363). -/
def pullLanes (ix : Nat) (m : Lanes) (g : Group) (bad : List Split) : Group :=
  let ps := g.splits.modify ix (fun p => { p with mask := p.mask &&& ~~~ m })
  ({ g with splits := ps.filter (fun p => p.mask != 0#32) ++ bad } : Group).settle g.splits

/-- DELAYED_ACCESS_FAULT (R363 steps 8 and 9): the rejected lanes leave the operation, whose register they do not get, and
the splits that hold them now, with the memory instruction as return point; exited lanes drop the fault. -/
def execDelayedAccessFault (g id : Nat) (s : State) : Host.Outcome State Fault Refusal :=
  .next (match s.gctx g with
  | none => s
  | some c => match c.g.pend.find? (fun p => p.id == id) with
    | none => s
    | some p =>
      let code := s.lateCode c p
      let m := codeMask code
      if m = 0#32 then s
      else
        let ws := c.g.watches.map (fun w => if w.id = id then { w with lanes := w.lanes &&& ~~~ m } else w)
        let s := s.updGroup g (fun x => { x with
          pend := x.pend.map (fun q => if q.id = id then q.less m else q)
          watches := ws.filter (fun w => w.lanes != 0#32) })
        let s := if p.lanes &&& ~~~ m = 0#32 then s.finishPend g p else s
        if s.frozen c.wk then s
        else
          let live := m &&& ~~~ c.g.exited
          (lanesOf live).foldl (fun s l =>
            if s.frozen c.wk then s
            else match mget? s.groups g with
              | none => s
              | some gr => match gr.splits.findIdx? (fun q => q.mask.getLsbD l) with
                | none => s
                | some ix => match s.ctxOf g ix with
                  | none => s
                  | some sc =>
                    let here := sc.sp.mask &&& live
                    if lowLane here ≠ some l then s
                    else s.takeFaultAt sc (fun k => if here.getLsbD k then code k else none) p.pc (pullLanes ix here)) s)

/-- WATCH_VERDICT (R160): a pending entry is confirmed or struck, after stores that a release has passed for its lanes (R186). -/
def execWatchVerdict (g n : Nat) (s : State) : Host.Outcome State Fault Refusal :=
  .next (match s.gctx g with
  | none => s
  | some c => match c.g.watches.find? (fun w => w.n == n && w.st == .pending) with
    | none => s
    | some w => if s.passing c.wk then s else
      match s.verdict c.g.core w (s.asGen c.l.aspace != w.gen) with
      | (none, s) => s.updGroup g (fun x => { x with
          watches := x.watches.map (fun v => if v.n = n && v.st == .pending then { v with st := .confirmed } else v) })
      | (some k, s) => s.strike g n k)

end Sys2Proof.Machine
end

