-- ==== Sys2Proof/Machine/Copy.lean ====
section
/-! DEFINITION. The copy engine (R376 to R391): the instructions that queue operations, the reads and writes of an
operation, the row and index copies of CPYB and CPYX, and the events that start and end an operation. -/

namespace Sys2Proof.Machine

/-! ## Queues -/

/-- Operations of queue q of a group that have not been performed. -/
def Group.queueLen (g : Group) (q : Nat) : Nat := (g.ops.filter (fun o => o.q == q)).length

/-- An operation about to be queued. -/
def Ctx.qop (c : Ctx) (q : Nat) (op : EngOp) : QOp :=
  { id := 0, q := q, pc := c.sp.pc, op := op, flag := c.sp.setB, gen := c.wg.gen, started := false, inBlock := c.inBlock,
    after := mgetD c.g.fences q [], sent := 0, acked := 0, rerr := 0, port := 0, bound := none, fcode := 0, hash := 0
    met := false, come := [], cut := [] }

/-- Queues an operation, counts its flag, and ends the instruction (R270, R377). -/
def State.enqueue (s : State) (c : Ctx) (o : QOp) (code : Nat → Option Nat) : State :=
  let (id, s) := s.takeId
  let s := s.updGroup c.gk (fun g => ({ g with ops := g.ops ++ [{ o with id := id }] } : Group).flagInc o.flag)
  s.endInstr c code

/-! ## Ranges -/

/-- The pieces of n bytes from addr that no page boundary cuts, as (offset, length). -/
def pagePieces (addr n : Nat) : List (Nat × Nat) :=
  (upto ((addr % 65536 + n + 65535) / 65536)).map (fun i =>
    let lo := max addr ((addr / 65536 + i) * 65536)
    let hi := min (addr + n) ((addr / 65536 + i + 1) * 65536)
    (lo - addr, hi - lo))

/-- All of the n bytes at the flat address addr of a scratchpad lie below SCRATCH, in banks in scratchpad mode (R119, R141,
R148). -/
def State.scrRange (s : State) (c : Ctx) (addr n : Nat) : Bool :=
  let lo := addr % 2 ^ 60
  if addr / 2 ^ 60 = 3 then lo + n ≤ c.l.scratch && c.wg.scrOk lo n
  else lo % 0x400000 + n ≤ c.l.scratch && (match mget? s.wgs (wgKey c.nk (lo / 0x400000)) with
    | some w => w.scrOk (lo % 0x400000) n
    | none => false)

/-- A range of n bytes at a flat address, aligned to al, that an access of a kind reaches. -/
structure Span where
  addr : Nat
  n    : Nat
  al   : Nat
  kind : AccKind
deriving DecidableEq

/-- The range lies in a scratchpad. -/
def Span.inScr (r : Span) : Bool := r.addr / 2 ^ 60 == 3 || r.addr / 2 ^ 60 == 4

/-- Step 3 of R363 refuses some byte of a range. -/
def State.spanBad (s : State) (c : Ctx) (lane : Nat) (r : Span) : Bool :=
  let lo := r.addr % 2 ^ 60
  r.n != 0 &&
  (if r.inScr then !s.scrRange c r.addr r.n || (s.formParts c none 0 r.addr r.n 1 r.kind lane).1.isLeft
   else 2 ^ 52 < lo + r.n || 6 ≤ r.addr / 2 ^ 60 || !r.kind.pathOk (r.addr / 2 ^ 60) false)

/-- The parts of a range in their translated places: its scratchpad bytes, or its pages, each with what steps 6 and 7 of R363
say of it. -/
def State.spanPages (s : State) (c : Ctx) (lane : Nat) (r : Span) : List (Access × PageAt) × State :=
  let path := r.addr / 2 ^ 60
  let lo := r.addr % 2 ^ 60
  if r.n = 0 then ([], s)
  else if path = 3 then ([(mkAcc lane r.addr path (.scr c.wk lo) 0 r.n (keepOf path none), .ok)], s)
  else if path = 4 then
    ([(mkAcc lane r.addr path (.scr (wgKey c.nk (lo / 0x400000)) (lo % 0x400000)) 0 r.n (keepOf path none), .ok)], s)
  else (pagePieces r.addr r.n).foldl (fun acc p =>
    let (g, pa, s) := acc.2.pageAt c r.kind path (lo + p.1)
    (acc.1 ++ [(mkAcc lane (r.addr + p.1) path (.mem pa) p.1 p.2 (keepOf path none), g)], s)) ([], s)

/-- Steps 3 to 7 of R363 for every byte of some ranges, each step over all of them before the next: the parts of each, or a
fault. -/
def State.spansParts (s : State) (c : Ctx) (rs : List Span) (lane : Nat) : Sum Nat (List (List Access)) × State :=
  if rs.any (s.spanBad c lane) then (.inl 5, s)
  else if rs.any (fun r => r.n != 0 && r.addr % 2 ^ 60 % r.al != 0) then (.inl 4, s)
  else
    let (ps, s) := rs.foldl (fun acc r =>
      let (x, s) := acc.2.spanPages c lane r
      (acc.1 ++ [x], s)) (([] : List (List (Access × PageAt))), s)
    match leastBy PageAt.rank ((ps.flatten.map (·.2)).filter (· != .ok)) with
    | some g => (.inl g.code, s)
    | none => (.inr (ps.map (fun x => x.map (·.1))), s)

/-- The same of one range: the n bytes at the flat address addr, aligned to al. -/
def State.rangeParts (s : State) (c : Ctx) (addr n al : Nat) (k : AccKind) (lane : Nat) :
    Sum Nat (List Access) × State :=
  match s.spansParts c [{ addr := addr, n := n, al := al, kind := k }] lane with
  | (.inl f, s) => (.inl f, s)
  | (.inr ps, s) => (.inr ps.flatten, s)

/-- The accesses of an operation to some ranges where they are served: step 8 of R363 comes after the others. -/
def State.engSpans (s : State) (c : Ctx) (rs : List Span) : Sum Nat (List (List Access)) × State :=
  match s.spansParts c rs 0 with
  | (.inl f, s) => (.inl f, s)
  | (.inr ps, s) => if s.stale c.l then (.inl 8, s) else (.inr ps, s)

/-- The same of one range. -/
def State.engParts (s : State) (c : Ctx) (addr n al : Nat) (k : AccKind) : Sum Nat (List Access) × State :=
  match s.engSpans c [{ addr := addr, n := n, al := al, kind := k }] with
  | (.inl f, s) => (.inl f, s)
  | (.inr ps, s) => (.inr ps.flatten, s)

/-- The same of the range that an element, row or group is read from and the one that it is written to. -/
def State.engMove (s : State) (c : Ctx) (src dst : Span) : Sum Nat (List Access × List Access) × State :=
  match s.engSpans c [src, dst] with
  | (.inl f, s) => (.inl f, s)
  | (.inr (sp :: dp), s) => (.inr (sp, dp.flatten), s)
  | (.inr [], s) => (.inr ([], []), s)

/-- A part of an access cut where lines of g bytes of its place end. -/
def Access.cut (g : Nat) (a : Access) : List Access :=
  let at_ := match a.loc with
    | .mem pa => pa
    | .scr _ off => off
    | .sparse pa .. => pa
  (upto ((at_ % g + a.n + g - 1) / g)).map (fun i =>
    let lo := max at_ ((at_ / g + i) * g)
    let hi := min (at_ + a.n) ((at_ / g + i + 1) * g)
    let d := lo - at_
    { a with
      off := a.off + d
      n := hi - lo
      loc := match a.loc with
        | .mem pa => .mem (pa + d)
        | .scr w off => .scr w (off + d)
        | l => l })

/-- The granularity of poison at a place: a line, or a sector of a scratchpad (R214). -/
def Access.grain (a : Access) : Nat := match a.loc with
  | .scr .. => 32
  | _ => 128

/-- A byte on its way through the engine, with its poison. -/
abbrev EByte := Byte × Option PTag

/-- What the engine reads of a range in its parts (R377). -/
def State.engRead (s : State) (c : Ctx) (ps : List Access) : List EByte × State :=
  (ps.flatMap (fun p => p.cut p.grain)).foldl (fun acc p =>
    let (bs, t, s) := acc.2.readPart c.g.core { p with keep := .l2 }
    (acc.1 ++ bs.map (fun b => (b, t)), s)) ([], s)

/-- The lowest poison among bytes. -/
def poisOf (bs : List EByte) : Option PTag := tagMinL (bs.map (·.2))

/-- The value of bytes. -/
def valOf (bs : List EByte) : Nat := ofBytesLE (bs.map (·.1))

/-- The workgroup's register generation now. -/
def State.wgGen (s : State) (wk : Nat) : Nat := match mget? s.wgs wk with
  | some w => w.gen
  | none => 0

/-- Some block of the workgroup is open now. -/
def State.blockOpen (s : State) (wk : Nat) : Bool := match mget? s.wgs wk with
  | some w => !w.blocks.isEmpty
  | none => false

/-- Reads and logs, in an open block, the line or the 128-byte granule that a write of the engine changes (R132); false when the log
has no room for it. -/
def State.engLog (s : State) (c : Ctx) (a : Access) : Bool × State :=
  if !s.blockOpen c.wk then (true, s)
  else match a.loc with
    | .mem pa =>
      let (e, s) := s.linePre c.wk c.g.core (pa / 128) false
      s.logFirst c.wk e c.sp.pc
    | .scr w off =>
      let o := off / 128 * 128
      if s.logsNew c.wk (.granule w o 0#1024 []) then
        let (bs, ps, s) := (upto 4).foldl (fun (acc : List Byte × List (Option PTag) × State) i =>
          let (b, p, s) := acc.2.2.scrLook w (o + 32 * i) 32
          (acc.1 ++ b, acc.2.1 ++ [p], s)) ([], [], s)
        s.logFirst c.wk (.granule w o (BitVec.ofNat 1024 (ofBytesLE bs)) ps) c.sp.pc
      else (true, s)
    | .sparse .. => (true, s)

/-- A write of the engine to a scratchpad comes under an old generation (R131). -/
def State.engOld (s : State) (c : Ctx) (gen : Nat) (p : Access) : Bool :=
  s.wgGen c.wk != gen && (match p.loc with
  | .scr .. => true
  | _ => false)

/-- Writes bytes that the engine has read or made, line by line: each logged first, those to a scratchpad dropped and
counted once the generation has moved on (R131, R132, R391); what is written is not published yet (R197). -/
def State.engWrite (s : State) (c : Ctx) (gen : Nat) (ps : List Access) (bs : List EByte) : State :=
  (ps.flatMap (·.cut 128)).foldl (fun s p =>
    if s.engOld c gen p then s.late c.wk
    else
      let (ok, s) := s.engLog c p
      if !ok then s
      else (p.cut p.grain).foldl (fun s q =>
        let b := (bs.drop q.off).take q.n
        s.writePart c.g.core c.l.space { q with keep := .l2 } (b.map (·.1)) (poisOf b)) s)
    (s.updGroup c.gk (fun g => { g with pub := mergePub g.pub (pubOf ps) }))

/-! ## CPY (R379) -/

/-- The two ranges of lane l of a CPY, or its fault (R363, R379). -/
def State.cpyLane (s : State) (c : Ctx) (d a b l : Nat) : Sum Nat (List Access × List Access) × State :=
  let len := c.g.lane d l
  let (da, pa) := c.g.pair a l
  let (sa, pb) := c.g.pair b l
  if len.p.isSome || pa.isSome || pb.isSome then (.inl 9, s)
  else if 4096 < len.w.toNat then (.inl 5, s)
  else match s.spansParts c [{ addr := da, n := len.w.toNat, al := 1, kind := .store },
      { addr := sa, n := len.w.toNat, al := 1, kind := .load }] l with
    | (.inl f, s) => (.inl f, s)
    | (.inr (dp :: sp), s) => (.inr (dp, sp.flatten), s)
    | (.inr [], s) => (.inr ([], []), s)

/-- CPY (R379). -/
def execCpy (d a b : BitVec 7) (q : BitVec 2) (s : State) : Host.Outcome State Fault Refusal :=
  s.issue (.cpy d a b q) anyMode fun c =>
    if c.act = 0#32 then s.advance c
    else if c.g.flagFull c.sp.setB then s.stallBy c 2
    else if 8 ≤ c.g.queueLen q.toNat then s.stallBy c 7
    else if (lanesOf c.act).any (fun l =>
        let n := (c.g.lane d.toNat l).w.toNat
        n ≤ 4096 && (s.flatBusy c (c.g.pair a.toNat l).1 n || s.flatBusy c (c.g.pair b.toNat l).1 n)) then s.stallBy c 28
    else
      let (fs, s) := (lanesOf c.act).foldl (fun acc l =>
        let (r, s) := acc.2.cpyLane c d.toNat a.toNat b.toNat l
        (acc.1 ++ [(l, r)], s)) (([] : List (Nat × Sum Nat (List Access × List Access))), s)
      let code : Nat → Option Nat := fun l => fs.findSome? (fun e => match e.2 with
        | .inl k => if e.1 = l then some k else none
        | .inr _ => none)
      let parts := fs.filterMap (fun e => match e.2 with
        | .inr p => some p
        | .inl _ => none)
      if parts.isEmpty then s.endInstr c code
      else
        let s := s.updGroup c.gk (fun g => { g with pub := mergePub g.pub (pubOf (parts.flatMap (·.1))) })
        s.enqueue c (c.qop q.toNat (.cpy parts)) code

/-! ## CPYB, CPYX and QFENCE at issue (R380, R390) -/

/-- Issues a descriptor copy: descriptor pair d, destination or contiguous pair a, source or list pair b. -/
def State.descCopy (s : State) (c : Ctx) (d a b : BitVec 7) (q : BitVec 3) (op : Nat → Nat → Nat → EngOp) : State :=
  if c.g.flagFull c.sp.setB then s.stallBy c 2
  else if 8 ≤ c.g.queueLen q.toNat then s.stallBy c 7
  else
    let l := c.g.low
    let (_, pd) := c.g.pair d.toNat l
    let (av, pa) := c.g.pair a.toNat l
    let (bv, pb) := c.g.pair b.toNat l
    if s.flatBusy c av 1 || s.flatBusy c bv 1 || s.flatBusy c (c.g.pair d.toNat l).1 64 then s.stallBy c 28
    else if pd.isSome || pa.isSome || pb.isSome then s.raiseAll c 9
    else match s.formAccess c 0 d.toNat 64 .store l with
      | (.inl f, s) => s.raiseAll c f
      | (.inr _, s) =>
        let dv := (c.g.pair d.toNat l).1
        s.enqueue c { c.qop q.toNat (op dv av bv) with hash := ahash av } noFault

/-- CPYB (R380, R382). -/
def execCpyb (d a b : BitVec 7) (q : BitVec 3) (s : State) : Host.Outcome State Fault Refusal :=
  s.issue (.cpyb d a b q) anyMode fun c => s.descCopy c d a b q .cpyb

/-- CPYX.G, gather (R388). -/
def execCpyxG (d a b : BitVec 7) (q : BitVec 3) (s : State) : Host.Outcome State Fault Refusal :=
  s.issue (.cpyxG d a b q) anyMode fun c => s.descCopy c d a b q (.cpyx false)

/-- CPYX.S, scatter (R388). -/
def execCpyxS (d a b : BitVec 7) (q : BitVec 3) (s : State) : Host.Outcome State Fault Refusal :=
  s.issue (.cpyxS d a b q) anyMode fun c => s.descCopy c d a b q (.cpyx true)

/-- QFENCE (R390): operations queued later in a named queue start after every one outstanding in a named queue now. -/
def execQfence (m : BitVec 6) (s : State) : Host.Outcome State Fault Refusal :=
  s.issue (.qfence m) anyMode fun c =>
    let named := (upto 6).filter (fun q => m.getLsbD q)
    let ids := (c.g.ops.filter (fun o => named.contains o.q)).map (·.id)
    (s.updGroup c.gk (fun g => { g with
      fences := named.foldl (fun f q => mput f q (addNew (mgetD f q []) ids)) g.fences })).advance c
where
  /-- Adds what a list does not hold. -/
  addNew (l : List Nat) (xs : List Nat) : List Nat := l ++ xs.filter (fun x => !l.contains x)

/-! ## Descriptors -/

/-- The fields of a copy descriptor (R380). -/
structure Desc where
  opc   : Nat
  len   : Nat
  rows  : Nat
  rdest : Nat
  ss    : Int
  ds    : Int
  base  : Nat
  limit : Nat
  rest  : Nat

/-- The descriptor of 64 bytes. -/
def descOf (v : Nat) : Desc :=
  { opc := nbits v 31 0, len := nbits v 63 32, rows := nbits v 95 64, rdest := nbits v 127 96,
    ss := sextInt 64 (nbits v 191 128), ds := sextInt 64 (nbits v 255 192), base := nbits v 319 256,
    limit := nbits v 351 320, rest := nbits v 383 352 + nbits v 511 448 }

def Desc.mode (d : Desc) : Nat := nbits d.opc 2 0
def Desc.fmt (d : Desc) : Nat := nbits d.opc 7 3
def Desc.nz (d : Desc) : Nat := nbits d.opc 14 8
def Desc.p24 (d : Desc) : Bool := nbit d.opc 15
def Desc.lw (d : Desc) : Bool := nbit d.opc 16
def Desc.pl (d : Desc) : Bool := nbit d.opc 17
def Desc.esz (d : Desc) : Nat := nbits d.opc 20 18
def Desc.rop (d : Desc) : Nat := nbits d.opc 22 21

/-- The descriptor is malformed for CPYB (x false) or CPYX (x true) (R380, R6). -/
def Desc.bad (d : Desc) (x : Bool) : Bool :=
  let m := d.mode
  let w := fmtWidth d.fmt
  let rowMode := m ≤ 4
  let fmtMode := 1 ≤ m && m ≤ 4
  nbits d.opc 31 23 != 0 || d.rest != 0 || (x != (m == 5)) ||
  (if m = 0 then d.len = 0 || 2 ^ 24 < d.len
   else if m ≤ 4 then d.len = 0 || 65536 < d.len
   else if m = 5 then d.len = 0 || 2 ^ 24 - 1 < d.len
   else d.len = 0 || 2 ^ 23 < d.len) ||
  (if rowMode then d.rows = 0 || 65536 < d.rows else d.rows != 0) ||
  (if m = 6 then 4096 ≤ d.rdest else if m = 7 then 2 ^ 24 ≤ d.rdest else d.rdest != 0) ||
  (!rowMode && (d.ss != 0 || d.ds != 0)) ||
  (rowMode && d.base != 0) || ((rowMode || m = 6) && d.limit != 0) ||
  (if fmtMode then w = 0 else d.fmt != 0) ||
  (d.lw && !((m = 1 || m = 2) && 1 ≤ d.fmt && d.fmt ≤ 0x0A)) ||
  (d.pl && !(m = 3 || m = 4)) ||
  (if m = 3 ∨ m = 4 then d.nz = 0 || 896 < d.nz * w || d.fmt = 1 else d.nz != 0) ||
  (d.p24 && !(m = 4 && d.nz = 64)) ||
  (m != 5 && d.esz != 0) ||
  (if m = 6 then 2 ≤ d.rop || d.len % 64 != 0 || d.base % 64 != 0
   else if m = 7 then d.rop = 3 || (d.rop = 2 && (8192 < d.len || d.base != 0 || d.limit != 0))
   else d.rop != 0)

/-! ## Groups of 128 elements (R383, R294, R296 to R298) -/

/-- A layout of R383. -/
inductive Layout where
  | stream
  | words
  | plane
  | line
deriving DecidableEq

/-- Bytes and alignment of a group. -/
def Layout.bytes (y : Layout) (w : Nat) : Nat := match y with
  | .words | .line => 128
  | _ => 16 * w

def Layout.align (y : Layout) : Nat := if y = .line then 128 else 16

/-- Element i of a group of width w whose bytes have the value v. -/
def Layout.get (y : Layout) (w v i : Nat) : Nat := match y with
  | .stream => v / 2 ^ (w * i) % 2 ^ w
  | .words => v / 2 ^ (32 * (i % 32) + w * (i / 32)) % 2 ^ w
  | .plane => ((upto w).map (fun j => v / 2 ^ (128 * j + i) % 2 * 2 ^ j)).foldl (· + ·) 0
  | .line => lineElem (BitVec.ofNat 1024 v) w i

/-- The value of a group of 128 elements e in a layout; keep says which of them a line holds. -/
def Layout.put (y : Layout) (w : Nat) (e : Nat → Nat) (keep : List Nat) : Nat := match y with
  | .stream => ((upto 128).map (fun i => e i % 2 ^ w * 2 ^ (w * i))).foldl (· + ·) 0
  | .words => ((upto 128).map (fun i => e i % 2 ^ w * 2 ^ (32 * (i % 32) + w * (i / 32)))).foldl (· + ·) 0
  | .plane => ((upto 128).flatMap (fun i => (upto w).map (fun j =>
      e i / 2 ^ j % 2 * 2 ^ (128 * j + i)))).foldl (· + ·) 0
  | .line =>
    (keep.map (2 ^ ·)).foldl (· + ·) 0 +
      (keep.zipIdx.map (fun p => e p.1 % 2 ^ w * 2 ^ (128 + w * p.2))).foldl (· + ·) 0

/-- The magnitude by which compaction ranks code x of format f (R298): NaNs above every number. -/
def magnitude (f x : Nat) : Nat :=
  if f = 9 then x
  else if f ≤ 8 then (sextInt f x).natAbs
  else
    let fm := if f = 0x0A then e4m3 else if f = 0x0B then f16 else if f = 0x0C then bf16 else f32
    if (fm.dec x).isNan then 2 ^ 32 else x % 2 ^ (fm.eb + fm.mb)

/-- The n elements of greatest magnitude among is, in index order (R298). -/
def keepMost (f n : Nat) (e : Nat → Nat) (is : List Nat) : List Nat :=
  sortBy (fun i => i) ((sortBy (fun i => 2 ^ 33 - magnitude f (e i)) is).take n)

/-- The elements that compaction keeps of a group (R298). -/
def compactKeep (f n : Nat) (p24 : Bool) (e : Nat → Nat) : List Nat :=
  if p24 then (upto 32).flatMap (fun q => keepMost f 2 e [4 * q, 4 * q + 1, 4 * q + 2, 4 * q + 3])
  else keepMost f n e (upto 128)

/-- Source and destination layouts of a mode (R382). -/
def Desc.layouts (d : Desc) : Layout × Layout :=
  let flat := if d.lw then Layout.words else Layout.stream
  let sp := if d.pl then Layout.plane else Layout.stream
  match d.mode with
  | 1 => (flat, .plane)
  | 2 => (.plane, flat)
  | 3 => (.line, sp)
  | _ => (sp, .line)

/-! ## Running an operation -/

/-- How an operation stands: the state, rows or entries done, entries and lines in error, bits of STATUS, the fault that
stopped it, and the bytes written. -/
structure Run where
  s     : State
  done  : Nat
  err   : Nat
  bad   : Bool
  pois  : Bool
  oor   : Bool
  skip  : Bool
  code  : Nat
  bytes : Nat
  /-- The parts of the destination written so far, in order. -/
  dst   : List Access

def Run.start (s : State) : Run :=
  { s := s, done := 0, err := 0, bad := false, pois := false, oor := false, skip := false, code := 0, bytes := 0, dst := [] }

/-- Moves one range of n bytes from src to dst; a fault stops the operation before any of it is written. -/
def Run.plain (r : Run) (c : Ctx) (gen src dst n : Nat) : Run :=
  if r.code ≠ 0 then r
  else match r.s.engMove c { addr := src, n := n, al := 1, kind := .load } { addr := dst, n := n, al := 1, kind := .store } with
    | (.inl f, s) => { r with s := s, code := f }
    | (.inr (sp, dp), s) =>
      let (bs, s) := s.engRead c sp
      { r with
        s := s.engWrite c gen dp bs, pois := r.pois || (poisOf bs).isSome, bytes := r.bytes + n, dst := r.dst ++ dp }

/-- Moves one group of 128 elements from src to dst in the layouts of the descriptor (R383, R384). -/
def Run.group (r : Run) (c : Ctx) (gen : Nat) (d : Desc) (src dst : Nat) : Run :=
  if r.code ≠ 0 then r
  else
    let w := fmtWidth d.fmt
    let (ys, yd) := d.layouts
    match r.s.engMove c { addr := src, n := ys.bytes w, al := ys.align, kind := .load }
        { addr := dst, n := yd.bytes w, al := yd.align, kind := .store } with
    | (.inl f, s) => { r with s := s, code := f }
    | (.inr (sp, dp), s) =>
      let (bs, s) := s.engRead c sp
      let v := valOf bs
      let t := poisOf bs
      let e := fun i => ys.get w v i
      let n := lineCount (BitVec.ofNat 1024 v)
      let badLine := d.mode = 3 && (d.nz < n || 896 < n * w)
      let keep := if yd = .line then compactKeep d.fmt d.nz d.p24 e else []
      let out := if badLine then 0 else yd.put w e keep
      let s := s.engWrite c gen dp ((bytesLE (yd.bytes w) out).map (fun b => (b, t)))
      { r with
        s := s, bad := r.bad || badLine, err := if badLine then r.err + 1 else r.err, pois := r.pois || t.isSome
        bytes := r.bytes + yd.bytes w, dst := r.dst ++ dp }

/-- The start of row r at a flat address with a stride; none when the sum leaves bits [59:0] (R382). -/
def rowAt (addr : Nat) (stride : Int) (r : Nat) : Option Nat :=
  let lo : Int := ((addr % 2 ^ 60 : Nat) : Int) + stride * r
  if lo < 0 ∨ 2 ^ 60 ≤ lo then none else some (addr / 2 ^ 60 * 2 ^ 60 + lo.toNat)

/-- One row of modes 0 to 4 (R382). -/
def Run.row (r : Run) (c : Ctx) (gen : Nat) (d : Desc) (src dst i : Nat) : Run :=
  if r.code ≠ 0 then r
  else match rowAt src d.ss i, rowAt dst d.ds i with
    | some a, some b =>
      let r := if d.mode = 0 then r.plain c gen a b d.len
        else
          let (ys, yd) := d.layouts
          let w := fmtWidth d.fmt
          (upto d.len).foldl (fun r g =>
            match rowAt a (ys.bytes w) g, rowAt b (yd.bytes w) g with
            | some a, some b => r.group c gen d a b
            | _, _ => if r.code = 0 then { r with code := 5 } else r) r
      if r.code = 0 then { r with done := r.done + 1 } else r
    | _, _ => { r with code := 5 }

/-- A gather writes a made element of e bytes at sa, poisoned with t: an entry that is not valid takes no address check, and
where the element cannot be written it stays as it is (R389, log entry 175). -/
def Run.fill (r : Run) (c : Ctx) (gen : Nat) (sa : Option Nat) (e : Nat) (t : Option PTag) : Run :=
  match sa with
  | none => r
  | some a => match r.s.engParts c a e e .store with
    | (.inl _, _) => r
    | (.inr dp, s) =>
      let (v, s) := match t with
        | none => (bytesLE e 0, s)
        | some _ => ((upto e).map (fun j => Config.freeByte (s.draws + j)), s.draw e)
      { r with s := s.engWrite c gen dp (v.map (fun b => (b, t))), bytes := r.bytes + e, dst := r.dst ++ dp }

/-- One entry of an index copy (R388): side is the contiguous side, list the index list. -/
def Run.entry (r : Run) (c : Ctx) (gen : Nat) (d : Desc) (scatter : Bool) (side list i : Nat) : Run :=
  if r.code ≠ 0 then r
  else
    let e : Nat := 2 ^ d.esz
    let handled := fun (r : Run) => if r.code = 0 then { r with done := r.done + 1 } else r
    match rowAt list 4 i with
    | none => { r with code := 5 }
    | some la => match r.s.engParts c la 4 4 .load with
      | (.inl f, s) => { r with s := s, code := f }
      | (.inr lp, s) =>
        let (lb, s) := s.engRead c lp
        let r := { r with s := s }
        let x := valOf lb
        let fill := fun (r : Run) (t : Option PTag) => if scatter then r else r.fill c gen (rowAt side e i) e t
        match poisOf lb with
        | some t => handled (fill { r with pois := true } (some t))
        | none =>
          if x = 0xFFFFFFFF then handled { r with skip := true }
          else if d.limit ≤ x then handled (fill { r with oor := true, err := r.err + 1 } none)
          else match rowAt d.base e x, rowAt side e i with
            | some ba, some sa =>
              let (from_, to_) := if scatter then (sa, ba) else (ba, sa)
              (match r.s.engMove c { addr := from_, n := e, al := e, kind := .load }
                  { addr := to_, n := e, al := e, kind := .store } with
              | (.inl f, s) => { r with s := s, code := f }
              | (.inr (sp, dp), s) =>
                let (bs, s) := s.engRead c sp
                handled { r with
                  s := s.engWrite c gen dp bs, pois := r.pois || (poisOf bs).isSome, bytes := r.bytes + e, dst := r.dst ++ dp })
            | _, _ => { r with code := 5 }

/-- The whole of a local operation that started with these descriptor bytes. -/
def QOp.runLocal (o : QOp) (c : Ctx) (s : State) : Run :=
  if o.fcode ≠ 0 then { Run.start s with code := o.fcode }
  else match o.op with
    | .cpy parts =>
      if s.stale c.l then { Run.start s with code := 8 }
      else parts.foldl (fun r p =>
        let (bs, s) := r.s.engRead c p.2
        { r with s := s.engWrite c o.gen p.1 bs, bytes := r.bytes + bs.length, dst := r.dst ++ p.1 }) (Run.start s)
    | .cpyb _ dst src =>
      let d := descOf (o.bound.getD 0)
      (upto d.rows).foldl (fun r i => r.row c o.gen d src dst i) (Run.start s)
    | .cpyx scatter _ side list =>
      let d := descOf (o.bound.getD 0)
      let e := 2 ^ d.esz
      if list % 4 ≠ 0 || side % e ≠ 0 || d.base % e ≠ 0 then { Run.start s with code := 4 }
      else (upto d.len).foldl (fun r i => r.entry c o.gen d scatter side list i) (Run.start s)
    | _ => Run.start s

/-- The bits of STATUS (R381). -/
def statusBits (done err code rerr : Nat) (skip pois bad oor : Bool) : Nat :=
  done % 2 ^ 24 * 2 ^ 40 + min err 0xFFFF * 2 ^ 24 + code * 2 ^ 16 + rerr * 2 ^ 6 + b2n skip * 32 + b2n pois * 16
    + b2n bad * 8 + b2n oor * 4 + b2n (code ≠ 0 || (rerr ≠ 0 && rerr ≠ 4)) * 2 + 1

/-- The descriptor's address, of the operations that have one. -/
def EngOp.desc? : EngOp → Option Nat
  | .cpyb d _ _ => some d
  | .cpyx _ d _ _ => some d
  | _ => none

/-- Writes STATUS in one write; answers the code of its own rejection, if it is rejected (R381). -/
def State.writeStatus (s : State) (c : Ctx) (o : QOp) (v : Nat) : Nat × State :=
  match o.op.desc? with
  | none => (0, s)
  | some d =>
    match s.engParts c (d + 0x30) 8 8 .store with
      | (.inl f, s) => (f, s)
      | (.inr ps, s) => (0, s.engWrite c o.gen ps ((bytesLE 8 v).map (fun b => (b, none))))

/-- Takes a performed operation out of its queue, counts its flag down and keeps the fault it met for delivery (R378);
under a changed generation the flag stays as the rollback leaves it and the fault is discarded (R391). -/
def State.finishOp (s : State) (c : Ctx) (o : QOp) (code : Nat) (escape : Bool) : State :=
  let live := s.wgGen c.wk == o.gen
  let s := s.updGroup c.gk (fun g => { g with
    ops := g.ops.filter (fun p => p.id != o.id)
    delayed := if live && (code ≠ 0 || escape) then
        g.delayed ++ [{ id := o.id, flag := o.flag, code := code, escape := escape }] else g.delayed })
  let e := (if o.q = 5 then 2 else 1) * 4096 + c.g.core
  let s := s.updWg c.wk (fun w => { w with served := if w.served.contains e then w.served else e :: w.served })
  if live then s.flagDown c.gk o.flag o.hash else s

/-! ## Starting an operation -/

/-- Is this a queue of the copy engine with an operation that may start now (R188 to R190, R377)? -/
def Group.startable (g : Group) (q : Nat) : Option QOp :=
  match g.ops.find? (fun o => o.q == q) with
  | none => none
  | some o =>
    if !o.started && o.after.all (fun i => !g.ops.any (fun p => p.id == i)) &&
       !g.pend.any (fun p => p.id < o.id && !p.acc.isEmpty) then some o else none

/-- Some group of the core has an operation of QM that may start (R377). -/
def State.qmReady (s : State) (core : Nat) : Bool :=
  s.groups.any (fun e => e.2.core == core && (e.2.startable 4).isSome)

/-- The bytes that an operation is to write. -/
def QOp.planned (o : QOp) : Nat :=
  match o.op with
  | .cpy parts => ((parts.flatMap (·.1)).map (·.n)).foldl (· + ·) 0
  | .cpyb .. =>
    let d := descOf (o.bound.getD 0)
    if d.mode = 0 then d.rows * d.len
    else if d.mode ≤ 4 then d.rows * d.len * (d.layouts.2.bytes (fmtWidth d.fmt))
    else d.len
  | .cpyx .. => let d := descOf (o.bound.getD 0); d.len * 2 ^ d.esz
  | _ => 0

/-- Offers the COPYI or COPYD record of an operation (R235). -/
def State.emitCopy (s : State) (c : Ctx) (o : QOp) (kind bytes : Nat) : State :=
  s.emitL c.l c.g.die 1 c.g.core kind (o.q + o.flag % 16 * 8 + c.g.slot * 2 ^ 7 + bytes % 2 ^ 32 * 2 ^ 11)

/-- Changes an operation of a group. -/
def State.updOp (s : State) (gk id : Nat) (f : QOp → QOp) : State :=
  s.updGroup gk (fun g => { g with ops := g.ops.map (fun o => if o.id = id then f o else o) })

/-- The descriptor read at the start of an operation: its bytes, and the fault that stops the operation (R380). -/
def State.bindDesc (s : State) (c : Ctx) (o : QOp) : Nat × Nat × State :=
  match o.op.desc? with
  | none => (0, 0, s)
  | some da =>
    match s.engParts c da 64 64 .load with
      | (.inl f, s) => (0, f, s)
      | (.inr ps, s) =>
        let (bs, s) := s.engRead c ps
        let v := valOf bs
        let x := match o.op with
          | .cpyx .. => true
          | _ => false
        if (poisOf bs).isSome then (v, 9, s) else if (descOf v).bad x then (v, 1, s) else (v, 0, s)

/-- The ranges that a copy whose descriptor is read may reach (R382, R385, R388). -/
def QOp.ranges (o : QOp) : List (Nat × Nat) :=
  let d := descOf (o.bound.getD 0)
  let rows := fun (addr : Nat) (stride : Int) (n : Nat) =>
    (upto d.rows).filterMap (fun i => (rowAt addr stride i).map (fun a => (a, n)))
  match o.op with
  | .cpyb _ dst src =>
    if d.mode = 0 then rows src d.ss d.len ++ rows dst d.ds d.len
    else if d.mode ≤ 4 then
      rows src d.ss (d.len * d.layouts.1.bytes (fmtWidth d.fmt)) ++ rows dst d.ds (d.len * d.layouts.2.bytes (fmtWidth d.fmt))
    else if d.rop = 1 then [(dst, d.len)] else [(src, d.len)]
  | .cpyx _ _ side list => [(side, d.len * 2 ^ d.esz), (list, d.len * 4), (d.base, d.limit * 2 ^ d.esz)]
  | _ => []

/-- A BANKM issued before the operation is not finished on a bank that it may reach (R151). -/
def State.opBankWait (s : State) (c : Ctx) (o : QOp) : Bool :=
  let before := s.groups.any (fun e => e.2.wg == c.wk && e.2.splits.any (fun p => match p.busy with
    | some (.bankm _ _ _ _ _ n) => decide (n < o.id)
    | _ => false))
  before && o.ranges.any (fun r => s.flatBusy c r.1 (min r.2 0x400000))

/-- The operation is of mode 6 or 7, which runs over a link (R385). -/
def QOp.remote (o : QOp) : Bool := match o.op with
  | .cpyb .. => decide (6 ≤ (descOf (o.bound.getD 0)).mode)
  | _ => false

/-- The started operation at the head of a queue. -/
def Group.running (g : Group) (q : Nat) : Option QOp :=
  match g.ops.find? (fun o => o.q == q) with
  | some o => if o.started then some o else none
  | none => none

/-- The hash of the operation's first destination byte (R258). -/
def Run.hash (r : Run) (o : QOp) : Nat := match r.dst with
  | a :: _ => ahash a.addr
  | [] => o.hash

/-- Every line and every sector of the parts of a destination receives one full write of undefined values with poison tag t,
logged first in an open block (R212). -/
def State.poisonDst (s : State) (c : Ctx) (gen : Nat) (ps : List Access) (t : PTag) : State :=
  let whole := fun (p : Access) => let g := p.grain; match p.loc with
    | .mem pa => { p with loc := .mem (pa / g * g), off := 0, n := g }
    | .scr w off => { p with loc := .scr w (off / g * g), off := 0, n := g }
    | _ => p
  let all := ((ps.flatMap (fun p => p.cut p.grain)).map whole).foldl (fun l p =>
    if l.any (fun q => q.loc == p.loc) then l else l ++ [p]) []
  all.foldl (fun s p =>
    (s.engWrite c gen [p] ((upto p.n).map (fun i => (Config.freeByte (s.draws + i), some t)))).draw p.n) s

/-- A checker of the copy engine or parity of its buffers has mismatched in operation o: none of its ordinary writes is made,
its whole destination is poisoned with class 3, and the trap of R212 is kept for delivery. STATUS is an ordinary write (log
entry 136). -/
def State.copyMismatch (s : State) (c : Ctx) (o : QOp) (f : Flaw) (ps : List Access) : State :=
  let w := s.ownerOf c.wk
  let (k, s) := (s.dropFlaws (· == f.at_)).record 3 0x04 1 false 0 (c.g.core + 0x40 * 256) w.1 f.synd w.2
  ((s.poisonDst c o.gen ps (mkTag 3 k)).finishOp c o 0x0B false).emitCopy c o 0x11 0

/-- Ends a local operation: its writes are made as far as it gets, then STATUS, then its flag (R377, R381). -/
def Run.finish (r : Run) (c : Ctx) (o : QOp) : State :=
  let (k, s) := r.s.writeStatus c o (statusBits r.done r.err r.code 0 r.skip r.pois r.bad r.oor)
  (s.finishOp c o (if r.code ≠ 0 then r.code else k) false).emitCopy c o 0x11 r.bytes

/-- The context of a running operation: the group's, at the word of its instruction. -/
def Ctx.atOp (c : Ctx) (o : QOp) : Ctx := { c with sp := { c.sp with pc := o.pc } }

end Sys2Proof.Machine
end

