-- ==== Sys2Proof/Machine/Matrix.lean ====
section
/-! DEFINITION. The matrix engine (R392 to R407): the instructions that queue operations with their checks, and the
operations on tiles. -/

namespace Sys2Proof.Machine

/-! ## Operands and scales -/

/-- Formats that take a scale: E4M3, BQ1 to BQ8 and NQ8 (R295). -/
def narrowFmt (f : Nat) : Bool := 1 ≤ f && f ≤ 10

/-- A scale of the A side, or of the B side, applies (R395). -/
def scalesA (v : BitVec 64) : Bool := slotSCL v && narrowFmt (slotFA v)
def scalesB (v : BitVec 64) : Bool := slotSCL v && narrowFmt (slotFB v)

/-- The scale registers that an instruction reads; b says whether it has a B side. -/
def scaleRegs (v : BitVec 64) (b : Bool) : List Nat :=
  (if scalesA v then [slotSA v, slotSA v + 1] else []) ++ (if b && scalesB v then [slotSB v] else [])

/-- The scale 1.0. -/
def oneVal : Val := { w := 0x3F800000#32, p := none }

/-- The scales at issue: those of the 64 rows, then that of B (R395). -/
def Ctx.scales (c : Ctx) (v : BitVec 64) (b : Bool) : List Val :=
  (upto 64).map (fun m => if scalesA v then c.g.lane (slotSA v + m / 32) (m % 32) else oneVal) ++
    [if b && scalesB v then c.g.lane (slotSB v) 0 else oneVal]

/-- MMA and MMACK accept the slot (R396). -/
def slotAccepted (v : BitVec 64) : Bool :=
  let fa := slotFA v
  let fb := slotFB v
  let fc := slotFC v
  v != 0#64 &&
  (if 11 ≤ fa then fa = fb && slotAM v ≤ 1 && fc != 1
   else narrowFmt fa && narrowFmt fb && slotAM v = 1 && (fc != 1 || (fa ≤ 9 && fb ≤ 9 && !slotSCL v))) &&
  (slotNZ v = 0 || (slotK v = 128 && fb != 1))

/-- Bytes of the A and the B operand (R394). -/
def bytesA (v : BitVec 64) : Nat := 8 * fmtWidth (slotFA v) * slotK v
def bytesB (v : BitVec 64) : Nat := if slotNZ v = 0 then 8 * fmtWidth (slotFB v) * slotK v else 8192

/-- The fault of an operand word for n bytes, if it has one (R393). -/
def Ctx.operandBad (c : Ctx) (w n : Nat) : Option Nat :=
  match w / 2 ^ 30 with
  | 0 =>
    let o := w % 2 ^ 30
    if c.l.scratch < o + n || !c.wg.scrOk o n then some 5 else if o % 128 ≠ 0 then some 4 else none
  | 1 =>
    let o := w % 2 ^ 17
    let fifo := match mget? c.wg.banks (nbits w 21 17) with
      | some b => b.mode == .fifo
      | none => false
    if nbits w 29 22 ≠ 0 || !fifo || 0x20000 < o + n then some 5 else if o % 128 ≠ 0 then some 4 else none
  | _ => some 5

/-- What the engine reads of an operand: its value and the lowest tag of its sectors; errors there are found (R436). -/
def State.readOperand (s : State) (wk w n : Nat) : Nat × Option PTag × State :=
  if w / 2 ^ 30 = 0 then
    (let (b, p, s) := (upto ((n + 127) / 128)).foldl (fun (acc : List Byte × Option PTag × State) i =>
       let (x, t, s) := acc.2.2.scrLook wk (w % 2 ^ 30 + 128 * i) (min 128 (n - 128 * i))
       (acc.1 ++ x, tagMin acc.2.1 t, s)) ([], none, s)
     (ofBytesLE b, p, s))
  else
    let a := nbits w 21 17 * 0x20000 + w % 2 ^ 17
    let s := s.checkSram wk a n
    match mget? s.wgs wk with
    | some g => (let (b, p) := g.bankRead a n
                 (ofBytesLE b, p, s))
    | none => (0, none, s)

/-- A BANKM is not finished on a bank that an operand word names (R151). -/
def State.operandBusy (s : State) (c : Ctx) (w n : Nat) : Bool :=
  match w / 2 ^ 30 with
  | 0 => s.scrBusy c (w % 2 ^ 30) n
  | 1 => s.bankBusy c.wk (nbits w 21 17)
  | _ => false

/-! ## Issue -/

/-- The flag of a matrix instruction is full, a scale register is due, or the group's queue is full (R270, R398): the stall
reason, 24 where the queue waits for an engine that a full buffer holds back (R243, log entry 137). -/
def State.matrixWait (s : State) (c : Ctx) (flag : Nat) (regs : List Nat) : Option Nat :=
  if c.g.flagFull flag then some 2
  else if c.g.pendingOn regs then some 3
  else if 8 ≤ c.g.queueLen 5 then some (if s.latched c.l.part 2 c.g.core then 24 else 6)
  else none

/-- Queues a matrix operation. -/
def State.matrixOp (s : State) (c : Ctx) (op : EngOp) : State := s.enqueue c (c.qop 5 op) noFault

/-- MMA and MMACK (R397, R399, R400): of two bad operand words the code that the table of R397 names first is raised (log
entry 27). -/
def State.mmaOp (s : State) (c : Ctx) (chk : Bool) (f : BitVec 3) (t : BitVec 4) (a b : BitVec 7) : State :=
  let v := c.slot f
  let rs := scaleRegs v true
  match s.matrixWait c c.sp.setB rs with
  | some r => s.stallBy c r
  | none =>
    let x := c.g.lane a.toNat c.g.low
    let y := c.g.lane b.toNat c.g.low
    if s.operandBusy c x.w.toNat (bytesA v) || s.operandBusy c y.w.toNat (bytesB v) then s.stallBy c 28
    else if rs.any (fun r => c.budget ≤ r) then s.raiseAll c 3
    else if !slotAccepted v || (chk && slotFC v != 0) then s.raiseAll c 1
    else if x.p.isSome || y.p.isSome then s.raiseAll c 9
    else match c.operandBad x.w.toNat (bytesA v), c.operandBad y.w.toNat (bytesB v) with
      | none, none => s.matrixOp c (.mma chk f.toNat t.toNat x.w.toNat y.w.toNat (c.scales v true))
      | p, q => s.raiseAll c (if p = some 5 ∨ q = some 5 then 5 else 4)

/-- MMA (R399). -/
def execMma (f : BitVec 3) (t : BitVec 4) (a b : BitVec 7) (s : State) : Host.Outcome State Fault Refusal :=
  s.issue (.mma f t a b) anyMode fun c => s.mmaOp c false f t a b

/-- MMACK (R400). -/
def execMmack (f : BitVec 3) (t : BitVec 4) (a b : BitVec 7) (s : State) : Host.Outcome State Fault Refusal :=
  s.issue (.mmack f t a b) anyMode fun c => s.mmaOp c true f t a b

/-- MZERO (R401). -/
def execMzero (m : BitVec 16) (s : State) : Host.Outcome State Fault Refusal :=
  s.issue (.mzero m) anyMode fun c => match s.matrixWait c c.sp.setB [] with
    | some r => s.stallBy c r
    | none => s.matrixOp c (.mzero m.toNat)

/-- Steps 1 to 7 of R363 for a range of n bytes through slot h and register a, aligned to al (R397 step 5, R402). -/
def State.formRange (s : State) (c : Ctx) (h a n al : Nat) (k : AccKind) (l : Nat) : Sum Nat (List Access) × State :=
  if h = 0 then
    let (addr, p) := c.g.pair a l
    if p.isSome then (.inl 9, s) else s.rangeParts c addr n al k l
  else
    let v := c.g.lane a l
    if v.p.isSome then (.inl 9, s)
    else match mget? c.wg.handles h with
      | none => (.inl 6, s)
      | some hd =>
        if hd.limit < v.w.toNat + n - 1 then (.inl 6, s)
        else match s.rangeParts c (hd.path * 2 ^ 60 + (hd.base + v.w.toNat) % 2 ^ 60) n al k l with
          | (.inl 4, s) => (.inl 4, s)
          | (r, s) => if k.rights (some hd) then (r, s) else (.inl 5, s)

/-- Issues MLD, MST or MSTN on a range of n bytes (R402, R403). -/
def State.tileMove (s : State) (c : Ctx) (a : BitVec 7) (h : BitVec 4) (n : Nat) (k : AccKind)
    (go : State → List Access → State) : State :=
  if match c.ownOff h.toNat a.toNat c.g.low with
      | some o => s.scrBusy c o n
      | none => false then s.stallBy c 28
  else match s.formRange c h.toNat a.toNat n 128 k c.g.low with
  | (.inl f, s) => s.raiseAll c f
  | (.inr ps, s) =>
    let s := if k.writes then s.updGroup c.gk (fun g => { g with pub := mergePub g.pub (pubOf ps) }) else s
    go s ps

/-- MLD (R402). -/
def execMld (t : BitVec 4) (a : BitVec 7) (h : BitVec 4) (s : State) : Host.Outcome State Fault Refusal :=
  s.issue (.mld t a h) anyMode fun c => match s.matrixWait c c.sp.setB [] with
    | some r => s.stallBy c r
    | none => s.tileMove c a h 16384 .load (fun s ps => s.matrixOp c (.mld t.toNat ps))

/-- MST (R402). -/
def execMst (t : BitVec 4) (a : BitVec 7) (h : BitVec 4) (s : State) : Host.Outcome State Fault Refusal :=
  s.issue (.mst t a h) anyMode fun c => match s.matrixWait c c.sp.setB [] with
    | some r => s.stallBy c r
    | none => s.tileMove c a h 16384 .store (fun s ps => s.matrixOp c (.mst t.toNat ps))

/-- MSTN (R403): the draws of SR are those of the counters at issue, which advance by 32 in every lane. -/
def execMstn (f : BitVec 3) (t : BitVec 4) (a : BitVec 7) (h : BitVec 4) (s : State) :
    Host.Outcome State Fault Refusal :=
  s.issue (.mstn f t a h) anyMode fun c =>
    let v := c.slot f
    let rs := scaleRegs v false
    match s.matrixWait c c.sp.setB rs with
    | some r => s.stallBy c r
    | none =>
      if rs.any (fun r => c.budget ≤ r) then s.raiseAll c 3
      else if v = 0#64 then s.raiseAll c 1
      else s.tileMove c a h (512 * fmtWidth (slotFA v) + 32) .store (fun s ps =>
        let sr := allLanes.map c.g.sr
        let s := s.matrixOp c (.mstn f.toNat t.toNat ps (c.scales v false) sr)
        if slotOR v = 5 && slotFA v ≠ 1 then s.drew c.gk (BitVec.allOnes 32) 128 else s)

/-- MCKV (R405). -/
def execMckv (d : BitVec 7) (t : BitVec 4) (b : BitVec 7) (s : State) : Host.Outcome State Fault Refusal :=
  s.issue (.mckv d t b) anyMode fun c => match s.matrixWait c c.sp.setA [] with
    | some r => s.stallBy c r
    | none =>
      let tau := c.g.lane b.toNat 0
      if tau.p.isSome then s.raiseAll c 9
      else
        let bad := match f32.dec tau.w.toNat with
          | .fin n p _ => n && p != 0
          | _ => true
        if bad then s.raiseAll c 1
        else
          let (ok, s) := s.logRegs c d.toNat 4
          if ok then s.enqueue c { c.qop 5 (.mckv d.toNat t.toNat tau) with flag := c.sp.setA } noFault else s

/-- MCKC (R406). -/
def execMckc (t : BitVec 4) (q : BitVec 7) (s : State) : Host.Outcome State Fault Refusal :=
  s.issue (.mckc t q) anyMode fun c => match s.matrixWait c c.sp.setB [] with
    | some r => s.stallBy c r
    | none =>
      let m := (upto 4).map (fun j => c.g.lane (q.toNat + j) c.g.low)
      if m.any (fun x => x.p.isSome) then s.raiseAll c 9
      else s.matrixOp c (.mckc t.toNat (m.map (fun x => x.w.toNat)))

/-! ## Tiles -/

/-- A tile of zeros (R262). -/
def Tile.zero : Tile := { cells := [], pois := [] }

/-- Cell (m, n) of a tile. -/
def Tile.cell (t : Tile) (m n : Nat) : Nat := (t.cells.getD (64 * m + n) 0#32).toNat

/-- Tile t of a workgroup. -/
def State.tile (s : State) (wk t : Nat) : Tile := match mget? s.wgs wk with
  | some w => mgetD w.tiles t Tile.zero
  | none => Tile.zero

/-- The lowest tag of a tile's rows. -/
def Tile.anyPois (t : Tile) : Option PTag := tagMinL (t.pois.map (fun e => some e.2))

/-- Every row poisoned with one tag. -/
def allRows (t : PTag) : Map PTag := (upto 64).map (fun m => (m, t))

/-- Every row poisoned with one tag, or with its own where that is lower. -/
def Tile.poisonAll (x : Tile) (t : PTag) : Map PTag := (upto 64).map (fun m => (m, (tagMin (some t) (mget? x.pois m)).getD t))

/-- A row of a tile is read and checked: an error poisons it with class 4 (R208, R436, R437). The model keeps no physical
tile numbers: UNIT names the tile by its own (log entry 138). -/
def State.checkRow (s : State) (wk t m : Nat) : State :=
  match s.flaw (.row wk t m), mget? s.wgs wk with
  | some f, some w =>
    let o := s.ownerOf wk
    let (k, s) := (s.dropFlaws (· == .row wk t m)).record 4 0x02 1 false 0 (w.core + (0x10 + t) * 256) o.1 f.synd o.2
    let x := s.tile wk t
    let g := (tagMin (some (mkTag 4 k)) (mget? x.pois m)).getD (mkTag 4 k)
    s.updWg wk (fun w => { w with tiles := mput w.tiles t { x with pois := mput x.pois m g } })
  | _, _ => s

/-- The first n rows of a tile are read and checked. -/
def State.checkTile (s : State) (wk t n : Nat) : State :=
  if s.rel.latent.isEmpty then s else (upto n).foldl (fun s m => s.checkRow wk t m) s

/-- Tiles that have been written whole lose their errors unfound (R436); a write under an old generation, or without room in the
log, is none (R131, R132). -/
def State.dropTiles (s : State) (c : Ctx) (gen : Nat) (ts : List Nat) : State :=
  if s.wgGen c.wk ≠ gen then s
  else s.dropFlaws (fun p => match p with
    | .row w t _ => w = c.wk && ts.contains t
    | _ => false)

/-- Undefined cells (R399). -/
def freeCells (draws : Nat) : List Word := (upto 4096).map (fun i => Config.freeWord (draws + i))

/-- Writes tiles as one operation does: dropped and counted when the generation has moved on; each logged first in an open
block; nothing is written when the log has no room for one of them (R132, R407). -/
def State.putTiles (s : State) (c : Ctx) (gen : Nat) (ts : List (Nat × Tile)) : State :=
  if s.wgGen c.wk ≠ gen then s.late c.wk
  else
    let (ok, s) := ts.foldl (fun acc t =>
      if acc.1 && acc.2.logsNew c.wk (.tile t.1 Tile.zero) then
        let s := acc.2.checkTile c.wk t.1 64
        s.logFirst c.wk (.tile t.1 (s.tile c.wk t.1)) c.sp.pc
      else acc) (true, s)
    if ok then s.updWg c.wk (fun w => { w with tiles := ts.foldl (fun m t => mput m t.1 t.2) w.tiles }) else s

/-! ## Products -/

/-- The K elements of row m of an operand in plane layout (R394). -/
def planeRow (f k v m : Nat) : List FNum :=
  let w := fmtWidth f
  let r := v / 2 ^ (m * w * k) % 2 ^ (w * k)
  (upto k).map (fun i => operandVal f (((upto w).map (fun j => r / 2 ^ (j * k + i) % 2 * 2 ^ j)).foldl (· + ·) 0))

/-- The 128 elements of column n of a sparse B operand (R394); an absent element is zero. -/
def lineCol (f v n : Nat) : List FNum :=
  let d := BitVec.ofNat 1024 (v / 2 ^ (1024 * n))
  (upto 128).map (fun i => if lineMask d i then operandVal f (lineElem d (fmtWidth f) i) else .fin false 0 1)

/-- Some line of a sparse operand is refused: more mask bits than NZ, or more than 896 bits of values (R297, R397). -/
def linesBad (v : BitVec 64) (b : Nat) : Bool :=
  slotNZ v != 0 && (upto 64).any (fun n =>
    let k := lineCount (BitVec.ofNat 1024 (b / 2 ^ (1024 * n)))
    slotNZ v < k || 896 < k * fmtWidth (slotFB v))

/-- Products of two lists. -/
def prods (a b : List FNum) : List FNum := (a.zip b).map (fun p => (numMul p.1 p.2).1)

/-- A list in runs of 16. -/
def runs16 (l : List FNum) : List (List FNum) := (upto ((l.length + 15) / 16)).map (fun i => (l.drop (16 * i)).take 16)

/-- The new value of a cell (R399): acc its old code, ps the products in ascending k, t the scale of the row times that of
B. -/
def mmaCell (v : BitVec 64) (acc : Nat) (ps : List FNum) (t : FNum) : Nat :=
  let fc := slotFC v
  let f := fcFmt fc
  let read := fun (x : Nat) => f.dec (x % 2 ^ f.width)
  if slotAM v = 0 then
    ps.foldl (fun a p => (f.out 0 0 false false (numAdd 0 (read a) p).1).bits) acc
  else if 11 ≤ slotFA v then
    (runs16 ps).foldl (fun a l => windowSum f (read a :: l)) acc
  else if fc = 1 then
    let p := match exactSum ps with
      | .fin n a b => (if n then -((a / b : Nat) : Int) else ((a / b : Nat) : Int))
      | _ => 0
    wrapInt 32 (clampInt (-(2 ^ 31)) (2 ^ 31 - 1) (sextInt 32 acc + p))
  else windowSum f [read acc, (numMul (exactSum ps) t).1]

/-- A checksum cell (R400): its old code and the terms of its sum, rounded once. -/
def checkCell (acc : Nat) (ts : List FNum) : Nat :=
  (f32.out 0 0 false false (numAdd 0 (f32.dec acc) (exactSum ts)).1).bits

/-- A list as words. -/
def asWords (l : List Nat) : List Word := l.map (BitVec.ofNat 32)

/-- The check tile with new rows 0 and 1. -/
def Tile.withChecks (t : Tile) (r0 r1 : List Word) : Tile :=
  { t with cells := r0 ++ r1 ++ (if t.cells.isEmpty then (upto 3968).map (fun _ => 0#32) else t.cells.drop 128) }

/-- A checker of the promotion adders has mismatched in an MMA or MMACK: every row it writes holds undefined values and poison
of class 4, and the trap is kept for delivery (R212). -/
def State.mmaMismatch (s : State) (c : Ctx) (o : QOp) (f : Flaw) (chk : Bool) (t : Nat) : State :=
  let w := s.ownerOf c.wk
  let (k, s) := (s.dropFlaws (· == f.at_)).record 4 0x04 1 false 0 (c.g.core + 0x41 * 256) w.1 f.synd w.2
  let g := mkTag 4 k
  let fr := freeCells (s.draws + 4096)
  let t1 : Tile := { cells := freeCells s.draws, pois := (s.tile c.wk t).poisonAll g }
  let old2 := s.tile c.wk (t + 1)
  let t2 : Tile := { old2.withChecks (fr.take 64) ((fr.drop 64).take 64) with
    pois := mput (mput old2.pois 0 ((tagMin (some g) (mget? old2.pois 0)).getD g)) 1
      ((tagMin (some g) (mget? old2.pois 1)).getD g) }
  ((s.draw 8192).putTiles c o.gen (if chk then [(t, t1), (t + 1, t2)] else [(t, t1)])).finishOp c o 0x0B false

/-- MMA and MMACK at their turn (R399, R400): the state and the fault met. -/
def State.runMma (s : State) (c : Ctx) (gen : Nat) (chk : Bool) (f t aw bw : Nat) (sc : List Val) : Nat × State :=
  let v := c.l.slots.getD f 0#64
  let (a, pa, s) := s.readOperand c.wk aw (bytesA v)
  let (b, pb, s) := s.readOperand c.wk bw (bytesB v)
  let s := s.checkTile c.wk t 64
  let s := if chk then s.checkTile c.wk (t + 1) 2 else s
  if linesBad v b then (6, s)
  else
    let k := slotK v
    let old := s.tile c.wk t
    let old2 := s.tile c.wk (t + 1)
    let sums := if chk then tagMin (mget? old2.pois 0) (mget? old2.pois 1) else none
    let bad := tagMin (tagMin pa pb) (tagMin (tagMin old.anyPois sums) (tagMinL (sc.map (·.p))))
    match bad with
    | some g =>
      let t1 : Tile := { cells := freeCells s.draws, pois := allRows g }
      let fr := freeCells (s.draws + 4096)
      let t2 : Tile := { old2.withChecks (fr.take 64) ((fr.drop 64).take 64) with pois := old2.poisonAll g }
      (0, (s.draw 8192).putTiles c gen (if chk then [(t, t1), (t + 1, t2)] else [(t, t1)]))
    | none =>
      let rows := (upto 64).map (planeRow (slotFA v) k a)
      let cols := (upto 64).map (fun n => if slotNZ v = 0 then planeRow (slotFB v) k b n else lineCol (slotFB v) b n)
      let num := fun (x : Val) => f32.dec x.w.toNat
      let sb := num (sc.getD 64 oneVal)
      let ts := (upto 64).map (fun m => (numMul (num (sc.getD m oneVal)) sb).1)
      let ps := rows.map (fun r => cols.map (prods r))
      let cells := ps.zipIdx.flatMap (fun r => r.1.zipIdx.map (fun p =>
        mmaCell v (old.cell r.2 p.2) p.1 (ts.getD r.2 .nan)))
      let t1 : Tile := { cells := asWords cells, pois := [] }
      if !chk then (0, s.putTiles c gen [(t, t1)])
      else
        let terms := ps.zipIdx.map (fun r => r.1.map (fun l => l.map (fun x => (numMul x (ts.getD r.2 .nan)).1)))
        let r0 := (upto 64).map (fun n => checkCell (old2.cell 0 n) (terms.flatMap (fun r => r.getD n [])))
        let r1 := (upto 64).map (fun m => checkCell (old2.cell 1 m) ((terms.getD m []).flatMap id))
        (0, s.putTiles c gen [(t, t1), (t + 1, old2.withChecks (asWords r0) (asWords r1))])

/-! ## Moves -/

/-- MLD at its turn (R402). -/
def State.runMld (s : State) (c : Ctx) (gen t : Nat) (ps : List Access) : Nat × State :=
  if s.stale c.l then (8, s)
  else
    let (bs, s) := s.engRead c ps
    let row := fun m => (bs.drop (256 * m)).take 256
    let pois := (upto 64).filterMap (fun m => (poisOf (row m)).map (fun g => (m, g)))
    let cells := (upto 64).flatMap (fun m =>
      if (poisOf (row m)).isSome then (upto 64).map (fun n => Config.freeWord (s.draws + 64 * m + n))
      else (upto 64).map (fun n => BitVec.ofNat 32 (valOf (((row m).drop (4 * n)).take 4))))
    (0, ((if pois.isEmpty then s else s.draw 4096).putTiles c gen [(t, { cells := cells, pois := pois })]).dropTiles c gen [t])

/-- Bytes with one poison. -/
def withPois (bs : List Byte) (p : Option PTag) : List EByte := bs.map (fun b => (b, p))

/-- Writes what MST or MSTN makes: in an open block all of it is logged first, and without room for all nothing is written
(R407). -/
def State.engStore (s : State) (c : Ctx) (gen : Nat) (ps : List Access) (bs : List EByte) : State :=
  let (ok, s) := (ps.flatMap (·.cut 128)).foldl (fun (acc : Bool × State) p =>
    if acc.1 && !acc.2.engOld c gen p then acc.2.engLog c p else acc) (true, s)
  if ok then s.engWrite c gen ps bs else s

/-- MST at its turn (R402). -/
def State.runMst (s : State) (c : Ctx) (gen t : Nat) (ps : List Access) : Nat × State :=
  if s.stale c.l then (8, s)
  else
    let s := s.checkTile c.wk t 64
    let x := s.tile c.wk t
    (0, s.engStore c gen ps ((upto 64).flatMap (fun m =>
      withPois ((upto 64).flatMap (fun n => bytesLE 4 (x.cell m n))) (mget? x.pois m))))

/-- The conversion of one cell by MSTN (R403): x the cell's value, sa its row's scale, u the stochastic word. The code of a
float target is its encoding, 0 for a zero of either sign in the flags. -/
def narrowCell (v : BitVec 64) (x sa : FNum) (u : Nat) : Nat × Quant :=
  let fa := slotFA v
  if fa ≤ 9 then
    let q := quantise fa (slotOR v) u sa x
    (wrapInt (fmtWidth fa) q.code, q)
  else
    let f := if fa = 10 then e4m3 else if fa = 11 then f16 else if fa = 12 then bf16 else f32
    let y := if fa = 10 then (numDiv x sa).1 else x
    let r := convOut f (slotOR v) u false (slotOSAT v) y
    let zero := r.bits % 2 ^ (f.width - 1) = 0
    (r.bits, match y with
      | .nan => { code := 1, sat := false, flsh := false }
      | .inf _ => { code := 1, sat := true, flsh := false }
      | .fin _ p _ => { code := if zero then 0 else 1, sat := r.ev, flsh := p != 0 && zero })

/-- The 64 codes of a row in plane layout, w bits each (R403). -/
def planeCodes (w : Nat) (cs : List Nat) : List Byte :=
  bytesLE (8 * w) ((cs.zipIdx.flatMap (fun e => (upto w).map (fun j =>
    e.1 / 2 ^ j % 2 * 2 ^ (64 * j + e.2)))).foldl (· + ·) 0)

/-- MSTN at its turn (R403, R404). -/
def State.runMstn (s : State) (c : Ctx) (gen f t : Nat) (ps : List Access) (sc : List Val) (sr : List Word) :
    Nat × State :=
  if s.stale c.l then (8, s)
  else
    let v := c.l.slots.getD f 0#64
    let w := fmtWidth (slotFA v)
    let s := s.checkTile c.wk t 64
    let x := s.tile c.wk t
    let val := fun (k : Nat) => if slotFC v = 1 then ofInt (sextInt 32 k)
      else (fcFmt (slotFC v)).dec (k % 2 ^ (fcFmt (slotFC v)).width)
    let word := fun m n => drawWord c.l.seed (sr.getD (m % 32) 0#32) (c.gl (m % 32)) (m / 32 * 64 + n)
    let rows := (upto 64).map (fun m => (upto 64).map (fun n =>
      narrowCell v (val (x.cell m n)) (f32.dec (sc.getD m oneVal).w.toNat) (if slotOR v = 5 then word m n else 0)))
    let pois := fun m => tagMin (mget? x.pois m) (sc.getD m oneVal).p
    let fl := rows.zipIdx.map (fun r => if (pois r.2).isSome then (0, 0, false, false) else blockFlags (r.1.map (·.2)))
    let bits := fun (g : Nat × Nat × Bool × Bool → Bool) =>
      (fl.zipIdx.map (fun e => b2n (g e.1) * 2 ^ e.2)).foldl (· + ·) 0
    let status := bytesLE 8 (bits (fun e => e.2.2.1)) ++ bytesLE 8 (bits (fun e => e.2.2.2)) ++
      bytesLE 4 ((fl.map (·.1)).foldl (· + ·) 0) ++ bytesLE 4 ((fl.map (·.2.1)).foldl (· + ·) 0) ++ bytesLE 8 0
    (0, s.engStore c gen ps (rows.zipIdx.flatMap (fun r => withPois (planeCodes w (r.1.map (·.1))) (pois r.2)) ++
      withPois status none))

/-! ## Checking and repair -/

/-- A number is no NaN and no infinity. -/
def FNum.isFin : FNum → Bool
  | .fin .. => true
  | _ => false

/-- |s − Σ xs| > τ Σ |xs|, exactly; a term that is no number answers true (R405). -/
def sumOff (tau x : FNum) (xs : List FNum) : Bool :=
  if !x.isFin || xs.any (fun y => !y.isFin) then true
  else
    let d := (exactSum (x :: xs.map FNum.neg)).abs
    let lim := (numMul tau (exactSum (xs.map FNum.abs))).1
    numLt lim d && !numEq lim d

/-- The four words of MCKV (R405). -/
def mckvWords (tau : FNum) (t k : Tile) : List Nat :=
  let num := fun (x : Nat) => f32.dec x
  let rows := (upto 64).filter (fun m => sumOff tau (num (k.cell 1 m)) ((upto 64).map (fun n => num (t.cell m n))))
  let cols := (upto 64).filter (fun n => sumOff tau (num (k.cell 0 n)) ((upto 64).map (fun m => num (t.cell m n))))
  let half := fun (l : List Nat) h => ((l.filter (fun i => i / 32 == h)).map (fun i => 2 ^ (i % 32))).foldl (· + ·) 0
  [half rows 0, half rows 1, half cols 0, half cols 1]

/-- The return of an MCKV at its turn: the quad in every lane, poisoned when a row it read is (R405). -/
def State.runMckv (s : State) (c : Ctx) (o : QOp) (d t : Nat) (tau : Val) : State :=
  let s := (s.checkTile c.wk t 64).checkTile c.wk (t + 1) 2
  let x := s.tile c.wk t
  let k := s.tile c.wk (t + 1)
  let p := tagMin x.anyPois (tagMin (mget? k.pois 0) (mget? k.pois 1))
  let ws := mckvWords (f32.dec tau.w.toNat) x k
  let vals := ws.flatMap (fun w => allLanes.map (fun _ => { w := BitVec.ofNat 32 w, p := p : Val }))
  let r : Pend :=
    { id := o.id, pc := o.pc, op := .value vals 7, dst := d, nreg := 4, lanes := BitVec.allOnes 32, tag := .U, acc := [],
      flag := o.flag, gen := o.gen, acq := false, scope := 0, held := false, cut := o.cut, tile := none, evno := 0, hash := 0,
      rep := none, dhash := 0, drop := false }
  s.updGroup c.gk (fun g => { g with ops := g.ops.filter (fun q => q.id != o.id), pend := g.pend ++ [r] })

/-- The single bit set among the 64 of two words. -/
def oneBit (lo hi : Nat) : Option Nat :=
  match (upto 64).filter (fun i => nbit (lo + hi * 2 ^ 32) i) with
  | [i] => some i
  | _ => none

/-- MCKC at its turn (R406). -/
def State.runMckc (s : State) (c : Ctx) (gen t : Nat) (ms : List Nat) : State :=
  match oneBit (ms.getD 0 0) (ms.getD 1 0), oneBit (ms.getD 2 0) (ms.getD 3 0) with
  | some i, some j =>
    let s := (s.checkTile c.wk t 64).checkTile c.wk (t + 1) 1
    let x := s.tile c.wk t
    let k := s.tile c.wk (t + 1)
    let others := (upto 64).filter (· != i)
    let p := tagMin (mget? k.pois 0) (tagMinL (others.map (fun m => mget? x.pois m)))
    let r := (f32.out 0 0 false false
      (exactSum (f32.dec (k.cell 0 j) :: others.map (fun m => (f32.dec (x.cell m j)).neg)))).bits
    let w := if p.isSome then Config.freeWord s.draws else BitVec.ofNat 32 r
    let cells := if x.cells.isEmpty then (upto 4096).map (fun _ => 0#32) else x.cells
    let pois := match tagMin p (mget? x.pois i) with
      | some g => mput x.pois i g
      | none => x.pois
    (s.draw 1).putTiles c gen [(t, { cells := cells.set (64 * i + j) w, pois := pois })]
  | _, _ => s

/-! ## The engine (R398) -/

/-- Engine position of a group. -/
def Group.engPosition (g : Group) : Nat := g.slot * 4 + g.sched

/-- Groups of a core in engine order. -/
def State.engGroups (s : State) (core : Nat) : Map Group :=
  sortBy (fun e => e.2.engPosition) (s.groups.filter (fun e => e.2.core == core))

/-- Tile and slot of the records of an operation (R398). -/
def EngOp.tileSlot : EngOp → Nat × Nat
  | .mma _ f t _ _ _ => (t, f)
  | .mzero m => (((upto 16).find? (fun i => nbit m i)).getD 0, 0)
  | .mld t _ | .mst t _ | .mckv _ t _ | .mckc t _ => (t, 0)
  | .mstn f t _ _ _ => (t, f)
  | _ => (0, 0)

/-- Offers the MATI or MATD record (R235). -/
def State.emitMat (s : State) (c : Ctx) (o : QOp) (kind : Nat) : State :=
  let (t, f) := o.op.tileSlot
  s.emitL c.l c.g.die 2 c.g.core kind (t % 16 + f % 8 * 16 + c.g.slot * 2 ^ 7 + o.flag % 16 * 2 ^ 11)

/-- An operation with the hash of the first byte that it writes (R258). -/
def QOp.into (o : QOp) (ps : List Access) : QOp := match ps with
  | a :: _ => { o with hash := ahash a.addr }
  | [] => o

/-- MATRIX_OP_START (R398): an idle engine takes the next operation in engine order after the group it served last. -/
def execMatrixOpStart (core : BitVec 8) (s : State) : Host.Outcome State Fault Refusal :=
  let k := core.toNat
  let gs := s.engGroups k
  .next (if gs.any (fun e => (e.2.running 5).isSome) then s
  else
    let ready := gs.filter (fun e => (e.2.startable 5).isSome)
    let last := mgetD s.engPos k 63
    let pick := match ready.find? (fun e => last < e.2.engPosition) with
      | some e => some e
      | none => ready.head?
    match pick with
    | none => s
    | some (gk, g) => match g.startable 5, s.gctx gk with
      | some o, some c =>
        if s.latched c.l.part 2 k || s.passing c.wk then s
        else
          let s := { s with engPos := mput s.engPos k g.engPosition }
          (s.updOp gk o.id (fun o => { o with started := true })).emitMat c o 0x12
      | _, _ => s)

/-- MATRIX_OP_DONE (R398): the running operation of a core is performed. -/
def execMatrixOpDone (core : BitVec 8) (s : State) : Host.Outcome State Fault Refusal :=
  .next (match (s.engGroups core.toNat).find? (fun e => (e.2.running 5).isSome) with
  | none => s
  | some (gk, g) => match g.running 5, s.gctx gk with
    | some o, some c0 =>
      let c := c0.atOp o
      let s := s.emitMat c o 0x13
      let fin := fun (r : Nat × State) => r.2.finishOp c o r.1 false
      match o.op with
      | .mma chk f t a b sc => (match s.flaw (.engine gk 5) with
        | some x => s.mmaMismatch c o x chk t
        | none => fin (s.runMma c o.gen chk f t a b sc))
      | .mzero m => 
          (let ts := (upto 16).filter (fun i => nbit m i)
           fin (0, (s.putTiles c o.gen (ts.map (fun i => (i, Tile.zero)))).dropTiles c o.gen ts))
      | .mld t ps => fin (s.runMld c o.gen t ps)
      | .mst t ps =>
        let r := s.runMst c o.gen t ps
        r.2.finishOp c (o.into ps) r.1 false
      | .mstn f t ps sc sr =>
        let r := s.runMstn c o.gen f t ps sc sr
        r.2.finishOp c (o.into ps) r.1 false
      | .mckv d t tau => s.runMckv c o d t tau
      | .mckc t ms => fin (0, s.runMckc c o.gen t ms)
      | _ => fin (0, s)
    | _, _ => s)

end Sys2Proof.Machine
end

