-- ==== Sys2Proof/Machine/Retire.lean ====
section
/-! DEFINITION. The ends of groups, gangs and launches: retirement (R325, R102, R69), stall counters (R249), PERTURB reports
(R244, R432), and the release of what a gang held (R102, R104). -/

namespace Sys2Proof.Machine

/-! ## Reports -/

/-- Emits the PERTURB record of a source when one of its counts is not zero, and clears them (R244, R432); ok says that the
partition's filter lets it pass. -/
def State.emitPerturb (s : State) (p die sclass sinst : Nat) (ok : Bool) : State :=
  let k := sclass * 4096 + sinst
  match mget? s.peal.perturb k with
  | none => s
  | some n =>
    let s := if ok || s.effLL p then s.emitTo p die sclass sinst 3 (n.1 % 2 ^ 32 + min n.2.1 0xFFFF * 2 ^ 32) else s
    { s with peal := { s.peal with perturb := mdel s.peal.perturb k } }

/-- Schedulers that hold a group of the gang. -/
def State.schedsOf (s : State) (nk : Nat) : List Nat :=
  sortBy (fun x => x) (dedup ((mvals s.groups).filterMap (fun g =>
    if g.wg / 32 = nk then some (g.core * 4 + g.sched) else none)))

/-- The PERTURB reports of every source that serves a gang (R244): its schedulers, and the engines of whatever core it has run
on that have performed an operation of it, with the counts that concern its partition. -/
def State.perturbGang (s : State) (nk : Nat) (l : Launch) : State :=
  let s := (s.schedsOf nk).foldl (fun s k => s.emitPerturb l.part (k / 192) 0 k (l.traces 3)) s
  (((mvals s.wgs).filter (fun w => w.gang == nk)).flatMap (·.served)).foldl (fun s k =>
    if (mget? s.peal.perturb k).any (fun n => n.2.2 == l.part) then
      s.emitPerturb l.part (k % 4096 / 48) (k / 4096) (k % 4096) (l.traces 3)
    else s) s

/-- The 64 bytes of a counter entry (R249). -/
def Group.counterEntry (g : Group) (w : Wg) (gg : Gang) (l : Launch) (saved : Bool) : Nat :=
  gg.index % 2 ^ 18 + w.k * 2 ^ 18 + g.k * 2 ^ 23 + l.queue % 1024 * 2 ^ 28 + b2n saved * 2 ^ 38
    + min w.latedrop 0xFFFFFFFF * 2 ^ 64
    + ((upto 8).map (fun i => mgetD g.cnt i 0 % 2 ^ 48 * 2 ^ (128 + 48 * i))).foldl (· + ·) 0

/-- Writes a group's stall counters to its partition's area when CNTEN is 1 (R249). -/
def State.writeCounters (s : State) (gk : Nat) (saved : Bool) : State :=
  match mget? s.groups gk with
  | none => s
  | some g => match s.launchOf g.wg with
    | none => s
    | some (w, gg, l) =>
      if s.fld (nPCTL l.part) 3 3 = 1 then
        let i := s.fld (nPCNT l.part) 63 48
        let e := 2 ^ (s.fld (nPCNT l.part) 3 0 + 12) / 64
        let s := s.devWrite (s.fld (nPCNT l.part) 44 12 * 4096 + 64 * (i % e)) 64 (g.counterEntry w gg l saved)
        s.setFld (nPCNT l.part) 63 48 (i + 1)
      else s

/-! ## A gang leaves its cores -/

/-- A placement pass is due in partition p (R100). -/
def State.wantPass (s : State) (p : Nat) : State :=
  if s.kul.passes.contains p then s else { s with kul := { s.kul with passes := s.kul.passes ++ [p] } }

/-- The groups and workgroups of a gang leave their cores; its resources are free at once and together (R102). -/
def State.unplace (s : State) (nk : Nat) : State :=
  { s with
    groups := s.groups.filter (fun e => e.2.wg / 32 != nk)
    wgs := s.wgs.filter (fun e => e.2.gang != nk)
    focus := match s.focus with
      | some f => if f.g / 1024 = nk then none else some f
      | none => none }

/-- Every workgroup of a gang has retired: the gang retires (R102). -/
def State.retireGang (s : State) (nk : Nat) : State :=
  match mget? s.gangs nk with
  | none => s
  | some gg => match mget? s.launches gg.launch with
    | none => s
    | some l =>
      let s := (s.perturbGang nk l).rrComplete nk
      let s := s.emitL l gg.die 3 gg.die 0x07 (gg.index % 2 ^ 18 + l.queue % 1024 * 2 ^ 18)
      (({ s.unplace nk with gangs := mdel s.gangs nk } : State).wantPass l.part)

/-- Nothing of an exited group is due any more (R325): its flags are zero, and what it issued that writes memory is
performed. -/
def Group.canRetire (g : Group) : Bool :=
  g.retiring && !g.retired && g.flagsZero (BitVec.allOnes 12) && g.ops.isEmpty && g.pend.all (fun p => p.drop && !p.op.writes)

/-- The workgroup of a group that has retired: when all its groups have, it leaves its conversation and retires; with the
last workgroup the gang retires. -/
def State.wgDone (s : State) (wk : Nat) : State :=
  if (mvals (s.groupsOf wk)).all (·.retired) then
    let s := (s.leaveConv wk).updWg wk (fun w => { w with retired := true })
    match mget? s.wgs wk with
    | none => s
    | some w =>
      let s := s.dropR w.core
      if (mvals s.wgs).all (fun x => x.gang != w.gang || x.retired) then s.retireGang w.gang else s
  else s

/-- GROUP_RETIRE (R325, R102). -/
def execGroupRetire (g : Nat) (s : State) : Host.Outcome State Fault Refusal :=
  .next (match mget? s.groups g with
  | none => s
  | some gr =>
    if !gr.canRetire then s
    else
      let s := s.writeCounters g false
      let s := s.updGroup g (fun x => { x with retired := true, pend := [], flags := [], delayed := [] })
      let s := s.updWg gr.wg (fun w => w.freeHeld g)
      (s.wgSettle gr.wg).wgDone gr.wg)

/-! ## A launch retires -/

/-- Gangs of a launch. -/
def Launch.count (l : Launch) : Nat := l.gx * l.gy * l.gz

/-- No gang of the launch is left (R69, R92). -/
def State.launchDone (s : State) (lk : Nat) (l : Launch) : Bool :=
  (l.ended.isSome || l.count ≤ l.nextGang) && s.gangs.all (fun e => e.2.launch != lk)

/-- The DETAIL of a kind 1 entry (R79). -/
def Launch.detail (l : Launch) : Nat := l.rung % 8 + min l.rfail 255 * 8 + l.rcause % 16 * 2 ^ 11

/-- Every earlier packet of the queue has completed, retirement of launches and ends of ladders included (R67 BAR). -/
def State.queueQuiet (s : State) (q : Nat) : Bool :=
  s.inflight q == 0 && s.kul.queues.all (fun e => match e.2.ladder with
    | some ld => !ld.done.any (fun d => d.1 == q)
    | none => true)

/-- The place of the packet at RDIDX (R61). -/
def Queue.head (x : Queue) : Nat := x.ring + 64 * (x.rdidx % 2 ^ (x.size + 4))

/-- A queue that was BLOCKED by what has now gone is READY again (R71). -/
def State.unblock (s : State) (q : Nat) : State :=
  let x := s.queue q
  let bar := match x.bound with
    | some b => nbit b.2 9
    | none => false
  if x.st = .blocked && !x.cqstall && s.inflight q < 16 && (!bar || s.queueQuiet q) then
    s.updQueue q (fun x => { x with st := .ready })
  else s.syncQ q

/-- Hands an event update to Kulintang (R94, R415). -/
def State.handOver (s : State) (u : EvUpd) : State := { s with kul := { s.kul with held := s.kul.held ++ [u] } }

/-- LAUNCH_RETIRE (R69): the launch's completion entry is posted, then its event is signalled; a launch that was ended
posts an error entry and signals nothing (R92, R104). -/
def execLaunchRetire (l : Nat) (s : State) : Host.Outcome State Fault Refusal :=
  .next (match mget? s.launches l with
  | none => s
  | some x =>
    if !s.launchDone l x then s
    else
      let s := { s with
        launches := mdel s.launches l
        power := { s.power with persist := s.power.persist.filterMap (fun (r : Nat × Nat × List Nat) =>
          let ls := r.2.2.filter (· != l)
          if ls.isEmpty then none else some (r.1, r.2.1, ls)) } }
      let s := match x.ended with
        | some k => s.postErr x.queue x.tag k x.index
        | none => if x.cqe then s.postCq x.queue (cqe 1 x.queue x.tag 0 x.index x.detail) none else s
      let s := if x.sigen && x.ended.isNone then
          s.handOver { ev := x.sigev, op := 0, v := x.sigadd, part := x.part, sclass := 4, sinst := 64, mask := true }
        else s
      s.unblock x.queue)

end Sys2Proof.Machine
end

