-- ==== Sys2Proof/Machine/Vector.lean ====
section
/-! DEFINITION. Integer, logic, lane and predicate instructions (R346 to R353) and the special values (R361). -/

namespace Sys2Proof.Machine

/-! ## Integer arithmetic (R346) -/

/-- TYPE is an integer type, as the whole family of R346 requires. -/
def Ctx.intMode (c : Ctx) : Bool := intTy c.g.m

/-- An element-wise instruction of two sources. -/
def State.intOp2 (s : State) (c : Ctx) (d a b : BitVec 7) (t : Tag) (f : Int → Int → Int) : State :=
  s.put c d t (fun l => Val.map2 (fun x y => intMap (tyOf c.g.m) (satOf c.g.m) (fun p q _ => f p q) x y 0#32)
    (c.src a l) (c.src b l))

/-- An element-wise instruction of one source. -/
def State.intOp1 (s : State) (c : Ctx) (d a : BitVec 7) (t : Tag) (f : Int → Int) : State :=
  s.put c d t (fun l => Val.map1 (fun x => intMap (tyOf c.g.m) (satOf c.g.m) (fun p _ _ => f p) x 0#32 0#32) (c.src a l))

/-- VADD (R346). -/
def execVadd (d a b : BitVec 7) (s : State) : Host.Outcome State Fault Refusal :=
  s.issue (.vadd d a b) Ctx.intMode fun c => s.intOp2 c d a b (tagAdd c.g.m (c.tag a) (c.tag b)) (· + ·)

/-- VSUB (R346). -/
def execVsub (d a b : BitVec 7) (s : State) : Host.Outcome State Fault Refusal :=
  s.issue (.vsub d a b) Ctx.intMode fun c => s.intOp2 c d a b (tagAdd c.g.m (c.tag a) (c.tag b)) (· - ·)

/-- VMUL (R346). -/
def execVmul (d a b : BitVec 7) (s : State) : Host.Outcome State Fault Refusal :=
  s.issue (.vmul d a b) Ctx.intMode fun c => s.intOp2 c d a b (tagMul c.g.m (c.tag a) (c.tag b)) (· * ·)

/-- VMULH (R346): the high half of the exact product. -/
def execVmulh (d a b : BitVec 7) (s : State) : Host.Outcome State Fault Refusal :=
  s.issue (.vmulh d a b) Ctx.intMode fun c =>
    s.intOp2 c d a b (tagU [c.tag a, c.tag b]) (fun x y => x * y / ((2 ^ tyWidth (tyOf c.g.m) : Nat) : Int))

/-- VMAD (R346). -/
def execVmad (d a b : BitVec 7) (s : State) : Host.Outcome State Fault Refusal :=
  s.issue (.vmad d a b) Ctx.intMode fun c =>
    s.put c d (tagU [c.tag a, c.tag b, c.tag d]) (fun l =>
      Val.map3 (intMap (tyOf c.g.m) (satOf c.g.m) (fun x y z => x * y + z)) (c.src a l) (c.src b l) (c.src d l))

/-- VMIN (R346). -/
def execVmin (d a b : BitVec 7) (s : State) : Host.Outcome State Fault Refusal :=
  s.issue (.vmin d a b) Ctx.intMode fun c => s.intOp2 c d a b (tagU [c.tag a, c.tag b]) (fun x y => min x y)

/-- VMAX (R346). -/
def execVmax (d a b : BitVec 7) (s : State) : Host.Outcome State Fault Refusal :=
  s.issue (.vmax d a b) Ctx.intMode fun c => s.intOp2 c d a b (tagU [c.tag a, c.tag b]) (fun x y => max x y)

/-- VABS (R346). -/
def execVabs (d a : BitVec 7) (s : State) : Host.Outcome State Fault Refusal :=
  s.issue (.vabs d a) Ctx.intMode fun c => s.intOp1 c d a (tagU [c.tag a]) (fun x => (x.natAbs : Int))

/-- VNEG (R346). -/
def execVneg (d a : BitVec 7) (s : State) : Host.Outcome State Fault Refusal :=
  s.issue (.vneg d a) Ctx.intMode fun c => s.intOp1 c d a (tagScale c.g.m (c.tag a)) (fun x => -x)

/-- The sum of VDOT4 (R346): d and the products of the four byte elements, as one 32-bit element. -/
def dot4 (t : Nat) (sat : Bool) (a b d : Word) : Word :=
  let wide := if t = 4 then 0 else 1
  let sum := (upto 4).foldl (fun x i => x + intElem t a i * intElem t b i) (intElem wide d 0)
  BitVec.ofNat 32 (intOut wide sat sum)

/-- VDOT4 (R346): TYPE I8x4 or N8x4 only. -/
def execVdot4 (d a b : BitVec 7) (s : State) : Host.Outcome State Fault Refusal :=
  s.issue (.vdot4 d a b) (fun c => tyOf c.g.m == 4 || tyOf c.g.m == 5) fun c =>
    s.put c d (tagU [c.tag a, c.tag b, c.tag d]) (fun l =>
      Val.map3 (dot4 (tyOf c.g.m) (satOf c.g.m)) (c.src a l) (c.src b l) (c.src d l))

/-! ## Words, shifts and bit fields (R348) -/

/-- A word instruction of two sources. -/
def State.wordOp2 (s : State) (c : Ctx) (d a b : BitVec 7) (t : Tag) (f : Word → Word → Word) : State :=
  s.put c d t (fun l => Val.map2 f (c.src a l) (c.src b l))

/-- A word instruction of one source. -/
def State.wordOp1 (s : State) (c : Ctx) (d a : BitVec 7) (t : Tag) (f : Word → Word) : State :=
  s.put c d t (fun l => (c.src a l).map1 f)

/-- The shift amount of a word. -/
def shAmt (b : Word) : Nat := b.toNat % 32

/-- A right shift: arithmetic when TYPE is I32. -/
def shrWord (m : BitVec 16) (a : Word) (k : Nat) : Word := if tyOf m = 0 then a.sshiftRight k else a >>> k

/-- Leading zero bits of a word. -/
def clzWord (a : Word) : Nat := if a.toNat = 0 then 32 else 31 - Nat.log2 a.toNat

/-- Set bits of a word. -/
def popWord (a : Word) : Nat := laneCount a

/-- Bit reversal of a word. -/
def brevWord (a : Word) : Word := maskOf (fun i => a.getLsbD (31 - i))

/-- Field position and length of VBFE and VBFI. -/
def bfPos (b : Word) : Nat := nbits b.toNat 4 0
def bfLen (b : Word) : Nat := min (nbits b.toNat 13 8) 32

/-- VBFE's result. -/
def bfeWord (m : BitVec 16) (a b : Word) : Word :=
  let n := bfLen b
  let x := (shrWord m a (bfPos b)).toNat % 2 ^ n
  if n = 0 then 0#32 else if tyOf m = 0 then BitVec.ofInt 32 (sextInt n x) else BitVec.ofNat 32 x

/-- VBFI's result: bits [min(p + n, 32) − 1 : p] of d replaced by the low bits of a. -/
def bfiWord (a b d : Word) : Word :=
  let p := bfPos b
  let k := min (p + bfLen b) 32 - p
  let mask := BitVec.ofNat 32 ((2 ^ k - 1) * 2 ^ p)
  (d &&& ~~~ mask) ||| ((a <<< p) &&& mask)

/-- VAND (R348). -/
def execVand (d a b : BitVec 7) (s : State) : Host.Outcome State Fault Refusal :=
  s.issue (.vand d a b) anyMode fun c => s.wordOp2 c d a b (tagU [c.tag a, c.tag b]) (· &&& ·)

/-- VOR (R348). -/
def execVor (d a b : BitVec 7) (s : State) : Host.Outcome State Fault Refusal :=
  s.issue (.vor d a b) anyMode fun c => s.wordOp2 c d a b (tagU [c.tag a, c.tag b]) (· ||| ·)

/-- VXOR (R348). -/
def execVxor (d a b : BitVec 7) (s : State) : Host.Outcome State Fault Refusal :=
  s.issue (.vxor d a b) anyMode fun c => s.wordOp2 c d a b (tagU [c.tag a, c.tag b]) (· ^^^ ·)

/-- VSHL (R348). -/
def execVshl (d a b : BitVec 7) (s : State) : Host.Outcome State Fault Refusal :=
  s.issue (.vshl d a b) anyMode fun c =>
    s.wordOp2 c d a b (tagShl c.g.m (c.tag a) (c.tag b)) (fun x y => x <<< shAmt y)

/-- VSHR (R348). -/
def execVshr (d a b : BitVec 7) (s : State) : Host.Outcome State Fault Refusal :=
  s.issue (.vshr d a b) anyMode fun c =>
    s.wordOp2 c d a b (tagU [c.tag a, c.tag b]) (fun x y => shrWord c.g.m x (shAmt y))

/-- VROL (R348). -/
def execVrol (d a b : BitVec 7) (s : State) : Host.Outcome State Fault Refusal :=
  s.issue (.vrol d a b) anyMode fun c =>
    s.wordOp2 c d a b (tagU [c.tag a, c.tag b]) (fun x y => x.rotateLeft (shAmt y))

/-- VCLZ (R348). -/
def execVclz (d a : BitVec 7) (s : State) : Host.Outcome State Fault Refusal :=
  s.issue (.vclz d a) anyMode fun c => s.wordOp1 c d a (tagU [c.tag a]) (fun x => BitVec.ofNat 32 (clzWord x))

/-- VPOPC (R348). -/
def execVpopc (d a : BitVec 7) (s : State) : Host.Outcome State Fault Refusal :=
  s.issue (.vpopc d a) anyMode fun c => s.wordOp1 c d a (tagU [c.tag a]) (fun x => BitVec.ofNat 32 (popWord x))

/-- VBREV (R348). -/
def execVbrev (d a : BitVec 7) (s : State) : Host.Outcome State Fault Refusal :=
  s.issue (.vbrev d a) anyMode fun c => s.wordOp1 c d a (tagU [c.tag a]) brevWord

/-- VBFE (R348). -/
def execVbfe (d a b : BitVec 7) (s : State) : Host.Outcome State Fault Refusal :=
  s.issue (.vbfe d a b) anyMode fun c => s.wordOp2 c d a b (tagU [c.tag a, c.tag b]) (bfeWord c.g.m)

/-- VBFI (R348). -/
def execVbfi (d a b : BitVec 7) (s : State) : Host.Outcome State Fault Refusal :=
  s.issue (.vbfi d a b) anyMode fun c =>
    s.put c d (tagU [c.tag a, c.tag b, c.tag d]) (fun l => Val.map3 bfiWord (c.src a l) (c.src b l) (c.src d l))

/-! ## Moves, selection and packing (R349) -/

/-- VMOV (R349): a with its poison; the tag is that of the source. -/
def execVmov (d a : BitVec 7) (s : State) : Host.Outcome State Fault Refusal :=
  s.issue (.vmov d a) anyMode fun c => s.put c d (c.tag a) (c.src a)

/-- The number of a tag. -/
def Tag.code : Tag → Nat
  | .U => 0
  | .A => 1
  | .G => 2

/-- VTAG (R349). -/
def execVtag (d a : BitVec 7) (s : State) : Host.Outcome State Fault Refusal :=
  s.issue (.vtag d a) anyMode fun c => s.put c d .U (fun _ => clean (BitVec.ofNat 32 (c.tag a).code))

/-- TYPE is a packed integer type, as VPACK and VUNPK require. -/
def Ctx.packMode (c : Ctx) : Bool := 2 ≤ tyOf c.g.m && tyOf c.g.m ≤ 5

/-- A source element of n bits, signed when the TYPE t is. -/
def wideElem (t n : Nat) (x : Word) (i : Nat) : Int :=
  if tySigned t then sextInt n (elem n x i) else (elem n x i : Int)

/-- VPACK's result. -/
def packWord (t : Nat) (sat : Bool) (a b : Word) : Word :=
  if tyWidth t = 16 then mkWord 16 [intOut t sat (wideElem t 32 a 0), intOut t sat (wideElem t 32 b 0)]
  else mkWord 8 [intOut t sat (wideElem t 16 a 0), intOut t sat (wideElem t 16 a 1),
                 intOut t sat (wideElem t 16 b 0), intOut t sat (wideElem t 16 b 1)]

/-- VPACK (R349). -/
def execVpack (d a b : BitVec 7) (s : State) : Host.Outcome State Fault Refusal :=
  s.issue (.vpack d a b) Ctx.packMode fun c =>
    s.wordOp2 c d a b (tagU [c.tag a, c.tag b]) (packWord (tyOf c.g.m) (satOf c.g.m))

/-- Register j of VUNPK's result. -/
def unpackWord (t : Nat) (a : Word) (j : Nat) : Word :=
  if tyWidth t = 16 then BitVec.ofInt 32 (intElem t a j)
  else mkWord 16 [wrapInt 16 (intElem t a (2 * j)), wrapInt 16 (intElem t a (2 * j + 1))]

/-- VUNPK (R349). -/
def execVunpk (d a : BitVec 7) (s : State) : Host.Outcome State Fault Refusal :=
  s.issue (.vunpk d a) Ctx.packMode fun c =>
    (s.writeVs c d.toNat 2 c.act (tagU [c.tag a]) (fun j l =>
      (c.src a l).map1 (fun x => unpackWord (tyOf c.g.m) x j))).advance c

/-- VSEL (R349): a where the predicate differs from the sense. -/
def execVsel (d a : BitVec 7) (e : BitVec 1) (p : BitVec 3) (b : BitVec 7) (s : State) :
    Host.Outcome State Fault Refusal :=
  s.issue (.vsel d a e p b) anyMode fun c =>
    let takes := if e = 1#1 then ~~~ c.g.pred p.toNat else c.g.pred p.toNat
    let all := if takes = BitVec.allOnes 32 then some true else if takes = 0#32 then some false else none
    let eq := (c.src a 0).w == (c.src b 0).w
    s.put c d (tagSel (c.tag a) (c.tag b) all eq) (fun l => if takes.getLsbD l then c.src a l else c.src b l)

/-! ## Immediate and constant forms (R347) -/

/-- VADDI (R347). -/
def execVaddi (d a : BitVec 7) (i : BitVec 11) (s : State) : Host.Outcome State Fault Refusal :=
  s.issue (.vaddi d a i) Ctx.intMode fun c => s.intOp1 c d a (tagScale c.g.m (c.tag a)) (· + i.toInt)

/-- VANDI (R347). -/
def execVandi (d a : BitVec 7) (i : BitVec 11) (s : State) : Host.Outcome State Fault Refusal :=
  s.issue (.vandi d a i) anyMode fun c => s.wordOp1 c d a (tagU [c.tag a]) (· &&& i.setWidth 32)

/-- VORI (R347). -/
def execVori (d a : BitVec 7) (i : BitVec 11) (s : State) : Host.Outcome State Fault Refusal :=
  s.issue (.vori d a i) anyMode fun c => s.wordOp1 c d a (tagU [c.tag a]) (· ||| i.setWidth 32)

/-- VXORI (R347). -/
def execVxori (d a : BitVec 7) (i : BitVec 11) (s : State) : Host.Outcome State Fault Refusal :=
  s.issue (.vxori d a i) anyMode fun c => s.wordOp1 c d a (tagU [c.tag a]) (· ^^^ i.setWidth 32)

/-- VSHLI (R347). -/
def execVshli (d a : BitVec 7) (k : BitVec 5) (s : State) : Host.Outcome State Fault Refusal :=
  s.issue (.vshli d a k) anyMode fun c => s.wordOp1 c d a (tagScale c.g.m (c.tag a)) (· <<< k.toNat)

/-- VSHRI (R347). -/
def execVshri (d a : BitVec 7) (k : BitVec 5) (s : State) : Host.Outcome State Fault Refusal :=
  s.issue (.vshri d a k) anyMode fun c => s.wordOp1 c d a (tagU [c.tag a]) (fun x => shrWord c.g.m x k.toNat)

/-- VAFF (R347): a plus the lane number times the stride. -/
def execVaff (d a : BitVec 7) (i : BitVec 11) (s : State) : Host.Outcome State Fault Refusal :=
  s.issue (.vaff d a i) anyMode fun c =>
    s.put c d (tagAff (c.tag a)) (fun l => (c.src a l).map1 (· + BitVec.ofInt 32 ((l : Int) * i.toInt)))

/-- VMOVI (R347). -/
def execVmovi (d : BitVec 7) (i : BitVec 18) (s : State) : Host.Outcome State Fault Refusal :=
  s.issue (.vmovi d i) anyMode fun c => s.put c d .U (fun _ => clean (i.signExtend 32))

/-- VLUI (R347): the immediate above the low 14 bits of Vd. -/
def execVlui (d : BitVec 7) (i : BitVec 18) (s : State) : Host.Outcome State Fault Refusal :=
  s.issue (.vlui d i) anyMode fun c =>
    s.put c d (tagU [c.tag d]) (fun l => (c.src d l).map1 (fun x => BitVec.ofNat 32 (i.toNat * 2 ^ 14 + x.toNat % 2 ^ 14)))

/-! ## Comparison (R350) -/

/-- TYPE is I32 or N32. -/
def Ctx.cmpMode (c : Ctx) : Bool := tyOf c.g.m ≤ 1

/-- VCMP (R350). -/
def execVcmp (p : BitVec 3) (a b : BitVec 7) (k : BitVec 4) (s : State) : Host.Outcome State Fault Refusal :=
  s.issue (.vcmp p a b k) Ctx.cmpMode fun c =>
    s.predOut c p (c.poisonUse [a, b]) (fun l =>
      intCond k.toNat (intElem (tyOf c.g.m) (c.src a l).w 0) (intElem (tyOf c.g.m) (c.src b l).w 0))

/-- VCMPI (R350). -/
def execVcmpi (k : BitVec 4) (p : BitVec 3) (a : BitVec 7) (i : BitVec 11) (s : State) :
    Host.Outcome State Fault Refusal :=
  s.issue (.vcmpi k p a i) Ctx.cmpMode fun c =>
    s.predOut c p (c.poisonUse [a]) (fun l => intCond k.toNat (intElem (tyOf c.g.m) (c.src a l).w 0) i.toInt)

/-! ## Lane operations (R351, R352) -/

/-- The value of lane src of register a, steered by the index value x: a poisoned index poisons it with the index's tag. -/
def Ctx.steer (c : Ctx) (a : BitVec 7) (x : Val) (src : Nat) : Val :=
  let v := c.src a src
  if x.p.isSome then { w := v.w, p := x.p } else v

/-- VBCAST (R351): the index comes from the lowest guard-true active lane. -/
def execVbcast (d a b : BitVec 7) (s : State) : Host.Outcome State Fault Refusal :=
  s.issue (.vbcast d a b) anyMode fun c =>
    let x := c.src b (c.opLane.getD 0)
    s.put c d .U (fun _ => c.steer a x (shAmt x.w))

/-- VSHFL (R351). -/
def execVshfl (d a b : BitVec 7) (s : State) : Host.Outcome State Fault Refusal :=
  s.issue (.vshfl d a b) anyMode fun c =>
    s.put c d (tagU [c.tag a]) (fun l => c.steer a (c.src b l) (shAmt (c.src b l).w))

/-- VSHFX (R351). -/
def execVshfx (d a b : BitVec 7) (s : State) : Host.Outcome State Fault Refusal :=
  s.issue (.vshfx d a b) anyMode fun c =>
    s.put c d (tagU [c.tag a]) (fun l => c.steer a (c.src b l) (l ^^^ shAmt (c.src b l).w))

/-- The types that operation o of VRED and VSCAN accepts, and for FADD the rounding (R352). -/
def redMode (o : Nat) (c : Ctx) : Bool :=
  if o ≤ 2 then intTy c.g.m else if o ≤ 5 then true else fltTy c.g.m && (o != 6 || rndOf c.g.m != 5)

/-- An element as the float fold takes it: flushed under FTZ, a NaN canonical. -/
def redFlt (m : BitVec 16) (x : Nat) : Nat :=
  let f := tyFmt (tyOf m)
  (f.out (rndOf m) 0 (ftzOf m) false (f.read (ftzOf m) x)).bits

/-- One step of the fold on element codes (R352, R354). -/
def redStep (m : BitVec 16) (o : Nat) (x y : Nat) : Nat :=
  let f := tyFmt (tyOf m)
  let a := f.read (ftzOf m) x
  let b := f.read (ftzOf m) y
  let r := match o with
    | 6 => (numAdd (rndOf m) a b).1
    | 7 => numMin a b
    | _ => numMax a b
  (f.out (rndOf m) 0 (ftzOf m) false r).bits

/-- The identity of operation o for an element of TYPE t (R352). -/
def redIdent (t o : Nat) : Nat :=
  let f := tyFmt t
  match o with
  | 1 => wrapInt (tyWidth t) (intHi (tySigned t) (tyWidth t))
  | 2 => wrapInt (tyWidth t) (intLo (tySigned t) (tyWidth t))
  | 3 => 2 ^ tyWidth t - 1
  | 6 => f.sign true
  | 7 => f.infinity false
  | 8 => f.infinity true
  | _ => 0

/-- The combination of element codes xs, lowest lane first (R352); none is the identity. -/
def redElem (m : BitVec 16) (o : Nat) (xs : List Nat) : Nat :=
  let t := tyOf m
  let w := tyWidth t
  let val := fun x => if tySigned t then sextInt w x else (x : Int)
  match xs with
  | [] => redIdent t o
  | x :: r => match o with
    | 0 => intOut t (satOf m) (r.foldl (fun a y => a + val y) (val x))
    | 1 => wrapInt w (r.foldl (fun a y => min a (val y)) (val x))
    | 2 => wrapInt w (r.foldl (fun a y => max a (val y)) (val x))
    | 3 => r.foldl (· &&& ·) x
    | 4 => r.foldl (· ||| ·) x
    | 5 => r.foldl (· ^^^ ·) x
    | _ => r.foldl (redStep m o) (redFlt m x)

/-- The combination of lane values (R352, R215). -/
def redVals (m : BitVec 16) (o : Nat) (vs : List Val) : Val :=
  let w := tyWidth (tyOf m)
  { w := mkWord w ((upto (tyCount (tyOf m))).map (fun i => redElem m o (vs.map (fun v => elem w v.w i))))
    p := tagMinL (vs.map (·.p)) }

/-- VRED (R352). -/
def execVred (d a : BitVec 7) (o : BitVec 4) (s : State) : Host.Outcome State Fault Refusal :=
  s.issue (.vred d a o) (redMode o.toNat) fun c =>
    let v := redVals c.g.m o.toNat ((lanesOf c.act).map (c.src a))
    s.put c d .U (fun _ => v)

/-- VSCAN (R352). -/
def execVscan (d a : BitVec 7) (e : BitVec 1) (o : BitVec 4) (s : State) : Host.Outcome State Fault Refusal :=
  s.issue (.vscan d a e o) (redMode o.toNat) fun c =>
    s.put c d .G (fun l =>
      redVals c.g.m o.toNat (((lanesOf c.act).filter (fun k => k < l || (k == l && e != 1#1))).map (c.src a)))

/-! ## Predicates (R353) -/

/-- A predicate instruction without poison. -/
def State.predOp (s : State) (c : Ctx) (d : BitVec 3) (b : Lanes) : State := (s.writeP c.gk d.toNat c.act b).advance c

/-- PAND (R353). -/
def execPand (d a b : BitVec 3) (s : State) : Host.Outcome State Fault Refusal :=
  s.issue (.pand d a b) anyMode fun c => s.predOp c d (c.g.pred a.toNat &&& c.g.pred b.toNat)

/-- POR (R353). -/
def execPor (d a b : BitVec 3) (s : State) : Host.Outcome State Fault Refusal :=
  s.issue (.por d a b) anyMode fun c => s.predOp c d (c.g.pred a.toNat ||| c.g.pred b.toNat)

/-- PXOR (R353). -/
def execPxor (d a b : BitVec 3) (s : State) : Host.Outcome State Fault Refusal :=
  s.issue (.pxor d a b) anyMode fun c => s.predOp c d (c.g.pred a.toNat ^^^ c.g.pred b.toNat)

/-- PNOT (R353). -/
def execPnot (d a : BitVec 3) (s : State) : Host.Outcome State Fault Refusal :=
  s.issue (.pnot d a) anyMode fun c => s.predOp c d (~~~ c.g.pred a.toNat)

/-- BALLOT (R353). -/
def execBallot (d : BitVec 7) (a : BitVec 3) (s : State) : Host.Outcome State Fault Refusal :=
  s.issue (.ballot d a) anyMode fun c => s.put c d .U (fun _ => clean (c.act &&& c.g.pred a.toNat))

/-- PMASK (R353). -/
def execPmask (d : BitVec 3) (a : BitVec 7) (s : State) : Host.Outcome State Fault Refusal :=
  s.issue (.pmask d a) anyMode fun c =>
    s.predOut c d (c.poisonUse [a]) (fun l => (c.src a l).w.getLsbD l)

/-! ## Special values (R264, R361) -/

/-- The value of special number n in lane l. -/
def Ctx.special (c : Ctx) (s : State) (n l : Nat) : Nat :=
  match n with
  | 0 => l
  | 1 => c.g.k
  | 2 => c.wg.k
  | 3 => c.wg.k % c.gg.w
  | 4 => c.wg.k / c.gg.w
  | 5 => c.gg.index % 2 ^ 48
  | 6 => c.g.core
  | 7 => c.g.die
  | 8 => c.sp.liveIx.getD 0
  | 9 => c.g.splits.length
  | 10 => s.coreClk c.g.core % 2 ^ 64
  | 11 => s.time % 2 ^ 48
  | 12 => (c.g.sr l).toNat
  | 13 => c.wg.rbcause
  | _ => if c.sp.handler then (mgetD c.g.finfo l 0#32).toNat else 0

/-- The tag that R264 gives the result. -/
def specialTag (n : Nat) : Tag := if n = 0 then .A else if n = 12 ∨ n = 14 then .G else .U

/-- VSPR (R361). -/
def execVspr (d : BitVec 7) (n : BitVec 18) (s : State) : Host.Outcome State Fault Refusal :=
  s.issue (.vspr d n) anyMode fun c =>
    (s.writeVs c d.toNat (if [5, 10, 11].contains n.toNat then 2 else 1) c.act (specialTag n.toNat) (fun j l =>
      clean (BitVec.ofNat 32 (c.special s n.toNat l / 2 ^ (32 * j))))).advance c

end Sys2Proof.Machine
end

