-- ==== Sys2Proof/Machine/Save.lean ====
section
/-! DEFINITION. The context of a saved gang (R137 to R139, R195): its layout in the save slot, the save and the restore. -/

namespace Sys2Proof.Machine

/-! ## Accesses to the save slot -/

/-- Writes bytes at a virtual address on path 0x0, line by line, with the poison that pois gives the line of byte i. -/
def State.vaPut (s : State) (core : Nat) (l : Launch) (va : Nat) (bs : List Byte) (pois : Nat → Option PTag) : State :=
  (linesOf va bs.length).foldl (fun s ln =>
    let a := max va (ln * 128)
    match s.vaOf core l a with
    | (some pa, s) => s.writeLine core pa (inLine va bs ln) .l2 (pois (a - va)) l.space
    | (none, s) => s) s

/-- Reads n bytes at a virtual address, line by line, with the poison of each line. -/
def State.vaGet (s : State) (core : Nat) (l : Launch) (va n : Nat) : List (Byte × Option PTag) × State :=
  (linesOf va n).foldl (fun (acc : List (Byte × Option PTag) × State) ln =>
    let (out, s) := acc
    let a := max va (ln * 128)
    let k := min (va + n) ((ln + 1) * 128) - a
    match s.vaOf core l a with
    | (some pa, s) =>
      let (b, p, s) := s.readPa core pa k .l2
      (out ++ b.map (fun x => (x, p)), s)
    | (none, s) => (out ++ (bytesLE k 0).map (fun x => (x, none)), s)) ([], s)

/-- No poison. -/
def noPois : Nat → Option PTag := fun _ => none

/-! ## Layout (R137 to R139) -/

/-- Banks of a workgroup that are not in cache mode, in logical bank order. -/
def Wg.ownList (w : Wg) : List Nat := (w.banks.filter (fun b => b.2.mode != .cache)).map (·.1)

/-- The place of a save slot. -/
def Launch.slotBase (l : Launch) (slot : Nat) : Nat := l.savearea + slot * l.savestride

/-- Bytes of a group record at most (R138). -/
def Launch.groupBytes (l : Launch) (k : Nat) : Nat := 1024 + 128 * l.budget k

/-- Bytes of the group records before group k. -/
def Launch.groupsBefore (l : Launch) (k : Nat) : Nat := sumL ((upto k).map l.groupBytes)

/-- The save size of a workgroup that owns nb banks (R139). -/
def Launch.saveSize (l : Launch) (nb : Nat) : Nat :=
  (4096 + l.groupsBefore l.groups + 0x20000 * nb + 0x4000 * l.tiles + 4095) / 4096 * 4096

/-- Offsets of the workgroup records from the slot's base (R137). -/
def recordOffsets (l : Launch) (ws : List Wg) : List Nat :=
  (upto ws.length).map (fun k => 4096 + sumL ((ws.take k).map (fun w => l.saveSize w.ownList.length)))

/-- The 32 bytes of a handle entry (R144). -/
def Handle.bits (h : Handle) : Nat :=
  h.base % 2 ^ 64 + h.limit % 2 ^ 32 * 2 ^ 64 + h.path % 16 * 2 ^ 96 + h.kind % 4 * 2 ^ 100 + h.policy % 8 * 2 ^ 102
    + b2n h.rr * 2 ^ 105 + b2n h.rw * 2 ^ 106 + b2n h.ra * 2 ^ 107 + b2n h.persist * 2 ^ 108 + h.gen % 256 * 2 ^ 112
    + h.kinfo.toNat * 2 ^ 128

/-- The tag map: 3 for registers outside the budget (R138). -/
def Group.tagMap (g : Group) (budget : Nat) : Nat :=
  sumL ((upto 128).map (fun r => (if budget ≤ r then 3 else (g.reg r).tag.code) * 4 ^ r))

/-- State code of a split record (R138). -/
def SplitState.code : SplitState → Nat
  | .live _ => 0
  | .ready => 1
  | .waiting _ => 2
  | .faulted => 3

/-- The 16 bytes of a split record, with its FAULTINFO code (R138). -/
def Split.bits (p : Split) (code : Nat) : Nat :=
  p.mask.toNat + p.pc % 2 ^ 22 * 2 ^ 32 + p.st.code * 2 ^ 54 + (p.liveIx.getD 0) % 4 * 2 ^ 56 + min (p.age / 16) 63 * 2 ^ 58
    + p.ret % 2 ^ 22 * 2 ^ 64 + b2n p.handler * 2 ^ 86 + (if p.handler then code % 256 else 0) * 2 ^ 87

/-- The fixed state of a group record (R138). -/
def Group.fixed (g : Group) (budget : Nat) : Nat :=
  g.m.toNat + min g.splits.length 63 * 2 ^ 16 + g.exited.toNat * 2 ^ 32
    + sumL ((upto 7).map (fun i => (mgetD g.preds i 0#32).toNat * 2 ^ (64 + 32 * i)))
    + sumL ((upto 12).map (fun f => g.flag f % 256 * 2 ^ (0x24 * 8 + 8 * f)))
    + g.tagMap budget * 2 ^ (0x30 * 8)
    + sumL ((upto 32).map (fun l => (mgetD g.srctr l 0#32).toNat * 2 ^ (0x50 * 8 + 32 * l)))
    + sumL (g.splits.zipIdx.map (fun e => if e.2 < 32 then e.1.bits (mgetD g.finfo e.1.lane0 0#32).toNat * 2 ^ (0x200 * 8 + 128 * e.2) else 0))

/-- Registers of a tag, ascending. -/
def Group.withTag (g : Group) (budget : Nat) (general : Bool) : List Nat :=
  (upto budget).filter (fun r => ((g.reg r).tag == .G) == general)

/-- The bytes of a register as stored at its tag (R115). -/
def Reg.packed (r : Reg) : List Byte :=
  let at_ := fun l => (r.val.getD l 0#32).toNat
  match r.tag with
  | .U => bytesLE 4 (at_ 0)
  | .A => bytesLE 4 (at_ 0) ++ bytesLE 4 (at_ 1 + 2 ^ 32 - at_ 0)
  | .G => allLanes.flatMap (fun l => bytesLE 4 (at_ l))

/-- The cells of a tile as bytes, 16 KB. -/
def Tile.bytes (t : Tile) : List Byte := (upto 4096).flatMap (fun i => bytesLE 4 (t.cells.getD i 0#32).toNat)

/-- The register area: G registers first, then U and A (R138). -/
def Group.area (g : Group) (budget : Nat) : List Byte :=
  (g.withTag budget true).flatMap (fun r => (g.reg r).packed) ++
  (g.withTag budget false).flatMap (fun r => (g.reg r).packed)

/-- The poison of a line of the register area: the lowest tag of the register's poisoned lanes (R138). -/
def Group.areaPois (g : Group) (budget : Nat) (i : Nat) : Option PTag :=
  match (g.withTag budget true)[i / 128]? with
  | some r => tagMinL ((g.reg r).pois.map (fun e => some e.2))
  | none => none

/-! ## The image of the recovery log (R132) -/

/-- The header of a log entry. -/
def logHeader (kind group index loc : Nat) : List Byte :=
  bytesLE 8 (loc % 2 ^ 48 + index % 128 * 2 ^ 48 + group % 32 * 2 ^ 55 + kind * 2 ^ 60)

/-- LOC of byte off of the scratchpad of workgroup key w: its offset there, or in the gang window. -/
def logLoc (own : Bool) (w off : Nat) : Nat := if own then off else w % 32 * 0x400000 + off

/-- The bytes of an entry, without its padding, in the log of workgroup key wk (log entry 142). -/
def LogEntry.bytes (wk : Nat) : LogEntry → List Byte
  | .reg k r old =>
    if old.tag = .G ∨ old.pois ≠ [] then logHeader 3 k r 0 ++ allLanes.flatMap (fun l => bytesLE 4 (old.val.getD l 0#32).toNat)
    else logHeader (if old.tag = .U then 1 else 2) k r 0 ++ old.packed
  | .word own w off old _ => logHeader (if own then 4 else 5) 0 0 (logLoc own w off) ++ bytesLE 4 old.toNat
  | .line ln old _ => logHeader 6 0 0 0 ++ bytesLE 8 (ln * 128) ++ bytesLE 128 old.toNat
  | .tile t old => logHeader 7 0 t 0 ++ old.bytes
  | .handle h old => logHeader 8 0 h 0 ++ bytesLE 32 (match old with
    | some x => x.bits
    | none => 0)
  | .fifo b old => logHeader 9 0 b 0 ++ bytesLE 4 old.rp ++ bytesLE 4 old.wp
  | .granule w off old _ => logHeader 10 0 0 (logLoc (w == wk) w off) ++ bytesLE 128 old.toNat

/-- Pads an entry to its size with zeros. -/
def padTo (n : Nat) (bs : List Byte) : List Byte := bs ++ (upto (n - bs.length)).map (fun _ => 0#8)

/-- The 192 bytes of a group in a frame. -/
def GroupFrame.bytes (f : GroupFrame) : List Byte :=
  (upto 7).flatMap (fun i => bytesLE 4 (mgetD f.preds i 0#32).toNat) ++ bytesLE 2 f.m.toNat ++ bytesLE 34 0
    ++ (upto 32).flatMap (fun l => bytesLE 4 (mgetD f.srctr l 0#32).toNat)

/-- The frame of a block: its header, the rest of the 64 bytes of block state, whose layout is not given (log entry 143), and its groups. -/
def Block.frameBytes (b : Block) (draws : Nat) : List Byte :=
  logHeader 15 0 0 0 ++ (upto 56).map (fun i => Config.freeByte (draws + i)) ++ b.frames.flatMap GroupFrame.bytes

/-- The log of a workgroup from its first byte: the blocks from the outermost in, the entries of each in the order in which
they were made. -/
def Wg.logImage (w : Wg) (wk draws : Nat) : List Byte :=
  w.blocks.reverse.zipIdx.flatMap (fun e =>
    e.1.frameBytes (draws + 64 * e.2) ++ e.1.log.reverse.flatMap (fun x => padTo x.size (x.bytes wk)))

/-- The image of a bank: 128 KB; past the end of the log, what a log-mode bank holds is free. -/
def Wg.bankBytes (w : Wg) (wk b draws : Nat) : List Byte :=
  match mget? w.banks b with
  | some k =>
    if k.mode = .log then
      let part := ((w.logImage wk draws).drop ((w.logList.findIdx (· == b)) * 0x20000)).take 0x20000
      part ++ (upto (0x20000 - part.length)).map (fun i => Config.freeByte (draws + 256 + i))
    else memGetL w.sram (b * 0x20000) 0x20000
  | none => []

/-- The poison of a line of a bank: the lowest of its four sectors. -/
def Wg.bankPois (w : Wg) (b i : Nat) : Option PTag :=
  tagMinL ((upto 4).map (fun j => mget? w.spois (b * 0x1000 + i / 128 * 4 + j)))

/-! ## Saving -/

/-- What the save of a workgroup reads is checked (R436): the registers of its groups within their budgets, its banks and its
tiles. -/
def State.checkWg (s : State) (wk : Nat) (l : Launch) : State :=
  if s.rel.latent.isEmpty then s
  else
    let s := (s.groupsOf wk).foldl (fun s e =>
      (upto (l.budget e.2.k)).foldl (fun s r => s.checkReg e.1 (BitVec.allOnes 32) r) s) s
    let s := match mget? s.wgs wk with
      | some w => w.ownList.foldl (fun s b => s.checkSram wk (b * 0x20000) 0x20000) s
      | none => s
    (upto l.tiles).foldl (fun s t => s.checkTile wk t 64) s

/-- Writes one workgroup record. -/
def State.saveWg (s : State) (nk : Nat) (l : Launch) (base : Nat) (k : Nat) : State :=
  let s := s.checkWg (wgKey nk k) l
  match mget? s.wgs (wgKey nk k) with
  | none => s
  | some w =>
    let core := w.core
    let hs := (upto 15).flatMap (fun i => bytesLE 32 (match mget? w.handles (i + 1) with
      | some h => h.bits
      | none => 0))
    let s := s.vaPut core l base (hs ++ (upto 544).map (fun i => Config.freeByte (s.draws + i))) noPois
    let s := s.draw 544
    let s := (mvals (s.groupsOf (wgKey nk k))).foldl (fun s g =>
      let at_ := base + 1024 + l.groupsBefore g.k
      let bud := l.budget g.k
      let s := s.vaPut core l at_ (bytesLE 1024 (g.fixed bud)) noPois
      s.vaPut core l (at_ + 1024) (g.area bud) (g.areaPois bud)) s
    let banks := base + 1024 + l.groupsBefore l.groups
    let s := w.ownList.zipIdx.foldl (fun s e =>
      (s.vaPut core l (banks + e.2 * 0x20000) (w.bankBytes (wgKey nk k) e.1 s.draws) (w.bankPois e.1)).draw 0x20100) s
    let tiles := banks + w.ownList.length * 0x20000
    (upto l.tiles).foldl (fun s t =>
      let x := mgetD w.tiles t Tile.zero
      s.vaPut core l (tiles + t * 0x4000) x.bytes (fun i => mget? x.pois (i / 256))) s

/-- The slot header (R137). -/
def saveHeader (s : State) (gg : Gang) (l : Launch) (ws : List Wg) : Nat :=
  0x47564153 + l.lrec % 2 ^ 64 * 2 ^ 64 + gg.index % 2 ^ 32 * 2 ^ 128 + (l.w + l.h * 16) * 2 ^ 160
    + (l.gen % 256 + s.time % 2 ^ 48 * 256) * 2 ^ 192
    + sumL ((recordOffsets l ws).zipIdx.map (fun e => e.1 % 2 ^ 32 * 2 ^ (256 + 32 * e.2)))
    + sumL (ws.map (fun w => (w.conv.getD 0) * 2 ^ (0x80 * 8 + 512 * w.k)))

/-- Workgroups of a gang in order. -/
def State.gangWgs (s : State) (nk : Nat) : List Wg := sortBy (·.k) ((mvals s.wgs).filter (fun w => w.gang == nk))

/-- Everything the save waits for has happened (R104, R139): nothing outstanding, every watch entry resolved, no rollback
and no debug stop under way. -/
def State.saveReady (s : State) (nk : Nat) : Bool :=
  (s.gangWgs nk).all (fun w => w.failing.isNone && !s.wgStopped (wgKey nk w.k) &&
    (mvals (s.groupsOf (wgKey nk w.k))).all (fun g =>
      g.pend.isEmpty && g.ops.isEmpty && !g.watching && g.splits.all (fun p => p.busy.isNone)))

/-- Lanes of a group that hold a struck entry not consumed (R195). -/
def Group.unchecked (g : Group) : Lanes :=
  g.watches.foldl (fun m w => if w.st = .struck then m ||| (w.lanes &&& ~~~ w.used) else m) 0#32

/-- The unchecked-strike faults before a save (R195): for split ix of group gk, one that has faulted already among them. -/
def State.strikeFault (s : State) (gk ix : Nat) : State :=
  match s.ctxOf gk ix with
  | none => s
  | some c =>
    let bad := c.sp.mask &&& c.g.unchecked
    if bad = 0#32 then s
    else s.takeFaultAt c (fun l => if bad.getLsbD l then some 0x0C else none) c.sp.pc
      (fun g q => g.divide c.ix ({ c.sp with mask := c.sp.mask &&& ~~~ bad } :: q))

/-- The earliest engine fault of a group that nothing has met is delivered where its first split stopped (R378). -/
def State.delayedFault (s : State) (gk : Nat) : State :=
  match mget? s.groups gk with
  | none => s
  | some g => match g.due none with
    | none => s
    | some d =>
      let s := s.updGroup gk (fun g => { g with delayed := g.delayed.filter (·.id != d.id) })
      match s.ctxOf gk ((g.splits.findIdx? (fun p => p.st != .faulted)).getD 0) with
      | none => s
      | some c =>
        if d.escape then s.failBlock c.wk 9 0 c.sp.pc false
        else s.takeFaultAt c (fun l => if c.sp.mask.getLsbD l then some d.code else none) c.sp.pc
          (fun g q => g.divide c.ix q)

/-- Every engine fault of a gang that nothing has met is delivered before its context is written (R378). -/
def State.delayedFaults (s : State) (nk : Nat) : State :=
  (s.groups.filter (fun e => e.2.wg / 32 == nk)).foldl (fun s e =>
    e.2.delayed.foldl (fun s _ => s.delayedFault e.1) s) s

/-- The faults of R195 in every split of a gang; answers a state in which a block may have failed instead. -/
def State.strikeFaults (s : State) (nk : Nat) : State :=
  (s.groups.filter (fun e => e.2.wg / 32 == nk)).foldl (fun s e =>
    (upto e.2.splits.length).foldr (fun i s => s.strikeFault e.1 i) s) s

/-- Some group of the gang holds a struck entry that no CHK has consumed. -/
def State.anyStruck (s : State) (nk : Nat) : Bool := s.groups.any (fun e => e.2.wg / 32 == nk && e.2.struck)

/-- Writes a gang's context, reports, and takes it off its cores (R104, R137, R244, R249, R259); a halt of replay ends
(R261). -/
def State.saveGang (s : State) (nk : Nat) (gg : Gang) (l : Launch) : State :=
  let s := s.rrNumbers nk
  let ws := s.gangWgs nk
  let base := l.slotBase (gg.slot.getD 0)
  let core := (ws.map (·.core)).headD 0
  let s := s.vaPut core l base (bytesLE 4096 (saveHeader s gg l ws)) noPois
  let s := (recordOffsets l ws).zipIdx.foldl (fun s e => s.saveWg nk l (base + e.1) e.2) s
  let gs := s.groups.filter (fun e => e.2.wg / 32 == nk)
  let s := gs.foldl (fun s e => s.writeCounters e.1 true) s
  let s := s.perturbGang nk l
  let s := s.emitL l gg.die 3 gg.die 0x08 (gg.index % 2 ^ 18 + l.queue % 1024 * 2 ^ 18 + gg.slot.getD 0 % 2 ^ 16 * 2 ^ 28)
  let s := { s with saved := mput s.saved nk { wgs := s.wgs.filter (fun e => e.2.gang == nk), groups := gs } }
  let s := (s.unplace nk).updGang nk (fun g => { g with st := .saved, halted := false })
  (s.updLaunch gg.launch (fun l => { l with rung := max l.rung 2 })).wantPass l.part

/-! ## Restoring -/

/-- A register read back from the area: its packed value at a tag, and poison of its whole line (R138). -/
def unpackReg (t : Tag) (bs : List (Byte × Option PTag)) : Reg :=
  let w := fun i => BitVec.ofNat 32 (ofBytesLE ((bs.drop (4 * i)).take 4 |>.map (·.1)))
  { val := allLanes.map (fun l => match t with
      | .U => w 0
      | .A => w 0 + BitVec.ofNat 32 l * w 1
      | .G => w l)
    tag := t
    pois := match t, tagMinL (bs.map (·.2)) with
      | .G, some p => allLanes.map (fun l => (l, p))
      | _, _ => [] }

/-- The tag of a code of the tag map. -/
def tagOf (n : Nat) : Option Tag := match n with
  | 0 => some .U
  | 1 => some .A
  | 2 => some .G
  | _ => none

/-- Bytes of a register at its tag. -/
def Tag.size : Tag → Nat
  | .U => 4
  | .A => 8
  | .G => 128

/-- The registers of an area whose tag map is tm: G registers come first (R138). -/
def readArea (tm : Nat) (bs : List (Byte × Option PTag)) : Map Reg :=
  let tags := (upto 128).filterMap (fun r => (tagOf (tm / 4 ^ r % 4)).map (fun t => (r, t)))
  let order := tags.filter (fun e => e.2 == .G) ++ tags.filter (fun e => e.2 != .G)
  (order.foldl (fun (acc : Map Reg × List (Byte × Option PTag)) e =>
    (if e.1 = 0 then acc.1 else mput acc.1 e.1 (unpackReg e.2 (acc.2.take e.2.size)), acc.2.drop e.2.size))
    (([] : Map Reg), bs)).1

/-- A split as its record has it; where the record gives a field no place, old has it. It takes its clause context when it
next issues (R269 step 5). -/
def readSplit (v : Nat) (old : Split) : Split :=
  { old with
    mask := BitVec.ofNat 32 v
    pc := nbits v 53 32
    st := match nbits v 55 54 with
      | 0 => .live (nbits v 57 56)
      | 1 => .ready
      | 2 => old.st
      | _ => .faulted
    age := nbits v 63 58 * 16
    ret := nbits v 85 64
    handler := nbit v 86
    fcode := if nbit v 86 && nbits v 55 54 != 3 then nbits v 94 87 else old.fcode
    inClause := false
    resume := true }

/-- A group as its record has it (R138): fixed state v, register area bs; flags of nothing outstanding are as saved. -/
def Group.read (g : Group) (v : Nat) (bs : List (Byte × Option PTag)) : Group :=
  let ps := g.splits.zipIdx.map (fun e => readSplit (nbits v (0x200 * 8 + 128 * e.2 + 127) (0x200 * 8 + 128 * e.2)) e.1)
  { g with
    m := BitVec.ofNat 16 v
    exited := BitVec.ofNat 32 (v / 2 ^ 32)
    preds := (upto 7).map (fun i => (i, BitVec.ofNat 32 (v / 2 ^ (64 + 32 * i))))
    flags := (upto 12).map (fun f => (f, nbits v (0x24 * 8 + 8 * f + 7) (0x24 * 8 + 8 * f)))
    srctr := (upto 32).map (fun l => (l, BitVec.ofNat 32 (v / 2 ^ (0x50 * 8 + 32 * l))))
    regs := readArea (nbits v (0x30 * 8 + 255) (0x30 * 8)) bs
    splits := ps.take (nbits v 21 16)
    finfo := ps.foldl (fun m p =>
      if p.handler && p.st != .faulted then (lanesOf p.mask).foldl (fun m l => mput m l (faultInfo p.fcode p.ret)) m
      else m) g.finfo
    watches := [], resv := [], cnt := [] }

/-- A workgroup as its record has it: handles, banks, tiles; its banks take physical banks of the new core. -/
def Wg.read (w : Wg) (core : Nat) (owned : List Nat) (hs : List (Byte × Option PTag))
    (banks : List (Nat × List (Byte × Option PTag))) (tiles : List (List (Byte × Option PTag))) : Wg :=
  let h := fun i => ofBytesLE (((hs.drop (32 * i)).take 32).map (·.1))
  { w with
    core := core
    handles := (upto 15).filterMap (fun i => if h i = 0 then none else some (i + 1, handleOf (h i)))
    banks := (w.banks.foldl (fun (acc : Map Bank × List Nat) e => match e.2.mode, freeBank acc.2 with
      | .cache, _ => (mput acc.1 e.1 e.2, acc.2)
      | _, some p => (mput acc.1 e.1 { e.2 with phys := some p }, p :: acc.2)
      | _, none => (mput acc.1 e.1 e.2, acc.2)) (([] : Map Bank), owned)).1
    sram := banks.foldl (fun m e => memPutL m (e.1 * 0x20000) (e.2.map (·.1))) []
    spois := banks.foldl (fun m e => (upto 0x1000).foldl (fun m i => match e.2[32 * i]? with
      | some (_, some t) => mput m (e.1 * 0x1000 + i) t
      | _ => m) m) []
    tiles := tiles.zipIdx.map (fun e =>
      (e.2, { cells := (upto 4096).map (fun i => BitVec.ofNat 32 (ofBytesLE (((e.1.drop (4 * i)).take 4).map (·.1))))
              pois := (upto 64).filterMap (fun r =>
                (tagMinL (((e.1.drop (256 * r)).take 256).map (·.2))).map (fun t => (r, t))) })) }

/-- Restores one workgroup of a saved gang on a core. -/
def State.restoreWg (s : State) (nk : Nat) (l : Launch) (base core : Nat) (w : Wg) (gs : List Group) : State :=
  let own := w.ownList
  let (hs, s) := (s.dropR core).vaGet core l base 480
  let at_ := base + 1024 + l.groupsBefore l.groups
  let (bs, s) := own.zipIdx.foldl (fun (acc : List (Nat × List (Byte × Option PTag)) × State) e =>
    let (x, s) := acc.2.vaGet core l (at_ + e.2 * 0x20000) 0x20000
    (acc.1 ++ [(e.1, x)], s)) ([], s)
  let (ts, s) := (upto l.tiles).foldl (fun (acc : List (List (Byte × Option PTag)) × State) t =>
    let (x, s) := acc.2.vaGet core l (at_ + own.length * 0x20000 + t * 0x4000) 0x4000
    (acc.1 ++ [x], s)) ([], s)
  let (gs, s) := gs.foldl (fun (acc : List Group × State) g =>
    let a := base + 1024 + l.groupsBefore g.k
    let (v, s) := acc.2.vaGet core l a 1024
    let (x, s) := s.vaGet core l (a + 1024) (128 * l.budget g.k)
    (acc.1 ++ [g.read (ofBytesLE (v.map (·.1))) x], s)) ([], s)
  let w' := w.read core (s.ownedBanks core) hs bs ts
  let s := { s with wgs := mput s.wgs (wgKey nk w.k) w' }
  let s := s.dealGroups core (wgKey nk w.k) gs
  let s := gs.foldl (fun s g => s.rrResume (groupKey (wgKey nk w.k) g.k)) s
  s.shrinkPool core own.length

/-- Places a saved gang again at an origin (R99, R139). -/
def State.restoreGang (s : State) (nk die row col : Nat) : State :=
  match mget? s.gangs nk, mget? s.saved nk with
  | some gg, some sv => (match mget? s.launches gg.launch with
    | none => s
    | some l =>
      let ws := sortBy (·.k) (mvals sv.wgs)
      let base := l.slotBase (gg.slot.getD 0)
      let offs := recordOffsets l ws
      let s := (rectangle die row col l.w l.h).zipIdx.foldl (fun s e => match ws[e.2]?, offs[e.2]? with
        | some w, some o =>
          s.restoreWg nk l (base + o) e.1 w ((mvals sv.groups).filter (fun g => g.wg == wgKey nk w.k))
        | _, _ => s) s
      let s := { s with saved := mdel s.saved nk }
      s.updGang nk (fun g => { g with st := .placed, die := die, origin := row * 8 + col }))
  | _, _ => s

end Sys2Proof.Machine
end

