-- ==== Sys2Proof/Machine/Dispatcher.lean ====
section
/-! DEFINITION. The dispatcher: partitions (R91, R92), head gangs and priorities (R93), placement passes and anchors (R99 to
R101), the pre-emption ladder (R103 to R105), and FRESUME (R125). -/

namespace Sys2Proof.Machine

/-! ## Partitions (R91, R92) -/

/-- Core c belongs to partition p (R91). -/
def State.coreIn (s : State) (c p : Nat) : Bool := s.fld (0x100 + c) 4 4 == 1 && s.fld (0x100 + c) 3 0 == p

/-- An anchored rectangle covers core c; ex leaves out the anchor of one gang. -/
def State.anchored (s : State) (c : Nat) (ex : Option Nat) : Bool :=
  s.kul.anchors.any (fun e =>
    let (nk, die, o, w, h) := e.2
    some nk != ex && (rectangle die (o / 8) (o % 8) w h).contains c)

/-- Origins of a W×H rectangle in the order of R99: die, row, column. -/
def origins (w h : Nat) : List (Nat × Nat × Nat) :=
  (upto 4).flatMap (fun d => (upto (7 - h)).flatMap (fun r => (upto (9 - w)).map (fun c => (d, r, c))))

/-- The partition holds every core of a rectangle (R99). -/
def State.rectIn (s : State) (p die row col w h : Nat) : Bool := (rectangle die row col w h).all (fun c => s.coreIn c p)

/-- The partition holds some W×H rectangle on one die (R88, R92). -/
def State.shapeFits (s : State) (p w h : Nat) : Bool := (origins w h).any (fun o => s.rectIn p o.1 o.2.1 o.2.2 w h)

/-- Anchors of gangs that p names end (R101). -/
def State.dropAnchor (s : State) (p : Nat → Bool) : State :=
  { s with kul := { s.kul with anchors := s.kul.anchors.filter (fun e => !p e.2.1) } }

/-- The gang of key nk belongs to launch lk. -/
def ofLaunch (lk nk : Nat) : Bool := nk / 2 ^ 48 == lk

/-- A launch is ended with an error code (R92): its resident gangs run on, its other gangs are discarded. -/
def State.endLaunch (s : State) (lk code : Nat) : State :=
  let s := s.updLaunch lk (fun l => { l with ended := some code })
  let s := { s with
    gangs := s.gangs.filter (fun e => !(e.2.launch == lk && e.2.st == GangState.saved))
    saved := s.saved.filter (fun e => !ofLaunch lk e.1)
    kul := { s.kul with waiters := s.kul.waiters.filter (fun w => match w.owner with
      | .dep l _ => l != lk
      | .queue .. => true) } }
  s.dropAnchor (fun nk => ofLaunch lk nk && (match mget? s.gangs nk with
    | some g => g.st == GangState.saved
    | none => true))

/-- Launches of a partition whose shape no longer fits are ended (R92). -/
def State.endUnfit (s : State) (p : Nat) : State :=
  s.launches.foldl (fun s e =>
    if e.2.part = p && e.2.ended.isNone && !s.shapeFits p e.2.w e.2.h then s.endLaunch e.1 3 else s) s

/-- The partition that a CPART value gives its core to. -/
def cpartOf (v : BitVec 64) : Option Nat := if b64 v 4 4 = 1 then some (b64 v 3 0) else none

/-- What an accepted change of CPARTn brings about in the partitions that lose or gain the core (R92, R100, log entry 163). -/
def State.setCpart (s : State) (n : Nat) (v : BitVec 64) : State :=
  let was := cpartOf (s.reg (0x100 + n))
  let s := s.setReg (0x100 + n) v
  let ps := if was = cpartOf v then [] else was.toList ++ (cpartOf v).toList
  ps.foldl (fun s p => (s.endUnfit p).wantPass p) s

/-- A write of CPARTn (R91): refused while the core holds a workgroup or lies in an anchored rectangle. -/
def State.writeCpart (s : State) (n : Nat) (v : BitVec 64) : State :=
  if 192 ≤ n then s
  else if !(s.wgsOn n).isEmpty || s.anchored n none then s.setFld 0x1D 0 0 1
  else s.setCpart n (v &&& 0x1F#64)

/-- CPART_WRITE (R91, R92). -/
def execCpartWrite (n : BitVec 8) (v : BitVec 64) (s : State) : Host.Outcome State Fault Refusal :=
  .next (s.writeCpart n.toNat v)

/-- Event ranges of two partitions overlap: they share an event. -/
def State.evOverlap (s : State) (p q : Nat) : Bool :=
  let a := s.fld (0x40 + p) 15 0
  let b := s.fld (0x40 + q) 15 0
  let m := s.fld (0x40 + p) 48 32
  let n := s.fld (0x40 + q) 48 32
  0 < m && 0 < n && a < b + n && b < a + m

/-- A write of PARTCTLn (R91). -/
def State.writePartctl (s : State) (n : Nat) (v : BitVec 64) : State :=
  let v := v &&& 0xF001FFFF0000FFFF#64
  let s' := s.setReg (0x40 + n) v
  let changes := s.fld (0x40 + n) 48 0 ≠ b64 v 48 0
  let busy := s.kul.queues.any (fun e => e.2.enable && e.2.part == n)
  if 65536 < b64 v 15 0 + b64 v 48 32 || (upto 16).any (fun q => q != n && s'.evOverlap n q) || (changes && busy) then
    s.setFld 0x1D 1 1 1
  else s'

/-- PARTCTL_WRITE (R91). -/
def execPartctlWrite (n : BitVec 4) (v : BitVec 64) (s : State) : Host.Outcome State Fault Refusal :=
  .next (s.writePartctl n.toNat v)

/-! ## Head gangs (R93) -/

/-- A gang that may be placed: its launch, its index, and whether it is a saved one. -/
structure Head where
  lk    : Nat
  l     : Launch
  index : Nat
  saved : Bool

def Head.nk (h : Head) : Nat := gangKey h.lk h.index

/-- Launches of a queue, oldest first. -/
def State.queueLaunches (s : State) (q : Nat) : List (Nat × Launch) :=
  sortBy (fun e => e.2.order) (s.launches.filter (fun e => e.2.queue == q))

/-- The head gang of a queue (R93); one under a ladder, or held by one that ended, has none (R60, R104). -/
def State.headGang (s : State) (q : Nat) : Option Head :=
  let x := s.queue q
  if x.ladder.isSome || x.hold || x.st = .stopped || x.st = .disabled then none
  else
    let ls := s.queueLaunches q
    let sv := ls.findSome? (fun e =>
      match s.gangs.find? (fun g => g.2.launch == e.1 && g.2.st == .saved) with
      | some (_, g) => some { lk := e.1, l := e.2, index := g.index, saved := true : Head }
      | none => none)
    match sv with
    | some h => some h
    | none => match ls.find? (fun e => e.2.ended.isNone && e.2.nextGang < e.2.count) with
      | some (lk, l) =>
        if l.deps.all (fun d => d.2.2) then some { lk := lk, l := l, index := l.nextGang, saved := false } else none
      | none => none

/-- The effective priority of a queue whose head gang is of launch l (R93). -/
def State.effPrio (s : State) (q : Nat) (l : Launch) : Nat :=
  let x := s.queue q
  min x.prio (min (s.fld (0x40 + l.part) 63 60) l.prio)

/-- The order of queues of partition p in a pass (R100). -/
def State.dispatchOrder (s : State) (p : Nat) : List Nat :=
  let qs := s.kul.queues.filterMap (fun e => (s.headGang e.1).map (fun h => (e.1, h)))
  let mine := qs.filter (fun e => e.2.l.part == p)
  (sortBy (fun e => (15 - s.effPrio e.1 e.2.l) * 2 ^ 64 + e.2.l.order) mine).map (·.1)

/-! ## Placement (R99) -/

/-- Save slots that gangs of a launch hold. -/
def State.slotsHeld (s : State) (lk : Nat) : List Nat :=
  s.gangs.filterMap (fun e => if e.2.launch = lk then e.2.slot else none)

/-- Banks that the workgroups of a head gang need, in order (R98): one for each logical bank that BANKPLAN does not set to
cache; a saved workgroup that owns more needs those it owns (log entry 88). -/
def State.headBanks (s : State) (h : Head) : List Nat :=
  match mget? s.saved h.nk with
  | some sv => (sortBy (·.k) (mvals sv.wgs)).map (fun w => max h.l.ownBanks.length w.ownList.length)
  | none => (upto (h.l.w * h.l.h)).map (fun _ => h.l.ownBanks.length)

/-- First fit (R99). -/
def State.firstFit (s : State) (h : Head) : Option (Nat × Nat × Nat) :=
  let l := h.l
  if !h.saved && 0 < l.saveslots && l.saveslots ≤ (s.slotsHeld h.lk).length then none
  else
    let nb := s.headBanks h
    (origins l.w l.h).find? (fun o =>
      let cs := rectangle o.1 o.2.1 o.2.2 l.w l.h
      s.rectIn l.part o.1 o.2.1 o.2.2 l.w l.h && cs.all (fun c => !s.anchored c (some h.nk)) &&
      cs.zipIdx.all (fun e => s.fits l (nb.getD e.2 0) e.1))

/-- Places a head gang at an origin, and reports it (R99, R235). -/
def State.placeHead (s : State) (h : Head) (o : Nat × Nat × Nat) : State :=
  let (die, row, col) := o
  let l := h.l
  let s := if h.saved then s.restoreGang h.nk die row col
    else
      let used := s.slotsHeld h.lk
      let slot := if l.saveslots = 0 then none else (upto l.saveslots).find? (fun i => !used.contains i)
      (s.placeGang h.lk l h.index die row col slot).updLaunch h.lk (fun x => { x with nextGang := x.nextGang + 1 })
  s.emitL l die 3 die 0x06 (h.index % 2 ^ 18 + l.queue % 1024 * 2 ^ 18 + (die * 48 + row * 8 + col) * 2 ^ 28
    + l.w * 2 ^ 36 + l.h * 2 ^ 40)

/-- Cores of a rectangle that hold a workgroup. -/
def State.occupied (s : State) (cs : List Nat) : Nat := (cs.filter (fun c => !(s.wgsOn c).isEmpty)).length

/-- Reserves a rectangle for a gang (R101). -/
def State.anchor (s : State) (p : Nat) (h : Head) : State :=
  let l := h.l
  let os := (origins l.w l.h).filter (fun o => s.rectIn p o.1 o.2.1 o.2.2 l.w l.h &&
    (rectangle o.1 o.2.1 o.2.2 l.w l.h).all (fun c => !s.anchored c none))
  match leastBy (fun o => s.occupied (rectangle o.1 o.2.1 o.2.2 l.w l.h)) os with
  | some (d, r, c) =>
    { s with kul := { s.kul with anchors := mput s.kul.anchors p (h.nk, d, r * 8 + c, l.w, l.h) } }
  | none => s

/-- The gang counted as blocked head of a partition and its failures (R100). -/
def State.failsOf (s : State) (p : Nat) : Option (Nat × Nat) := mget? s.kul.fails p

/-- A head gang has been placed: its anchor and its count end (R100). -/
def State.placedHead (s : State) (p nk : Nat) : State :=
  let s := s.dropAnchor (· == nk)
  match s.failsOf p with
  | some (g, _) => if g = nk then { s with kul := { s.kul with fails := mdel s.kul.fails p } } else s
  | none => s

/-- The blocked head fails once more, and is anchored at 64 (R100, R101). -/
def State.blockedHead (s : State) (p : Nat) (h : Head) : State :=
  let n := match s.failsOf p with
    | some (g, n) => if g = h.nk then n + 1 else 1
    | none => 1
  let s := { s with kul := { s.kul with fails := mput s.kul.fails p (h.nk, n) } }
  if 64 ≤ n && (mget? s.kul.anchors p).isNone then s.anchor p h else s

/-- The dispatcher's latch keeps a record of the partition: it places no gang of it (R243). -/
def State.dispLatched (s : State) (p : Nat) : Bool := (upto 4).any (fun d => s.latched p 3 d)

/-- Places a queue's gangs head after head (R100), while the dispatcher's latch is free; fuel bounds the gangs a device can
hold. -/
def State.passQueue (s : State) (p q : Nat) (blocked : Bool) : Nat → Bool × State
  | 0 => (blocked, s)
  | fuel + 1 => match s.headGang q with
    | none => (blocked, s)
    | some h => if s.dispLatched p then (blocked, s) else match s.firstFit h with
      | some o => ((s.placeHead h o).placedHead p h.nk).passQueue p q blocked fuel
      | none => (true, if blocked then s else s.blockedHead p h)

/-- One placement pass over a partition (R100). -/
def State.pass (s : State) (p : Nat) : State :=
  ((s.dispatchOrder p).foldl (fun (acc : Bool × State) q => acc.2.passQueue p q acc.1 12289) (false, s)).2

/-- A pass is carried out, and the partition's demand for one is met, unless the latch has filled on the way. -/
def State.runPass (s : State) (p : Nat) : State :=
  if s.dispLatched p then s
  else
    let s := s.pass p
    { s with kul := { s.kul with passes := if s.dispLatched p then s.kul.passes else s.kul.passes.filter (· != p), lastPass := mput s.kul.lastPass p s.time } }

/-- PLACEMENT_PASS (R100): when something has called for one. -/
def execPlacementPass (p : BitVec 4) (s : State) : Host.Outcome State Fault Refusal :=
  .next (if s.kul.passes.contains p.toNat then s.runPass p.toNat else s)

/-- PLACEMENT_RETRY (R100): once every microsecond while a head gang could not be placed. -/
def execPlacementRetry (p : BitVec 4) (s : State) : Host.Outcome State Fault Refusal :=
  .next (if !(s.dispatchOrder p.toNat).isEmpty && mgetD s.kul.lastPass p.toNat 0 + 16000 ≤ s.time then s.runPass p.toNat
    else s)

/-! ## The pre-emption ladder (R104) -/

/-- Gangs of a queue's launches in a state. -/
def State.gangsIn (s : State) (q : Nat) (p : GangState → Bool) : List (Nat × Gang) :=
  s.gangs.filter (fun e => p e.2.st && (match mget? s.launches e.2.launch with
    | some l => l.queue == q
    | none => false))

/-- A ladder on queue q starts (R104 step 1), or raises the one that runs (R69, R60); HOLD is
kept when either asks for it (log entry 171). -/
def State.startLadder (s : State) (q top : Nat) (hold disable : Bool) (done : List (Nat × Nat × Nat × Bool)) : State :=
  match (s.queue q).ladder with
  | some ld =>
    s.updQueue q (fun x => { x with ladder := some { ld with
      top := max ld.top top, hold := ld.hold || hold, disable := ld.disable || disable, done := ld.done ++ done } })
  | none =>
    let s := s.dropAnchor (fun nk => match mget? s.launches (nk / 2 ^ 48) with
      | some l => l.queue == q
      | none => false)
    let s := s.updQueue q (fun x => { x with
      rung := 0
      ladder := some { top := top, hold := hold, step := 1, since := s.time, rung := 0, done := done, disable := disable } })
    (s.gangsIn q (fun st => st == .placed || st == .running)).foldl (fun s e =>
      (s.updGang e.1 (fun g => { g with st := .draining })).updLaunch e.2.launch (fun l => { l with rung := max l.rung 1 })) s

/-- A queue leaves what held it: READY when packets are announced, otherwise IDLE (R64, R71). -/
def Queue.awake (x : Queue) : QState := if x.rdidx = x.wrseen && x.bound.isNone then .idle else .ready

/-- The packet is done: its kind 0 or other entry is posted when CQE is set (R67). -/
def State.postDone (s : State) (q kind tag index detail : Nat) (cqe_ : Bool) : State :=
  if cqe_ then s.postCq q (cqe kind q tag 0 index detail) none else s

/-- A queue that held its launches back lets them go: with a head gang, a launch of it becomes placeable (R100, log entry 163). -/
def State.letGo (s : State) (q : Nat) : State := if (s.headGang q).isSome then s.wantPass (s.queue q).part else s

/-- WAIT packets of a queue wait no longer. -/
def State.dropWaits (s : State) (q : Nat) : State :=
  { s with kul := { s.kul with waiters := s.kul.waiters.filter (fun w => match w.owner with
    | .queue k .. => k != q
    | .dep .. => true) } }

/-- The ladder of a queue ends (R104); a queue that an earlier ladder has stopped stays so (R72), and one that is to be disabled
is (R60). -/
def State.endLadder (s : State) (q : Nat) : State :=
  match (s.queue q).ladder with
  | none => s
  | some ld =>
    let rung := max 1 ld.rung
    let s := s.updQueue q (fun x => { x with
      rung := rung
      ladder := none
      hold := ld.hold || x.hold
      rsy := x.rsy && !ld.disable
      bound := if ld.disable then none else x.bound
      wait := if ld.disable then none else x.wait
      lane := if ld.hold || ld.disable then none else x.lane
      st := if ld.disable then .disabled else if ld.hold && x.st ≠ .disabled then .stopped else x.st })
    let s := s.emitQ (s.queue q).part 64 0x0A (q % 1024 + rung * 2 ^ 10)
    let s := ld.done.foldl (fun s d => s.postDone d.1 4 d.2.1 d.2.2.1 (rung + q % 1024 * 8) d.2.2.2) s
    let s := ld.done.foldl (fun s d => s.unblock d.1) s
    (if ld.disable then s.dropWaits q else s).letGo q

/-- The ladder of a queue ends when no gang of it drains or is being saved. -/
def State.checkLadder (s : State) (q : Nat) : State :=
  if (s.gangsIn q (fun st => st == .draining || st == .saving)).isEmpty then s.endLadder q else s

/-- The ladder reaches a rung. -/
def State.reach (s : State) (q r : Nat) : State :=
  s.updQueue q (fun x => { x with ladder := x.ladder.map (fun ld => { ld with rung := max ld.rung r }) })

/-- A gang is reset (R104 step 4): its open blocks fail with cause 11, nothing of it is left. -/
def State.resetGang (s : State) (nk : Nat) : State :=
  match mget? s.gangs nk with
  | none => s
  | some gg => match mget? s.launches gg.launch with
    | none => s
    | some l =>
      let s := (s.wgs.filter (fun e => e.2.gang == nk)).foldl (fun s e =>
        e.2.blocks.zipIdx.foldl (fun s b => s.emitBlock e.1 2 11 (e.2.blocks.length - 1 - b.2)) s) s
      let s := s.emitL l gg.die 3 gg.die 0x09 (gg.index % 2 ^ 18 + l.queue % 1024 * 2 ^ 18)
      let s := s.unplace nk
      { s with gangs := mdel s.gangs nk, saved := mdel s.saved nk }

/-- A launch that had a gang reset retires at once (R104): its other gangs are discarded, an error entry is posted, its
event is not signalled, and QSW.ERR keeps its value (log entry 172). -/
def State.destroyLaunch (s : State) (lk code : Nat) : State :=
  match mget? s.launches lk with
  | none => s
  | some l =>
    let s := (mkeys (s.gangs.filter (fun e => e.2.launch == lk))).foldl (fun s nk => s.resetGang nk) s
    let s := s.endLaunch lk code
    let s := s.dropAnchor (ofLaunch lk)
    let s := { s with
      launches := mdel s.launches lk
      power := { s.power with persist := s.power.persist.filterMap (fun (r : Nat × Nat × List Nat) =>
        let ls := r.2.2.filter (· != lk)
        if ls.isEmpty then none else some (r.1, r.2.1, ls)) } }
    let s := s.postErr l.queue l.tag code l.index
    (s.unblock l.queue).wantPass l.part

/-- Gangs of a queue that reach step 4, by launch. -/
def State.resetAll (s : State) (q : Nat) (nks : List (Nat × Gang)) : State :=
  if nks.isEmpty then s
  else (dedup (nks.map (fun e => e.2.launch))).foldl (fun s lk => s.destroyLaunch lk 7) (s.reach q 3)

/-- DRAIN_COMPLETE (R104): no gang of the queue drains or is being saved. -/
def execDrainComplete (q : BitVec 10) (s : State) : Host.Outcome State Fault Refusal :=
  .next (if (s.queue q.toNat).ladder.isSome then s.checkLadder q.toNat else s)

/-- The limit in ticks of Peal time of a register that counts microseconds (R103). -/
def State.limitOf (s : State) (n : Nat) : Nat := s.fld n 31 0 * 16000

/-- DRAIN_LIMIT (R104 step 2): the drain has lasted PREEMPT_DRAIN_LIMIT; gangs left are to be saved, or reset when their
launch has no save slots. -/
def execDrainLimit (q : BitVec 10) (s : State) : Host.Outcome State Fault Refusal :=
  let k := q.toNat
  .next (match (s.queue k).ladder with
  | none => s
  | some ld =>
    if ld.step = 1 ∧ 2 ≤ ld.top ∧ ld.since + s.limitOf 0x1E ≤ s.time then
      let left := s.gangsIn k (· == .draining)
      let s := s.updQueue k (fun x => { x with ladder := some { ld with step := 2, since := s.time } })
      let hasSlot := fun (e : Nat × Gang) => e.2.slot.isSome
      let s := (left.filter hasSlot).foldl (fun s e => s.updGang e.1 (fun g => { g with st := .saving })) s
      (s.resetAll k (left.filter (fun e => !hasSlot e))).checkLadder k
    else s)

/-- SAVE (R104 step 3, R195): a gang that is being saved has nothing outstanding; lanes with an unchecked strike take
their fault first, and its context is written. -/
def execSave (gang : Nat) (s : State) : Host.Outcome State Fault Refusal :=
  .next (match mget? s.gangs gang with
  | none => s
  | some gg => match mget? s.launches gg.launch with
    | none => s
    | some l =>
      if gg.st ≠ .saving || !s.saveReady gang then s
      else
        let s := if s.anyStruck gang then s.strikeFaults gang else s
        let s := if s.saveReady gang then s.delayedFaults gang else s
        if !s.saveReady gang then s
        else (s.saveGang gang gg l).reach l.queue 2 |>.checkLadder l.queue)

/-- SAVE_LIMIT (R104 step 3): with TOP 3, gangs not saved within PREEMPT_SAVE_LIMIT are reset. -/
def execSaveLimit (q : BitVec 10) (s : State) : Host.Outcome State Fault Refusal :=
  let k := q.toNat
  .next (match (s.queue k).ladder with
  | none => s
  | some ld =>
    if ld.step = 2 ∧ ld.top = 3 ∧ ld.since + s.limitOf 0x1F ≤ s.time then
      (s.resetAll k (s.gangsIn k (· == .saving))).checkLadder k
    else s)

/-! ## FRESUME (R125) -/

/-- The group that a FRESUME value names. -/
def State.fresumeGroup (s : State) (v : BitVec 64) : Option Nat :=
  match s.launches.find? (fun e => e.2.queue == b64 v 9 0 && e.2.index == b64 v 49 18) with
  | none => none
  | some (lk, _) =>
    let gk := groupKey (wgKey (gangKey lk (s.fld 0x35 47 0)) (b64 v 54 50)) (b64 v 59 55)
    if (mget? s.groups gk).isSome then some gk else none

/-- The position of the faulted split of a group with the lowest return point. -/
def Group.faultedIx (g : Group) : Option Nat :=
  (leastBy (fun e => e.1.ret) (g.splits.zipIdx.filter (fun e => e.1.st == .faulted))).map (·.2)

/-- A write of FRESUME with this ACTION: RESULT 1 with the faulted split treated by f, or RESULT 2 (R125). -/
def State.fresume (s : State) (v : BitVec 64) (f : Group → Nat → Split → Group) : State :=
  match s.fresumeGroup v with
  | none => s.setFld 0x20 63 62 2
  | some gk => match mget? s.groups gk with
    | none => s.setFld 0x20 63 62 2
    | some g => match g.faultedIx with
      | none => s.setFld 0x20 63 62 2
      | some ix => match g.splits[ix]? with
        | none => s.setFld 0x20 63 62 2
        | some p =>
          let s := (s.updGroup gk (fun g => ((f g ix p).settle g.splits).lastExit)).setFld 0x20 63 62 1
          s.wgSettle g.wg

/-- A faulted split goes on at its return point plus k; one that faulted in the fault entry is still in it, with the
return point and code of its FAULTINFO (R124). -/
def Split.resumed (p : Split) (g : Group) (k : Nat) : Split :=
  let fi := (mgetD g.finfo p.lane0 0#32).toNat
  { p with
    st := .ready, pc := p.ret + k, ret := if p.handler then nbits fi 29 8 else 0, fcode := if p.handler then nbits fi 7 0 else 0
    inClause := false, resume := true, age := 0, stall := 12, busy := none, wait := 0#12 }

/-- FRESUME by its action. -/
def State.writeFresume (s : State) (v : BitVec 64) : State :=
  match b64 v 61 60 with
  | 0 => s.fresume v (fun g ix p => { g with splits := g.splits.set ix (p.resumed g 0) })
  | 1 => s.fresume v (fun g ix p => { g with splits := g.splits.set ix (p.resumed g 1) })
  | 2 => s.fresume v (fun g ix p =>
      { g with
        splits := g.splits.eraseIdx ix, exited := g.exited ||| p.mask
        resv := g.resv.filter (fun r => !p.mask.getLsbD r.1), finfo := g.finfo.filter (fun r => !p.mask.getLsbD r.1) })
  | _ => s.setFld 0x20 63 62 3

/-- FRESUME_REPLAY, FRESUME_SKIP and FRESUME_EXIT (R125): the value with ACTION 0, 1 and 2. -/
def execFresumeReplay (v : BitVec 64) (s : State) : Host.Outcome State Fault Refusal := .next (s.writeFresume (setBits v 61 60 0))
def execFresumeSkip (v : BitVec 64) (s : State) : Host.Outcome State Fault Refusal := .next (s.writeFresume (setBits v 61 60 1))
def execFresumeExit (v : BitVec 64) (s : State) : Host.Outcome State Fault Refusal := .next (s.writeFresume (setBits v 61 60 2))

end Sys2Proof.Machine
end

