-- ==== Sys2Proof/Machine/Power.lean ====
section
/-! DEFINITION. Tocsin, the current limit and the margins (R30, R31, R36, R39 to R46, R55 to R58, R245). -/

namespace Sys2Proof.Machine

/-! ## Levels and grades -/

/-- Replaces power management. -/
def State.setPower (s : State) (p : Power) : State := { s with power := p }

/-- Fields of a step level (R39). -/
def State.pcap (s : State) (n : Nat) : Nat := s.fld (0x10 + n) 11 0
def State.mfloor (s : State) (n : Nat) : Nat := s.fld (0x10 + n) 19 16
def State.vfloor (s : State) (n : Nat) : Nat := s.fld (0x10 + n) 23 20

/-- Deepest stage applied, and grades applied within it (R46). -/
def Power.stage (p : Power) : Nat := p.applied.headD 0
def Power.grade (p : Power) : Nat := (p.applied.filter (· == p.stage)).length

/-- Grades that a stage has (R41). -/
def State.grades (s : State) (stage : Nat) : Nat :=
  match stage with
  | 4 => 8 - s.mfloor s.power.level
  | 5 => 8 - s.vfloor s.power.level
  | 6 => 5
  | _ => 1

/-- The stage of the next grade: the current stage while it has grades left, else the next stage that has one (R42). -/
def State.nextStage (s : State) : Option Nat :=
  let k := s.power.stage
  if 0 < k ∧ s.power.grade < s.grades k then some k
  else ([1, 2, 3, 4, 5, 6, 7].filter (k < ·)).find? (fun j => 0 < s.grades j)

/-- TSTAT (R46). -/
def State.tstat (s : State) : BitVec 64 :=
  let p := s.power
  let v := s.reg 0x18
  BitVec.ofNat 64 (p.level % 8 + p.stage % 8 * 2 ^ 3 + min p.grade 15 * 2 ^ 6 + b2n p.met * 2 ^ 10 + p.src % 2 * 2 ^ 11
    + b64 v 12 12 * 2 ^ 12 + b64 v 31 16 * 2 ^ 16 + b64 v 43 32 * 2 ^ 32)

/-- Offers the TOCSIN record (R235, R245). -/
def State.emitTocsin (s : State) (susp : Bool) : State :=
  let p := s.power
  s.emitDev 5 0 0x17 (p.level % 8 + p.stage % 8 * 2 ^ 3 + min p.grade 15 * 2 ^ 6 + b2n (susp || s.peal.susp) * 2 ^ 10
    + p.src % 2 * 2 ^ 11)

/-- Stage 2 suspends lossless mode: every stalled source drops what it holds and goes on (R245). -/
def State.suspend (s : State) : State :=
  let gone := fun (r : PRec) => r.sclass < 5 && s.latched r.part r.sclass r.sinst
  let out := s.peal.wait.filter gone
  let s := { s with peal := { s.peal with susp := true, wait := s.peal.wait.filter (fun r => !gone r) } }
  out.foldl (fun s r => s.pealDrop r) s

/-- Applies the next grade (R42). -/
def State.applyGrade (s : State) : State :=
  match s.nextStage with
  | none => s
  | some k =>
    let s := s.setPower { s.power with applied := k :: s.power.applied }
    let s := if k = 2 then s.suspend else s
    s.emitTocsin false

/-- Lifts the most recently applied grade (R42). -/
def State.liftGrade (s : State) : State :=
  match s.power.applied with
  | [] => s
  | k :: r =>
    let was := s.peal.susp
    let s := s.setPower { s.power with applied := r }
    let s := if k = 2 then { s with peal := { s.peal with susp := false } } else s
    let s := if k = 7 then { s with links := { s.links with ports := mmap s.links.ports (fun _ x => { x with narrow := false, asked := false, agreed := false }) } }
      else s
    s.emitTocsin (was && k = 2)

/-! ## The sideband (R30) -/

/-- What the board controller reads over the sideband: temperatures and rail currents, the voltage of each core island in
millivolts with its margin (R37, R55), and the step level. -/
structure Sideband where
  temps : List Nat
  amps  : List Nat
  volts : List Nat
  level : Nat

/-! ## Orders -/

/-- Islands of two re-plans in one, in ascending number (R58, log entry 152). -/
def mergeIslands (a b : List Nat) : List Nat := (upto 256).filter (fun i => a.contains i || b.contains i)

/-- A re-plan in progress is aborted: its islands carry ABORTED, and wait for level L0 (R45, R57). -/
def State.abortReplan (s : State) : State :=
  let s := s.power.replan.foldl (fun s i => s.setFld (0x200 + i) 1 1 1) s
  s.setPower { s.power with replan := [], replanWait := mergeIslands s.power.replanWait s.power.replan }

/-- An order of a step level when the cap in force was old (R31, R40, R45): none is applied during the trap. -/
def State.orderFrom (s : State) (old level src : Nat) : State :=
  match s.power.st with
  | .off => s
  | .draining => s.setPower { s.power with ordered := some level }
  | .on =>
    let s := s.abortReplan
    let lower := s.pcap level < old
    let met := decide (s.fld 0x18 43 32 ≤ s.pcap level)
    let s := s.setPower { s.power with
      level := level, src := src, met := met, pursue := if lower && !met then some s.time else none }
    let s := if level = 0 then s.setPower { s.power with replan := s.power.replanWait, replanWait := [] } else s
    s.emitTocsin false

/-- An order of a step level (R40). -/
def State.order (s : State) (level src : Nat) : State := s.orderFrom (s.pcap s.power.level) level src

/-- TOCSIN (R31): a falling edge of TOCSIN_N orders the level on the pins. -/
def execTocsin (tsel : BitVec 3) (s : State) : Host.Outcome State Fault Refusal :=
  .next ((s.setPower { s.power with pinAt := some s.time }).order tsel.toNat 0)

/-- TOCSIN_MESSAGE (R31): a sideband message orders a level, unless a pin edge came within the same microsecond. The sideband
is powered only while the main input is present (R30). -/
def execTocsinMessage (level : BitVec 3) (s : State) : Host.Outcome State Fault Refusal :=
  .next (if !s.power.input then s else match s.power.pinAt with
  | some t => if s.time < t + 16000 then s else s.order level.toNat 1
  | none => s.order level.toNat 1)

/-- A write of TSLVLn (R39): one of the level in force is a new command for that level, whose source is that of the order it
replaces (log entry 148). -/
def State.writeTslvl (s : State) (n : Nat) (v : BitVec 64) : State :=
  let pcap := b64 v 11 0
  let m := b64 v 19 16
  let vf := b64 v 23 20
  if pcap < 500 ∨ 2000 < pcap ∨ m = 0 ∨ 8 < m ∨ vf = 0 ∨ 8 < vf then s.setFld 0x18 12 12 1
  else
    let old := s.pcap s.power.level
    let s := s.setReg (0x10 + n) (BitVec.ofNat 64 (pcap + m * 2 ^ 16 + vf * 2 ^ 20))
    if n = s.power.level then s.orderFrom old n s.power.src else s

def execTslvlWrite (n : BitVec 3) (v : BitVec 64) (s : State) : Host.Outcome State Fault Refusal :=
  .next (s.writeTslvl n.toNat v)

/-- TABOR_LOOP_TICK (R30, R42, R44, R46): with the projected power and the 50 µs average, in watts, and what the temperature
and rail-current sensors show. -/
def execTaborLoopTick (projected : Nat) (seen : Sensed) (s : State) : Host.Outcome State Fault Refusal :=
  .next (if s.power.st ≠ .on then s
  else
    let s := s.setPower { s.power with temps := seen.temps, amps := seen.amps }
    let cap := s.pcap s.power.level
    let s := s.setFld 0x18 43 32 seen.average
    let s := if cap < projected then s.applyGrade else if projected * 100 < cap * 95 then s.liftGrade else s
    if seen.average ≤ cap then s.setPower { s.power with met := true, pursue := none }
    else match s.power.pursue with
      | some t => if t + 16000000 < s.time then
          (s.setFld 0x18 31 16 (satAdd 0xFFFF (s.fld 0x18 31 16) 1)).setPower { s.power with pursue := none }
        else s
      | none => s)

/-! ## The current limit (R36) -/

/-- CURRENT_LIMIT_TRIP: the sensed current has reached 3900 A. -/
def execCurrentLimitTrip (amps : Nat) (s : State) : Host.Outcome State Fault Refusal :=
  .next (if 3900 ≤ amps ∧ !s.power.limiting then
    s.setPower { s.power with limiting := true, duty := s.power.duty - 1 }
  else s)

/-- CURRENT_LIMIT_STEP: the duty falls by one eighth at each step until the current is below 3800 A. -/
def execCurrentLimitStep (amps : Nat) (s : State) : Host.Outcome State Fault Refusal :=
  .next (if !s.power.limiting then s
  else if amps < 3800 then s.setPower { s.power with limiting := false }
  else s.setPower { s.power with duty := s.power.duty - 1 })

/-- CURRENT_LIMIT_RESTORE: one eighth comes back. -/
def execCurrentLimitRestore (s : State) : Host.Outcome State Fault Refusal :=
  .next (if s.power.limiting ∨ 8 ≤ s.power.duty then s else s.setPower { s.power with duty := s.power.duty + 1 })

/-! ## Margins (R55 to R58) -/

/-- MARGCMD as it reads (R58). -/
def State.margcmd (s : State) : BitVec 64 :=
  BitVec.ofNat 64 (s.fld 0x19 8 0 + b2n (!s.power.replan.isEmpty) * 2 ^ 9)

/-- MARGCMD_START (R58): a write of MARGCMD. -/
def State.writeMargcmd (s : State) (v : BitVec 64) : State :=
  let i := b64 v 8 0
  if !s.power.replan.isEmpty then s
  else if b64 v 9 9 = 0 then s.setFld 0x19 8 0 i
  else if 256 < i then s
  else (s.setFld 0x19 8 0 i).setPower { s.power with replan := if i = 256 then upto 256 else [i] }

def execMargcmdStart (v : BitVec 64) (s : State) : Host.Outcome State Fault Refusal := .next (s.writeMargcmd v)

/-- REPLAN_TIMER (R55): every 1000 power-on hours all islands are re-planned. -/
def execReplanTimer (hours : Nat) (s : State) : Host.Outcome State Fault Refusal :=
  .next (if s.power.st = .on ∧ s.power.hours + 1000 ≤ hours then
    let s := s.setPower { s.power with hours := hours / 1000 * 1000, hoursAt := (hours, 0) }
    s.setPower { s.power with replan := upto 256 }
  else s)

/-- How far two readings differ. -/
def apart (a b : Nat) : Nat := (a - b) + (b - a)

/-- Monitors that disagree with their three peers by more than 20 ps (R57). -/
def badMonitors (rs : List Nat) : List Nat :=
  (upto 4).filter (fun i => (upto 4).all (fun j => j == i || 20 < apart (rs.getD i 0) (rs.getD j 0)))

/-- The least slack of the monitors that are not excluded (R55); 0 when all four are (log entry 151). -/
def leastSlack (rs bad : List Nat) : Nat :=
  (leastBy (fun x => x) (((upto 4).filter (fun i => !bad.contains i)).map (fun i => rs.getD i 0))).getD 0

/-- Power-on hours (R57): those last told, and the powered cycles since. -/
def State.onHours (s : State) : Nat := s.power.hoursAt.1 + s.power.hoursAt.2 / (850000000 * 3600)

/-- The margin that a least slack asks for, in mV (R55). -/
def marginOf (slack : Nat) : Nat := 10 + 3 * (20 - slack)

/-- The margin in force at an operating point of an island (R55). -/
def Power.margin (p : Power) (i op : Nat) : Nat := mgetD p.margins (i * 8 + op) 10

/-- The sideband's view; the sideband is powered only while the main input is present (R30). -/
def State.sideband (s : State) : Option Sideband :=
  if s.power.input then
    some { temps := s.power.temps, amps := s.power.amps, level := s.power.level
           volts := (upto 192).map (fun c => opVolt (s.opPoint c) + s.power.margin c (s.opPoint c)) }
  else none

/-- The island has no resident group (R55). -/
def State.islandEmpty (s : State) (i : Nat) : Bool := s.groups.all (fun e => e.2.core != i || e.2.retired)

/-- MARGSTAT's fields MARGIN and PENDING follow the margins (R57). -/
def State.syncMargin (s : State) (i : Nat) : State :=
  let s := s.setFld (0x200 + i) 23 16 (s.power.margin i 0)
  s.setFld (0x200 + i) 3 3 (b2n ((upto 6).any (fun op => (mget? s.power.lower (i * 8 + op)).isSome)))

/-- A monitor of an island is marked MONFAULT and recorded (R57). -/
def State.excludeMonitor (s : State) (i m : Nat) : State :=
  ((s.record 6 0x0A 4 false 0 (i + m * 256) 0 0 none).2).setFld (0x200 + i) 0 0 1

/-- A margin that an operating point asks for (R55): a raised one applies at once, a lowered one waits. -/
def State.setMargin (s : State) (i op m : Nat) : State :=
  let key := i * 8 + op
  if s.power.margin i op ≤ m then
    s.setPower { s.power with margins := mput s.power.margins key m, lower := mdel s.power.lower key }
  else s.setPower { s.power with lower := mput s.power.lower key m }

/-- One operating point of an island is re-planned (R55, R56), without the marked monitors: a margin that would exceed 60 mV
is 60 mV, and the point is not available any more, nor is it made so again later (log entry 150). -/
def State.replanPoint (s : State) (i op : Nat) (rs bad : List Nat) : State :=
  let m := marginOf (leastSlack rs bad)
  let s := s.setMargin i op (min 60 m)
  if 60 < m then
    let s := (s.record 6 0x09 4 false 0 (i + op * 256) 0 0 none).2
    let s := s.setFld (0x200 + i) 15 13 (max (s.fld (0x200 + i) 15 13) (min 5 (op + 1)))
    s.setFld (0x200 + i) 2 2 1
  else s

/-- REPLAN_ISLAND (R55 to R57): the re-plan of the first island still to be handled ends with these readings, four
monitors for each operating point. -/
def execReplanIsland (readings : List (List Nat)) (s : State) : Host.Outcome State Fault Refusal :=
  .next (match s.power.replan with
  | [] => s
  | i :: rest =>
    let s := s.setPower { s.power with replan := rest }
    let s := s.setFld (0x200 + i) 0 0 0
    let bad := dedup ((upto 6).flatMap (fun op => badMonitors (readings.getD op [])))
    let s := bad.foldl (fun s m => s.excludeMonitor i m) s
    let s := (upto 6).foldl (fun s op => s.replanPoint i op (readings.getD op []) bad) s
    let slack := leastSlack (readings.getD 0 []) bad
    let first := mgetD s.power.slack0 i slack
    let s := s.setPower { s.power with slack0 := mput s.power.slack0 i first }
    let s := s.setFld (0x200 + i) 43 32 (min slack 0xFFF)
    let s := s.setFld (0x200 + i) 31 24 (min (first - slack) 0xFF)
    let s := s.setFld (0x200 + i) 63 44 s.onHours
    s.syncMargin i)

/-- MARGIN_LOWER_APPLY (R55): lowered margins of an island without a resident group come into force. -/
def execMarginLowerApply (island : BitVec 8) (s : State) : Host.Outcome State Fault Refusal :=
  let i := island.toNat
  .next (if s.islandEmpty i then
    let s := (upto 6).foldl (fun s op => match mget? s.power.lower (i * 8 + op) with
      | some m => s.setPower { s.power with
          margins := mput s.power.margins (i * 8 + op) m, lower := mdel s.power.lower (i * 8 + op) }
      | none => s) s
    s.syncMargin i
  else s)

end Sys2Proof.Machine
end

