-- ==== Sys2Proof/Machine/Sync.lean ====
section
/-! DEFINITION. Barriers, FIFOs, bank modes, events, trace, flag waits and HALT (R118, R120, R149 to R151, R408 to R419). -/

namespace Sys2Proof.Machine

/-! ## Barriers (R409, R410, R120) -/

/-- WBAR (R409). -/
def execWbar (s : State) : Host.Outcome State Fault Refusal :=
  s.issue .wbar anyMode fun c =>
    s.relThen c 16 1 [] noFault (fun s => (s.park c .wbar 9 0).wgSettle c.wk)

/-- GBAR (R410): an escape in an open block, behind the check of a release (R193). -/
def execGbar (s : State) : Host.Outcome State Fault Refusal :=
  s.issue .gbar anyMode fun c =>
    s.relThen c 16 2 [] noFault (fun s' =>
      if c.inBlock then s.escape c noFault else (s'.park c .gbar 10 0).wgSettle c.wk)

/-- A path of the gang window or of a scratchpad. -/
def gangPath (a : Nat) : Bool := a / 2 ^ 60 = 3 || a / 2 ^ 60 = 4

/-- The index copy of a queued scatter may reach the gang window: its BASE does, or is not read yet. -/
def scatterGang (bound : Option Nat) : Bool :=
  match bound with
  | none => true
  | some v => gangPath (nbits v 319 256)

/-- An engine operation writes the gang window or a scratchpad, as far as can be told (R120). -/
def QOp.toGang (o : QOp) : Bool :=
  match o.op with
  | .cpy parts => parts.any (fun p => p.1.any (fun a => gangPath a.addr))
  | .cpyb _ dst _ => gangPath dst
  | .cpyx scatter _ side _ => if scatter then scatterGang o.bound else gangPath side
  | .mst _ ps | .mstn _ _ ps _ _ => ps.any (fun a => gangPath a.addr)
  | _ => false

/-- Workgroups of a gang. -/
def State.wgsOf (s : State) (nk : Nat) : Map Wg := s.wgs.filter (fun e => e.2.gang == nk)

/-- Every non-exited lane of the gang waits at GBAR, and what R120 names has been performed. -/
def State.gbarReady (s : State) (nk : Nat) : Bool :=
  let ws := mkeys (s.wgsOf nk)
  ws.all (fun w => (s.groupsOf w).all (fun e => e.2.arrived .gbar &&
    e.2.pend.all (fun p => p.acc.isEmpty) && e.2.ops.all (fun o => !o.toGang))) &&
  ws.any (fun w => s.gathered w .gbar)

/-- GBAR_RELEASE (R120). -/
def execGbarRelease (gang : Nat) (s : State) : Host.Outcome State Fault Refusal :=
  .next (if s.gbarReady gang then
    let s := s.updGang gang (fun g => { g with steps := g.steps + 1 })
    let s := (mkeys (s.wgsOf gang)).foldl (fun s w => s.goOnAll w .gbar) s
    match mget? s.gangs gang with
    | some g => s.emitWg (wgKey gang 0) 0x15 (g.index % 2 ^ 18 + g.steps % 2 ^ 32 * 2 ^ 18)
    | none => s
  else s)

/-! ## FIFOs (R411 to R413) -/

/-- HP of a FIFO bank: its oldest held slot, or RP (R411). -/
def Bank.hp (b : Bank) : Nat := match b.held with
  | (j, _, _) :: _ => j
  | [] => b.rp

/-- Full and empty (R149). -/
def Bank.full (b : Bank) : Bool := (b.wp + b.depth - b.hp) % b.depth == 0 && (b.count != 0 || !b.held.isEmpty)
def Bank.empty (b : Bank) : Bool := b.count == 0

/-- The FIFO bank number b of the issuing workgroup. -/
def Ctx.fifo (c : Ctx) (b : Nat) : Option Bank :=
  match mget? c.wg.banks b with
  | some k => if k.mode = .fifo then some k else none
  | none => none

/-- Changes a bank of a workgroup. -/
def State.updBank (s : State) (wk b : Nat) (f : Bank → Bank) : State :=
  s.updWg wk (fun w => { w with banks := mupd w.banks b f })

/-- Logs the pointers of a bank in an open block (R132 kind 9). -/
def State.logFifo (s : State) (c : Ctx) (b : Nat) (k : Bank) : Bool × State :=
  if c.inBlock then s.logFirst c.wk (.fifo b k) c.sp.pc else (true, s)

/-- Some earlier access of the group to bytes [o, o + n) of its scratchpad has not been performed (R412). -/
def Ctx.touching (c : Ctx) (o n : Nat) : Bool :=
  c.g.pend.any (fun p => p.acc.any (fun a => match a.loc with
    | .scr w x => w == c.wk && x < o + n && o < x + a.n
    | _ => false))

/-- Copies n bytes of the scratchpad at o to bank place a, sector by sector with their poison (R412). -/
def State.pushSlot (s : State) (wk o a n : Nat) : State :=
  (upto (n / 32)).foldl (fun s i =>
    let (bs, p, s) := s.scrLook wk (o + 32 * i) 32
    (s.updWg wk (fun w => w.bankWrite (a + 32 * i) bs p)).dropSram wk (a + 32 * i) 32 p) s

/-- FPUSH (R412): it waits for earlier accesses of its group to the source, and for stores that a release of the workgroup
has passed (R186). -/
def execFpush (d : BitVec 7) (b : BitVec 5) (s : State) : Host.Outcome State Fault Refusal :=
  s.issue (.fpush d b) anyMode fun c =>
    match c.opLane with
    | none => s.advance c
    | some l =>
      if s.bankBusy c.wk b.toNat then s.stallBy c 28
      else match c.fifo b.toNat with
        | none => s.raiseAll c 0x10
        | some k =>
          let v := c.g.lane d.toNat l
          let o := v.w.toNat
          if v.p.isSome then s.raiseAll c 9
          else if o % 128 ≠ 0 then s.raiseAll c 4
          else if s.scrBusy c o k.esize then s.stallBy c (if k.full then 14 else 28)
          else if c.l.scratch < o + k.esize || !c.wg.scrOk o k.esize then s.raiseAll c 5
          else if k.full then s.stallBy c 14
          else if c.touching o k.esize || s.passing c.wk then s.stallBy c 31
          else
            let (ok, s) := s.logFifo c b.toNat k
            if !ok then s
            else
              let s := s.pushSlot c.wk o (b.toNat * 0x20000 + k.wp * k.esize) k.esize
              (s.updBank c.wk b.toNat (fun k =>
                { k with wp := (k.wp + 1) % k.depth, count := k.count + 1 })).advance c

/-- Takes the next slot of a FIFO for group g, which gives back the slot it held (R411, R413). -/
def Bank.pop (b : Bank) (g : Nat) (inBlock : Bool) : Bank :=
  { b with
    held := b.held.filter (fun x => x.2.1 != g || x.2.2) ++ [(b.rp, g, inBlock)]
    rp := (b.rp + 1) % b.depth
    count := b.count - 1 }

/-- FPOP (R413). -/
def execFpop (d : BitVec 7) (b : BitVec 5) (s : State) : Host.Outcome State Fault Refusal :=
  s.issue (.fpop d b) anyMode fun c =>
    if c.act = 0#32 then s.advance c
    else if s.bankBusy c.wk b.toNat then s.stallBy c 28
    else match c.fifo b.toNat with
      | none => s.raiseAll c 0x10
      | some k =>
        if k.empty then s.stallBy c 13
        else
          let (ok, s) := s.logFifo c b.toNat k
          if !ok then s
          else
            let v := BitVec.ofNat 32 (0x40000000 + b.toNat * 0x20000 + k.rp * k.esize)
            let s := s.updBank c.wk b.toNat (fun k => k.pop c.gk c.inBlock)
            (s.writeV c d.toNat c.act .U (fun _ => clean v)).advance c

/-! ## BANKM (R150, R151, R414) -/

/-- The mode of a mode field. -/
def modeOf (m : Nat) : BankMode := match m with
  | 0 => .cache
  | 1 => .scratch
  | 2 => .fifo
  | _ => .log

/-- BANKM (R414): the split waits until the change has been judged. -/
def execBankm (d : BitVec 7) (e : BitVec 3) (m : BitVec 2) (b : BitVec 5) (s : State) :
    Host.Outcome State Fault Refusal :=
  s.issue (.bankm d e m b) anyMode fun c =>
    if c.act = 0#32 then s.advance c
    else if c.inBlock then s.failBlock c.wk 9 0 c.sp.pc false
    else
      let (n, s) := s.takeId
      s.updGroup c.gk (fun g => { g with splits := g.splits.modify c.ix (fun p =>
        { p with busy := some (.bankm d.toNat e.toNat m.toNat b.toNat c.act n), stall := 28 }) })

/-- The status code that a change of bank b to mode m with ESIZE e gives (R150, R414); listed and empty say whether the
bank is in the scratchpad list and whether the pool has no bank. -/
def bankCode (k : Bank) (m : BankMode) (e : Nat) (listed empty : Bool) : Nat :=
  if k.mode = m ∧ (m ≠ .fifo ∨ k.e = e) then 1
  else if m = .scratch ∧ !listed then 2
  else if k.mode = .cache ∧ empty then 3
  else if k.mode = .fifo ∧ (k.count ≠ 0 ∨ k.held ≠ []) then 4
  else 0

/-- Applies a change of mode: the bank holds zeros, its FIFO is empty (R149, R150). -/
def State.setBank (s : State) (wk core b : Nat) (k : Bank) (m : BankMode) (e : Nat) : State :=
  let owned := s.ownedBanks core
  let phys := if m = .cache then none else if k.phys.isSome then k.phys else freeBank owned
  let k' : Bank := { Bank.placed m phys with e := if m = .fifo then e else k.e }
  let s := s.updWg wk (fun w => { w with
    banks := mput w.banks b k'
    sram := memClear w.sram (b * 0x20000) ((b + 1) * 0x20000)
    spois := w.spois.filter (fun x => x.1 / 0x1000 != b) })
  let s := s.dropFlaws (fun p => match p with
    | .sram w x => w = wk && x / 0x4000 = b
    | _ => false)
  if k.phys.isNone && phys.isSome then s.shrinkPool core 1 else s

/-- Something issued before identifier n by a group of the workgroup may still reach bank b (R151). -/
def State.bankTouched (s : State) (wk b n : Nat) : Bool :=
  let list := match mget? s.wgs wk with
    | some w => w.list
    | none => []
  (mvals (s.groupsOf wk)).any (fun g =>
    g.pend.any (fun p => p.id < n && p.acc.any (fun a => match a.loc with
      | .scr w off => w == wk && list[off / 0x20000]? == some b
      | _ => false)) ||
    g.ops.any (fun o => o.id < n) ||
    g.splits.any (fun p => match p.busy with
      | some (.bankm _ _ _ b' _ n') => b' == b && n' < n
      | _ => false))

/-- BANKM_COMPLETION (R151, R414): a BANKM of the group, with everything before it performed, takes effect. -/
def execBankmCompletion (g : Nat) (s : State) : Host.Outcome State Fault Refusal :=
  .next (match mget? s.groups g with
  | none => s
  | some gr => match gr.busyIx (fun b => match b with
      | .bankm _ _ _ b' _ n => !s.bankTouched gr.wg b' n
      | _ => false) with
    | none => s
    | some ix => match s.ctxOf g ix with
      | none => s
      | some c => match c.sp.busy with
        | some (.bankm d e m b act _) =>
          if s.frozen c.wk then s
          else
            let k := mgetD c.wg.banks b (Bank.placed .cache none)
            let code := bankCode k (modeOf m) e (c.wg.list.contains b) (24 ≤ (s.ownedBanks c.g.core).length)
            let s := if code = 0 then s.setBank c.wk c.g.core b k (modeOf m) e else s
            (s.writeV c d act .U (fun _ => clean (BitVec.ofNat 32 code))).advance c
        | _ => s)

/-! ## Events (R415, R416) -/

/-- Event ev lies in the range of partition p (R91). -/
def State.evInRange (s : State) (p ev : Nat) : Bool :=
  let base := s.fld (0x40 + p) 15 0
  base ≤ ev && ev < base + s.fld (0x40 + p) 48 32

/-- The event operand a of lane l, or its fault (R415). -/
def State.eventOf (s : State) (c : Ctx) (a : BitVec 7) (l : Nat) : Sum Nat Nat :=
  let v := c.g.lane a.toNat l
  if v.p.isSome then .inl 9
  else if 0x10000 ≤ v.w.toNat || !s.evInRange c.l.part v.w.toNat then .inl 5
  else .inr v.w.toNat

/-- EVSIG with operation op (0 add, 1 set, 2 clear) and value v (R415): a release at DEV, and an escape in an open block. -/
def State.evsig (s : State) (c : Ctx) (op : Nat) (a : BitVec 7) (v : Nat → Val) : State :=
  match c.opLane with
  | none => s.advance c
  | some l =>
    if (c.g.lane a.toNat l).p.isSome || (v l).p.isSome then s.raiseAll c 9
    else match s.eventOf c a l with
      | .inl k => s.raiseAll c k
      | .inr ev =>
        s.relThen c 16 4 [] noFault (fun s' => if c.inBlock then s.escape c noFault else
          (s'.handOver { ev := ev, op := op, v := (v l).w.toNat, part := c.l.part, sclass := 0
                         sinst := c.g.core * 4 + c.g.sched, mask := c.l.traces 0x16 }).advance c)

/-- EVSIG.ADD (R415). -/
def execEvsigAdd (a b : BitVec 7) (s : State) : Host.Outcome State Fault Refusal :=
  s.issue (.evsigAdd a b) anyMode fun c => s.evsig c 0 a (c.g.lane b.toNat)

/-- EVSIG.SET (R415). -/
def execEvsigSet (a b : BitVec 7) (s : State) : Host.Outcome State Fault Refusal :=
  s.issue (.evsigSet a b) anyMode fun c => s.evsig c 1 a (c.g.lane b.toNat)

/-- EVSIG.CLR (R415). -/
def execEvsigClr (a : BitVec 7) (s : State) : Host.Outcome State Fault Refusal :=
  s.issue (.evsigClr a) anyMode fun c => s.evsig c 2 a (fun _ => clean 0#32)

/-- EVQRY (R416), an acquire at DEV: it waits for every earlier LDW of its lanes (R193). -/
def execEvqry (d a : BitVec 7) (s : State) : Host.Outcome State Fault Refusal :=
  s.issue (.evqry d a) anyMode fun c =>
    match c.opLane with
    | none => s.advance c
    | some l =>
      if c.g.flagFull c.sp.setA then s.stallBy c 2
      else if c.g.watchingLanes c.sp.mask then s.stallBy c 17
      else match s.eventOf c a l with
        | .inl k => s.raiseAll c k
        | .inr ev =>
          let (ok, s) := s.logRegs c d.toNat 1
          if ok then
            s.startPend c { c.pend (.evqry ev) d.toNat 1 c.act .U [] c.sp.setA with acq := true, scope := 4 } noFault
          else s

/-! ## Trace (R417) -/

/-- TRACE (R417). -/
def execTrace (d : BitVec 7) (k : BitVec 16) (s : State) : Host.Outcome State Fault Refusal :=
  s.issue (.trace d k) anyMode fun c =>
    match c.opLane with
    | none => s.advance c
    | some l =>
      let v := c.g.lane d.toNat l
      let pl := k.toNat + (if v.p.isSome then 2 ^ 48 else v.w.toNat * 2 ^ 16)
      (s.emitL c.l c.g.die 0 (c.g.core * 4 + c.g.sched) 0x1B pl).advance c

/-- TMARK (R417). -/
def execTmark (k : BitVec 16) (s : State) : Host.Outcome State Fault Refusal :=
  s.issue (.tmark k) anyMode fun c =>
    if c.act = 0#32 then s.advance c
    else
      let pl := k.toNat + c.g.slot * 2 ^ 16 + c.gg.index % 2 ^ 18 * 2 ^ 20 + c.wg.k * 2 ^ 38 + c.g.k * 2 ^ 43
        + (c.sp.liveIx.getD 0) * 2 ^ 48
      (s.emitL c.l c.g.die 0 (c.g.core * 4 + c.g.sched) 0x1C pl).advance c

/-! ## WAITF and HALT (R418, R419) -/

/-- WAITF (R418). -/
def execWaitf (m : BitVec 12) (s : State) : Host.Outcome State Fault Refusal :=
  s.issue (.waitf m) anyMode fun c =>
    if c.act = 0#32 then s.advance c
    else if !c.g.flagsZero m then s.stallBy c 2
    else match c.g.due (some m) with
      | some d => s.deliver c d
      | none => s.advance c

/-- A group stops: its splits are discarded, every lane exits, its due returns are dropped (R419). -/
def Group.halt (g : Group) : Group :=
  ({ g with
    splits := [], exited := BitVec.allOnes 32, watches := [], resv := [], finfo := [], delayed := [] } : Group).lastExit

/-- HALT (R419). -/
def execHalt (s : State) : Host.Outcome State Fault Refusal :=
  s.issue .halt anyMode fun c =>
    if c.act = 0#32 then s.advance c
    else if c.inBlock then s.failBlock c.wk 9 0 c.sp.pc false
    else if c.g.watching then s.stallBy c 16
    else if c.g.struck then s.raiseAll c 0x0C
    else
      let ws := mkeys (s.wgsOf c.nk)
      let s := s.updGang c.nk (fun g => { g with ended := true })
      { s with
        groups := mmap s.groups (fun _ g => if ws.contains g.wg then g.halt else g)
        wgs := mmap s.wgs (fun _ w => if w.gang = c.nk then { w with blocks := [], failing := none, ensureEnd := none } else w) }

end Sys2Proof.Machine
end

