-- ==== Sys2Proof/Machine/Kulintang.lean ====
section
/-! DEFINITION. Kulintang: control blocks and doorbells (R60 to R65), packets (R67 to R70), launch records (R87 to R90), named
events and waiters (R94 to R96), summaries (R81, R250), rounds (R77) and completion queue registers (R78, R80). -/

namespace Sys2Proof.Machine

/-! ## Control blocks (R61, R62) -/

/-- n bytes at pa lie in stacked DRAM. -/
def stackRange (pa n : Nat) : Bool := n ≤ 2 ^ 39 && inStack (pa + n - 1)

/-- A completion queue that a queue of partition p may use (R62). -/
def State.cqUsable (s : State) (c p : Nat) : Bool := (s.cq c).enabled && b64 (s.cq c).cfg 31 28 == p

/-- A control block is malformed (R62). -/
def State.ctlBad (s : State) (b : Nat) : Bool :=
  nbits b 511 352 != 0 || nbits b 127 85 != 0 || 12 < nbits b 67 64 || nbits b 5 0 != 0 ||
  !stackRange (nbits b 63 0) (64 * 2 ^ (nbits b 67 64 + 4)) || nbits b 263 256 != 0 || nbits b 351 320 < 256 ||
  !stackRange (nbits b 319 256) (nbits b 351 320) || !s.cqUsable (nbits b 83 76) (nbits b 71 68)

/-- A queue with the fields that software writes, as Kulintang has read them (R61). -/
def Queue.bind (x : Queue) (b : Nat) : Queue :=
  { x with
    ring := nbits b 63 0, size := nbits b 67 64, part := nbits b 71 68, prio := nbits b 75 72, cqid := nbits b 83 76
    peer := nbit b 84, rsyaddr := nbits b 319 256, rsylen := nbits b 351 320 }

/-- Reads the control block of a queue: its bits, and whether it is poisoned. -/
def State.readCtl (s : State) (addr : Nat) : Nat × Bool × State :=
  if inStack (addr + 63) then
    let (bs, p, s) := s.homeRead addr 64
    (ofBytesLE bs, p.isSome, s)
  else (2 ^ 511, false, s)

/-- The queue enters state ERROR, and an error entry is posted (R70). -/
def State.queueError (s : State) (q code tag index : Nat) : State :=
  let s := s.updQueue q (fun x => { x with st := .error, err := code, lane := none })
  s.postErr q tag code index

/-- A control block that cannot be used: ERR 0x01, or 0x08 when it is poisoned; an error entry goes to the completion
queue that the block names when that can be used (R62, R70). -/
def State.badCtl (s : State) (q b : Nat) (pois : Bool) : State :=
  let code := if pois then 8 else 1
  let s := s.updQueue q (fun x => { x with st := .error, err := code, lane := none })
  if s.cqUsable (nbits b 83 76) (nbits b 71 68) then
    s.postTo (nbits b 83 76) q (cqe 3 q 0 code (s.queue q).rdidx 0) none
  else s

/-- QUEUE_ENABLE (R60): Kulintang reads the control block, sets WRSEEN to RDIDX and enters IDLE; a disable ladder that still runs
is dropped (log entry 153), and HOLD ends, so that gangs such a ladder saved may be placed again (log entry 160). Before a
bundle runs, Tabor accepts no enable (R82). -/
def State.enableQueue (s : State) (q addr : Nat) : State :=
  if !s.boot.running then s
  else
    let (b, pois, s) := s.readCtl addr
    let old := s.queue q
    let x : Queue := { old with
      addr := addr, enable := true, rdidx := nbits b 159 128, wrseen := nbits b 159 128, st := .idle, err := 0, cqstall := s.owes q
      hold := false, rsy := false, lane := none, parsed := 0, ladder := none, wait := none, bound := none, used := true }
    let x := if pois || s.ctlBad b then x else x.bind b
    let s := ({ s with kul := { s.kul with queues := mput s.kul.queues q x } } : State).dropWaits q
    if pois || s.ctlBad b then s.badCtl q b pois else (s.syncQ q).letGo q

/-- QUEUE_DISABLE (R60): with launches in flight, a ladder with TOP 3 and HOLD comes first, in which packets go on being parsed
as under a PREEMPT (R104). -/
def State.disableQueue (s : State) (q : Nat) : State :=
  let s := s.updQueue q (fun x => { x with enable := false })
  if 0 < s.inflight q || (s.queue q).ladder.isSome then s.startLadder q 3 true true []
  else (s.dropWaits q).updQueue q (fun x => { x with st := .disabled, lane := none, rsy := false, bound := none, wait := none })

/-- A write of QBASEn (R60). While the ladder of a disabled queue runs, ADDR is not taken with ENABLE 0 (log entry 154). -/
def State.writeQbase (s : State) (q : Nat) (v : BitVec 64) : State :=
  let x := s.queue q
  if x.enable then (if b64 v 0 0 = 0 then s.disableQueue q else s)
  else if b64 v 0 0 = 1 then s.enableQueue q (b64 v 63 6 * 64)
  else if x.st = .disabled then
    { s with kul := { s.kul with queues := mput s.kul.queues q { x with addr := b64 v 63 6 * 64, used := false } } }
  else s

def execQueueEnable (q : BitVec 10) (v : BitVec 64) (s : State) : Host.Outcome State Fault Refusal :=
  .next (s.writeQbase q.toNat (v ||| 1#64))

def execQueueDisable (q : BitVec 10) (v : BitVec 64) (s : State) : Host.Outcome State Fault Refusal :=
  .next (s.writeQbase q.toNat (v &&& ~~~ 1#64))

/-! ## Doorbells (R64, R65) -/

/-- Packets are announced: an IDLE queue becomes READY (R71). -/
def State.announce (s : State) (q wr : Nat) : State :=
  s.updQueue q (fun x => { x with wrseen := wr % 2 ^ 32, st := if x.st = .idle then .ready else x.st })

/-- The classes of WRIDX (R65). -/
def State.classify (s : State) (q wr : Nat) : State :=
  let x := s.queue q
  let e := 2 ^ (x.size + 4)
  let dist := fun (a b : Nat) => (a + 2 ^ 32 - b) % 2 ^ 32
  if dist wr x.wrseen = 0 || dist x.wrseen wr ≤ e then s
  else if dist wr x.rdidx ≤ e then s.announce q wr
  else s.queueError q 6 0 x.rdidx

/-- A doorbell write (R64). A queue that leaves ERROR is READY or IDLE, so it is not held any more (R72), and does not wait for a
WAIT that is still unmet, which posts when it is met (log entry 162). -/
def State.doorbell (s : State) (q : Nat) (v : BitVec 64) : State :=
  if (s.queue q).st = .disabled || !(s.queue q).enable then s
  else
    let (b, pois, s) := s.readCtl (s.queue q).addr
    if pois || s.ctlBad b then s.badCtl q b pois
    else
      let s := s.updQueue q (fun x => x.bind b)
      let s := if b64 v 33 33 = 1 then s.updQueue q (fun x => { x with rsy := true }) else s
      let s := if b64 v 34 34 = 1 && (s.queue q).st = .error then
          s.updQueue q (fun x => { x with err := 0, st := x.awake, hold := false, wait := none }) else s
      if b64 v 34 33 = 0 then s.classify q (b64 v 31 0) else s

def execDoorbell (q : BitVec 10) (v : BitVec 64) (s : State) : Host.Outcome State Fault Refusal :=
  .next (s.doorbell q.toNat v)

def execDoorbellRsy (q : BitVec 10) (v : BitVec 64) (s : State) : Host.Outcome State Fault Refusal :=
  .next (s.doorbell q.toNat (setBits v 33 33 1))

def execDoorbellClrerr (q : BitVec 10) (v : BitVec 64) (s : State) : Host.Outcome State Fault Refusal :=
  .next (s.doorbell q.toNat (setBits v 34 34 1))

/-! ## Peers (R74, R75) -/

/-- PATn (R75). -/
def State.pat (s : State) (n : Nat) : BitVec 64 := mgetD s.kul.pat n 0#64

/-- Some valid entry matches source src with the permission bit, and the queue when one is given (R74, R75); MRD and MWR, for
which none is given, are permitted by an entry with QLO above QHI too (log entry 167). -/
def State.patAllows (s : State) (src bit : Nat) (q : Option Nat) : Bool :=
  s.kul.pat.any (fun e =>
    b64 e.2 0 0 == 1 && b64 e.2 13 2 == src && b64 e.2 bit bit == 1 &&
    (match q with
      | some q => b64 e.2 23 14 ≤ q && q ≤ b64 e.2 33 24
      | none => true))

/-- Counts a denied packet in PATSTAT (R75). -/
def State.patDeny (s : State) (src : Nat) : State :=
  let v := setBits s.kul.patstat 31 0 (satAdd 0xFFFFFFFF (b64 s.kul.patstat 31 0) 1)
  { s with kul := { s.kul with patstat := setBits v 47 36 src } }

/-- A PQW packet of source src for queue q (R74). -/
def State.peerWrite (s : State) (src q : Nat) (packet : BitVec 512) : State :=
  let x := s.queue q
  if x.st = .disabled || !x.enable || !x.peer || !s.patAllows src 34 (some q) then s.patDeny src
  else
    let e := 2 ^ (x.size + 4)
    if (x.wrseen + 2 ^ 32 - x.rdidx) % 2 ^ 32 < e then
      let s := s.devWrite (x.ring + 64 * (x.wrseen % e)) 64 packet.toNat
      s.announce q (x.wrseen + 1)
    else s.updQueue q (fun x => { x with peerdrop := satAdd 0xFFFF x.peerdrop 1 })

/-- A PDB packet of source src (R74). -/
def State.peerDoorbell (s : State) (src q wr : Nat) : State :=
  let x := s.queue q
  if x.st = .disabled || !x.enable || !x.peer || !s.patAllows src 35 (some q) then s.patDeny src
  else s.doorbell q (BitVec.ofNat 64 (wr % 2 ^ 32))

/-! ## Named events (R94 to R96) -/

/-- The value of a named event. -/
def State.event (s : State) (ev : Nat) : Nat := mgetD s.kul.events ev 0

/-- The value an update leaves: add saturates (R69). -/
def evValue (op v old : Nat) : Nat := match op with
  | 0 => satAdd 0xFFFFFFFF old v
  | 1 => v % 2 ^ 32
  | _ => 0

/-- The partition whose event range holds an event. -/
def State.eventPart (s : State) (ev : Nat) : Option Nat := (upto 16).find? (fun p => s.evInRange p ev)

/-- Applies an update to its event and offers its EVENT record (R69, R94, R235). -/
def State.applyEvent (s : State) (u : EvUpd) : State :=
  let n := evValue u.op u.v (s.event u.ev)
  let s := { s with kul := { s.kul with
    events := if n = 0 then mdel s.kul.events u.ev else mput s.kul.events u.ev n } }
  let pl := u.ev % 2 ^ 16 + n * 2 ^ 16
  if u.sclass = 0 then (if u.mask then s.emitTo u.part (u.sinst / 192) 0 u.sinst 0x16 pl else s)
  else if u.mask then s.emitQ u.part u.sinst 0x16 pl else s

/-- Adds a waiter: a free entry of its partition's share, or the lowest free overflow entry (R95). -/
def State.addWaiter (s : State) (ev th : Nat) (o : WaitOwner) (p : Nat) : State :=
  let mine := s.kul.waiters.filter (fun w => w.part == p)
  let hw := (mine.filter (fun w => w.ovf.isNone)).length
  let used := mine.filterMap (·.ovf)
  let ovf := if hw < 512 then none else (upto 131072).find? (fun i => !used.contains i)
  { s with kul := { s.kul with
    waiters := s.kul.waiters ++
      [{ n := s.kul.nwait, event := ev, thresh := th, owner := o, part := p, ovf := ovf, fired := false }]
    nwait := s.kul.nwait + 1 } }

/-- Waiters that fire now, in the order in which they became waiters (R96). -/
def State.firing (s : State) : List Waiter := s.kul.waiters.filter (fun w => w.thresh ≤ s.event w.event)

/-- WAITER_FIRE (R96): the waiter's entry is freed; a WAIT packet completes and its queue becomes READY; a dependency is
met. Waiters of an event fire in order. -/
def execWaiterFire (n : Nat) (s : State) : Host.Outcome State Fault Refusal :=
  .next (match s.kul.waiters.find? (fun w => w.n == n) with
  | none => s
  | some w =>
    let ready := s.firing.find? (fun x => x.event == w.event)
    if ready ≠ some w then s
    else
      let s := { s with kul := { s.kul with waiters := s.kul.waiters.filter (fun x => x.n != n) } }
      match w.owner with
      | .queue q tag ix post =>
        let s := if (s.queue q).wait = some (tag, ix, post) then
            s.updQueue q (fun x => { x with wait := none, st := if x.st = .waiting then .ready else x.st })
          else s
        s.postDone q 0 tag ix 0 post
      | .dep l d =>
        let s := s.updLaunch l (fun x => { x with deps := x.deps.zipIdx.map (fun e =>
          if e.2 = d then (e.1.1, e.1.2.1, true) else e.1) })
        (match mget? s.launches l with
        | some x => if x.deps.all (fun e => e.2.2) then s.wantPass x.part else s
        | none => s))

/-! ## Launch records (R87, R88, R90) -/

/-- A format code is reserved (R90). -/
def badFmt (f : Nat) : Bool := f = 0 || 13 < f

/-- A format slot is malformed (R90). -/
def slotBad (v : Nat) : Bool :=
  if v = 0 then false
  else
    let fa := nbits v 4 0
    let fb := nbits v 9 5
    let fc := nbits v 12 10
    let am := nbits v 17 16
    let nz := nbits v 39 33
    let wide := fun f => decide (11 ≤ f)
    v / 2 ^ 44 != 0 || 5 < nbits v 42 40 || nbit v 19 || 1 < am || 3 < nbits v 15 13 || 3 < fc || badFmt fa || badFmt fb ||
    (am = 0 && (!wide fa || !wide fb || fc = 1)) || 896 < nz * fmtWidth fb || (0 < nz && am = 0)

/-- A role's register figure fits its count (R88). -/
def roleOk (n r : Nat) : Bool := if n = 0 then r == 0 else 8 ≤ r && r ≤ 128 && r % 8 == 0

/-- n bytes at offset o of a record. -/
def fieldAt (r o n : Nat) : Nat := r / 2 ^ (8 * o) % 2 ^ (8 * n)

/-- The launch that a record describes, for a packet at a ring index. -/
def launchOfRecord (r queue index lrec pkt : Nat) : Launch :=
  let f := fieldAt r
  { queue := queue, index := index, lrec := lrec, tag := nbits pkt 31 16, cqe := nbit pkt 8, part := nbits (f 0x1C 4) 7 4
    prio := nbits (f 0x1C 4) 3 0, faulten := nbit (f 4 4) 0, codebase := f 8 8, entry := f 0x10 4, faultoff := f 0x14 4
    aspace := nbits (f 0x18 4) 11 0, gen := nbits (f 0x18 4) 19 12, gx := f 0x20 4, gy := f 0x24 4, gz := f 0x28 4
    w := nbits (f 0x2C 4) 3 0, h := nbits (f 0x2C 4) 7 4, ncopy := nbits (f 0x30 8) 5 0, nmat := nbits (f 0x30 8) 13 8
    nepi := nbits (f 0x30 8) 21 16, rcopy := nbits (f 0x30 8) 31 24, rmat := nbits (f 0x30 8) 39 32
    repi := nbits (f 0x30 8) 47 40, bankplan := f 0x38 8, scratch := f 0x40 4, tiles := f 0x44 4, htab := f 0x48 8
    hcount := f 0x50 4, cyclim := f 0x54 4, seed := BitVec.ofNat 64 (f 0x58 8), savearea := f 0x60 8
    savestride := f 0x68 4, saveslots := f 0x6C 4, trfilt := BitVec.ofNat 128 (f 0x70 16)
    deps := (upto 4).filterMap (fun i =>
      let d := f (0x80 + 8 * i) 8
      if nbit d 16 then some (nbits d 15 0, nbits d 63 32, false) else none)
    slots := (upto 8).map (fun i => BitVec.ofNat 64 (f (0xA0 + 8 * i) 8)), sigev := nbits pkt 143 128, sigen := nbit pkt 144
    sigadd := nbits pkt 191 160, nextGang := 0, ended := none, rfail := 0, rcause := 0, rung := 0, order := 0 }

/-- The save size of a gang of a launch (R139). -/
def Launch.gangSize (l : Launch) : Nat := 4096 + l.w * l.h * l.saveSize l.ownBanks.length

/-- A record is malformed (R88). -/
def State.recordBad (s : State) (r : Nat) (l : Launch) : Bool :=
  let f := fieldAt r
  let axis := fun x => 1 ≤ x && x ≤ 65535
  f 0 4 != 1 || 1 < f 4 4 || (!l.faulten && l.faultoff != 0) || l.codebase % 128 != 0 ||
  !(l.codebase / 2 ^ 60 == 0 || l.codebase / 2 ^ 60 == 2) || nbits l.codebase 59 52 != 0 || nbits (f 0x18 4) 31 20 != 0 ||
  nbits (f 0x1C 4) 31 8 != 0 || !axis l.gx || !axis l.gy || !axis l.gz || nbits (f 0x2C 4) 31 8 != 0 ||
  !(1 ≤ l.w && l.w ≤ 8) || !(1 ≤ l.h && l.h ≤ 6) || 24 < l.w * l.h ||
  f 0x30 8 / 2 ^ 48 != 0 || nbits (f 0x30 8) 7 6 != 0 || nbits (f 0x30 8) 15 14 != 0 || nbits (f 0x30 8) 23 22 != 0 ||
  l.groups = 0 || 32 < l.groups || !roleOk l.ncopy l.rcopy || !roleOk l.nmat l.rmat || !roleOk l.nepi l.repi ||
  l.bankplan / 2 ^ 48 != 0 || l.scratch % 4 != 0 ||
  0x20000 * ((upto 24).filter (fun b => l.bankMode b == .scratch)).length < l.scratch || 16 < l.tiles || l.htab % 32 != 0 ||
  15 < l.hcount || l.savearea % 4096 != 0 || (l.saveslots = 0 && l.savearea != 0) || l.savestride % 4096 != 0 ||
  65535 < l.saveslots || (0 < l.saveslots && l.savestride < l.gangSize) || l.rrMode = 3 ||
  (upto 4).any (fun i => nbits (f (0x80 + 8 * i) 8) 31 17 != 0) || l.slots.any (fun v => slotBad v.toNat) ||
  r / 2 ^ (8 * 0xE0) != 0 || !s.shapeFits l.part l.w l.h

/-- The error of a record, 0 when it is well formed (R69, R88). -/
def State.recordErr (s : State) (r p : Nat) (l : Launch) : Nat :=
  if s.recordBad r l then 3
  else if l.part ≠ p then 4
  else if l.deps.any (fun d => !s.evInRange p d.1) || (l.sigen && !s.evInRange p l.sigev) then 5
  else if s.stale l then 3
  else 0

/-- Hands a launch to the dispatcher (R69, R87, R95, R100). -/
def State.handLaunch (s : State) (l : Launch) (lane : Nat) : State :=
  let lk := s.kul.nlaunch
  let l := { l with order := lk, deps := l.deps.map (fun d => (d.1, d.2.1, decide (d.2.1 ≤ s.event d.1))) }
  let s := { s with
    launches := mput s.launches lk l
    kul := { s.kul with nlaunch := lk + 1, launched := true } }
  let s := l.deps.zipIdx.foldl (fun s e =>
    if e.1.2.2 then s else s.addWaiter e.1.1 e.1.2.1 (.dep lk e.2) l.part) s
  let s := s.emitQ l.part lane 0x05 (l.queue % 1024 + l.index % 2 ^ 32 * 2 ^ 10)
  (s.syncQ l.queue).wantPass l.part

/-! ## Summaries (R81, R250) -/

/-- PSTATn as it reads (R241). -/
def State.pstat (s : State) (p : Nat) : BitVec 64 :=
  BitVec.ofNat 64 (b2n (s.pealFull p) + b2n (s.effLL p) * 2 + b2n s.peal.susp * 4 + s.fld (nPSTAT p) 63 32 * 2 ^ 32)

/-- State code of a gang (R81). -/
def GangState.code : GangState → Nat
  | .placed => 0
  | .running => 1
  | .draining | .saving => 2
  | .saved => 3
  | .retired => 3

/-- The sections of a summary of partition p: entry size and the bytes of each entry. A disabled queue keeps its partition, and
one that was never enabled belongs to partition 0 (R423). -/
def State.sections (s : State) (p : Nat) : List (Nat × List (List Byte)) :=
  let qs := ((upto 1024).map (fun q => (q, s.queue q))).filter (fun e => e.2.part == p)
  let gs := s.gangs.filterMap (fun e => match mget? s.launches e.2.launch with
    | some l => if l.part = p then some (e.2, l) else none
    | none => none)
  [(32, qs.map (fun e => bytesLE 4 e.1 ++ bytesLE 4 e.2.rdidx ++ bytesLE 8 e.2.wrseen ++ bytesLE 16 (s.qsw e.1))),
   (32, gs.map (fun e => bytesLE 4 e.2.queue ++ bytesLE 4 e.2.index ++ bytesLE 8 e.2.lrec ++ bytesLE 8 (e.1.index % 2 ^ 48) ++
      bytesLE 1 e.1.die ++ bytesLE 1 (e.1.die * 48 + e.1.origin) ++ bytesLE 1 e.1.w ++ bytesLE 1 e.1.h ++ bytesLE 4 e.1.st.code)),
   (8, (s.kul.events.filter (fun e => s.evInRange p e.1)).map (fun e => bytesLE 4 e.1 ++ bytesLE 4 e.2)),
   (4, (upto 8).map (fun c => bytesLE 4 (mgetD s.rel.counts c 0))),
   (8, [bytesLE 8 s.tstat.toNat]),
   (8, (upto 256).map (fun i => bytesLE 8 (s.reg (0x200 + i)).toNat)),
   (64, [bytesLE 8 (s.reg (nPCTL p)).toNat ++ bytesLE 8 (s.reg (nPBUF p)).toNat ++ bytesLE 8 (s.reg (nPPTR p)).toNat ++
      bytesLE 8 (s.pstat p).toNat ++ bytesLE 8 (s.reg (nPCNT p)).toNat ++
      bytesLE 8 (s.second % 2 ^ 48 + b2n s.links.holdover * 2 ^ 63) ++ bytesLE 16 0]),
   (64, [bytesLE 24 (sumL ((upto 192).map (fun c => if s.coreIn c p then 2 ^ c else 0))) ++
      bytesLE 4 (s.fld (0x40 + p) 15 0) ++ bytesLE 4 (s.fld (0x40 + p) 48 32) ++ bytesLE 32 0])]

/-- Bytes up to a multiple of 64. -/
def up64 (n : Nat) : Nat := (n + 63) / 64 * 64

/-- Lays sections out from offset o in space n: each with its offset and whether it fits, the first misfit ending it. -/
def layout (n : Nat) : Nat → Bool → List (Nat × List (List Byte)) → List (Nat × Bool × Nat × List (List Byte))
  | _, _, [] => []
  | o, ok, (sz, es) :: r =>
    let fit := ok && o + sz * es.length ≤ n
    (o, fit, sz, es) :: layout n (up64 (o + sz * es.length)) fit r

/-- The summary of partition p in n bytes: its bytes, and TRUNC (R81). The offset of a section that does not fit is free. -/
def State.summary (s : State) (p n : Nat) : List Byte × Bool :=
  let secs := layout n 0x100 true (s.sections p)
  let need := match secs.getLast? with
    | some (o, _, sz, es) => o + sz * es.length
    | none => 0x100
  let trunc := secs.any (fun e => !e.2.1)
  let head := bytesLE 8 0x53594E43 ++ bytesLE 4 1 ++ bytesLE 4 p ++ bytesLE 8 (s.time % 2 ^ 48 + b2n s.links.holdover * 2 ^ 63) ++
    bytesLE 4 need ++ bytesLE 4 (b2n trunc) ++ bytesLE 32 0
  let sect := secs.zipIdx.flatMap (fun e =>
    let (o, fit, sz, es) := e.1
    bytesLE 4 (if fit then o else (Config.freeWord (s.draws + e.2)).toNat) ++ bytesLE 4 (if fit then es.length else 0) ++
      bytesLE 4 sz ++ bytesLE 4 0)
  let body := secs.foldl (fun (acc : List Byte) e =>
    let (o, fit, _, es) := e
    if fit && !es.isEmpty then acc ++ bytesLE (o - acc.length) 0 ++ es.flatten else acc) (head ++ sect ++ bytesLE 64 0)
  (body, trunc)

/-- Writes the summary of a queue's partition as it stood in s0, cut to the end of stacked DRAM (log entry 169), and answers its
length and TRUNC. -/
def State.resync (s s0 : State) (p dest n : Nat) : Nat × Bool × State :=
  let (bs, t) := s0.summary p (min n (0x8000000000 - dest))
  (bs.length, t, (s.outsideWrite dest bs none).draw 8)

/-! ## Packets (R67 to R70) -/

/-- The bits that a packet type uses besides the common ones (R68). -/
def usedBits (opc : Nat) : List (Nat × Nat) :=
  [(31, 16), (9, 0)] ++ match opc with
  | 2 => [(127, 64), (144, 128), (191, 160)]
  | 3 => [(143, 128), (191, 160)]
  | 4 => [(145, 128), (191, 160)]
  | 5 => [(77, 76), (75, 64)]
  | 6 => [(159, 64)]
  | _ => []

/-- The bits of a packet that its type does not use. -/
def strayBits (opc x : Nat) : Nat :=
  (usedBits opc).foldl (fun x r => x - nbits x r.1 r.2 * 2 ^ r.2) x

/-- A packet is malformed (R70). -/
def packetBad (x : Nat) : Bool :=
  let opc := nbits x 7 0
  opc = 0 || 6 < opc || strayBits opc x != 0 ||
  (opc = 2 && (nbits x 127 64 % 512 != 0 || !stackRange (nbits x 127 64) 512)) ||
  (opc = 4 && nbits x 145 144 = 3) ||
  (opc = 5 && (if nbit x 77 then nbits x 75 74 != 0 || nbit x 76 else nbits x 75 74 = 0)) ||
  (opc = 6 && (nbits x 127 64 % 256 != 0 || nbits x 159 128 < 256 || !stackRange (nbits x 127 64) 256))

/-- What a lane holds in a round: a packet with its ring index, or a doorbell's RESYNC. -/
structure Work where
  lane : Nat
  q    : Nat
  ix   : Nat
  x    : Nat
  rsy  : Bool

/-- The type it is served as (R77). -/
def Work.type (w : Work) : Nat := if w.rsy then 6 else nbits w.x 7 0

/-- Free lanes take queues (R77 step 1): those with a doorbell RSY first, then READY ones from the one after the last taken; a
queue that is taken for its RSY alone does not count as the last taken (log entry 168). -/
def State.takeLanes (s : State) : State :=
  let free := (upto 64).filter (fun l => !s.kul.queues.any (fun e => e.2.lane == some l))
  let rot := sortBy (fun e => (e.1 + 1023 - s.kul.lastQ) % 1024) (s.kul.queues.filter (fun e => e.2.lane.isNone))
  let want := rot.filter (fun e => e.2.rsy && e.2.st != .disabled) ++ rot.filter (fun e => !e.2.rsy && e.2.st == .ready)
  (free.zip (mkeys want)).foldl (fun s e =>
    let ready := (s.queue e.2).st = .ready
    let s := s.updQueue e.2 (fun x => { x with lane := some e.1, parsed := 0, st := if ready then .held else x.st })
    if ready then { s with kul := { s.kul with lastQ := e.2 } } else s) s

/-- A lane gives its queue up, which enters a state. -/
def State.release (s : State) (q : Nat) (st : QState) : State := s.updQueue q (fun x => { x with lane := none, st := st })

/-- A packet that its queue has copied, at ring index ix, is to be served, or waits bound: a BAR that is unmet blocks the queue,
and a LAUNCH waits for a RESTORE (R54, R63, R67). -/
def State.bindPacket (s : State) (lane q ix v : Nat) : Option Work × State :=
  let keep := fun (s : State) => s.updQueue q (fun x => { x with bound := some (ix, v) })
  if nbit v 9 && !s.queueQuiet q then (none, (keep s).release q .blocked)
  else if nbits v 7 0 = 2 && s.power.restoring then (none, keep s)
  else (some { lane := lane, q := q, ix := ix, x := v, rsy := false }, s.updQueue q (fun x => { x with bound := none }))

/-- A lane copies what it holds (R77 step 2, R63, R70). -/
def State.copyPacket (s : State) (lane q : Nat) : Option Work × State :=
  let x := s.queue q
  if x.rsy then (some { lane := lane, q := q, ix := 0, x := 0, rsy := true }, s)
  else if x.st ≠ .held then (none, s.updQueue q (fun x => { x with lane := none }))
  else if s.latched x.part 4 lane then (none, s)
  else if 16 ≤ s.inflight q then (none, s.release q .blocked)
  else match x.bound with
    | some (ix, v) => s.bindPacket lane q ix v
    | none =>
      if x.rdidx = x.wrseen then (none, s.release q .idle)
      else
        let (bs, p, s) := s.homeRead x.head 64
        let v := ofBytesLE bs
        let next := fun (s : State) => s.updQueue q (fun x => { x with rdidx := (x.rdidx + 1) % 2 ^ 32 })
        if p.isSome then (none, (next s).queueError q 8 (nbits v 31 16) x.rdidx)
        else if packetBad v then (none, s.queueError q 2 (nbits v 31 16) x.rdidx)
        else (next s).bindPacket lane q x.rdidx v

/-- Serves a RESYNC; s0 is the state at the start of the round. A doorbell's RSY posts no entry (log entry 170). -/
def Work.resync (w : Work) (s0 s : State) : State :=
  let x := s.queue w.q
  if w.rsy then
    let (_, _, s) := s.resync s0 x.part x.rsyaddr x.rsylen
    s.updQueue w.q (fun x => { x with rsy := false, lane := if x.st = .held then x.lane else none })
  else
    let (n, t, s) := s.resync s0 x.part (nbits w.x 127 64) (nbits w.x 159 128)
    s.postDone w.q 5 (nbits w.x 31 16) w.ix (n % 2 ^ 32 + b2n t * 2 ^ 32) (nbit w.x 8)

/-- Serves a PREEMPT (R69). -/
def Work.preempt (w : Work) (s : State) : State :=
  let x := s.queue w.q
  let t := nbits w.x 73 64
  let tag := nbits w.x 31 16
  if (s.queue t).part ≠ x.part then s.queueError w.q 4 tag w.ix
  else if nbit w.x 77 then
    let s := if (s.queue t).st = .stopped then
        (s.updQueue t (fun x => { x with hold := false, st := if x.wait.isSome then .waiting else x.awake })).letGo t
      else s
    s.postDone w.q 0 tag w.ix 0 (nbit w.x 8)
  else s.startLadder t (nbits w.x 75 74) (nbit w.x 76) false [(w.q, tag, w.ix, nbit w.x 8)]

/-- Serves a SIGNAL (R69, R94). -/
def Work.signal (w : Work) (s : State) : State :=
  let x := s.queue w.q
  let ev := nbits w.x 143 128
  let tag := nbits w.x 31 16
  if !s.evInRange x.part ev then s.queueError w.q 5 tag w.ix
  else
    let s := s.applyEvent { ev := ev, op := nbits w.x 145 144, v := nbits w.x 191 160, part := x.part, sclass := 4
                            sinst := w.lane, mask := true }
    s.postDone w.q 0 tag w.ix 0 (nbit w.x 8)

/-- Serves a WAIT (R69). -/
def Work.wait (w : Work) (s : State) : State :=
  let x := s.queue w.q
  let ev := nbits w.x 143 128
  let th := nbits w.x 191 160
  let tag := nbits w.x 31 16
  if !s.evInRange x.part ev then s.queueError w.q 5 tag w.ix
  else if th ≤ s.event ev then s.postDone w.q 0 tag w.ix 0 (nbit w.x 8)
  else
    let s := s.addWaiter ev th (.queue w.q tag w.ix (nbit w.x 8)) x.part
    s.updQueue w.q (fun x => { x with wait := some (tag, w.ix, nbit w.x 8), st := .waiting, lane := none })

/-- Serves a LAUNCH (R69, R87, R88). -/
def Work.launch (w : Work) (s : State) : State :=
  let x := s.queue w.q
  let lrec := nbits w.x 127 64
  let tag := nbits w.x 31 16
  let (bs, p, s) := s.homeRead lrec 512
  let r := ofBytesLE bs
  let l := launchOfRecord r w.q w.ix lrec w.x
  if p.isSome then s.queueError w.q 8 tag w.ix
  else match s.recordErr r x.part l with
    | 0 => s.handLaunch l w.lane
    | k => s.queueError w.q k tag w.ix

/-- Serves one lane's packet of the type being served. -/
def Work.serve (w : Work) (s0 s : State) : State :=
  match w.type with
  | 6 => w.resync s0 s
  | 5 => w.preempt s
  | 4 => w.signal s
  | 3 => w.wait s
  | 2 => w.launch s
  | _ => s.postDone w.q 0 (nbits w.x 31 16) w.ix 0 (nbit w.x 8)

/-- After its packet a lane goes on, or gives its queue up (R71, R77 step 4). -/
def Work.goOn (w : Work) (s : State) : State :=
  let x := s.queue w.q
  if w.rsy || x.st ≠ .held then s
  else if 16 ≤ s.inflight w.q then s.release w.q .blocked
  else if x.rdidx = x.wrseen then s.release w.q .idle
  else if 7 ≤ x.parsed then s.release w.q .ready
  else s.updQueue w.q (fun x => { x with parsed := x.parsed + 1 })

/-- KULINTANG_ROUND (R77, R94). -/
def execKulintangRound (s0 : State) : Host.Outcome State Fault Refusal :=
  let s := s0.takeLanes
  let lanes := sortBy (·.1) (s.kul.queues.filterMap (fun e => e.2.lane.map (fun l => (l, e.1))))
  let (ws, s) := lanes.foldl (fun (acc : List Work × State) e =>
    let (w, s) := acc.2.copyPacket e.1 e.2
    (acc.1 ++ w.toList, s)) ([], s)
  let s := [6, 5, 4, 3, 2, 1].foldl (fun s t => (ws.filter (fun w => w.type == t)).foldl (fun s w => w.serve s0 s) s) s
  let s := ws.foldl (fun s w => w.goOn s) s
  .next (s.kul.held.foldl (fun s u => s.applyEvent u) { s with kul := { s.kul with held := [] } })

/-- Kulintang has something to do (R77). -/
def State.roundDue (s : State) : Bool :=
  !s.kul.held.isEmpty || s.kul.queues.any (fun e =>
    (e.2.rsy && e.2.st != .disabled) || e.2.st == .ready || e.2.st == .held)

/-! ## Completion queue registers (R78, R80) -/

/-- Entries held back are written while there is room, and queues freed (R78). -/
def State.cqKick (s : State) (c : Nat) : State := ((s.coalesce c).cqDrain c ((s.cq c).items.length + 1)).cqStalls

/-- A write of CQCFG (R78). -/
def State.writeCqcfg (s : State) (c : Nat) (v : BitVec 64) : State :=
  if 16 < b64 v 4 0 then s
  else
    let x := s.cq c
    let x := { x with cfg := v &&& 0x1FFFF001F#64 }
    let x := if b64 v 32 32 = 1 then { x with head := 0, tail := 0, phase := true } else x
    (s.setCq c x).cqKick c

def execCqEnable (q : BitVec 8) (v : BitVec 64) (s : State) : Host.Outcome State Fault Refusal :=
  .next (s.writeCqcfg q.toNat (setBits v 32 32 1))

/-- A write of CQHEAD (R78). -/
def State.writeCqhead (s : State) (c : Nat) (v : BitVec 64) : State :=
  (s.setCq c { s.cq c with head := b64 v 31 0 }).cqKick c

def execCqheadWrite (q : BitVec 8) (v : BitVec 64) (s : State) : Host.Outcome State Fault Refusal :=
  .next (s.writeCqhead q.toNat v)

/-- A write of CQCOAL (R80). -/
def State.writeCqcoal (s : State) (c : Nat) (v : BitVec 64) : State :=
  (s.setCq c { s.cq c with coal := v &&& 0x1FFFFFF#64 }).coalesce c

/-- CQ_COALESCE_TIMER (R80): TIMER microseconds have passed since the first pending entry. -/
def execCqCoalesceTimer (q : BitVec 8) (s : State) : Host.Outcome State Fault Refusal :=
  let c := q.toNat
  let x := s.cq c
  let timer := b64 x.coal 23 8
  .next (if b64 x.coal 24 24 = 1 && timer ≠ 0 && 1 ≤ x.p && x.first + timer * 16000 ≤ s.time then
    (s.setCq c { x with p := 0 }).interrupt (b64 x.cfg 26 16)
  else s)

end Sys2Proof.Machine
end

