-- ==== Sys2Proof/Machine/Reliab.lean ====
section
/-! DEFINITION. Reliability: error record registers and the armed injection (R219 to R224), scrubbing (R225), failures of
dies, stacks and controllers (R228 to R230) with salvage (R171), the home's own events (R156 to R158), and the generation
and invalidation of address spaces (R169). -/

namespace Sys2Proof.Machine

/-! ## Error records (R219, R222) -/

/-- A write of ERRBASE: when ENABLE is set, every held record goes to its slot (R219). -/
def State.writeErrbase (s : State) (v : BitVec 64) : State :=
  let was := s.fld 0x23 0 0
  let s := s.setReg 0x23 (v &&& 0x1FFFFFFC0001#64)
  if was = 0 && b64 v 0 0 = 1 then s.rel.heldR.foldl (fun s i => (s.recStore i).errMessage (s.rec_ i).sev) s else s

/-- ERRBASE_ENABLE (R219, R222). -/
def execErrbaseEnable (v : BitVec 64) (s : State) : Host.Outcome State Fault Refusal := .next (s.writeErrbase v)

/-- Frees record i: VALID, OVF and COUNT are cleared, in memory too when records are written there (R222). -/
def State.freeRec (s : State) (i : Nat) : State :=
  match mget? s.rel.recs i with
  | none => s
  | some r =>
    let s := { s with rel := { s.rel with recs := mput s.rel.recs i { r with valid := false, ovf := false, count := 0 } } }
    if s.fld 0x23 0 0 = 1 then s.recStore i
    else { s with rel := { s.rel with heldR := s.rel.heldR.filter (· != i) } }

/-- A write of ERRACK. -/
def State.writeErrack (s : State) (v : BitVec 64) : State := if b64 v 0 0 = 1 then s.freeRec (b64 v 12 1) else s

/-- ERRACK_FREE (R222). -/
def execErrackFree (v : BitVec 64) (s : State) : Host.Outcome State Fault Refusal := .next (s.writeErrack v)

/-! ## Injection and scrubbing (R223, R225) -/

/-- A write of INJ_CTL: a refused arming leaves ARM at 0 and sets ERR. -/
def State.writeInjCtl (s : State) (v : BitVec 64) : State :=
  let old := s.reg 0x27
  let refused := b64 v 0 0 = 1 && (b64 v 2 1 = 3 || !paReachable (s.fld 0x26 47 7 * 128))
  let n := (v &&& 0xFFC00327#64) ||| (old &&& 0x3FF800#64 &&& ~~~(v &&& 0x1800#64))
  s.setReg 0x27 (if refused then setBits (setBits n 0 0 0) 11 11 1 else n)

/-- INJ_ARM (R223). -/
def execInjArm (v : BitVec 64) (s : State) : Host.Outcome State Fault Refusal := .next (s.writeInjCtl v)

/-- A write of SCRUBCTL: a PERIOD of 0 leaves it unchanged (R225). -/
def State.writeScrubctl (s : State) (v : BitVec 64) : State :=
  let s := s.setFld 0x28 0 0 (b64 v 0 0)
  if b64 v 47 32 = 0 then s else s.setFld 0x28 47 32 (b64 v 47 32)

/-- The line after ln in a scrub pass, and whether the pass ends: stacked DRAM, then the second tier (R142, R225). -/
def scrubNext (ln : Nat) : Nat × Bool :=
  if ln + 1 = 2 ^ 32 then (0x100000000000 / 128, false)
  else if 0x160000000000 / 128 ≤ ln + 1 then (0, true)
  else (ln + 1, false)

/-- The scrubber poisons line ln, in its memory array or in the L2 of die d, and records it (R225). -/
def State.scrubBad (s : State) (ln : Nat) (die : Option Nat) (synd : Nat) : State :=
  let pa := ln * 128
  match die with
  | none =>
    let (k, s) := s.record (homeClass pa) 0x05 1 false pa (homeUnit pa) 0 synd none
    s.updLine ln (fun x => { x with pois := tagMin (some (mkTag (homeClass pa) k)) x.pois })
  | some d =>
    let (k, s) := s.record 2 0x05 1 false pa (sliceUnit d pa) 0 synd none
    let t := some (mkTag 2 k)
    if (s.line ln).owner = some d then s.updLine ln (fun x => { x with pois := tagMin t x.pois })
    else s.setMM { s.mm with vcopy := mupd s.mm.vcopy (copyKey d ln) (fun c => { c with pois := tagMin t c.pois }) }

/-- The scrubber reads a line where it lies and finds the error that lies there (R225, R436). -/
def State.scrubAt (s : State) (ln : Nat) (die : Option Nat) : State :=
  let p : FlawAt := match die with
    | none => .array ln
    | some d => .slice d ln
  match s.flaw p with
  | none => s
  | some f =>
    let s := s.dropFlaws (· == p)
    if !f.fixed then s.scrubBad ln die f.synd
    else match die with
      | none => (s.record (homeClass (ln * 128)) 0x01 0 false (ln * 128) (homeUnit (ln * 128)) 0 f.synd none).2
      | some d => (s.record 2 0x01 0 false (ln * 128) (sliceUnit d (ln * 128)) 0 f.synd none).2

/-- SCRUB (R225): the scrubber reads its next line, in its array and in the L2 that holds it, finds the errors that lie there
(R436), and besides nothing (0), an error in the array that it corrects (1), an uncorrectable error in the array (2) or in an
L2 copy (3). It changes no version and fires no injection. -/
def execScrub (found : BitVec 2) (s : State) : Host.Outcome State Fault Refusal :=
  .next (if s.fld 0x28 0 0 = 0 || s.power.applied.contains 1 then s
  else
    let ln := s.rel.scrubAt
    let pa := ln * 128
    let die := match (s.line ln).owner with
      | some d => some d
      | none => (upto 4).find? (fun d => (mget? s.mm.vcopy (copyKey d ln)).isSome)
    let s := (upto 4).foldl (fun s d => s.scrubAt ln (some d)) (s.scrubAt ln none)
    let s := match found.toNat, die with
      | 1, _ => (s.record (homeClass pa) 0x01 0 false pa (homeUnit pa) 0 0 none).2
      | 2, _ => s.scrubBad ln none 0
      | 3, some d => s.scrubBad ln (some d) 0
      | _, _ => s
    let (n, done) := scrubNext ln
    let s := { s with rel := { s.rel with scrubAt := n } }
    if done then s.setFld 0x28 63 48 (satAdd 0xFFFF (s.fld 0x28 63 48) 1) else s)

/-! ## What failures share -/

/-- Lines on which a group has a pending watch. -/
def State.watchedLines (s : State) : List Nat :=
  dedup (s.groups.flatMap (fun e => (e.2.watches.filter (fun w => w.st == .pending)).map (·.line)))

/-- A group loses the reservations on lines that p names. -/
def Group.loseLines (g : Group) (p : Nat → Bool) : Group := { g with resv := g.resv.filter (fun r => !p (resvLine r.2)) }

/-- Watches on lines of a failed home are struck, reservations on them are lost, and copies of them are gone (R229). -/
def State.cutHome (s : State) (home : Nat) : State :=
  let on := fun ln => homeOf (ln * 128) == home
  let s := (s.watchedLines.filter on).foldl (fun s ln => s.strikeLost ln) s
  let s := { s with groups := mmap s.groups (fun _ g => g.loseLines on) }
  s.setMM { s.mm with
    lines := mmap s.mm.lines (fun ln x => if on ln then
      { x with owner := none, dirty := false, stamp := 0, swrap := false, granted := 0, mcore := none, flip := none } else x)
    held := s.mm.held.filter (fun k => !on (k % 2 ^ 44))
    flips := s.mm.flips.filter (fun e => !on (e.1 % 2 ^ 44))
    vcopy := s.mm.vcopy.filter (fun e => !on (e.1 % 2 ^ 44))
    wcopy := s.mm.wcopy.filter (fun e => !on (e.1 % 2 ^ 44)) }

/-! ## Compute dies (R228) -/

/-- Die d has failed: step 2 releases its lines, step 3 takes its cores away and resets the launches with a gang on it;
the record's slot is the slot of every tag of step 2. -/
def State.failDie (s : State) (d : Nat) : State :=
  if (mget? s.mm.deadDie d).isSome then s
  else
    let (k, s) := s.record 6 0x07 3 false 0 (d * 48) 0 0 none
    let t := mkTag 6 k
    let s := s.setMM { s.mm with deadDie := mput s.mm.deadDie d t }
    let owned := s.mm.lines.filter (fun e => e.2.owner == some d)
    let s := owned.foldl (fun s e =>
      let s := if e.2.dirty then s.strikeLost e.1 else s
      let (s, _, _) := s.takeBack e.1
      if e.2.dirty then (s.bumpVersion e.1).updLine e.1 (fun x => { x with pois := tagMin (some t) x.pois }) else s) s
    let s := s.setMM { s.mm with
      vcopy := s.mm.vcopy.filter (fun e => e.1 / 2 ^ 44 != d)
      wcopy := s.mm.wcopy.filter (fun e => (e.1 / 2 ^ 44) / 48 != d)
      icache := s.mm.icache.filter (fun e => (e.1 / 2 ^ 44) / 48 != d) }
    let s := { s with groups := mmap s.groups (fun _ g => if g.die = d then { g with resv := [] } else g) }
    let hit := dedup (s.gangs.filterMap (fun e =>
      if e.2.die = d && (e.2.st != GangState.saved && e.2.st != GangState.retired) then some e.2.launch else none))
    let s := (upto 48).foldl (fun s c => s.setCpart (d * 48 + c) (setBits (s.reg (0x100 + d * 48 + c)) 4 4 0)) s
    hit.foldl (fun s lk => s.destroyLaunch lk 7) s

/-- DIE_FAILURE (R228). -/
def execDieFailure (die : BitVec 2) (s : State) : Host.Outcome State Fault Refusal := .next (s.failDie die.toNat)

/-! ## Stacks and second-tier controllers (R171, R229, R230) -/

def salvageBase : Nat := 0x15FF00000000

/-- The salvage header (R171). -/
def State.salvageHeader (s : State) : State :=
  let failed := (mkeys s.mm.deadStack).foldl (fun a k => a + 2 ^ k) 0
  s.devWrite salvageBase 24 (0x564C4153 + s.mm.salvaged % 2 ^ 32 * 2 ^ 64 + failed % 256 * 2 ^ 96
    + (s.time % 2 ^ 48 + b2n s.links.holdover * 2 ^ 63) * 2 ^ 128)

/-- Writes the entry of a line that die d holds modified, and drops the line (R171, R229 step 1). -/
def State.salvage (s : State) (ln d : Nat) : State :=
  let s := s.checkOwn d ln
  let x := s.line ln
  let s := s.devWrite (salvageBase + 4096 + 256 * s.mm.salvaged) 256
    (ln * 128 + (x.writer % 2 ^ 20 + b2n x.pois.isSome * 2 ^ 20 + d % 4 * 2 ^ 21) * 2 ^ 64
      + (match x.pois with
        | some t => t.toNat
        | none => 0) * 2 ^ 96 + (s.lineData ln).toNat * 2 ^ 1024)
  let s := s.setMM { s.mm with salvaged := s.mm.salvaged + 1 }
  (s.takeBack ln).1

/-- Wait entries whose overflow line lay on a failed stack are lost (R229 step 4). -/
def State.loseWaiters (s : State) (st : Nat) : State :=
  let lost := s.kul.waiters.filter (fun w => match w.ovf with
    | some i => stackOf (0x7FFE000000 + w.part * 0x200000 + 16 * i) == st
    | none => false)
  let s := { s with kul := { s.kul with waiters := s.kul.waiters.filter (fun w => !lost.contains w) } }
  lost.foldl (fun s w => match w.owner with
    | .queue q tag ix _ => (match (s.queue q).wait with
      | some _ => (s.updQueue q (fun x => { x with wait := none })).queueError q 8 tag ix
      | none => s)
    | .dep lk _ => s.destroyLaunch lk 8) s

/-- A Theley base die has failed (R229). In what order the lines are salvaged is left open. -/
def State.failStack (s : State) (st : Nat) : State :=
  if (mget? s.mm.deadStack st).isSome then s
  else
    let (k, s) := s.record 0 0x08 3 false 0 (240 + st) 0 0 none
    let rows := s.mm.lines.filterMap (fun e => match e.2.owner with
      | some d => if e.2.dirty && homeOf (e.1 * 128) = st && (mget? s.mm.deadDie d).isNone then some (e.1, d) else none
      | none => none)
    let order := (sortBy (fun e => Config.freeNat (s.draws + e.2)) rows.zipIdx).map (·.1)
    let s := order.foldl (fun s e => s.salvage e.1 e.2) (s.draw rows.length)
    let s := s.cutHome st
    let s := s.setMM { s.mm with deadStack := mput s.mm.deadStack st (mkTag 0 k) }
    (s.loseWaiters st).salvageHeader

/-- STACK_FAILURE (R229). -/
def execStackFailure (stack : BitVec 3) (s : State) : Host.Outcome State Fault Refusal := .next (s.failStack stack.toNat)

/-- A second-tier controller has failed: its channels behave as in R229 steps 2 to 4 with class 1, without salvage
(R230). -/
def State.failController (s : State) (c : Nat) : State :=
  if (mget? s.mm.deadCtl c).isSome then s
  else
    let (k, s) := s.record 1 0x08 3 false 0 (254 + c) 0 0 none
    let s := s.cutHome (8 + c)
    s.setMM { s.mm with deadCtl := mput s.mm.deadCtl c (mkTag 1 k) }

/-- CONTROLLER_FAILURE (R230). -/
def execControllerFailure (ctl : BitVec 1) (s : State) : Host.Outcome State Fault Refusal :=
  .next (s.failController ctl.toNat)

/-! ## The home's own events (R156 to R158) -/

/-- A die may ask the home of a line. -/
def State.askable (s : State) (die ln : Nat) : Bool :=
  paExists (ln * 128) && (s.deadHome (ln * 128)).isNone && (mget? s.mm.deadDie die).isNone

/-- OWNERSHIP_REQUEST (R157): the home recalls any owner, advances the version if the line was modified, and grants OWN. -/
def execOwnershipRequest (die : BitVec 2) (line : Nat) (s : State) : Host.Outcome State Fault Refusal :=
  .next (if s.askable die.toNat line then s.own die.toNat line false else s)

/-- REVALIDATION (R156): a load of a line that the die holds V is answered with CONFIRM or with fresh data. -/
def execRevalidation (die : BitVec 2) (line : Nat) (s : State) : Host.Outcome State Fault Refusal :=
  .next (if s.askable die.toNat line && (mget? s.mm.vcopy (copyKey die.toNat line)).isSome then
    (s.readLine (die.toNat * 48) line .l2).2.2 else s)

/-- A watch request on a line that a die, or some die, sent before identifier n was given is not decided yet. -/
def State.asking (s : State) (ln n : Nat) (die : Option Nat) : Bool :=
  s.groups.any (fun e => (die.isNone || die == some e.2.die) &&
    e.2.watches.any (fun w => w.line == ln && w.st == .pending && decide (w.id < n)))

/-- WRAP_CLEAR (R158, R153): every die, or every core of a die, has acknowledged, which each does only after the requests that
it sent earlier for the line have been decided. -/
def execWrapClear (die : Option (BitVec 2)) (line : Nat) (s : State) : Host.Outcome State Fault Refusal :=
  let x := s.line line
  .next (match die with
  | none => if s.asking line x.wrapId none then s else s.updLine line (fun x => { x with wrap := false })
  | some d =>
    if x.owner ≠ some d.toNat || s.asking line x.swrapId (some d.toNat) then s
    else s.updLine line (fun x => { x with swrap := false }))

/-! ## ASCTL (R169) -/

/-- Reservations of launches of an address space are lost when its generation advances (R187). -/
def State.dropSpace (s : State) (a : Nat) : State :=
  { s with groups := mmap s.groups (fun _ g => match s.launchOf g.wg with
    | some (_, _, l) => if l.aspace = a then { g with resv := [] } else g
    | none => g) }

/-- A write of ASCTL. One that is refused sets ERR and does nothing else. -/
def State.writeAsctl (s : State) (v : BitVec 64) : State :=
  let acts := b64 v 1 0 ≠ 0
  let a := b64 v 23 12
  let adv := b64 v 0 0 = 1
  if acts && s.mm.asBusy.isSome || adv && a = 0 then s.setFld 0x22 3 3 1
  else
    let s := s.setFld 0x22 23 12 a
    let s := if b64 v 3 3 = 1 then s.setFld 0x22 3 3 0 else s
    if acts then
      let s := if adv then s.dropSpace a else s
      s.setMM { s.mm with
        asBusy := some (a, adv)
        asMark := s.mm.olds.length
        gens := if adv then mput s.mm.gens a ((s.asGen a + 1) % 256) else s.mm.gens }
    else s

/-- ASCTL_INVAL and ASCTL_ADVANCE (R169): a write with INVAL set, or with ADVANCE set. -/
def execAsctlInval (v : BitVec 64) (s : State) : Host.Outcome State Fault Refusal := .next (s.writeAsctl (setBits v 1 1 1))

def execAsctlAdvance (v : BitVec 64) (s : State) : Host.Outcome State Fault Refusal :=
  .next (s.writeAsctl (setBits v 0 0 1))

/-- ASCTL_DONE (R168, R169): every unit holds the new state, cached translations of the space are gone, what
tables held before the action was ordered is used no more, and BUSY clears. -/
def execAsctlDone (s : State) : Host.Outcome State Fault Refusal :=
  .next (match s.mm.asBusy with
  | none => s
  | some (a, _) => s.setMM { s.mm with
      asBusy := none, tlb := s.mm.tlb.filter (fun e => e.1 / 2 ^ 36 != a), marks := mput s.mm.marks a s.mm.asMark })

/-- What ASCTL reads (R169). -/
def State.asctl (s : State) : BitVec 64 :=
  setBits (setBits (s.reg 0x22 &&& 0xFFF008#64) 31 24 (s.asGen (s.fld 0x22 23 12))) 2 2 (b2n s.mm.asBusy.isSome)

end Sys2Proof.Machine
end

