-- ==== Sys2Proof/Machine/Remote.lean ====
section
/-! DEFINITION. How copy operations start, run over a link, and end: peer operations and Damavi messages of modes 6 and 7
as their sender runs them (R26, R27, R385 to R387), and COPY_START, COPY_DONE and COPY_STOP. -/

namespace Sys2Proof.Machine

/-! ## Ports and connections -/

/-- A port that nothing has enabled (R20). -/
def Port.fresh : Port :=
  { peer := 0, badpkt := 0, replays := 0, narrow := false, ldown := false, trained := false, enable := false, open_ := [],
    runs := [], replay := [], dying := false, asked := false, agreed := false }

def State.port (s : State) (n : Nat) : Port := mgetD s.links.ports n Port.fresh

/-- Changes a port. -/
def State.updPort (s : State) (n : Nat) (f : Port → Port) : State :=
  { s with links := { s.links with ports := mput s.links.ports n (f (s.port n)) } }

/-- Port n runs Scasutal: port 15 may be the host port (R22). -/
def State.isScasutal (s : State) (n : Nat) : Bool := n < 15 || (n == 15 && !s.links.sl15)

/-- The port over which peer d is reached (R385). -/
def State.portTo (s : State) (d : Nat) : Option Nat :=
  (upto 16).find? (fun n => s.isScasutal n && (s.port n).trained && !(s.port n).ldown && (s.port n).peer == d)

/-- Where the entry of connection n stands (R425). -/
def State.connAt (s : State) (n : Nat) : Nat := s.fld 0x31 44 12 * 4096 + 64 * n

/-- The entry breaks R6 or is not valid. -/
def connBad (v : Nat) : Bool :=
  nbits v 145 144 = 3 || nbits v 150 146 ≠ 0 || !nbit v 151 || nbits v 159 152 ≠ 0 || nbits v 191 184 ≠ 0
    || nbits v 319 304 ≠ 0 || nbits v 511 465 ≠ 0

/-- Reads the entry of connection n (R425): none when Damavi is off, n is above NCONN, or the entry cannot be used. -/
def State.conn (s : State) (n : Nat) : Option Nat × State :=
  if s.fld 0x31 0 0 = 0 || s.fld 0x32 41 32 < n || !inDram (s.connAt n) then (none, s)
  else
    let (bs, p, s) := s.homeRead (s.connAt n) 64
    let v := ofBytesLE bs
    (if p.isSome || connBad v then none else some v, s)

/-- The fields of an entry (R425). -/
def connPort (v : Nat) : Nat := nbits v 145 144
def connRemote (v : Nat) : Nat := nbits v 183 160
def connNext (v : Nat) : Nat := nbits v 215 192
def connExpect (v : Nat) : Nat := nbits v 247 224
def connRkey (v : Nat) : Nat := nbits v 287 256
def connSlot (v : Nat) : Nat := nbits v 303 288
def connBase (v : Nat) : Nat := nbits v 383 320
def connSize (v : Nat) : Nat := nbits v 447 384 + 1
def connEvent (v : Nat) : Nat := nbits v 463 448
def connSigen (v : Nat) : Bool := nbit v 464

/-- Where packets of a connection go: the peer that its entry names, whose UDP port is the destination port; they come from the
module's own (R26, R425, log entry 157). -/
def State.connTo (s : State) (v : Nat) : UdpTo :=
  { addr := BitVec.ofNat 128 (nbits v 127 0), udp := BitVec.ofNat 16 (nbits v 143 128)
    src := BitVec.ofNat 16 (s.fld 0x30 15 0) }

/-- A Damavi header (R26). -/
def dmvHeader (roff rkey psn ack conn len flags op : Nat) : BitVec 256 :=
  BitVec.ofNat 256 (2 ^ 48 + op % 256 * 2 ^ 56 + flags % 256 * 2 ^ 64 + len % 65536 * 2 ^ 72 + conn % 2 ^ 24 * 2 ^ 88
    + ack % 2 ^ 24 * 2 ^ 112 + psn % 2 ^ 24 * 2 ^ 136 + rkey % 2 ^ 32 * 2 ^ 160 + roff % 2 ^ 64 * 2 ^ 192)

/-- Sends a packet of connection n in PSN order, and keeps it until it is acknowledged (R27, R385). -/
def State.dmvSend (s : State) (n v : Nat) (op : Option (Nat × Nat)) (off len : Nat) (roff rkey flags code : Nat)
    (data : List Byte) : State :=
  let psn := connNext v
  let s := s.devWrite (s.connAt n + 0x18) 4 ((psn + 1) % 2 ^ 24)
  let hdr := dmvHeader roff rkey psn (connExpect v + 2 ^ 24 - 1) (connRemote v) len flags code
  let u : Unacked :=
    { op := op, off := off, n := len, got := 0, tries := 0, at_ := s.time, acked := false, full := none
      port := connPort v, dest := s.connTo v, hdr := hdr, data := data }
  ({ s with links := { s.links with unacked := mput s.links.unacked (n * 2 ^ 24 + psn) u } } : State).send
    (.damavi (connPort v) (s.connTo v) hdr data)

/-! ## The sending side of an operation (R385) -/

/-- Sides and sizes of a remote operation. -/
def QOp.desc (o : QOp) : Desc := descOf (o.bound.getD 0)
def QOp.localAddr (o : QOp) : Nat := match o.op with
  | .cpyb _ dst src => if o.desc.rop = 1 then dst else src
  | _ => 0
def QOp.reads (o : QOp) : Bool := o.desc.rop == 1

/-- Requests of an operation that its port has sent and not had answered. -/
def Port.outstanding (p : Port) (g id : Nat) : Nat := (p.open_.filter (fun e => e.1 == g && e.2.1 == id)).length

/-- Bytes before the first 64-byte beat that holds poison. -/
def cleanBeats : List EByte → Nat → Nat
  | _, 0 => 0
  | bs, k + 1 =>
    let b := bs.take 64
    if b.isEmpty || (poisOf b).isSome then 0 else b.length + cleanBeats (bs.drop 64) k

/-- Sends n bytes of the run from offset off: as an MRD or MWR, or as a Damavi packet; a SEND carries the RKEY of its
connection (log entry 157). -/
def State.sendPart (s : State) (c : Ctx) (o : QOp) (off n : Nat) (data : List Byte) : State :=
  let d := o.desc
  let upd := fun (s : State) => s.updOp c.gk o.id (fun x => { x with sent := off + n })
  if d.mode = 6 then
    let beat := beat0 (if o.reads then 3 else 4) d.rdest ((d.base + off) % 2 ^ 64 + n % 65536 * 2 ^ 64)
    let s := (upd s).updPort o.port (fun p => { p with open_ := p.open_ ++ [(c.gk, o.id, off, n)] })
    s.send (.packet o.port beat data)
  else match s.conn d.rdest with
    | (none, s) => s.updOp c.gk o.id (fun x => { x with rerr := 1 })
    | (some v, s) =>
      let flags := if off + n = d.len then 3 else 0
      let roff := if d.rop = 2 then 0 else (d.base + off) % 2 ^ 64
      let rkey := if d.rop = 2 then connRkey v else d.limit
      (upd s).dmvSend d.rdest v (some (c.gk, o.id)) off n roff rkey flags (if d.rop = 0 then 1 else if d.rop = 1 then 2 else 6)
        data

/-- The next packet of an operation: its source is read as a copy reads it, under the generation of its launch (R170);
poison stops it before the beat that holds it (R386). -/
def State.sendNext (s : State) (c : Ctx) (o : QOp) : State :=
  let d := o.desc
  let n := min (if d.mode = 6 then 4096 else 8192) (d.len - o.sent)
  if o.reads then s.sendPart c o o.sent n []
  else match rowAt o.localAddr 1 o.sent with
    | none => s.updOp c.gk o.id (fun x => { x with fcode := 5 })
    | some a => match s.engParts c a n 1 .load with
      | (.inl f, s) => s.updOp c.gk o.id (fun x => { x with fcode := f })
      | (.inr ps, s) =>
        let (bs, s) := s.engRead c ps
        let k := cleanBeats bs 128
        let s := if k = 0 then s else s.sendPart c o o.sent k ((bs.take k).map (·.1))
        if k < n then s.updOp c.gk o.id (fun x => { x with rerr := 3, met := true }) else s

/-- A remote operation has stopped, or has done all there is to do (R385, R386). -/
def QOp.stopped (o : QOp) : Bool := o.fcode != 0 || (o.rerr != 0 && o.rerr != 4)
def QOp.complete (o : QOp) : Bool := !o.stopped && o.acked == o.desc.len

/-- An operation may send its next packet: bytes are left, nothing has stopped it, and fewer than 16 requests of a peer
operation are outstanding. -/
def State.maySend (s : State) (c : Ctx) (o : QOp) : Bool :=
  o.started && o.remote && !o.stopped && o.sent < o.desc.len &&
    (o.desc.mode == 7 || (s.port o.port).outstanding c.gk o.id < 16)

/-- Writes the bytes of a remote read to the local destination (R385), poisoned where they came poisoned (R386); under an old
generation they are dropped (R170). -/
def State.land (s : State) (c : Ctx) (o : QOp) (off : Nat) (data : List Byte) (pois : Option PTag) : State :=
  match rowAt o.localAddr 1 off with
  | none => s.updOp c.gk o.id (fun x => { x with fcode := 5 })
  | some a => match s.engParts c a data.length 1 .store with
    | (.inl f, s) => s.updOp c.gk o.id (fun x => { x with fcode := f })
    | (.inr ps, s) =>
      (s.engWrite c o.gen ps (data.map (fun b => (b, pois)))).updOp c.gk o.id (fun x => { x with
        acked := x.acked + data.length, rerr := if pois.isSome then 4 else x.rerr, met := x.met || pois.isSome })

/-- Bytes of a remote read have come: they are written, or wait while a full latch holds the engine back (R243, R391). -/
def State.landBytes (s : State) (c : Ctx) (o : QOp) (off : Nat) (data : List Byte) (pois : Option PTag) : State :=
  if s.latched c.l.part 1 c.g.core || !o.come.isEmpty then
    s.updOp c.gk o.id (fun x => { x with come := x.come ++ [(off, data, pois)] })
  else s.land c o off data pois

/-- Writes what has come for an operation and sends what it may send now, unless a full latch holds the engine back (R243,
R391); fuel bounds the packets. -/
def State.pump (s : State) (gk id : Nat) : Nat → State
  | 0 => s
  | fuel + 1 => match s.gctx gk with
    | none => s
    | some c => match c.g.ops.find? (fun o => o.id == id) with
      | none => s
      | some o =>
        if s.latched c.l.part 1 c.g.core || o.stopped then s
        else if let (off, data, t) :: rest := o.come then
          ((s.updOp gk id (fun x => { x with come := rest })).land (c.atOp o) o off data t).pump gk id fuel
        else if s.maySend c o then
          (if o.desc.mode = 6 && (!(s.port o.port).trained || (s.port o.port).ldown) then
            s.updOp gk id (fun x => { x with rerr := 5 })
          else (s.sendNext (c.atOp o) o).pump gk id fuel)
        else s

/-- A remote operation that has started checks its local side, finds its path, and sends (R380, R385, R386). -/
def State.startRemote (s : State) (c : Ctx) (o : QOp) : State :=
  let d := o.desc
  match s.rangeParts c o.localAddr d.len (if d.mode = 6 then 64 else 1) (if o.reads then .store else .load) 0 with
  | (.inl f, s) => s.updOp c.gk o.id (fun x => { x with fcode := f })
  | (.inr _, s) =>
    if d.mode = 6 then
      match s.portTo d.rdest with
      | none => s.updOp c.gk o.id (fun x => { x with rerr := 1 })
      | some p => (s.updOp c.gk o.id (fun x => { x with port := p })).pump c.gk o.id 2049
    else match s.conn d.rdest with
      | (none, s) => s.updOp c.gk o.id (fun x => { x with rerr := 1 })
      | (some _, s) => s.pump c.gk o.id 1025

/-- COPY_START (R377, R380): the engine takes the first operation of a queue. A remote one that was issued in an open block
sends nothing and stops with RERR 6 (R385); one that was held back by a full latch goes on where it stood (R243). -/
def execCopyStart (g : Nat) (q : BitVec 3) (s : State) : Host.Outcome State Fault Refusal :=
  .next (match s.gctx g with
  | none => s
  | some c =>
    if 4 < q.toNat || (q.toNat < 4 && s.qmReady c.g.core) || s.latched c.l.part 1 c.g.core then s
    else match c.g.startable q.toNat with
      | none => (match c.g.running q.toNat with
        | some o => if o.remote then s.pump g o.id (17 + o.come.length) else s
        | none => s)
      | some o =>
        let (v, k, s') := s.bindDesc c o
        if s.opBankWait c { o with bound := some v } || s.passing c.wk then s
        else
          let s := s'
          let o := { o with started := true, bound := some v, fcode := k }
          let send := o.remote && k == 0
          let o := { o with rerr := if send && o.inBlock then 6 else 0 }
          let s := (s.updOp g o.id (fun _ => o)).emitCopy c o 0x10 o.planned
          if send && !o.inBlock then s.startRemote (c.atOp o) o else s)

/-! ## The end of an operation -/

/-- Ends a remote operation: STATUS, then its flag; RERR 6 fails the block at the next point of R378. -/
def State.finishRemote (s : State) (c : Ctx) (o : QOp) : State :=
  let (k, s) := s.writeStatus c o (statusBits o.acked 0 o.fcode o.rerr false o.met false false)
  (s.finishOp c o (if o.fcode ≠ 0 then o.fcode else k) (o.rerr == 6)).emitCopy c o 0x11 o.acked

/-- The end of a queue's running operation, which waits while the engine's latch is full (R243) and which a mismatch in the
engine gives another end (R212): stop says whether it is to have been stopped by a fault or a remote error. -/
def State.endCopy (s : State) (g q : Nat) (stop : Bool) : State :=
  match s.gctx g with
  | none => s
  | some c => if 4 < q then s else match c.g.running q with
    | none => s
    | some o =>
      if s.latched c.l.part 1 c.g.core then s
      else if o.remote then
        (if (if stop then o.stopped else o.complete) then
          (match s.flaw (.engine g q) with
          | some f =>
            let (ps, s) := if o.reads then s.rangeParts (c.atOp o) o.localAddr o.desc.len 1 .store 0 else (.inr [], s)
            s.copyMismatch (c.atOp o) o f (match ps with
              | .inr ps => ps
              | .inl _ => [])
          | none => s.finishRemote (c.atOp o) o)
        else s)
      else
        let r := o.runLocal (c.atOp o) s
        let o := { o with hash := r.hash o }
        if (r.code != 0) != stop then s
        else match s.flaw (.engine g q) with
          | some f => s.copyMismatch (c.atOp o) o f r.dst
          | none => r.finish (c.atOp o) o

/-- COPY_DONE (R377, R385): an operation without a fault has performed all its writes. -/
def execCopyDone (g : Nat) (q : BitVec 3) (s : State) : Host.Outcome State Fault Refusal :=
  .next (s.endCopy g q.toNat false)

/-- COPY_STOP (R378, R386): an operation stops at a fault or a remote error; what it wrote before stands. -/
def execCopyStop (g : Nat) (q : BitVec 3) (s : State) : Host.Outcome State Fault Refusal :=
  .next (s.endCopy g q.toNat true)

end Sys2Proof.Machine
end

