-- ==== Sys2Proof/Machine/Links.lean ====
section
/-! DEFINITION. The edge of the device: bridges (R13, R14), Scasutal ports and packets (R16 to R21, R74 to R76), host
accesses to memory (R24, R155, R218), Damavi (R25 to R27, R387, R425), and time (R28, R29, R236). -/

namespace Sys2Proof.Machine

/-! ## Device number and ports (R19 to R21) -/

/-- The module's device number, when it has one (R21). -/
def State.devNum (s : State) : Option Nat := if s.fld 0x36 12 12 = 1 then some (s.fld 0x36 11 0) else none

/-- What SLSTATn reads (R20). -/
def State.slstat (s : State) (n : Nat) : BitVec 64 :=
  let p := s.port n
  BitVec.ofNat 64 (b2n p.enable + b2n p.trained * 2 + b2n p.ldown * 4 + b2n p.narrow * 8
    + b2n (n == 15 && s.links.sl15) * 16 + min p.replays 0xFFFF * 2 ^ 8 + min p.badpkt 0xFFFF * 2 ^ 24
    + s.devNum.getD 0xFFF * 2 ^ 40 + p.peer % 4096 * 2 ^ 52)

/-- The links of the module have power: Scasutal and Ethernet go down with the trap (R47). -/
def State.linksUp (s : State) : Bool := s.power.st == .on

/-- Starts training of a port, when it may train (R20); a port that retrains stays trained until it has (log entry 156). -/
def State.train (s : State) (n : Nat) : State :=
  if s.isScasutal n && (s.port n).enable && !(s.port n).ldown then s.send (.train n) else s

/-- A write of SLSTATn: BADPKT and REPLAYS clear by 1s, LDOWN by a 1, which starts retraining (R20). Clearing ENABLE leaves a
port that is trained as it is (log entry 155). -/
def State.writeSlstat (s : State) (n : Nat) (v : BitVec 64) : State :=
  let keep := fun (x w : Nat) => (BitVec.ofNat 16 x &&& ~~~ BitVec.ofNat 16 w).toNat
  let clears := b64 v 2 2 = 1 && (s.port n).ldown
  let starts := b64 v 0 0 = 1 && !(s.port n).enable
  let s := s.updPort n (fun p => { p with
    enable := b64 v 0 0 == 1, ldown := p.ldown && b64 v 2 2 == 0
    badpkt := keep (min p.badpkt 0xFFFF) (b64 v 39 24), replays := keep (min p.replays 0xFFFF) (b64 v 23 8) })
  if clears || starts then s.train n else s

/-- LDOWN_CLEAR (R20): a write of 1 to LDOWN. -/
def execLdownClear (port : BitVec 4) (s : State) : Host.Outcome State Fault Refusal :=
  .next (if (s.port port.toNat).ldown then
    (s.updPort port.toNat (fun p => { p with ldown := false })).train port.toNat else s)

/-- The host port trains, to some rate up to 128 GT/s and one of its widths (R23). -/
def State.trainHost (s : State) : State :=
  (s.setPci { s.links.pci with rate := 1 + Config.freeNat s.draws % 7, width := 2 ^ (Config.freeNat (s.draws + 1) % 5) }).draw 2

/-- LINK_TRAINING (R18, R20): an enabled port that is not down completes training and learns its partner's number. The host
port has no partner number, and trains to a rate and a width (R22, R23). -/
def execLinkTraining (port : BitVec 4) (peer : BitVec 12) (s : State) : Host.Outcome State Fault Refusal :=
  let n := port.toNat
  .next (if n = 15 ∧ s.links.sl15 ∧ s.linksUp then s.trainHost
  else if s.linksUp && s.isScasutal n && (s.port n).enable && !(s.port n).ldown then
    s.updPort n (fun p => { p with trained := true, peer := peer.toNat }) else s)

/-- A write of DEVNUM (R21). -/
def State.writeDevnum (s : State) (v : BitVec 64) : State :=
  if b64 v 12 12 = 1 && b64 v 11 0 = 0xFFF then s
  else
    let old := s.fld 0x36 12 0
    let s := s.setReg 0x36 (v &&& 0xF1FFF#64)
    if old = b64 v 12 0 then s
    else (upto 16).foldl (fun s n => if (s.port n).trained then s.train n else s) s

/-- DEVNUM_WRITE (R21). -/
def execDevnumWrite (v : BitVec 64) (s : State) : Host.Outcome State Fault Refusal := .next (s.writeDevnum v)

/-- A port that stage 7 orders to narrow and that has not yet (R19). -/
def State.narrowing (s : State) (n : Nat) : Bool :=
  s.isScasutal n && (s.port n).trained && s.power.applied.contains 7 && !(s.port n).narrow

/-- PORT_NARROW (R19): a port that stage 7 orders to narrow asks its partner by an LCT packet, whose other bits are open; once
the partner has agreed and no replay is running, the port goes to 4 lanes (log entries 103, 174). -/
def execPortNarrow (port : BitVec 4) (s : State) : Host.Outcome State Fault Refusal :=
  let n := port.toNat
  let p := s.port n
  .next (if !s.narrowing n then s
  else if !p.asked then
    ((s.updPort n (fun p => { p with asked := true })).send
      (.packet n (beat0 7 p.peer (Config.freeNat s.draws % 2 ^ 480)) [])).draw 1
  else if p.agreed && p.replay.isEmpty then
    s.updPort n (fun p => { p with narrow := true, asked := false, agreed := false })
  else s)

/-- Which lane of a port or link an error is charged to is left open. -/
def State.someLane (s : State) : Nat × State := (Config.freeNat s.draws % 8, s.draw 1)

/-- Replays of the flit or beat seq that failed in succession, after it failed once more: one that fails when it is first sent
has had none yet (R13, R16). -/
def again (run : Nat × Nat) (replayed : Bool) (seq : Nat) : Nat × Nat :=
  if !replayed then (seq, 0) else if run.1 = seq then (seq, run.2 + 1) else (seq, 1)

/-- FLIT_CRC_FAIL (R16): a flit of one direction fails its check; the sender replays from it that many flits, in order, which a
corrected record reports (R208, R221). After 32 replays that failed in succession the port is to go down. On the host port it
is a correctable error of AER (R208). -/
def execFlitCrcFail (port : BitVec 4) (fail : FlitRun) (s : State) : Host.Outcome State Fault Refusal :=
  let n := port.toNat
  let dir := b2n fail.out
  .next (if s.isScasutal n && (s.port n).trained then
    let run := again (mgetD (s.port n).runs dir (0, 0)) fail.replayed fail.seq.toNat
    let s := s.updPort n (fun p => { p with
      replays := satAdd 0xFFFF p.replays fail.flits, runs := mput p.runs dir run
      replay := if fail.flits = 0 then p.replay else mput p.replay dir fail.flits
      dying := p.dying || 32 ≤ run.2 })
    let (lane, s) := s.someLane
    (s.record 5 0x01 0 false 0 (224 + n + lane * 256) 0 0 none).2
  else if n = 15 && s.links.sl15 && s.linksUp then
    s.setPci { s.links.pci with aerCor := s.links.pci.aerCor ||| 0x40#32 }
  else s)

/-- PORT_DOWN (R16, R386): a port whose replays are exhausted goes down, the event is recorded, and outstanding requests end
with a link error. -/
def execPortDown (port : BitVec 4) (s : State) : Host.Outcome State Fault Refusal :=
  let n := port.toNat
  .next (if !s.isScasutal n || !(s.port n).trained || !(s.port n).dying then s
  else
    let (_, s) := s.record 5 0x03 3 false 0 (224 + n + 0xFF * 256) 0 0 none
    let reqs := (s.port n).open_
    let s := s.updPort n (fun p => { p with
      ldown := true, trained := false, open_ := [], runs := [], replay := [], dying := false, asked := false, agreed := false })
    reqs.foldl (fun s e => s.updOp e.1 e.2.1 (fun o => if o.stopped then o else { o with rerr := 5 })) s)

/-! ## Bridges (R13, R14) -/

/-- The two dies of a bridge, the lower first (R10). -/
def bridgeDies (b : Nat) : Nat × Nat := match b with
  | 0 => (0, 1)
  | 1 => (2, 3)
  | 2 => (0, 2)
  | _ => (1, 3)

/-- The die a stack is attached to (R10). -/
def stackDie (k : Nat) : Nat := k / 2

/-- The bridges from one die to another: the row bridge first, then the column bridge (R10). -/
def straight (a b : Nat) : List Nat :=
  (if a % 2 = b % 2 then [] else [a / 2]) ++ (if a / 2 = b / 2 then [] else [2 + b % 2])

/-- The bridges that traffic from one die to another takes: the others of the ring when one of its own has failed (R14). -/
def State.route (s : State) (a b : Nat) : List Nat :=
  let r := straight a b
  if r.any (fun x => s.links.bridges.contains x) then (upto 4).filter (fun x => !r.contains x) else r

/-- A line that die d owns crosses bridge b between d and its home, in one of the two directions; where the second tier is
attached is not given, and its lines may cross any bridge. -/
def State.crosses (s : State) (d ln b : Nat) : Bool :=
  let h := homeOf (ln * 128)
  8 ≤ h || (s.route d (stackDie h)).contains b || (s.route (stackDie h) d).contains b

/-- UNIT of a bridge (R437). -/
def bridgeUnit (b : Nat) : Nat := 192 + 8 * (bridgeDies b).1 + (0x80 + (bridgeDies b).2) * 256

/-- BEAT_CRC_FAIL (R13): the beats of one direction from the failed one on are sent again out of the replay buffer, in order,
which a corrected record reports (R208, R221). After 16 replays that failed in succession the bridge is to fail. -/
def execBeatCrcFail (bridge : BitVec 2) (fail : BeatRun) (s : State) : Host.Outcome State Fault Refusal :=
  let b := bridge.toNat
  let k := b * 2 + b2n fail.up
  .next (if s.links.bridges.contains b then s
  else
    let run := again (mgetD s.links.beatRun k (0, 0)) fail.replayed fail.seq.toNat
    let s := { s with links := { s.links with
      beatRun := mput s.links.beatRun k run
      dyingB := if 16 ≤ run.2 && !s.links.dyingB.contains b then b :: s.links.dyingB else s.links.dyingB } }
    (s.record 5 0x01 0 false 0 (bridgeUnit b) 0 0 none).2)

/-- BRIDGE_FAILED (R13, R14, R227): a bridge whose replays are exhausted has failed, which is recorded; of the lines lost in
flight, which are open (log entry 174), those that a die had modified are poisoned at their home, and reads are asked for again;
a die left without a bridge has failed. -/
def execBridgeFailed (bridge : BitVec 2) (lost : List Nat) (s : State) : Host.Outcome State Fault Refusal :=
  let b := bridge.toNat
  .next (if s.links.bridges.contains b || !s.links.dyingB.contains b then s
  else
    let (k, s) := s.record 5 0x03 3 false 0 (bridgeUnit b) 0 0 none
    let gone := lost.filter (fun ln => match (s.line ln).owner with
      | some d => (s.line ln).dirty && s.crosses d ln b
      | none => false)
    let s := { s with links := { s.links with
      bridges := b :: s.links.bridges, dyingB := s.links.dyingB.filter (· != b), beatRun := mdel (mdel s.links.beatRun (b * 2)) (b * 2 + 1) } }
    let s := gone.foldl (fun s ln =>
      if (s.line ln).owner.isSome && (s.line ln).dirty then
        let (s, d, _) := s.takeBack ln
        let s := (s.dropDie (d.getD 0) ln).bumpVersion ln
        s.updLine ln (fun x => { x with pois := tagMin (some (mkTag 5 k)) x.pois })
      else s) s
    (upto 4).foldl (fun s d =>
      if ((upto 4).filter (fun b => (bridgeDies b).1 == d || (bridgeDies b).2 == d)).all
          (fun b => s.links.bridges.contains b) then s.failDie d else s) s)

/-! ## Scasutal packets (R17, R18) -/

/-- The module takes a packet for it (R18, R21): of a port that is trained, addressed to its number. -/
def State.accepts (s : State) (port : Nat) (beat : BitVec 512) : Bool :=
  s.linksUp && s.isScasutal port && (s.port port).trained && s.devNum == some (nbits beat.toNat 19 8)

/-- PQW (R74): beat 0 with bits [63:42] zero, and the packet as beat 1. -/
def execPqw (port : BitVec 4) (beat packet : BitVec 512) (s : State) : Host.Outcome State Fault Refusal :=
  let b := beat.toNat
  .next (if nbits b 7 0 ≠ 1 || !s.accepts port.toNat beat then s
  else if nbits b 63 42 ≠ 0 then s.patDeny (s.port port.toNat).peer
  else s.peerWrite (s.port port.toNat).peer (nbits b 41 32) packet)

/-- PDB (R74). -/
def execPdb (port : BitVec 4) (beat : BitVec 512) (s : State) : Host.Outcome State Fault Refusal :=
  let b := beat.toNat
  .next (if nbits b 7 0 ≠ 2 || !s.accepts port.toNat beat then s
  else s.peerDoorbell (s.port port.toNat).peer (nbits b 41 32) (nbits b 95 64))

/-- Status of an arriving MRD or MWR (R76): 0 serves it; and the physical address it names. -/
def State.aperture (s : State) (src bit off n : Nat) : Nat × Nat :=
  let pa := s.fld 0x33 44 16 * 65536 + off
  if s.fld 0x33 0 0 = 0 || !s.patAllows src bit none then (1, pa)
  else if off % 64 ≠ 0 || n % 64 ≠ 0 || n < 64 || 4096 < n || s.fld 0x34 23 0 * 65536 < off + n
      || !inDram pa || !inDram (pa + n - 1) then (2, pa)
  else (0, pa)

/-- Answers a request of source src with a CPL (R17). -/
def State.complete (s : State) (port src status : Nat) (data : List Byte) : State :=
  s.send (.packet port (beat0 5 src status) data)

/-- Bytes whose numbers the spec leaves open, because they are poisoned. -/
def State.openBytes (s : State) (n : Nat) : List Byte × State :=
  ((upto n).map (fun i => Config.freeByte (s.draws + i)), s.draw n)

/-- A read of n bytes at the home for the world outside, and whether any line of it is poisoned: only the bytes of poisoned
lines are open (R76, R218). -/
def State.homeServe (s : State) (pa n : Nat) : List Byte × Bool × State :=
  (linesOf pa n).foldl (fun (acc : List Byte × Bool × State) ln =>
    let (bs, bad, s) := acc
    let lo := max pa (ln * 128)
    let k := min (pa + n) ((ln + 1) * 128) - lo
    let (d, p, s) := s.homeReadLine ln
    if p.isSome then
      let (x, s) := s.openBytes k
      (bs ++ x, true, s)
    else (bs ++ lineBytes d (lo - ln * 128) k, bad, s)) ([], false, s)

/-- MRD (R76). -/
def execMrd (port : BitVec 4) (beat : BitVec 512) (s : State) : Host.Outcome State Fault Refusal :=
  let b := beat.toNat
  .next (if nbits b 7 0 ≠ 3 || !s.accepts port.toNat beat then s
  else
    let src := (s.port port.toNat).peer
    let n := nbits b 111 96
    let (st, pa) := s.aperture src 36 (nbits b 95 32) n
    if st ≠ 0 then (s.patDeny src).complete port.toNat src st []
    else
      let (bs, bad, s) := s.homeServe pa n
      s.complete port.toNat src (if bad then 3 else 0) bs)

/-- MWR (R76): its writes are performed before its CPL goes out. -/
def execMwr (port : BitVec 4) (beat : BitVec 512) (data : List Byte) (s : State) : Host.Outcome State Fault Refusal :=
  let b := beat.toNat
  .next (if nbits b 7 0 ≠ 4 || !s.accepts port.toNat beat || data.length ≠ nbits b 111 96 then s
  else
    let src := (s.port port.toNat).peer
    let (st, pa) := s.aperture src 37 (nbits b 95 32) (nbits b 111 96)
    if st ≠ 0 then (s.patDeny src).complete port.toNat src st []
    else (s.outsideWrite pa data none).complete port.toNat src 0 [])

/-- The answer to a request of an operation (R385, R386): status st with the bytes of a read. -/
def State.answer (s : State) (gk id off n st : Nat) (data : List Byte) (unit : Nat) : State :=
  match s.gctx gk with
  | none => s
  | some c => match c.g.ops.find? (fun o => o.id == id) with
    | none => s
    | some o =>
      if o.stopped then s
      else if st = 1 then s.updOp gk id (fun x => { x with rerr := 2 })
      else if st = 2 then s.updOp gk id (fun x => { x with rerr := 7 })
      else
        let c := c.atOp o
        let s := if !o.reads then s.updOp gk id (fun x => { x with acked := x.acked + n, rerr := if st = 3 then 4 else x.rerr, met := x.met || st == 3 })
          else if st = 3 then
            let (lane, s) := s.someLane
            let (k, s) := s.record 5 0x02 1 false 0 (unit + lane * 256) c.l.space 0 (some (c.l.queue, c.gg.index))
            s.landBytes c o off (data.take n) (some (mkTag 5 k))
          else s.landBytes c o off (data.take n) none
        s.pump gk id (17 + o.come.length)

/-- CPL (R17, R385): it answers the oldest request of its port. Reserved status values answer nothing. -/
def execCpl (port : BitVec 4) (beat : BitVec 512) (data : List Byte) (s : State) : Host.Outcome State Fault Refusal :=
  let b := beat.toNat
  let st := nbits b 35 32
  .next (if nbits b 7 0 ≠ 5 || !s.accepts port.toNat beat || 3 < st then s
  else match (s.port port.toNat).open_ with
    | [] => s
    | (gk, id, off, n) :: rest =>
      (s.updPort port.toNat (fun p => { p with open_ := rest })).answer gk id off n st data (224 + port.toNat))

/-- LCT (R17, R19): width change, drain and keep-alive are exchanges of the link. While the port has asked its partner for
another width, one that comes may be the partner's agreement; which is open, since the spec lays none out (log entry 103). -/
def execLct (port : BitVec 4) (beat : BitVec 512) (s : State) : Host.Outcome State Fault Refusal :=
  let n := port.toNat
  .next (if nbits beat.toNat 7 0 = 7 && s.linksUp && s.narrowing n && (s.port n).asked then
    (s.updPort n (fun p => { p with agreed := p.agreed || Config.freeBit s.draws })).draw 1
  else s)

/-- BADPKT (R17): a packet of a reserved kind is discarded and counted. -/
def execBadpkt (port : BitVec 4) (beat : BitVec 512) (s : State) : Host.Outcome State Fault Refusal :=
  let k := nbits beat.toNat 7 0
  .next (if s.linksUp && s.isScasutal port.toNat && (s.port port.toNat).trained && (k = 0 || 7 < k) then
    s.updPort port.toNat (fun p => { p with badpkt := satAdd 0xFFFF p.badpkt 1 }) else s)

/-! ## Host accesses through BAR2 (R24, R95, R155, R218) -/

/-- Sets an AER status bit (R23). -/
def State.aerSet (s : State) (b : Nat) : State := s.setPci { s.links.pci with aer := s.links.pci.aer ||| BitVec.ofNat 32 (2 ^ b) }

/-- The host reaches n bytes at pa through BAR2: the device has power and the function is in D0, and they lie in the window
(R23, log entry 129). -/
def State.inBar2 (s : State) (pa n : Nat) : Bool :=
  s.power.st != .off && !s.links.pci.d3hot && 0 < n && inStack (pa + n - 1) && pa + n ≤ 2 ^ s.links.pci.bar2

/-- Payloads are at most that long (R23): 128, 256 or 512 bytes. -/
def Pci.payload (p : Pci) : Nat := 128 * 2 ^ min 2 (p.devCtl.toNat / 32 % 8)

/-- The host port takes a packet of the host: one whose ECRC does not fit is reported and dropped, when ECRC is checked (R23,
R208, log entry 129). -/
def State.taken (s : State) (ecrc : Bool) (body : State → State) : State :=
  if !ecrc && s.links.pci.ecrcChk && s.power.st != .off then s.aerSet 19 else body s

/-- A read through BAR2: the overflow areas read as zero; a poisoned line answers with EP (R24, R95, R218). A request for more
than 4096 bytes is malformed (R23). -/
def State.hostRead (s : State) (pa n : Nat) : State :=
  if !s.inBar2 pa n then s
  else if 4096 < n then s.aerSet 18
  else if inOvf pa then s.toHost (.data (List.replicate n 0#8) false)
  else
    let k := if inOvf (pa + n - 1) then 0x7FFE000000 - pa else n
    let (bs, bad, s) := s.homeServe pa k
    s.toHost (.data (bs ++ List.replicate (n - k) 0#8) bad)

/-- HOST_MEMORY_READ. -/
def execHostMemoryRead (at_ : BarAt) (n : Nat) (s : State) : Host.Outcome State Fault Refusal :=
  .next (s.taken at_.ecrc (fun s => s.hostRead at_.pa n))

/-- Counts a host write that a failed home drops, in the record of the failure (R229). -/
def State.countDropped (s : State) (t : PTag) : State :=
  match mget? s.rel.recs t.toNat with
  | none => s
  | some r => ({ s with rel := { s.rel with
      recs := mput s.rel.recs t.toNat { r with count := satAdd 0xFFFFFFFF r.count 1 } } } : State).recStore t.toNat

/-- A write through BAR2: writes to the overflow areas are dropped; a write with EP poisons its lines with class 5 and a new
record, and AER reports it (R23, R24, R95, R208, R218). One longer than the payload size in force is malformed (R23). -/
def State.hostWrite (s : State) (pa : Nat) (data : List Byte) (ep : Bool) : State :=
  let ok := s.inBar2 pa data.length
  if ok && s.links.pci.payload < data.length then s.aerSet 18 else
  let s := if ep && ok then s.aerSet 12 else s
  let data := data.take (0x7FFE000000 - pa)
  if data.isEmpty || !ok then s
  else
    let dead := ((linesOf pa data.length).filterMap (fun ln => s.deadHome (ln * 128))).head?
    let (t, s) := if ep then
        let (lane, s) := s.someLane
        let (k, s) := s.record 5 0x02 1 false (pa / 128 * 128) (239 + lane * 256) 0 0 none
        (some (mkTag 5 k), s)
      else (none, s)
    let s := s.outsideWrite pa data t
    match dead with
    | some d => s.countDropped d
    | none => s

/-- HOST_MEMORY_WRITE. -/
def execHostMemoryWrite (at_ : BarAt) (data : List Byte) (ep : Bool) (s : State) : Host.Outcome State Fault Refusal :=
  .next (s.taken at_.ecrc (fun s => s.hostWrite at_.pa data ep))

/-! ## Damavi (R25 to R27, R387, R425) -/

/-- Fields of a header (R26). -/
def hROFF (h : BitVec 256) : Nat := nbits h.toNat 255 192
def hRKEY (h : BitVec 256) : Nat := nbits h.toNat 191 160
def hPSN (h : BitVec 256) : Nat := nbits h.toNat 159 136
def hACK (h : BitVec 256) : Nat := nbits h.toNat 135 112
def hCONN (h : BitVec 256) : Nat := nbits h.toNat 111 88
def hLEN (h : BitVec 256) : Nat := nbits h.toNat 87 72
def hFLAGS (h : BitVec 256) : Nat := nbits h.toNat 71 64

/-- A header of operation op that R27 lets through. -/
def hOk (h : BitVec 256) (op : Nat) : Bool :=
  nbits h.toNat 63 56 == op && nbits h.toNat 55 48 == 1 && nbits h.toNat 47 0 == 0 && hFLAGS h < 8

/-- Drops a frame and counts it (DMVCTL.DROPS, R425). -/
def State.dmvDrop (s : State) : State := s.setFld 0x32 31 0 (satAdd 0xFFFFFFFF (s.fld 0x32 31 0) 1)

/-- Whether PSN a comes before b within the window of 2^23. -/
def psnBefore (a b : Nat) : Bool := a != b && (b + 2 ^ 24 - a) % 2 ^ 24 < 2 ^ 23

/-- A frame arrives over Ethernet: nothing while the ports have no power (R47); dropped and counted when it is no packet to
Damavi's UDP port (R25, R26). -/
def State.dmvFrame (s : State) (udp : BitVec 16) (body : State → State) : State :=
  if !s.linksUp then s else if udp.toNat ≠ s.fld 0x30 15 0 then s.dmvDrop else body s

/-- Sends an ACK (op 4) or a NAK (op 5) with PSN psn over a connection (R27); an ACK's own PSN is left open, and RKEY is the
connection's (log entry 157). -/
def State.dmvReply (s : State) (v op psn : Nat) : State :=
  s.send (.damavi (connPort v) (s.connTo v) (dmvHeader 0 (connRkey v) psn (connExpect v + 2 ^ 24 - 1) (connRemote v) 0 0 op) [])

def State.dmvAck (s : State) (v : Nat) : State := (s.dmvReply v 4 (Config.freeNat s.draws)).draw 1

/-- The window of a connection holds [off, off + n) (R425). -/
def inWindow (v off n : Nat) : Bool := off + n ≤ connSize v && inDram (connBase v + off) && inDram (connBase v + off + n - 1)

/-- A packet that carries a PSN arrives (R27, R425): dropped and counted when its connection cannot be used, its RKEY does not
match or ok refuses it; discarded with a NAK when out of order; else the expected PSN moves on and body takes it, with the entry as it then
stands. -/
def State.dmvTake (s : State) (h : BitVec 256) (op : Nat) (len : Bool) (ok : Nat → Bool) (body : State → Nat → State) : State :=
  if !hOk h op || !len then s.dmvDrop
  else match s.conn (hCONN h) with
    | (none, s) => s.dmvDrop
    | (some v, s) =>
      if hRKEY h ≠ connRkey v || !ok v then s.dmvDrop
      else if hPSN h ≠ connExpect v then s.dmvReply v 5 (connExpect v)
      else body s v

/-- The expected PSN of a connection moves on; answers the entry as it then stands. -/
def State.psnOn (s : State) (h : BitVec 256) (v : Nat) : State × Nat :=
  let e := (connExpect v + 1) % 2 ^ 24
  (s.devWrite (s.connAt (hCONN h) + 0x1C) 4 e, v - connExpect v * 2 ^ 224 + e * 2 ^ 224)

/-- An ACK that the packet asks for. -/
def State.ackAsked (s : State) (h : BitVec 256) (v : Nat) : State := if nbit (hFLAGS h) 0 then s.dmvAck v else s

/-- DAMAVI_WRITE (R26, R425): the payload is performed at SYS before it is acknowledged (R385). -/
def execDamaviWrite (at_ : EthAt) (hdr : BitVec 256) (data : List Byte) (s : State) :
    Host.Outcome State Fault Refusal :=
  .next (s.dmvFrame at_.udp fun s => s.dmvTake hdr 1 (data.length == hLEN hdr && hLEN hdr ≤ 8192)
    (fun v => inWindow v (hROFF hdr) (hLEN hdr))
    (fun s v =>
      let (s, v) := s.psnOn hdr v
      (s.outsideWrite (connBase v + hROFF hdr) data none).ackAsked hdr v))

/-- DAMAVI_READ (R26, R385): answered with a READ-RESP of the bytes asked for, its RKEY the connection's (log entry 157); a
poisoned line is not sent (R218). -/
def execDamaviRead (at_ : EthAt) (hdr : BitVec 256) (s : State) : Host.Outcome State Fault Refusal :=
  .next (s.dmvFrame at_.udp fun s => s.dmvTake hdr 2 (hLEN hdr ≤ 8192)
    (fun v => inWindow v (hROFF hdr) (hLEN hdr))
    (fun s v =>
      let (s, v) := s.psnOn hdr v
      let s := s.ackAsked hdr v
      let (bs, p, s) := s.homeRead (connBase v + hROFF hdr) (hLEN hdr)
      if p.isSome then s else s.dmvSend (hCONN hdr) v none 0 (hLEN hdr) 0 (connRkey v) 3 3 bs))

/-- The READ of a connection that waits for its bytes, oldest first. -/
def State.oldestRead (s : State) (conn : Nat) : Option (Nat × Unacked) :=
  leastBy (fun (e : Nat × Unacked) => e.2.off) (s.links.unacked.filter (fun (e : Nat × Unacked) =>
    e.1 / 2 ^ 24 == conn && nbits e.2.hdr.toNat 63 56 == 2))

def State.setUnacked (s : State) (m : Map Unacked) : State := { s with links := { s.links with unacked := m } }

/-- DAMAVI_READ_RESP (R385): its bytes are written to the local destination of the oldest READ of the connection, at their
offset within it. -/
def execDamaviReadResp (at_ : EthAt) (hdr : BitVec 256) (data : List Byte) (s : State) :
    Host.Outcome State Fault Refusal :=
  .next (s.dmvFrame at_.udp fun s => s.dmvTake hdr 3 (data.length == hLEN hdr && hLEN hdr ≤ 8192) (fun _ => true) (fun s v =>
    let (s, v) := s.psnOn hdr v
    let s := s.ackAsked hdr v
    match s.oldestRead (hCONN hdr) with
    | none => s
    | some (key, u) =>
      let got := u.got + data.length
      let s := s.setUnacked (if u.n ≤ got then mdel s.links.unacked key
        else mput s.links.unacked key { u with got := got })
      match u.op with
      | some (gk, id) => s.answer gk id (u.off + hROFF hdr) (u.n - hROFF hdr) 0 data (248 + connPort v)
      | none => s))

/-- Packets of a connection up to PSN p have arrived at the peer (R27, R385). -/
def State.dmvAcked (s : State) (conn p : Nat) : State :=
  let hit := s.links.unacked.filter (fun (e : Nat × Unacked) =>
    e.1 / 2 ^ 24 == conn && !e.2.acked && !psnBefore p (e.1 % 2 ^ 24))
  hit.foldl (fun s (e : Nat × Unacked) =>
    if nbits e.2.hdr.toNat 63 56 = 2 then s.setUnacked (mput s.links.unacked e.1 { e.2 with acked := true })
    else
      let s := s.setUnacked (mdel s.links.unacked e.1)
      match e.2.op with
      | some (gk, id) => s.updOp gk id (fun o => if o.stopped then o else { o with acked := o.acked + e.2.n })
      | none => s) s

/-- Sends a packet again; after 16 retransmissions the operation fails instead (R386). free leaves the count alone. -/
def State.resend (s : State) (key : Nat) (free : Bool) : State :=
  match mget? s.links.unacked key with
  | none => s
  | some u =>
    if 16 ≤ u.tries && !free then
      let s := s.setUnacked (mdel s.links.unacked key)
      match u.op with
      | some (gk, id) => s.updOp gk id (fun o => if o.stopped then o else { o with rerr := 5 })
      | none => s
    else
      (s.setUnacked (mput s.links.unacked key
        { u with tries := if free then u.tries else u.tries + 1, at_ := s.time, full := none })).send (.damavi u.port u.dest u.hdr u.data)

/-- Sends again every packet of a connection from PSN p on, in PSN order (R27). -/
def State.resendFrom (s : State) (conn p : Nat) (free : Bool) : State :=
  let ks := (mkeys s.links.unacked).filter (fun k => k / 2 ^ 24 == conn && !psnBefore (k % 2 ^ 24) p)
  (sortBy (fun k => (k % 2 ^ 24 + 2 ^ 24 - p) % 2 ^ 24) ks).foldl (fun s k => s.resend k (free && k % 2 ^ 24 == p)) s

/-- DAMAVI_ACK (R27, R425). -/
def execDamaviAck (at_ : EthAt) (hdr : BitVec 256) (s : State) : Host.Outcome State Fault Refusal :=
  .next (s.dmvFrame at_.udp fun s => if !hOk hdr 4 then s.dmvDrop
  else match s.conn (hCONN hdr) with
    | (none, s) => s.dmvDrop
    | (some v, s) => if hRKEY hdr ≠ connRkey v then s.dmvDrop else s.dmvAcked (hCONN hdr) (hACK hdr))

/-- DAMAVI_NAK (R27, R387, R425): packets before the one it names have arrived; a SEND it names met a full slot and is sent again
later; any other is sent again at once with all that follow. -/
def execDamaviNak (at_ : EthAt) (hdr : BitVec 256) (s : State) : Host.Outcome State Fault Refusal :=
  .next (s.dmvFrame at_.udp fun s => if !hOk hdr 5 then s.dmvDrop
  else match s.conn (hCONN hdr) with
    | (none, s) => s.dmvDrop
    | (some v, s) =>
      if hRKEY hdr ≠ connRkey v then s.dmvDrop else
      let s := s.dmvAcked (hCONN hdr) (hACK hdr)
      let key := hCONN hdr * 2 ^ 24 + hPSN hdr
      match mget? s.links.unacked key with
      | some u =>
        if nbits u.hdr.toNat 63 56 = 6 then s.setUnacked (mput s.links.unacked key { u with full := some s.time })
        else s.resendFrom (hCONN hdr) (hPSN hdr) false
      | none => s.resendFrom (hCONN hdr) (hPSN hdr) false)

/-- DAMAVI_SEND (R387): delivered into the slot RXSLOT of the window's ring, or refused with a NAK while that is full. -/
def execDamaviSend (at_ : EthAt) (hdr : BitVec 256) (data : List Byte) (s : State) :
    Host.Outcome State Fault Refusal :=
  .next (s.dmvFrame at_.udp fun s => s.dmvTake hdr 6 (data.length == hLEN hdr && hLEN hdr ≤ 8192)
    (fun v => nbit (hFLAGS hdr) 1 && 16384 ≤ connSize v && connSize v % 16384 == 0
      && inDram (connBase v) && inDram (connBase v + connSize v - 1))
    (fun s v =>
      let slots := connSize v / 16384
      let at_ := connBase v + 16384 * (connSlot v % slots)
      let (hd, p, s) := s.homeRead at_ 8
      if p.isSome || nbit (ofBytesLE hd) 63 then s.dmvReply v 5 (hPSN hdr)
      else
        let (s, v) := s.psnOn hdr v
        let s := s.outsideWrite (at_ + 0x40) data none
        let s := s.outsideWrite at_ (bytesLE 64 (data.length + hPSN hdr * 2 ^ 32 + 2 ^ 63)) none
        let s := s.devWrite (s.connAt (hCONN hdr) + 0x24) 4 ((connSlot v + 1) % slots)
        let s := if connSigen v then
            s.handOver { ev := connEvent v, op := 0, v := 1, part := (s.eventPart (connEvent v)).getD 0, sclass := 4, sinst := 64
                         mask := (s.eventPart (connEvent v)).isSome }
          else s
        s.dmvAck v))

/-- DAMAVI_RETRANSMIT (R385): a packet not acknowledged for 100 µs goes out again, with those that follow it. -/
def execDamaviRetransmit (conn psn : BitVec 24) (s : State) : Host.Outcome State Fault Refusal :=
  .next (match mget? s.links.unacked (conn.toNat * 2 ^ 24 + psn.toNat) with
  | some u => if !u.acked && u.full.isNone && u.at_ + 1600000 ≤ s.time then s.resendFrom conn.toNat psn.toNat false else s
  | none => s)

/-- SEND_RETRY (R387): a SEND refused for a full slot goes out again 10 µs later, which does not count. -/
def execSendRetry (conn psn : BitVec 24) (s : State) : Host.Outcome State Fault Refusal :=
  .next (match mget? s.links.unacked (conn.toNat * 2 ^ 24 + psn.toNat) with
  | some u => (match u.full with
    | some t => if t + 160000 ≤ s.time then s.resendFrom conn.toNat psn.toNat true else s
    | none => s)
  | none => s)

/-- OTHER_FRAME (R25). -/
def execOtherFrame (_port : BitVec 2) (s : State) : Host.Outcome State Fault Refusal := .next (if s.linksUp then s.dmvDrop else s)

/-! ## Time (R28, R29, R231, R236) -/

/-- Emits a TIME record (R235, R236). -/
def State.emitTime (s : State) : State :=
  (upto 16).foldl (fun s p => s.emitTo p 4 5 0 0x01
    (s.second % 2 ^ 48 + b2n s.links.pps * 2 ^ 48 + b2n s.links.holdover * 2 ^ 49)) s

/-- The PTP second of the package's copy of Peal time, which stands beside Tabor (R232, R236). -/
def State.packSecond (s : State) : Nat := s.copyTime 4 / 16000000000

/-- TIME_RECORD (R236): at each boundary of a PTP second, stamped with that boundary and carrying its second. -/
def execTimeRecord (s : State) : Host.Outcome State Fault Refusal :=
  .next (if s.links.ptpSec < s.packSecond then
    let n := s.links.ptpSec + 1
    let now := (s.time, s.peal.copies)
    let at_ : State :=
      { s with time := n * 16000000000, peal := { s.peal with copies := [] }, links := { s.links with ptpSec := n } }
    let s := at_.emitTime
    { s with time := now.1, peal := { s.peal with copies := now.2 } } else s)

/-- A time message moves the master time: the first sets it, with the copies of Peal time within their 32 units of it, a later
one the offset that is slewed away (R231, R232). -/
def State.toMaster (s : State) (t : Nat) : State :=
  if s.links.locked then { s with links := { s.links with slew := (t : Int) - (s.time : Int) } }
  else
    let t := max s.time t
    { s with
      time := t, peal := { s.peal with copies := s.copyTimes t }, draws := s.draws + 5
      links := { s.links with locked := true, ptpSec := t / 16000000000 } }

/-- PTP_MESSAGE (R28, R29, R231): of the port and the domain that the module listens to; in holdover the master time runs on its
own oscillator until an Announce message ends that, which a TIME record reports at the change. -/
def execPtpMessage (port : BitVec 2) (domain : BitVec 16) (sec : Nat) (rest : PtpRest) (s : State) :
    Host.Outcome State Fault Refusal :=
  .next (if !s.linksUp || port.toNat ≠ s.fld 0x2E 15 0 || domain.toNat ≠ s.fld 0x2F 15 0 then s
  else if s.links.holdover && rest.announce.isNone then s
  else
    let s := s.toMaster (sec * 16000000000 + rest.ns * 16)
    match rest.announce with
    | none => s
    | some i =>
      let was := s.links.holdover
      let s := { s with links := { s.links with holdover := false, annAt := s.time, annEvery := i } }
      if was then s.emitTime else s)

/-- No Announce message has come for three announce intervals (R29). -/
def State.holdoverDue (s : State) : Bool := !s.links.holdover && s.links.annAt + 3 * s.links.annEvery ≤ s.time

/-- HOLDOVER (R29, R236). -/
def execHoldover (s : State) : Host.Outcome State Fault Refusal :=
  .next (if !s.holdoverDue then s else
    ({ s with links := { s.links with holdover := true, slew := 0 } } : State).emitTime)

/-- PPS_EDGE (R28): the edge comes ns nanoseconds away from the second of the PTP time. -/
def execPpsEdge (ns : Nat) (s : State) : Host.Outcome State Fault Refusal :=
  .next { s with links := { s.links with pps := decide (100 < ns) } }

end Sys2Proof.Machine
end

