-- ==== Sys2Proof/Machine/Boot.lean ====
section
/-! DEFINITION. Boot and attestation (R82 to R86): the checks of a firmware bundle, the fused counter, and the report. -/

namespace Sys2Proof.Machine

/-- Replaces the boot state. -/
def State.setBoot (s : State) (b : Boot) : State := { s with boot := b }

/-- The fused security counter (R84). -/
def Boot.counter (b : Boot) : Nat := b.ctr.getD (min 64 Config.fuseCtr)

/-- What BOOTSTAT reads (R84). -/
def Boot.stat (b : Boot) : BitVec 64 :=
  BitVec.ofNat 64 (b.fail % 8 + b2n b.busy * 2 ^ 5 + b2n b.running * 2 ^ 6 + b2n (decide (b.counter < b.runver)) * 2 ^ 7
    + b.counter % 256 * 2 ^ 48 + b.runver % 256 * 2 ^ 56)

/-- BOOTGO (R84, R85): ignored while checks run or a bundle runs. -/
def execBootgo (s : State) : Host.Outcome State Fault Refusal :=
  .next (if s.boot.busy || s.boot.running then s else s.setBoot { s.boot with busy := true })

/-! ## The bundle (R85) -/

/-- The value of n bytes of a bundle from offset o, least significant first. -/
def sliceN (b : List Byte) (o n : Nat) : Nat := ofBytesLE (slice b o n)

/-- The bytes from o on, n of them, are zero. -/
def zeroAt (b : List Byte) (o n : Nat) : Bool := (slice b o n).all (· == 0#8)

/-- Image i of a bundle: type, offset, length, hash. -/
def image (b : List Byte) (i : Nat) : Nat × Nat × Nat × List Byte :=
  let o := 0x18 + 80 * i
  (sliceN b o 4, sliceN b (o + 8) 8, sliceN b (o + 16) 8, slice b (o + 24) 48)

/-- Check 1: the format. -/
def formatOk (b : List Byte) : Bool :=
  let (t0, o0, n0, _) := image b 0
  let (t1, o1, n1, _) := image b 1
  let inside := fun (o n : Nat) => o % 4096 == 0 && 0x6000 ≤ o && o + n ≤ b.length
  0x6000 ≤ b.length && b.length ≤ 0x4000000 &&
  sliceN b 0 8 == 0x4C444E42 && sliceN b 8 4 == 1 && sliceN b 0xC 4 ≤ 64 && sliceN b 0x10 4 == 2 && zeroAt b 0x14 4 &&
  ((t0 == 1 && t1 == 2) || (t0 == 2 && t1 == 1)) && inside o0 n0 && inside o1 n1 && (o0 + n0 ≤ o1 || o1 + n1 ≤ o0) &&
  zeroAt b 0x1C 4 && zeroAt b 0x6C 4 && zeroAt b 0x60 8 && zeroAt b 0xB0 8 && zeroAt b 0xB8 8 && zeroAt b 0x274 3468 &&
  zeroAt b 0x50E0 3872

/-- The bytes of image i. -/
def imageBytes (b : List Byte) (i : Nat) : List Byte := slice b (image b i).2.1 (image b i).2.2.1

/-- The first failed check of a bundle (R85), or 0. -/
def bundleFail (b : List Byte) (ctr : Nat) : Nat :=
  let msg := slice b 0 0x1000
  if !formatOk b then 4
  else if sha384.hash (slice b 0xC0 0x1B4) ≠ Config.fusedKeyHash then 1
  else if !rsaVerify (slice b 0xC0 384) (slice b 0x240 4) msg (slice b 0x1000 384) then 1
  else if !slhVerify (slice b 0x244 48) msg (slice b 0x1180 16224) then 2
  else if sha384.hash (imageBytes b 0) ≠ (image b 0).2.2.2 || sha384.hash (imageBytes b 1) ≠ (image b 1).2.2.2 then 4
  else if sliceN b 0xC 4 < ctr then 3
  else 0

/-- The hashes of the started images, Tabor's first. -/
def imageHashes (b : List Byte) : List Byte :=
  if (image b 0).1 = 1 then (image b 0).2.2.2 ++ (image b 1).2.2.2 else (image b 1).2.2.2 ++ (image b 0).2.2.2

/-- BUNDLE_START (R82): the checks finish; the bundle starts, or the failed check is recorded. A bundle that leaves stacked
DRAM or that is read poisoned fails its format check. BOOTADDR and BOOTLEN are read now, not at GO (log entry 173). -/
def execBundleStart (s : State) : Host.Outcome State Fault Refusal :=
  .next (if !s.boot.busy then s
  else
    let pa := b64 s.boot.addr 44 12 * 4096
    let n := b64 s.boot.len 26 0
    if n = 0 || !inDram (pa + n - 1) || 0x4000000 < n then s.setBoot { s.boot with busy := false, fail := 4 }
    else
      let (b, p, s) := s.homeRead pa n
      let k := if p.isSome then 4 else bundleFail b s.boot.counter
      if k ≠ 0 then s.setBoot { s.boot with busy := false, fail := k }
      else s.setBoot { s.boot with
        busy := false, fail := 0, running := true, runver := sliceN b 0xC 4, hashes := imageHashes b })

/-- COMMIT (R82, R84): ignored unless RUNVER is above the counter. -/
def execCommit (s : State) : Host.Outcome State Fault Refusal :=
  .next (if s.boot.counter < s.boot.runver then s.setBoot { s.boot with ctr := some s.boot.runver } else s)

/-! ## Attestation (R83, R86) -/

/-- ATGO (R84): ignored while a report is being made. -/
def execAtgo (s : State) : Host.Outcome State Fault Refusal :=
  .next (if s.boot.atbusy then s
  else s.setBoot { s.boot with atdone := false, aterr := false, atbusy := true, atnonce := s.boot.nonce })

/-- The 32 bytes of a nonce. -/
def nonceBytes (l : List (BitVec 64)) : List Byte := (upto 4).flatMap (fun i => bytesLE 8 (l.getD i 0#64).toNat)

/-- The signed message of a report of n bytes (R86); h are the hashes of the started images. -/
def State.reportHead (s : State) (n : Nat) (h : List Byte) : List Byte :=
  bytesLE 8 0x54505441 ++ bytesLE 4 1 ++ bytesLE 4 n ++ nonceBytes s.boot.atnonce ++ bytesLE 16 Config.devId.toNat
    ++ bytesLE 4 (s.boot.runver % 256 + s.boot.counter % 256 * 2 ^ 8 + b2n s.links.sl15 * 2 ^ 16) ++ bytesLE 4 0
    ++ h ++ bytesLE 88 0

/-- The certificates after a report: each its length in 4 bytes, its bytes, and zeros to a multiple of 8 (R86). -/
def certBytes (h : List Byte) : List Byte :=
  (upto 4).flatMap (fun i =>
    let c := Config.attestCert i h
    bytesLE 4 c.length ++ c ++ bytesLE ((8 - (4 + c.length) % 8) % 8) 0)

/-- ATDONE (R83, R86): the report is written in full, or ATERR is set. Before a bundle runs the image hashes are open,
and ATDST is read now, not at GO (log entry 173). -/
def execAtdone (s : State) : Host.Outcome State Fault Refusal :=
  .next (if !s.boot.atbusy then s
  else
    let (h, s) := if s.boot.hashes.isEmpty then s.openBytes 96 else (s.boot.hashes, s)
    let certs := certBytes h
    let n := 0x41E0 + certs.length
    let pa := b64 s.boot.atdst 44 12 * 4096
    let head := s.reportHead n h
    let s := s.setBoot { s.boot with atbusy := false, atlen := n }
    if !inStack (pa + n - 1) then s.setBoot { s.boot with aterr := true }
    else
      let rep := head ++ (upto 16608).map (Config.attestSig head) ++ certs
      (s.outsideWrite pa rep none).setBoot { s.boot with atdone := true })

/-- The boot and attestation registers (R84): what offset o from 0x00_8000 reads. -/
def State.readBoot (s : State) (o : Nat) : BitVec 64 :=
  let b := s.boot
  match o with
  | 0x00 => b.addr
  | 0x08 => b.len
  | 0x18 => b.stat
  | 0x20 => b.nonce.getD 0 0#64
  | 0x28 => b.nonce.getD 1 0#64
  | 0x30 => b.nonce.getD 2 0#64
  | 0x38 => b.nonce.getD 3 0#64
  | 0x40 => b.atdst
  | 0x50 => BitVec.ofNat 64 (b2n b.atdone + b2n b.aterr * 2 + b.atlen % 2 ^ 32 * 2 ^ 32)
  | 0x58 => Config.devId.truncate 64
  | 0x60 => (Config.devId >>> 64).truncate 64
  | _ => 0#64

/-- The state a meaning answers; the state it began in where it answers none. -/
def after (o : Host.Outcome State Fault Refusal) (s : State) : State := match o with
  | .next t => t
  | _ => s

/-- A write of a boot or attestation register (R84). -/
def State.writeBoot (s : State) (o : Nat) (v : BitVec 64) : State :=
  let b := s.boot
  let word := fun (i : Nat) => s.setBoot { b with nonce := (upto 4).map (fun k => if k = i then v else b.nonce.getD k 0#64) }
  match o with
  | 0x00 => s.setBoot { b with addr := v &&& 0x1FFFFFFFF000#64 }
  | 0x08 => s.setBoot { b with len := v &&& 0x7FFFFFF#64 }
  | 0x10 => if b64 v 0 0 = 1 then after (execBootgo s) s else s
  | 0x18 => if b64 v 8 8 = 1 then after (execCommit s) s else s
  | 0x20 => word 0
  | 0x28 => word 1
  | 0x30 => word 2
  | 0x38 => word 3
  | 0x40 => s.setBoot { b with atdst := v &&& 0x1FFFFFFFF000#64 }
  | 0x48 => if b64 v 0 0 = 1 then after (execAtgo s) s else s
  | _ => s

end Sys2Proof.Machine
end

