-- ==== Sys2Proof/Machine/Control.lean ====
section
/-! DEFINITION. Control, divergence, recovery, mode and traps (R318 to R340), and the events of R111, R127, R128 and
R136. -/

namespace Sys2Proof.Machine

/-! ## Clauses -/

/-- CLAUSE (R269): the split begins the clause at its header, which takes no issue cycle; a header in a clause's body is
an illegal instruction, behind the wait of the clause. -/
def execClause (w : BitVec 12) (a b l : BitVec 4) (y : BitVec 1) (s : State) : Host.Outcome State Fault Refusal :=
  match s.ctx with
  | none => .fault .noIssuer
  | some c => .next (
    if c.sp.inClause then s.noWord c 1
    else if !(Instr.clause w a b l y).wf then s.noWord c 1
    else s.updGroup c.gk (fun g => { g with splits := g.splits.modify c.ix (fun p =>
      { p with
        inClause := true, setA := a.toNat, setB := b.toNat, clauseEnd := c.sp.pc + 1 + l.toNat, yieldHint := y == 1#1
        wait := w, pc := c.sp.pc + 1, resume := false }) }))

/-! ## Transfers -/

/-- BRA (R320). -/
def execBra (o : BitVec 22) (s : State) : Host.Outcome State Fault Refusal :=
  s.issue (.bra o) anyMode fun c =>
    s.transfer c (c.sp.pc + 1) c.act (fun _ => (c.sp.pc : Int) + o.toInt) noFault false

/-- Lanes whose value of the guard predicate meets the guard sense, whether or not the guard is enabled (R320). -/
def Ctx.vote (c : Ctx) : Lanes :=
  let p := c.g.pred (nbits c.g.m.toNat 4 2)
  c.sp.mask &&& (if c.g.m.getLsbD 1 then ~~~ p else p)

/-- BRA.ANY (R320). -/
def execBraAny (o : BitVec 22) (s : State) : Host.Outcome State Fault Refusal :=
  s.issue (.braAny o) anyMode fun c =>
    s.transfer c (c.sp.pc + 1) (if c.vote = 0#32 then 0#32 else c.act) (fun _ => (c.sp.pc : Int) + o.toInt) noFault false

/-- BRA.ALL (R320). -/
def execBraAll (o : BitVec 22) (s : State) : Host.Outcome State Fault Refusal :=
  s.issue (.braAll o) anyMode fun c =>
    s.transfer c (c.sp.pc + 1) (if c.vote = c.sp.mask then c.act else 0#32) (fun _ => (c.sp.pc : Int) + o.toInt) noFault
      false

/-- CALL (R321). -/
def execCall (o : BitVec 22) (s : State) : Host.Outcome State Fault Refusal :=
  s.issue (.call o) anyMode fun c =>
    s.transfer c (c.sp.pc + 1) c.act (fun _ => (c.sp.pc : Int) + o.toInt) noFault true

/-- The lanes that fault 0x09 because register a is poisoned there (R217). -/
def Ctx.poisoned (c : Ctx) (a : Nat) : Nat → Option Nat :=
  fun l => if c.act.getLsbD l && (c.g.lane a l).p.isSome then some 9 else none

/-- A transfer to the word offsets in register a (R322). -/
def State.jumpReg (s : State) (c : Ctx) (a : Nat) (link : Bool) : State :=
  s.transfer c (c.sp.pc + 1) c.act (fun l => ((c.g.lane a l).w.toNat : Int)) (c.poisoned a) link

/-- CALLX (R321). -/
def execCallx (a : BitVec 7) (s : State) : Host.Outcome State Fault Refusal :=
  s.issue (.callx a) anyMode fun c => s.jumpReg c a.toNat true

/-- BRX (R322). -/
def execBrx (a : BitVec 7) (s : State) : Host.Outcome State Fault Refusal :=
  s.issue (.brx a) anyMode fun c => s.jumpReg c a.toNat false

/-- RET (R322). -/
def execRet (a : BitVec 7) (s : State) : Host.Outcome State Fault Refusal :=
  s.issue (.ret a) anyMode fun c => s.jumpReg c a.toNat false

/-- The n table words after the instruction, or the fault of their fetch (R323). -/
def State.tableWords (s : State) (c : Ctx) (n : Nat) : Sum Nat (List Word) × State :=
  (upto n).foldl (fun acc i => match acc with
    | (.inl k, s) => (.inl k, s)
    | (.inr ws, s) => match s.fetch c (c.sp.pc + 1 + i) with
      | (.inl k, s) => (.inl k, s)
      | (.inr w, s) => (.inr (ws ++ [w]), s)) (.inr [], s)

/-- Case and target of table word i (R273, R323). -/
def fxCase (w : Word) : Nat := w.toNat / 65536
def fxTarget (pc i : Nat) (w : Word) : Int := ((pc + 1 + i : Nat) : Int) + sextInt 16 w.toNat

/-- JTAB (R323). -/
def execJtab (a : BitVec 7) (n : BitVec 11) (s : State) : Host.Outcome State Fault Refusal :=
  s.issue (.jtab a n) anyMode fun c =>
    match s.tableWords c n.toNat with
    | (.inl k, s) => s.raiseAll c k
    | (.inr ws, s) =>
      if ws.zipIdx.any (fun e => fxCase e.1 != e.2) then s.raiseAll c 1
      else
        let x := fun l => (c.g.lane a.toNat l).w.toNat
        s.transfer c (c.sp.pc + 1 + n.toNat) (maskOf (fun l => c.act.getLsbD l && x l < n.toNat))
          (fun l => fxTarget c.sp.pc (x l) (ws.getD (x l) 0#32)) (c.poisoned a.toNat) false

/-- SWITCH (R323). -/
def execSwitch (a : BitVec 7) (n : BitVec 11) (s : State) : Host.Outcome State Fault Refusal :=
  s.issue (.switch a n) anyMode fun c =>
    match s.tableWords c n.toNat with
    | (.inl k, s) => s.raiseAll c k
    | (.inr ws, s) =>
      let hit := fun l => ws.zipIdx.find? (fun e => fxCase e.1 == (c.g.lane a.toNat l).w.toNat)
      s.transfer c (c.sp.pc + 1 + n.toNat) (maskOf (fun l => c.act.getLsbD l && (hit l).isSome))
        (fun l => match hit l with
          | some (w, i) => fxTarget c.sp.pc i w
          | none => 0) (c.poisoned a.toNat) false

/-! ## Reconvergence and exit -/

/-- JOIN (R324). -/
def execJoin (s : State) : Host.Outcome State Fault Refusal :=
  s.issue .join anyMode fun c => s.park c .join 11 0

/-- EXIT (R325). -/
def execExit (s : State) : Host.Outcome State Fault Refusal :=
  s.issue .exit anyMode fun c =>
    if c.act = 0#32 then s.advance c
    else if c.inBlock then s.failBlock c.wk 9 0 c.sp.pc false
    else if c.g.watching then s.stallBy c 16
    else match c.g.due none with
      | some d => s.deliver c d
      | none =>
        if c.g.struck then s.raiseAll c 0x0C
        else
          let stay : Split := { c.sp.goTo (c.sp.pc + 1) with mask := c.sp.mask &&& ~~~ c.act }
          let s := s.updGroup c.gk (fun g =>
            (({ g.freeConfirmed with
                exited := g.exited ||| c.act
                resv := g.resv.filter (fun r => !c.act.getLsbD r.1)
                finfo := g.finfo.filter (fun r => !c.act.getLsbD r.1) }.divide c.ix [stay]).settle g.splits).lastExit)
          s.wgSettle c.wk

/-- NOP (R326). -/
def execNop (s : State) : Host.Outcome State Fault Refusal :=
  s.issue .nop anyMode fun c => s.advance c

/-- YIELD (R327): the slot goes to another ready split; without one, the split is not eligible in the next cycle (R272). -/
def execYield (s : State) : Host.Outcome State Fault Refusal :=
  s.issue .yield anyMode fun c =>
    s.updGroup c.gk (fun g =>
      let p := { c.sp.goTo (c.sp.pc + 1) with issued := 0 }
      if (nextReady g.splits (some c.ix)).isSome && c.sp.liveIx.isSome then
        ({ g with splits := g.splits.set c.ix { p with yielded := false } } : Group).giveWay c.ix
      else { g with splits := g.splits.set c.ix { p with yielded := true } })

/-- The split at position ix has issued 4096 instructions since it became live and stands between two clauses (R111). -/
def Group.rotates (g : Group) (ix : Nat) : Bool :=
  match g.splits[ix]? with
  | some p => 4096 ≤ p.issued && !p.inClause && p.liveIx.isSome
  | none => false

/-- The splits of a group that hold lanes of m rotate when they are to (R111 step 3). -/
def Group.rotated (g : Group) (m : Lanes) : Group :=
  match g.splits.zipIdx.find? (fun e => (e.1.mask &&& m) != 0#32 && g.rotates e.2) with
  | some e => g.giveWay e.2
  | none => g

/-- SPLIT_ROTATION (R111 step 3): a live split that has issued 4096 instructions since it became live gives its slot, at
a clause's end, to the ready split of lowest program counter. -/
def execSplitRotation (g ix : Nat) (s : State) : Host.Outcome State Fault Refusal :=
  .next (s.updGroup g (fun gr => if gr.rotates ix then gr.giveWay ix else gr))

/-! ## Recovery blocks -/

/-- ENSURE (R328). -/
def execEnsure (cr : BitVec 7) (e : BitVec 18) (s : State) : Host.Outcome State Fault Refusal :=
  s.issue (.ensure cr e) anyMode fun c =>
    let r := c.g.reg cr.toNat
    if (lanesOf c.sp.mask).any (fun l => (mget? r.pois l).isSome) then s.raiseAll c 9
    else if r.tag ≠ .U then s.raiseAll c 1
    else if !c.g.flagsZero (BitVec.allOnes 12) || c.g.watching then s.stallBy c 20
    else match c.relCheck 16 (c.g.accessing c.sp.mask) with
      | .wait w => s.stallBy c w
      | .deliver d => s.deliver c d
      | .strike => s.raiseAll c 0x0C
      | .ok =>
        match c.wg.ensureEnd with
        | some x =>
          if x ≠ e.toNat then s.raiseAll c 0x0F
          else (s.released c 1).park c .ensure 20 (r.val.getD 0 0#32).toNat
        | none =>
          ((s.released c 1).updWg c.wk (fun w => { w with ensureEnd := some e.toNat })).park c .ensure 20
            (r.val.getD 0 0#32).toNat

/-- What the frame keeps of a group (R132). -/
def Group.frame (g : Group) : GroupFrame :=
  { k := g.k, preds := g.preds, m := g.m, srctr := g.srctr, lanes := g.present
    ret := (g.splits.find? (·.handler)).map (fun p => (p.ret, p.fcode)), finfo := g.finfo, pub0 := g.pub }

/-- BLOCK_OPEN (R127): every group has arrived at its ENSURE; the block opens, or fails where it does not fit. -/
def execBlockOpen (wk : Nat) (s : State) : Host.Outcome State Fault Refusal :=
  .next (match s.launchOf wk with
  | none => s
  | some (w, _, l) =>
    if !s.gathered wk .ensure || w.failing.isSome then s
    else
      let gs := mvals (s.groupsOf wk)
      let at_ := (gs.flatMap (·.splits)).headD (Split.start 0#32 0)
      let s := s.updWg wk (fun w => { w with ensureEnd := none })
      if 4 ≤ w.blocks.length then s.failBlock wk 7 0 at_.pc false
      else
        let vcs := (gs.flatMap (fun g => g.splits.map (·.arg))).filter (· != 0)
        let lim := match vcs with
          | x :: xs => xs.foldl min x
          | [] => l.cyclim
        let b : Block :=
          { term := at_.pc + w.ensureEnd.getD 0, cycles := 0, limit := lim * 1024, inTest := false, elseerr := 0
            frames := gs.map Group.frame, log := [], pushes0 := w.pushes.length, dirty0 := w.dirty }
        let fits := w.logUsed l + frameSize l ≤ w.logCap
        let s := s.updWg wk (fun w => { w with blocks := b :: w.blocks })
        let s := { s with groups := mmap s.groups (fun _ g => if g.wg = wk then { g with pub := [] } else g) }
        let s := s.emitBlock wk 0 0 (w.blocks.length + 1)
        let s := s.goOnAll wk .ensure
        if fits then s else s.failBlock wk 7 0 at_.pc false)

/-- ELSEBY and ELSEERR (R329): the group reaches its routine's terminator and waits for the routine end. -/
def State.terminator (s : State) (c : Ctx) : State :=
  match c.wg.blocks with
  | [] => s.raiseAll c 0x0F
  | b :: _ => if b.inTest || c.sp.pc != b.term then s.raiseAll c 0x0F else s.park c .term 21 0

/-- ELSEBY (R329). -/
def execElseby (n : BitVec 22) (s : State) : Host.Outcome State Fault Refusal :=
  s.issue (.elseby n) anyMode fun c => s.terminator c

/-- ELSEERR (R329). -/
def execElseerr (s : State) : Host.Outcome State Fault Refusal :=
  s.issue .elseerr anyMode fun c => s.terminator c

/-- A terminator word: how far the next one is; none is ELSEERR (R329). -/
inductive Term where
  | next (n : Nat)
  | last
  | bad
deriving DecidableEq

/-- The terminator that a word is. -/
def termOf (w : Word) : Term :=
  let n := nbits w.toNat 21 0
  if w.toNat / 2 ^ 22 = 0x11 * 8 then (if n ≠ 0 ∧ n < 2 ^ 21 then .next n else .bad)
  else if w.toNat / 2 ^ 22 = 0x12 * 8 ∧ n = 0 then .last
  else .bad

/-- A context for work that the core does for a workgroup: that of a group with a split, or of its first group. -/
def State.wgCtx (s : State) (wk : Nat) : Option Ctx :=
  match (s.groupsOf wk).find? (fun e => !e.2.splits.isEmpty) with
  | some (gk, _) => s.ctxOf gk 0
  | none => none

/-- The terminator at word t. -/
def State.termAt (s : State) (c : Ctx) (t : Nat) : Term × State :=
  match s.fetch c t with
  | (.inl _, s) => (.bad, s)
  | (.inr w, s) => (termOf w, s)

/-- Follows the chain of terminators from t to its ELSEERR (R128, R329). -/
def State.chain (s : State) (c : Ctx) (t : Nat) : Nat → Option Nat × State
  | 0 => (none, s)
  | fuel + 1 => match s.termAt c t with
    | (.next n, s) => s.chain c (t + n) fuel
    | (.last, s) => (some t, s)
    | (.bad, s) => (none, s)

/-- Every group of a workgroup raises a fault in its present lanes, with return point pc (R128, R131, R330). -/
def State.raiseWg (s : State) (wk code : Nat) (pc : Option Nat) : State :=
  (mkeys (s.groupsOf wk)).foldl (fun s gk =>
    match mget? s.groups gk with
    | none => s
    | some g =>
      (upto g.splits.length).foldr (fun i s =>
        match s.ctxOf gk i with
        | none => s
        | some c =>
          s.takeFault c (fun l => if c.sp.mask.getLsbD l then some code else none) (pc.getD c.sp.pc) []) s) s

/-- ROUTINE_END (R128): every group waits at its terminator and everything it issued in the routine is done; the
acceptance test starts at the word after the ELSEERR. -/
def execRoutineEnd (wk : Nat) (s : State) : Host.Outcome State Fault Refusal :=
  .next (match mget? s.wgs wk, s.wgCtx wk with
  | some w, some c => (match w.blocks with
    | [] => s
    | b :: rest =>
      let gs := s.groupsOf wk
      let quiet := gs.all (fun e =>
        e.2.pend.isEmpty && e.2.ops.isEmpty && !e.2.watching && e.2.flagsZero (BitVec.allOnes 12))
      if !s.gathered wk .term || w.failing.isSome || !quiet then s
      else
        match gs.findSome? (fun e => (e.2.due none).map (fun d => (e.1, d))) with
        | some (gk, d) =>
          (match s.ctxOf gk 0 with
          | some gc => s.deliver gc d
          | none => s)
        | none =>
          match s.chain c b.term (2 ^ 22) with
          | (none, s) => s.raiseWg wk 0x0F none
          | (some e, s) =>
            let s := s.updWg wk (fun w => { w with blocks := { b with inTest := true, elseerr := e } :: rest })
            { s with groups := mmap s.groups (fun _ g => if g.wg = wk then
                ({ g with splits := g.splits.map (fun p => { p with pc := e }) } : Group).goOn .term else g) })
  | _, _ => s)

/-- ACCEPT (R331). -/
def execAccept (p : BitVec 3) (s : State) : Host.Outcome State Fault Refusal :=
  s.issue (.accept p) anyMode fun c =>
    match c.wg.blocks with
    | [] => s.raiseAll c 0x0F
    | b :: _ =>
      if !b.inTest then s.raiseAll c 0x0F
      else if c.g.watching || c.g.accessing c.sp.mask then s.stallBy c 16
      else match c.g.due none with
        | some d => s.deliver c d
        | none =>
          let vote := (c.g.pred p.toNat &&& c.sp.mask) == c.sp.mask && !c.g.struck
          ((s.released c 1).park c .accept 21 (b2n vote)).wgSettle c.wk

/-- REJECT (R332). -/
def execReject (s : State) : Host.Outcome State Fault Refusal :=
  s.issue .reject anyMode fun c =>
    if c.act ≠ 0#32 && c.inBlock then s.failBlock c.wk 10 0 c.sp.pc false else s.advance c

/-! ## Conversations -/

/-- Bits set in a member mask. -/
def memberCount (m : Nat) : Nat := ((upto 24).filter (nbit m)).length

/-- CONVJ (R334): the group reads the conversation block and waits for every member. -/
def execConvj (a : BitVec 7) (h : BitVec 4) (s : State) : Host.Outcome State Fault Refusal :=
  s.issue (.convj a h) anyMode fun c =>
    if c.inBlock || c.wg.conv.isSome then s.raiseAll c 0x0F
    else match c.relCheck 16 (c.g.accessing c.sp.mask || s.passing c.wk) with
      | .wait r => s.stallBy c r
      | .deliver d => s.deliver c d
      | .strike => s.raiseAll c 0x0C
      | .ok =>
        match s.formAccess c h.toNat a.toNat 64 .conv c.g.low with
        | (.inl k, s) => s.raiseAll c k
        | (.inr ps, s) =>
          if s.stale c.l then s.raiseAll c 8
          else
            let (v, s) := match s.readParts c.g.core ps with
              | (v, none, s) => (v, s)
              | (_, some _, s) => (Config.freeNat s.draws, s.draw 1)
            let m := v % 2 ^ 24
            let bad := v / 2 ^ 24 ≠ 0 || memberCount m < 2 || 2 ^ (c.gg.w * c.gg.h) ≤ m || !nbit m c.wg.k
            let own := (mvals (s.groupsOf c.wk)).any (fun g => match g.conv with
              | some x => x != m
              | none => false)
            let other := (upto 24).any (fun k => nbit m k && k != c.wg.k &&
              ((match mget? s.wgs (wgKey c.nk k) with
                | some w => w.conv.isSome && w.conv != some m
                | none => false) ||
               let gs := mvals (s.groupsOf (wgKey c.nk k))
               gs.all (fun g => g.retired || g.conv.isSome) && gs.any (fun g => match g.conv with
                | some x => x != m
                | none => false)))
            if bad || own || other then s.raiseAll c 0x0F
            else
              let s := s.released c 1
              (s.updGroup c.gk (fun g => { g with conv := some m })).park c .convj 23 0

/-- Every member workgroup of m waits at its CONVJ with the same MEMBERS (R136). -/
def State.convReady (s : State) (gang m : Nat) : Bool :=
  let ws := ((upto 24).filter (fun k => nbit m k)).map (wgKey gang)
  2 ≤ ws.length && ws.all (fun wk =>
    s.gathered wk .convj && (mvals (s.groupsOf wk)).all (fun g => g.splits.isEmpty || g.conv == some m))

/-- CONVERSATION_JOINED (R136): every member workgroup has joined with the same MEMBERS, and all go on. -/
def execConversationJoined (gang : Nat) (members : BitVec 24) (s : State) : Host.Outcome State Fault Refusal :=
  let m := members.toNat
  let ws := ((upto 24).filter (fun k => nbit m k)).map (wgKey gang)
  .next (if s.convReady gang m then
    ws.foldl (fun s wk =>
      let k := match mget? s.wgs wk with
        | some w => w.k
        | none => 0
      let s := s.updWg wk (fun w => { w with conv := some m, convl := [] })
      let s := { s with groups := mmap s.groups (fun _ g => if g.wg = wk then { g with conv := none } else g) }
      (s.goOnAll wk .convj).emitWg wk 0x0D (m + k * 2 ^ 25)) s
  else s)

/-- CONVL (R335): the workgroup leaves its conversation once all its groups have issued it. -/
def execConvl (s : State) : Host.Outcome State Fault Refusal :=
  s.issue .convl anyMode fun c =>
    if c.inBlock then s.failBlock c.wk 9 0 c.sp.pc false
    else if c.wg.conv.isNone then s.advance c
    else
      ((s.advance c).updWg c.wk (fun w =>
        { w with convl := if w.convl.contains c.g.k then w.convl else c.g.k :: w.convl })).convlCheck c.wk

/-! ## The mode register -/

/-- A mode word that SETM accepts (R267). -/
def modeValid (v : Nat) : Bool := v < 0x4000 && nbits v 8 5 ≤ 9 && nbits v 11 9 ≤ 5

/-- SETM (R336): the mode word v. -/
def State.setMode (s : State) (c : Ctx) (v : Nat) : State :=
  if modeValid v then (s.advance c).updGroup c.gk (fun g => { g with m := BitVec.ofNat 16 v }) else s.raiseAll c 1

/-- SETM with an immediate (R336). -/
def execSetm (v : BitVec 16) (s : State) : Host.Outcome State Fault Refusal :=
  s.issue (.setm v) anyMode fun c => if c.act = 0#32 then s.advance c else s.setMode c v.toNat

/-- SETM with a register: its value comes from the lowest guard-true active lane (R266, R336). -/
def execSetmRegister (r : BitVec 7) (s : State) : Host.Outcome State Fault Refusal :=
  s.issue (.setmRegister r) anyMode fun c =>
    match c.opLane with
    | none => s.advance c
    | some l =>
      let v := c.g.lane r.toNat l
      if v.p.isSome then s.raiseAll c 9 else s.setMode c v.w.toNat

/-- GETM (R337). -/
def execGetm (d : BitVec 7) (s : State) : Host.Outcome State Fault Refusal :=
  s.issue (.getm d) anyMode fun c =>
    (s.writeV c d.toNat c.act .U (fun _ => clean (c.g.m.setWidth 32))).advance c

/-! ## Traps -/

/-- The guard-true lanes raise a fault and the others go on (R338). -/
def State.trapLanes (s : State) (c : Ctx) (code : Nat) : State :=
  s.endInstr c (fun l => if c.act.getLsbD l then some code else none)

/-- TRAP (R338). -/
def execTrap (k : BitVec 16) (s : State) : Host.Outcome State Fault Refusal :=
  s.issue (.trap k) anyMode fun c => s.trapLanes c 0x0D

/-- BKPT (R339, R257). -/
def execBkpt (t : BitVec 16) (s : State) : Host.Outcome State Fault Refusal :=
  s.issue (.bkpt t) anyMode fun c =>
    if c.act = 0#32 then s.advance c
    else if s.fld 0x29 63 63 = 1 then (s.advance c).beginStop c.g.core c.g.sched 1
    else s.trapLanes c 0x0E

/-- ERET with word offset k from the return point (R340). -/
def State.eret (s : State) (c : Ctx) (k : Nat) : State :=
  if !c.sp.handler then s.raiseAll c 0x12
  else if c.act = 0#32 then s.advance c
  else s.faultReturn c c.act k

/-- ERET, replay (R340). -/
def execEret (s : State) : Host.Outcome State Fault Refusal :=
  s.issue .eret anyMode fun c => s.eret c 0

/-- ERET.SKIP (R340). -/
def execEretSkip (s : State) : Host.Outcome State Fault Refusal :=
  s.issue .eretSkip anyMode fun c => s.eret c 1

end Sys2Proof.Machine
end

