-- ==== Sys2Proof/Machine/PealEv.lean ====
section
/-! DEFINITION. Peal's own events: when records are written (R242, R243), PERTURB reports (R244), sampling (R246 to R248),
and the registers of a partition's trace (R239 to R241, R438). -/

namespace Sys2Proof.Machine

/-! ## Writing records (R242) -/

/-- Sources that can feed the buffer of partition p (R234, R237), as class × 4096 + instance. -/
def State.feeders (s : State) (p : Nat) : List Nat :=
  ((upto 192).filter (fun c => s.coreIn c p)).flatMap (fun c =>
    [4 * c, 4 * c + 1, 4 * c + 2, 4 * c + 3, 4096 + c, 2 * 4096 + c]) ++
  (upto 4).map (fun d => 3 * 4096 + d) ++ (upto 65).map (fun i => 4 * 4096 + i) ++ [5 * 4096, 6 * 4096 + p]

/-- Every source of the buffer has reported a time at or past ts. -/
def State.allReported (s : State) (p ts : Nat) : Bool :=
  ts ≤ s.peal.all_ || (s.feeders p).all (fun k => ts ≤ mgetD s.peal.reports k 0)

/-- The die beside whose copy of Peal time a source stands; 4 is the package (R232, R234). -/
def sourceDie (sclass sinst : Nat) : Nat :=
  match sclass with
  | 0 => sinst / 192
  | 1 | 2 => sinst / 48
  | 3 => sinst
  | _ => 4

/-- SOURCE_TIME_REPORT (R242): the time that the source's copy has passed. -/
def execSourceTimeReport (sclass : BitVec 8) (sinst : BitVec 12) (s : State) : Host.Outcome State Fault Refusal :=
  .next { s with peal := { s.peal with
    reports := mput s.peal.reports (sclass.toNat * 4096 + sinst.toNat)
      (s.copyTime (sourceDie sclass.toNat sinst.toNat) - 1) } }

/-- The record that is written next to the buffer of partition p; a DROP record waits for room and is never dropped (R438). -/
def State.nextRec (s : State) (p : Nat) : Option PRec :=
  match s.peal.wait.find? (fun r => r.part == p && !(r.kind == 0x02 && s.pealFull p)) with
  | some r => if s.pealOn p && s.allReported p r.ts then some r else none
  | none => none

/-- PEAL_RECORD_WRITE (R242, R243). -/
def execPealRecordWrite (p : BitVec 4) (s : State) : Host.Outcome State Fault Refusal :=
  .next (match s.nextRec p.toNat with
  | some r => s.pealWrite r
  | none => s)

/-- A record of Tabor or Peal that has waited 1 ms for room in partition p's buffer. -/
def State.lateRec (s : State) (p : Nat) : Option PRec :=
  s.peal.wait.find? (fun r => r.part == p && 5 ≤ r.sclass && r.kind != 0x02 && r.ts + 16000000 ≤ s.time)

/-- DEVICE_RECORD_TIMEOUT (R243). -/
def execDeviceRecordTimeout (p : BitVec 4) (s : State) : Host.Outcome State Fault Refusal :=
  .next (match s.lateRec p.toNat with
  | some r => if s.pealFull p.toNat then (s.pealTake r).pealDrop r else s
  | none => s)

/-! ## Stalls of sources (R244) -/

/-- Sources that a full buffer stalls: a scheduler or an engine with a record in its latch (R243). -/
def State.stalledSources (s : State) : List (Nat × Nat) :=
  (s.peal.wait.filter (fun r => r.sclass < 3 && s.latched r.part r.sclass r.sinst)).foldl (fun acc r =>
    let k := (r.sclass * 4096 + r.sinst, r.part)
    if acc.contains k then acc else acc ++ [k]) []

/-- The core of a scheduler or engine, numbered class × 4096 + instance. -/
def sourceCore (k : Nat) : Nat := if k < 4096 then k / 4 else k % 4096

/-- A cycle in which sources were stalled counts for each of them whose own clock has it (R3), and each record that waits in a latch or behind it counts
once. -/
def State.countStalls (s : State) : State :=
  let ks := s.stalledSources
  let mine := fun (r : PRec) => r.kind != 0x03 && ks.contains (r.sclass * 4096 + r.sinst, r.part)
  let per := ks.foldl (fun m e =>
    let n := mgetD m e.1 (0, 0, e.2)
    let k := (s.peal.wait.filter (fun r => mine r && !r.stalled && r.sclass * 4096 + r.sinst == e.1 && r.part == e.2)).length
    mput m e.1 (satAdd 0xFFFFFFFF n.1 (b2n (s.edge (sourceCore e.1))), satAdd 0xFFFF n.2.1 k, e.2)) s.peal.perturb
  { s with peal := { s.peal with
    perturb := per, wait := s.peal.wait.map (fun r => if mine r then { r with stalled := true } else r) } }

/-- Some launch with a gang on the core lets PERTURB records pass (R237). -/
def State.perturbOk (s : State) (core : Nat) : Bool :=
  s.wgs.any (fun e => e.2.core == core && (match s.launchOf e.1 with
    | some (_, _, l) => l.traces 3
    | none => false))

/-- A period of 65,536 cycles of a source's own clock has ended with the last cycle (R244). -/
def State.periodEnd (s : State) (k : Nat) : Bool :=
  s.coreClk (sourceCore k) % 65536 == 0 && s.edgeAt (s.clk - 1) (sourceCore k)

/-- PERTURB (R244): at the end of a period of 65,536 cycles, a source whose counts are not both zero reports them. -/
def execPerturb (sclass : BitVec 8) (sinst : BitVec 12) (s : State) : Host.Outcome State Fault Refusal :=
  let k := sclass.toNat * 4096 + sinst.toNat
  let core := sourceCore k
  .next (match mget? s.peal.perturb k with
  | some n => if s.periodEnd k then s.emitPerturb n.2.2 (core / 48) sclass.toNat sinst.toNat (s.perturbOk core) else s
  | none => s)

/-! ## Sampling (R246 to R248) -/

/-- The class of a stall reason (R247). -/
def stallClass (r : Nat) : Nat :=
  if r = 0 then 0
  else if [1, 28, 30, 31].contains r then 1
  else if [2, 3, 15].contains r then 2
  else if 4 ≤ r ∧ r ≤ 8 then 3
  else if r = 19 then 5
  else if 20 ≤ r ∧ r ≤ 22 then 6
  else if (24 ≤ r ∧ r ≤ 27) ∨ r = 29 then 7
  else 4

/-- The split whose reason a group reports (R248): the live one of lowest index, else the parked one of lowest program
counter. -/
def Group.reporter (g : Group) : Option Split :=
  match leastBy (fun p => (p.liveIx).getD 9) (g.splits.filter (fun p => p.liveIx.isSome)) with
  | some p => some p
  | none => leastBy (·.pc) g.splits

/-- The reason of a group in cycle clk (R246, R248): the highest of 26, 27 and 29 goes before every other. -/
def State.reasonOf (s : State) (g : Group) (clk : Nat) : Nat :=
  if g.lastIss = clk + 1 then 0
  else
    let r := match g.reporter with
      | some p => p.stall
      | none => 31
    match s.launchOf g.wg with
    | some (_, gg, _) => (match s.foremost g gg with
      | some k => if r = 27 then max k r else k
      | none => r)
    | none => r

/-- The groups of a scheduler that may be sampled, by slot. -/
def State.samplable (s : State) (core sched : Nat) : List (Nat × Group × Gang × Launch) :=
  sortBy (fun e => e.2.1.slot) (s.groups.filterMap (fun e =>
    if e.2.core = core ∧ e.2.sched = sched ∧ !e.2.retired then
      (match s.launchOf e.2.wg with
      | some (_, gg, l) => if l.trfilt.getLsbD 64 && l.traces 4 then some (e.1, e.2, gg, l) else none
      | none => none)
    else none))

/-- SAMPLE (R248): at the end of each interval of 2^(SAMPK+8) cycles. -/
def execSample (core : BitVec 8) (sched : BitVec 2) (s : State) : Host.Outcome State Fault Refusal :=
  let key := core.toNat * 4 + sched.toNat
  .next (match s.samplable core.toNat sched.toNat with
  | [] => s
  | x :: rest =>
    if s.coreClk core.toNat % 2 ^ (s.fld (nPCTL x.2.2.2.part) 19 16 + 8) ≠ 0 || !s.edgeAt (s.clk - 1) core.toNat then s
    else
      let last := mgetD s.peal.sampled key 15
      let (_, g, gg, l) := ((x :: rest).find? (fun e => last < e.2.1.slot)).getD x
      let r := s.reasonOf g (s.clk - 1)
      let pc := match g.reporter with
        | some p => p.pc
        | none => 0
      let s := s.emitTo l.part (core.toNat / 48) 0 key 0x04
        (gg.index % 2 ^ 18 + g.slot % 16 * 2 ^ 18 + b2n (r == 0) * 2 ^ 22 + r % 32 * 2 ^ 23 + pc % 2 ^ 22 * 2 ^ 28)
      { s with peal := { s.peal with sampled := mput s.peal.sampled key g.slot } })

/-! ## Registers of a partition's trace (R239 to R241, R249, R438) -/

/-- A write of PCTLn: setting ENABLE starts with an empty buffer; records of a buffer that goes out of use are gone. -/
def State.writePctl (s : State) (p : Nat) (v : BitVec 64) : State :=
  let was := s.pealOn p
  let s := s.setReg (nPCTL p) (v &&& 0xF001F#64)
  if !was && b64 v 0 0 = 1 then
    let s := (s.setReg (nPPTR p) 0#64).setFld (nPSTAT p) 63 32 0
    let s := s.setFld (nPCNT p) 63 48 0
    { s with peal := { s.peal with owed := mdel s.peal.owed p } }
  else if was && b64 v 0 0 = 0 then
    { s with peal := { s.peal with wait := s.peal.wait.filter (fun r => r.part != p) } }
  else s

/-- PCTL_ENABLE (R239). -/
def execPctlEnable (p : BitVec 4) (v : BitVec 64) (s : State) : Host.Outcome State Fault Refusal :=
  .next (s.writePctl p.toNat v)

/-- A write of PBUFn (R240). -/
def State.writePbuf (s : State) (p : Nat) (v : BitVec 64) : State :=
  if 20 < b64 v 4 0 || s.pealOn p then s else s.setReg (nPBUF p) (v &&& 0x1FFFFFFFF01F#64)

/-- A write of PPTRn: RP moves within [RP, WP]; a buffer that had dropped records and has room again emits its DROP record
(R240, R438). -/
def State.writePptr (s : State) (p : Nat) (v : BitVec 64) : State :=
  let rp := s.fld (nPPTR p) 63 32
  let wp := s.fld (nPPTR p) 31 0
  let n := b64 v 63 32
  if !s.pealOn p || (wp + 2 ^ 32 - rp) % 2 ^ 32 < (n + 2 ^ 32 - rp) % 2 ^ 32 then s
  else
    let s := s.setFld (nPPTR p) 63 32 n
    match mget? s.peal.owed p with
    | some k =>
      if s.pealFull p then s
      else { s.emitTo p 4 6 p 0x02 (k % 2 ^ 32) with
        peal := { (s.emitTo p 4 6 p 0x02 (k % 2 ^ 32)).peal with owed := mdel s.peal.owed p } }
    | none => s

/-- RP_WRITE (R240, R438). -/
def execRpWrite (p : BitVec 4) (v : BitVec 64) (s : State) : Host.Outcome State Fault Refusal :=
  .next (s.writePptr p.toNat v)

/-- A write of PCNTn (R249). -/
def State.writePcnt (s : State) (p : Nat) (v : BitVec 64) : State :=
  if 10 < b64 v 3 0 then s
  else s.setReg (nPCNT p) ((s.reg (nPCNT p) &&& 0xFFFF000000000000#64) ||| (v &&& 0x1FFFFFFFF00F#64))

/-- What PSTATn reads (R241). -/
def State.readPstat (s : State) (p : Nat) : BitVec 64 :=
  (s.reg (nPSTAT p) &&& 0xFFFFFFFF00000000#64) |||
    BitVec.ofNat 64 (b2n (s.pealFull p) + b2n (s.effLL p) * 2 + b2n s.peal.susp * 4)

end Sys2Proof.Machine
end

