-- ==== Sys2Proof/Machine/Debug.lean ====
section
/-! DEFINITION. Debug: DBGCTL and its operations (R251), the quiet point and the stop report (R253, R255), the end of a stop
(R254), gangs halted by replay (R261), and the debug windows (R256). -/

namespace Sys2Proof.Machine

/-! ## Stops -/

/-- Sets DBGSTAT.RESULT (R251). -/
def State.dbgResult (s : State) (r : Nat) : State := s.setFld 0x2A 1 0 r

/-- The groups of a scheduler, by slot. -/
def State.groupsAt (s : State) (core sched : Nat) : List (Nat × Group) :=
  sortBy (fun (e : Nat × Group) => e.2.slot)
    (s.groups.filter (fun e => e.2.core == core && e.2.sched == sched && !e.2.retired))

/-- The pending register writes of a scheduler's groups in issue order, one for each register (R253): the slot, the
operation, which of its registers, and the register. -/
def State.heldWrites (s : State) (core sched : Nat) : List (Nat × Pend × Nat × Nat) :=
  sortBy (fun e => e.2.1.id) ((s.groupsAt core sched).flatMap (fun e =>
    (e.2.pend.filter (fun p => p.held && !p.drop)).flatMap (fun p =>
      (upto p.nreg).filterMap (fun j =>
        if p.dst + j = 0 || p.cut.contains (p.dst + j) then none else some (e.2.slot, p, j, p.dst + j)))))

/-- The value of a held write in a lane. -/
def Pend.heldVal (p : Pend) (j l : Nat) : Val := match p.op with
  | .value vals _ => vals.getD (j * 32 + l) (clean 0#32)
  | _ => clean 0#32

/-- The 144 bytes of a pending register write (R255). -/
def heldBits (e : Nat × Pend × Nat × Nat) : Nat :=
  let (slot, p, j, r) := e
  let ls := lanesOf p.lanes
  let bad := ls.filter (fun l => (p.heldVal j l).p.isSome)
  r + slot % 16 * 2 ^ 8 + p.lanes.toNat * 2 ^ 12 + p.op.unit * 2 ^ 44
    + (bad.map (2 ^ ·)).foldl (· + ·) 0 * 2 ^ 48
    + (match tagMinL (bad.map (fun l => (p.heldVal j l).p)) with
      | some t => t.toNat
      | none => 0) * 2 ^ 80
    + (ls.map (fun l => (p.heldVal j l).w.toNat * 2 ^ (128 + 32 * l))).foldl (· + ·) 0

/-- The 64 bytes of a slot in a stop report (R255). -/
def State.stopSlot (s : State) (st : Stop) (gk : Nat) (g : Group) : Nat :=
  match s.launchOf g.wg with
  | none => 0
  | some (w, gg, l) =>
    1 + g.slot % 16 * 2 + l.queue % 1024 * 2 ^ 5 + gg.index % 2 ^ 18 * 2 ^ 15 + w.k * 2 ^ 33 + g.k * 2 ^ 38
      + (g.splits.map (fun p => match p.liveIx with
        | some i => (p.pc % 2 ^ 22 + mgetD st.before (gk * 4 + i) 0 % 32 * 2 ^ 22 + 2 ^ 27 + p.mask.toNat * 2 ^ 28)
            * 2 ^ (64 + 64 * i)
        | none => 0)).foldl (· + ·) 0

/-- Writes the stop report of a scheduler (R255). -/
def State.stopReport (s : State) (core sched : Nat) (st : Stop) : State :=
  let base := s.fld 0x2B 44 12 * 4096 + (core * 4 + sched) * 65536
  let gs := s.groupsAt core sched
  let hw := s.heldWrites core sched
  let head := bytesLE 8 0x504F5453 ++ bytesLE 8 (st.time % 2 ^ 48 + b2n s.links.holdover * 2 ^ 63) ++ bytesLE 8 (s.time % 2 ^ 48)
    ++ bytesLE 4 st.clock ++ bytesLE 4 (core + sched * 2 ^ 8 + st.cause * 2 ^ 10) ++ bytesLE 4 gs.length ++ bytesLE 4 hw.length
    ++ bytesLE 24 0
  let slots := (upto 16).flatMap (fun i => bytesLE 64 (match gs.find? (fun e => e.2.slot == i) with
    | some (gk, g) => s.stopSlot st gk g
    | none => 0))
  s.outsideWrite base (head ++ slots ++ hw.flatMap (fun e => bytesLE 144 (heldBits e))) none

/-- Everything the frozen groups issued before the stop has been performed, and every return is held (R253). -/
def State.isQuiet (s : State) (core sched : Nat) : Bool :=
  (s.groupsAt core sched).all (fun e =>
    e.2.ops.isEmpty && e.2.pend.all (fun p => p.held) && e.2.splits.all (fun p => p.busy.isNone))

/-- QUIET_POINT (R253). -/
def execQuietPoint (core : BitVec 8) (sched : BitVec 2) (s : State) : Host.Outcome State Fault Refusal :=
  let k := core.toNat * 4 + sched.toNat
  .next (match mget? s.stops k with
  | none => s
  | some st =>
    if st.quiet.isSome || !s.isQuiet core.toNat sched.toNat then s
    else
      let s := { s with stops := mput s.stops k { st with quiet := some s.time } }
      (s.stopReport core.toNat sched.toNat st).emitStop core.toNat sched.toNat 1 st.cause)

/-- Applies the pending register writes of a group in issue order, but for cancelled ones and those of an old generation (R131,
R254, R270); what returns later is no pending write, and nothing cancels it. -/
def State.applyHeld (s : State) (gk : Nat) : State :=
  match mget? s.groups gk with
  | none => s
  | some g =>
    let s := (sortBy (·.id) (g.pend.filter (·.held))).foldl (fun s p => match s.gctx gk with
    | none => s
    | some c =>
      if p.drop then s.finishPend gk p
      else if p.gen ≠ c.wg.gen then (s.finishPend gk p).late c.wk
      else (s.writeBack c p p.lanes p.heldVal).finishPend gk p) s
    s.updGroup gk (fun g => { g with pend := g.pend.map (fun p => { p with cut := [] }) })

/-- A debug stop ends (R254). -/
def State.endStop (s : State) (core sched : Nat) (st : Stop) : State :=
  let s := { s with stops := mdel s.stops (core * 4 + sched) }
  let s := (s.groupsAt core sched).foldl (fun s e => s.applyHeld e.1) s
  s.emitStop core sched 2 st.cause

/-- A halted gang goes on with live outcomes only (R261). -/
def State.resumeHalted (s : State) (q ix : Nat) : State :=
  match s.gangs.find? (fun e => e.2.halted && e.2.index % 2 ^ 18 == ix && (match mget? s.launches e.2.launch with
      | some l => l.queue == q
      | none => false)) with
  | some (nk, _) => (s.updGang nk (fun g => { g with halted := false, free := true })).dbgResult 1
  | none => s.dbgResult 2

/-- A write of DBGCTL (R251). -/
def State.writeDbgctl (s : State) (v : BitVec 64) : State :=
  let s := s.setFld 0x29 63 63 (b64 v 63 63)
  let core := b64 v 35 28
  let sched := b64 v 37 36
  match b64 v 62 60 with
  | 0 => s
  | 1 => if 192 ≤ core then s.dbgResult 2 else (s.beginStop core sched 0).dbgResult 1
  | 2 => (match mget? s.stops (core * 4 + sched) with
    | some st => (s.endStop core sched st).dbgResult 1
    | none => s.dbgResult 2)
  | 3 => s.resumeHalted (b64 v 9 0) (b64 v 27 10)
  | _ => s.dbgResult 3

/-- DEBUG_STOP, DEBUG_STOP_END, RESUME_HALTED_GANG (R252, R254, R261): DBGCTL written with OP 1, 2 and 3. -/
def execDebugStop (v : BitVec 64) (s : State) : Host.Outcome State Fault Refusal := .next (s.writeDbgctl (setBits v 62 60 1))

def execDebugStopEnd (v : BitVec 64) (s : State) : Host.Outcome State Fault Refusal :=
  .next (s.writeDbgctl (setBits v 62 60 2))

def execResumeHaltedGang (v : BitVec 64) (s : State) : Host.Outcome State Fault Refusal :=
  .next (s.writeDbgctl (setBits v 62 60 3))

/-- What DBGSTAT reads (R251). -/
def State.dbgstat (s : State) : BitVec 64 :=
  setBits (s.reg 0x2A &&& 7#64) 19 10 s.stops.length

/-! ## The debug windows (R256) -/

/-- The frozen group that a window 0x1 address names, with its register budget. -/
def State.frozenGroup (s : State) (a : Nat) : Option (Nat × Group × Nat) :=
  let core := nbits a 29 22
  let sched := nbits a 21 20
  if (mget? s.stops (core * 4 + sched)).isNone then none
  else match (s.groupsAt core sched).find? (fun e => e.2.slot == nbits a 19 16) with
    | none => none
    | some (gk, g) => match s.launchOf g.wg with
      | some (_, _, l) => some (gk, g, l.budget g.k)
      | none => none

/-- The group record of R138, built live. -/
def Group.record (g : Group) (budget : Nat) : List Byte := bytesLE 1024 (g.fixed budget) ++ g.area budget

/-- A wait entry in an overflow area is in use at the address; how its 16 bytes are laid out is left open (R95). -/
def State.ovfUsed (s : State) (pa : Nat) : Bool :=
  s.kul.waiters.any (fun w => w.ovf == some ((pa - 0x7FFE000000) % 0x200000 / 16) && w.part == (pa - 0x7FFE000000) / 0x200000)

/-- A read of DBGD: the 8 bytes at DBGA. -/
def State.readDbgd (s : State) : BitVec 64 × State :=
  let a := (s.reg 0x2C).toNat
  let s := s.setFld 0x2A 2 2 0
  let give := fun (s : State) (bs : List Byte) (p : Bool) =>
    (BitVec.ofNat 64 (ofBytesLE bs), (s.setFld 0x2A 2 2 (b2n p)).dbgResult 1)
  if a % 8 ≠ 0 then (0#64, s.dbgResult 3)
  else match nbits a 59 56 with
    | 0 =>
      let pa := nbits a 47 0
      if !paExists pa then (0#64, s.dbgResult 2)
      else if inOvf pa && s.ovfUsed pa then
        let (bs, s) := s.openBytes 8
        give s bs false
      else
        let (bs, p, s) := s.homeRead pa 8
        give s bs p.isSome
    | 1 => (match s.frozenGroup a with
      | none => (0#64, s.dbgResult 2)
      | some (_, g, bud) =>
        let off := nbits a 15 0
        give s (((g.record bud).drop off).take 8) (1024 ≤ off && (g.areaPois bud (off - 1024)).isSome))
    | _ => (0#64, s.dbgResult 2)

/-- Writes 8 bytes of a G register through the window: lanes l and l + 1, clean; pending writes of it are cancelled, those too
whose return comes later in the stop (R254). -/
def State.pokeReg (s : State) (gk r l : Nat) (v : BitVec 64) : State :=
  let m := laneBit l ||| laneBit (l + 1)
  let s := s.putReg gk r m .G (fun k => clean (if k = l then v.truncate 32 else (v >>> 32).truncate 32))
  s.updGroup gk (fun g => { g with
    pend := g.pend.map (fun p =>
      if p.dst ≤ r && r < p.dst + p.nreg then { p with cut := r :: p.cut } else p)
    ops := g.ops.map (fun o => match o.op with
      | .mckv d _ _ => if d ≤ r && r < d + 4 then { o with cut := r :: o.cut } else o
      | _ => o) })

/-- A write of DBGD. -/
def State.writeDbgd (s : State) (v : BitVec 64) : State :=
  let a := (s.reg 0x2C).toNat
  if a % 8 ≠ 0 then s.dbgResult 3
  else match nbits a 59 56 with
    | 0 =>
      let pa := nbits a 47 0
      if !paExists pa then s.dbgResult 2
      else if inOvf pa then s.dbgResult 3
      else (s.outsideWrite pa (bytesLE 8 v.toNat) none).dbgResult 1
    | 1 => (match s.frozenGroup a with
      | none => s.dbgResult 2
      | some (gk, g, bud) =>
        let off := nbits a 15 0
        match if 1024 ≤ off then (g.withTag bud true)[(off - 1024) / 128]? else none with
        | some r => (s.pokeReg gk r ((off - 1024) % 128 / 4) v).dbgResult 1
        | none => s.dbgResult 3)
    | _ => s.dbgResult 2

/-- DBGD_READ (R256): a read of DBGD; its 8 bytes go to the reader. -/
def execDbgdRead (s : State) : Host.Outcome State Fault Refusal :=
  let (v, s) := s.readDbgd
  .next (s.toHost (.data (bytesLE 8 v.toNat) false))

/-- DBGD_WRITE (R256). -/
def execDbgdWrite (v : BitVec 64) (s : State) : Host.Outcome State Fault Refusal := .next (s.writeDbgd v)

end Sys2Proof.Machine
end

