-- ==== Sys2Proof/Machine/Drain.lean ====
section
/-! DEFINITION. The power-fail trap, the drain, power-on and restart (R30, R47 to R54, R424). -/

namespace Sys2Proof.Machine

/-! ## The drain region (R50) -/

/-- The drain in a slot: 0 is slot A, 1 slot B. -/
def Power.slot (p : Power) (k : Nat) : Option Drain := if k = 0 then p.slotA else p.slotB

/-- Sets the drain of a slot. -/
def Power.setSlot (p : Power) (k : Nat) (d : Option Drain) : Power :=
  if k = 0 then { p with slotA := d } else { p with slotB := d }

/-- Changes the drain of a slot. -/
def State.updDrain (s : State) (k : Nat) (f : Drain → Drain) : State :=
  s.setPower (s.power.setSlot k ((s.power.slot k).map f))

/-- The slot with the newest unclaimed record (R50, R54). -/
def Power.newest (p : Power) : Option Nat :=
  match p.slotA, p.slotB with
  | some a, some b =>
    if a.claimed && b.claimed then none
    else if a.claimed then some 1
    else if b.claimed then some 0
    else some (if a.seq < b.seq then 1 else 0)
  | some a, none => if a.claimed then none else some 0
  | none, some b => if b.claimed then none else some 1
  | none, none => none

/-- The slot a trap writes (R50). -/
def Power.target (p : Power) : Nat := if p.newest = some 0 then 1 else 0

/-- SEQ of the next drain: one higher than the previous one (R51). -/
def Power.nextSeq (p : Power) : Nat :=
  max (match p.slotA with
    | some d => d.seq
    | none => 0) (match p.slotB with
    | some d => d.seq
    | none => 0) + 1

/-- Mode code of a bank (R51). -/
def BankMode.code : BankMode → Nat
  | .cache => 0
  | .scratch => 1
  | .fifo => 2
  | .log => 3

/-- The banks that workgroups own, not in cache mode, ascending by core × 24 + physical bank: that place, the mode, the
workgroup's key and the logical bank. -/
def ownedOf (ws : Map Wg) : List (Nat × Nat × Nat × Nat) :=
  sortBy (·.1) (ws.flatMap (fun e => e.2.banks.filterMap (fun b => match b.2.phys with
    | some p => if b.2.mode = .cache then none else some (e.2.core * 24 + p, b.2.mode.code, e.1, b.1)
    | none => none)))

/-- The tiles of core c in the order of its workgroups, T0 first (log entry 138). -/
def coreTiles (ws : Map Wg) (c : Nat) : List Tile :=
  (ws.filter (fun e => e.2.core == c)).flatMap (fun e => mvals e.2.tiles)

/-- The lines of a physical range. -/
def rangeLines (base n : Nat) : List Nat := linesOf base n

/-- Lines of the persist list in order of entry, each once, with its range's position (R49). -/
def persistLines (l : List (Nat × Nat × List Nat)) : List (Nat × Nat) :=
  l.zipIdx.foldl (fun acc e =>
    let (base, n, _) := e.1
    acc ++ ((rangeLines base n).filter (fun ln => !acc.any (fun x => x.1 == ln))).map (fun ln => (ln, e.2))) []

/-- The largest section 5, in lines (R49). -/
def maxPersist : Nat := 0x400000

/-- The drain as its initial record describes it (R48, R51): planned sizes, nothing saved. -/
def State.planDrain (s : State) (energy : Nat) : Drain :=
  let p := s.power
  { seq := p.nextSeq % 2 ^ 32
    time := s.time % 2 ^ 48 + b2n s.links.holdover * 2 ^ 63
    energy := energy % 2 ^ 32
    planned := [0x6000000, 0x3000000, (ownedOf s.wgs).length * 0x20000, Config.freeNat s.draws % 0x400001,
                128 * (persistLines p.persist).length]
    banks := (ownedOf s.wgs).map (fun b => (b.1, b.2.1))
    first :=
      { level := p.level % 8 + p.stage % 8 * 2 ^ 3 + min p.grade 15 * 2 ^ 6
        status := 0
        saved := [0, 0, 0, 0, 0]
        plist := p.persist.map (fun r => (r.1, r.2.1, 0)) }
    final := none, done := 0, chunks := []
    kept := { wgs := s.wgs, groups := mmap s.groups (fun _ g => { g with pend := [] }) }
    gangs := s.gangs, kul := s.kul, bytes := [], pois := [], claimed := false }

/-- Last section completed (R51). -/
def Drain.last (d : Drain) : Nat := d.done

/-- Bytes that section k is to save: section 5 stops at 512 MB (R49). -/
def Drain.goal (d : Drain) (k : Nat) : Nat := if k = 4 then min (d.planned.getD 4 0) (128 * maxPersist) else d.planned.getD k 0

/-- The place of section k in the data, in whole chunks of 1 MB. -/
def Drain.firstChunk (d : Drain) (k : Nat) : Nat := sumL ((upto k).map (fun j => (d.planned.getD j 0 + 0xFFFFF) / 0x100000))

/-- Chunks of section k. -/
def Drain.nChunks (d : Drain) (k : Nat) : Nat := (d.goal k + 0xFFFFF) / 0x100000

/-- Byte i of section k (0 to 4) as the drain writes it (R48): the tiles and the banks, whose places the rule gives; the
register files and the scheduler's state, whose layout it does not give (log entry 144); the persist lines in order. -/
def Drain.byteAt (d : Drain) (k i : Nat) : Byte :=
  match k with
  | 1 => match (coreTiles d.kept.wgs (i / 0x40000))[i % 0x40000 / 0x4000]? with
    | some t => t.bytes.getD (i % 0x4000) 0#8
    | none => Config.flashByte (d.seq * 2 ^ 34 + 2 ^ 30 + i)
  | 2 => match (ownedOf d.kept.wgs)[i / 0x20000]? with
    | some (_, _, wk, b) => (match mget? d.kept.wgs wk with
      | some w => (w.bankBytes wk b (d.seq * 2 ^ 34)).getD (i % 0x20000) 0#8
      | none => 0#8)
    | none => 0#8
  | 4 => match (persistLines (d.first.plist.map (fun r => (r.1, r.2.1, []))))[i / 128]? with
    | some e => memGet d.bytes (e.1 * 128 + i % 128)
    | none => 0#8
  | _ => Config.flashByte (d.seq * 2 ^ 34 + k * 2 ^ 30 + i)

/-- Chunk n of section k, 1 MB; past the end of the section it is zero (R50). -/
def Drain.chunk (d : Drain) (k n : Nat) : List Byte :=
  (upto 0x100000).map (fun j => if n * 0x100000 + j < d.goal k then d.byteAt k (n * 0x100000 + j) else 0#8)

/-- One bit of CRC-32 with the polynomial of IEEE 802.3, least significant bit first (log entry 145). -/
def crcBit (c : BitVec 32) : BitVec 32 := if c.getLsbD 0 then (c >>> 1) ^^^ 0xEDB88320#32 else c >>> 1

/-- CRC-32 of bytes (R50). -/
def crc32 (bs : List Byte) : BitVec 32 :=
  ~~~ (bs.foldl (fun c b => (upto 8).foldl (fun c _ => crcBit c) (c ^^^ b.setWidth 32)) (BitVec.allOnes 32))

/-- The table entries of the first n chunks of section k are written, after the chunks themselves (R50). -/
def Drain.tabled (d : Drain) (k n : Nat) : Drain :=
  { d with chunks := (upto n).foldl (fun m j => mput m (d.firstChunk k + j) (crc32 (d.chunk k j))) d.chunks }

/-- Chunks of section k from its first on whose table entry is there and matches (R52). -/
def Drain.leading (d : Drain) (k : Nat) : Nat :=
  ((upto (d.nChunks k)).takeWhile (fun j => mget? d.chunks (d.firstChunk k + j) == some (crc32 (d.chunk k j)))).length

/-- The persist ranges with the bytes saved of each, when n lines of section 5 are saved (R51). -/
def Drain.ranges (d : Drain) (n : Nat) : List (Nat × Nat × Nat) :=
  let ls := (persistLines (d.first.plist.map (fun r => (r.1, r.2.1, [])))).take n
  d.first.plist.zipIdx.map (fun e => (e.1.1, e.1.2.1, 128 * (ls.filter (fun x => x.2 == e.2)).length))

/-- The record that Tabor rebuilds when there is no final one (R52): everything after the first chunk that fails the test is
unsaved, and STATUS says that the drain was cut short. -/
def Drain.rebuilt (d : Drain) : DrainRec :=
  let got := ((upto 5).foldl (fun (acc : List Nat × Bool) k =>
    if !acc.2 then (acc.1 ++ [0], false)
    else
      let n := d.leading k
      if n = d.nChunks k && k < d.done then (acc.1 ++ [d.goal k], true)
      else (acc.1 ++ [min (d.goal k) (n * 0x100000)], n == d.nChunks k)) (([] : List Nat), true)).1
  { level := d.first.level, status := 2 + 16 * d.done, saved := got, plist := d.ranges (got.getD 4 0 / 128) }

/-- The record that gives the answer after restart (R52). -/
def Drain.now (d : Drain) : DrainRec := d.final.getD d.rebuilt

/-- The words of a record of the drain by offset and size, without the reserved ones (R51); a section of which less was saved
than planned reads as cut short, with or without its completion entry (log entry 165). -/
def Drain.fields (d : Drain) (r : DrainRec) : List (Nat × Nat × Nat) :=
  [(0, 8, 0x4E52445A), (8, 4, 1), (0x0C, 4, d.seq), (0x10, 8, d.time), (0x18, 4, r.level), (0x1C, 4, d.energy),
   (0x20, 8, r.status)] ++
  (upto 5).flatMap (fun k =>
    let plan := d.planned.getD k 0
    let got := r.saved.getD k 0
    [(0x40 + 32 * k, 8, 0x100000 * (1 + d.firstChunk k)), (0x48 + 32 * k, 8, plan), (0x50 + 32 * k, 8, got),
     (0x58 + 32 * k, 8, b2n (k < nbits r.status 6 4 && got == plan) + b2n (got < plan && r.status != 0) * 2)]) ++
  r.plist.zipIdx.flatMap (fun e =>
    [(0xE0 + 16 * e.2, 8, e.1.1), (0xE8 + 16 * e.2, 4, e.1.2.1), (0xEC + 16 * e.2, 4, e.1.2.2)]) ++
  (upto 1152).map (fun i =>
    (0x4E0 + i, 1, ((upto 4).map (fun j => mgetD d.banks (4 * i + j) 0 * 4 ^ j)).foldl (· + ·) 0))

/-- The bytes of a record that are not zero, by offset. -/
def Drain.record (d : Drain) (r : DrainRec) : List Host.Cell :=
  (d.fields r).foldl (fun m f => memPutL m f.1 (bytesLE f.2.1 f.2.2)) []

/-- The bytes of a slot before its data, by offset (R50): the initial and the final record, the section completion log, of
whose entries only the presence is given (log entry 145), and the chunk table. -/
def Drain.slotHead (d : Drain) : List Host.Cell :=
  let m := d.record d.first
  let m := match d.final with
    | some r => (d.record r).foldl (fun m c => memPut m (0x8000 + c.1) c.2) m
    | none => m
  let m := (upto (64 * d.done)).foldl (fun m i => memPut m (0x10000 + i) (Config.flashByte (d.seq * 2 ^ 34 + 5 * 2 ^ 30 + i))) m
  d.chunks.foldl (fun m e => memPutL m (0x20000 + 8 * e.1) (bytesLE 8 (e.2.toNat + e.1 * 2 ^ 32))) m

/-- What the board controller reads of the drain after restart (R30). -/
def State.sidebandDrain (s : State) : Option (List Host.Cell) :=
  if s.power.input then
    match s.power.sel with
    | some k => (s.power.slot k).map (fun d => d.record d.now)
    | none => none
  else none

/-! ## The trap -/

/-- POWER_FAIL (R47, R48): issue freezes, requests in flight are dropped, records not yet written are lost, and the drain
starts with its initial record. -/
def execPowerFail (energy : Nat) (s : State) : Host.Outcome State Fault Refusal :=
  .next (if s.power.st ≠ .on then s
  else
    let k := s.power.target
    let d := s.planDrain energy
    let s := { s with
      groups := mmap s.groups (fun _ g => { g with pend := [] })
      peal := { s.peal with wait := [] }
      focus := none, agenda := [] }
    let p := { s.power with st := .draining, input := false, wake := false, back := false, ordered := none, writing := k }
    (s.setPower (p.setSlot k (some d))).draw 1)

/-- The first n lines of section 5, as they stand, with their poison: the drain finds no error (R49, R436). -/
def State.savePersist (s : State) (d : Drain) (n : Nat) : Drain :=
  ((persistLines s.power.persist).take n).foldl (fun (d : Drain) e =>
    { d with
      bytes := memPutL d.bytes (e.1 * 128) (memGetL s.mm.bytes (e.1 * 128) 128)
      pois := match s.linePois e.1 with
        | some t => mput d.pois e.1 t
        | none => d.pois }) d

/-- Writes n chunks of section k (0 to 4) of the drain, with their table entries. -/
def State.saveSection (s : State) (d : Drain) (k n : Nat) : Drain :=
  (if k = 4 then s.savePersist d (n * 0x2000) else d).tabled k n

/-- DRAIN_SECTION_END (R48, R50): the section that is being written is complete. -/
def execDrainSectionEnd (s : State) : Host.Outcome State Fault Refusal :=
  .next (match s.power.st, s.power.slot s.power.writing with
  | .draining, some d =>
    let k := d.last
    if k < 5 then
      s.updDrain s.power.writing (fun _ => { s.saveSection d k (d.nChunks k) with done := k + 1 })
    else s
  | _, _ => s)

/-- The final record (R50, R51, R53): complete, with bit 2 when the input has returned, and an order that came in. -/
def Power.closeDrain (p : Power) (d : Drain) : Drain :=
  let r : DrainRec :=
    { level := d.first.level + (match p.ordered with
        | some l => l % 8 * 2 ^ 10 + 2 ^ 13
        | none => 0)
      status := 1 + b2n p.back * 4 + 16 * d.done
      saved := (upto 5).map d.goal
      plist := d.ranges (d.goal 4 / 128) }
  { d with final := some r }

/-- DRAIN_END (R50, R53): the final record is written; with the input back, a power-on reset follows. -/
def execDrainEnd (s : State) : Host.Outcome State Fault Refusal :=
  .next (match s.power.st, s.power.slot s.power.writing with
  | .draining, some d =>
    if d.last = 5 then
      let s := s.updDrain s.power.writing (fun d => s.power.closeDrain d)
      s.setPower { s.power with st := .off, wake := s.power.back }
    else s
  | _, _ => s)

/-- HOLDUP_EXHAUSTED (R52): the drain stops wherever it is, without a final record; of the section being written, the whole
chunks among saved bytes have their table entries. -/
def execHoldupExhausted (saved : Nat) (s : State) : Host.Outcome State Fault Refusal :=
  .next (match s.power.st, s.power.slot s.power.writing with
  | .draining, some d =>
    let k := d.last
    let s := if k < 5 then
        s.updDrain s.power.writing (fun _ => s.saveSection d k (min (d.goal k) saved / 0x100000))
      else s
    s.setPower { s.power with st := .off, wake := s.power.back }
  | _, _ => s)

/-- INPUT_RETURN (R53): noted during a drain, which runs to its end; input that returns after that powers the module on by
itself (log entry 146). -/
def execInputReturn (s : State) : Host.Outcome State Fault Refusal :=
  .next (match s.power.st with
  | .on => s
  | .draining => s.setPower { s.power with input := true, back := true }
  | .off => if s.power.input then s else s.setPower { s.power with input := true, wake := true })

/-! ## Power-on -/

/-- POWER_ON_RESET (R54): the machine as reset leaves it, with what the flash array and the fuses keep; the slot with the
highest valid SEQ that is not claimed is selected. At the first power-on every island is re-planned (R55). -/
def execPowerOnReset (sl15 : Bool) (s : State) : Host.Outcome State Fault Refusal :=
  .next (if s.power.st = .off ∧ s.power.wake then
    let p := s.power
    let r := State.reset
    { r with
      draws := s.draws
      nextId := s.nextId
      boot := { r.boot with ctr := s.boot.ctr }
      links := { r.links with sl15 := sl15 }
      power := { r.power with
        slotA := p.slotA, slotB := p.slotB, sel := p.newest, hours := p.hours, hoursAt := p.hoursAt, slack0 := p.slack0
        replan := if p.slack0.isEmpty then upto 256 else [] } }
  else s)

/-- SIDEBAND_POWER_ON (R30): the board controller orders power-on, while the main input is present. -/
def execSidebandPowerOn (s : State) : Host.Outcome State Fault Refusal :=
  .next (if s.power.st = .off ∧ s.power.input then s.setPower { s.power with wake := true } else s)

/-- SIDEBAND_POWER_OFF (R30): the board controller orders power-off, while the main input is present. -/
def execSidebandPowerOff (s : State) : Host.Outcome State Fault Refusal :=
  .next (if s.power.st = .on ∧ s.power.input then
    ({ s with focus := none, agenda := [] } : State).setPower { s.power with st := .off, wake := false }
  else s)

/-! ## Restart (R54, R424) -/

/-- The selected drain. -/
def Power.selected (p : Power) : Option Drain :=
  match p.sel with
  | some k => p.slot k
  | none => none

/-- DRSTAT (R424). -/
def State.drstat (s : State) : BitVec 64 :=
  match s.power.sel, s.power.selected with
  | some k, some d => BitVec.ofNat 64 (d.seq * 2 ^ 32 + s.fld 0x1A 4 4 * 16 + b2n s.power.restoring * 8 + k % 2 * 4 + 2
      + b2n d.claimed)
  | _, _ => BitVec.ofNat 64 (s.fld 0x1A 4 4 * 16 + b2n s.power.restoring * 8)

/-- Poisons line ln of a listed range that was not saved. -/
def State.poisonLine (s : State) (ln : Nat) (t : PTag) : State :=
  s.updLine ln (fun x => { x with pois := tagMin (some t) x.pois })

/-- Step 2 of R54 for one class: an error record with the number of lines, then the poison; the record's UNIT is 252
(log entry 149). -/
def State.poisonUnsaved (s : State) (cls : Nat) (ls : List Nat) : State :=
  match ls with
  | [] => s
  | ln :: _ =>
    let (slot, s) := s.record cls 0x0C 1 false (ln * 128) 252 0 0 none
    let i := cls * 512 + slot
    let s := if slot = 511 then s else (s.setRec i { s.rec_ i with count := ls.length }).recStore i
    ls.foldl (fun s ln => s.poisonLine ln (mkTag cls slot)) s

/-- Writes what was saved of section k to its place from DRDST, in whole chunks (R50, R54). -/
def State.copySection (s : State) (d : Drain) (base k : Nat) : State :=
  (upto ((d.now.saved.getD k 0 + 0xFFFFF) / 0x100000)).foldl (fun s j =>
    s.outsideWrite (base + (d.firstChunk k + j) * 0x100000) (d.chunk k j) none) s

/-- RESTORE (R54, R424): saved persist lines go back, unsaved lines of listed ranges are poisoned, and sections 1 to 4 are
copied to DRDST; an order after the first launch, or without a selected slot, sets ERR. -/
def State.doRestore (s : State) : State :=
  match s.power.selected with
  | none => s.setFld 0x1B 2 2 1
  | some d =>
    if s.kul.launched || s.power.restoring then s.setFld 0x1B 2 2 1
    else
      let all := persistLines (d.first.plist.map (fun r => (r.1, r.2.1, [])))
      let n := d.now.saved.getD 4 0 / 128
      let s := s.setPower { s.power with restoring := true }
      let s := (all.take n).foldl (fun s e =>
        s.outsideWrite (e.1 * 128) (memGetL d.bytes (e.1 * 128) 128) (mget? d.pois e.1)) s
      let lost := (all.drop n).map (·.1)
      let s := s.poisonUnsaved 0 (lost.filter (fun ln => inStack (ln * 128)))
      let s := s.poisonUnsaved 1 (lost.filter (fun ln => !inStack (ln * 128)))
      (upto 4).foldl (fun s k => s.copySection d (s.fld 0x1C 44 12 * 4096) k) s

def execRestore (s : State) : Host.Outcome State Fault Refusal := .next s.doRestore

/-- RESTORED (R424): RESTORE has completed, and launches are accepted. -/
def execRestored (s : State) : Host.Outcome State Fault Refusal :=
  .next (if s.power.restoring then (s.setPower { s.power with restoring := false }).setFld 0x1A 4 4 1 else s)

/-- CLAIM (R54, R424): the selected slot is claimed; without one, ERR is set. -/
def State.doClaim (s : State) : State :=
  match s.power.sel with
  | some k => s.updDrain k (fun d => { d with claimed := true })
  | none => s.setFld 0x1B 2 2 1

def execClaim (s : State) : Host.Outcome State Fault Refusal := .next s.doClaim

end Sys2Proof.Machine
end

