-- ==== Sys2Proof/Machine/SysRegs.lean ====
section
/-! DEFINITION. The system registers by number (R420 to R424): what each reads, what a write does, which a launch may
reach, SYSR and SYSW, and the BAR0 map (R59). -/

namespace Sys2Proof.Machine

/-- What SCHSTAT reads (R97). -/
def State.schstat (s : State) : BitVec 64 :=
  let a := ((mkeys s.kul.anchors).map (2 ^ ·)).foldl (· + ·) 0
  let o := (s.kul.waiters.filter (fun w => w.ovf.isSome)).length
  BitVec.ofNat 64 (s.fld 0x1D 1 0 + min o 0xFFFF * 2 ^ 32 + a % 65536 * 2 ^ 48)

/-- What register n reads (R422). Reading DBGD is a debug access (R256); no other read changes anything. -/
def State.sysRead (s : State) (n : Nat) : BitVec 64 × State :=
  if n ≤ 0xF then (s.slstat n, s)
  else if n = 0x18 then (s.tstat, s)
  else if n = 0x19 then (s.margcmd, s)
  else if n = 0x1A then (s.drstat, s)
  else if n = 0x1D then (s.schstat, s)
  else if n = 0x22 then (s.asctl, s)
  else if n = 0x2A then (s.dbgstat, s)
  else if n = 0x2D then s.readDbgd
  else if 0x330 ≤ n ∧ n ≤ 0x33F then (s.readPstat (n - 0x330), s)
  else (s.reg n, s)

/-- Clears by 1s the bits of register n that mask names (RW1C). -/
def State.clear1 (s : State) (n : Nat) (mask v : BitVec 64) : State := s.setReg n (s.reg n &&& ~~~(v &&& mask))

/-- A write of register n (R422), under each register's own rules. Numbers that are unassigned, and read-only registers,
ignore it. -/
def State.sysWrite (s : State) (n : Nat) (v : BitVec 64) : State :=
  if n ≤ 0xF then s.writeSlstat n v
  else if n ≤ 0x17 then s.writeTslvl (n - 0x10) v
  else if n = 0x18 then s.clear1 0x18 0xFFFF1000#64 v
  else if n = 0x19 then s.writeMargcmd v
  else if n = 0x1B then
    let s := s.clear1 0x1B 4#64 v
    let s := if b64 v 0 0 = 1 then s.doRestore else s
    if b64 v 1 1 = 1 then s.doClaim else s
  else if n = 0x1C then s.setReg n (v &&& 0x1FFFFFFFF000#64)
  else if n = 0x1D then s.clear1 0x1D 3#64 v
  else if n = 0x1E ∨ n = 0x1F then s.setReg n (v &&& 0xFFFFFFFF#64)
  else if n = 0x20 then s.writeFresume v
  else if n = 0x21 then s.setReg n (v &&& 0x1FFFFFFF0001#64)
  else if n = 0x22 then s.writeAsctl v
  else if n = 0x23 then s.writeErrbase v
  else if n = 0x24 then s.setReg n (v &&& 0x1F87FF#64)
  else if n = 0x25 then s.writeErrack v
  else if n = 0x26 then s.setReg n (v &&& 0xFFFFFFFFFF80#64)
  else if n = 0x27 then s.writeInjCtl v
  else if n = 0x28 then s.writeScrubctl v
  else if n = 0x29 then s.writeDbgctl v
  else if n = 0x2B then s.setReg n (v &&& 0x1FFFFFFFF000#64)
  else if n = 0x2C then s.setReg n v
  else if n = 0x2D then s.writeDbgd v
  else if n = 0x2E ∨ n = 0x2F ∨ n = 0x30 then s.setReg n (v &&& 0xFFFF#64)
  else if n = 0x31 then
    if s.fld 0x31 0 0 = 1 then s.setFld 0x31 0 0 (b64 v 0 0) else s.setReg n (v &&& 0x1FFFFFFFF001#64)
  else if n = 0x32 then (s.clear1 0x32 0xFFFFFFFF#64 v).setFld 0x32 41 32 (b64 v 41 32)
  else if n = 0x33 then s.setReg n (v &&& 0x1FFFFFFF0001#64)
  else if n = 0x34 then s.setReg n (v &&& 0xFFFFFF#64)
  else if n = 0x35 then s.setReg n (v &&& 0xFFFFFFFFFFFF#64)
  else if n = 0x36 then s.writeDevnum v
  else if 0x40 ≤ n ∧ n ≤ 0x4F then s.writePartctl (n - 0x40) v
  else if 0x50 ≤ n ∧ n ≤ 0x5F then s.setReg n (v &&& 0xF#64)
  else if 0x100 ≤ n ∧ n ≤ 0x1BF then s.writeCpart (n - 0x100) v
  else if 0x200 ≤ n ∧ n ≤ 0x2FF then s.clear1 n 2#64 v
  else if 0x300 ≤ n ∧ n ≤ 0x30F then s.writePctl (n - 0x300) v
  else if 0x310 ≤ n ∧ n ≤ 0x31F then s.writePbuf (n - 0x310) v
  else if 0x320 ≤ n ∧ n ≤ 0x32F then s.writePptr (n - 0x320) v
  else if 0x340 ≤ n ∧ n ≤ 0x34F then s.writePcnt (n - 0x340) v
  else s

/-! ## What a launch may reach (R422, R423) -/

/-- Gate bit b of SYSGATE of partition p. -/
def State.gate (s : State) (p b : Nat) : Bool := s.fld (0x50 + p) b b == 1

/-- A launch of partition p may read register n. -/
def State.mayRead (s : State) (p n : Nat) : Bool :=
  if (0x10 ≤ n ∧ n ≤ 0x18) ∨ (0x200 ≤ n ∧ n ≤ 0x2FF) then s.gate p 1
  else if n = 0x1D ∨ n = 0x1E ∨ n = 0x1F ∨ n = 0x35 then s.gate p 3
  else if n = 0x23 ∨ n = 0x24 ∨ n = 0x26 ∨ n = 0x27 ∨ n = 0x28 then s.gate p 2
  else if 0x300 ≤ n ∧ n ≤ 0x34F then n % 16 == p && s.gate p 0
  else false

/-- A launch of partition p may write v to register n. -/
def State.mayWrite (s : State) (p n : Nat) (v : BitVec 64) : Bool :=
  if 0x10 ≤ n ∧ n ≤ 0x17 then s.gate p 1
  else if n = 0x20 then s.gate p 3 && (s.queue (b64 v 9 0)).part == p
  else if n = 0x35 then s.gate p 3
  else if n = 0x25 ∨ n = 0x26 ∨ n = 0x27 then s.gate p 2
  else if 0x300 ≤ n ∧ n ≤ 0x34F then n % 16 == p && s.gate p 0
  else false

/-- Word j of a 64-bit value, in every lane. -/
def halves (v : BitVec 64) (j _l : Nat) : Val := clean (if j = 0 then v.truncate 32 else (v >>> 32).truncate 32)

/-- SYSR (R420): the register in the pair, tagged U. -/
def execSysr (d : BitVec 7) (n : BitVec 16) (s : State) : Host.Outcome State Fault Refusal :=
  s.issue (.sysr d n) anyMode fun c =>
    if c.act = 0#32 then s.advance c
    else if !s.mayRead c.l.part n.toNat then s.raiseAll c 5
    else
      let (v, s) := s.sysRead n.toNat
      (s.writeVs c d.toNat 2 c.act .U (halves v)).advance c

/-- SYSW (R420): the pair of the operand lane to the register; a release at DEV, and an escape in an open block. -/
def execSysw (d : BitVec 7) (n : BitVec 16) (s : State) : Host.Outcome State Fault Refusal :=
  s.issue (.sysw d n) anyMode fun c =>
    match c.opLane with
    | none => s.advance c
    | some l =>
      let lo := c.g.lane d.toNat l
      let hi := c.g.lane (d.toNat + 1) l
      let v := BitVec.ofNat 64 (lo.w.toNat + hi.w.toNat * 2 ^ 32)
      if lo.p.isSome || hi.p.isSome then s.raiseAll c 9
      else if !s.mayWrite c.l.part n.toNat v then s.raiseAll c 5
      else s.relThen c 31 4 [] noFault (fun s' =>
        if c.inBlock then s.escape c noFault else (s'.advance c).sysWrite n.toNat v)

/-! ## The BAR0 map (R59, R421) -/

/-- A write of a register of a completion queue: offset o in its 32 bytes (R59, R78). -/
def State.writeCqReg (s : State) (c o : Nat) (v : BitVec 64) : State := match o with
  | 0 => s.setCq c { s.cq c with base := v.toNat / 16 * 16 }
  | 8 => s.writeCqcfg c v
  | 16 => s.writeCqhead c v
  | _ => s.writeCqcoal c v

/-- A write of 8 bytes at a BAR0 offset; offsets outside the ranges ignore it (R59). -/
def State.bar0Write (s : State) (off : Nat) (v : BitVec 64) : State :=
  if off % 8 ≠ 0 then s
  else if off < 0x2000 then s.doorbell (off / 8) v
  else if off < 0x4000 then s.writeQbase ((off - 0x2000) / 8) v
  else if off < 0x6000 then s.writeCqReg ((off - 0x4000) / 32) ((off - 0x4000) % 32) v
  else if off < 0x6800 then
    { s with kul := { s.kul with pat := mput s.kul.pat ((off - 0x6000) / 8) (v &&& 0x3FFFFFFFFD#64) } }
  else if off = 0x6800 then { s with kul := { s.kul with patstat := s.kul.patstat &&& ~~~(v &&& 0xFFFFFFFF#64) } }
  else if 0x8000 ≤ off ∧ off < 0x8100 then s.writeBoot (off - 0x8000) v
  else if 0x10000 ≤ off ∧ off < 0x20000 then s.sysWrite ((off - 0x10000) / 8) v
  else s

/-- What 8 bytes at a BAR0 offset read (R59, R64, R421). -/
def State.bar0Read (s : State) (off : Nat) : BitVec 64 × State :=
  if off % 8 ≠ 0 then (0#64, s)
  else if off < 0x2000 then (0#64, s)
  else if off < 0x4000 then
    let x := s.queue ((off - 0x2000) / 8)
    (BitVec.ofNat 64 (x.addr / 64 * 64 + b2n x.enable), s)
  else if off < 0x6000 then
    let x := s.cq ((off - 0x4000) / 32)
    (match (off - 0x4000) % 32 with
    | 0 => BitVec.ofNat 64 x.base
    | 8 => x.cfg
    | 16 => BitVec.ofNat 64 (x.head + x.tail * 2 ^ 32)
    | _ => x.coal, s)
  else if off < 0x6800 then (s.pat ((off - 0x6000) / 8), s)
  else if off = 0x6800 then (s.kul.patstat, s)
  else if 0x8000 ≤ off ∧ off < 0x8100 then (s.readBoot (off - 0x8000), s)
  else if 0x10000 ≤ off ∧ off < 0x20000 then
    let n := (off - 0x10000) / 8
    if sysAssigned n then s.sysRead n else (0#64, s)
  else (0#64, s)

end Sys2Proof.Machine
end

