-- ==== Sys2Proof/Machine/HostPort.lean ====
section
/-! DEFINITION. The host port: registers as the host and the board controller reach them (R23, R30, R59, R421), and the host
tunnel (R17, R21, R22). What the rules leave to PCI Express follows its specification (log entry 129). -/

namespace Sys2Proof.Machine

/-! ## MSI-X (R23, R80) -/

/-- Sends the messages of pending vectors that nothing holds back any more. -/
def State.sendPending (s : State) : State :=
  let go := s.links.pci.pend.filter (fun n => !s.links.pci.holds n)
  let s := s.setPci { s.links.pci with pend := s.links.pci.pend.filter (fun n => s.links.pci.holds n) }
  go.foldl (fun s n => s.toHost (s.links.pci.message n)) s

/-- Changes the table entry of a vector, of which there are 2048. -/
def State.setVector (s : State) (n : Nat) (f : BitVec 64 × BitVec 32 × BitVec 32 → BitVec 64 × BitVec 32 × BitVec 32) : State :=
  if n < 2048 then
    (s.setPci { s.links.pci with table := mput s.links.pci.table n (f (s.links.pci.vector n)) }).sendPending
  else s

/-! ## Registers -/

/-- A register of the configuration space, not of a BAR. -/
def inConfig : HostReg → Bool
  | .bar0 _ | .vecAddr _ | .vecData _ | .vecCtl _ | .pending _ => false
  | _ => true

/-- The host reaches a register: those of BAR0 and BAR4 in D0 only. -/
def State.reaches (s : State) (r : HostReg) : Bool := inConfig r || !s.links.pci.d3hot

/-- A write of a register that the host reaches. -/
def State.hostRegWrite (s : State) (r : HostReg) (v : BitVec 64) : State :=
  let p := s.links.pci
  match r with
  | .bar0 off => s.bar0Write off v
  | .vecAddr n => s.setVector n (fun e => (v &&& ~~~3#64, e.2))
  | .vecData n => s.setVector n (fun e => (e.1, v.setWidth 32, e.2.2))
  | .vecCtl n => s.setVector n (fun e => (e.1, e.2.1, v.setWidth 32 &&& 1#32))
  | .pending _ => s
  | .msixCtl => (s.setPci { p with msixOn := b64 v 15 15 == 1, masked := b64 v 14 14 == 1 }).sendPending
  | .bar2Size => if 10 ≤ b64 v 5 0 ∧ b64 v 5 0 ≤ 19 then s.setPci { p with bar2 := b64 v 5 0 + 20 } else s
  | .powerState =>
    if b64 v 1 0 = 0 then (s.setPci { p with d3hot := false }).sendPending
    else if b64 v 1 0 = 3 then s.setPci { p with d3hot := true }
    else s
  | .aer => s.setPci { p with aer := p.aer &&& ~~~(v.setWidth 32) }
  | .aerCor => s.setPci { p with aerCor := p.aerCor &&& ~~~(v.setWidth 32) }
  | .aerCtl => s.setPci { p with ecrcGen := b64 v 6 6 == 1, ecrcChk := b64 v 8 8 == 1 }
  | .devCtl => s.setPci { p with devCtl := v.setWidth 16 }
  | .devCap | .devCap2 | .devCap3 | .linkCap | .linkSta => s

/-- What the host reads. The capabilities are those of R23: payloads up to 512 bytes, 14-bit tags, 128 GT/s on 16 lanes, no
L1, ECRC generated and checked. -/
def State.hostRegRead (s : State) (r : HostReg) : BitVec 64 × State :=
  let p := s.links.pci
  match r with
  | .bar0 off => s.bar0Read off
  | .vecAddr n => ((p.vector n).1, s)
  | .vecData n => ((p.vector n).2.1.setWidth 64, s)
  | .vecCtl n => ((p.vector n).2.2.setWidth 64, s)
  | .pending k => (BitVec.ofNat 64 (sumL ((upto 64).map (fun i => if p.pend.contains (64 * k + i) then 2 ^ i else 0))), s)
  | .msixCtl => (BitVec.ofNat 64 (2047 + b2n p.masked * 2 ^ 14 + b2n p.msixOn * 2 ^ 15), s)
  | .bar2Size => (BitVec.ofNat 64 (p.bar2 - 20), s)
  | .powerState => (if p.d3hot then 3#64 else 0#64, s)
  | .aer => (p.aer.setWidth 64, s)
  | .aerCor => (p.aerCor.setWidth 64, s)
  | .aerCtl => (BitVec.ofNat 64 (0xA0 + b2n p.ecrcGen * 2 ^ 6 + b2n p.ecrcChk * 2 ^ 8), s)
  | .devCap => (0x8022#64, s)
  | .devCap2 => (0x30000#64, s)
  | .devCap3 => (6#64, s)
  | .devCtl => (p.devCtl.setWidth 64, s)
  | .linkCap => (0x107#64, s)
  | .linkSta => (BitVec.ofNat 64 (p.rate + p.width * 2 ^ 4), s)

/-- The registers that the board controller reaches over the sideband: the numbers of the system registers (R421). -/
def onSideband : HostReg → Bool
  | .bar0 off => decide (0x10000 ≤ off ∧ off < 0x20000)
  | _ => false

/-- REGISTER_WRITE (R59, R421): the host writes a register while the device has power, or the board controller does while the
main input is present (R30). -/
def execRegisterWrite (at_ : RegAt) (v : BitVec 64) (s : State) : Host.Outcome State Fault Refusal :=
  .next (match at_.door with
  | .host => s.taken at_.ecrc (fun s => if s.power.st ≠ .off ∧ s.reaches at_.reg then s.hostRegWrite at_.reg v else s)
  | .sideband => if s.power.st ≠ .off ∧ s.power.input ∧ onSideband at_.reg then s.hostRegWrite at_.reg v else s)

/-! ## The tunnel (R17, R21, R22) -/

/-- Carries out a PCIe packet of the host on this module. -/
def State.hostTlp (s : State) (p : Tlp) : State :=
  match p with
  | .readReg r =>
    if s.reaches r then
      let (v, s) := s.hostRegRead r
      s.toHost (.data (bytesLE 8 v.toNat) false)
    else s
  | .writeReg r v => if s.reaches r then s.hostRegWrite r v else s
  | .readMem pa n => s.hostRead pa n
  | .writeMem pa data ep => s.hostWrite pa data ep
  | .badEcrc => s.taken false (fun s => s)
  | .hostWrite .. | .msix .. | .data .. => s

/-- The module takes an HTN packet addressed to a number: its own, or 0xFFF while it has none (R21). -/
def State.takesHtn (s : State) (beat : BitVec 512) : Bool := nbits beat.toNat 19 8 == s.devNum.getD 0xFFF

/-- HTN (R17, R18, R21): the host-port module sends the host's packets on, those for 0xFFF over BRPORT and the others over the
port of the module they name, and hands packets that a served module sends it to the host. A module without a host port takes
the packets addressed to it as host traffic, and answers over the port by which they came (log entry 131). -/
def execHtn (port : BitVec 4) (beat : BitVec 512) (tlp : Tlp) (s : State) : Host.Outcome State Fault Refusal :=
  let n := port.toNat
  let dest := nbits beat.toNat 19 8
  .next (if nbits beat.toNat 7 0 ≠ 6 || !s.linksUp then s
  else if s.links.sl15 && n = 15 then
    (match if dest = 0xFFF then some (s.fld 0x36 19 16) else s.portTo dest with
    | some p => if s.isScasutal p && (s.port p).trained then s.send (.htn p beat tlp) else s
    | none => s)
  else if !(s.port n).trained || !s.takesHtn beat then s
  else if s.links.sl15 then s.send (.host tlp)
  else (({ s with links := { s.links with htnPort := some n } } : State).hostTlp tlp))

end Sys2Proof.Machine
end

