-- ==== Sys2Proof/Machine/Recovery.lean ====
section
/-! DEFINITION. The failure of a recovery block: the cycle limit (R130), rollback (R131 to R134, R136) and the closing
walk (R330). -/

namespace Sys2Proof.Machine

/-! ## The cycle limit -/

/-- How far from the innermost the outermost open block stands that has reached its cycle limit (R130). -/
def Wg.overLimit (w : Wg) : Option Nat :=
  ((w.blocks.zipIdx.filter (fun e => e.1.limit != 0 && e.1.limit ≤ e.1.cycles)).map (·.2)).getLast?

/-- CYCLE_LIMIT (R130): the outermost block whose cycle count has reached its limit fails with cause 1. -/
def execCycleLimit (wk : Nat) (s : State) : Host.Outcome State Fault Refusal :=
  .next (match mget? s.wgs wk with
  | none => s
  | some w => match w.overLimit with
    | some d => if s.wgStopped wk then s else s.failBlock wk 1 d 0 false
    | none => s)

/-! ## What rollback waits for -/

/-- A started operation that rollback waits for: a copy, or a matrix operation that stores (R131, R391). -/
def QOp.stores (o : QOp) : Bool :=
  match o.op with
  | .mma .. | .mzero .. | .mld .. | .mckv .. | .mckc .. => false
  | _ => true

/-- An issued access that writes coherent storage and is not performed. -/
def Pend.storesGlobal (p : Pend) : Bool :=
  (match p.op with
  | .store _ | .atom .. | .sc _ => true
  | _ => false) &&
  p.acc.any (fun a => match a.loc with
    | .mem _ => true
    | _ => false)

/-- Everything that rollback waits for has been performed (R131); it waits for the end of a debug stop too (R333). -/
def State.rollReady (s : State) (wk : Nat) : Bool :=
  !s.wgStopped wk &&
  (mvals (s.groupsOf wk)).all (fun g => !g.ops.any QOp.stores && !g.pend.any Pend.storesGlobal)

/-- The outermost block of a workgroup in a conversation is failing. -/
def Wg.failsOuter (w : Wg) : Bool :=
  w.conv.isSome && (match w.failing with
  | some f => f.depth + 1 == w.blocks.length
  | none => false)

/-- The workgroups whose blocks roll back together with that of wk (R136). -/
def State.rollGroup (s : State) (wk : Nat) : List Nat :=
  match mget? s.wgs wk with
  | none => []
  | some w =>
    if w.failsOuter then
      (upto 24).map (wgKey w.gang) |>.filter (fun o => match mget? s.wgs o with
        | some x => x.conv == w.conv && x.failsOuter
        | none => false)
    else [wk]

/-! ## Restoring (R131, R132) -/

/-- Writes bytes of a scratchpad and the poison of the sectors they lie in; errors in what is replaced whole by clean data go
unfound (R436). -/
def State.scrRestore (s : State) (wk off : Nat) (bs : List Byte) (ps : List (Option PTag)) : State :=
  match mget? s.wgs wk with
  | none => s
  | some w => match w.scrAt off with
    | none => s
    | some a =>
      let s := s.updWg wk (fun w => { w with
        sram := memPutL w.sram a bs
        spois := ps.zipIdx.foldl (fun m e => match e.1 with
          | some t => mput m (a / 32 + e.2) t
          | none => mdel m (a / 32 + e.2)) w.spois })
      ps.zipIdx.foldl (fun s e => s.dropSram wk (a + 32 * e.2) (min 32 (bs.length - 32 * e.2)) e.1) s

/-- The entries of a block, newest first, with the offset of each in the log of its workgroup; base is where the oldest one
stands (R132). -/
def logSpots (base : Nat) : List LogEntry → List (LogEntry × Nat)
  | [] => []
  | e :: older => (e, base + sumL (older.map LogEntry.size)) :: logSpots base older

/-- The offset in the log of what bank place a holds, when its bank is in log mode (R132). -/
def Wg.logOff (w : Wg) (a : Nat) : Option Nat :=
  let i := w.logList.findIdx (· == a / 0x20000)
  if i < w.logList.length then some (i * 0x20000 + a % 0x20000) else none

/-- Rollback reads the log from offset lo: the tags of the 32-byte sectors in which it finds errors that the check does not
correct, by log offset / 32 (R208, R436). -/
def State.checkLog (s : State) (wk lo hi : Nat) : Map PTag × State :=
  match mget? s.wgs wk with
  | none => ([], s)
  | some w => s.rel.latent.foldl (fun acc f => match f.at_ with
    | .sram w' k => match w.logOff (8 * k) with
      | some o =>
        if w' = wk && lo < o + 8 && o < hi then
          let bank := match mget? w.banks (k / 16384) with
            | some b => b.phys.getD 0
            | none => 0
          let own := acc.2.ownerOf wk
          match acc.2.findFlaw f.at_ 3 (w.core + (0x20 + bank) * 256) 0 own.1 own.2 with
          | (some t, s) => (mput acc.1 (o / 32) ((tagMin (some t) (mget? acc.1 (o / 32))).getD t), s)
          | (none, s) => (acc.1, s)
        else acc
      | none => acc
    | _ => acc) ([], s)

/-- The lowest tag of the poisoned sectors among the n bytes at offset o of the log. -/
def logTag (m : Map PTag) (o n : Nat) : Option PTag :=
  tagMinL ((upto ((o + n + 31) / 32 - o / 32)).map (fun i => mget? m (o / 32 + i)))

/-- A pre-image as rollback reads it from offset o of the log: what lies in a poisoned sector is poisoned, and where the location
holds no poison (a handle, FIFO pointers) its value is free (R208, log entry 177). -/
def LogEntry.readAt (m : Map PTag) (o d : Nat) : LogEntry → LogEntry
  | .reg k r old =>
    let t := fun l => if old.tag = .G ∨ old.pois ≠ [] then logTag m (o + 8 + 4 * l) 4 else logTag m (o + 8) 8
    let bad := maskOf (fun l => (t l).isSome)
    .reg k r (if bad = 0#32 then old else old.write bad .G (fun l => { w := 0#32, p := t l }) d)
  | .word own w off v p => .word own w off v (tagMin (logTag m (o + 8) 4) p)
  | .line ln v p => .line ln v (tagMin (logTag m (o + 16) 128) p)
  | .tile t x =>
    let ps := (upto 64).foldl (fun ps i => match logTag m (o + 8 + 256 * i) 256 with
      | some g => mput ps i ((tagMin (some g) (mget? ps i)).getD g)
      | none => ps) x.pois
    .tile t { x with pois := ps }
  | .handle h old =>
    let lost := fun (x : Handle) =>
      { x with base := Config.freeNat d, limit := Config.freeNat (d + 1) % 2 ^ 32, path := Config.freeNat (d + 2) % 16 }
    .handle h (if (logTag m (o + 8) 32).isSome then old.map lost else old)
  | .fifo b k => .fifo b (if (logTag m (o + 8) 8).isNone then k
      else { k with rp := Config.freeNat d % k.depth, wp := Config.freeNat (d + 1) % k.depth })
  | .granule w off v ps => .granule w off v (ps.zipIdx.map (fun e => tagMin (logTag m (o + 8 + 32 * e.2) 32) e.1))

/-- A group of a frame as rollback reads it from offset o of the log: a frame holds no poison, so that what lies in a poisoned
sector is free (R132, R208, log entry 177). -/
def GroupFrame.readAt (m : Map PTag) (o d : Nat) (f : GroupFrame) : GroupFrame :=
  let lost := fun (at_ n x : Nat) (old : Map Word) => (upto n).foldl (fun p i =>
    if (logTag m (at_ + 4 * i) 4).isSome then mput p i (Config.freeWord (d + x + i)) else p) old
  { f with
    preds := lost o 7 0 f.preds
    m := if (logTag m (o + 28) 2).isSome then (Config.freeWord (d + 7)).truncate 16 else f.m
    srctr := lost (o + 64) 32 8 f.srctr }

/-- Is this the pre-image of a line of coherent storage? -/
def LogEntry.global : LogEntry → Bool
  | .line .. => true
  | _ => false

/-- Gives a location its pre-image back (R131); errors in what is replaced whole go unfound (R436). -/
def State.restoreEntry (s : State) (wk core writer : Nat) (e : LogEntry) : State :=
  match e with
  | .reg k r old =>
    (s.updGroup (groupKey wk k) (fun g => { g with regs := mput g.regs r old })).dropReg (groupKey wk k) r (BitVec.allOnes 32)
  | .word _ w off old p => s.scrRestore w off (bytesLE 4 old.toNat) [p]
  | .line ln old p => (s.writeLine core (ln * 128) (bytesLE 128 old.toNat) .l2 none writer).updLine ln (fun x => { x with pois := p })
  | .tile t old => (s.updWg wk (fun w => { w with tiles := mput w.tiles t old })).dropFlaws (fun p => match p with
      | .row w x _ => w = wk && x = t
      | _ => false)
  | .handle h old => s.updWg wk (fun w =>
      { w with handles := match old with
        | some x => mput w.handles h x
        | none => mdel w.handles h })
  | .fifo b old => s.updWg wk (fun w => { w with banks := mupd w.banks b (fun x =>
      { x with wp := old.wp, rp := old.rp, count := old.count, held := old.held }) })
  | .granule w off old ps => s.scrRestore w off (bytesLE 128 old.toNat) ps

/-- A group as its frame has it: predicates, mode, counters, and one converged split of the lanes active at ENSURE that have
not exited since (R108); its flags are zero, what it had issued counts on none of them any more (log entry 135), and its
watches, reservations and delayed faults are gone (R131, R187, R391). -/
def Group.restore (g : Group) (f : GroupFrame) : Group :=
  let m := f.lanes &&& ~~~ g.exited
  let sp : Split := { Split.start m 0 with
    st := .live 0, stall := 22, handler := f.ret.isSome, ret := (f.ret.getD (0, 0)).1, fcode := (f.ret.getD (0, 0)).2 }
  { g with
    preds := f.preds, m := f.m, srctr := f.srctr, finfo := f.finfo, flags := [], watches := [], resv := [], delayed := []
    pend := g.pend.map (fun p => { p with flag := 15 }), ops := g.ops.map (fun o => { o with flag := 15 }), heldDec := []
    fences := [], ars := [], pub := [], vote := none, splits := if m = 0#32 then [] else [sp] }

/-- Undoes the failing block of a workgroup (R131 up to the clearing of the flags): the block is the only one left of those
that failed, with its log empty. -/
def State.undo (s : State) (wk : Nat) : State :=
  match s.launchOf wk with
  | none => s
  | some (w, _, l) => match w.failing with
    | none => s
    | some f =>
      let outer := w.blocks.drop (f.depth + 1)
      let lo := { w with blocks := outer }.logUsed l
      let (bad, s) := s.checkLog wk lo (w.logUsed l)
      let bs := w.blocks.take (f.depth + 1)
      let es := bs.zipIdx.flatMap (fun e =>
        logSpots ({ w with blocks := w.blocks.drop (e.2 + 1) }.logUsed l + frameSize l) e.1.log)
      let es := es.zipIdx.map (fun e => e.1.1.readAt bad e.1.2 (s.draws + 64 * e.2))
      let s := s.draw (64 * es.length)
      let s := s.updWg wk (fun w => { w with ensureEnd := none })
      let s := { s with groups := mmap s.groups (fun _ g => if g.wg = wk then { g with watches := [] } else g) }
      let s := (es.filter LogEntry.global).foldl (fun s e => s.restoreEntry wk w.core l.space e) s
      let s := (es.filter (fun e => !e.global)).foldl (fun s e => s.restoreEntry wk w.core l.space e) s
      match bs.getLast? with
      | none => s
      | some b =>
        let b' : Block := { b with log := [], inTest := false, cycles := 0 }
        let s := s.updWg wk (fun w => { w with
          blocks := b' :: w.blocks.drop (f.depth + 1)
          pushes := w.pushes.take b.pushes0
          dirty := b.dirty0 })
        let s := b.frames.zipIdx.foldl (fun s e =>
          s.updGroup (groupKey wk e.1.k) (fun g => g.restore (e.1.readAt bad (lo + 64 + 192 * e.2) (s.draws + 64 * e.2)))) s
        let s := s.draw (64 * b.frames.length)
        s.emitBlock wk 2 f.cause (w.blocks.length - f.depth)

/-- Every split of a workgroup stands at word t. -/
def State.startAt (s : State) (wk t : Nat) : State :=
  { s with groups := mmap s.groups (fun _ g =>
      if g.wg = wk then { g with splits := g.splits.map (fun p => { p with pc := t }) } else g) }

/-! ## The closing walk (R330) -/

/-- The word after the block's ACCEPT: the walk stands at word t, r words of a clause are left, d blocks are open in it;
fuel is the number of words. None when the walk fails. -/
def State.closing (s : State) (c : Ctx) (t r d : Nat) : Nat → Option Nat × State
  | 0 => (none, s)
  | fuel + 1 =>
    match s.fetch c t with
    | (.inl _, s) => (none, s)
    | (.inr w, s) =>
      if r = 0 then
        if isHeader w then s.closing c (t + 1) (nbits w.toNat 4 1) d fuel else (none, s)
      else match decodeWord w with
        | .ok (.ensure _ _) => s.closing c (t + 1) (r - 1) (d + 1) fuel
        | .ok (.accept _) => if d = 0 then (some (t + 1), s) else s.closing c (t + 1) (r - 1) (d - 1) fuel
        | .ok (.jtab _ n) => s.closing c (t + 1 + n.toNat) (r - 1) d fuel
        | .ok (.switch _ n) => s.closing c (t + 1 + n.toNat) (r - 1) d fuel
        | _ => s.closing c (t + 1) (r - 1) d fuel

/-! ## After the rollback -/

/-- The failed block has no routine left (R134): it closes, and the enclosing block fails with the same cause; at depth 0
the workgroup goes on after the ACCEPT, and the launch counts the failure. -/
def State.propagate (s : State) (wk : Nat) (f : Failing) (term : Nat) : State :=
  match s.launchOf wk with
  | none => s
  | some (w, gg, _) =>
    let s := s.updWg wk (fun w => { w with blocks := w.blocks.drop 1, rbcause := f.cause, failing := none })
    if 1 < w.blocks.length then s.failBlock wk f.cause 0 0 false
    else
      let s := s.updLaunch gg.launch (fun l => { l with rfail := satAdd 255 l.rfail 1, rcause := f.cause })
      if f.atAccept then s.startAt wk (f.pc + 1)
      else match s.wgCtx wk with
        | none => s
        | some c => match s.chain c term (2 ^ 22) with
          | (none, s) => s.raiseWg wk 0x0F (some term)
          | (some e, s) => match s.closing c (e + 1) 0 0 (2 ^ 22) with
            | (some t, s) => s.startAt wk t
            | (none, s) => s.raiseWg wk 0x0F (some e)

/-- What follows the undoing of a block (R131): its alternate, propagation when last says that no routine is left, or the
fault of a word that is no terminator. -/
def State.nextRoutine (s : State) (wk : Nat) (last : Bool) : State :=
  match mget? s.wgs wk, s.wgCtx wk with
  | some w, some c => (match w.blocks, w.failing with
    | b :: rest, some f =>
      let (t, s) := s.termAt c b.term
      if t = .bad then
        (s.updWg wk (fun w => { w with failing := none })).raiseWg wk 0x0F (some b.term)
      else if last then s.propagate wk f b.term
      else match t with
        | .next n =>
          let s := s.updWg wk (fun w =>
            { w with blocks := { b with term := b.term + n } :: rest, rbcause := f.cause, failing := none })
          s.startAt wk (b.term + 1)
        | _ => s
    | _, _ => s.updWg wk (fun w => { w with failing := none }))
  | some _, none => s.updWg wk (fun w => { w with failing := none, blocks := [] })
  | none, _ => s

/-- The terminator of a workgroup's innermost block is an ELSEERR. -/
def State.noneLeft (s : State) (wk : Nat) : Bool × State :=
  match mget? s.wgs wk, s.wgCtx wk with
  | some w, some c => (match w.blocks with
    | b :: _ => (match s.termAt c b.term with
      | (.last, s) => (true, s)
      | (_, s) => (false, s))
    | [] => (false, s))
  | _, _ => (false, s)

/-- ROLLBACK (R131): once everything it waits for has been performed, the failing block of the workgroup, and those of the
other members of its conversation, are undone; their next routines start together, or all propagate (R136). -/
def execRollback (wk : Nat) (s : State) : Host.Outcome State Fault Refusal :=
  .next (match mget? s.wgs wk with
  | none => s
  | some w =>
    let ws := s.rollGroup wk
    if w.failing.isNone || !ws.all s.rollReady then s
    else
      let s := ws.foldl (fun s k => s.undo k) s
      let (last, s) := ws.foldl (fun (acc : Bool × State) k =>
        let (x, s) := acc.2.noneLeft k
        (acc.1 || x, s)) (false, s)
      ws.foldl (fun s k => s.nextRoutine k last) s)

end Sys2Proof.Machine
end

