-- ==== Sys2Proof/Machine/Dispatch.lean ====
section
/-! DEFINITION. What every instruction and every event does: one arm for each. -/

namespace Sys2Proof.Machine

/-- The meaning of an instruction or an event in a state. -/
def exec (i : Instr) (s : State) : Host.Outcome State Fault Refusal :=
  match i with
  | .clause w a b l y => Sys2Proof.Machine.execClause w a b l y s
  | .bra o => Sys2Proof.Machine.execBra o s
  | .braAny o => Sys2Proof.Machine.execBraAny o s
  | .braAll o => Sys2Proof.Machine.execBraAll o s
  | .call o => Sys2Proof.Machine.execCall o s
  | .brx a => Sys2Proof.Machine.execBrx a s
  | .callx a => Sys2Proof.Machine.execCallx a s
  | .ret a => Sys2Proof.Machine.execRet a s
  | .jtab a n => Sys2Proof.Machine.execJtab a n s
  | .switch a n => Sys2Proof.Machine.execSwitch a n s
  | .join => Sys2Proof.Machine.execJoin s
  | .exit => Sys2Proof.Machine.execExit s
  | .nop => Sys2Proof.Machine.execNop s
  | .yield => Sys2Proof.Machine.execYield s
  | .ensure c e => Sys2Proof.Machine.execEnsure c e s
  | .elseby n => Sys2Proof.Machine.execElseby n s
  | .elseerr => Sys2Proof.Machine.execElseerr s
  | .accept p => Sys2Proof.Machine.execAccept p s
  | .reject => Sys2Proof.Machine.execReject s
  | .convj a h => Sys2Proof.Machine.execConvj a h s
  | .convl => Sys2Proof.Machine.execConvl s
  | .setm v => Sys2Proof.Machine.execSetm v s
  | .setmRegister x => Sys2Proof.Machine.execSetmRegister x s
  | .getm d => Sys2Proof.Machine.execGetm d s
  | .trap c => Sys2Proof.Machine.execTrap c s
  | .bkpt t => Sys2Proof.Machine.execBkpt t s
  | .eret => Sys2Proof.Machine.execEret s
  | .eretSkip => Sys2Proof.Machine.execEretSkip s
  | .vadd d a b => Sys2Proof.Machine.execVadd d a b s
  | .vsub d a b => Sys2Proof.Machine.execVsub d a b s
  | .vmul d a b => Sys2Proof.Machine.execVmul d a b s
  | .vmulh d a b => Sys2Proof.Machine.execVmulh d a b s
  | .vmad d a b => Sys2Proof.Machine.execVmad d a b s
  | .vmin d a b => Sys2Proof.Machine.execVmin d a b s
  | .vmax d a b => Sys2Proof.Machine.execVmax d a b s
  | .vabs d a => Sys2Proof.Machine.execVabs d a s
  | .vneg d a => Sys2Proof.Machine.execVneg d a s
  | .vdot4 d a b => Sys2Proof.Machine.execVdot4 d a b s
  | .vand d a b => Sys2Proof.Machine.execVand d a b s
  | .vor d a b => Sys2Proof.Machine.execVor d a b s
  | .vxor d a b => Sys2Proof.Machine.execVxor d a b s
  | .vshl d a b => Sys2Proof.Machine.execVshl d a b s
  | .vshr d a b => Sys2Proof.Machine.execVshr d a b s
  | .vrol d a b => Sys2Proof.Machine.execVrol d a b s
  | .vclz d a => Sys2Proof.Machine.execVclz d a s
  | .vpopc d a => Sys2Proof.Machine.execVpopc d a s
  | .vbrev d a => Sys2Proof.Machine.execVbrev d a s
  | .vbfe d a b => Sys2Proof.Machine.execVbfe d a b s
  | .vbfi d a b => Sys2Proof.Machine.execVbfi d a b s
  | .vmov d a => Sys2Proof.Machine.execVmov d a s
  | .vtag d a => Sys2Proof.Machine.execVtag d a s
  | .vpack d a b => Sys2Proof.Machine.execVpack d a b s
  | .vunpk d a => Sys2Proof.Machine.execVunpk d a s
  | .vcmp p a b c => Sys2Proof.Machine.execVcmp p a b c s
  | .vsel d a x p b => Sys2Proof.Machine.execVsel d a x p b s
  | .vaddi d a im => Sys2Proof.Machine.execVaddi d a im s
  | .vandi d a im => Sys2Proof.Machine.execVandi d a im s
  | .vori d a im => Sys2Proof.Machine.execVori d a im s
  | .vxori d a im => Sys2Proof.Machine.execVxori d a im s
  | .vshli d a k => Sys2Proof.Machine.execVshli d a k s
  | .vshri d a k => Sys2Proof.Machine.execVshri d a k s
  | .vcmpi c p a im => Sys2Proof.Machine.execVcmpi c p a im s
  | .vaff d a im => Sys2Proof.Machine.execVaff d a im s
  | .vmovi d im => Sys2Proof.Machine.execVmovi d im s
  | .vlui d im => Sys2Proof.Machine.execVlui d im s
  | .vbcast d a b => Sys2Proof.Machine.execVbcast d a b s
  | .vshfl d a b => Sys2Proof.Machine.execVshfl d a b s
  | .vshfx d a b => Sys2Proof.Machine.execVshfx d a b s
  | .vred d a o => Sys2Proof.Machine.execVred d a o s
  | .vscan d a e o => Sys2Proof.Machine.execVscan d a e o s
  | .pand d a b => Sys2Proof.Machine.execPand d a b s
  | .por d a b => Sys2Proof.Machine.execPor d a b s
  | .pxor d a b => Sys2Proof.Machine.execPxor d a b s
  | .pnot d a => Sys2Proof.Machine.execPnot d a s
  | .ballot d a => Sys2Proof.Machine.execBallot d a s
  | .pmask d a => Sys2Proof.Machine.execPmask d a s
  | .vfadd d a b t => Sys2Proof.Machine.execVfadd d a b t s
  | .vfsub d a b t => Sys2Proof.Machine.execVfsub d a b t s
  | .vfmul d a b t => Sys2Proof.Machine.execVfmul d a b t s
  | .vfma d a b t => Sys2Proof.Machine.execVfma d a b t s
  | .vfmin d a b t => Sys2Proof.Machine.execVfmin d a b t s
  | .vfmax d a b t => Sys2Proof.Machine.execVfmax d a b t s
  | .vfdiv d a b t => Sys2Proof.Machine.execVfdiv d a b t s
  | .vfcmp p a b c => Sys2Proof.Machine.execVfcmp p a b c s
  | .vrcp d a t => Sys2Proof.Machine.execVrcp d a t s
  | .vrsq d a t => Sys2Proof.Machine.execVrsq d a t s
  | .vsqrt d a t => Sys2Proof.Machine.execVsqrt d a t s
  | .vexp2 d a t => Sys2Proof.Machine.execVexp2 d a t s
  | .vlog2 d a t => Sys2Proof.Machine.execVlog2 d a t s
  | .vsin d a t => Sys2Proof.Machine.execVsin d a t s
  | .vcos d a t => Sys2Proof.Machine.execVcos d a t s
  | .vfrnd d a t => Sys2Proof.Machine.execVfrnd d a t s
  | .vcvt d a y t => Sys2Proof.Machine.execVcvt d a y t s
  | .vcvtn d a f t => Sys2Proof.Machine.execVcvtn d a f t s
  | .vamax d a n => Sys2Proof.Machine.execVamax d a n s
  | .vscl d a f t => Sys2Proof.Machine.execVscl d a f t s
  | .vrand d n => Sys2Proof.Machine.execVrand d n s
  | .vspr d n => Sys2Proof.Machine.execVspr d n s
  | .ld d a h z x => Sys2Proof.Machine.execLd d a h z x s
  | .st d a h x => Sys2Proof.Machine.execSt d a h x s
  | .lda d a h x c => Sys2Proof.Machine.execLda d a h x c s
  | .strl d a h x c => Sys2Proof.Machine.execStrl d a h x c s
  | .ldw d a h x t => Sys2Proof.Machine.execLdw d a h x t s
  | .chk m o => Sys2Proof.Machine.execChk m o s
  | .fence p x k => Sys2Proof.Machine.execFence p x k s
  | .atom d a h x n o => Sys2Proof.Machine.execAtom d a h x n o s
  | .atomAcq d a h x n o => Sys2Proof.Machine.execAtomAcq d a h x n o s
  | .atomRel d a h x n o => Sys2Proof.Machine.execAtomRel d a h x n o s
  | .atomAr d a h x n o => Sys2Proof.Machine.execAtomAr d a h x n o s
  | .lr d a h z q c => Sys2Proof.Machine.execLr d a h z q c s
  | .sc d a h z q c => Sys2Proof.Machine.execSc d a h z q c s
  | .pref a h l => Sys2Proof.Machine.execPref a h l s
  | .hload e x => Sys2Proof.Machine.execHload e x s
  | .cbinv => Sys2Proof.Machine.execCbinv s
  | .cpy d a b q => Sys2Proof.Machine.execCpy d a b q s
  | .cpyb d a b q => Sys2Proof.Machine.execCpyb d a b q s
  | .cpyxG d a b q => Sys2Proof.Machine.execCpyxG d a b q s
  | .cpyxS d a b q => Sys2Proof.Machine.execCpyxS d a b q s
  | .qfence m => Sys2Proof.Machine.execQfence m s
  | .mma f t a b => Sys2Proof.Machine.execMma f t a b s
  | .mmack f t a b => Sys2Proof.Machine.execMmack f t a b s
  | .mzero m => Sys2Proof.Machine.execMzero m s
  | .mld t a h => Sys2Proof.Machine.execMld t a h s
  | .mst t a h => Sys2Proof.Machine.execMst t a h s
  | .mstn f t a h => Sys2Proof.Machine.execMstn f t a h s
  | .mckv d t b => Sys2Proof.Machine.execMckv d t b s
  | .mckc t q => Sys2Proof.Machine.execMckc t q s
  | .wbar => Sys2Proof.Machine.execWbar s
  | .gbar => Sys2Proof.Machine.execGbar s
  | .fpush d b => Sys2Proof.Machine.execFpush d b s
  | .fpop d b => Sys2Proof.Machine.execFpop d b s
  | .bankm d e m b => Sys2Proof.Machine.execBankm d e m b s
  | .evsigAdd a b => Sys2Proof.Machine.execEvsigAdd a b s
  | .evsigSet a b => Sys2Proof.Machine.execEvsigSet a b s
  | .evsigClr a => Sys2Proof.Machine.execEvsigClr a s
  | .evqry d a => Sys2Proof.Machine.execEvqry d a s
  | .trace d c => Sys2Proof.Machine.execTrace d c s
  | .tmark c => Sys2Proof.Machine.execTmark c s
  | .sysr d n => Sys2Proof.Machine.execSysr d n s
  | .sysw d n => Sys2Proof.Machine.execSysw d n s
  | .waitf m => Sys2Proof.Machine.execWaitf m s
  | .halt => Sys2Proof.Machine.execHalt s
  | .splitRotation g ix => Sys2Proof.Machine.execSplitRotation g ix s
  | .gbarRelease gang => Sys2Proof.Machine.execGbarRelease gang s
  | .delayedAccessFault g id => Sys2Proof.Machine.execDelayedAccessFault g id s
  | .blockOpen w => Sys2Proof.Machine.execBlockOpen w s
  | .routineEnd w => Sys2Proof.Machine.execRoutineEnd w s
  | .cycleLimit w => Sys2Proof.Machine.execCycleLimit w s
  | .rollback w => Sys2Proof.Machine.execRollback w s
  | .conversationJoined gang members => Sys2Proof.Machine.execConversationJoined gang members s
  | .returnWritten g id => Sys2Proof.Machine.execReturnWritten g id s
  | .writesPerformed g id => Sys2Proof.Machine.execWritesPerformed g id s
  | .groupRetire g => Sys2Proof.Machine.execGroupRetire g s
  | .launchRetire l => Sys2Proof.Machine.execLaunchRetire l s
  | .cqCoalesceTimer q => Sys2Proof.Machine.execCqCoalesceTimer q s
  | .kulintangRound => Sys2Proof.Machine.execKulintangRound s
  | .waiterFire n => Sys2Proof.Machine.execWaiterFire n s
  | .damaviRetransmit conn psn => Sys2Proof.Machine.execDamaviRetransmit conn psn s
  | .sendRetry conn psn => Sys2Proof.Machine.execSendRetry conn psn s
  | .taborLoopTick projected seen => Sys2Proof.Machine.execTaborLoopTick projected seen s
  | .powerFail energy => Sys2Proof.Machine.execPowerFail energy s
  | .drainSectionEnd => Sys2Proof.Machine.execDrainSectionEnd s
  | .drainEnd => Sys2Proof.Machine.execDrainEnd s
  | .holdupExhausted saved => Sys2Proof.Machine.execHoldupExhausted saved s
  | .inputReturn => Sys2Proof.Machine.execInputReturn s
  | .powerOnReset sl15 => Sys2Proof.Machine.execPowerOnReset sl15 s
  | .sidebandPowerOn => Sys2Proof.Machine.execSidebandPowerOn s
  | .sidebandPowerOff => Sys2Proof.Machine.execSidebandPowerOff s
  | .restore => Sys2Proof.Machine.execRestore s
  | .restored => Sys2Proof.Machine.execRestored s
  | .claim => Sys2Proof.Machine.execClaim s
  | .margcmdStart v => Sys2Proof.Machine.execMargcmdStart v s
  | .replanTimer hours => Sys2Proof.Machine.execReplanTimer hours s
  | .replanIsland readings => Sys2Proof.Machine.execReplanIsland readings s
  | .marginLowerApply island => Sys2Proof.Machine.execMarginLowerApply island s
  | .bootgo => Sys2Proof.Machine.execBootgo s
  | .bundleStart => Sys2Proof.Machine.execBundleStart s
  | .commit => Sys2Proof.Machine.execCommit s
  | .atgo => Sys2Proof.Machine.execAtgo s
  | .atdone => Sys2Proof.Machine.execAtdone s
  | .cpartWrite n v => Sys2Proof.Machine.execCpartWrite n v s
  | .partctlWrite n v => Sys2Proof.Machine.execPartctlWrite n v s
  | .placementPass p => Sys2Proof.Machine.execPlacementPass p s
  | .placementRetry p => Sys2Proof.Machine.execPlacementRetry p s
  | .drainComplete q => Sys2Proof.Machine.execDrainComplete q s
  | .drainLimit q => Sys2Proof.Machine.execDrainLimit q s
  | .save gang => Sys2Proof.Machine.execSave gang s
  | .saveLimit q => Sys2Proof.Machine.execSaveLimit q s
  | .fresumeReplay v => Sys2Proof.Machine.execFresumeReplay v s
  | .fresumeSkip v => Sys2Proof.Machine.execFresumeSkip v s
  | .fresumeExit v => Sys2Proof.Machine.execFresumeExit v s
  | .ownershipRequest die line => Sys2Proof.Machine.execOwnershipRequest die line s
  | .revalidation die line => Sys2Proof.Machine.execRevalidation die line s
  | .watchVerdict g n => Sys2Proof.Machine.execWatchVerdict g n s
  | .wrapClear die line => Sys2Proof.Machine.execWrapClear die line s
  | .asctlInval v => Sys2Proof.Machine.execAsctlInval v s
  | .asctlAdvance v => Sys2Proof.Machine.execAsctlAdvance v s
  | .asctlDone => Sys2Proof.Machine.execAsctlDone s
  | .copyStart g q => Sys2Proof.Machine.execCopyStart g q s
  | .copyDone g q => Sys2Proof.Machine.execCopyDone g q s
  | .copyStop g q => Sys2Proof.Machine.execCopyStop g q s
  | .matrixOpStart core => Sys2Proof.Machine.execMatrixOpStart core s
  | .matrixOpDone core => Sys2Proof.Machine.execMatrixOpDone core s
  | .scrub found => Sys2Proof.Machine.execScrub found s
  | .injArm v => Sys2Proof.Machine.execInjArm v s
  | .errackFree v => Sys2Proof.Machine.execErrackFree v s
  | .errbaseEnable v => Sys2Proof.Machine.execErrbaseEnable v s
  | .dieFailure die => Sys2Proof.Machine.execDieFailure die s
  | .stackFailure stack => Sys2Proof.Machine.execStackFailure stack s
  | .controllerFailure ctl => Sys2Proof.Machine.execControllerFailure ctl s
  | .timeRecord => Sys2Proof.Machine.execTimeRecord s
  | .sourceTimeReport sclass sinst => Sys2Proof.Machine.execSourceTimeReport sclass sinst s
  | .pealRecordWrite p => Sys2Proof.Machine.execPealRecordWrite p s
  | .deviceRecordTimeout p => Sys2Proof.Machine.execDeviceRecordTimeout p s
  | .perturb sclass sinst => Sys2Proof.Machine.execPerturb sclass sinst s
  | .sample core sched => Sys2Proof.Machine.execSample core sched s
  | .pctlEnable p v => Sys2Proof.Machine.execPctlEnable p v s
  | .rpWrite p v => Sys2Proof.Machine.execRpWrite p v s
  | .debugStop v => Sys2Proof.Machine.execDebugStop v s
  | .quietPoint core sched => Sys2Proof.Machine.execQuietPoint core sched s
  | .debugStopEnd v => Sys2Proof.Machine.execDebugStopEnd v s
  | .resumeHaltedGang v => Sys2Proof.Machine.execResumeHaltedGang v s
  | .dbgdRead => Sys2Proof.Machine.execDbgdRead s
  | .dbgdWrite v => Sys2Proof.Machine.execDbgdWrite v s
  | .hloadBinding g => Sys2Proof.Machine.execHloadBinding g s
  | .bankmCompletion g => Sys2Proof.Machine.execBankmCompletion g s
  | .portDown port => Sys2Proof.Machine.execPortDown port s
  | .portNarrow port => Sys2Proof.Machine.execPortNarrow port s
  | .bridgeFailed bridge lost => Sys2Proof.Machine.execBridgeFailed bridge lost s
  | .doorbell q v => Sys2Proof.Machine.execDoorbell q v s
  | .doorbellRsy q v => Sys2Proof.Machine.execDoorbellRsy q v s
  | .doorbellClrerr q v => Sys2Proof.Machine.execDoorbellClrerr q v s
  | .queueEnable q v => Sys2Proof.Machine.execQueueEnable q v s
  | .queueDisable q v => Sys2Proof.Machine.execQueueDisable q v s
  | .cqEnable q v => Sys2Proof.Machine.execCqEnable q v s
  | .cqheadWrite q v => Sys2Proof.Machine.execCqheadWrite q v s
  | .pqw port beat packet => Sys2Proof.Machine.execPqw port beat packet s
  | .pdb port beat => Sys2Proof.Machine.execPdb port beat s
  | .mrd port beat => Sys2Proof.Machine.execMrd port beat s
  | .mwr port beat data => Sys2Proof.Machine.execMwr port beat data s
  | .cpl port beat data => Sys2Proof.Machine.execCpl port beat data s
  | .htn port beat tlp => Sys2Proof.Machine.execHtn port beat tlp s
  | .lct port beat => Sys2Proof.Machine.execLct port beat s
  | .badpkt port beat => Sys2Proof.Machine.execBadpkt port beat s
  | .flitCrcFail port run => Sys2Proof.Machine.execFlitCrcFail port run s
  | .linkTraining port peer => Sys2Proof.Machine.execLinkTraining port peer s
  | .ldownClear port => Sys2Proof.Machine.execLdownClear port s
  | .devnumWrite v => Sys2Proof.Machine.execDevnumWrite v s
  | .beatCrcFail bridge fail => Sys2Proof.Machine.execBeatCrcFail bridge fail s
  | .hostMemoryRead at_ n => Sys2Proof.Machine.execHostMemoryRead at_ n s
  | .hostMemoryWrite at_ data ep => Sys2Proof.Machine.execHostMemoryWrite at_ data ep s
  | .registerWrite at_ v => Sys2Proof.Machine.execRegisterWrite at_ v s
  | .damaviWrite at_ hdr data => Sys2Proof.Machine.execDamaviWrite at_ hdr data s
  | .damaviRead at_ hdr => Sys2Proof.Machine.execDamaviRead at_ hdr s
  | .damaviReadResp at_ hdr data => Sys2Proof.Machine.execDamaviReadResp at_ hdr data s
  | .damaviAck at_ hdr => Sys2Proof.Machine.execDamaviAck at_ hdr s
  | .damaviNak at_ hdr => Sys2Proof.Machine.execDamaviNak at_ hdr s
  | .damaviSend at_ hdr data => Sys2Proof.Machine.execDamaviSend at_ hdr data s
  | .otherFrame port => Sys2Proof.Machine.execOtherFrame port s
  | .ptpMessage port domain sec rest => Sys2Proof.Machine.execPtpMessage port domain sec rest s
  | .holdover => Sys2Proof.Machine.execHoldover s
  | .ppsEdge ns => Sys2Proof.Machine.execPpsEdge ns s
  | .tocsin tsel => Sys2Proof.Machine.execTocsin tsel s
  | .tocsinMessage level => Sys2Proof.Machine.execTocsinMessage level s
  | .tslvlWrite n v => Sys2Proof.Machine.execTslvlWrite n v s
  | .currentLimitTrip amps => Sys2Proof.Machine.execCurrentLimitTrip amps s
  | .currentLimitStep amps => Sys2Proof.Machine.execCurrentLimitStep amps s
  | .currentLimitRestore => Sys2Proof.Machine.execCurrentLimitRestore s

end Sys2Proof.Machine
end

