-- ==== Sys2Proof/Machine/Schedule.lean ====
section
/-! DEFINITION. Who acts next: the fetch of a split's next instruction (R268, R269, R275), the selection of an issue
scheduler (R106, R272), what a cycle counts (R249, R130), and the events that are due. -/

namespace Sys2Proof.Machine

/-! ## The next instruction of a split -/

/-- Group gk's split ix is to issue, merged with the splits it may merge with (R112). -/
def State.aim (s : State) (gk ix : Nat) : State :=
  match mget? s.groups gk with
  | none => { s with focus := none }
  | some g =>
    let (g', ix') := g.mergeAt ix
    { s with
      groups := if g' = g then s.groups else mput s.groups gk g'
      focus := some { g := gk, ix := ix', stall := 0, look := false } }

/-- The nearest header among the k words from t down, at most 15 words before the resume point (R269 step 5). -/
def State.headerBefore (s : State) (c : Ctx) (t : Nat) : Nat → Option (Nat × Word) × State
  | 0 => (none, s)
  | k + 1 =>
    if t = 0 then (none, s)
    else match s.fetch c (t - 1) with
      | (.inl _, s) => (none, s)
      | (.inr w, s) => if isHeader w then (some (t - 1, w), s) else s.headerBefore c (t - 1) k

/-- The header word at the resume point follows the last word of a clause whose body held a header word: a skip past that
last word lands on the next clause header (R340). -/
def State.skippedPast (s : State) (c : Ctx) (t : Nat) : Bool × State :=
  if t + 1 ≠ c.sp.pc then (false, s)
  else match s.fetch c c.sp.pc with
    | (.inl _, s) => (false, s)
    | (.inr w, s) =>
      if !isHeader w then (false, s)
      else match s.headerBefore c t 15 with
        | (some (t', w'), s) => (match decHeader w'.toNat with
          | .clause _ _ _ l _ => (t' + 1 + l.toNat == c.sp.pc, s)
          | _ => (false, s))
        | (none, s) => (false, s)

/-- The word at which a split that stands behind the last word of a clause goes on: behind the table of a JTAB or SWITCH
(R269 step 3, R340). -/
def State.pastTable (s : State) (c : Ctx) : Nat × State :=
  if c.sp.pc = 0 then (0, s)
  else match s.fetch c (c.sp.pc - 1) with
    | (.inl _, s) => (c.sp.pc, s)
    | (.inr w, s) => (match decodeWord w with
      | .ok (.jtab _ n) | .ok (.switch _ n) => c.sp.pc + n.toNat
      | _ => c.sp.pc, s)

/-- The clause context of a split that resumes (R269 step 5): inside the clause of the nearest header, or at a boundary. -/
def State.reenter (s : State) (c : Ctx) : State :=
  let (h, s) := s.headerBefore c c.sp.pc 15
  let (past, s) := match h with
    | some (t, _) => s.skippedPast c t
    | none => (false, s)
  let h := if past then none else h
  let atEnd := match h with
    | some (t, w) => (match decHeader w.toNat with
      | .clause _ _ _ l _ => t + 1 + l.toNat == c.sp.pc
      | _ => false)
    | none => false
  let (dest, s) := if atEnd then s.pastTable c else (c.sp.pc, s)
  s.updGroup c.gk (fun g => { g with splits := g.splits.modify c.ix (fun p =>
    match h with
    | some (t, w) => (match decHeader w.toNat with
      | .clause _ a b l y =>
        let e := t + 1 + l.toNat
        if p.pc < e then
          { p with resume := false, inClause := true, setA := a.toNat, setB := b.toNat, clauseEnd := e, yieldHint := y == 1#1
                   wait := 0#12 }
        else { p with resume := false, pc := dest }
      | _ => { p with resume := false })
    | none => { p with resume := false }) })

/-- What a split that tries to issue comes to: an instruction to execute in a state, or a state in which it already
stalled or faulted. -/
inductive Ready where
  | instr (i : Instr) (s : State)
  | done (s : State)

/-- An instruction that is about to be executed reads its registers, and in an open block those it is the first to write, for
their pre-images (R132), which finds the errors in them, and passes its checkers:
a mismatch of one lets nothing of a vector, lane or memory instruction be performed (R208, R211, R436). -/
def State.checked (s : State) (c : Ctx) (i : Instr) : Ready :=
  if s.rel.latent.isEmpty || s.pre c i true != .go then .instr i s
  else
    let s := (regNums (readsOf c.g.m i)).foldl (fun s r => s.checkReg c.gk c.act r) s
    let s := (regNums (writesOf c.g.m i)).foldl (fun s r =>
      if c.act ≠ 0#32 && s.logsNew c.wk (.reg c.g.k r Reg.zero) then s.checkReg c.gk (BitVec.allOnes 32) r else s) s
    match s.flaw (.pipe c.gk) with
    | none => .instr i s
    | some f =>
      if !(isVector i || isMemory i) then .instr i s
      else
        let o := s.ownerOf c.wk
        let s := ((s.dropFlaws (· == .pipe c.gk)).record 4 0x04 0 false 0 (c.g.core + c.g.sched * 256) o.1 f.synd o.2).2
        .done (match s.ctx with
          | some c => s.raiseAll c 0x0B
          | none => s)

/-- Fetches and decodes the instruction word of the split in focus, which stands in a clause. -/
def State.fetchWord (s : State) : Ready :=
  match s.ctx with
  | none => .done s
  | some c => match s.fetch c c.sp.pc with
    | (.inl k, s) => .done (s.noWord c k)
    | (.inr w, s) => match decodeWord w with
      | .ok i => (match s.ctx with
        | some c => s.checked c i
        | none => .done s)
      | .error _ => .done (s.noWord c 1)

/-- The split in focus begins the clause at its program counter, and its first word is fetched (R269 steps 1 and 3). -/
def State.beginClause (s : State) (c : Ctx) : Ready :=
  match s.fetch c c.sp.pc with
  | (.inl k, s) => .done (s.noWord c k)
  | (.inr w, s) =>
    if !isHeader w then .done (s.noWord c 1)
    else match exec (decHeader w.toNat) s with
      | .next s' => (match s'.ctx with
        | some c' => if c'.sp.inClause then s'.fetchWord else .done s'
        | none => .done s')
      | _ => .done (s.noWord c 1)

/-- The instruction that the split in focus is to execute next. -/
def State.aimed (s : State) : Ready :=
  match s.ctx with
  | none => .done s
  | some c => match s.holds c with
    | some r => .done (s.stallBy c r)
    | none =>
      let s := if c.sp.resume then s.reenter c else s
      match s.ctx with
      | none => .done s
      | some c => if c.sp.inClause then s.fetchWord else s.beginClause c

/-- The instruction that split ix of group gk is to execute next. -/
def State.attempt (s : State) (gk ix : Nat) : Ready := (s.aim gk ix).aimed

/-- The attempt carried out. -/
def Ready.run : Ready → Host.Outcome State Fault Refusal
  | .instr i s => exec i s
  | .done s => .next s

/-! ## Selection -/

/-- A live split of a scheduler: its position, its group and its number. -/
structure Place where
  pos : Nat
  g   : Nat
  ix  : Nat
deriving DecidableEq, Repr

/-- The live splits of a scheduler, in position order (R106). -/
def State.places (s : State) (core sched : Nat) : List Place :=
  sortBy (·.pos) (s.groups.flatMap (fun e =>
    if e.2.core = core ∧ e.2.sched = sched ∧ !e.2.retired then
      e.2.splits.zipIdx.filterMap (fun p => match p.1.st with
        | .live i => some { pos := e.2.slot * 4 + i, g := e.1, ix := p.2 }
        | _ => none)
    else []))

/-- Records of a source that wait. -/
def State.fed (s : State) (r : PRec) : Nat :=
  (s.peal.wait.filter (fun x => x.part == r.part && x.sclass == r.sclass && x.sinst == r.sinst)).length

/-- Kinds of the records that the standing of workgroup wk is about to bring about: BLOCK, CONV, GBAR (R235). -/
def State.coming (s : State) (wk : Nat) : List Nat :=
  match mget? s.wgs wk with
  | none => []
  | some w =>
    (if s.gathered wk .ensure || w.failing.isSome then [0x0C] else []) ++
    (if (mvals (s.groupsOf wk)).any (fun g => match g.conv with
      | some m => s.convReady w.gang m
      | none => false) then [0x0D] else []) ++
    (if w.k = 0 && s.gbarReady w.gang then [0x15] else [])

/-- Going from s to s', the instruction emits a record of a source that a full buffer holds back, or brings about the event
that emits one: the update of an event that it hands to Kulintang among them (R243). -/
def State.reports (s s' : State) (nk : Nat) : Bool :=
  (s'.kul.held.drop s.kul.held.length).any (fun u => u.mask && s.latched u.part u.sclass u.sinst) ||
  s'.peal.wait.any (fun r => r.sclass < 3 && s.latched r.part r.sclass r.sinst && s.fed r < s'.fed r) ||
  s.wgs.any (fun e => e.2.gang == nk && (match s.launchOf e.1 with
    | some (_, _, l) =>
      s.latched l.part 0 (s.sched0 e.1).2 && (s'.coming e.1).any (fun k => l.traces k && !(s.coming e.1).contains k)
    | none => false))

/-- Of stall reason r of an attempt of a place that comes to this outcome: 24 in its stead, when the attempt issues and would
emit a record into a full latch (R243). -/
def State.orLatch (s : State) (p : Place) (r : Nat) : Host.Outcome State Fault Refusal → Nat
  | .next s' => if s'.focus.any (·.stall == 0) && s.reports s' (p.g / 1024) then 24 else r
  | _ => r

/-- The stall reason of an attempt of a place; 0 when it issues or stops. One that would emit a record into a full latch does
not issue (R243), and reports so before that the duty limits withhold it (R246). -/
def State.reasonAt (s : State) (p : Place) : Nat :=
  let out := (s.attempt p.g p.ix).run
  let r := match out with
    | .next s' => (s'.focus.map (·.stall)).getD 0
    | _ => 0
  if s.peal.wait.isEmpty then r
  else if r = 0 then s.orLatch p r out
  else if r = 25 then
    let a := s.aim p.g p.ix
    s.orLatch p r ({ a with focus := a.focus.map (fun f => { f with look := true }) } : State).aimed.run
  else r

/-- The split of a place. -/
def State.splitAt (s : State) (p : Place) : Split :=
  match mget? s.groups p.g with
  | some g => g.splits.getD p.ix (Split.start 0#32 0)
  | none => Split.start 0#32 0

/-- Changes the split of a place. -/
def State.updSplit (s : State) (p : Place) (f : Split → Split) : State :=
  s.updGroup p.g (fun g => { g with splits := g.splits.modify p.ix f })

/-- The choice of R106 among eligible places in position order. -/
def State.select (s : State) (core sched : Nat) (e : List Place) : Option Place :=
  match leastBy (fun p => 2 ^ 64 - (s.splitAt p).age) (e.filter (fun p => 1024 ≤ (s.splitAt p).age)) with
  | some p => some p
  | none =>
    let last := mgetD s.lastPos (core * 4 + sched) 63
    match e.find? (fun p => last < p.pos) with
    | some p => some p
    | none => e.head?

/-- The places of a scheduler that are eligible (R106), with those that Y holds back left out (R272); the rest of the
places with their stall reasons. -/
def State.eligible (s : State) (core sched : Nat) : List Place × List (Place × Nat) :=
  let rs := (s.places core sched).map (fun p => (p, s.reasonAt p))
  let ok := (rs.filter (fun e => e.2 == 0)).map (·.1)
  let now := ok.filter (fun p => !(s.splitAt p).yielded)
  if now.isEmpty then (ok, rs.filter (fun e => e.2 != 0))
  else (now, rs.filter (fun e => e.2 != 0) ++ (ok.filter (fun p => (s.splitAt p).yielded)).map (fun p => (p, 30)))

/-- The gang of a group that issues is running (R102). -/
def State.begun (s : State) (gk : Nat) : State :=
  match mget? s.gangs (gk / 1024) with
  | some g => if g.st = GangState.placed then s.updGang (gk / 1024) (fun g => { g with st := GangState.running }) else s
  | none => s

/-- The cycle that a yield held splits of a scheduler back for has come (R272). -/
def State.yieldsOver (s : State) (core sched : Nat) : State :=
  if s.edge core then
    { s with groups := mmap s.groups (fun _ g =>
      if g.core = core ∧ g.sched = sched then { g with splits := g.splits.map (fun p => { p with yielded := false }) } else g) }
  else s

/-- Before the chosen place issues: the stall reasons of the others, their ages, and the counts of the one chosen. -/
def State.settleTurn (s : State) (core sched : Nat) (e : List Place) (stalled : List (Place × Nat)) (p : Option Place) :
    State :=
  let s := s.yieldsOver core sched
  let s := stalled.foldl (fun s x => s.updSplit x.1 (fun q => { q with stall := x.2 })) s
  let s := e.foldl (fun s x =>
    if some x = p then
      ((s.begun x.g).updSplit x (fun q => { q with stall := 0, age := 0, issued := q.issued + 1 })).updGroup x.g
        (fun g => { g with issued := g.issued + 1, lastIss := s.clk + 1 })
    else s.updSplit x (fun q => { q with stall := 31, age := q.age + 1 })) s
  match p with
  | some p => { s with lastPos := mput s.lastPos (core * 4 + sched) p.pos }
  | none => s

/-- Nobody issues any more. -/
def State.unfocus (s : State) : State := { s with focus := none }

/-- The issue turn of one scheduler in one cycle (R106); a split that ends a clause after 4096 instructions gives up its slot
(R111 step 3). -/
def State.issueTurn (s : State) (core sched : Nat) : Host.Outcome State Fault Refusal :=
  let (e, stalled) := s.eligible core sched
  match s.select core sched e with
  | none => .next (s.settleTurn core sched e stalled none)
  | some p =>
    match (((s.settleTurn core sched e stalled (some p)).attempt p.g p.ix).run) with
    | .next s' => .next (s'.unfocus.updGroup p.g (fun g => g.rotated (s.splitAt p).mask))
    | .fault r => .fault r
    | .refused r => .refused r

/-- Some workgroup of a core has a FIFO bank. -/
def State.hasFifo (s : State) (core : Nat) : Bool :=
  s.wgs.any (fun e => e.2.core == core && e.2.banks.any (fun b => b.2.mode == .fifo))

/-- Where the turn of a scheduler stands among those of its core in a cycle (R411): a push on a FIFO by its position, then
what is none, then a pop by its position. -/
def State.turnRank (s : State) (core sched : Nat) : Nat :=
  match s.select core sched (s.eligible core sched).1 with
  | none => 64
  | some p => match s.attempt p.g p.ix with
    | .instr (.fpush ..) _ => p.pos
    | .instr (.fpop ..) _ => 65 + p.pos
    | _ => 64

/-- The scheduler of the core that takes its turn now that sched is due: on a core with FIFOs the one that R411 puts first,
in whose place sched comes later in the cycle. -/
def State.pick (s : State) (core sched : Nat) : Nat × State :=
  if !s.hasFifo core then (sched, s)
  else
    let ks := sched :: s.agenda.filterMap (fun t => match t with
      | .issue c k => if c = core then some k else none
      | .event _ => none)
    let k := (leastBy (s.turnRank core) ks).getD sched
    (k, { s with agenda := s.agenda.map (fun t => if t = .issue core k then .issue core sched else t) })

/-! ## A cycle -/

/-- A group counts a cycle of its reason's class (R249). -/
def State.countCycle (s : State) (g : Group) : Group :=
  if g.retired || !s.edge g.core then g
  else
    let k := stallClass (s.reasonOf g s.clk)
    { g with cnt := mput g.cnt k (satAdd (2 ^ 48 - 1) (mgetD g.cnt k 0) 1) }

/-- How far Peal time moves in a cycle of u units: a correction towards the grandmaster shifts it by at most one unit in
10,000 (R231). -/
def State.slewed (s : State) (u : Nat) : Nat × Int :=
  let d := s.links.slew
  if d = 0 || s.time / 10000 = (s.time + u) / 10000 || u = 0 then (u, d)
  else if 0 < d then (u + 1, d - 1)
  else (u - 1, d + 1)

/-- The moment that every copy has passed. -/
def leastTime (m : Map Nat) : Nat := match mvals m with
  | x :: xs => xs.foldl min x - 1
  | [] => 0

/-- Cores whose clock has no edge in this cycle miss it (R3, R37). -/
def State.skipped (s : State) : Map Nat :=
  (upto 192).foldl (fun m c => if s.edge c then m else mput m c (mgetD m c 0 + 1)) s.skips

/-- A cycle in which the device has power counts towards its power-on hours (R57). -/
def Power.hour (p : Power) : Power := if p.st = .off then p else { p with hoursAt := (p.hoursAt.1, p.hoursAt.2 + 1) }

/-- In a cycle a running replay delivers some of its flits; how many is open (log entry 174). One that has delivered its last ends
(R16, R19). -/
def Port.delivers (p : Port) (draws : Nat) : Port :=
  { p with replay := (mmap p.replay (fun d n => n - Config.freeNat (draws + d))).filter (fun e => e.2 != 0) }

/-- What ends a cycle: groups and open blocks count it on their core's clock, sources report their time, stalled sources are
counted, and time moves on (R3, R130, R231, R232, R242, R244, R249). -/
def State.cycle (s : State) : State :=
  let gs := mmap s.groups (fun _ g => (s.countCycle g).heldDown (match s.launchOf g.wg with
    | some (_, gg, _) => gg.free
    | none => true))
  let ws := mmap s.wgs (fun k w => if w.blocks.isEmpty || s.wgStopped k || !s.edge w.core then w
    else { w with blocks := w.blocks.map (fun b => { b with cycles := b.cycles + 1 }) })
  let (u, d) := s.slewed (Config.cycleUnits s.clk)
  let s := s.countStalls
  let t := s.copyTimes (s.time + u)
  { s with
    groups := gs, wgs := ws, clk := s.clk + 1, skips := s.skipped, time := s.time + u, draws := s.draws + 37
    peal := { s.peal with copies := t, all_ := max s.peal.all_ (leastTime t), reports := [] }
    power := s.power.hour
    links := { s.links with slew := d, ports := mmap s.links.ports (fun n p => p.delivers (s.draws + 5 + n * 2)) } }

/-- The schedulers that hold groups. -/
def State.turns (s : State) : List Turn :=
  (sortBy (fun x => x) (dedup ((mvals s.groups).filterMap (fun g =>
    if g.retired then none else some (g.core * 4 + g.sched))))).map (fun k => .issue (k / 4) (k % 4))

/-- Events of groups that happen as soon as they can. -/
def State.groupDue (s : State) : List Instr :=
  s.groups.flatMap (fun e => if e.2.canRetire then [.groupRetire e.1] else [])

/-- Events of workgroups. -/
def State.wgDue (s : State) : List Instr :=
  (s.wgs.flatMap (fun e =>
    (if s.gathered e.1 .ensure then [.blockOpen e.1] else []) ++
    (if s.gathered e.1 .term then [.routineEnd e.1] else []) ++
    (if e.2.overLimit.isSome then [.cycleLimit e.1] else []) ++
    (if e.2.failing.isSome then [.rollback e.1] else []))) ++
  (s.wgs.filterMap (fun e => (mvals (s.groupsOf e.1)).findSome? (fun g =>
    g.conv.map (fun m => .conversationJoined e.2.gang (BitVec.ofNat 24 m)))))

/-- Events of gangs and launches. -/
def State.gangDue (s : State) : List Instr :=
  s.gangs.flatMap (fun e =>
    (if s.gbarReady e.1 then [.gbarRelease e.1] else []) ++
    (if e.2.st = GangState.saving ∧ s.saveReady e.1 then [.save e.1] else [])) ++
  s.launches.filterMap (fun e => if s.launchDone e.1 e.2 then some (.launchRetire e.1) else none)

/-- Events of Kulintang and the dispatcher. -/
def State.kulDue (s : State) : List Instr :=
  s.firing.map (fun w => .waiterFire w.n) ++
  (if s.roundDue then [.kulintangRound] else []) ++
  s.kul.passes.map (fun p => .placementPass (BitVec.ofNat 4 p)) ++
  ((upto 16).filter (fun p => !(s.dispatchOrder p).isEmpty)).map (fun p => .placementRetry (BitVec.ofNat 4 p)) ++
  (s.kul.queues.filter (fun e => e.2.ladder.isSome)).flatMap (fun e =>
    [.drainComplete (BitVec.ofNat 10 e.1), .drainLimit (BitVec.ofNat 10 e.1), .saveLimit (BitVec.ofNat 10 e.1)]) ++
  (mkeys s.kul.cqs).map (fun c => .cqCoalesceTimer (BitVec.ofNat 8 c))

/-- Events of Peal, of the debugger's stops and of the links. -/
def State.traceDue (s : State) : List Instr :=
  (if s.links.ptpSec < s.packSecond then [.timeRecord] else []) ++
  (if s.holdoverDue then [.holdover] else []) ++
  ((mkeys s.peal.perturb).filter s.periodEnd).map (fun k => .perturb (BitVec.ofNat 8 (k / 4096)) (BitVec.ofNat 12 k)) ++
  (((upto 16).filter (fun p => (s.lateRec p).isSome)).map (fun p => .deviceRecordTimeout (BitVec.ofNat 4 p))) ++
  ((mkeys s.stops).map (fun k => .quietPoint (BitVec.ofNat 8 (k / 4)) (BitVec.ofNat 2 k))) ++
  ((mkeys s.links.unacked).flatMap (fun k =>
    [.damaviRetransmit (BitVec.ofNat 24 (k / 2 ^ 24)) (BitVec.ofNat 24 k),
     .sendRetry (BitVec.ofNat 24 (k / 2 ^ 24)) (BitVec.ofNat 24 k)]))

/-- The samples of the cycle that has ended: they look at what was issued in it (R248). -/
def State.samples (s : State) : List Turn :=
  s.turns.filterMap (fun t => match t with
    | .issue c k => if (s.samplable c k).isEmpty then none else some (.event (.sample (BitVec.ofNat 8 c) (BitVec.ofNat 2 k)))
    | .event _ => none)

/-- Events of the links: a bridge or a port whose replays are exhausted fails, where which of the lines it carried are lost is
open, and ports narrow (R13, R16, R19). -/
def State.linkDue (s : State) (draws : Nat) : List Instr :=
  s.links.dyingB.map (fun b => .bridgeFailed (BitVec.ofNat 2 b)
    (((mkeys s.mm.lines).zipIdx.filter (fun e => Config.freeBit (draws + e.2))).map (·.1))) ++
  ((upto 16).filter (fun n => (s.port n).dying)).map (fun n => .portDown (BitVec.ofNat 4 n)) ++
  ((upto 16).filter s.narrowing).map (fun n => .portNarrow (BitVec.ofNat 4 n))

/-- Events that happen as soon as they can. -/
def State.dueNow (s : State) : List Instr :=
  s.groupDue ++ s.wgDue ++ s.gangDue ++ s.kulDue ++ s.traceDue ++
  (dedup ((mkeys s.power.lower).map (· / 8))).map (fun i => .marginLowerApply (BitVec.ofNat 8 i))

/-- Cores on which a group has an operation for the matrix engine. -/
def State.matrixCores (s : State) : List Nat :=
  dedup ((mvals s.groups).filterMap (fun g => if g.ops.any (fun o => o.q == 5) then some g.core else none))

/-- Events that the spec lets happen at any later moment: each happens in a cycle or not as a free choice decides. -/
def State.dueSome (s : State) : List Instr :=
  s.groups.flatMap (fun e =>
    e.2.pend.flatMap (fun p => [.returnWritten e.1 p.id, .writesPerformed e.1 p.id, .delayedAccessFault e.1 p.id]) ++
    (e.2.watches.map (fun w => .watchVerdict e.1 w.n)) ++
    (if e.2.splits.any (fun p => p.busy.isSome) then [.hloadBinding e.1, .bankmCompletion e.1] else []) ++
    ((upto 5).filter (fun q => e.2.ops.any (fun o => o.q == q))).flatMap (fun q =>
      [.copyStart e.1 (BitVec.ofNat 3 q), .copyDone e.1 (BitVec.ofNat 3 q), .copyStop e.1 (BitVec.ofNat 3 q)])) ++
  s.matrixCores.flatMap (fun c => [.matrixOpStart (BitVec.ofNat 8 c), .matrixOpDone (BitVec.ofNat 8 c)]) ++
  s.peal.wait.map (fun r => .pealRecordWrite (BitVec.ofNat 4 r.part)) ++
  (if s.boot.busy then [.bundleStart] else []) ++ (if s.boot.atbusy then [.atdone] else []) ++
  (if s.power.restoring then [.restored] else []) ++ (if s.mm.asBusy.isSome then [.asctlDone] else []) ++
  s.mm.lines.flatMap (fun e =>
    (if e.2.wrap then [.wrapClear none e.1] else []) ++
    (match e.2.swrap, e.2.owner with
      | true, some d => [.wrapClear (some (BitVec.ofNat 2 d)) e.1]
      | _, _ => []))

/-- Events while the module is not on: the drain goes on, and a power-on reset that is due samples the SL strap. -/
def State.dueOff (s : State) : List Instr :=
  match s.power.st with
  | .on => []
  | .draining => [.drainSectionEnd, .drainEnd]
  | .off => if s.power.wake then [.powerOnReset (Config.freeBit s.draws)] else []

/-- The free choice among events. -/
def someOf (draws : Nat) (l : List Instr) : List Instr :=
  (l.zipIdx.filter (fun e => Config.freeBit (draws + e.2))).map (·.1)

/-- The hardware suffers the errors of a cycle (R208); which they are is free (log entry 159). -/
def State.suffer (s : State) : State :=
  { s with rel := { s.rel with latent := s.rel.latent ++ Config.flaws s.draws }, draws := s.draws + 1 }

/-- A new cycle begins: the one that ended is sampled, the schedulers take their turns, then come the events that are due,
then some of the others. -/
def State.tick (s : State) : State :=
  let s := s.cycle.suffer
  let some_ := if s.power.st = .on then s.dueSome else s.dueOff
  let k := s.draws + 1 + some_.length
  let fixed := if s.power.st = .on then s.samples ++ s.turns ++ (s.dueNow ++ s.linkDue k).map .event else []
  { s with agenda := fixed ++ (someOf (s.draws + 1) some_).map .event, draws := k + s.mm.lines.length }

/-- One entry of the agenda. -/
def State.turn (s : State) : Turn → Host.Outcome State Fault Refusal
  | .issue core sched => (s.pick core sched).2.issueTurn core (s.pick core sched).1
  | .event e => exec e s

end Sys2Proof.Machine
end

