-- ==== Sys2Proof/Machine/Step.lean ====
section
/-! DEFINITION. One step of the device, and the placing of one instruction where the next step fetches. -/

namespace Sys2Proof.Machine

/-- One step: the next entry of the agenda; with an empty agenda, a new cycle and its first entry. -/
def step (s : State) : Host.Outcome State Fault Refusal :=
  match s.agenda with
  | t :: r => ({ s with agenda := r } : State).turn t
  | [] =>
    let s := s.tick
    match s.agenda with
    | t :: r => ({ s with agenda := r } : State).turn t
    | [] => .next s

/-- The state with one instruction of nbits bits w (its other bits 0) stored where the next step fetches, and the launch,
gang, workgroup and group that fetch it, so that the very next step runs it (assumption 30). -/
def State.withFetchWord (s : State) (nbits w : Nat) : State := s.placeWord (w % 2 ^ nbits)

end Sys2Proof.Machine
end

