-- ==== Sys2Proof/Safety.lean ====
section
/-! DEFINITION. The terms in which the statements speak: when nothing keeps a split from issuing (R246, R263, R269),
what an instruction may leave behind (R115, R122, R132), and when a value or a mask is what a rule says. -/

namespace Sys2Proof.Machine

/-! ## When an instruction issues -/

/-- Nothing keeps the issuing split from its instruction i: no stop, save, rollback or duty limit holds it (R246), its core's
clock has an edge (R37), the flags its clause waits for are zero (R269), no delayed fault is delivered there (R378), nothing it names is still to be
written (R270), and no acquire is unperformed (R186). -/
structure Unheld (s : State) (c : Ctx) (i : Instr) : Prop where
  ctx       : s.ctx = some c
  lanes     : c.sp.mask ≠ 0#32
  live      : ∃ k, c.sp.st = .live k
  noStop    : mget? s.stops (c.g.core * 4 + c.g.sched) = none
  noHalt    : c.gg.halted = false
  noSave    : c.gg.st ≠ GangState.saving ∧ c.gg.st ≠ GangState.saved
  notBusy   : c.sp.busy = none
  noFailure : c.wg.failing = none
  waited    : ∀ f < 12, c.sp.wait.getLsbD f = true → c.g.flag f = 0
  noDelayed : c.sp.wait = 0#12 ∨ ∀ d ∈ c.g.delayed, ¬ (d.flag < 12 ∧ c.sp.wait.getLsbD d.flag = true)
  noPending : i.wf = true → c.g.pendingOn (regNums (regsOf c.g.m i)) = false
  noAcquire : isMemory i = true → c.g.acquiring c.sp.mask = false
  fullDuty  : s.power.duty = 8 ∧ s.power.applied = []
  clocked   : s.edge c.g.core = true

/-- Instruction i is legal where it stands: its word is well formed, with what its place and TYPE decide of its encoding, it
stands in a clause, and last where it must (R263, R269, R271). -/
structure LegalPlace (c : Ctx) (i : Instr) : Prop where
  wf       : i.wf = true
  encoded  : c.encoded i = true
  inClause : c.sp.inClause = true
  lastWord : lastOnly i = true → c.sp.pc + 1 = c.sp.clauseEnd

/-- Convergence: a group instruction has every non-exited lane, all of them active and guard-true (R114). -/
def Converges (c : Ctx) (i : Instr) : Prop := isGroup i = true → c.sp.mask = c.g.present ∧ c.act = c.g.present

/-- Every register and tile that i names lies within its budget (R116, R263). -/
def InBudget (c : Ctx) (i : Instr) : Prop :=
  (∀ r ∈ regNums (regsOf c.g.m i), r < c.budget) ∧ ∀ t ∈ tilesOf i, t < c.l.tiles

/-- Nothing keeps the issuing split from executing instruction i, and i passes the checks of R263 before its operands. -/
structure MayIssue (s : State) (c : Ctx) (i : Instr) : Prop extends Unheld s c i where
  place     : LegalPlace c i
  converged : Converges c i
  budget    : InBudget c i

/-- Register d of the issuing group is logged in the innermost open block already (R132). -/
def Ctx.loggedReg (c : Ctx) (d : Nat) : Bool :=
  match c.wg.blocks with
  | [] => true
  | b :: _ => b.log.any (sameLoc (.reg c.g.k d (c.g.reg d)))

/-- The recovery log takes the first writes of registers d to d + n − 1: no block is open, they are logged already, or
144 bytes for each are left (R132). -/
def Ctx.logRoom (c : Ctx) (d n : Nat) : Prop :=
  c.wg.blocks = [] ∨ (∀ j < n, c.loggedReg (d + j) = true) ∨ c.wg.logUsed c.l + 144 * n ≤ c.wg.logCap

/-! ## What an instruction leaves -/

/-- c is a context of state s: each of its records is the one s holds. -/
structure CtxOf (s : State) (c : Ctx) : Prop where
  group  : mget? s.groups c.gk = some c.g
  split  : c.g.splits[c.ix]? = some c.sp
  wgKey  : c.wk = c.g.wg
  wg     : mget? s.wgs c.wk = some c.wg
  nk     : c.nk = c.wg.gang
  gang   : mget? s.gangs c.nk = some c.gg
  lk     : c.lk = c.gg.launch
  launch : mget? s.launches c.lk = some c.l

/-- Two groups differ only in their splits. -/
def Group.sameButSplits (a b : Group) : Prop := ({ a with splits := b.splits } : Group) = b


/-- Two workgroups differ at most in the logs of their open blocks. -/
def Wg.sameButLogs (w v : Wg) : Prop :=
  ({ w with blocks := v.blocks } : Wg) = v ∧
  w.blocks.map (fun b => { b with log := [] }) = v.blocks.map (fun b => ({ b with log := [] } : Block))

/-- From s to t nothing changes but the issuing group with the errors that lie unfound in its registers (R436), the logs of
its workgroup's open blocks, and the model's counters: every other group, all memory, every special register and every
other unit is as before. -/
structure OnlyGroup (s t : State) (c : Ctx) : Prop where
  rest   : ({ t with
               groups := s.groups, wgs := s.wgs, draws := s.draws, nextId := s.nextId
               rel := { t.rel with latent := s.rel.latent } } : State) = s
  flaws  : ∀ x, (∀ r l, x.at_ ≠ .reg c.gk r l) → (x ∈ t.rel.latent ↔ x ∈ s.rel.latent)
  groups : ∀ k, k ≠ c.gk → mget? t.groups k = mget? s.groups k
  wgs    : ∀ k, k ≠ c.wk → mget? t.wgs k = mget? s.wgs k
  logs   : ∃ w, mget? t.wgs c.wk = some w ∧ w.sameButLogs c.wg

/-- A split of exactly the lanes m stands at word pc. -/
def Group.standsAt (g : Group) (m : Lanes) (pc : Nat) : Prop := ∃ p ∈ g.splits, p.mask = m ∧ p.pc = pc

/-- The lanes m stand at word pc in one split; what other lanes it holds stood there already, in another split of the issuing
group, with which it has merged (R112). -/
def Group.joinsAt (g : Group) (c : Ctx) (m : Lanes) (pc : Nat) : Prop :=
  ∃ p ∈ g.splits, p.pc = pc ∧ ∀ l < 32, (m.getLsbD l = true → p.mask.getLsbD l = true) ∧
    (p.mask.getLsbD l = true → m.getLsbD l = false →
      ∃ k q, k ≠ c.ix ∧ c.g.splits[k]? = some q ∧ q.pc = pc ∧ q.mask.getLsbD l = true)

/-- v is the value w with poison p: a poisoned lane's number is left open (R215). -/
def Val.is (v : Val) (p : Option PTag) (w : Word) : Prop := v.p = p ∧ (p = none → v.w = w)

/-- v is x, with the same poison and, when clean, the same number. -/
def Val.like (v x : Val) : Prop := v.is x.p x.w

/-- What an instruction that completes at once leaves in its group: the lanes that write, the n registers from d with
the values they must hold by word and lane, predicate p (7: none) with its bits, and the stochastic words each lane has
drawn. -/
structure Effect where
  lanes : Lanes
  d     : Nat
  n     : Nat
  val   : Nat → Nat → Val → Prop
  p     : Nat
  bits  : Nat → Bool
  drawn : Nat

/-- n registers from d take values in the lanes m. -/
def Effect.regs (m : Lanes) (d n : Nat) (val : Nat → Nat → Val → Prop) : Effect :=
  { lanes := m, d := d, n := n, val := val, p := 7, bits := fun _ => false, drawn := 0 }

/-- Register d takes the value f in the lanes m. -/
def Effect.reg (m : Lanes) (d : BitVec 7) (f : Nat → Val) : Effect := .regs m d.toNat 1 (fun _ l v => v.like (f l))

/-- Predicate p takes the bits b in the lanes m. -/
def Effect.pred (m : Lanes) (p : BitVec 3) (b : Nat → Bool) : Effect :=
  { lanes := m, d := 0, n := 0, val := fun _ _ _ => True, p := p.toNat, bits := b, drawn := 0 }

/-- Nothing is written. -/
def Effect.nothing : Effect := .regs 0#32 0 0 (fun _ _ _ => True)

/-- Group g is what effect e makes of the issuing group: the destination registers hold their values in the lanes that
write, V0 and P7 discard what is written to them (R116, R262), and every other register, predicate and counter, the mode
word, the flags and all else of the group are as before. -/
structure Effect.Holds (e : Effect) (c : Ctx) (g : Group) : Prop where
  rest   : ({ g with regs := c.g.regs, preds := c.g.preds, srctr := c.g.srctr, splits := c.g.splits } : Group) = c.g
  others : ∀ r, (r < e.d ∨ e.d + e.n ≤ r) → g.reg r = c.g.reg r
  values : ∀ j l, j < e.n → l < 32 → e.d + j ≠ 0 → e.lanes.getLsbD l = true → e.val j l (g.lane (e.d + j) l)
  lanes  : ∀ j l, j < e.n → l < 32 → e.lanes.getLsbD l = false → g.lane (e.d + j) l = c.g.lane (e.d + j) l
  preds  : ∀ q l, q < 8 → l < 32 → (g.pred q).getLsbD l =
             if q = e.p ∧ q ≠ 7 ∧ e.lanes.getLsbD l = true then e.bits l else (c.g.pred q).getLsbD l
  srctr  : ∀ l, l < 32 → g.sr l =
             if e.lanes.getLsbD l = true then c.g.sr l + BitVec.ofNat 32 ((e.drawn + 3) / 4) else c.g.sr l

/-- Instruction i completes at once: exec answers a next state, whose issuing group is what e says, the split standing at
the next word, with nothing else changed. -/
def Completes (i : Instr) (s : State) (c : Ctx) (e : Effect) : Prop :=
  ∃ t g, exec i s = .next t ∧ OnlyGroup s t c ∧ mget? t.groups c.gk = some g ∧ e.Holds c g ∧
    g.standsAt c.sp.mask (c.sp.pc + 1)

/-- The word at offset t is fetched without any effect of the fetch (its line and translation are at hand), and it is a
clause header. -/
def HeaderAt (s : State) (c : Ctx) (t : Nat) : Prop := ∃ w, s.fetch c t = (.inr w, s) ∧ isHeader w = true

/-- Instruction i transfers control (R319): exec answers a next state in which lane l of the split stands at word dest l,
in one split with the lanes that go there, and the issuing group is otherwise what e says, with nothing else
changed. -/
def TransfersTo (i : Instr) (s : State) (c : Ctx) (dest : Nat → Nat) (e : Effect) : Prop :=
  ∃ t g, exec i s = .next t ∧ OnlyGroup s t c ∧ mget? t.groups c.gk = some g ∧ e.Holds c g ∧
    ∀ l < 32, c.sp.mask.getLsbD l = true →
      g.joinsAt c (maskOf (fun k => c.sp.mask.getLsbD k && dest k == dest l)) (dest l)

/-- Some other split of the issuing group does not wait. -/
def Ctx.otherRuns (c : Ctx) : Prop := ∃ k q, k ≠ c.ix ∧ c.g.splits[k]? = some q ∧ ∀ w, q.st ≠ .waiting w

/-- The issuing split parks at a waiting point (R110): exec answers a next state in which each of its lanes is in a split
that waits there, still at the same word, and in the issuing group nothing but the splits and what f changes differs. -/
def ParksAt (i : Instr) (s : State) (c : Ctx) (at_ : WaitAt) (f : Group → Group) : Prop :=
  ∃ t g, exec i s = .next t ∧ mget? t.groups c.gk = some g ∧
    ({ g with splits := c.g.splits } : Group) = { f c.g with splits := c.g.splits } ∧
    (∀ k, k ≠ c.gk → mget? t.groups k = mget? s.groups k) ∧ t.mm = s.mm ∧ t.regs = s.regs ∧
    ∀ l < 32, c.sp.mask.getLsbD l = true → ∃ p ∈ g.splits, p.mask.getLsbD l = true ∧ p.st = .waiting at_ ∧ p.pc = c.sp.pc

/-! ## What results are -/

/-- v is a result that the words of the registers rs in lane l determine: it takes the lowest of their poison tags, and
when none is poisoned its word stands in the relation R to theirs (R215). -/
def Ctx.determined (c : Ctx) (rs : List (BitVec 7)) (l : Nat) (R : (Nat → Word) → Word → Prop) (v : Val) : Prop :=
  v.p = tagMinL (rs.map (fun r => (c.src r l).p)) ∧
  (v.p = none → R (fun k => (rs.map (fun r => (c.src r l).w)).getD k 0#32) v.w)

/-- r is the value delivered for the exact result x to an integer element of TYPE t: x clamped to the range with SAT, and
a value that differs from x by a multiple of 2^w without (R291). -/
def delivered (t : Nat) (sat : Bool) (x r : Int) : Prop :=
  if sat then r = max (intLo (tySigned t) (tyWidth t)) (min (intHi (tySigned t) (tyWidth t)) x)
  else ∃ k : Int, r = x + k * 2 ^ tyWidth t

/-- Each element of r is what f of the elements of the sources delivers (R346). -/
def elementwise (t : Nat) (sat : Bool) (f : (Nat → Int) → Int) (x : Nat → Word) (r : Word) : Prop :=
  ∀ i < tyCount t, delivered t sat (f (fun k => intElem t (x k) i)) (intElem t r i)

/-- n is the number of leading zero bits of a word (R348). -/
def isLeadingZeros (a : Word) (n : Nat) : Prop :=
  n ≤ 32 ∧ (∀ i < n, a.getLsbD (31 - i) = false) ∧ (n < 32 → a.getLsbD (31 - n) = true)

/-- The result of operation f on element i of the source words, each element read under FTZ, rounded with RND and the
word u i: its code, and whether the element has an arithmetic event (R354, R305). -/
def floatElement (m : BitVec 16) (u : Nat → Nat) (f : (Nat → FNum) → NumOp) (x : Nat → Word) (i : Nat) : Res :=
  let t := tyOf m
  let y := f (fun k => (tyFmt t).read (ftzOf m) (elem (tyWidth t) (x k) i))
  (tyFmt t).out (rndOf m) (u i) (ftzOf m) y.2 y.1

/-- Each element of r is the code that operation f delivers for the elements of the sources (R354). -/
def floatwise (m : BitVec 16) (u : Nat → Nat) (f : (Nat → FNum) → NumOp) (x : Nat → Word) (r : Word) : Prop :=
  ∀ i < tyCount (tyOf m), elem (tyWidth (tyOf m)) r i = (floatElement m u f x i).bits

/-- The stochastic word of element i of lane l: drawn under RND = SR only (R306, R308). -/
def Ctx.drawnWord (c : Ctx) (l i : Nat) : Nat := if rndOf c.g.m = 5 then c.sr l i else 0

/-- No active lane has an event of operation f on the registers rs, or the trap is off (R305, R343). -/
def Ctx.noEvent (c : Ctx) (te : BitVec 1) (u : Nat → Nat → Nat) (rs : List (BitVec 7)) (f : (Nat → FNum) → NumOp) : Prop :=
  te = 0#1 ∨ ∀ l < 32, c.act.getLsbD l = true → ∀ i < tyCount (tyOf c.g.m),
    (floatElement c.g.m (u l) f (fun k => (rs.map (fun r => (c.src r l).w)).getD k 0#32) i).ev = false

/-- Instruction i issues a long-latency operation: exec answers a next state in which operation p, as ok describes it,
waits to be performed, it is counted on its flag (R270), its lanes have drawn stochastic words, the split stands at the
next word, the workgroup is w but for its logs, and the group is otherwise f of what it was; nothing else has changed: in
particular the destination registers hold what they held. -/
def IssuesPending (i : Instr) (s : State) (c : Ctx) (w : Wg) (f : Group → Group) (drawn : Nat) (ok : Pend → Prop) : Prop :=
  ∃ t g p, exec i s = .next t ∧ OnlyGroup s t { c with wg := w } ∧ mget? t.groups c.gk = some g ∧ ok p ∧
    ({ g with pend := c.g.pend, flags := c.g.flags, srctr := c.g.srctr, splits := c.g.splits } : Group) = f c.g ∧
    g.pend = c.g.pend ++ [p] ∧ p.id = s.nextId ∧ t.nextId = s.nextId + 1 ∧ p.pc = c.sp.pc ∧ p.gen = c.wg.gen ∧
    p.drop = false ∧
    (∀ k, g.flag k = if k = p.flag ∧ k < 12 then c.g.flag k + 1 else c.g.flag k) ∧
    (∀ l < 32, g.sr l = if p.lanes.getLsbD l = true then c.g.sr l + BitVec.ofNat 32 ((drawn + 3) / 4) else c.g.sr l) ∧
    g.standsAt c.sp.mask (c.sp.pc + 1)

/-- Nothing holds a release of the issuing group at this scope back: its watches are resolved and its lanes' accesses
performed at the scope (R186, R193), no delayed fault is due (R378), no strike is unconsumed, and the tiles it stored to
have been pushed (R164). -/
structure MayRelease (s : State) (c : Ctx) (scope : Nat) : Prop where
  resolved  : c.g.watching = false
  performed : s.relHeld c scope = false
  noDelayed : c.g.delayed = []
  noStrike  : c.g.struck = false
  pushed    : c.wg.dirty = []

/-- What a release at this scope leaves of the group: its confirmed watch entries are freed (R367), and everything is
published at that scope (R197). -/
def Group.afterRelease (g : Group) (scope : Nat) : Group :=
  { g.freeConfirmed with pub := pubUp scope g.pub }

/-- Every lane's access passes the checks of R363, which touch nothing: the translations are at hand. -/
def State.forms (s : State) (c : Ctx) (h : BitVec 4) (a : BitVec 7) (n : Nat) (k : AccKind) (fs : Forms) : Prop :=
  s.formAll c h a n k = (fs, s) ∧ ∀ e ∈ fs, e.2.isRight = true

/-- Instruction i queues an operation of an engine: exec answers a next state in which operation o, as ok describes it, stands
last in its queue, is counted on its flag (R270), its lanes have drawn stochastic words, the split stands at the next word,
and the group is otherwise f of what it was; nothing else has changed. -/
def QueuesOp (i : Instr) (s : State) (c : Ctx) (f : Group → Group) (drawn : Nat) (ok : QOp → Prop) : Prop :=
  ∃ t g o, exec i s = .next t ∧ OnlyGroup s t c ∧ mget? t.groups c.gk = some g ∧ ok o ∧
    ({ g with ops := c.g.ops, flags := c.g.flags, srctr := c.g.srctr, splits := c.g.splits } : Group) = f c.g ∧
    g.ops = c.g.ops ++ [o] ∧ o.id = s.nextId ∧ t.nextId = s.nextId + 1 ∧ o.pc = c.sp.pc ∧ o.gen = c.wg.gen ∧
    o.started = false ∧ o.after = mgetD c.g.fences o.q [] ∧
    (∀ k, g.flag k = if k = o.flag ∧ k < 12 then c.g.flag k + 1 else c.g.flag k) ∧
    (∀ l < 32, g.sr l = c.g.sr l + BitVec.ofNat 32 drawn) ∧ g.standsAt c.sp.mask (c.sp.pc + 1)

/-- The canonical form of the state's tables: the groups, workgroups and gangs are listed by strictly rising key, and memory
and every workgroup's banks are in the canonical form of memory. -/
structure State.canonical (s : State) : Prop where
  groups : (mkeys s.groups).Pairwise (· < ·)
  wgs    : (mkeys s.wgs).Pairwise (· < ·)
  gangs  : (mkeys s.gangs).Pairwise (· < ·)
  sram   : ∀ e ∈ s.wgs, Memory.wf e.2.sram = true
  memory : Memory.wf s.mm.bytes = true

/-- Memory is in canonical form, no error injection is armed or has flipped a bit that is stored or held, no error lies unfound, and no home
has failed. -/
structure State.Sound (s : State) : Prop where
  memory : Memory.wf s.mm.bytes = true
  noArm  : b64 (s.reg 0x27) 0 0 = 0
  noFlip : ∀ x ∈ s.mm.lines, x.2.flip = none
  noSent : s.mm.flips = []
  noFlaw : s.rel.latent = []
  noDead : s.mm.deadStack = [] ∧ s.mm.deadCtl = []

/-- Every lane of splits ps is in a split of g, live or ready, at the word after its own. -/
def Group.wentOn (g : Group) (ps : List Split) : Prop :=
  ∀ q ∈ ps, ∀ l < 32, q.mask.getLsbD l = true → ∃ p ∈ g.splits, p.mask.getLsbD l = true ∧ p.pc = q.pc + 1 ∧
    p.isWaiting = false

/-- The words xs of the contributing lanes, lowest first, combine to r under operation o of R352. -/
def combined (m : BitVec 16) (o : Nat) (xs : List Word) (r : Word) : Prop :=
  let t := tyOf m
  match o with
  | 0 => ∀ i < tyCount t, delivered t (satOf m) ((xs.map (fun x => intElem t x i)).foldr (· + ·) 0) (intElem t r i)
  | 1 => ∀ i < tyCount t, (∀ x ∈ xs, intElem t r i ≤ intElem t x i) ∧
           ((∃ x ∈ xs, intElem t r i = intElem t x i) ∨ xs = [] ∧ intElem t r i = intHi (tySigned t) (tyWidth t))
  | 2 => ∀ i < tyCount t, (∀ x ∈ xs, intElem t x i ≤ intElem t r i) ∧
           ((∃ x ∈ xs, intElem t r i = intElem t x i) ∨ xs = [] ∧ intElem t r i = intLo (tySigned t) (tyWidth t))
  | 3 => ∀ i < 32, r.getLsbD i = xs.all (fun x => x.getLsbD i)
  | 4 => ∀ i < 32, r.getLsbD i = xs.any (fun x => x.getLsbD i)
  | 5 => ∀ i < 32, r.getLsbD i = decide ((xs.filter (fun x => x.getLsbD i)).length % 2 = 1)
  | _ => ∀ i < tyCount t, elem (tyWidth t) r i = redElem m o (xs.map (fun x => elem (tyWidth t) x i))

/-- Operation o of R352 accepts the mode m. -/
def reductionMode (m : BitVec 16) (o : Nat) : Prop :=
  (o ≤ 2 ∧ tyOf m ≤ 5) ∨ (3 ≤ o ∧ o ≤ 5) ∨ (6 ≤ o ∧ o ≤ 8 ∧ 6 ≤ tyOf m ∧ tyOf m ≤ 8 ∧ (o = 6 → rndOf m ≠ 5))

/-- r is the F32 code of the greatest of the magnitudes xs: the canonical NaN when one is a NaN (R358). -/
def isGreatest (xs : List FNum) (r : Nat) : Prop :=
  if xs.any FNum.isNan then r = f32.nan
  else (∀ x ∈ xs, numLt (f32.dec r) x = false) ∧ ∃ x ∈ xs, numEq x (f32.dec r) = true

end Sys2Proof.Machine
end

