-- ==== Sys2Proof/Certificates/Slice0/Obligations.lean ====
section
/-! DEFINITION. The statements about the model. -/

open Sys2Proof Sys2Proof.Machine

/-! ## Vector instructions -/

/-- R346, R347: the integer instructions, with the registers they read and the exact function of their elements, and the
width w of an element. -/
def Sys2Proof.Machine.integerRows (d a b : BitVec 7) (n : BitVec 11) (w : Nat) :
    List (Instr × List (BitVec 7) × ((Nat → Int) → Int)) :=
  [(.vadd d a b, [a, b], fun x => x 0 + x 1),
   (.vsub d a b, [a, b], fun x => x 0 - x 1),
   (.vmul d a b, [a, b], fun x => x 0 * x 1),
   (.vmulh d a b, [a, b], fun x => (x 0 * x 1) / 2 ^ w),
   (.vmad d a b, [a, b, d], fun x => x 0 * x 1 + x 2),
   (.vmin d a b, [a, b], fun x => if x 0 ≤ x 1 then x 0 else x 1),
   (.vmax d a b, [a, b], fun x => if x 0 ≤ x 1 then x 1 else x 0),
   (.vabs d a, [a], fun x => if x 0 < 0 then - x 0 else x 0),
   (.vneg d a, [a], fun x => - x 0),
   (.vaddi d a n, [a], fun x => x 0 + n.toInt)]

/-- R346, R347, R291: VADD, VSUB, VMUL, VMULH, VMAD, VMIN, VMAX, VABS, VNEG and VADDI complete under every integer TYPE; each
element of each active, guard-true lane is the exact result wrapped, or clamped under SAT, and nothing else changes. VDOT4
completes under TYPE I8x4 and N8x4 with d plus the four byte products as one 32-bit element that SAT governs, and raises
fault 0x01 under any other TYPE. -/
def Obligations.IntegerArithmetic : Prop :=
  (∀ (s : State) (c : Ctx) (d a b : BitVec 7) (n : BitVec 11) (i : Instr) (rs : List (BitVec 7)) (f : (Nat → Int) → Int),
    (i, rs, f) ∈ integerRows d a b n (tyWidth (tyOf c.g.m)) → MayIssue s c i → tyOf c.g.m ≤ 5 → c.logRoom d.toNat 1 →
    Completes i s c (.regs c.act d.toNat 1 (fun _ l v =>
      c.determined rs l (elementwise (tyOf c.g.m) (satOf c.g.m) f) v))) ∧
  (∀ (s : State) (c : Ctx) (d a b : BitVec 7), MayIssue s c (.vdot4 d a b) →
    ((tyOf c.g.m = 4 ∨ tyOf c.g.m = 5) → c.logRoom d.toNat 1 →
      Completes (.vdot4 d a b) s c (.regs c.act d.toNat 1 (fun _ l v =>
        c.determined [a, b, d] l (fun x r =>
          let t := tyOf c.g.m
          delivered (t - 4) (satOf c.g.m)
            (intElem (t - 4) (x 2) 0 + intElem t (x 0) 0 * intElem t (x 1) 0 + intElem t (x 0) 1 * intElem t (x 1) 1 +
              intElem t (x 0) 2 * intElem t (x 1) 2 + intElem t (x 0) 3 * intElem t (x 1) 3)
            (intElem (t - 4) r 0)) v))) ∧
    (tyOf c.g.m ≠ 4 → tyOf c.g.m ≠ 5 → exec (.vdot4 d a b) s = .next (s.raiseAll c 1)))

/-- R347, R348: the word instructions, with the registers they read and the relation of their result to the source words;
arith says that TYPE is I32. -/
def Sys2Proof.Machine.wordRows (d a b : BitVec 7) (n : BitVec 11) (k : BitVec 5) (arith : Bool) :
    List (Instr × List (BitVec 7) × ((Nat → Word) → Word → Prop)) :=
  [(.vand d a b, [a, b], fun x r => ∀ i < 32, r.getLsbD i = ((x 0).getLsbD i && (x 1).getLsbD i)),
   (.vor d a b, [a, b], fun x r => ∀ i < 32, r.getLsbD i = ((x 0).getLsbD i || (x 1).getLsbD i)),
   (.vxor d a b, [a, b], fun x r => ∀ i < 32, r.getLsbD i = ((x 0).getLsbD i ^^ (x 1).getLsbD i)),
   (.vshl d a b, [a, b], fun x r => r.toNat = (x 0).toNat * 2 ^ ((x 1).toNat % 32) % 2 ^ 32),
   (.vshr d a b, [a, b], fun x r =>
      if arith then r.toInt = (x 0).toInt / 2 ^ ((x 1).toNat % 32) else r.toNat = (x 0).toNat / 2 ^ ((x 1).toNat % 32)),
   (.vrol d a b, [a, b], fun x r => ∀ i < 32, r.getLsbD ((i + (x 1).toNat) % 32) = (x 0).getLsbD i),
   (.vclz d a, [a], fun x r => isLeadingZeros (x 0) r.toNat),
   (.vpopc d a, [a], fun x r => r.toNat = ((List.range 32).filter (fun i => (x 0).getLsbD i)).length),
   (.vbrev d a, [a], fun x r => ∀ i < 32, r.getLsbD i = (x 0).getLsbD (31 - i)),
   (.vbfe d a b, [a, b], fun x r =>
      let p := (x 1).toNat % 32
      let q := min ((x 1).toNat / 256 % 64) 32
      ∀ i < 32, r.getLsbD i =
        if q = 0 then false
        else if arith then (x 0).getLsbD (min (p + min i (q - 1)) 31)
        else decide (i < q) && (x 0).getLsbD (p + i)),
   (.vbfi d a b, [a, b, d], fun x r =>
      let p := (x 1).toNat % 32
      let q := min ((x 1).toNat / 256 % 64) 32
      ∀ i < 32, r.getLsbD i = if p ≤ i ∧ i < p + q then (x 0).getLsbD (i - p) else (x 2).getLsbD i),
   (.vandi d a n, [a], fun x r => ∀ i < 32, r.getLsbD i = ((x 0).getLsbD i && n.getLsbD i)),
   (.vori d a n, [a], fun x r => ∀ i < 32, r.getLsbD i = ((x 0).getLsbD i || n.getLsbD i)),
   (.vxori d a n, [a], fun x r => ∀ i < 32, r.getLsbD i = ((x 0).getLsbD i ^^ n.getLsbD i)),
   (.vshli d a k, [a], fun x r => r.toNat = (x 0).toNat * 2 ^ k.toNat % 2 ^ 32),
   (.vshri d a k, [a], fun x r =>
      if arith then r.toInt = (x 0).toInt / 2 ^ k.toNat else r.toNat = (x 0).toNat / 2 ^ k.toNat)]

/-- R347, R348: the logic, shift, count and bit-field instructions complete under every mode with the results the rule
lists, whatever the shift amount or field, and nothing else changes. -/
def Obligations.WordOperations : Prop :=
  ∀ (s : State) (c : Ctx) (d a b : BitVec 7) (n : BitVec 11) (k : BitVec 5) (i : Instr) (rs : List (BitVec 7))
    (R : (Nat → Word) → Word → Prop),
    (i, rs, R) ∈ wordRows d a b n k (tyOf c.g.m == 0) → MayIssue s c i → c.logRoom d.toNat 1 →
    Completes i s c (.regs c.act d.toNat 1 (fun _ l v => c.determined rs l R v))

/-- R347, R349, R264: VMOV copies with the poison, VTAG gives the tag's number, VMOVI and VLUI build a constant, VAFF adds a
lane-dependent stride, VSEL selects by the predicate and takes the poison of the selected source only; VPACK narrows, and
VUNPK widens, between elements of two widths under TYPE 2 to 5. -/
def Obligations.MovesConstantsAndPacking : Prop :=
  (∀ (s : State) (c : Ctx) (d a b : BitVec 7) (p : BitVec 3) (e : BitVec 1) (n : BitVec 11) (k : BitVec 18),
    c.logRoom d.toNat 1 →
    (MayIssue s c (.vmov d a) → Completes (.vmov d a) s c (.reg c.act d (c.src a))) ∧
    (MayIssue s c (.vtag d a) → Completes (.vtag d a) s c (.reg c.act d (fun _ => clean (match c.tag a with
      | .U => 0#32
      | .A => 1#32
      | .G => 2#32)))) ∧
    (MayIssue s c (.vmovi d k) → Completes (.vmovi d k) s c (.regs c.act d.toNat 1 (fun _ _ v =>
      v.p = none ∧ v.w.toInt = k.toInt))) ∧
    (MayIssue s c (.vlui d k) → Completes (.vlui d k) s c (.regs c.act d.toNat 1 (fun _ l v =>
      c.determined [d] l (fun x r => r.toNat = k.toNat * 2 ^ 14 + (x 0).toNat % 2 ^ 14) v))) ∧
    (MayIssue s c (.vaff d a n) → Completes (.vaff d a n) s c (.regs c.act d.toNat 1 (fun _ l v =>
      c.determined [a] l (fun x r => (r.toNat : Int) = ((x 0).toNat + l * n.toInt) % 2 ^ 32) v))) ∧
    (MayIssue s c (.vsel d a e p b) → Completes (.vsel d a e p b) s c (.reg c.act d (fun l =>
      if (c.g.pred p.toNat).getLsbD l ≠ e.getLsbD 0 then c.src a l else c.src b l)))) ∧
  (∀ (s : State) (c : Ctx) (d a b : BitVec 7), 2 ≤ tyOf c.g.m → tyOf c.g.m ≤ 5 →
    (MayIssue s c (.vpack d a b) → c.logRoom d.toNat 1 →
      Completes (.vpack d a b) s c (.regs c.act d.toNat 1 (fun _ l v => c.determined [a, b] l (fun x r =>
        let t := tyOf c.g.m
        let wide := t - 2
        let n := tyCount wide
        ∀ i < tyCount t, delivered t (satOf c.g.m) (intElem wide (x (i / n)) (i % n)) (intElem t r i)) v))) ∧
    (MayIssue s c (.vunpk d a) → c.logRoom d.toNat 2 →
      Completes (.vunpk d a) s c (.regs c.act d.toNat 2 (fun j l v => c.determined [a] l (fun x r =>
        let t := tyOf c.g.m
        let n := tyCount (t - 2)
        ∀ i < n, intElem (t - 2) r i = intElem t (x 0) (n * j + i)) v))))

/-- R351: VBCAST, VSHFL and VSHFX complete, and copy the value of a lane that the index selects; a poisoned index poisons
the result with its tag.
R352: VRED completes, and writes the combination over all active, guard-true lanes to each of them, and VSCAN the one over those with
numbers up to its own, or below it with EXCL, under every mode the operation accepts; a poisoned contributing lane
poisons the result. That a float sum is folded lane by lane from the lowest, and the tag of a result none of whose lanes is clean,
are the model's choice (log entry 22), not the spec's words. -/
def Obligations.LaneMovesAndReductions : Prop :=
  (∀ (s : State) (c : Ctx) (d a b : BitVec 7), c.logRoom d.toNat 1 →
    (∀ l0, (c.opLane = some l0 ∨ c.act = 0#32) → MayIssue s c (.vbcast d a b) →
      Completes (.vbcast d a b) s c (.regs c.act d.toNat 1 (fun _ _ v =>
        ((c.src b l0).p.isSome = true → v.p = (c.src b l0).p) ∧
        ((c.src b l0).p = none → v.like (c.src a ((c.src b l0).w.toNat % 32)))))) ∧
    (MayIssue s c (.vshfl d a b) →
      Completes (.vshfl d a b) s c (.regs c.act d.toNat 1 (fun _ l v =>
        ((c.src b l).p.isSome = true → v.p = (c.src b l).p) ∧
        ((c.src b l).p = none → v.like (c.src a ((c.src b l).w.toNat % 32)))))) ∧
    (MayIssue s c (.vshfx d a b) →
      Completes (.vshfx d a b) s c (.regs c.act d.toNat 1 (fun _ l v =>
        ((c.src b l).p.isSome = true → v.p = (c.src b l).p) ∧
        ((c.src b l).p = none → v.like (c.src a (l ^^^ ((c.src b l).w.toNat % 32)))))))) ∧
  (∀ (s : State) (c : Ctx) (d a : BitVec 7) (o : BitVec 4) (e : BitVec 1), c.logRoom d.toNat 1 →
    reductionMode c.g.m o.toNat →
    (MayIssue s c (.vred d a o) → Completes (.vred d a o) s c (.regs c.act d.toNat 1 (fun _ _ v =>
      v.p = tagMinL ((lanesOf c.act).map (fun k => (c.src a k).p)) ∧
      (v.p = none → combined c.g.m o.toNat ((lanesOf c.act).map (fun k => (c.src a k).w)) v.w)))) ∧
    (MayIssue s c (.vscan d a e o) → Completes (.vscan d a e o) s c (.regs c.act d.toNat 1 (fun _ l v =>
      let ks := (lanesOf c.act).filter (fun k => if e = 1#1 then k < l else k ≤ l)
      v.p = tagMinL (ks.map (fun k => (c.src a k).p)) ∧
      (v.p = none → combined c.g.m o.toNat (ks.map (fun k => (c.src a k).w)) v.w)))))

/-- R353, R350, R355: the predicate operations and the comparisons write their bit in each active, guard-true lane of Pd,
P7 discarding it, when no source lane they use is poisoned. -/
def Obligations.PredicateResults : Prop :=
  ∀ (s : State) (c : Ctx) (p q r : BitVec 3) (d a b : BitVec 7) (k : BitVec 4) (k3 : BitVec 3) (n : BitVec 11),
    (MayIssue s c (.pand p q r) → Completes (.pand p q r) s c (.pred c.act p (fun l =>
      (c.g.pred q.toNat).getLsbD l && (c.g.pred r.toNat).getLsbD l))) ∧
    (MayIssue s c (.por p q r) → Completes (.por p q r) s c (.pred c.act p (fun l =>
      (c.g.pred q.toNat).getLsbD l || (c.g.pred r.toNat).getLsbD l))) ∧
    (MayIssue s c (.pxor p q r) → Completes (.pxor p q r) s c (.pred c.act p (fun l =>
      (c.g.pred q.toNat).getLsbD l ^^ (c.g.pred r.toNat).getLsbD l))) ∧
    (MayIssue s c (.pnot p q) → Completes (.pnot p q) s c (.pred c.act p (fun l => !(c.g.pred q.toNat).getLsbD l))) ∧
    (MayIssue s c (.ballot d q) → c.logRoom d.toNat 1 → Completes (.ballot d q) s c (.regs c.act d.toNat 1 (fun _ _ v =>
      v.p = none ∧ ∀ j < 32, v.w.getLsbD j = (c.act.getLsbD j && (c.g.pred q.toNat).getLsbD j)))) ∧
    (MayIssue s c (.pmask p a) → (∀ l < 32, c.act.getLsbD l = true → (c.src a l).p = none) →
      Completes (.pmask p a) s c (.pred c.act p (fun l => (c.src a l).w.getLsbD l))) ∧
    (MayIssue s c (.vcmp p a b k) → tyOf c.g.m ≤ 1 →
      (∀ l < 32, c.act.getLsbD l = true → (c.src a l).p = none ∧ (c.src b l).p = none) →
      Completes (.vcmp p a b k) s c (.pred c.act p (fun l =>
        let x := intElem (tyOf c.g.m) (c.src a l).w 0
        let y := intElem (tyOf c.g.m) (c.src b l).w 0
        decide (k = 0#4 ∧ x = y ∨ k = 1#4 ∧ x ≠ y ∨ k = 2#4 ∧ x < y ∨ k = 3#4 ∧ x ≤ y ∨ k = 4#4 ∧ y < x ∨
          k = 5#4 ∧ y ≤ x)))) ∧
    (MayIssue s c (.vcmpi k p a n) → tyOf c.g.m ≤ 1 → (∀ l < 32, c.act.getLsbD l = true → (c.src a l).p = none) →
      Completes (.vcmpi k p a n) s c (.pred c.act p (fun l =>
        let x := intElem (tyOf c.g.m) (c.src a l).w 0
        let y := n.toInt
        decide (k = 0#4 ∧ x = y ∨ k = 1#4 ∧ x ≠ y ∨ k = 2#4 ∧ x < y ∨ k = 3#4 ∧ x ≤ y ∨ k = 4#4 ∧ y < x ∨
          k = 5#4 ∧ y ≤ x)))) ∧
    (MayIssue s c (.vfcmp p a b k3) → tyOf c.g.m = 6 →
      (∀ l < 32, c.act.getLsbD l = true → (c.src a l).p = none ∧ (c.src b l).p = none) →
      Completes (.vfcmp p a b k3) s c (.pred c.act p (fun l =>
        let x := f32.read (ftzOf c.g.m) (c.src a l).w.toNat
        let y := f32.read (ftzOf c.g.m) (c.src b l).w.toNat
        if x.isNan || y.isNan then decide (k3 = 1#3 ∨ k3 = 6#3)
        else decide (k3 = 0#3 ∧ numEq x y ∨ k3 = 1#3 ∧ ¬ numEq x y ∨ k3 = 2#3 ∧ numLt x y ∧ ¬ numEq x y ∨
          k3 = 3#3 ∧ (numLt x y ∨ numEq x y) ∨ k3 = 4#3 ∧ numLt y x ∧ ¬ numEq x y ∨
          k3 = 5#3 ∧ (numLt y x ∨ numEq x y) ∨ k3 = 7#3))))

/-- R264: the special values by number: how many registers each takes, and its value in lane l. -/
def Sys2Proof.Machine.specialRows (s : State) (c : Ctx) : List (Nat × Nat × (Nat → Nat)) :=
  [(0, 1, fun l => l), (1, 1, fun _ => c.g.k), (2, 1, fun _ => c.wg.k), (3, 1, fun _ => c.wg.k % c.gg.w),
   (4, 1, fun _ => c.wg.k / c.gg.w), (5, 2, fun _ => c.gg.index % 2 ^ 48), (6, 1, fun _ => c.g.core),
   (7, 1, fun _ => c.g.core / 48), (8, 1, fun _ => match c.sp.st with
     | .live ix => ix
     | _ => 0),
   (9, 1, fun _ => c.g.splits.length), (10, 2, fun _ => s.coreClk c.g.core), (11, 2, fun _ => s.time % 2 ^ 48),
   (12, 1, fun l => (c.g.sr l).toNat), (13, 1, fun _ => c.wg.rbcause),
   (14, 1, fun l => if c.sp.handler then (mgetD c.g.finfo l 0#32).toNat else 0)]

/-- R264, R361, R337: VSPR writes each special value, in one register or a pair, and GETM the mode word; R360: VRAND
writes the words of one block of the lane's stochastic stream, which advances by one. Where it meets log entry 38, it
states the model's reading, not the spec's words. -/
def Obligations.SpecialValues : Prop :=
  ∀ (s : State) (c : Ctx) (d : BitVec 7),
    (∀ (n : BitVec 18) (k : Nat) (f : Nat → Nat), (n.toNat, k, f) ∈ specialRows s c → MayIssue s c (.vspr d n) →
      c.logRoom d.toNat k → Completes (.vspr d n) s c (.regs c.act d.toNat k (fun j l v =>
        v.p = none ∧ v.w.toNat = f l / 2 ^ (32 * j) % 2 ^ 32))) ∧
    (MayIssue s c (.getm d) → c.logRoom d.toNat 1 → Completes (.getm d) s c (.regs c.act d.toNat 1 (fun _ _ v =>
      v.p = none ∧ v.w.toNat = c.g.m.toNat))) ∧
    (∀ n : BitVec 2, MayIssue s c (.vrand d n) → c.logRoom d.toNat (2 ^ n.toNat) →
      Completes (.vrand d n) s c { Effect.regs c.act d.toNat (2 ^ n.toNat) (fun j l v =>
        v.p = none ∧ v.w.toNat = (philox (b64 c.l.seed 31 0) (b64 c.l.seed 63 32) (c.g.sr l).toNat 0
          (c.gl l % 2 ^ 32) (c.gl l / 2 ^ 32 % 2 ^ 32)).getD j 0) with drawn := 4 })

/-- R354: the float instructions that write at once, with the registers they read, their operation, and whether they
round. -/
def Sys2Proof.Machine.floatRows (d a b : BitVec 7) (t : BitVec 1) (rnd : Nat) :
    List (Instr × List (BitVec 7) × ((Nat → FNum) → NumOp) × Bool) :=
  [(.vfadd d a b t, [a, b], fun x => numAdd rnd (x 0) (x 1), true),
   (.vfsub d a b t, [a, b], fun x => numAdd rnd (x 0) (x 1).neg, true),
   (.vfmul d a b t, [a, b], fun x => numMul (x 0) (x 1), true),
   (.vfma d a b t, [a, b, d], fun x => numFma rnd (x 0) (x 1) (x 2), true),
   (.vfmin d a b t, [a, b], fun x => (numMin (x 0) (x 1), false), false),
   (.vfmax d a b t, [a, b], fun x => (numMax (x 0) (x 1), false), false)]

/-- R354, R303, R308: VFADD, VFSUB, VFMUL, VFMA, VFMIN, VFMAX and VFRND under the float TYPEs, with every rounding mode:
each element of each active, guard-true lane is the operation's exact result delivered to the format, a rounding
instruction draws one word per element under SR, and nothing else changes. Lanes without an enabled event. -/
def Obligations.FloatArithmetic : Prop :=
  ∀ (s : State) (c : Ctx) (d a b : BitVec 7) (te : BitVec 1), 6 ≤ tyOf c.g.m → tyOf c.g.m ≤ 8 → c.logRoom d.toNat 1 →
    (∀ (i : Instr) (rs : List (BitVec 7)) (f : (Nat → FNum) → NumOp) (rounds : Bool),
      (i, rs, f, rounds) ∈ floatRows d a b te (rndOf c.g.m) → MayIssue s c i →
      c.noEvent te (fun l e => if rounds then c.drawnWord l e else 0) rs f →
      Completes i s c { Effect.regs c.act d.toNat 1 (fun _ l v =>
          c.determined rs l (floatwise c.g.m (fun e => if rounds then c.drawnWord l e else 0) f) v) with
        drawn := if rounds = true ∧ rndOf c.g.m = 5 then tyCount (tyOf c.g.m) else 0 }) ∧
    (let r := fun (l i : Nat) (x : Word) => (tyFmt (tyOf c.g.m)).out 0 0 (ftzOf c.g.m) false
        (numRint (rndOf c.g.m) (c.drawnWord l i)
          ((tyFmt (tyOf c.g.m)).read (ftzOf c.g.m) (elem (tyWidth (tyOf c.g.m)) x i)))
     MayIssue s c (.vfrnd d a te) →
      (te = 0#1 ∨ ∀ l < 32, ∀ i < tyCount (tyOf c.g.m), (r l i (c.src a l).w).ev = false) →
      Completes (.vfrnd d a te) s c { Effect.regs c.act d.toNat 1 (fun _ l v =>
          c.determined [a] l (fun x y => ∀ i < tyCount (tyOf c.g.m), elem (tyWidth (tyOf c.g.m)) y i = (r l i (x 0)).bits) v) with
        drawn := if rndOf c.g.m = 5 then tyCount (tyOf c.g.m) else 0 })

/-- R270, R354, R356: the long-latency float instructions, with the registers they read, their operation on an element of
the TYPE, and whether they round with RND. -/
def Sys2Proof.Machine.longRows (d a b : BitVec 7) (t : BitVec 1) :
    List (Instr × List (BitVec 7) × ((Nat → FNum) → NumOp)) :=
  [(.vfdiv d a b t, [a, b], fun x => numDiv (x 0) (x 1)), (.vsqrt d a t, [a], fun x => numSqrt (x 0))]

/-- R356: the special functions, with the function of an exact value each computes. -/
def Sys2Proof.Machine.specialFunctionRows (d a : BitVec 7) (t : BitVec 1) : List (Instr × (FNum → NumOp)) :=
  [(.vrcp d a t, numRcp), (.vrsq d a t, numRsq), (.vexp2 d a t, numExp2), (.vlog2 d a t, numLog2),
   (.vsin d a t, numTrig false), (.vcos d a t, numTrig true)]

/-- R270, R354, R356: VFDIV, VSQRT and the special functions issue an operation that carries the result of each active,
guard-true lane to Vd, counted on the flag the clause's SETA names. Where it meets log entries 20 and 23, it states the
model's reading, not the spec's words. -/
def Obligations.LongFloatArithmetic : Prop :=
  ∀ (s : State) (c : Ctx) (d a b : BitVec 7) (te : BitVec 1), 6 ≤ tyOf c.g.m → tyOf c.g.m ≤ 8 → c.act ≠ 0#32 →
    c.g.flagFull c.sp.setA = false →
    (∀ (i : Instr) (rs : List (BitVec 7)) (f : (Nat → FNum) → NumOp), (i, rs, f) ∈ longRows d a b te → MayIssue s c i →
      c.noEvent te c.drawnWord rs f →
      IssuesPending i s c c.wg id (if rndOf c.g.m = 5 then tyCount (tyOf c.g.m) else 0) (fun p =>
        p.dst = d.toNat ∧ p.nreg = 1 ∧ p.lanes = c.act ∧ p.flag = c.sp.setA ∧ p.acc = [] ∧
        ∃ vals u, p.op = .value vals u ∧ ∀ l < 32, c.act.getLsbD l = true →
          c.determined rs l (floatwise c.g.m (c.drawnWord l) f) (vals.getD l (clean 0#32)))) ∧
    (∀ (i : Instr) (f : FNum → NumOp), (i, f) ∈ specialFunctionRows d a te → MayIssue s c i →
      (te = 0#1 ∨ ∀ l < 32, ∀ e < tyCount (tyOf c.g.m), (sfuElem (tyFmt (tyOf c.g.m)) (ftzOf c.g.m) f
        (elem (tyWidth (tyOf c.g.m)) (c.src a l).w e)).ev = false) →
      IssuesPending i s c c.wg id 0 (fun p =>
        p.dst = d.toNat ∧ p.nreg = 1 ∧ p.lanes = c.act ∧ p.flag = c.sp.setA ∧ p.acc = [] ∧
        ∃ vals u, p.op = .value vals u ∧ ∀ l < 32, c.act.getLsbD l = true →
          c.determined [a] l (fun x r => ∀ e < tyCount (tyOf c.g.m), elem (tyWidth (tyOf c.g.m)) r e =
            (sfuElem (tyFmt (tyOf c.g.m)) (ftzOf c.g.m) f (elem (tyWidth (tyOf c.g.m)) (x 0) e)).bits)
            (vals.getD l (clean 0#32))))

/-- R357: VCVT between any two TYPEs completes: entry e of the target registers is the conversion of entry e of the
source registers, a packed source or target taking two or four registers. Lanes without an enabled event. Where it meets
log entry 21, it states the model's reading, not the spec's words. -/
def Obligations.Conversion : Prop :=
  ∀ (s : State) (c : Ctx) (d a : BitVec 7) (y : BitVec 4) (te : BitVec 1), MayIssue s c (.vcvt d a y te) →
    tyOf c.g.m ≤ 9 → a.toNat % cvtSrc (tyOf c.g.m) y.toNat = 0 → d.toNat % cvtDst (tyOf c.g.m) y.toNat = 0 →
    c.logRoom d.toNat (cvtDst (tyOf c.g.m) y.toNat) →
    let st := tyOf c.g.m
    let dt := y.toNat
    let entry := fun l e => cvtElem c.g.m dt (if st ≤ 5 ∧ dt ≤ 5 then 0 else c.drawnWord l e)
      (elem (tyWidth st) (c.g.lane (a.toNat + e / tyCount st) l).w (e % tyCount st))
    (te = 0#1 ∨ ∀ l < 32, ∀ e < max (tyCount st) (tyCount dt), (entry l e).ev = false) →
    Completes (.vcvt d a y te) s c { Effect.regs c.act d.toNat (cvtDst st dt) (fun j l v =>
        v.p = tagMinL ((upto (cvtSrc st dt)).map (fun k => (c.g.lane (a.toNat + k) l).p)) ∧
        (v.p = none → ∀ i < tyCount dt, elem (tyWidth dt) v.w i = (entry l (tyCount dt * j + i)).bits)) with
      drawn := if rndOf c.g.m = 5 ∧ ¬ (st ≤ 5 ∧ dt ≤ 5) then max (tyCount st) (tyCount dt) else 0 }

/-- R358, R359: VAMAX writes the greatest magnitude over the elements of its registers in the active, guard-true lanes;
VSCL writes the rounded-up quotient by the format's q; VCVTN writes each lane's four codes of the block and the block's
status. -/
def Obligations.Quantisation : Prop :=
  ∀ (s : State) (c : Ctx) (d a : BitVec 7) (n : BitVec 2) (f : BitVec 3) (te : BitVec 1),
    (MayIssue s c (.vamax d a n) → 6 ≤ tyOf c.g.m → tyOf c.g.m ≤ 9 → c.logRoom d.toNat 1 →
      Completes (.vamax d a n) s c (.regs c.act d.toNat 1 (fun _ _ v =>
        v.p = tagMinL ((lanesOf c.act).map (fun l =>
          tagMinL ((upto (2 ^ n.toNat)).map (fun k => (c.g.lane (a.toNat + k) l).p)))) ∧
        (v.p = none → isGreatest ((lanesOf c.act).flatMap (fun l => (upto (2 ^ n.toNat)).flatMap (fun k =>
          (upto (tyCount (tyOf c.g.m))).map (fun i => ((tyFmt (tyOf c.g.m)).read (ftzOf c.g.m)
            (elem (tyWidth (tyOf c.g.m)) (c.g.lane (a.toNat + k) l).w i)).abs)))) v.w.toNat)))) ∧
    (∀ q, (b64 (c.slot f) 4 0, q) ∈ [(1, 1), (2, 1), (3, 3), (4, 7), (5, 15), (6, 31), (7, 63), (8, 127), (9, 255), (10, 448)] →
      MayIssue s c (.vscl d a f te) → c.logRoom d.toNat 1 →
      (te = 0#1 ∨ ∀ l < 32, (sclElem q (ftzOf c.g.m) (satOf c.g.m) (c.src a l).w.toNat).ev = false) →
      Completes (.vscl d a f te) s c (.regs c.act d.toNat 1 (fun _ l v => c.determined [a] l (fun x r =>
        r.toNat = (sclElem q (ftzOf c.g.m) (satOf c.g.m) (x 0).toNat).bits) v))) ∧
    (let fa := b64 (c.slot f) 4 0
     let rnd := b64 (c.slot f) 42 40
     let sc := c.g.lane (d.toNat + 1) (c.opLane.getD 0)
     let code := fun k e => quantise fa rnd (if rnd = 5 ∧ fa ≠ 1 then c.sr k e else 0) (f32.dec sc.w.toNat)
       (f32.dec (c.g.lane (a.toNat + e) k).w.toNat)
     let pois := fun k => tagMin sc.p (tagMinL ((upto 4).map (fun e => (c.g.lane (a.toNat + e) k).p)))
     MayIssue s c (.vcvtn d a f te) → 1 ≤ fa → fa ≤ 9 → (c.g.reg (d.toNat + 1)).tag = .U → c.logRoom d.toNat 2 →
      (te = 0#1 ∨ ∀ k < 32, ∀ e < 4, (code k e).sat = false) →
      Completes (.vcvtn d a f te) s c { Effect.regs c.act d.toNat 2 (fun j l v =>
          if j = 0 then v.p = pois l ∧ (v.p = none → v.w = codeWord (fmtWidth fa) ((upto 4).map (code l)))
          else v.p = none ∧ v.w = statusWord (((lanesOf c.act).filter (fun k => (pois k).isNone)).flatMap (fun k =>
            (upto 4).map (code k)))) with
        drawn := if rnd = 5 ∧ fa ≠ 1 then 4 else 0 })

/-- R217: where every active lane of the split has a poisoned source and no block is open, a predicate instruction raises fault
0x09 for those lanes and writes no predicate. R305, R343, R122: with the trap enabled and no block open, a float instruction
all of whose active lanes, the whole split, have an arithmetic event raises fault 0x0A for them and writes nothing: stated of the
forms that write at once. That a poisoned lane has the event of its free number is the model's choice (log entry 16), not the
spec's words. -/
def Obligations.DataFaults : Prop :=
  (∀ (s : State) (c : Ctx) (p : BitVec 3) (a b : BitVec 7) (k : BitVec 4) (k3 : BitVec 3) (n : BitVec 11) (i : Instr)
    (rs : List (BitVec 7)),
    (i, rs) ∈ [(Instr.pmask p a, [a]), (Instr.vcmp p a b k, [a, b]), (Instr.vcmpi k p a n, [a]),
      (Instr.vfcmp p a b k3, [a, b])] →
    MayIssue s c i → (i = .pmask p a ∨ tyOf c.g.m ≤ 1 ∧ i ≠ .vfcmp p a b k3 ∨ tyOf c.g.m = 6 ∧ i = .vfcmp p a b k3) →
    c.wg.blocks = [] → c.act = c.sp.mask →
    (∀ l < 32, c.act.getLsbD l = true → ∃ r ∈ rs, (c.src r l).p.isSome = true) →
    exec i s = .next (s.raiseAll c 9)) ∧
  (∀ (s : State) (c : Ctx) (d a b : BitVec 7) (i : Instr) (rs : List (BitVec 7)) (f : (Nat → FNum) → NumOp) (rounds : Bool),
    (i, rs, f, rounds) ∈ floatRows d a b 1#1 (rndOf c.g.m) → MayIssue s c i → 6 ≤ tyOf c.g.m → tyOf c.g.m ≤ 8 →
    c.wg.blocks = [] → c.act = c.sp.mask →
    (∀ l < 32, c.act.getLsbD l = true → ∃ e < tyCount (tyOf c.g.m),
      (floatElement c.g.m (fun e => if rounds then c.drawnWord l e else 0) f
        (fun k => (rs.map (fun r => (c.src r l).w)).getD k 0#32) e).ev = true) →
    exec i s = .next (s.raiseAll c 0x0A))

/-! ## Clauses, control and recovery -/

/-- R269, R268: at a clause boundary the header gives the split its flags, its wait and the end of the clause, and the split
stands at the first word of the body; nothing else changes; a header in a clause's body, and one that is not well formed,
raises fault 0x01, once the flags its clause waits for are zero. R326, R327: NOP goes on with no effect; YIELD goes on, merging
with what stands ready at the next word (R112), and gives its live slot to the ready split of lowest word offset and lane
when there is one. -/
def Obligations.ClauseStartNopAndYield : Prop :=
  (∀ (s : State) (c : Ctx) (w : BitVec 12) (a b l : BitVec 4) (y : BitVec 1), s.ctx = some c → c.sp.inClause = false →
    (Instr.clause w a b l y).wf = true →
    ∃ t g p, exec (.clause w a b l y) s = .next t ∧ OnlyGroup s t c ∧ mget? t.groups c.gk = some g ∧
      g.sameButSplits c.g ∧ (∀ k, k ≠ c.ix → g.splits[k]? = c.g.splits[k]?) ∧ g.splits[c.ix]? = some p ∧
      p.mask = c.sp.mask ∧ p.st = c.sp.st ∧ p.inClause = true ∧ p.pc = c.sp.pc + 1 ∧ p.clauseEnd = c.sp.pc + 1 + l.toNat ∧
      p.setA = a.toNat ∧ p.setB = b.toNat ∧ p.wait = w ∧ p.yieldHint = decide (y = 1#1)) ∧
  (∀ (s : State) (c : Ctx) (w : BitVec 12) (a b l : BitVec 4) (y : BitVec 1), s.ctx = some c → c.wg.failing = none →
    (c.sp.inClause = true ∨ (Instr.clause w a b l y).wf = false) →
    (∀ f < 12, c.sp.wait.getLsbD f = true → c.g.flag f = 0) →
    (c.sp.wait = 0#12 ∨ ∀ d ∈ c.g.delayed, ¬ (d.flag < 12 ∧ c.sp.wait.getLsbD d.flag = true)) →
    exec (.clause w a b l y) s = .next (s.raiseAll c 1)) ∧
  (∀ (s : State) (c : Ctx),
    (MayIssue s c .nop → Completes .nop s c .nothing) ∧
    (MayIssue s c .yield →
      (∃ t g, exec .yield s = .next t ∧ OnlyGroup s t c ∧ mget? t.groups c.gk = some g ∧ g.sameButSplits c.g ∧
        g.joinsAt c c.sp.mask (c.sp.pc + 1)) ∧
      ((∀ k q, k ≠ c.ix → c.g.splits[k]? = some q → q.pc ≠ c.sp.pc + 1) → Completes .yield s c .nothing ∧
      ∀ k q, nextReady c.g.splits (some c.ix) = some k → c.g.splits[k]? = some q →
        ∃ t g p r, exec .yield s = .next t ∧ mget? t.groups c.gk = some g ∧ g.splits[k]? = some p ∧ p.st = c.sp.st ∧
          p.mask = q.mask ∧ p.pc = q.pc ∧ g.splits[c.ix]? = some r ∧ r.st = .ready ∧ r.mask = c.sp.mask)))

/-- The branches of R320 to R322 with the lanes that transfer, and whether they write the link. -/
def Sys2Proof.Machine.branchRows (c : Ctx) (o : BitVec 22) (a : BitVec 7) :
    List (Instr × (Nat → Bool) × (Nat → Int) × Bool) :=
  let votes := fun l => (c.g.pred (nbits c.g.m.toNat 4 2)).getLsbD l != c.g.m.getLsbD 1
  let lanes := (List.range 32).filter (fun l => c.sp.mask.getLsbD l)
  [(.bra o, fun l => c.act.getLsbD l, fun _ => c.sp.pc + o.toInt, false),
   (.braAny o, fun l => c.act.getLsbD l && lanes.any votes, fun _ => c.sp.pc + o.toInt, false),
   (.braAll o, fun l => c.act.getLsbD l && lanes.all votes, fun _ => c.sp.pc + o.toInt, false),
   (.call o, fun l => c.act.getLsbD l, fun _ => c.sp.pc + o.toInt, true),
   (.callx a, fun l => c.act.getLsbD l, fun l => (c.src a l).w.toNat, true),
   (.brx a, fun l => c.act.getLsbD l, fun l => (c.src a l).w.toNat, false),
   (.ret a, fun l => c.act.getLsbD l, fun l => (c.src a l).w.toNat, false)]

/-- R323: JTAB takes the table word its index names when it is below N, every word holding its own number as its case;
SWITCH takes the first table word whose case equals the value; a lane that takes none goes on after the table. -/
def Obligations.TableBranches : Prop :=
  ∀ (s : State) (c : Ctx) (a : BitVec 7) (n : BitVec 11) (ws : List Word) (dest : Nat → Nat),
    s.tableWords c n.toNat = (.inr ws, s) → ws.length = n.toNat →
    (∀ l < 32, c.act.getLsbD l = true → (c.src a l).p = none) →
    (∀ l < 32, dest l < 2 ^ 22 ∧ (dest l ≠ c.sp.pc + 1 + n.toNat → HeaderAt s c (dest l))) →
    (MayIssue s c (.jtab a n) → (∀ k < n.toNat, (ws.getD k 0#32).toNat / 2 ^ 16 = k) →
      (∀ l < 32, if c.act.getLsbD l = true ∧ (c.src a l).w.toNat < n.toNat then
          (dest l : Int) = c.sp.pc + 1 + (c.src a l).w.toNat + ((ws.getD (c.src a l).w.toNat 0#32).setWidth 16).toInt
        else dest l = c.sp.pc + 1 + n.toNat) →
      TransfersTo (.jtab a n) s c dest .nothing) ∧
    (MayIssue s c (.switch a n) →
      (∀ l < 32,
        (∃ k < n.toNat, c.act.getLsbD l = true ∧ (ws.getD k 0#32).toNat / 2 ^ 16 = (c.src a l).w.toNat ∧
          (∀ j < k, (ws.getD j 0#32).toNat / 2 ^ 16 ≠ (c.src a l).w.toNat) ∧
          (dest l : Int) = c.sp.pc + 1 + k + ((ws.getD k 0#32).setWidth 16).toInt) ∨
        ((c.act.getLsbD l = false ∨ ∀ k < n.toNat, (ws.getD k 0#32).toNat / 2 ^ 16 ≠ (c.src a l).w.toNat) ∧
          dest l = c.sp.pc + 1 + n.toNat)) →
      TransfersTo (.switch a n) s c dest .nothing)

/-- R319 to R322: BRA, BRA.ANY, BRA.ALL, CALL, CALLX, BRX and RET: each lane that transfers goes to its target, the others to
the next word, the split dividing by destination; CALL and CALLX write pc + 1 to V1 in the lanes that transfer; the register
that an indirect form reads is read before the link is written. R275, R269: a target outside the code, or at no clause header,
raises fault 0x01, and a poisoned target register 0x09, with no link written: stated of every form where every lane of the split
is guard-true, transfers and faults. -/
def Obligations.Branches : Prop :=
  (∀ (s : State) (c : Ctx) (o : BitVec 22) (a : BitVec 7) (i : Instr) (takes : Nat → Bool) (target : Nat → Int) (link : Bool)
    (dest : Nat → Nat), (i, takes, target, link) ∈ branchRows c o a → MayIssue s c i → c.logRoom 1 1 →
    ((i = .brx a ∨ i = .ret a ∨ i = .callx a) → ∀ l < 32, c.act.getLsbD l = true → (c.src a l).p = none) →
    (∀ l < 32, if takes l then (dest l : Int) = target l ∧ dest l < 2 ^ 22 ∧ (dest l ≠ c.sp.pc + 1 → HeaderAt s c (dest l))
      else dest l = c.sp.pc + 1) →
    TransfersTo i s c dest (.regs (if link then maskOf takes else 0#32) 1 1 (fun _ _ v =>
      v.p = none ∧ v.w.toNat = (c.sp.pc + 1) % 2 ^ 32))) ∧
  (∀ (s : State) (c : Ctx) (o : BitVec 22) (a : BitVec 7), c.act = c.sp.mask →
    (∀ i takes target link, (i, takes, target, link) ∈ branchRows c o a → MayIssue s c i →
      ((i = .brx a ∨ i = .ret a ∨ i = .callx a) → ∀ l < 32, c.act.getLsbD l = true → (c.src a l).p = none) →
      (∀ l < 32, c.act.getLsbD l = true → takes l = true ∧
        (¬ (0 ≤ target l ∧ target l < 2 ^ 22) ∨
          ∃ (t : Nat) (w : Word), (t : Int) = target l ∧ t ≠ c.sp.pc + 1 ∧ s.fetch c t = (.inr w, s) ∧ isHeader w = false)) →
      exec i s = .next (s.raiseAll c 1)) ∧
    (∀ i, i = .brx a ∨ i = .ret a ∨ i = .callx a → MayIssue s c i →
      (∀ l < 32, c.act.getLsbD l = true → (c.src a l).p.isSome = true) → exec i s = .next (s.raiseAll c 9)))

/-- R324, R113: JOIN parks the split while another split of the group runs; when every lane of the group waits there,
the splits at the JOIN go on as one at the next word. R325, R135: EXIT without a guard-true lane does nothing; in an
open block it fails the block with cause 9; otherwise, with no watch pending and no strike unconsumed, its lanes become
exited with their reservations gone, and the rest of the split goes on. Where it meets log entry 51, it states the
model's reading, not the spec's words. -/
def Obligations.JoinAndExit : Prop :=
  (∀ (s : State) (c : Ctx), MayIssue s c .join →
    (c.otherRuns → ParksAt .join s c .join id) ∧
    (c.g.splits = [c.sp] → Completes .join s c .nothing) ∧
    (∀ q, c.g.splits = [c.sp, q] → q.st = .waiting .join → q.pc = c.sp.pc → q.handler = false → c.sp.handler = false →
      q.busy = none →
      ∃ t g, exec .join s = .next t ∧ OnlyGroup s t c ∧ mget? t.groups c.gk = some g ∧ g.sameButSplits c.g ∧
        g.standsAt (c.sp.mask ||| q.mask) (c.sp.pc + 1) ∧ g.splits.length = 1)) ∧
  (∀ (s : State) (c : Ctx), MayIssue s c .exit →
    (c.act = 0#32 → Completes .exit s c .nothing) ∧
    (c.act ≠ 0#32 → c.wg.blocks ≠ [] → exec .exit s = .next (s.failBlock c.wk 9 0 c.sp.pc false)) ∧
    (c.act ≠ 0#32 → c.wg.blocks = [] → c.g.watching = false → c.g.delayed = [] → c.g.struck = false →
      (∃ k h, k ≠ c.gk ∧ (k, h) ∈ s.groups ∧ h.wg = c.wk ∧ ∃ q ∈ h.splits, ∀ w, q.st ≠ .waiting w) →
      (c.wg.conv = none ∨ c.wg.convl = []) →
      ∃ t g, exec .exit s = .next t ∧ mget? t.groups c.gk = some g ∧ g.exited = c.g.exited ||| c.act ∧
        (∀ x ∈ g.resv, x ∈ c.g.resv ∧ c.act.getLsbD x.1 = false) ∧ g.regs = c.g.regs ∧ g.preds = c.g.preds ∧
        (c.sp.mask &&& ~~~ c.act ≠ 0#32 → g.standsAt (c.sp.mask &&& ~~~ c.act) (c.sp.pc + 1)) ∧
        (∀ k, k ≠ c.gk → mget? t.groups k = mget? s.groups k) ∧ t.mm = s.mm ∧ t.wgs = s.wgs))

/-- R328, R127: ENSURE whose group has nothing outstanding records the end offset and parks its split, with the cycle
limit that its uniform register gives; a register that is not tagged U raises fault 0x01. R329, R331, R332, R335: a
terminator reached in its routine parks the group there, and anywhere else raises fault 0x0F; ACCEPT outside the
acceptance test raises 0x0F; REJECT with a guard-true lane fails the block with cause 10 and does nothing outside one;
CONVL outside a conversation does nothing, in one it marks its group while another group with lanes has not issued it, and
takes the workgroup out of the conversation once all have; in a block it is an escape. Where it meets log entry 50, it
states the model's reading, not the spec's words. -/
def Obligations.EnsureAndBlockWords : Prop :=
  (∀ (s : State) (c : Ctx) (r : BitVec 7) (e : BitVec 18), MayIssue s c (.ensure r e) → c.sp.pc + e.toNat < 2 ^ 22 →
    (∀ l < 32, c.sp.mask.getLsbD l = true → (c.src r l).p = none) →
    (c.tag r ≠ .U → exec (.ensure r e) s = .next (s.raiseAll c 1)) ∧
    (c.tag r = .U → (∀ f < 12, c.g.flag f = 0) → c.g.watches = [] → c.g.pend = [] → c.g.delayed = [] → c.wg.dirty = [] →
      (c.wg.ensureEnd = none ∨ c.wg.ensureEnd = some e.toNat) → c.g.splits = [c.sp] →
      ∃ t g w p, exec (.ensure r e) s = .next t ∧ mget? t.groups c.gk = some g ∧
        g.sameButSplits { c.g with pub := pubUp 1 c.g.pub } ∧ g.splits = [p] ∧
        p.mask = c.sp.mask ∧ p.st = .waiting .ensure ∧ p.pc = c.sp.pc ∧ p.arg = ((c.g.reg r.toNat).val.getD 0 0#32).toNat ∧
        mget? t.wgs c.wk = some w ∧ w.ensureEnd = some e.toNat ∧ t.mm = s.mm ∧
        (∀ k, k ≠ c.gk → mget? t.groups k = mget? s.groups k))) ∧
  (∀ (s : State) (c : Ctx) (n : BitVec 22) (p : BitVec 3),
    (∀ i, (i = .elseby n ∨ i = .elseerr) → MayIssue s c i →
      (∀ b r, c.wg.blocks = b :: r → b.inTest = false → b.term = c.sp.pc → c.g.splits = [c.sp] → ParksAt i s c .term id) ∧
      ((c.wg.blocks = [] ∨ ∃ b r, c.wg.blocks = b :: r ∧ (b.inTest = true ∨ b.term ≠ c.sp.pc)) →
        exec i s = .next (s.raiseAll c 0x0F))) ∧
    (MayIssue s c (.accept p) → (c.wg.blocks = [] ∨ ∃ b r, c.wg.blocks = b :: r ∧ b.inTest = false) →
      exec (.accept p) s = .next (s.raiseAll c 0x0F)) ∧
    (MayIssue s c .reject →
      (c.act ≠ 0#32 → c.wg.blocks ≠ [] → exec .reject s = .next (s.failBlock c.wk 10 0 c.sp.pc false)) ∧
      ((c.act = 0#32 ∨ c.wg.blocks = []) → Completes .reject s c .nothing)) ∧
    (MayIssue s c .convl →
      (c.wg.blocks = [] → c.wg.conv = none → Completes .convl s c .nothing) ∧
      (c.wg.blocks = [] → c.wg.conv ≠ none →
        (∃ h, h ∈ s.groups ∧ h.2.wg = c.wk ∧ h.1 ≠ c.gk ∧ h.2.splits ≠ [] ∧ h.2.k ≠ c.g.k ∧ h.2.k ∉ c.wg.convl) →
        ∃ t g w, exec .convl s = .next t ∧ mget? t.groups c.gk = some g ∧ g.sameButSplits c.g ∧
          g.standsAt c.sp.mask (c.sp.pc + 1) ∧ mget? t.wgs c.wk = some w ∧ c.g.k ∈ w.convl ∧ w.conv = c.wg.conv ∧ t.mm = s.mm) ∧
      (c.wg.blocks = [] → c.wg.conv ≠ none →
        (∀ h ∈ s.groups, h.2.wg = c.wk → h.2.splits = [] ∨ h.2.k = c.g.k ∨ h.2.k ∈ c.wg.convl) →
        (∀ h ∈ s.groups, h.2.wg ≠ c.wk → ∀ p ∈ h.2.splits, p.st ≠ .waiting .accept) →
        ∃ t g w, exec .convl s = .next t ∧ mget? t.groups c.gk = some g ∧ g.sameButSplits c.g ∧
          g.standsAt c.sp.mask (c.sp.pc + 1) ∧ mget? t.wgs c.wk = some w ∧ w.conv = none ∧ w.convl = [] ∧ t.mm = s.mm) ∧
      (c.wg.blocks ≠ [] → exec .convl s = .next (s.failBlock c.wk 9 0 c.sp.pc false))))

/-- R129, R331, R133: ACCEPT in the acceptance test, with the group's watches and accesses done: where another group of the
workgroup has not arrived, the group waits with its vote; where the group is the only one and its predicate is true in all its
lanes, an outermost block of a workgroup in no conversation commits: no block is open, RBCAUSE is 0, and the group goes on at
the next word. R334, R136: CONVJ outside a block and a conversation reads the conversation block at its address; a valid
member mask that names the workgroup parks the group with it, and a mask of fewer than two members or without the workgroup
raises fault 0x0F. -/
def Obligations.AcceptAndConversationJoin : Prop :=
  (∀ (s : State) (c : Ctx) (p : BitVec 3) (b : Block) (r : List Block), MayIssue s c (.accept p) →
    c.wg.blocks = b :: r → b.inTest = true → c.g.watches = [] → c.g.pend = [] → c.g.delayed = [] → c.wg.dirty = [] →
    c.g.splits = [c.sp] → (c.wg.conv = none ∨ c.wg.convl = []) →
    ((∃ k h, k ≠ c.gk ∧ (k, h) ∈ s.groups ∧ h.wg = c.wk ∧ ∃ q ∈ h.splits, ∀ w, q.st ≠ .waiting w) →
      ∃ t g q, exec (.accept p) s = .next t ∧ mget? t.groups c.gk = some g ∧
        g.sameButSplits { c.g with pub := pubUp 1 c.g.pub } ∧ g.splits = [q] ∧
        q.mask = c.sp.mask ∧ q.pc = c.sp.pc ∧ q.st = .waiting .accept ∧
        (q.arg ≠ 0 ↔ ∀ l < 32, c.sp.mask.getLsbD l = true → (c.g.pred p.toNat).getLsbD l = true) ∧
        (∀ k, k ≠ c.wk → mget? t.wgs k = mget? s.wgs k) ∧ mget? t.wgs c.wk = some (c.wg.pubUp c.g.k 1)) ∧
    (r = [] → c.wg.conv = none → c.wg.pushes = [] → (∀ e ∈ s.groups, e.2.wg = c.wk → e.1 = c.gk) → s.groups.length = 1 →
      (∀ l < 32, c.sp.mask.getLsbD l = true → (c.g.pred p.toNat).getLsbD l = true) →
      ∃ t g w, exec (.accept p) s = .next t ∧ mget? t.groups c.gk = some g ∧
        g.sameButSplits { c.g with pub := pubUp 1 c.g.pub } ∧
        g.standsAt c.sp.mask (c.sp.pc + 1) ∧ mget? t.wgs c.wk = some w ∧ w.blocks = [] ∧ w.rbcause = 0 ∧ w.sram = c.wg.sram ∧
        t.mm = s.mm)) ∧
  (∀ (s : State) (c : Ctx) (a : BitVec 7) (h : BitVec 4) (ps : List Access) (v : Nat) (m : BitVec 24),
    MayIssue s c (.convj a h) → c.wg.blocks = [] → c.wg.conv = none → c.g.watches = [] → c.g.pend = [] → s.passing c.wk = false → c.g.delayed = [] →
    c.wg.dirty = [] → c.g.splits = [c.sp] → (s.formAccess c h.toNat a.toNat 64 .conv c.g.low) = (.inr ps, s) →
    (∀ x ∈ ps, x.path = 0 ∨ x.path = 1 ∨ x.path = 4) → s.stale c.l = false →
    s.readParts c.g.core ps = (v, none, s) → v = m.toNat →
    (∀ e ∈ s.groups, e.2.conv = none) → (∀ e ∈ s.wgs, e.2.conv = none ∨ e.2.conv = some m.toNat) →
    (2 ≤ ((List.range 24).filter (fun k => m.getLsbD k)).length → m.getLsbD c.wg.k = true →
      m.toNat < 2 ^ (c.gg.w * c.gg.h) → 
      ParksAt (.convj a h) s c .convj (fun g => { g with conv := some m.toNat, pub := pubUp 1 g.pub })) ∧
    ((((List.range 24).filter (fun k => m.getLsbD k)).length < 2 ∨ m.getLsbD c.wg.k = false) →
      exec (.convj a h) s = .next (s.raiseAll c 0x0F)))

/-- R336, R267: SETM writes the mode word, from its immediate or from the lowest guard-true active lane, when its TYPE is at
most 9, its RND at most 5 and bits 14 and 15 are zero (and, from a register, the upper half), and raises fault 0x01 otherwise; a
poisoned register value raises fault 0x09; with no guard-true lane it does nothing. -/
def Obligations.SetMode : Prop :=
  (∀ (s : State) (c : Ctx) (i : Instr) (v : Nat),
    (∃ x : BitVec 16, i = .setm x ∧ v = x.toNat ∧ c.act ≠ 0#32) ∨
      (∃ (r : BitVec 7) (l : Nat), i = .setmRegister r ∧ c.opLane = some l ∧ (c.src r l).p = none ∧
        v = (c.src r l).w.toNat) →
    MayIssue s c i →
    (v / 32 % 16 ≤ 9 → v / 512 % 8 ≤ 5 → v < 2 ^ 14 →
      ∃ t g, exec i s = .next t ∧ OnlyGroup s t c ∧ mget? t.groups c.gk = some g ∧ g.m.toNat = v ∧
        ({ g with m := c.g.m, splits := c.g.splits } : Group) = c.g ∧ g.standsAt c.sp.mask (c.sp.pc + 1)) ∧
    (¬ (v / 32 % 16 ≤ 9 ∧ v / 512 % 8 ≤ 5 ∧ v < 2 ^ 14) → exec i s = .next (s.raiseAll c 1))) ∧
  (∀ (s : State) (c : Ctx) (x : BitVec 16) (r : BitVec 7),
    (MayIssue s c (.setm x) → c.act = 0#32 → Completes (.setm x) s c .nothing) ∧
    (MayIssue s c (.setmRegister r) →
      (c.act = 0#32 → Completes (.setmRegister r) s c .nothing) ∧
      (∀ l, c.opLane = some l → (c.src r l).p.isSome = true → exec (.setmRegister r) s = .next (s.raiseAll c 9))))

/-! ## Faults -/

/-- R263, R271, R114, R116: the checks at issue of an instruction word, in their order: an ill-formed or misplaced word
raises fault 0x01, then a group instruction that does not converge 0x02, then a register or tile beyond its budget 0x03,
each in all lanes of the split. -/
def Obligations.IssueChecks : Prop :=
  ∀ (s : State) (c : Ctx) (i : Instr), (encode i).isSome = true → (∀ w a b l y, i ≠ .clause w a b l y) → Unheld s c i →
    (¬ LegalPlace c i → exec i s = .next (s.raiseAll c 1)) ∧
    (LegalPlace c i → ¬ Converges c i → exec i s = .next (s.raiseAll c 2)) ∧
    (LegalPlace c i → Converges c i → ¬ InBudget c i → exec i s = .next (s.raiseAll c 3))

/-- R122, R124: a fault of the whole split outside any block. With FAULTEN and outside the handler, the lanes form a
split at the fault entry that keeps the instruction's offset as its return point, FAULTINFO of each of its lanes reads
the code and the return point, its lanes' reservations are lost (R187); memory, every other group, every workgroup and
the rest of the group are unchanged. Without FAULTEN, or in the fault entry (a double fault, whose code is 0x11), the
lanes form a faulted split at the instruction and the queue's FAULTS count one more. Where it meets log entries 38 and
39, it states the model's reading, not the spec's words. -/
def Obligations.FaultEntryAndFaultedSplit : Prop :=
  (∀ (s : State) (c : Ctx) (k : Nat), CtxOf s c → (∃ ix, c.sp.st = .live ix) → c.sp.mask ≠ 0#32 → c.wg.blocks = [] →
    c.l.faulten = true → c.sp.handler = false → c.sp.pc < 2 ^ 22 → k < 256 →
    ∃ g p, mget? (s.raiseAll c k).groups c.gk = some g ∧ p ∈ g.splits ∧ p.mask = c.sp.mask ∧ p.pc = c.l.faultoff ∧
      p.handler = true ∧ p.ret = c.sp.pc ∧ p.inClause = false ∧
      (∀ l < 32, mgetD g.finfo l 0#32 = if c.sp.mask.getLsbD l then BitVec.ofNat 32 (k + c.sp.pc * 2 ^ 8)
        else mgetD c.g.finfo l 0#32) ∧
      (∀ x ∈ g.resv, x ∈ c.g.resv ∧ c.sp.mask.getLsbD x.1 = false) ∧
      ({ g with finfo := c.g.finfo, resv := c.g.resv, splits := c.g.splits } : Group) = c.g ∧
      (s.raiseAll c k).mm = s.mm ∧ (s.raiseAll c k).wgs = s.wgs ∧ (s.raiseAll c k).regs = s.regs ∧
      (s.raiseAll c k).kul = s.kul ∧ ∀ j, j ≠ c.gk → mget? (s.raiseAll c k).groups j = mget? s.groups j) ∧
  (∀ (s : State) (c : Ctx) (k : Nat), CtxOf s c → (∃ ix, c.sp.st = .live ix) → c.sp.mask ≠ 0#32 → c.wg.blocks = [] →
    (c.l.faulten = false ∨ c.sp.handler = true) →
    ∃ g p, mget? (s.raiseAll c k).groups c.gk = some g ∧ p ∈ g.splits ∧ p.mask = c.sp.mask ∧ p.pc = c.sp.pc ∧
      p.st = .faulted ∧ p.fcode = (if c.sp.handler then 0x11 else k) ∧
      ({ g with resv := c.g.resv, splits := c.g.splits } : Group) = c.g ∧
      (s.raiseAll c k).wgs = s.wgs ∧
      (∃ q, mget? (s.raiseAll c k).kul.queues c.l.queue = some q ∧ q.faults = min 0xFFFF ((s.queue c.l.queue).faults + 1)) ∧
      ∀ j h, j ≠ c.gk → mget? s.groups j = some h →
        ∃ h', mget? (s.raiseAll c k).groups j = some h' ∧ ({ h' with resv := h.resv } : Group) = h)

/-- The four ATOM majors, with whether each acquires and releases (R371). -/
def Sys2Proof.Machine.atomRows (d a : BitVec 7) (h : BitVec 4) (k : BitVec 3) (n : BitVec 1) (o : BitVec 3) :
    List (Instr × Bool × Bool) :=
  [(.atom d a h k n o, false, false), (.atomAcq d a h k n o, true, false), (.atomRel d a h k n o, false, true),
   (.atomAr d a h k n o, true, true)]

/-- R123: in an open block the memory faults 0x04 to 0x08, poison 0x09 and the faults 0x0A to 0x0C fail the innermost block with
the rule's cause in place of the fault path. R135, R197: in an open block, an STRL, an ATOM of any order, an SC with REL or a FENCE
of a scope wider than WG, by a workgroup in no conversation or by a group with global writes that nothing so wide has
published, and an EVSIG, a SYSW, a GBAR and a BANKM, fail the innermost block with cause 9, once what stands before a release
has been waited for; nothing else of them is performed. R130, R131: a failure of the innermost block of a workgroup in no conversation:
the workgroup freezes with the cause, its generation moves on, and its operations that have not started are cancelled; memory
is unchanged. -/
def Obligations.BlockFaultsAndFailure : Prop :=
  (∀ (s : State) (c : Ctx) (k cause : Nat), CtxOf s c → c.sp.mask ≠ 0#32 → c.wg.blocks ≠ [] →
    (k, cause) ∈ [(4, 2), (5, 2), (6, 2), (7, 2), (8, 2), (9, 5), (0x0A, 3), (0x0B, 4), (0x0C, 6)] →
    s.raiseAll c k = s.failBlock c.wk cause 0 c.sp.pc false) ∧
  (∀ (s : State) (c : Ctx) (d a b : BitVec 7) (h : BitVec 4) (z k kind : BitVec 3) (n p : BitVec 1) (o : BitVec 3) (x : BitVec 16)
    (e : BitVec 3) (m : BitVec 2) (bk : BitVec 5) (fs : Forms) (l : Nat), c.wg.blocks ≠ [] → c.opLane = some l →
    let escapes := fun (i : Instr) => exec i s = .next (s.failBlock c.wk 9 0 c.sp.pc false)
    let wide := 2 ≤ k.toNat ∧ (c.wg.conv = none ∨ ∃ y ∈ c.g.pub, y.1 = none ∧ y.2 < k.toNat)
    (wide → s.bankWait c h a = false →
      (MayIssue s c (.strl d a h z k) → c.g.flagFull c.sp.setB = false → MayRelease s c k.toNat →
        s.forms c h a (2 ^ z.toNat) .store fs → escapes (.strl d a h z k)) ∧
      (MayIssue s c (.sc d a h z 1#1 k) → c.g.flagFull c.sp.setA = false → MayRelease s c k.toNat →
        s.forms c h a (2 ^ z.toNat) .lrsc fs → escapes (.sc d a h z 1#1 k)) ∧
      (∀ i acq rel, (i, acq, rel) ∈ atomRows d a h k n o → MayIssue s c i → ((o = 4#3 ∨ o = 5#3) → tyOf c.g.m ≤ 1) →
        c.g.flagFull (if n = 0#1 then c.sp.setA else c.sp.setB) = false → (acq = true → c.g.watchingLanes c.sp.mask = false) →
        (rel = true → MayRelease s c k.toNat) → s.forms c h a 4 .atom fs → escapes i)) ∧
    (wide → MayIssue s c (.fence p k kind) →
      (kind.toNat < 2 → (kind = 1#3 → c.g.watchingLanes c.act = false ∧ c.g.loading c.act = false) →
        (p = 1#1 → c.g.accessing c.act = false) → escapes (.fence p k kind)) ∧
      (2 ≤ kind.toNat → MayRelease s c k.toNat → exec (.fence p k kind) s =
        .next (({ s with draws := if kind = 3#3 then s.draws + 1 else s.draws } : State).failBlock c.wk 9 0 c.sp.pc false))) ∧
    (∀ i v, (i, v) ∈ [(Instr.evsigAdd a b, c.g.lane b.toNat l), (.evsigSet a b, c.g.lane b.toNat l), (.evsigClr a, clean 0#32)] →
      MayIssue s c i → MayRelease s c 4 → (c.g.lane a.toNat l).p = none → v.p = none → (c.g.lane a.toNat l).w.toNat < 0x10000 →
      s.fld (0x40 + c.l.part) 15 0 ≤ (c.g.lane a.toNat l).w.toNat →
      (c.g.lane a.toNat l).w.toNat < s.fld (0x40 + c.l.part) 15 0 + s.fld (0x40 + c.l.part) 48 32 → escapes i) ∧
    (MayIssue s c (.sysw d x) → MayRelease s c 4 → (c.g.lane d.toNat l).p = none → (c.g.lane (d.toNat + 1) l).p = none →
      s.mayWrite c.l.part x.toNat
        (BitVec.ofNat 64 ((c.g.lane d.toNat l).w.toNat + (c.g.lane (d.toNat + 1) l).w.toNat * 2 ^ 32)) = true →
      escapes (.sysw d x)) ∧
    (MayIssue s c .gbar → MayRelease s c 2 → escapes .gbar) ∧
    (MayIssue s c (.bankm d e m bk) → escapes (.bankm d e m bk))) ∧
  (∀ (s : State) (wk cause pc : Nat) (w : Wg), mget? s.wgs wk = some w → w.blocks ≠ [] → w.failing = none → w.conv = none →
    ∃ w' f, mget? (s.failBlock wk cause 0 pc false).wgs wk = some w' ∧ w'.failing = some f ∧ f.cause = cause ∧ f.depth = 0 ∧
      f.pc = pc ∧ w'.gen = w.gen + 1 ∧ ({ w' with failing := none, gen := w.gen } : Wg) = w ∧
      (s.failBlock wk cause 0 pc false).mm = s.mm ∧
      (∀ k g, mget? s.groups k = some g → g.wg = wk → ∃ g', mget? (s.failBlock wk cause 0 pc false).groups k = some g' ∧
        g'.ops = g.ops.filter (·.started) ∧ g'.regs = g.regs ∧ g'.pend = g.pend) ∧
      (∀ k, k ≠ wk → mget? (s.failBlock wk cause 0 pc false).wgs k = mget? s.wgs k))

/-- R338, R339, R257: TRAP raises fault 0x0D, and BKPT 0x0E with the debugger off, in the guard-true lanes, the others going
on; BKPT with the debugger on goes on and stops its scheduler; without a guard-true lane both do nothing. -/
def Obligations.TrapAndBreakpoint : Prop :=
  ∀ (s : State) (c : Ctx) (k : BitVec 16) (i : Instr) (code : Nat),
    (i, code) ∈ [(Instr.trap k, 0x0D), (Instr.bkpt k, 0x0E)] → MayIssue s c i →
    (c.act = 0#32 → Completes i s c .nothing) ∧
    (c.act ≠ 0#32 → (i = .bkpt k → s.fld 0x29 63 63 = 0) → c.wg.blocks = [] → c.l.faulten = true → c.sp.handler = false →
      ∃ t g p, exec i s = .next t ∧ mget? t.groups c.gk = some g ∧ p ∈ g.splits ∧ p.pc = c.l.faultoff ∧
        (∀ l < 32, c.act.getLsbD l = true → p.mask.getLsbD l = true) ∧
        ((∀ q ∈ c.g.splits, q.handler = false) → p.mask = c.act) ∧
        p.handler = true ∧ p.ret = c.sp.pc ∧ g.regs = c.g.regs ∧ g.preds = c.g.preds ∧ t.mm = s.mm ∧
        (∀ l < 32, c.act.getLsbD l = true → (mgetD g.finfo l 0#32).toNat % 256 = code) ∧
        (c.sp.mask &&& ~~~ c.act ≠ 0#32 → g.joinsAt c (c.sp.mask &&& ~~~ c.act) (c.sp.pc + 1))) ∧
    (i = .bkpt k → c.act ≠ 0#32 → s.fld 0x29 63 63 = 1 →
      ∃ t g x, exec i s = .next t ∧ mget? t.groups c.gk = some g ∧ g.sameButSplits c.g ∧
        g.standsAt c.sp.mask (c.sp.pc + 1) ∧ mget? t.stops (c.g.core * 4 + c.g.sched) = some x ∧ x.cause = 1 ∧ t.mm = s.mm)

/-- R340, R124: ERET in the fault entry takes its guard-true lanes back to the return point, and ERET.SKIP to the word
after it, out of the handler and with their FAULTINFO cleared; the other lanes go on in the handler; outside the fault
entry both raise fault 0x12. Where it meets log entries 37 and 38, it states the model's reading, not the spec's words.
-/
def Obligations.ReturnFromFault : Prop :=
  ∀ (s : State) (c : Ctx) (i : Instr) (k : Nat), (i, k) ∈ [(Instr.eret, 0), (Instr.eretSkip, 1)] → MayIssue s c i →
    (c.sp.handler = false → exec i s = .next (s.raiseAll c 0x12)) ∧
    (c.sp.handler = true → c.act = 0#32 → Completes i s c .nothing) ∧
    (c.sp.handler = true → c.act ≠ 0#32 →
      ∃ t g p, exec i s = .next t ∧ OnlyGroup s t c ∧ mget? t.groups c.gk = some g ∧
        ({ g with finfo := c.g.finfo, splits := c.g.splits } : Group) = c.g ∧
        p ∈ g.splits ∧ (∀ l < 32, c.act.getLsbD l = true → p.mask.getLsbD l = true) ∧ p.pc = c.sp.ret + k ∧
        p.handler = false ∧
        ((∀ j q, j ≠ c.ix → c.g.splits[j]? = some q → q.pc ≠ c.sp.ret + k) →
          p.mask = c.act ∧ p.inClause = false ∧ p.resume = true) ∧
        (∀ l, c.act.getLsbD l = true → mget? g.finfo l = none) ∧
        (c.sp.mask &&& ~~~ c.act ≠ 0#32 → ∃ q ∈ g.splits, q.pc = c.sp.pc + 1 ∧ q.handler = true ∧
          ∀ l < 32, c.sp.mask.getLsbD l = true → c.act.getLsbD l = false → q.mask.getLsbD l = true))

/-! ## Memory -/

/-- R363, R334: an access of kind k may be made on path p, path 0x7 standing for the own tile. -/
def Sys2Proof.Machine.permitted (k : AccKind) (p : Nat) : Prop :=
  match k with
  | .load | .pref => p ≤ 7
  | .store | .atom => p ∈ [0, 1, 3, 4, 5, 7]
  | .watched => p = 0 ∨ p = 7
  | .lrsc => p = 0 ∨ p = 5
  | .conv => p = 0 ∨ p = 1 ∨ p = 4

/-- An access of one part, and nothing else, has been formed: n bytes at loc for lane l on path p. -/
def Sys2Proof.Machine.formed (s : State) (p n l : Nat) (loc : Loc) (r : Sum Nat (List Access) × State) : Prop :=
  ∃ x, r = (.inr [x], s) ∧ x.loc = loc ∧ x.n = n ∧ x.off = 0 ∧ x.lane = l ∧ x.path = p

/-- Steps 3, 4 and 5 of R363 for n bytes at byte b of the scratchpad of workgroup key, low the address bits whose alignment counts. -/
def Sys2Proof.Machine.reachesScr (s : State) (right : Bool) (key : Nat) (w : Wg) (b low p n l : Nat)
    (r : Sum Nat (List Access) × State) : Prop :=
  (low % n ≠ 0 → r = (if w.scrOk b 1 then .inl 4 else .inl 5, s)) ∧
  (low % n = 0 → (w.scrOk b n = false ∨ right = false) → r = (.inl 5, s)) ∧
  (low % n = 0 → w.scrOk b n = true → right = true → formed s p n l (.scr key b) r)

/-- Steps 6 and 7 of R363 at virtual address va of a translated path. -/
def Sys2Proof.Machine.reachesPage (s : State) (c : Ctx) (k : AccKind) (p va n l : Nat) (r : Sum Nat (List Access) × State) : Prop :=
  (s.translate c.g.core c.l.aspace va = (none, s) → r = (.inl 7, s)) ∧
  ∀ t, s.translate c.g.core c.l.aspace va = (some t, s) → (k.writes = true → s.deadHome (t.base + va % 65536) = none) →
    (((p = 5 ∧ inTier2 (t.base + va % 65536) = false) ∨ (k.writes = true ∧ t.w = false)) → r = (.inl 5, s)) ∧
    (¬ (p = 5 ∧ inTier2 (t.base + va % 65536) = false) → (k.writes = false ∨ t.w = true) →
      formed s p n l (.mem (t.base + va % 65536)) r)

/-- R363, steps 3 to 7, on the paths 0x0 to 0x5 and the reserved ones: what becomes of an access of kind k to n bytes at address o
of path p, right saying whether the slot has the right it needs (R146). -/
def Sys2Proof.Machine.reaches (s : State) (c : Ctx) (right : Bool) (k : AccKind) (p o n l : Nat)
    (r : Sum Nat (List Access) × State) : Prop :=
  ((8 ≤ p ∨ (p ≤ 5 ∧ ¬ permitted k p) ∨ (p ∈ [0, 1, 2, 5] ∧ 2 ^ 52 ≤ o)) → r = (.inl 5, s)) ∧
  (p = 3 → permitted k p →
    ((2 ^ 22 ≤ o ∨ c.l.scratch ≤ o) → r = (.inl 5, s)) ∧
    (o < 2 ^ 22 → o < c.l.scratch → reachesScr s right c.wk c.wg o o p n l r)) ∧
  (p = 4 → permitted k p →
    ((2 ^ 27 ≤ o ∨ c.gg.w * c.gg.h ≤ o / 0x400000 ∨ c.l.scratch ≤ o % 0x400000) → r = (.inl 5, s)) ∧
    (∀ w, o < 2 ^ 27 → o / 0x400000 < c.gg.w * c.gg.h → o % 0x400000 < c.l.scratch →
      mget? s.wgs (wgKey c.nk (o / 0x400000)) = some w →
      reachesScr s right (wgKey c.nk (o / 0x400000)) w (o % 0x400000) o p n l r)) ∧
  (p ∈ [0, 1, 2, 5] → permitted k p → o < 2 ^ 52 →
    (o % n ≠ 0 → r = (.inl 4, s)) ∧
    (o % n = 0 → right = false → r = (.inl 5, s)) ∧
    (o % n = 0 → right = true → reachesPage s c k p o n l r))

/-- R143, R146, R363: how an access of n bytes is formed, and its checks in their order: a poisoned address faults 0x09; a slot that
is not loaded or exceeded 0x06; a path that is reserved or does not permit the access, address bits [59:52], an offset beyond the
scratchpad or a workgroup beyond the gang 0x05; a misaligned access 0x04; a missing right 0x05; no translation 0x07; a write to a
page without W, and path 0x5 to a page outside tier 2, 0x05; otherwise the access reaches, flat or through any of the slots H1 to
H15, the own scratchpad or a workgroup's of the gang at its offset, or the physical address of its page. R165: a load through a
sparse view reaches its group's line. R163: an access to the own tile through a tiled-halo handle goes to memory, any other than a
load, or to a byte outside tile and halo, faults 0x05, and a load reads halo bytes from the replica. R122: a load or store, outside a block, all of whose active lanes, the whole split, fail
their checks with one fault code raises that fault for them and performs nothing. -/
def Obligations.AccessChecks : Prop :=
  (∀ (s : State) (c : Ctx) (h a n l : Nat) (k : AccKind),
    (h ≠ 0 → (c.g.lane a l).p.isSome = true → s.formAccess c h a n k l = (.inl 9, s)) ∧
    (h ≠ 0 → (c.g.lane a l).p = none →
      (mget? c.wg.handles h = none ∨
        ∃ x, mget? c.wg.handles h = some x ∧ x.limit < (c.g.lane a l).w.toNat + n - 1) →
      s.formAccess c h a n k l = (.inl 6, s)) ∧
    ((c.g.pair a l).2.isSome = true → s.formAccess c 0 a n k l = (.inl 9, s)) ∧
    (∀ p o, (c.g.pair a l) = (p * 2 ^ 60 + o, none) → o < 2 ^ 60 →
      ((p = 6 ∨ p = 7) → s.formAccess c 0 a n k l = (.inl 5, s)) ∧
      reaches s c true k p o n l (s.formAccess c 0 a n k l)) ∧
    ∀ x : Handle, h ≠ 0 → (c.g.lane a l).p = none → mget? c.wg.handles h = some x →
      let off := (c.g.lane a l).w.toNat
      let o := (x.base + off) % 2 ^ 60
      let r := s.formAccess c h a n k l
      let right := match k with
        | .load | .watched | .pref | .conv => x.rr
        | .store => x.rw
        | .atom | .lrsc => x.ra && x.rw
      off + n - 1 ≤ x.limit →
      (x.path ≠ 6 → x.path ≠ 7 → reaches s c right k x.path o n l r) ∧
      (x.path = 6 → o < 2 ^ 52 →
        let w := fmtWidth (nbits x.kinfo.toNat 4 0)
        let va := x.base + 128 * (off / (16 * w))
        (¬ (k = .load ∨ k = .pref) → r = (.inl 5, s)) ∧
        ((k = .load ∨ k = .pref) →
          (off % n ≠ 0 → r = (.inl 4, s)) ∧
          (off % n = 0 → x.rr = false → r = (.inl 5, s)) ∧
          (off % n = 0 → x.rr = true → w ≠ 0 →
            (s.translate c.g.core c.l.aspace va = (none, s) → r = (.inl 7, s)) ∧
            (∀ t, s.translate c.g.core c.l.aspace va = (some t, s) →
              formed s 6 n l (.sparse (t.base + va % 65536) (off % (16 * w)) w (nbits x.kinfo.toNat 11 5)) r)))) ∧
      (x.path = 7 → o < 2 ^ 52 → x.halo.tw ≠ 0 → x.halo.th ≠ 0 → c.gg.w ≠ 0 →
        let own := fun i => (off + i) / (c.gg.w * x.halo.tw) / x.halo.th * c.gg.w + (off + i) % (c.gg.w * x.halo.tw) / x.halo.tw = c.wg.k
        let inHalo := fun i => ∃ q, x.halo.at c.gg.w c.gg.h c.wg.k (off + i) = .rep q
        ((k = .lrsc ∨ k = .conv ∨ ((k = .store ∨ k = .atom ∨ k = .watched) ∧ ∃ i < n, ¬ own i) ∨ ∃ i < n, ¬ own i ∧ ¬ inHalo i) →
          r = (.inl 5, s)) ∧
        ((∀ i < n, own i) → permitted k 7 →
          (o % n ≠ 0 → r = (.inl 4, s)) ∧
          (o % n = 0 → right = false → r = (.inl 5, s)) ∧
          (o % n = 0 → right = true → reachesPage s c k 7 o n l r)) ∧
        (∀ loc : Nat → Loc, (k = .load ∨ k = .pref) → (∃ i < n, ¬ own i) → o % n = 0 → x.rr = true →
          (∀ i < n,
            (own i ∧ ∃ t, s.translate c.g.core c.l.aspace (o + i) = (some t, s) ∧ loc i = .mem (t.base + (o + i) % 65536)) ∨
            (¬ own i ∧ ∃ q, x.halo.at c.gg.w c.gg.h c.wg.k (off + i) = .rep q ∧ c.wg.scrOk (x.halo.hoff + q) 1 = true ∧
              loc i = .scr c.wk (x.halo.hoff + q))) →
          ∃ xs, r = (.inr xs, s) ∧ xs.length = n ∧ ∀ i < n, ∃ y, xs[i]? = some y ∧ y.loc = loc i ∧ y.n = 1 ∧ y.off = i ∧
            y.lane = l))) ∧
  (∀ (s : State) (c : Ctx) (d a : BitVec 7) (h : BitVec 4) (z k : BitVec 3) (x : BitVec 1) (i : Instr) (kind : AccKind)
    (fs : Forms) (code : Nat),
    (i, kind) ∈ [(Instr.ld d a h z x, AccKind.load), (.lda d a h z k, .load), (.ldw d a h z k, .watched),
      (.st d a h z, .store)] →
    MayIssue s c i → c.wg.blocks = [] → c.act = c.sp.mask → c.g.flagFull c.sp.setA = false →
    c.g.flagFull c.sp.setB = false → s.bankWait c h a = false → c.g.watchingLanes c.sp.mask = false →
    s.formAll c h a (2 ^ z.toNat) kind = (fs, s) → (∀ e ∈ fs, e.2 = .inl code) →
    exec i s = .next (s.raiseAll c code))

/-- R270, R364 to R366, R372: LD, LDA and LR, whose lanes' accesses pass their checks, issue a class A read of 2^size
bytes in each guard-true active lane to Vd, counted on SETA; LDA, and LR with ACQ, is an acquire at the scope. Where it
meets log entry 113, it states the model's reading, not the spec's words. -/
def Obligations.LoadsIssue : Prop :=
  ∀ (s : State) (c : Ctx) (d a : BitVec 7) (h : BitVec 4) (z k : BitVec 3) (x q : BitVec 1) (fs : Forms),
    c.act ≠ 0#32 → c.g.flagFull c.sp.setA = false → s.bankWait c h a = false → c.logRoom d.toNat (sizeRegs z.toNat) →
    let reads := fun (p : Pend) => p.dst = d.toNat ∧ p.nreg = sizeRegs z.toNat ∧ p.lanes = c.act ∧ p.acc = fs.parts ∧
      p.flag = c.sp.setA ∧
      p.tag = (if h = 0#4 then tagU [(c.g.reg a.toNat).tag, (c.g.reg (a.toNat + 1)).tag] else tagU [c.tag a])
    (MayIssue s c (.ld d a h z x) → s.forms c h a (2 ^ z.toNat) .load fs →
      IssuesPending (.ld d a h z x) s c c.wg id 0 (fun p => reads p ∧ p.op = .load (2 ^ z.toNat) (x == 1#1) ∧ p.acq = false)) ∧
    (MayIssue s c (.lda d a h z k) → s.forms c h a (2 ^ z.toNat) .load fs → c.g.watchingLanes c.sp.mask = false →
      IssuesPending (.lda d a h z k) s c c.wg id 0 (fun p => reads p ∧ p.op = .load (2 ^ z.toNat) false ∧ p.acq = true ∧
        p.scope = k.toNat)) ∧
    (MayIssue s c (.lr d a h z q k) → s.forms c h a (2 ^ z.toNat) .lrsc fs → c.rrOn 2 = false →
      (q = 1#1 → c.g.watchingLanes c.sp.mask = false) →
      IssuesPending (.lr d a h z q k) s c c.wg (fun g => { g with evno := g.evno + 1 }) 0 (fun p =>
        reads p ∧ p.op = .lr (2 ^ z.toNat) ∧ p.acq = (q == 1#1) ∧ p.scope = k.toNat ∧ p.evno = c.g.evno))

/-- R186, R270, R365, R366, R371, R372: ST, STRL, the four ATOMs and SC, whose lanes' accesses pass their checks, issue an
operation with the lanes' data; ST and STRL and an ATOM without a return are class B and counted on SETB, the others
class A and counted on SETA; STRL, a releasing ATOM and an SC with REL pass what stands before a release first, and an
STRL whose group has a watch unresolved or an earlier access not performed at its scope waits with reason 16, and with a strike
that no CHK has consumed raises fault 0x0C (R193). Within an open block the scope is no wider than WG. Where it meets log entries 3 and 113, it states the model's reading, not the
spec's words. -/
def Obligations.StoresIssue : Prop :=
  ∀ (s : State) (c : Ctx) (d a : BitVec 7) (h : BitVec 4) (z k : BitVec 3) (fs : Forms), c.act ≠ 0#32 →
    s.bankWait c h a = false → (c.wg.blocks = [] ∨ k.toNat < 2) →
    let after := fun (rel : Bool) => if rel then c.wg.pubUp c.g.k k.toNat else c.wg
    let publish := fun (g : Group) => { g with pub := mergePub g.pub (pubOf fs.parts) }
    let stores := fun (p : Pend) => p.op = .store (2 ^ z.toNat) ∧ p.nreg = 0 ∧ p.lanes = c.act ∧ p.flag = c.sp.setB ∧
      p.tile = c.tileOf h fs.parts ∧
      p.acc = c.withData d.toNat (2 ^ z.toNat) fs.parts
    (MayIssue s c (.st d a h z) → s.forms c h a (2 ^ z.toNat) .store fs → c.g.flagFull c.sp.setB = false →
      IssuesPending (.st d a h z) s c c.wg publish 0 stores) ∧
    (MayIssue s c (.strl d a h z k) → s.forms c h a (2 ^ z.toNat) .store fs → c.g.flagFull c.sp.setB = false →
      MayRelease s c k.toNat →
      IssuesPending (.strl d a h z k) s c (after true) (fun g => publish (g.afterRelease k.toNat)) 0 stores) ∧
    (MayIssue s c (.strl d a h z k) → c.g.flagFull c.sp.setB = false → s.relWaits c k.toNat = true →
      exec (.strl d a h z k) s = .next ((s.narrow c k.toNat).stallBy c 16)) ∧
    (MayIssue s c (.strl d a h z k) → s.forms c h a (2 ^ z.toNat) .store fs → c.g.flagFull c.sp.setB = false →
      c.wg.blocks = [] → s.relWaits c k.toNat = false → c.g.delayed = [] → c.g.struck = true →
      exec (.strl d a h z k) s = .next (s.raiseAll c 0x0C)) ∧
    (∀ i acq rel (n : BitVec 1) (o : BitVec 3), (i, acq, rel) ∈ atomRows d a h k n o → MayIssue s c i →
      s.forms c h a 4 .atom fs → ((o = 4#3 ∨ o = 5#3) → tyOf c.g.m ≤ 1) →
      c.g.flagFull (if n = 0#1 then c.sp.setA else c.sp.setB) = false →
      (acq = true → c.g.watchingLanes c.sp.mask = false) → (rel = true → MayRelease s c k.toNat) → c.rrOn 2 = false →
      (n = 0#1 → c.logRoom d.toNat 1) →
      IssuesPending i s c (after rel) (fun g => publish { (if rel then g.afterRelease k.toNat else g) with
          evno := if n = 0#1 then g.evno + 1 else g.evno }) 0 (fun p =>
        p.op = .atom o.toNat (tyOf c.g.m) (n == 0#1) ∧ p.lanes = c.act ∧ p.acq = acq ∧ p.scope = k.toNat ∧
        p.tile = c.tileOf h fs.parts ∧ p.acc = c.atomData d.toNat (o == 7#3) fs.parts ∧
        (if n = 0#1 then p.dst = d.toNat ∧ p.nreg = 1 ∧ p.flag = c.sp.setA ∧ p.tag = .G else p.nreg = 0 ∧ p.flag = c.sp.setB))) ∧
    (∀ q : BitVec 1, MayIssue s c (.sc d a h z q k) → s.forms c h a (2 ^ z.toNat) .lrsc fs →
      c.g.flagFull c.sp.setA = false → (q = 1#1 → MayRelease s c k.toNat) → c.rrOn 2 = false → c.logRoom d.toNat 1 →
      IssuesPending (.sc d a h z q k) s c (after (q == 1#1)) (fun g => publish { (if q = 1#1 then g.afterRelease k.toNat else g) with
          evno := g.evno + 1 }) 0 (fun p =>
        p.op = .sc (2 ^ z.toNat) ∧ p.dst = d.toNat ∧ p.nreg = 1 ∧ p.lanes = c.act ∧ p.flag = c.sp.setA ∧
        p.acc = c.withData d.toNat (2 ^ z.toNat) fs.parts))

/-- R367 to R369, R194: LDW issues a class A read and takes a watch entry of its tag for each distinct line, ascending,
while the group holds fewer than 16 and the core fewer than 512; CHK, the entries with a tag in its mask resolved,
consumes them for its guard-true lanes and takes the struck lanes to its target, the others to the next word. Replay and
record off. Where it meets log entry 113, it states the model's reading, not the spec's words. -/
def Obligations.WatchedLoads : Prop :=
  ∀ (s : State) (c : Ctx),
    (∀ (d a : BitVec 7) (h : BitVec 4) (z tag : BitVec 3) (fs : Forms) (lines : List Nat),
      MayIssue s c (.ldw d a h z tag) → c.act ≠ 0#32 → c.g.flagFull c.sp.setA = false →
      c.logRoom d.toNat (sizeRegs z.toNat) → s.forms c h a (2 ^ z.toNat) .watched fs → lines.Pairwise (· < ·) →
      (∀ n, n ∈ lines ↔ ∃ x ∈ fs.parts, ∃ pa, x.loc = .mem pa ∧ pa / 128 = n) →
      ∃ t g p ws, exec (.ldw d a h z tag) s = .next t ∧ OnlyGroup s t c ∧ mget? t.groups c.gk = some g ∧
        ({ g with pend := c.g.pend, flags := c.g.flags, splits := c.g.splits, watches := c.g.watches } : Group) = c.g ∧
        g.pend = c.g.pend ++ [p] ∧ p.op = .watched (2 ^ z.toNat) tag.toNat ∧ p.dst = d.toNat ∧
        p.nreg = sizeRegs z.toNat ∧ p.lanes = c.act ∧ p.acc = fs.parts ∧ p.flag = c.sp.setA ∧
        (∀ k, g.flag k = if k = p.flag ∧ k < 12 then c.g.flag k + 1 else c.g.flag k) ∧
        g.standsAt c.sp.mask (c.sp.pc + 1) ∧ g.watches = c.g.watches ++ ws ∧ ws.map (·.line) <+: lines ∧
        (ws.map (·.line) = lines ∨ 16 ≤ g.watches.length ∨ 512 ≤ t.coreWatches c.g.core) ∧
        (c.g.watches.length ≤ 16 → g.watches.length ≤ 16) ∧
        ∀ w ∈ ws, w.id = p.id ∧ w.tag = tag.toNat ∧ w.st = .fetching ∧ w.used = 0#32 ∧
          ∀ l < 32, (w.lanes.getLsbD l = true ↔ ∃ x ∈ fs.parts, x.lane = l ∧ ∃ pa, x.loc = .mem pa ∧ pa / 128 = w.line)) ∧
    (∀ (m : BitVec 8) (o : BitVec 10) (struck : Lanes) (target : Nat),
      MayIssue s c (.chk m o) → c.l.rrMode = 0 →
      (∀ w ∈ c.g.watches, m.getLsbD w.tag = true → w.st = .confirmed ∨ w.st = .struck) →
      (∀ l < 32, struck.getLsbD l = true ↔ c.act.getLsbD l = true ∧ ∃ w ∈ c.g.watches, m.getLsbD w.tag = true ∧
        w.st = .struck ∧ w.lanes.getLsbD l = true ∧ w.used.getLsbD l = false) →
      let consumed := (c.g.watches.map (fun w => if m.getLsbD w.tag then { w with used := w.used ||| c.act } else w)).filter
        (fun w => !(m.getLsbD w.tag && (w.lanes &&& ~~~ w.used) == 0#32))
      (struck = 0#32 → ∃ t g, exec (.chk m o) s = .next t ∧ OnlyGroup s t c ∧ mget? t.groups c.gk = some g ∧
        ({ g with evno := c.g.evno, watches := c.g.watches, splits := c.g.splits } : Group) = c.g ∧ g.watches = consumed ∧
        g.standsAt c.sp.mask (c.sp.pc + 1)) ∧
      (struck ≠ 0#32 → (target : Int) = c.sp.pc + o.toInt → target < 2 ^ 22 → target ≠ c.sp.pc + 1 →
        HeaderAt (s.updGroup c.gk (fun g => { g with
          evno := g.evno + ((upto 8).filter (fun k => m.getLsbD k)).length })) c target →
        ∃ t g, exec (.chk m o) s = .next t ∧ mget? t.groups c.gk = some g ∧
          ({ g with evno := c.g.evno, watches := c.g.watches, splits := c.g.splits } : Group) = c.g ∧ g.watches = consumed ∧
          g.joinsAt c struck target ∧ (c.sp.mask &&& ~~~ struck ≠ 0#32 → g.joinsAt c (c.sp.mask &&& ~~~ struck) (c.sp.pc + 1)) ∧
          t.mm = s.mm ∧ t.wgs = s.wgs ∧ ∀ k, k ≠ c.gk → mget? t.groups k = mget? s.groups k))

/-- R370, R373, R375, R374: a FENCE whose waits are over completes, a release fence leaving the group as a release does;
CBINV drops the R copies and fetch copies of its core; PREF, whose lanes' addresses are clean, changes no byte of
memory; HLOAD makes its split wait until the slot is bound, or raises fault 0x06 for an entry beyond the table. Where it
meets log entries 12 and 119, it states the model's reading, not the spec's words. -/
def Obligations.FencesAndCache : Prop :=
  ∀ (s : State) (c : Ctx) (p v : BitVec 1) (k kind : BitVec 3) (a : BitVec 7) (h e : BitVec 4),
    (MayIssue s c (.fence p k kind) → c.act ≠ 0#32 → (c.wg.blocks = [] ∨ k.toNat < 2) →
      ((kind = 1#3 ∨ 3 ≤ kind.toNat) → c.g.watchingLanes c.act = false ∧ c.g.loading c.act = false) →
      ((p = 1#1 ∨ kind = 4#3) → c.g.accessing c.act = false) →
      (kind.toNat < 2 → Completes (.fence p k kind) s c .nothing) ∧
      (2 ≤ kind.toNat → MayRelease s c k.toNat →
        ∃ t g, exec (.fence p k kind) s = .next t ∧ OnlyGroup s t { c with wg := c.wg.pubUp c.g.k k.toNat } ∧
          mget? t.groups c.gk = some g ∧
          ({ g with splits := c.g.splits } : Group) = { c.g.afterRelease k.toNat with splits := c.g.splits } ∧
          g.standsAt c.sp.mask (c.sp.pc + 1))) ∧
    (MayIssue s c .cbinv → c.act ≠ 0#32 →
      ∃ t g, exec .cbinv s = .next t ∧ mget? t.groups c.gk = some g ∧ g.sameButSplits c.g ∧
        g.standsAt c.sp.mask (c.sp.pc + 1) ∧ t.wgs = s.wgs ∧ t.regs = s.regs ∧
        ({ t.mm with wcopy := s.mm.wcopy, icache := s.mm.icache } : MemSys) = s.mm ∧
        t.mm.wcopy = s.mm.wcopy.filter (fun x => !(x.2.ro && x.1 / 2 ^ 44 == c.g.core)) ∧
        t.mm.icache = s.mm.icache.filter (fun x => x.1 / 2 ^ 44 != c.g.core)) ∧
    (∀ fs, MayIssue s c (.pref a h v) → s.formAll c h a 1 .pref = (fs, s) → (∀ x ∈ fs, x.2 ≠ .inl 9) →
      s.rel.latent = [] → (∀ x ∈ s.mm.lines, x.2.flip = none) → s.mm.flips = [] →
      ∃ t g, exec (.pref a h v) s = .next t ∧ mget? t.groups c.gk = some g ∧ g.regs = c.g.regs ∧ g.preds = c.g.preds ∧
        g.flags = c.g.flags ∧ g.pend = c.g.pend ∧ g.standsAt c.sp.mask (c.sp.pc + 1) ∧ t.wgs = s.wgs ∧
        ∀ b, t.byteAt b = s.byteAt b) ∧
    (MayIssue s c (.hload e h) → c.act ≠ 0#32 →
      (c.l.hcount ≤ e.toNat → exec (.hload e h) s = .next (s.raiseAll c 6)) ∧
      (e.toNat < c.l.hcount →
        ∃ t g q, exec (.hload e h) s = .next t ∧ OnlyGroup s t c ∧ mget? t.groups c.gk = some g ∧ g.sameButSplits c.g ∧
          g.splits[c.ix]? = some q ∧ q.mask = c.sp.mask ∧ q.pc = c.sp.pc ∧ q.busy = some (.hload e.toNat h.toNat)))

/-- What a return of operation p, by register and lane, leaves of its group (R270, R364): the destination registers hold
the values, V0 discarding them, its flag counts one less, an AR fence that waited for it alone ends, and nothing else of the
group has changed. -/
def Sys2Proof.Machine.Returned (c : Ctx) (p : Pend) (got : Nat → Nat → Val) (g : Group) : Prop :=
  g.pend = c.g.pend.filter (fun q => q.id != p.id) ∧
  ({ g with pend := c.g.pend, regs := c.g.regs, flags := c.g.flags, ars := c.g.ars } : Group) = c.g ∧
  g.ars = c.g.ars.filter (c.g.arHolds p.id) ∧
  (∀ k, g.flag k = if k = p.flag ∧ k < 12 then c.g.flag k - 1 else c.g.flag k) ∧
  (∀ r, (r < p.dst ∨ p.dst + p.nreg ≤ r) → g.reg r = c.g.reg r) ∧
  ∀ j l, j < p.nreg → l < 32 →
    if p.lanes.getLsbD l = true ∧ p.dst + j ≠ 0 then (g.lane (p.dst + j) l).like (got j l)
    else g.lane (p.dst + j) l = c.g.lane (p.dst + j) l

/-- Nothing keeps operation p of group gk from being performed and delivered: its identifier finds it, no earlier access of
its lanes to its bytes, nor a store of its instances that a release has passed, stands before it, its workgroup has moved on to no other generation and has no open block, its
scheduler is not stopped, and record and replay are off. -/
structure Sys2Proof.Machine.MayReturn (s : State) (gk : Nat) (c : Ctx) (p : Pend) : Prop where
  ctx     : s.gctx gk = some c
  found   : c.g.pend.find? (fun q => q.id == p.id) = some p
  ready   : s.canPerform c p = true
  kept    : p.drop = false
  whole   : p.cut = []
  gen     : p.gen = c.wg.gen
  noBlock : c.wg.blocks = []
  noStop  : mget? s.stops (c.g.core * 4 + c.g.sched) = none
  noLog   : c.l.rrMode ≠ 1 ∧ c.rrOn 2 = false

/-- Word w holds part j of the n-byte value v, zero-extended (R365). -/
def Sys2Proof.Machine.loaded (n v j : Nat) (w : Word) : Prop :=
  w.toNat = if n < 4 then v % 2 ^ 32 else v / 2 ^ (32 * j) % 2 ^ 32

/-- R270, R364, R365: RETURN_WRITTEN delivers a computed result, an event's value, or the bytes that a load reads, sign- or
zero-extended below four bytes, and word by word above; memory and every other group are unchanged. Loads whose reading
changes nothing: of a scratchpad, or of lines that the core or the die holds.
R187, R372: an LR of one lane delivers what it reads and sets the lane's reservation on the line, one that it held elsewhere
lost, while the homes hold fewer than 8192.
R367, R368: an LDW of a line with an entry gives every lane its bytes of the core's W copy, or of the line that the die owns, or of
the copy that the die keeps, or of what it fetches; in the first and the third case the entry is pending with that copy's version
and stamp, in the others confirmed; a line without an entry is an ordinary load. -/
def Obligations.ReturnWritten : Prop :=
  (∀ (s : State) (gk : Nat) (c : Ctx) (p : Pend) (got : Nat → Nat → Val), MayReturn s gk c p →
    ((∃ vals u, p.op = .value vals u ∧ ∀ j l, got j l = vals.getD (j * 32 + l) (clean 0#32)) ∨
     (∃ ev, p.op = .evqry ev ∧ ∀ j l, got j l = clean (BitVec.ofNat 32 (mgetD s.kul.events ev 0))) ∨
     (∃ (n : Nat) (sx : Bool) (v : Nat → Nat) (q : Nat → Option PTag), p.op = .load n sx ∧ ∀ l < 32, p.lanes.getLsbD l = true →
        s.loadLane c p l = (v l, q l, s) ∧ v l < 2 ^ (8 * n) ∧ ∀ j, (got j l).p = q l ∧
          if n < 4 then
            if sx then ((got j l).w.toInt = if v l < 2 ^ (8 * n - 1) then (v l : Int) else (v l : Int) - 2 ^ (8 * n))
            else (got j l).w.toNat = v l
          else (got j l).w.toNat = v l / 2 ^ (32 * j) % 2 ^ 32)) →
    ∃ t g, exec (.returnWritten gk p.id) s = .next t ∧ mget? t.groups gk = some g ∧ Returned c p got g ∧
      (∀ k, k ≠ gk → mget? t.groups k = mget? s.groups k) ∧ t.mm = s.mm ∧ t.wgs = s.wgs ∧ t.regs = s.regs ∧ t.kul = s.kul) ∧
  (∀ (s : State) (gk : Nat) (c : Ctx) (p : Pend) (a : Access) (n pa : Nat) (bs : List Byte) (q : Option PTag)
    (got : Nat → Nat → Val), s.canonical → MayReturn s gk c p → p.op = .lr n → p.rep = none → p.acc = [a] → a.lane < 32 →
    p.lanes = laneBit a.lane → a.loc = .mem pa → pa < 2 ^ 51 → s.readPart c.g.core a = (bs, q, s) →
    (s.groups.flatMap (fun e => e.2.resv)).length < 8192 →
    (∀ j, (got j a.lane).p = q ∧ loaded n (ofBytesLE bs) j (got j a.lane).w) →
    ∃ t g, exec (.returnWritten gk p.id) s = .next t ∧ mget? t.groups gk = some g ∧
      Returned c p got { g with resv := c.g.resv } ∧ g.reserved a.lane (pa / 128) = true ∧
      (∀ l, l ≠ a.lane → mget? g.resv l = mget? c.g.resv l) ∧
      (∀ k, k ≠ gk → mget? t.groups k = mget? s.groups k) ∧ t.mm = s.mm ∧ t.wgs = s.wgs ∧ t.regs = s.regs ∧ t.kul = s.kul) ∧
  (∀ (s : State) (gk : Nat) (c : Ctx) (p : Pend) (n tag ln : Nat) (keep : Keep) (d : BitVec 1024) (q : Option PTag)
    (ws : List Watch) (got : Nat → Nat → Val) (u : State), MayReturn s gk c p → p.op = .watched n tag → p.acc ≠ [] →
    (∀ a ∈ p.acc, a.keep = keep ∧ ∃ pa, a.loc = .mem pa ∧ pa / 128 = ln) → p.acc.Pairwise (fun a b => a.lane ≠ b.lane) →
    (∀ l < 32, p.lanes.getLsbD l = true ↔ ∃ a ∈ p.acc, a.lane = l) →
    s.rel.latent = [] → b64 (s.reg 0x27) 0 0 = 0 → u.groups = s.groups → u.wgs = s.wgs → u.gangs = s.gangs →
    u.launches = s.launches → u.stops = s.stops → u.regs = s.regs → u.kul = s.kul →
    let die := c.g.core / 48
    let entry := c.g.watches.find? (fun w => w.id == p.id && w.line == ln)
    let own := mget? s.mm.wcopy (copyKey c.g.core ln)
    let noW := ∀ k, own = some k → k.ro = true
    let becomes := fun (st : WatchState) (ver stamp : Nat) (ofW : Bool) => ∃ w, entry = some w ∧
      ws = c.g.watches.map (fun x => if x.n = w.n then { x with ver := ver, stamp := stamp, ofW := ofW, st := st } else x)
    ((u = s ∧ ∃ k, own = some k ∧ k.ro = false ∧ d = k.data ∧ q = k.pois ∧ becomes .pending k.ver k.stamp true) ∨
     (noW ∧ (s.line ln).owner = some die ∧ (keep.inCore = true → s.holdsLine c.g.core ln = true → s.heldFlip c.g.core ln = none) ∧
        (s.readLine c.g.core ln keep).2.2 = u ∧ d = s.lineData ln ∧ q = s.linePois ln ∧
        becomes .confirmed (s.line ln).granted (s.line ln).stamp false) ∨
     (u = s ∧ noW ∧ (s.line ln).owner ≠ some die ∧ ∃ k, mget? s.mm.vcopy (copyKey die ln) = some k ∧ d = k.data ∧ q = k.pois ∧
        becomes .pending k.ver 0 false) ∨
     (noW ∧ (s.line ln).owner ≠ some die ∧ mget? s.mm.vcopy (copyKey die ln) = none ∧
        s.readLine c.g.core ln keep = (d, q, u) ∧ becomes .confirmed (u.line ln).version 0 false) ∨
     (entry = none ∧ s.readLine c.g.core ln keep = (d, q, u) ∧ ws = c.g.watches)) →
    (∀ a ∈ p.acc, ∀ pa, a.loc = .mem pa → ∀ j, (got j a.lane).p = q ∧
      loaded n (d.toNat / 2 ^ (8 * (pa % 128)) % 2 ^ (8 * a.n)) j (got j a.lane).w) →
    ∃ t g, exec (.returnWritten gk p.id) s = .next t ∧ mget? t.groups gk = some g ∧ g.watches = ws ∧
      Returned c p got { g with watches := c.g.watches } ∧
      (∀ k, k ≠ gk → mget? t.groups k = mget? s.groups k) ∧ t.mm = u.mm ∧ t.wgs = s.wgs ∧ t.regs = s.regs ∧ t.kul = s.kul)

/-- The byte at physical address b after the accesses as have been stored in their order: the data of the last one that
covers it, and otherwise x. -/
def Sys2Proof.Machine.storedByte (as : List Access) (b : Nat) (x : Byte) : Byte :=
  as.foldl (fun x a => match a.loc with
    | .mem pa => if pa ≤ b ∧ b < pa + a.n then BitVec.ofNat 8 (a.data / 2 ^ (8 * (a.off + (b - pa)))) else x
    | _ => x) x

/-- R270, R365: WRITES_PERFORMED of a store makes its lanes' writes, the highest lane last, and counts its flag down:
every byte of memory holds the data of the last lane that covers it, and every other byte what it held; no register of
any group and no scratchpad changes; a tile stored to through a tiled-halo handle is pushed by the next release
(R164). Stores to memory, with no error injected and none lying unfound. Where it meets log entry 115, it states
the model's reading, not the spec's words. -/
def Obligations.StoreWritten : Prop :=
  ∀ (s : State) (gk : Nat) (c : Ctx) (p : Pend) (n : Nat), MayReturn s gk c p → p.op = .store n →
    (∀ a ∈ p.acc, ∃ pa, a.loc = .mem pa) → Memory.wf s.mm.bytes = true → b64 (s.reg 0x27) 0 0 = 0 → (∀ x ∈ s.mm.lines, x.2.flip = none) →
    s.mm.flips = [] → s.rel.latent = [] →
    ∃ t g, exec (.writesPerformed gk p.id) s = .next t ∧ mget? t.groups gk = some g ∧
      (∀ b, t.byteAt b = storedByte p.acc b (s.byteAt b)) ∧ (p.tile = none → t.wgs = s.wgs) ∧
      (∀ h, p.tile = some h → ∃ w, mget? t.wgs c.wk = some w ∧ ({ w with dirty := c.wg.dirty } : Wg) = c.wg ∧
        (∀ x, x ∈ w.dirty ↔ x ∈ c.wg.dirty ∨ x = h) ∧ ∀ k, k ≠ c.wk → mget? t.wgs k = mget? s.wgs k) ∧ t.regs = s.regs ∧
      g.pend = c.g.pend.filter (fun q => q.id != p.id) ∧
      (∀ k, g.flag k = if k = p.flag ∧ k < 12 then c.g.flag k - 1 else c.g.flag k) ∧
      ∀ k h, mget? s.groups k = some h → ∃ h', mget? t.groups k = some h' ∧ h'.regs = h.regs ∧ h'.preds = h.preds ∧
        h'.splits = h.splits

/-- R371: the new word of operation o of TYPE ty on the old word, with the operand x and, for CAS, the second operand y: the word
itself where a CAS fails. -/
def Sys2Proof.Machine.atomResult (o ty : Nat) (old : Word) (x y : Nat) : Nat :=
  match o with
  | 0 => (old.toNat + x) % 2 ^ 32
  | 1 => Nat.land old.toNat x
  | 2 => Nat.lor old.toNat x
  | 3 => Nat.xor old.toNat x
  | 4 => if ty = 0 then (if old.toInt < (BitVec.ofNat 32 x).toInt then old.toNat else x) else min old.toNat x
  | 5 => if ty = 0 then (if old.toInt < (BitVec.ofNat 32 x).toInt then x else old.toNat) else max old.toNat x
  | 6 => x
  | _ => if old.toNat = x then y else old.toNat

/-- R371, R372, R187: an ATOM of one lane on a word of a scratchpad reads the old word, which a form with a return delivers to Vd,
and writes the operation's value, CAS only where the comparand equals the old word; every other byte of the scratchpad and of
memory is unchanged. An ATOM of any number of lanes, each on a word of memory of its own in a clean line that its die owns, on
any path that reaches memory, does the same in every lane, whatever the order of the lanes. An SC of one lane whose reservation for the line exists, on a clean line and with clean data, writes its
bytes and Vd becomes 0; without it nothing is written and Vd becomes 1; either way the lane's reservation is gone. No error is
injected and none lies unfound. -/
def Obligations.AtomicsPerformed : Prop :=
  (∀ (s : State) (gk : Nat) (c : Ctx) (p : Pend) (a : Access) (o ty wk off place : Nat) (ret : Bool) (old new : Word) (w : Wg),
    MayReturn s gk c p → p.op = .atom o ty ret → o < 8 → p.nreg ≤ 1 → p.acc = [a] → p.lanes = laneBit a.lane → a.lane < 32 → a.loc = .scr wk off →
    a.n = 4 → a.pois = none → a.data < 2 ^ 32 → a.cmp < 2 ^ 32 → p.rep = none → p.tile = none → s.rel.latent = [] →
    mget? s.wgs wk = some w → Memory.wf w.sram = true → w.scrAt off = some place → w.bankRead place 4 = (bytesLE 4 old.toNat, none) →
    new.toNat = atomResult o ty old a.data a.cmp →
    ∃ t g v, exec (if ret then .returnWritten gk p.id else .writesPerformed gk p.id) s = .next t ∧
      mget? t.groups gk = some g ∧ mget? t.wgs wk = some v ∧ t.mm = s.mm ∧
      (∀ b, memGet v.sram b = if place ≤ b ∧ b < place + 4 then BitVec.ofNat 8 (new.toNat / 2 ^ (8 * (b - place)))
        else memGet w.sram b) ∧
      (∀ k, k ≠ wk → mget? t.wgs k = mget? s.wgs k) ∧ (∀ k, k ≠ gk → mget? t.groups k = mget? s.groups k) ∧
      (if ret = true then Returned c p (fun _ _ => clean old) g else g.regs = c.g.regs ∧
        g.pend = c.g.pend.filter (fun q => q.id != p.id))) ∧
  (∀ (s : State) (gk : Nat) (c : Ctx) (p : Pend) (o ty : Nat) (ret : Bool) (at_ : Nat → Nat) (old : Nat → Word), s.Sound →
    MayReturn s gk c p → p.op = .atom o ty ret → o < 8 → p.nreg ≤ 1 → p.rep = none → p.tile = none →
    (∀ a ∈ p.acc, a.lane < 32 ∧ a.n = 4 ∧ a.off = 0 ∧ a.pois = none ∧ a.data < 2 ^ 32 ∧ a.cmp < 2 ^ 32 ∧ a.path ≠ 2 ∧
      a.loc = .mem (at_ a.lane) ∧ at_ a.lane % 4 = 0 ∧ (s.line (at_ a.lane / 128)).owner = some (c.g.core / 48) ∧
      s.linePois (at_ a.lane / 128) = none ∧
      ∀ i < 4, s.byteAt (at_ a.lane + i) = BitVec.ofNat 8 ((old a.lane).toNat / 2 ^ (8 * i))) →
    p.acc.Pairwise (fun a b => a.lane ≠ b.lane ∧ at_ a.lane ≠ at_ b.lane) →
    (∀ l < 32, p.lanes.getLsbD l = true ↔ ∃ a ∈ p.acc, a.lane = l) →
    ∃ t g, exec (if ret then .returnWritten gk p.id else .writesPerformed gk p.id) s = .next t ∧
      mget? t.groups gk = some g ∧ t.wgs = s.wgs ∧
      (∀ a ∈ p.acc, ∀ i < 4, t.byteAt (at_ a.lane + i) =
        BitVec.ofNat 8 (atomResult o ty (old a.lane) a.data a.cmp / 2 ^ (8 * i))) ∧
      (∀ b, (∀ a ∈ p.acc, b < at_ a.lane ∨ at_ a.lane + 4 ≤ b) → t.byteAt b = s.byteAt b) ∧
      (if ret = true then Returned c p (fun _ l => clean (old l)) { g with resv := c.g.resv, watches := c.g.watches }
        else g.regs = c.g.regs ∧ g.pend = c.g.pend.filter (fun q => q.id != p.id)) ∧
      ∀ k h, k ≠ gk → mget? s.groups k = some h → ∃ h', mget? t.groups k = some h' ∧ h'.regs = h.regs ∧ h'.preds = h.preds ∧
        h'.splits = h.splits) ∧
  (∀ (s : State) (gk : Nat) (c : Ctx) (p : Pend) (a : Access) (n pa : Nat), MayReturn s gk c p → p.op = .sc n → p.acc = [a] →
    p.lanes = laneBit a.lane → a.lane < 32 → a.loc = .mem pa → a.pois = none → s.linePois (pa / 128) = none → p.rep = none →
    a.off = 0 → Memory.wf s.mm.bytes = true → b64 (s.reg 0x27) 0 0 = 0 → (∀ x ∈ s.mm.lines, x.2.flip = none) →
    s.mm.flips = [] → s.rel.latent = [] →
    ∃ t g, exec (.returnWritten gk p.id) s = .next t ∧ mget? t.groups gk = some g ∧ mget? g.resv a.lane = none ∧
      g.pend = c.g.pend.filter (fun q => q.id != p.id) ∧ t.wgs = s.wgs ∧
      (p.nreg = 1 → p.dst ≠ 0 → g.lane p.dst a.lane = clean (if c.g.reserved a.lane (pa / 128) then 0#32 else 1#32)) ∧
      (∀ r, (r < p.dst ∨ p.dst + p.nreg ≤ r) → g.reg r = c.g.reg r) ∧
      ∀ b, t.byteAt b = if c.g.reserved a.lane (pa / 128) = true then storedByte [a] b (s.byteAt b) else s.byteAt b)

/-! ## Engines -/

/-- R376, R377, R379, R380, R388, R390: CPY queues one copy for each guard-true active lane, and CPYB, CPYX.G and CPYX.S
one for the split with the addresses of its pairs, counted on SETB, when the queue has room and every check passes; QFENCE
makes each queue it names wait for every operation now outstanding in a queue it names. -/
def Obligations.CopiesQueue : Prop :=
  ∀ (s : State) (c : Ctx) (d a b : BitVec 7) (q3 : BitVec 3) (q2 : BitVec 2) (m : BitVec 6),
    c.g.flagFull c.sp.setB = false →
    (∀ parts : Nat → List Access × List Access, MayIssue s c (.cpy d a b q2) → c.act ≠ 0#32 → c.g.queueLen q2.toNat < 8 →
      (∀ l ∈ lanesOf c.act, s.cpyLane c d.toNat a.toNat b.toNat l = (.inr (parts l), s)) →
      (∀ l ∈ lanesOf c.act, ∀ n, n = (c.g.lane d.toNat l).w.toNat →
        s.flatBusy c (c.g.pair a.toNat l).1 n = false ∧ s.flatBusy c (c.g.pair b.toNat l).1 n = false) →
      QueuesOp (.cpy d a b q2) s c
        (fun g => { g with pub := mergePub g.pub (pubOf (((lanesOf c.act).map parts).flatMap (·.1))) }) 0 (fun o =>
          o.q = q2.toNat ∧ o.flag = c.sp.setB ∧ o.op = .cpy ((lanesOf c.act).map parts))) ∧
    (∀ i op, (i, op) ∈ [(Instr.cpyb d a b q3, EngOp.cpyb), (.cpyxG d a b q3, .cpyx false), (.cpyxS d a b q3, .cpyx true)] →
      MayIssue s c i → c.g.queueLen q3.toNat < 8 →
      ∀ dv av bv x, c.g.pair d.toNat c.g.low = (dv, none) → c.g.pair a.toNat c.g.low = (av, none) →
        c.g.pair b.toNat c.g.low = (bv, none) → s.flatBusy c av 1 = false → s.flatBusy c bv 1 = false → s.flatBusy c dv 64 = false →
        s.formAccess c 0 d.toNat 64 .store c.g.low = (.inr x, s) →
        QueuesOp i s c id 0 (fun o => o.q = q3.toNat ∧ o.flag = c.sp.setB ∧ o.op = op dv av bv)) ∧
    (MayIssue s c (.qfence m) →
      ∃ t g, exec (.qfence m) s = .next t ∧ OnlyGroup s t c ∧ mget? t.groups c.gk = some g ∧
        ({ g with fences := c.g.fences, splits := c.g.splits } : Group) = c.g ∧ g.standsAt c.sp.mask (c.sp.pc + 1) ∧
        ∀ q, (m.getLsbD q = true → q < 6 → ∀ k, k ∈ mgetD g.fences q [] ↔
            k ∈ mgetD c.g.fences q [] ∨ ∃ o ∈ c.g.ops, o.id = k ∧ o.q < 6 ∧ m.getLsbD o.q = true) ∧
          (m.getLsbD q = false → mgetD g.fences q [] = mgetD c.g.fences q []))

/-- R397 to R403, R405, R406: the matrix instructions queue an operation of the matrix engine with what they read at
issue: operand words, scales, tiles, the ranges of MLD, MST and MSTN, MSTN's stochastic counters, the threshold of MCKV
and the masks of MCKC; MCKV counts on SETA and the others on SETB; the slot and operands pass the checks of R397. No
BANKM is unfinished on a bank they name. Where it meets log entry 24, it states the model's reading, not the spec's words. -/
def Obligations.MatrixQueues : Prop :=
  ∀ (s : State) (c : Ctx) (f : BitVec 3) (t : BitVec 4) (a b d q : BitVec 7) (h : BitVec 4) (m : BitVec 16),
    c.g.queueLen 5 < 8 → c.g.flagFull c.sp.setB = false →
    let v := c.slot f
    let open_ := fun (rs : List Nat) => c.g.pendingOn rs = false ∧ ∀ r ∈ rs, r < c.budget
    let low := fun (r : BitVec 7) => c.g.lane r.toNat c.g.low
    let free := fun (n : Nat) => ∀ o, c.ownOff h.toNat a.toNat c.g.low = some o → s.scrBusy c o n = false
    (∀ i chk, (i, chk) ∈ [(Instr.mma f t a b, false), (.mmack f t a b, true)] → MayIssue s c i → open_ (scaleRegs v true) →
      slotAccepted v = true → (chk = true → slotFC v = 0) → (low a).p = none → (low b).p = none →
      s.operandBusy c (low a).w.toNat (bytesA v) = false → s.operandBusy c (low b).w.toNat (bytesB v) = false →
      c.operandBad (low a).w.toNat (bytesA v) = none → c.operandBad (low b).w.toNat (bytesB v) = none →
      QueuesOp i s c id 0 (fun o => o.q = 5 ∧ o.flag = c.sp.setB ∧
        o.op = .mma chk f.toNat t.toNat (low a).w.toNat (low b).w.toNat (c.scales v true))) ∧
    (MayIssue s c (.mzero m) →
      QueuesOp (.mzero m) s c id 0 (fun o => o.q = 5 ∧ o.flag = c.sp.setB ∧ o.op = .mzero m.toNat)) ∧
    (∀ ps, s.formRange c h.toNat a.toNat 16384 128 .load c.g.low = (.inr ps, s) → free 16384 → MayIssue s c (.mld t a h) →
      QueuesOp (.mld t a h) s c id 0 (fun o => o.q = 5 ∧ o.flag = c.sp.setB ∧ o.op = .mld t.toNat ps)) ∧
    (∀ ps, s.formRange c h.toNat a.toNat 16384 128 .store c.g.low = (.inr ps, s) → free 16384 → MayIssue s c (.mst t a h) →
      QueuesOp (.mst t a h) s c (fun g => { g with pub := mergePub g.pub (pubOf ps) }) 0 (fun o =>
        o.q = 5 ∧ o.flag = c.sp.setB ∧ o.op = .mst t.toNat ps)) ∧
    (∀ ps, s.formRange c h.toNat a.toNat (512 * fmtWidth (slotFA v) + 32) 128 .store c.g.low = (.inr ps, s) →
      free (512 * fmtWidth (slotFA v) + 32) → MayIssue s c (.mstn f t a h) → open_ (scaleRegs v false) → v ≠ 0#64 →
      QueuesOp (.mstn f t a h) s c (fun g => { g with pub := mergePub g.pub (pubOf ps) })
        (if slotOR v = 5 ∧ slotFA v ≠ 1 then 32 else 0) (fun o => o.q = 5 ∧ o.flag = c.sp.setB ∧
          o.op = .mstn f.toNat t.toNat ps (c.scales v false) (allLanes.map c.g.sr))) ∧
    (MayIssue s c (.mckv d t b) → c.g.flagFull c.sp.setA = false → c.logRoom d.toNat 4 →
      (c.g.lane b.toNat 0).p = none →
      (∃ n p k, f32.dec (c.g.lane b.toNat 0).w.toNat = .fin n p k ∧ (n = false ∨ p = 0)) →
      QueuesOp (.mckv d t b) s c id 0 (fun o => o.q = 5 ∧ o.flag = c.sp.setA ∧
        o.op = .mckv d.toNat t.toNat (c.g.lane b.toNat 0))) ∧
    (MayIssue s c (.mckc t q) → (∀ j < 4, (c.g.lane (q.toNat + j) c.g.low).p = none) →
      QueuesOp (.mckc t q) s c id 0 (fun o => o.q = 5 ∧ o.flag = c.sp.setB ∧
        o.op = .mckc t.toNat ((upto 4).map (fun j => (c.g.lane (q.toNat + j) c.g.low).w.toNat))))

/-! ## Synchronisation -/

/-- R118, R120, R409, R410, R418, R419: WBAR and GBAR pass what stands before a release and park the split; WBAR, when
all other lanes of its workgroup wait there, lets every lane go on, and GBAR_RELEASE does so for a gang all of whose
lanes wait and whose accesses and engine operations are performed; GBAR and HALT are escapes in a block; WAITF goes on
when its flags are zero; HALT ends every lane of the gang. Where it meets log entry 46, it states the model's reading,
not the spec's words. -/
def Obligations.BarriersAndHalt : Prop :=
  ∀ (s : State) (c : Ctx), s.canonical →
    (MayIssue s c .wbar → MayRelease s c 1 → (c.wg.conv = none ∨ c.wg.convl = []) →
      ((∃ k h, k ≠ c.gk ∧ (k, h) ∈ s.groups ∧ h.wg = c.wk ∧ ∃ q ∈ h.splits, ∀ w, q.st ≠ .waiting w) →
        ParksAt .wbar s c .wbar (fun g => g.afterRelease 1)) ∧
      (c.g.splits = [c.sp] → (∀ k h, k ≠ c.gk → (k, h) ∈ s.groups → h.wg = c.wk → ∀ q ∈ h.splits, q.st = .waiting .wbar) →
        ∃ t, exec .wbar s = .next t ∧ t.mm = s.mm ∧ mget? t.wgs c.wk = some (c.wg.pubUp c.g.k 1) ∧
          (∀ k, k ≠ c.wk → mget? t.wgs k = mget? s.wgs k) ∧
          ∀ k h, (k, h) ∈ s.groups → h.wg = c.wk → ∃ g, mget? t.groups k = some g ∧ g.wentOn h.splits ∧ g.regs = h.regs)) ∧
    (MayIssue s c .gbar →
      (c.wg.blocks ≠ [] → MayRelease s c 2 → exec .gbar s = .next (s.failBlock c.wk 9 0 c.sp.pc false)) ∧
      (c.wg.blocks = [] → MayRelease s c 2 → (c.wg.conv = none ∨ c.wg.convl = []) → ParksAt .gbar s c .gbar (fun g => g.afterRelease 2))) ∧
    (∀ gang w gr, mget? s.wgs w = some gr → gr.gang = gang → (mget? s.gangs gang).isSome = true →
      (∃ k h, (k, h) ∈ s.groups ∧ h.wg = w ∧ h.splits ≠ []) →
      (∀ k h x, (k, h) ∈ s.groups → mget? s.wgs h.wg = some x → x.gang = gang →
        (∀ q ∈ h.splits, q.st = .waiting .gbar) ∧ (∀ p ∈ h.pend, p.acc = []) ∧ h.ops = []) →
      ∃ t, exec (.gbarRelease gang) s = .next t ∧ t.mm = s.mm ∧ t.wgs = s.wgs ∧
        ∀ k h, (k, h) ∈ s.groups → (∃ x, mget? s.wgs h.wg = some x ∧ x.gang = gang) →
          ∃ g, mget? t.groups k = some g ∧ g.wentOn h.splits ∧ g.regs = h.regs) ∧
    (∀ m : BitVec 12, MayIssue s c (.waitf m) → (∀ f < 12, m.getLsbD f = true → c.g.flag f = 0) →
      (∀ d ∈ c.g.delayed, ¬ (d.flag < 12 ∧ m.getLsbD d.flag = true)) → Completes (.waitf m) s c .nothing) ∧
    (MayIssue s c .halt → c.act ≠ 0#32 →
      (c.wg.blocks ≠ [] → exec .halt s = .next (s.failBlock c.wk 9 0 c.sp.pc false)) ∧
      (c.wg.blocks = [] → c.g.watching = false → c.g.struck = false →
        ∃ t n, exec .halt s = .next t ∧ mget? t.gangs c.nk = some n ∧ n.ended = true ∧ t.mm = s.mm ∧
          ∀ k h x, (k, h) ∈ s.groups → mget? s.wgs h.wg = some x →
            ∃ g, mget? t.groups k = some g ∧ g.regs = h.regs ∧
              if x.gang = c.nk then g.splits = [] ∧ g.exited = BitVec.allOnes 32 ∧ g.retiring = true else g = h))

/-- R149 to R151, R411 to R414: FPUSH copies ESIZE bytes of the scratchpad, with their poison, to the slot at WP; FPOP
gives the slot at RP to its group and its address to Vd; a bank that is no FIFO raises fault 0x10; BANKM makes its split
wait and BANKM_COMPLETION changes the mode, the bank then holding zeros, with 0 in Vd, or changes nothing and gives the
code of the refusal. No block is open. Where it meets log entries 48 and 49, it states the model's reading, not the
spec's words. -/
def Obligations.FifosAndBanks : Prop :=
  ∀ (s : State) (c : Ctx) (d : BitVec 7) (b : BitVec 5) (k : Bank), c.wg.blocks = [] →
    (∀ l, MayIssue s c (.fpush d b) → c.opLane = some l → s.bankBusy c.wk b.toNat = false →
      ((∀ x, mget? c.wg.banks b.toNat = some x → x.mode ≠ .fifo) → exec (.fpush d b) s = .next (s.raiseAll c 0x10)) ∧
      (mget? c.wg.banks b.toNat = some k → k.mode = .fifo → (c.g.lane d.toNat l).p = none → Memory.wf c.wg.sram = true →
        k.full = false → k.wp < k.depth → s.rel.latent = [] →
        let o := (c.g.lane d.toNat l).w.toNat
        o % 128 = 0 → o + k.esize ≤ c.l.scratch → c.wg.scrOk o k.esize = true → s.scrBusy c o k.esize = false →
        c.touching o k.esize = false → s.passing c.wk = false →
        ∃ t g w x, exec (.fpush d b) s = .next t ∧ mget? t.groups c.gk = some g ∧ g.sameButSplits c.g ∧
          g.standsAt c.sp.mask (c.sp.pc + 1) ∧ mget? t.wgs c.wk = some w ∧ mget? w.banks b.toNat = some x ∧
          x.wp = (k.wp + 1) % k.depth ∧ x.count = k.count + 1 ∧ x.rp = k.rp ∧ x.held = k.held ∧
          (∀ i, 32 * i < k.esize →
            w.bankRead (b.toNat * 0x20000 + k.wp * k.esize + 32 * i) 32 = s.scrRead c.wk (o + 32 * i) 32) ∧
          (∀ y, (y < b.toNat * 0x20000 + k.wp * k.esize ∨ b.toNat * 0x20000 + (k.wp + 1) * k.esize ≤ y) →
            memGet w.sram y = memGet c.wg.sram y) ∧ t.mm = s.mm)) ∧
    (MayIssue s c (.fpop d b) → c.act ≠ 0#32 → s.bankBusy c.wk b.toNat = false →
      ((∀ x, mget? c.wg.banks b.toNat = some x → x.mode ≠ .fifo) → exec (.fpop d b) s = .next (s.raiseAll c 0x10)) ∧
      (mget? c.wg.banks b.toNat = some k → k.mode = .fifo → k.count ≠ 0 →
        ∃ t g w x, exec (.fpop d b) s = .next t ∧ mget? t.groups c.gk = some g ∧ mget? t.wgs c.wk = some w ∧
          (Effect.regs c.act d.toNat 1 (fun _ _ v => v.p = none ∧
            v.w.toNat = (0x40000000 + b.toNat * 0x20000 + k.rp * k.esize) % 2 ^ 32)).Holds c g ∧
          g.standsAt c.sp.mask (c.sp.pc + 1) ∧ mget? w.banks b.toNat = some x ∧ x.rp = (k.rp + 1) % k.depth ∧
          x.count = k.count - 1 ∧ x.wp = k.wp ∧ (k.rp, c.gk, false) ∈ x.held ∧ w.sram = c.wg.sram ∧ t.mm = s.mm)) ∧
    (∀ (e : BitVec 3) (m : BitVec 2), MayIssue s c (.bankm d e m b) → c.act ≠ 0#32 →
      ∃ t g q, exec (.bankm d e m b) s = .next t ∧ OnlyGroup s t c ∧ mget? t.groups c.gk = some g ∧ g.sameButSplits c.g ∧
        g.splits[c.ix]? = some q ∧ q.mask = c.sp.mask ∧ q.pc = c.sp.pc ∧
        q.busy = some (.bankm d.toNat e.toNat m.toNat b.toNat c.act s.nextId)) ∧
    (∀ (e m : Nat) (act : Lanes) (n : Nat) (code : Nat), s.ctxOf c.gk c.ix = some c → c.g.splits = [c.sp] →
      c.sp.busy = some (.bankm d.toNat e m b.toNat act n) → c.sp.mask ≠ 0#32 → (∃ ix, c.sp.st = .live ix) →
      s.bankTouched c.wk b.toNat n = false → c.wg.failing = none →
      mget? s.stops (c.g.core * 4 + c.g.sched) = none → mget? c.wg.banks b.toNat = some k → m < 4 →
      ((code = 1 ∧ k.mode = modeOf m ∧ (m ≠ 2 ∨ k.e = e)) ∨
       (¬ (k.mode = modeOf m ∧ (m ≠ 2 ∨ k.e = e)) ∧ ((code = 2 ∧ m = 1 ∧ c.wg.list.contains b.toNat = false) ∨
         ((m ≠ 1 ∨ c.wg.list.contains b.toNat = true) ∧
           ((code = 3 ∧ k.mode = .cache ∧ 24 ≤ (s.ownedBanks c.g.core).length) ∨
            (code = 4 ∧ k.mode = .fifo ∧ (k.count ≠ 0 ∨ k.held ≠ [])) ∨
            (code = 0 ∧ (k.mode ≠ .cache ∨ (s.ownedBanks c.g.core).length < 24) ∧
              (k.mode ≠ .fifo ∨ (k.count = 0 ∧ k.held = [])))))))) →
      ∃ t g w x, exec (.bankmCompletion c.gk) s = .next t ∧ mget? t.groups c.gk = some g ∧ mget? t.wgs c.wk = some w ∧
        (Effect.regs act d.toNat 1 (fun _ _ v => v.p = none ∧ v.w.toNat = code)).Holds c g ∧
        g.standsAt c.sp.mask (c.sp.pc + 1) ∧ mget? w.banks b.toNat = some x ∧
        (if code = 0 then x.mode = modeOf m ∧ x.count = 0 ∧ x.held = [] ∧
            (Memory.wf c.wg.sram = true → ∀ y, memGet w.sram y = if y / 0x20000 = b.toNat then 0#8 else memGet c.wg.sram y)
          else w = c.wg))

/-- R415 to R417, R420, R422: EVSIG.ADD, SET and CLR hand their update of an event of the partition's range to the
dispatcher as a release; EVQRY issues a class A read of the event's value; an event outside the range raises fault 0x05
and a poisoned operand 0x09; TRACE and TMARK complete, offering their record when the launch traces it; SYSR gives the
register's value in a pair, and SYSW writes the pair of the lowest guard-true lane after what stands before a release; a
register that the launch may not reach raises fault 0x05. No block is open. Where it meets log entries 52 and 118, it
states the model's reading, not the spec's words. -/
def Obligations.EventsTraceRegisters : Prop :=
  ∀ (s : State) (c : Ctx) (a b d : BitVec 7) (k n : BitVec 16) (l : Nat), c.wg.blocks = [] → c.opLane = some l →
    (∀ i op v, (i, op, v) ∈ [(Instr.evsigAdd a b, 0, c.g.lane b.toNat l), (.evsigSet a b, 1, c.g.lane b.toNat l),
        (.evsigClr a, 2, clean 0#32)] → MayIssue s c i → MayRelease s c 4 →
      (((c.g.lane a.toNat l).p.isSome = true ∨ v.p.isSome = true) → exec i s = .next (s.raiseAll c 9)) ∧
      ((c.g.lane a.toNat l).p = none → v.p = none →
        let ev := (c.g.lane a.toNat l).w.toNat
        let base := s.fld (0x40 + c.l.part) 15 0
        ((0x10000 ≤ ev ∨ ev < base ∨ base + s.fld (0x40 + c.l.part) 48 32 ≤ ev) → exec i s = .next (s.raiseAll c 5)) ∧
        (ev < 0x10000 → base ≤ ev → ev < base + s.fld (0x40 + c.l.part) 48 32 →
          ∃ t g u, exec i s = .next t ∧ mget? t.groups c.gk = some g ∧
            ({ g with splits := c.g.splits } : Group) = { c.g.afterRelease 4 with splits := c.g.splits } ∧
            g.standsAt c.sp.mask (c.sp.pc + 1) ∧ t.kul.held = s.kul.held ++ [u] ∧ u.ev = ev ∧ u.op = op ∧ u.v = v.w.toNat ∧
            u.part = c.l.part ∧ t.kul.events = s.kul.events ∧ t.mm = s.mm ∧ t.wgs = s.wgs ∧ t.regs = s.regs ∧
            ∀ j, j ≠ c.gk → mget? t.groups j = mget? s.groups j))) ∧
    (MayIssue s c (.evqry d a) → c.g.flagFull c.sp.setA = false → c.g.watchingLanes c.sp.mask = false → (c.g.lane a.toNat l).p = none →
      let ev := (c.g.lane a.toNat l).w.toNat
      let base := s.fld (0x40 + c.l.part) 15 0
      ev < 0x10000 → base ≤ ev → ev < base + s.fld (0x40 + c.l.part) 48 32 →
      IssuesPending (.evqry d a) s c c.wg id 0 (fun p => p.op = .evqry ev ∧ p.dst = d.toNat ∧ p.nreg = 1 ∧ p.lanes = c.act ∧
        p.flag = c.sp.setA ∧ p.tag = .U ∧ p.acq = true)) ∧
    (∀ i kind pl, (i, kind, pl) ∈ [
        (Instr.trace d k, 0x1B, k.toNat + (if (c.g.lane d.toNat l).p.isSome then 2 ^ 48
          else (c.g.lane d.toNat l).w.toNat * 2 ^ 16)),
        (.tmark k, 0x1C, k.toNat + c.g.slot * 2 ^ 16 + c.gg.index % 2 ^ 18 * 2 ^ 20 + c.wg.k * 2 ^ 38 + c.g.k * 2 ^ 43 +
          (c.sp.liveIx.getD 0) * 2 ^ 48)] → MayIssue s c i →
      (c.l.traces kind = false → Completes i s c .nothing) ∧
      (c.l.traces kind = true → ∃ t g, exec i s = .next t ∧ mget? t.groups c.gk = some g ∧ g.sameButSplits c.g ∧
        g.standsAt c.sp.mask (c.sp.pc + 1) ∧ t.mm = s.mm ∧ t.wgs = s.wgs ∧ t.regs = s.regs ∧ t.kul = s.kul ∧
        t.peal = (s.emitTo c.l.part c.g.die 0 (c.g.core * 4 + c.g.sched) kind pl).peal)) ∧
    (MayIssue s c (.sysr d n) →
      (s.mayRead c.l.part n.toNat = false → exec (.sysr d n) s = .next (s.raiseAll c 5)) ∧
      (∀ v, s.mayRead c.l.part n.toNat = true → s.sysRead n.toNat = (v, s) →
        Completes (.sysr d n) s c (.regs c.act d.toNat 2 (fun j _ x => x.p = none ∧
          x.w.toNat = v.toNat / 2 ^ (32 * j) % 2 ^ 32)))) ∧
    (MayIssue s c (.sysw d n) → (c.g.lane d.toNat l).p = none → (c.g.lane (d.toNat + 1) l).p = none →
      let v := BitVec.ofNat 64 ((c.g.lane d.toNat l).w.toNat + (c.g.lane (d.toNat + 1) l).w.toNat * 2 ^ 32)
      (s.mayWrite c.l.part n.toNat v = false → exec (.sysw d n) s = .next (s.raiseAll c 5)) ∧
      (s.mayWrite c.l.part n.toNat v = true → MayRelease s c 4 →
        ∃ u g, exec (.sysw d n) s = .next (u.sysWrite n.toNat v) ∧ OnlyGroup s u c ∧ mget? u.groups c.gk = some g ∧
          ({ g with splits := c.g.splits } : Group) = { c.g.afterRelease 4 with splits := c.g.splits } ∧
          g.standsAt c.sp.mask (c.sp.pc + 1)))

/-! ## Events of the recovery model -/

/-- R111, R127, R128, R130: a split that has issued 4096 instructions gives its slot at a clause's end; a block opens
when every group has arrived at ENSURE, with its terminator and cycle limit, every group going on; the acceptance test
starts at the word after the ELSEERR when every group has arrived at its terminator with nothing outstanding; a cycle
count at its limit fails the outermost block that has reached its own with cause 1. Where it meets log entry 44, it states the model's reading, not the
spec's words. -/
def Obligations.BlockEvents : Prop :=
  ∀ (s : State) (wk : Nat) (w : Wg) (gg : Gang) (l : Launch), s.canonical → s.launchOf wk = some (w, gg, l) →
    (∀ gk ix k i g p q, mget? s.groups gk = some g → g.splits[ix]? = some p → p.st = .live i → 4096 ≤ p.issued →
      p.inClause = false → nextReady g.splits (some ix) = some k → g.splits[k]? = some q →
      (∀ j x, j ≠ ix → g.splits[j]? = some x → x.pc ≠ p.pc) →
      ∃ t g' p' q', exec (.splitRotation gk ix) s = .next t ∧ mget? t.groups gk = some g' ∧ g'.sameButSplits g ∧
        g'.splits[ix]? = some p' ∧ p'.st = .ready ∧ p'.mask = p.mask ∧ p'.pc = p.pc ∧ g'.splits[k]? = some q' ∧
        q'.st = .live i ∧ q'.mask = q.mask ∧ q'.pc = q.pc ∧ t.mm = s.mm ∧ t.wgs = s.wgs) ∧
    (∀ pc, w.failing = none → w.blocks.length < 4 → w.logUsed l + frameSize l ≤ w.logCap →
      (∃ k h, (k, h) ∈ s.groups ∧ h.wg = wk ∧ h.splits ≠ []) →
      (∀ k h, (k, h) ∈ s.groups → h.wg = wk → ∀ q ∈ h.splits, q.st = .waiting .ensure ∧ q.pc = pc) →
      let arg := fun (n : Nat) => ∃ k h, (k, h) ∈ s.groups ∧ h.wg = wk ∧ ∃ q ∈ h.splits, q.arg = n
      ∃ t v b, exec (.blockOpen wk) s = .next t ∧ mget? t.wgs wk = some v ∧ v.blocks = b :: w.blocks ∧
        b.term = pc + w.ensureEnd.getD 0 ∧ b.cycles = 0 ∧ b.inTest = false ∧ b.log = [] ∧ v.ensureEnd = none ∧
        ((∀ n, arg n → n = 0) → b.limit = l.cyclim * 1024) ∧
        (∀ n, arg n → n ≠ 0 → b.limit ≤ n * 1024 ∧ ∃ m, arg m ∧ m ≠ 0 ∧ b.limit = m * 1024) ∧ t.mm = s.mm ∧
        ∀ k h, (k, h) ∈ s.groups → h.wg = wk → ∃ g, mget? t.groups k = some g ∧ g.wentOn h.splits ∧ g.regs = h.regs) ∧
    (∀ c b r e, w.blocks = b :: r → w.failing = none → s.wgCtx wk = some c →
      (∃ k h, (k, h) ∈ s.groups ∧ h.wg = wk ∧ h.splits ≠ []) →
      (∀ k h, (k, h) ∈ s.groups → h.wg = wk → (∀ q ∈ h.splits, q.st = .waiting .term) ∧ h.pend = [] ∧ h.ops = [] ∧
        h.watching = false ∧ h.delayed = [] ∧ ∀ f < 12, h.flag f = 0) →
      s.chain c b.term (2 ^ 22) = (some e, s) →
      ∃ t v b', exec (.routineEnd wk) s = .next t ∧ mget? t.wgs wk = some v ∧ v.blocks = b' :: r ∧ b'.inTest = true ∧
        b'.term = b.term ∧ b'.log = b.log ∧ t.mm = s.mm ∧
        ∀ k h, (k, h) ∈ s.groups → h.wg = wk → ∃ g, mget? t.groups k = some g ∧ g.regs = h.regs ∧
          ∀ q ∈ h.splits, ∀ x < 32, q.mask.getLsbD x = true → ∃ p ∈ g.splits, p.mask.getLsbD x = true ∧ p.pc = e + 1) ∧
    (∀ d b, w.blocks[d]? = some b → b.limit ≠ 0 → b.limit ≤ b.cycles → s.wgStopped wk = false →
      (∀ e x, d < e → w.blocks[e]? = some x → x.limit = 0 ∨ x.cycles < x.limit) →
      exec (.cycleLimit wk) s = .next (s.failBlock wk 1 d 0 false)) ∧
    ((∀ b ∈ w.blocks, b.limit = 0 ∨ b.cycles < b.limit) → exec (.cycleLimit wk) s = .next s)

/-- R131, R136: the rollback of the only block of a workgroup of one group, in no conversation, with one register
logged: the register has its pre-image again, predicates, M, SRCTR and lanes are those of the frame, the flags are zero,
lanes that have exited since staying so, RBCAUSE is the cause, and the alternate starts at the word after the terminator reached; a conversation is joined when
every group of every member waits with the same members. Where it meets log entries 42 and 43, it states the model's
reading, not the spec's words. -/
def Obligations.RollbackAndConversation : Prop :=
  ∀ (s : State) (wk : Nat), s.canonical →
    (∀ w gg l f b gk g k r old fr c n, s.launchOf wk = some (w, gg, l) → w.conv = none → w.failing = some f → f.depth = 0 →
      w.blocks = [b] → b.log = [.reg k r old] → b.frames = [fr] → fr.k = k → gk = groupKey wk k → r ≠ 0 →
      mget? s.groups gk = some g → fr.lanes &&& ~~~ g.exited ≠ 0#32 → g.wg = wk → (∀ j h, (j, h) ∈ s.groups → h.wg = wk → j = gk) →
      g.ops = [] → g.pend = [] → s.wgStopped wk = false → (s.undo wk).wgCtx wk = some c →
      (s.undo wk).termAt c b.term = (.next n, s.undo wk) →
      ∃ t g' v b' p, exec (.rollback wk) s = .next t ∧ mget? t.groups gk = some g' ∧ g'.reg r = old ∧
        (∀ x, x ≠ r → g'.reg x = g.reg x) ∧ g'.preds = fr.preds ∧ g'.m = fr.m ∧ g'.srctr = fr.srctr ∧ g'.flags = [] ∧
        g'.watches = [] ∧ g'.resv = [] ∧ g'.splits = [p] ∧ p.mask = fr.lanes &&& ~~~ g.exited ∧ p.pc = b.term + 1 ∧
        mget? t.wgs wk = some v ∧ v.blocks = [b'] ∧ b'.term = b.term + n ∧ b'.cycles = 0 ∧ b'.inTest = false ∧ b'.log = [] ∧
        v.failing = none ∧ v.rbcause = f.cause ∧ v.sram = w.sram ∧ t.mm = s.mm) ∧
    (∀ gang (m : BitVec 24), 2 ≤ ((List.range 24).filter (fun k => m.getLsbD k)).length →
      (∀ k < 24, m.getLsbD k = true →
        (mget? s.wgs (wgKey gang k)).isSome = true ∧
        (∃ j h, (j, h) ∈ s.groups ∧ h.wg = wgKey gang k ∧ h.splits ≠ []) ∧
        ∀ j h, (j, h) ∈ s.groups → h.wg = wgKey gang k → (∀ q ∈ h.splits, q.st = .waiting .convj) ∧ h.conv = some m.toNat) →
      ∃ t, exec (.conversationJoined gang m) s = .next t ∧ t.mm = s.mm ∧ ∀ k < 24, m.getLsbD k = true →
        (∃ v, mget? t.wgs (wgKey gang k) = some v ∧ v.conv = some m.toNat) ∧
        ∀ j h, (j, h) ∈ s.groups → h.wg = wgKey gang k → ∃ g, mget? t.groups j = some g ∧ g.wentOn h.splits ∧
          g.conv = none ∧ g.regs = h.regs)

/-- R160, R363, R374, R144: a watch verdict confirms its pending entry or strikes it; an access rejected where it is
served with a stale generation takes its lanes to the fault entry with code 0x08 and the memory instruction as return
point, and its flag counts down; an HLOAD's binding gives the slot the entry that its 32 bytes hold, and a bad entry
raises 0x06. Where it meets log entry 105, it states the model's reading, not the spec's words. -/
def Obligations.AccessEvents : Prop :=
  ∀ (s : State) (gk : Nat) (g : Group),
    mget? s.groups gk = some g →
    (∀ c w n, s.gctx gk = some c → w ∈ g.watches → w.n = n → w.st = .pending →
      (∀ x ∈ g.watches, x.n = n → x = w) → s.passing c.wk = false →
      (s.verdict c.g.core w (s.asGen c.l.aspace != w.gen) = (none, s) →
        ∃ t g', exec (.watchVerdict gk n) s = .next t ∧ mget? t.groups gk = some g' ∧
          g'.watches = g.watches.map (fun x => if x.n = n then { x with st := .confirmed } else x) ∧
          ({ g' with watches := g.watches } : Group) = g ∧ t.mm = s.mm) ∧
      (∀ k, s.verdict c.g.core w (s.asGen c.l.aspace != w.gen) = (some k, s) →
        ∃ t g', exec (.watchVerdict gk n) s = .next t ∧ mget? t.groups gk = some g' ∧
          g'.watches = g.watches.map (fun x => if x.n = n then { x with st := .struck } else x) ∧
          ({ g' with watches := g.watches } : Group) = g ∧ t.mm = s.mm)) ∧
    (∀ c p q, s.gctx gk = some c → g.pend = [p] → p.acc ≠ [] → s.stale c.l = true → g.splits = [q] → q.mask = p.lanes →
      p.lanes ≠ 0#32 → q.st ≠ .faulted → p.lanes &&& g.exited = 0#32 → c.wg.blocks = [] → c.wg.failing = none →
      c.l.faulten = true → q.handler = false → p.pc < 2 ^ 22 → c.l.rrMode = 0 →
      ∃ t g' b, exec (.delayedAccessFault gk p.id) s = .next t ∧ mget? t.groups gk = some g' ∧ g'.splits = [b] ∧
        b.mask = p.lanes ∧ b.pc = c.l.faultoff ∧ b.ret = p.pc ∧ b.handler = true ∧ g'.pend = [] ∧ g'.regs = g.regs ∧
        (∀ k, g'.flag k = if k = p.flag ∧ k < 12 then g.flag k - 1 else g.flag k) ∧
        (∀ l < 32, p.lanes.getLsbD l = true → (mgetD g'.finfo l 0#32).toNat = 8 + p.pc * 2 ^ 8) ∧ t.mm = s.mm) ∧
    (∀ c e h pa bs, s.ctxOf gk 0 = some c → g.splits = [c.sp] → c.sp.busy = some (.hload e h) → (∃ ix, c.sp.st = .live ix) →
      s.passing c.wk = false → c.sp.mask ≠ 0#32 → c.wg.failing = none → c.wg.blocks = [] →
      s.stale c.l = false → s.vaOf c.g.core c.l (c.l.htab + 32 * e) = (some pa, s) →
      s.readPa c.g.core pa 32 .l2 = (bs, none, s) →
      let v := ofBytesLE bs
      (handleBad c v = true → exec (.hloadBinding gk) s = .next (s.raiseAll c 6)) ∧
      (handleBad c v = false → v / 2 ^ 108 % 2 = 0 → v / 2 ^ 100 % 4 ≠ 1 →
        ∃ t g' w x, exec (.hloadBinding gk) s = .next t ∧ mget? t.groups gk = some g' ∧ g'.sameButSplits g ∧
          g'.standsAt c.sp.mask (c.sp.pc + 1) ∧ mget? t.wgs c.wk = some w ∧ mget? w.handles h = some x ∧
          x.base = v % 2 ^ 64 ∧ x.limit = v / 2 ^ 64 % 2 ^ 32 ∧ x.path = v / 2 ^ 96 % 16 ∧ x.kind = v / 2 ^ 100 % 4 ∧
          (∀ j, j ≠ h → mget? w.handles j = mget? c.wg.handles j) ∧ w.sram = c.wg.sram ∧ t.mm = s.mm))

/-! ## Events of the engines, the homes and the error units -/

/-- The byte at physical address b after the parts ps of a destination have taken the bytes img in their order, x before. -/
def Sys2Proof.Machine.imgMem (ps : List Access) (img : List Byte) (b : Nat) (x : Byte) : Byte :=
  ps.foldl (fun x a => match a.loc with
    | .mem pa => if pa ≤ b ∧ b < pa + a.n then img.getD (a.off + (b - pa)) 0#8 else x
    | _ => x) x

/-- The same of place b of the banks of workgroup wk, at_ being the place of a part. -/
def Sys2Proof.Machine.imgScr (wk : Nat) (at_ : Access → Nat) (ps : List Access) (img : List Byte) (b : Nat) (x : Byte) : Byte :=
  ps.foldl (fun x a => match a.loc with
    | .scr w _ => if w = wk ∧ at_ a ≤ b ∧ b < at_ a + a.n then img.getD (a.off + (b - at_ a)) 0#8 else x
    | _ => x) x

/-- Every part of a destination of n bytes is in memory, or in a scratchpad from place at_ of its banks. -/
def Sys2Proof.Machine.placed (s : State) (ps : List Access) (n : Nat) (at_ : Access → Nat) : Prop :=
  ∀ a ∈ ps, a.off + a.n ≤ n ∧ ((∃ pa, a.loc = .mem pa) ∨
    ∃ wk off w, a.loc = .scr wk off ∧ mget? s.wgs wk = some w ∧ Memory.wf w.sram = true ∧
      ∀ i < a.n, w.scrAt (off + i) = some (at_ a + i))

/-- From s to t the bytes img have been written to the parts ps, and no other byte of memory or of a scratchpad has changed. -/
def Sys2Proof.Machine.imgWritten (s t : State) (ps : List Access) (img : List Byte) (at_ : Access → Nat) : Prop :=
  (∀ b, t.byteAt b = imgMem ps img b (s.byteAt b)) ∧
  ∀ wk w, mget? s.wgs wk = some w → ∃ v, mget? t.wgs wk = some v ∧
    ∀ b, memGet v.sram b = imgScr wk at_ ps img b (memGet w.sram b)

/-- R393: the operand of n bytes that a word names holds the clean bytes bs. -/
def Sys2Proof.Machine.operandHolds (s : State) (c : Ctx) (word n : Nat) (bs : List Byte) : Prop :=
  bs.length = n ∧
  ((word / 2 ^ 30 = 0 ∧ ∀ i < n / 128, s.scrRead c.wk (word % 2 ^ 30 + 128 * i) 128 = ((bs.drop (128 * i)).take 128, none)) ∨
   (word / 2 ^ 30 = 1 ∧ c.wg.bankRead (word / 2 ^ 17 % 32 * 0x20000 + word % 2 ^ 17) n = (bs, none)))

/-- R394: the code of element k of row m of an operand in plane layout with the value a, w bits an element, K elements a row. -/
def Sys2Proof.Machine.planeCode (w K a m k : Nat) : Nat :=
  ((List.range w).map (fun j => a / 2 ^ (m * w * K + j * K + k) % 2 * 2 ^ j)).foldl (· + ·) 0

/-- R297: how many of the first n mask bits of the line at bit x of b are set. -/
def Sys2Proof.Machine.maskCount (b x n : Nat) : Nat := ((List.range n).filter (fun i => (b / 2 ^ x).testBit i)).length

/-- R294, R394, R399: the values of a(m, k) and b(k, n) under slot v, of operands with the values a and b; an element absent from
its line is zero. -/
def Sys2Proof.Machine.elementA (v : BitVec 64) (a m k : Nat) : FNum :=
  operandVal (slotFA v) (planeCode (fmtWidth (slotFA v)) (slotK v) a m k)
def Sys2Proof.Machine.elementB (v : BitVec 64) (b k n : Nat) : FNum :=
  let w := fmtWidth (slotFB v)
  if slotNZ v = 0 then operandVal (slotFB v) (planeCode w (slotK v) b n k)
  else if (b / 2 ^ (1024 * n)).testBit k then
    operandVal (slotFB v) (b / 2 ^ (1024 * n + 128 + w * maskCount b (1024 * n) k) % 2 ^ w)
  else .fin false 0 1

/-- R399: the new code of a cell of code old, with the products x of the K pairs of elements, the row's and B's scale being t. -/
def Sys2Proof.Machine.cellAfter (v : BitVec 64) (old : Nat) (x : Nat → FNum) (t : FNum) : Nat :=
  let f := fcFmt (slotFC v)
  let read := fun (a : Nat) => f.dec (a % 2 ^ f.width)
  if slotAM v = 0 then
    (List.range (slotK v)).foldl (fun a k => (f.out 0 0 false false (numAdd 0 (read a) (x k)).1).bits) old
  else if 11 ≤ slotFA v then
    (List.range (slotK v / 16)).foldl (fun a g => windowSum f (read a :: (List.range 16).map (fun i => x (16 * g + i)))) old
  else if slotFC v = 1 then
    let p : Int := match exactSum ((List.range (slotK v)).map x) with
      | .fin n a b => if n then -((a / b : Nat) : Int) else ((a / b : Nat) : Int)
      | _ => 0
    ((max (-(2 ^ 31)) (min (2 ^ 31 - 1) ((BitVec.ofNat 32 old).toInt + p))) % 2 ^ 32).toNat
  else windowSum f [read old, (numMul (exactSum ((List.range (slotK v)).map x)) t).1]

/-- R405: the sum of xs differs from x by more than tau times the sum of their magnitudes, or some of them is no number. -/
def Sys2Proof.Machine.sumBeyond (tau x : FNum) (xs : List FNum) : Prop :=
  (∃ y ∈ x :: xs, ∀ n p q, y ≠ .fin n p q) ∨
  (let lim := (numMul tau (exactSum (xs.map FNum.abs))).1
   let d := (exactSum (x :: xs.map FNum.neg)).abs
   numLt lim d = true ∧ numEq lim d = false)

/-- R383: the bit of a group at which bit j of element i lies in a dense layout. -/
def Sys2Proof.Machine.placeOf (y : Layout) (w i j : Nat) : Nat := match y with
  | .words => 32 * (i % 32) + w * (i / 32) + j
  | .plane => 128 * j + i
  | _ => w * i + j

/-- R383, R297: bit j of element i of a group of value v in layout y. -/
def Sys2Proof.Machine.elementBit (y : Layout) (w v i j : Nat) : Bool := match y with
  | .line => v.testBit i && v.testBit (128 + w * maskCount v 0 i + j)
  | _ => v.testBit (placeOf y w i j)

/-- R383, R297: out is the value of a group in layout y whose elements have the bits e; a line holds the elements keep. -/
def Sys2Proof.Machine.groupOf (y : Layout) (w : Nat) (e : Nat → Nat → Bool) (keep : List Nat) (out : Nat) : Prop := match y with
  | .line => ∀ b, out.testBit b = if b < 128 then keep.contains b
      else decide ((b - 128) / w < keep.length) && e (keep.getD ((b - 128) / w) 0) ((b - 128) % w)
  | _ => (∀ i < 128, ∀ j < w, out.testBit (placeOf y w i j) = e i j) ∧
      ∀ b, (∀ i < 128, ∀ j < w, placeOf y w i j ≠ b) → out.testBit b = false

/-- The descriptor of operation o lies at offset y of the own scratchpad, its STATUS within it; its space's generation is
current, with no advance in progress. -/
def Sys2Proof.Machine.localDesc (s : State) (c : Ctx) (o : QOp) (y db : Nat) : Prop :=
  o.op.desc? = some (3 * 2 ^ 60 + y) ∧ o.bound = some db ∧ y % 8 = 0 ∧ y + 0x38 ≤ c.l.scratch ∧ y + 0x38 ≤ 2 ^ 22 ∧
  c.wg.scrOk (y + 0x30) 8 = true ∧ s.mm.asBusy = none ∧ s.asGen c.l.aspace = c.l.gen

/-- R377, R378, R379, R398, R401, R391: an engine starts the first operation of a queue that may start, no store that a release
has passed being unperformed; a copy's end
moves its bytes, takes it out of its queue and counts its flag down; one that met a fault stops with the fault kept for
delivery; a matrix operation starts on an idle engine, and MZERO's end leaves zero in its tiles and nothing else
changed. No block is open, record and replay are off, no error lies unfound.
R379: a CPY of one lane leaves at its destination, in memory or in scratchpads, what its source held, the reading of which changes
nothing (of scratchpads, and of lines that the die owns). R381 to R384, R298: so does a CPYB of one row in mode 0, or of one group
in modes 1 to 4, with the bits at the places of the layouts, a bad line giving zeros, and its STATUS beside its descriptor; a CPYB
of any number of rows in mode 0, and CPYX.G and CPYX.S, within the own scratchpad, their regions apart, leave every byte of it as
the rules say. R394, R395, R399, R400: MMA leaves in every cell what the rule's sums give, and MMACK the checksums too. R402 to
R404: MLD leaves the words of the image in the cells and the poison of the image's parts on their rows; MST writes the cells, and
MSTN the converted codes in planes and the status block. R405: MCKV's return carries the row and column bits to its quad. R406:
MCKC repairs its one cell, and with other masks none. Sources are clean. Where it meets log entries 29 and 175, it states the
model's reading, not the spec's words. -/
def Obligations.EngineEvents : Prop :=
  ∀ (s : State) (gk : Nat) (c : Ctx) (o : QOp), s.gctx gk = some c → c.l.rrMode = 0 → c.wg.blocks = [] → o.gen = c.wg.gen →
    s.rel.latent = [] →
    let counted := fun (g : Group) => ∀ k, g.flag k = if k = o.flag ∧ k < 12 then c.g.flag k - 1 else c.g.flag k
    (∀ (q : BitVec 3) parts, o.op = .cpy parts → c.g.startable q.toNat = some o → q.toNat ≤ 4 →
      (q.toNat < 4 → s.qmReady c.g.core = false) → s.latched c.l.part 1 c.g.core = false → s.passing c.wk = false →
      ∃ t g o', exec (.copyStart gk q) s = .next t ∧ mget? t.groups gk = some g ∧ o' ∈ g.ops ∧ o'.id = o.id ∧
        o'.started = true ∧ o'.op = o.op ∧ o'.fcode = 0 ∧ ({ g with ops := c.g.ops } : Group) = c.g ∧ t.mm = s.mm ∧
        t.wgs = s.wgs) ∧
    (∀ (q : BitVec 3) x y n wx wy ox oy w place bs, o.op = .cpy [([x], [y])] → c.g.running q.toNat = some o → q.toNat ≤ 4 →
      o.fcode = 0 → s.stale c.l = false → s.latched c.l.part 1 c.g.core = false → x.loc = .scr wx ox → y.loc = .scr wy oy → x.n = n → y.n = n → x.off = 0 →
      y.off = 0 → 0 < n → ox % 32 + n ≤ 32 → oy % 32 + n ≤ 32 → s.scrRead wy oy n = (bs, none) → mget? s.wgs wx = some w →
      w.scrAt ox = some place → Memory.wf w.sram = true →
      ∃ t g v, exec (.copyDone gk q) s = .next t ∧ mget? t.groups gk = some g ∧ mget? t.wgs wx = some v ∧
        (∀ b, memGet v.sram b = if place ≤ b ∧ b < place + n then bs.getD (b - place) 0#8 else memGet w.sram b) ∧
        g.ops = c.g.ops.filter (fun p => p.id != o.id) ∧ counted g ∧ g.delayed = c.g.delayed ∧ g.regs = c.g.regs ∧
        t.mm = s.mm) ∧
    (∀ (q : BitVec 3) parts, o.op = .cpy parts → c.g.running q.toNat = some o → q.toNat ≤ 4 → o.fcode = 0 →
      s.stale c.l = true → s.latched c.l.part 1 c.g.core = false →
      ∃ t g, exec (.copyStop gk q) s = .next t ∧ mget? t.groups gk = some g ∧
        g.ops = c.g.ops.filter (fun p => p.id != o.id) ∧ counted g ∧
        g.delayed = c.g.delayed ++ [{ id := o.id, flag := o.flag, code := 8, escape := false }] ∧ t.mm = s.mm) ∧
    (∀ core : BitVec 8, s.engGroups core.toNat = [(gk, c.g)] → c.g.running 5 = none → c.g.startable 5 = some o →
      s.latched c.l.part 2 core.toNat = false → s.passing c.wk = false →
      ∃ t g o', exec (.matrixOpStart core) s = .next t ∧ mget? t.groups gk = some g ∧ o' ∈ g.ops ∧ o'.id = o.id ∧
        o'.started = true ∧ o'.op = o.op ∧ mget? t.engPos core.toNat = some c.g.engPosition ∧ t.mm = s.mm ∧ t.wgs = s.wgs) ∧
    (∀ (core : BitVec 8) m, s.engGroups core.toNat = [(gk, c.g)] → c.g.running 5 = some o → o.op = .mzero m →
      ∃ t g v, exec (.matrixOpDone core) s = .next t ∧ mget? t.groups gk = some g ∧ mget? t.wgs c.wk = some v ∧
        (∀ i, mgetD v.tiles i Tile.zero = if i < 16 ∧ m / 2 ^ i % 2 = 1 then Tile.zero
          else mgetD c.wg.tiles i Tile.zero) ∧
        g.ops = c.g.ops.filter (fun p => p.id != o.id) ∧ counted g ∧ g.regs = c.g.regs ∧ v.sram = c.wg.sram ∧ t.mm = s.mm) ∧
    (let leaves := fun (t : State) => ∃ g, mget? t.groups gk = some g ∧ g.ops = c.g.ops.filter (fun p => p.id != o.id) ∧
        counted g ∧ g.regs = c.g.regs ∧ g.delayed = c.g.delayed
     let tile := fun (i : Nat) => mgetD c.wg.tiles i Tile.zero
     (∀ (q : BitVec 3), c.g.running q.toNat = some o → q.toNat ≤ 4 → o.fcode = 0 → s.latched c.l.part 1 c.g.core = false →
       s.stale c.l = false →
       let cc := c.atOp o
       let span := fun (k : AccKind) (addr n al : Nat) => ({ addr := addr, n := n, al := al, kind := k } : Span)
       (∀ dp sp bs at_, s.Sound → o.op = .cpy [(dp, sp)] → s.engRead cc sp = (bs, s) → placed s dp bs.length at_ →
         ∃ t, exec (.copyDone gk q) s = .next t ∧ leaves t ∧ imgWritten s t dp (bs.map (·.1)) at_) ∧
       (∀ dv dst src y db dp sp bs at_ (st : Access), s.Sound → o.op = .cpyb dv dst src → localDesc s c o y db →
         let d := descOf db
         d.bad false = false → d.rows = 1 → s.engRead cc sp = (bs, s) → poisOf bs = none →
         (d.mode = 0 → s.engMove cc (span .load src d.len 1) (span .store dst d.len 1) = (.inr (sp, dp), s) →
           st.loc = .scr c.wk (y + 0x30) → st.off = bs.length → st.n = 8 → placed s (dp ++ [st]) (bs.length + 8) at_ →
           ∃ t, exec (.copyDone gk q) s = .next t ∧ leaves t ∧
             imgWritten s t (dp ++ [st]) (bs.map (·.1) ++ bytesLE 8 (2 ^ 40 + 1)) at_) ∧
         (1 ≤ d.mode → d.mode ≤ 4 → d.len = 1 →
           let w := fmtWidth d.fmt
           let ys := d.layouts.1
           let yd := d.layouts.2
           let v := valOf bs
           let bad := d.mode = 3 ∧ (d.nz < maskCount v 0 128 ∨ 896 < maskCount v 0 128 * w)
           let e := fun i j => elementBit ys w v i j
           let code := fun i => ((List.range w).map (fun j => b2n (e i j) * 2 ^ j)).foldl (· + ·) 0
           s.engMove cc (span .load src (ys.bytes w) ys.align) (span .store dst (yd.bytes w) yd.align) = (.inr (sp, dp), s) →
           bs.length = ys.bytes w → st.loc = .scr c.wk (y + 0x30) → st.off = yd.bytes w → st.n = 8 →
           placed s (dp ++ [st]) (yd.bytes w + 8) at_ →
           (bad → ∃ t, exec (.copyDone gk q) s = .next t ∧ leaves t ∧
             imgWritten s t (dp ++ [st]) (bytesLE (yd.bytes w) 0 ++ bytesLE 8 (2 ^ 40 + 2 ^ 24 + 8 + 1)) at_) ∧
           (∀ out, ¬ bad → groupOf yd w e (compactKeep d.fmt d.nz d.p24 code) out →
             ∃ t, exec (.copyDone gk q) s = .next t ∧ leaves t ∧
               imgWritten s t (dp ++ [st]) (bytesLE (yd.bytes w) out ++ bytesLE 8 (2 ^ 40 + 1)) at_))) ∧
       (∀ y db place, localDesc s c o y db → c.l.scratch ≤ 2 ^ 22 → (∀ x < c.l.scratch, c.wg.scrAt x = some (place + x)) →
         Memory.wf c.wg.sram = true → c.wg.spois = [] →
         let d := descOf db
         let was := fun (x : Nat) => memGet c.wg.sram (place + x)
         let apart := fun (a m b n : Nat) => a + m ≤ b ∨ b + n ≤ a
         let statusAt := fun (v : Wg) (st : Nat) => ∀ i < 8, memGet v.sram (place + y + 0x30 + i) = BitVec.ofNat 8 (st / 2 ^ (8 * i))
         (∀ dst src (x0 y0 : Nat) (sa da : Nat → Nat), o.op = .cpyb (3 * 2 ^ 60 + y) dst src → src = 3 * 2 ^ 60 + x0 →
           dst = 3 * 2 ^ 60 + y0 → x0 < 2 ^ 60 → y0 < 2 ^ 60 → d.bad false = false → d.mode = 0 →
           (∀ i < d.rows, (sa i : Int) = x0 + d.ss * i ∧ sa i + d.len ≤ c.l.scratch ∧
             (da i : Int) = y0 + d.ds * i ∧ da i + d.len ≤ c.l.scratch ∧ apart (da i) d.len (y + 0x30) 8 ∧
             ∀ k < d.rows, apart (da i) d.len (sa k) d.len ∧ (k ≠ i → apart (da i) d.len (da k) d.len)) →
           ∃ t v, exec (.copyDone gk q) s = .next t ∧ leaves t ∧ t.mm = s.mm ∧ mget? t.wgs c.wk = some v ∧
             (∀ i < d.rows, ∀ j < d.len, memGet v.sram (place + da i + j) = was (sa i + j)) ∧
             statusAt v (d.rows * 2 ^ 40 + 1) ∧
             ∀ b, (∀ i < d.rows, b < place + da i ∨ place + da i + d.len ≤ b) →
               (b < place + y + 0x30 ∨ place + y + 0x38 ≤ b) → memGet v.sram b = memGet c.wg.sram b) ∧
         (∀ scatter side list (sd li ba : Nat), o.op = .cpyx scatter (3 * 2 ^ 60 + y) side list → d.bad true = false →
           side = 3 * 2 ^ 60 + sd → list = 3 * 2 ^ 60 + li → d.base = 3 * 2 ^ 60 + ba → li % 4 = 0 →
           let e := 2 ^ d.esz
           let n := d.len
           let ix := fun (i : Nat) => (List.range 4).foldl (fun a k => a + (was (li + 4 * i + k)).toNat * 2 ^ (8 * k)) 0
           let oor := (List.range n).filter (fun i => ix i ≠ 0xFFFFFFFF ∧ d.limit ≤ ix i)
           let skipped := (List.range n).any (fun i => decide (ix i = 0xFFFFFFFF))
           let status := n * 2 ^ 40 + min oor.length 0xFFFF * 2 ^ 24 + b2n skipped * 32 + b2n (!oor.isEmpty) * 4 + 1
           sd % e = 0 → ba % e = 0 → sd + n * e ≤ c.l.scratch → li + 4 * n ≤ c.l.scratch → ba + d.limit * e ≤ c.l.scratch →
           (scatter = false → apart sd (n * e) li (4 * n) → apart sd (n * e) ba (d.limit * e) → apart sd (n * e) (y + 0x30) 8 →
             ∃ t v, exec (.copyDone gk q) s = .next t ∧ leaves t ∧ t.mm = s.mm ∧ mget? t.wgs c.wk = some v ∧ statusAt v status ∧
               (∀ i < n, ∀ j < e, memGet v.sram (place + sd + i * e + j) =
                 if ix i = 0xFFFFFFFF then was (sd + i * e + j) else if d.limit ≤ ix i then 0#8 else was (ba + ix i * e + j)) ∧
               ∀ b, (b < place + sd ∨ place + sd + n * e ≤ b) → (b < place + y + 0x30 ∨ place + y + 0x38 ≤ b) →
                 memGet v.sram b = memGet c.wg.sram b) ∧
           (scatter = true → apart ba (d.limit * e) li (4 * n) → apart ba (d.limit * e) sd (n * e) →
             apart ba (d.limit * e) (y + 0x30) 8 →
             ∃ t v, exec (.copyDone gk q) s = .next t ∧ leaves t ∧ t.mm = s.mm ∧ mget? t.wgs c.wk = some v ∧ statusAt v status ∧
               (∀ i < n, ix i < d.limit → ix i ≠ 0xFFFFFFFF → (∀ k < n, i < k → ix k ≠ ix i) → ∀ j < e,
                 memGet v.sram (place + ba + ix i * e + j) = was (sd + i * e + j)) ∧
               (∀ x < d.limit, (∀ i < n, ix i ≠ x) → ∀ j < e, memGet v.sram (place + ba + x * e + j) = was (ba + x * e + j)) ∧
               ∀ b, (b < place + ba ∨ place + ba + d.limit * e ≤ b) → (b < place + y + 0x30 ∨ place + y + 0x38 ≤ b) →
                 memGet v.sram b = memGet c.wg.sram b)))) ∧
     (∀ core : BitVec 8, s.engGroups core.toNat = [(gk, c.g)] → c.g.running 5 = some o →
       (∀ chk f i aw bw sc as bs, o.op = .mma chk f i aw bw sc →
         let v := c.l.slots.getD f 0#64
         let a := ofBytesLE as
         let b := ofBytesLE bs
         let prod := fun (m k n : Nat) => (numMul (elementA v a m k) (elementB v b k n)).1
         let scale := fun (m : Nat) => (numMul (f32.dec (sc.getD m oneVal).w.toNat) (f32.dec (sc.getD 64 oneVal).w.toNat)).1
         let term := fun (m k n : Nat) => (numMul (prod m k n) (scale m)).1
         let sum := fun (old : Nat) (xs : List FNum) =>
           (f32.out 0 0 false false (numAdd 0 (f32.dec old) (exactSum xs)).1).bits % 2 ^ 32
         slotAccepted v = true → operandHolds s c aw (bytesA v) as → operandHolds s c bw (bytesB v) bs →
         (slotNZ v ≠ 0 → ∀ n < 64, maskCount b (1024 * n) 128 ≤ slotNZ v ∧ maskCount b (1024 * n) 128 * fmtWidth (slotFB v) ≤ 896) →
         (tile i).pois = [] → (chk = true → mget? (tile (i + 1)).pois 0 = none ∧ mget? (tile (i + 1)).pois 1 = none) →
         (∀ x ∈ sc, x.p = none) →
         ∃ t x, exec (.matrixOpDone core) s = .next t ∧ leaves t ∧ t.mm = s.mm ∧ mget? t.wgs c.wk = some x ∧ x.sram = c.wg.sram ∧
           (mgetD x.tiles i Tile.zero).pois = [] ∧
           (∀ m < 64, ∀ n < 64, (mgetD x.tiles i Tile.zero).cell m n =
             cellAfter v ((tile i).cell m n) (fun k => prod m k n) (scale m) % 2 ^ 32) ∧
           (∀ k, k ≠ i → (k ≠ i + 1 ∨ chk = false) → mgetD x.tiles k Tile.zero = tile k) ∧
           (chk = true →
             let y := mgetD x.tiles (i + 1) Tile.zero
             y.pois = (tile (i + 1)).pois ∧
             (∀ n < 64, y.cell 0 n = sum ((tile (i + 1)).cell 0 n)
               ((List.range 64).flatMap (fun m => (List.range (slotK v)).map (fun k => term m k n)))) ∧
             (∀ m < 64, y.cell 1 m = sum ((tile (i + 1)).cell 1 m)
               ((List.range 64).flatMap (fun n => (List.range (slotK v)).map (fun k => term m k n)))) ∧
             ∀ m n, 2 ≤ m → m < 64 → n < 64 → y.cell m n = (tile (i + 1)).cell m n)) ∧
       (∀ i ps bs, o.op = .mld i ps → s.stale c.l = false → c.l.traces 0x13 = false → s.engRead (c.atOp o) ps = (bs, s) →
         bs.length = 16384 →
         ∃ t x, exec (.matrixOpDone core) s = .next t ∧ leaves t ∧ t.mm = s.mm ∧ mget? t.wgs c.wk = some x ∧ x.sram = c.wg.sram ∧
           (∀ m < 64, mget? (mgetD x.tiles i Tile.zero).pois m = poisOf ((bs.drop (256 * m)).take 256) ∧
             (poisOf ((bs.drop (256 * m)).take 256) = none → ∀ n < 64, (mgetD x.tiles i Tile.zero).cell m n =
               valOf ((bs.drop (256 * m + 4 * n)).take 4))) ∧
           ∀ k, k ≠ i → mgetD x.tiles k Tile.zero = tile k) ∧
       (∀ i ps at_ (img : List Byte), s.Sound → o.op = .mst i ps → s.stale c.l = false → (tile i).pois = [] →
         img.length = 16384 → placed s ps 16384 at_ →
         (∀ m < 64, ∀ n < 64, ∀ j < 4, img.getD (256 * m + 4 * n + j) 0#8 = BitVec.ofNat 8 ((tile i).cell m n / 2 ^ (8 * j))) →
         ∃ t x, exec (.matrixOpDone core) s = .next t ∧ leaves t ∧ imgWritten s t ps img at_ ∧ mget? t.wgs c.wk = some x ∧
           x.tiles = c.wg.tiles) ∧
       (∀ f i ps sc sr at_ (img : List Byte), s.Sound → o.op = .mstn f i ps sc sr → s.stale c.l = false → (tile i).pois = [] →
         (∀ x ∈ sc, x.p = none) →
         let v := c.l.slots.getD f 0#64
         let w := fmtWidth (slotFA v)
         let fc := fcFmt (slotFC v)
         let val := fun (k : Nat) => if slotFC v = 1 then ofInt (BitVec.ofNat 32 k).toInt else fc.dec (k % 2 ^ fc.width)
         let u := fun (m n : Nat) => if slotOR v = 5 then
             drawWord c.l.seed (sr.getD (m % 32) 0#32) (c.gl (m % 32)) (m / 32 * 64 + n) else 0
         let made := fun (m n : Nat) =>
           narrowCell v (val ((tile i).cell m n)) (f32.dec (sc.getD m oneVal).w.toNat) (u m n)
         let quants := fun (m : Nat) => (List.range 64).map (fun n => (made m n).2)
         let bits := fun (p : List Quant → Bool) =>
           ((List.range 64).map (fun m => b2n (p (quants m)) * 2 ^ m)).foldl (· + ·) 0
         let count := fun (p : Quant → Bool) => ((List.range 64).map (fun m => ((quants m).filter p).length)).foldl (· + ·) 0
         let status := bits (fun l => l.all (·.code == 0) && l.any (·.flsh)) + bits (fun l => l.all (·.sat)) * 2 ^ 64 +
           count (·.sat) * 2 ^ 128 + count (·.flsh) * 2 ^ 160
         v ≠ 0#64 → 0 < w → img.length = 512 * w + 32 → placed s ps (512 * w + 32) at_ →
         (∀ m < 64, ∀ k < 8 * w, img.getD (8 * w * m + k) 0#8 = BitVec.ofNat 8
           (((List.range 8).map (fun r => (made m (8 * (k % 8) + r)).1 / 2 ^ (k / 8) % 2 * 2 ^ r)).foldl (· + ·) 0)) →
         (∀ k < 32, img.getD (512 * w + k) 0#8 = BitVec.ofNat 8 (status / 2 ^ (8 * k))) →
         ∃ t x, exec (.matrixOpDone core) s = .next t ∧ leaves t ∧ imgWritten s t ps img at_ ∧ mget? t.wgs c.wk = some x ∧
           x.tiles = c.wg.tiles) ∧
       (∀ d i tau, o.op = .mckv d i tau → (tile i).pois = [] → mget? (tile (i + 1)).pois 0 = none →
         mget? (tile (i + 1)).pois 1 = none →
         let num := fun (x : Nat) => f32.dec x
         let off := fun (col : Bool) (m : Nat) => sumBeyond (num tau.w.toNat)
           (num ((tile (i + 1)).cell (if col then 0 else 1) m))
           ((List.range 64).map (fun n => num (if col then (tile i).cell n m else (tile i).cell m n)))
         ∃ t g p vals, exec (.matrixOpDone core) s = .next t ∧ mget? t.groups gk = some g ∧
           g.ops = c.g.ops.filter (fun p => p.id != o.id) ∧ g.pend = c.g.pend ++ [p] ∧ g.flags = c.g.flags ∧ g.regs = c.g.regs ∧
           p.op = .value vals 7 ∧ p.id = o.id ∧ p.dst = d ∧ p.nreg = 4 ∧ p.lanes = BitVec.allOnes 32 ∧ p.tag = .U ∧
           p.flag = o.flag ∧ p.gen = o.gen ∧ t.mm = s.mm ∧ t.wgs = s.wgs ∧
           ∀ j < 4, ∀ l < 32, ∃ x, vals[j * 32 + l]? = some x ∧ x.p = none ∧
             ∀ k < 32, (x.w.getLsbD k = true ↔ off (decide (2 ≤ j)) (32 * (j % 2) + k))) ∧
       (∀ i ms, o.op = .mckc i ms →
         let rows := ms.getD 0 0 + ms.getD 1 0 * 2 ^ 32
         let cols := ms.getD 2 0 + ms.getD 3 0 * 2 ^ 32
         (∀ r k, r < 64 → k < 64 → ms.length = 4 → (∀ x ∈ ms, x < 2 ^ 32) → rows = 2 ^ r → cols = 2 ^ k → (tile i).pois = [] →
           mget? (tile (i + 1)).pois 0 = none → ((tile i).cells = [] ∨ (tile i).cells.length = 4096) →
           ∃ t x, exec (.matrixOpDone core) s = .next t ∧ leaves t ∧ t.mm = s.mm ∧ mget? t.wgs c.wk = some x ∧
             x.sram = c.wg.sram ∧ (mgetD x.tiles i Tile.zero).pois = [] ∧
             (∀ m < 64, ∀ n < 64, (mgetD x.tiles i Tile.zero).cell m n =
               if m = r ∧ n = k then (f32.out 0 0 false false (exactSum (f32.dec ((tile (i + 1)).cell 0 k) ::
                   ((List.range 64).filter (· != r)).map (fun m => (f32.dec ((tile i).cell m k)).neg)))).bits % 2 ^ 32
               else (tile i).cell m n) ∧
             ∀ j, j ≠ i → mgetD x.tiles j Tile.zero = tile j) ∧
         (((∀ r, rows ≠ 2 ^ r) ∨ ∀ k, cols ≠ 2 ^ k) → (∀ x ∈ ms, x < 2 ^ 32) →
           ∃ t x, exec (.matrixOpDone core) s = .next t ∧ leaves t ∧ t.mm = s.mm ∧ mget? t.wgs c.wk = some x ∧
             x.tiles = c.wg.tiles ∧ x.sram = c.wg.sram))))

/-- R153, R156 to R158, R169: an ownership request recalls the other die's line, advances its version when it was
modified, and grants it, no byte of memory changing; a revalidation of the current version is confirmed and of an older
one answered with fresh data; WRAP clears once no earlier watch request for the line is undecided; a generation advances at ASCTL, whose end drops the space's translations, and
an ASCTL while one is busy, or an advance of space 0, sets ERR. No error is injected and none lies unfound. Where it meets log entries 5 and
105, it states the model's reading, not the spec's words. -/
def Obligations.CoherenceEvents : Prop :=
  ∀ (s : State) (die : BitVec 2) (ln : Nat), b64 (s.reg 0x27) 0 0 = 0 → (∀ x ∈ s.mm.lines, x.2.flip = none) →
    s.rel.latent = [] →
    (s.askable die.toNat ln = true →
      ((s.line ln).version < 0xFFFF →
        ∃ t, exec (.ownershipRequest die ln) s = .next t ∧ (t.line ln).owner = some die.toNat ∧
          (t.line ln).version = (if (s.line ln).owner.isSome = true ∧ (s.line ln).owner ≠ some die.toNat ∧
            (s.line ln).dirty = true then (s.line ln).version + 1 else (s.line ln).version) ∧
          (∀ b, t.byteAt b = s.byteAt b) ∧ t.wgs = s.wgs) ∧
      (∀ k, mget? s.mm.vcopy (copyKey die.toNat ln) = some k → (s.line ln).owner = none →
        (k.ver = (s.line ln).version →
          ∃ t, exec (.revalidation die ln) s = .next t ∧ (mget? t.mm.vcopy (copyKey die.toNat ln)).isSome = true ∧
            t.line ln = { s.line ln with used := (t.line ln).used } ∧ (∀ b, t.byteAt b = s.byteAt b) ∧ t.wgs = s.wgs) ∧
        (k.ver ≠ (s.line ln).version →
          ∃ t k', exec (.revalidation die ln) s = .next t ∧ mget? t.mm.vcopy (copyKey die.toNat ln) = some k' ∧
            k'.ver = (s.line ln).version ∧ k'.data = s.lineData ln ∧ ∀ b, t.byteAt b = s.byteAt b))) ∧
    (s.asking ln (s.line ln).wrapId none = true → exec (.wrapClear none ln) s = .next s) ∧
    (s.asking ln (s.line ln).wrapId none = false →
      ∃ t, exec (.wrapClear none ln) s = .next t ∧ t.line ln = { s.line ln with wrap := false } ∧
        ∀ m, m ≠ ln → t.line m = s.line m) ∧
    (s.asking ln (s.line ln).swrapId (some die.toNat) = true → exec (.wrapClear (some die) ln) s = .next s) ∧
    (s.asking ln (s.line ln).swrapId (some die.toNat) = false →
      ∃ t, exec (.wrapClear (some die) ln) s = .next t ∧
        t.line ln = (if (s.line ln).owner = some die.toNat then { s.line ln with swrap := false } else s.line ln) ∧
        ∀ m, m ≠ ln → t.line m = s.line m) ∧
    (∀ v : BitVec 64,
      let a := v.toNat / 2 ^ 12 % 2 ^ 12
      (s.mm.asBusy = none → v.toNat % 2 = 0 →
        ∃ t, exec (.asctlInval v) s = .next t ∧ t.mm.asBusy = some (a, false) ∧ t.mm.gens = s.mm.gens ∧ t.mm.bytes = s.mm.bytes) ∧
      (s.mm.asBusy = none → a ≠ 0 →
        ∃ t, exec (.asctlAdvance v) s = .next t ∧ t.mm.asBusy = some (a, true) ∧ t.asGen a = (s.asGen a + 1) % 256 ∧
          (∀ x, x ≠ a → t.asGen x = s.asGen x) ∧ t.mm.bytes = s.mm.bytes) ∧
      (s.mm.asBusy = none → a = 0 → ∃ t, exec (.asctlAdvance v) s = .next t ∧ t.mm = s.mm ∧ t.fld 0x22 3 3 = 1) ∧
      (s.mm.asBusy.isSome = true → ∀ i, i = .asctlInval v ∨ i = .asctlAdvance v →
        ∃ t, exec i s = .next t ∧ t.mm = s.mm ∧ t.fld 0x22 3 3 = 1)) ∧
    (∀ a adv, s.mm.asBusy = some (a, adv) →
      ∃ t, exec .asctlDone s = .next t ∧ t.mm.asBusy = none ∧ t.mm.tlb = s.mm.tlb.filter (fun e => e.1 / 2 ^ 36 != a) ∧
        mgetD t.mm.marks a 0 = s.mm.asMark ∧ t.mm.bytes = s.mm.bytes ∧ t.groups = s.groups)

/-- R219 to R225, R228 to R230: the error registers: a record freed, ERRBASE written, an injection armed or refused, the
scrubber's next line; a failed die, stack or controller is dead, and the lines that it held or kept have no owner. Error
records are not written to memory in these states. Where it meets log entries 106, 107 and 122, it states the model's
reading, not the spec's words. -/
def Obligations.ReliabilityEvents : Prop :=
  ∀ (s : State), s.fld 0x23 0 0 = 0 →
    (∀ (v : BitVec 64) r, v.toNat % 2 = 1 → mget? s.rel.recs (v.toNat / 2 % 2 ^ 12) = some r →
      ∃ t, exec (.errackFree v) s = .next t ∧ t.mm = s.mm ∧ t.groups = s.groups ∧
        mget? t.rel.recs (v.toNat / 2 % 2 ^ 12) = some { r with valid := false, ovf := false, count := 0 }) ∧
    (∀ v : BitVec 64, v.toNat % 2 = 0 → exec (.errackFree v) s = .next s) ∧
    (∀ v : BitVec 64, s.rel.heldR = [] → exec (.errbaseEnable v) s = .next (s.setReg 0x23 (v &&& 0x1FFFFFFC0001#64))) ∧
    (∀ v : BitVec 64, v.toNat % 2 = 1 →
      ∃ t, exec (.injArm v) s = .next t ∧ ({ t with regs := s.regs } : State) = s ∧
        (v.toNat / 2 % 4 ≠ 3 → paReachable (s.fld 0x26 47 7 * 128) = true →
          t.fld 0x27 0 0 = 1 ∧ t.fld 0x27 2 1 = v.toNat / 2 % 4 ∧ t.fld 0x27 31 22 = v.toNat / 2 ^ 22 % 2 ^ 10) ∧
        ((v.toNat / 2 % 4 = 3 ∨ paReachable (s.fld 0x26 47 7 * 128) = false) → t.fld 0x27 0 0 = 0 ∧ t.fld 0x27 11 11 = 1)) ∧
    (s.fld 0x28 0 0 = 0 → ∀ f : BitVec 2, exec (.scrub f) s = .next s) ∧
    (s.fld 0x28 0 0 = 1 → s.power.applied.contains 1 = false → s.rel.scrubAt + 1 < 2 ^ 32 → s.rel.latent = [] →
      ∃ t, exec (.scrub 0#2) s = .next t ∧ t.rel.scrubAt = s.rel.scrubAt + 1 ∧
        ({ t with rel := s.rel } : State) = s) ∧
    (∀ d : BitVec 2, mget? s.mm.deadDie d.toNat = none → s.gangs = [] → s.launches = [] →
      ∃ t, exec (.dieFailure d) s = .next t ∧ (mget? t.mm.deadDie d.toNat).isSome = true ∧
        ∀ ln, (s.line ln).owner = some d.toNat → (t.line ln).owner = none ∧
          ((s.line ln).dirty = true → (t.line ln).pois.isSome = true)) ∧
    (∀ k : BitVec 3, mget? s.mm.deadStack k.toNat = none →
      ∃ t, exec (.stackFailure k) s = .next t ∧ (mget? t.mm.deadStack k.toNat).isSome = true) ∧
    (∀ k : BitVec 1, mget? s.mm.deadCtl k.toNat = none →
      ∃ t, exec (.controllerFailure k) s = .next t ∧ (mget? t.mm.deadCtl k.toNat).isSome = true ∧
        ∀ ln, homeOf (ln * 128) = 8 + k.toNat → (t.line ln).owner = none)

/-! ## Events of the dispatcher and of Kulintang -/

/-- R325, R102, R69, R96: a group that has exited with nothing due retires, and with the last group of a gang its gang; a
launch whose gangs have all gone retires and its event is handed over; a round applies the updates handed over, an ADD
saturating; a waiter whose threshold is met fires and its queue goes on. -/
def Obligations.RetirementAndEvents : Prop :=
  ∀ (s : State), s.canonical →
    (∀ gk g w gg l, mget? s.groups gk = some g → s.launchOf g.wg = some (w, gg, l) → g.retiring = true → g.retired = false →
      g.splits = [] → (∀ f < 12, g.flag f = 0) → g.ops = [] → (∀ p ∈ g.pend, p.drop = true ∧ p.op.writes = false) →
      s.fld (nPCTL l.part) 3 3 = 0 → (w.conv = none ∨ w.convl = []) →
      ((∃ k h, (k, h) ∈ s.groups ∧ k ≠ gk ∧ h.wg = g.wg ∧ h.retired = false ∧ ∃ q ∈ h.splits, ∀ x, q.st ≠ .waiting x) →
        ∃ t g' w', exec (.groupRetire gk) s = .next t ∧ mget? t.groups gk = some g' ∧ g'.retired = true ∧ g'.pend = [] ∧
          mget? t.wgs g.wg = some w' ∧ w'.retired = w.retired ∧ w'.sram = w.sram ∧
          (∀ b k, mget? w'.banks b = some k → ∀ x ∈ k.held, x.2.1 ≠ gk) ∧ t.mm = s.mm ∧
          ∀ k, k ≠ gk → mget? t.groups k = mget? s.groups k) ∧
      (s.groups = [(gk, g)] → s.wgs = [(g.wg, w)] → g.wg / 32 = w.gang → w.conv = none → l.rrMode = 0 →
        ∃ t, exec (.groupRetire gk) s = .next t ∧ t.groups = [] ∧ t.wgs = [] ∧ mget? t.gangs w.gang = none ∧
          l.part ∈ t.kul.passes ∧
          t.mm = { s.mm with wcopy := s.mm.wcopy.filter (fun e => !(e.2.ro && e.1 / 2 ^ 44 == w.core)) })) ∧
    (∀ lk l, mget? s.launches lk = some l → l.ended = none → l.gx * l.gy * l.gz ≤ l.nextGang →
      (∀ e ∈ s.gangs, e.2.launch ≠ lk) →
      ∃ t, exec (.launchRetire lk) s = .next t ∧ mget? t.launches lk = none ∧
        (l.sigen = false → t.kul.held = s.kul.held) ∧
        (l.sigen = true → ∃ u, t.kul.held = s.kul.held ++ [u] ∧ u.ev = l.sigev ∧ u.op = 0 ∧ u.v = l.sigadd)) ∧
    (∀ u, s.kul.queues = [] → s.kul.held = [u] →
      ∃ t, exec .kulintangRound s = .next t ∧ t.kul.held = [] ∧
        t.event u.ev = (if u.op = 0 then min (2 ^ 32 - 1) (s.event u.ev + u.v) else if u.op = 1 then u.v % 2 ^ 32 else 0) ∧
        (∀ e, e ≠ u.ev → t.event e = s.event e) ∧ t.mm = s.mm ∧ t.groups = s.groups) ∧
    (∀ w q tag ix, s.kul.waiters = [w] → w.owner = .queue q tag ix false → w.thresh ≤ s.event w.event →
      (s.queue q).cqstall = false →
      ((s.queue q).wait = some (tag, ix, false) → (s.queue q).st = .waiting →
        ∃ t, exec (.waiterFire w.n) s = .next t ∧ t.kul.waiters = [] ∧ (t.queue q).wait = none ∧ (t.queue q).st = .ready) ∧
      ((s.queue q).wait ≠ some (tag, ix, false) →
        ∃ t, exec (.waiterFire w.n) s = .next t ∧ t.kul.waiters = [] ∧ t.kul.queues = s.kul.queues)) ∧
    (∀ w, s.kul.waiters = [w] → s.event w.event < w.thresh → exec (.waiterFire w.n) s = .next s)

/-- R91, R99, R100, R104, R125: a placement pass that is due places the head gang where it fits; drains, saves and their
limits move the ladder of a queue on; FRESUME takes the faulted split of lowest return point back to it, past it, or
out. Where it meets log entries 55 and 90, it states the model's reading, not the spec's words. -/
def Obligations.DispatcherEvents : Prop :=
  ∀ (s : State) (p : BitVec 4) (q : BitVec 10), s.canonical →
    (p.toNat ∉ s.kul.passes → exec (.placementPass p) s = .next s) ∧
    (∀ i, (i = .placementPass p ∧ p.toNat ∈ s.kul.passes ∨ i = .placementRetry p ∧
        mgetD s.kul.lastPass p.toNat 0 + 16000 ≤ s.time) →
      ∀ k h o, s.dispatchOrder p.toNat = [k] → s.headGang k = some h → s.firstFit h = some o → s.dispLatched p.toNat = false →
        ((s.placeHead h o).placedHead p.toNat h.nk).headGang k = none →
        ((s.placeHead h o).placedHead p.toNat h.nk).dispLatched p.toNat = false →
        ∃ t, exec i s = .next t ∧ t.groups = (s.placeHead h o).groups ∧ t.wgs = (s.placeHead h o).wgs ∧
          t.gangs = (s.placeHead h o).gangs ∧ p.toNat ∉ t.kul.passes ∧ mget? t.kul.lastPass p.toNat = some t.time) ∧
    (∀ ld, (s.queue q.toNat).ladder = some ld → ld.done = [] →
      (s.gangsIn q.toNat (fun st => st == .draining || st == .saving) = [] →
        ∃ t, exec (.drainComplete q) s = .next t ∧ (t.queue q.toNat).ladder = none ∧
          (t.queue q.toNat).rung = max 1 ld.rung ∧ (t.queue q.toNat).hold = (ld.hold || (s.queue q.toNat).hold) ∧
          (ld.disable = true → (t.queue q.toNat).st = .disabled) ∧
          (ld.hold = true → ld.disable = false → (s.queue q.toNat).st ≠ .disabled → (t.queue q.toNat).st = .stopped)) ∧
      (ld.step = 1 → 2 ≤ ld.top → ld.since + s.fld 0x1E 31 0 * 16000 ≤ s.time →
        (∀ e ∈ s.gangsIn q.toNat (· == .draining), e.2.slot.isSome = true) → s.gangsIn q.toNat (· == .draining) ≠ [] →
        ∃ t ld', exec (.drainLimit q) s = .next t ∧ (t.queue q.toNat).ladder = some ld' ∧ ld'.step = 2 ∧ ld'.since = s.time ∧
          ∀ e ∈ s.gangsIn q.toNat (· == .draining), ∃ g, mget? t.gangs e.1 = some g ∧ g.st = .saving) ∧
      (ld.step = 2 → ld.top = 3 → ld.since + s.fld 0x1F 31 0 * 16000 ≤ s.time →
        ∀ e ∈ s.gangsIn q.toNat (· == .saving), ∃ t, exec (.saveLimit q) s = .next t ∧ mget? t.launches e.2.launch = none)) ∧
    (∀ nk gg l, mget? s.gangs nk = some gg → mget? s.launches gg.launch = some l → gg.st = .saving → s.saveReady nk = true →
      s.anyStruck nk = false → (∀ e ∈ s.groups, e.2.delayed = []) → (s.queue l.queue).ladder = none →
      ∃ t gg', exec (.save nk) s = .next t ∧ mget? t.gangs nk = some gg' ∧ gg'.st = .saved ∧
        (∀ e ∈ t.groups, e.2.wg / 32 ≠ nk) ∧ (mget? t.saved nk).isSome = true) ∧
    (∀ (v : BitVec 64) gk g ix k w, s.fresumeGroup v = some gk → mget? s.groups gk = some g → g.splits = [k] → ix = 0 →
      k.st = .faulted → k.handler = false → k.mask ≠ 0#32 → mget? s.wgs g.wg = some w → (w.conv = none ∨ w.convl = []) →
      (∃ j h, (j, h) ∈ s.groups ∧ j ≠ gk ∧ h.wg = g.wg ∧ ∃ x ∈ h.splits, ∀ y, x.st ≠ .waiting y) →
      (∀ i d, (i, d) ∈ [(Instr.fresumeReplay v, 0), (.fresumeSkip v, 1)] →
        ∃ t g' k', exec i s = .next t ∧ mget? t.groups gk = some g' ∧ g'.splits = [k'] ∧ k'.mask = k.mask ∧
          k'.pc = k.ret + d ∧ k'.st = .live 0 ∧ g'.regs = g.regs ∧ t.fld 0x20 63 62 = 1 ∧ t.mm = s.mm) ∧
      (∃ t g', exec (.fresumeExit v) s = .next t ∧ mget? t.groups gk = some g' ∧ g'.splits = [] ∧
        g'.exited = g.exited ||| k.mask ∧ g'.regs = g.regs ∧ t.fld 0x20 63 62 = 1 ∧ t.mm = s.mm)) ∧
    (∀ (v : BitVec 64) i, i ∈ [Instr.fresumeReplay v, .fresumeSkip v, .fresumeExit v] →
      (∀ x : BitVec 64, s.fresumeGroup x = none) → exec i s = .next (s.setFld 0x20 63 62 2))

/-- R60, R62 to R65, R78, R80, R91, R59: a queue is enabled with the fields of its control block and disabled; a
doorbell announces packets, asks for a RESYNC or clears an error; a completion queue is enabled, its head moves, its
timer sends its interrupt, or sets the pending bit of a vector that is held back; partitions and cores take what PARTCTL and CPART write, or refuse it in SCHSTAT; a register
write goes to the register of its offset. The control block read is clean, well formed, and at hand. Where it meets log
entries 58, 60, 61 and 71, it states the model's reading, not the spec's words. -/
def Obligations.QueueEvents : Prop :=
  ∀ (s : State) (q : BitVec 10) (v : BitVec 64) (b : Nat), s.ctlBad b = false →
    (∀ i, i ∈ [Instr.doorbell q v, .doorbellRsy q v, .doorbellClrerr q v] →
      ((s.queue q.toNat).st = .disabled ∨ (s.queue q.toNat).enable = false) → exec i s = .next s) ∧
    ((s.queue q.toNat).st ≠ .disabled → (s.queue q.toNat).enable = true → (s.queue q.toNat).cqstall = false →
      s.readCtl (s.queue q.toNat).addr = (b, false, s) →
      let x := s.queue q.toNat
      let n := 2 ^ (b / 2 ^ 64 % 16 + 4)
      let wr := v.toNat % 2 ^ 32
      (v.toNat / 2 ^ 33 % 4 = 0 → wr ≠ x.wrseen → n < (x.wrseen + 2 ^ 32 - wr) % 2 ^ 32 →
        (wr + 2 ^ 32 - x.wrseen) % 2 ^ 32 ≠ 0 → (wr + 2 ^ 32 - x.rdidx) % 2 ^ 32 ≤ n →
        ∃ t, exec (.doorbell q v) s = .next t ∧ (t.queue q.toNat).wrseen = wr ∧
          (t.queue q.toNat).st = (if x.st = .idle then .ready else x.st) ∧ (t.queue q.toNat).rdidx = x.rdidx) ∧
      (v.toNat / 2 ^ 34 % 2 = 0 →
        ∃ t, exec (.doorbellRsy q v) s = .next t ∧ (t.queue q.toNat).rsy = true ∧ (t.queue q.toNat).st = x.st ∧
          (t.queue q.toNat).wrseen = x.wrseen) ∧
      (x.st = .error → v.toNat / 2 ^ 33 % 2 = 0 →
        ∃ t, exec (.doorbellClrerr q v) s = .next t ∧ (t.queue q.toNat).err = 0 ∧
          (t.queue q.toNat).st = (if x.rdidx = x.wrseen ∧ x.bound = none then .idle else .ready))) ∧
    (s.boot.running = true → (s.queue q.toNat).enable = false → (s.queue q.toNat).ladder = none →
      s.readCtl (v.toNat / 64 * 64) = (b, false, s) →
      ∃ t, exec (.queueEnable q v) s = .next t ∧ (t.queue q.toNat).enable = true ∧ (t.queue q.toNat).st = .idle ∧
        (t.queue q.toNat).rdidx = b / 2 ^ 128 % 2 ^ 32 ∧ (t.queue q.toNat).wrseen = b / 2 ^ 128 % 2 ^ 32 ∧
        (t.queue q.toNat).ring = b % 2 ^ 64 ∧ (t.queue q.toNat).part = b / 2 ^ 68 % 16 ∧ (t.queue q.toNat).err = 0) ∧
    ((s.queue q.toNat).enable = true → (∀ e ∈ s.launches, e.2.queue ≠ q.toNat) → (s.queue q.toNat).ladder = none →
      ∃ t, exec (.queueDisable q v) s = .next t ∧ (t.queue q.toNat).enable = false ∧ (t.queue q.toNat).st = .disabled) ∧
    (∀ c : BitVec 8, (s.cq c.toNat).items = [] → b64 (s.cq c.toNat).coal 24 24 = 0 →
      (v.toNat % 32 ≤ 16 → ∃ t, exec (.cqEnable c v) s = .next t ∧ (t.cq c.toNat).head = 0 ∧ (t.cq c.toNat).tail = 0 ∧
        (t.cq c.toNat).phase = true ∧ b64 (t.cq c.toNat).cfg 32 32 = 1 ∧ b64 (t.cq c.toNat).cfg 4 0 = v.toNat % 32) ∧
      (∃ t, exec (.cqheadWrite c v) s = .next t ∧ (t.cq c.toNat).head = v.toNat % 2 ^ 32 ∧
        (t.cq c.toNat).tail = (s.cq c.toNat).tail)) ∧
    (∀ c : BitVec 8,
      let x := s.cq c.toNat
      let due := b64 x.coal 24 24 = 1 ∧ b64 x.coal 23 8 ≠ 0 ∧ 1 ≤ x.p ∧ x.first + b64 x.coal 23 8 * 16000 ≤ s.time
      (due → ∃ t, exec (.cqCoalesceTimer c) s = .next t ∧ t.cq c.toNat = { x with p := 0 } ∧ t.mm = s.mm ∧
        (s.links.pci.holds (b64 x.cfg 26 16) = false → s.links.sl15 = true →
          t.links = { s.links with out := s.links.out ++ [.host (.msix (b64 x.cfg 26 16) (s.links.pci.vector (b64 x.cfg 26 16)).1
            (s.links.pci.vector (b64 x.cfg 26 16)).2.1)] }) ∧
        (s.links.pci.holds (b64 x.cfg 26 16) = true → t.links.out = s.links.out ∧ b64 x.cfg 26 16 ∈ t.links.pci.pend)) ∧
      (¬ due → exec (.cqCoalesceTimer c) s = .next s)) ∧
    (∀ n : BitVec 8, n.toNat < 192 →
      (s.wgsOn n.toNat = [] → s.kul.anchors = [] →
        ∃ t, exec (.cpartWrite n v) s = .next t ∧ t.reg (0x100 + n.toNat) = (v &&& 0x1F#64) ∧ t.mm = s.mm) ∧
      (s.wgsOn n.toNat ≠ [] → exec (.cpartWrite n v) s = .next (s.setFld 0x1D 0 0 1))) ∧
    (∀ n : BitVec 4,
      let x := v &&& 0xF001FFFF0000FFFF#64
      let bad := 65536 < b64 x 15 0 + b64 x 48 32 ∨
        (∃ k < 16, k ≠ n.toNat ∧ 0 < b64 x 48 32 ∧ 0 < s.fld (0x40 + k) 48 32 ∧ b64 x 15 0 < s.fld (0x40 + k) 15 0 + s.fld (0x40 + k) 48 32 ∧
          s.fld (0x40 + k) 15 0 < b64 x 15 0 + b64 x 48 32) ∨
        (s.fld (0x40 + n.toNat) 48 0 ≠ b64 x 48 0 ∧ ∃ e ∈ s.kul.queues, e.2.enable = true ∧ e.2.part = n.toNat)
      (bad → exec (.partctlWrite n v) s = .next (s.setFld 0x1D 1 1 1)) ∧
      (¬ bad → exec (.partctlWrite n v) s = .next (s.setReg (0x40 + n.toNat) x))) ∧
    (∀ off e, s.power.st ≠ .off →
      (s.links.pci.d3hot = false → (e = true ∨ s.links.pci.ecrcChk = false) →
        (off % 8 ≠ 0 → exec (.registerWrite ⟨.host, .bar0 off, e⟩ v) s = .next s) ∧
        (off % 8 = 0 → 0x10000 ≤ off → off < 0x20000 →
          exec (.registerWrite ⟨.host, .bar0 off, e⟩ v) s = .next (s.sysWrite ((off - 0x10000) / 8) v)) ∧
        (off % 8 = 0 → off < 0x2000 → exec (.registerWrite ⟨.host, .bar0 off, e⟩ v) s = .next (s.doorbell (off / 8) v))) ∧
      (s.links.pci.ecrcChk = true →
        ∃ t, exec (.registerWrite ⟨.host, .bar0 off, false⟩ v) s = .next t ∧ t.links.pci.aer.getLsbD 19 = true ∧
          t.regs = s.regs ∧ t.kul = s.kul ∧ t.mm = s.mm) ∧
      (s.power.input = true → off % 8 = 0 → 0x10000 ≤ off → off < 0x20000 →
        exec (.registerWrite ⟨.sideband, .bar0 off, e⟩ v) s = .next (s.sysWrite ((off - 0x10000) / 8) v)) ∧
      (s.power.input = false → exec (.registerWrite ⟨.sideband, .bar0 off, e⟩ v) s = .next s))

/-! ## Events of power, boot and time -/

/-- R47, R48, R50 to R54, R30: a power failure freezes issue and starts a drain in the slot that the trap writes; each
section ends with every chunk of it in the chunk table, and the drain with its final record; exhausted holdup stops it
without one, the chunks in the table counting in the record that is then rebuilt; the return of the input, and the board controller, bring a power-on reset, which keeps both slots and
the fused counter. No error lies unfound. Where it meets log entries 84, 85, 86, 116, 145 and 146, it states the model's reading, not the spec's words. -/
def Obligations.PowerEvents : Prop :=
  ∀ (s : State) (n : Nat) (sl : Bool) (d : Drain), s.rel.latent = [] →
    let tabled := fun (e : Drain) (k m : Nat) => ∀ j < m, mget? e.chunks (d.firstChunk k + j) = some (crc32 (e.chunk k j))
    (s.power.st = .on →
      ∃ t e, exec (.powerFail n) s = .next t ∧ t.power.st = .draining ∧ t.agenda = [] ∧ t.focus = none ∧ t.peal.wait = [] ∧
        t.power.slot s.power.target = some e ∧ e.seq = s.power.nextSeq % 2 ^ 32 ∧ e.first.status = 0 ∧
        e.first.saved = [0, 0, 0, 0, 0] ∧ e.final = none ∧ e.done = 0 ∧ e.chunks = [] ∧ e.claimed = false ∧ t.power.slot (1 - s.power.target) = s.power.slot (1 - s.power.target) ∧ t.mm = s.mm ∧
        t.wgs = s.wgs ∧ ∀ k g, mget? s.groups k = some g → mget? t.groups k = some { g with pend := [] }) ∧
    (s.power.st ≠ .on → exec (.powerFail n) s = .next s) ∧
    (s.power.st = .draining → s.power.slot s.power.writing = some d →
      (d.last < 5 →
        ∃ t e, exec .drainSectionEnd s = .next t ∧ t.power.slot s.power.writing = some e ∧ e.last = d.last + 1 ∧
          tabled e d.last (d.nChunks d.last) ∧ e.final = d.final ∧ t.power.st = .draining ∧ t.mm = s.mm) ∧
      (d.last = 5 →
        ∃ t e r, exec .drainEnd s = .next t ∧ t.power.slot s.power.writing = some e ∧ e.final = some r ∧ e.now = r ∧
          r.status = 1 + b2n s.power.back * 4 + 16 * 5 ∧ (∀ k < 5, r.saved.getD k 0 = d.goal k) ∧ e.chunks = d.chunks ∧
          t.power.st = .off ∧ t.power.wake = s.power.back ∧ t.mm = s.mm) ∧
      (∃ t e, exec (.holdupExhausted n) s = .next t ∧ t.power.slot s.power.writing = some e ∧ e.final = d.final ∧
        e.last = d.last ∧ (d.last < 5 → tabled e d.last (min (d.goal d.last) n / 2 ^ 20)) ∧
        (d.final = none → e.now.status = 2 + 16 * d.last ∧ ∀ k < 5, e.now.saved.getD k 0 ≤ d.goal k) ∧
        t.power.st = .off ∧ t.power.wake = s.power.back ∧ t.mm = s.mm)) ∧
    (s.power.st = .on → exec .inputReturn s = .next s) ∧
    (s.power.st ≠ .on → (s.power.st = .off → s.power.input = false) →
      ∃ t, exec .inputReturn s = .next t ∧ t.power.input = true ∧ t.power.st = s.power.st ∧
        (if s.power.st = .off then t.power.wake = true else t.power.back = true) ∧ t.mm = s.mm) ∧
    (s.power.st = .off → s.power.wake = true →
      ∃ t, exec (.powerOnReset sl) s = .next t ∧ t.power.st = .on ∧ t.power.slotA = s.power.slotA ∧
        t.power.slotB = s.power.slotB ∧ t.power.sel = s.power.newest ∧ t.boot.ctr = s.boot.ctr ∧ t.boot.running = false ∧
        t.links.sl15 = sl ∧ t.regs = [] ∧ t.groups = [] ∧ t.kul = Kul.reset ∧ t.mm = MemSys.reset) ∧
    (¬ (s.power.st = .off ∧ s.power.wake = true) → exec (.powerOnReset sl) s = .next s) ∧
    (s.power.st = .off → s.power.input = true →
      ∃ t, exec .sidebandPowerOn s = .next t ∧ t.power.wake = true ∧ t.mm = s.mm) ∧
    (s.power.st = .on → s.power.input = true → ∃ t, exec .sidebandPowerOff s = .next t ∧ t.power.st = .off ∧ t.power.wake = false ∧ t.mm = s.mm)

/-- R54, R424, R82 to R86: RESTORE brings the saved persist lines back, or sets ERR; CLAIM marks the selected slot;
BOOTGO, the end of the bundle checks, COMMIT and ATGO move the boot registers on; a report is written in full or ATERR
is set. The restore is of a drain whose listed lines were all saved, with nothing saved of its other sections. Where it
meets log entries 65, 66 and 67, it states the model's reading, not the spec's words. -/
def Obligations.RestartAndBoot : Prop :=
  ∀ (s : State) (d : Drain),
    ((s.power.selected = none ∨ s.kul.launched = true ∨ s.power.restoring = true) →
      exec .restore s = .next (s.setFld 0x1B 2 2 1)) ∧
    (let ls := persistLines (d.first.plist.map (fun r => (r.1, r.2.1, [])))
     s.power.selected = some d → s.kul.launched = false → s.power.restoring = false → (∀ k < 4, d.now.saved.getD k 0 = 0) →
      128 * ls.length ≤ d.now.saved.getD 4 0 → s.Sound →
      ∃ t, exec .restore s = .next t ∧ t.power.restoring = true ∧
        ∀ b, t.byteAt b = if ls.any (fun e => e.1 == b / 128) then memGet d.bytes b else s.byteAt b) ∧
    (s.power.restoring = true →
      ∃ t, exec .restored s = .next t ∧ t.power.restoring = false ∧ t.fld 0x1A 4 4 = 1 ∧ t.mm = s.mm) ∧
    (∀ k, s.power.sel = some k →
      ∃ t, exec .claim s = .next t ∧ t.power.slot k = (s.power.slot k).map (fun x => { x with claimed := true }) ∧
        t.mm = s.mm) ∧
    (s.power.sel = none → exec .claim s = .next (s.setFld 0x1B 2 2 1)) ∧
    ((s.boot.busy = true ∨ s.boot.running = true) → exec .bootgo s = .next s) ∧
    (s.boot.busy = false → s.boot.running = false →
      ∃ t, exec .bootgo s = .next t ∧ t.boot.busy = true ∧ t.boot.running = false ∧ t.mm = s.mm) ∧
    (∀ b, s.boot.busy = true → 0 < b64 s.boot.len 26 0 → b64 s.boot.len 26 0 ≤ 2 ^ 26 →
      b64 s.boot.addr 44 12 * 4096 + b64 s.boot.len 26 0 ≤ 0x7FFE000000 →
      s.homeRead (b64 s.boot.addr 44 12 * 4096) (b64 s.boot.len 26 0) = (b, none, s) →
      ∃ t, exec .bundleStart s = .next t ∧ t.boot.busy = false ∧ t.boot.fail = bundleFail b s.boot.counter ∧ t.mm = s.mm ∧
        (if bundleFail b s.boot.counter = 0 then t.boot.running = true ∧ t.boot.runver = ofBytesLE ((b.drop 0xC).take 4)
         else t.boot.running = s.boot.running)) ∧
    (s.boot.counter < s.boot.runver →
      ∃ t, exec .commit s = .next t ∧ t.boot.counter = s.boot.runver ∧ t.boot.running = s.boot.running) ∧
    (s.boot.runver ≤ s.boot.counter → exec .commit s = .next s) ∧
    (s.boot.atbusy = true → exec .atgo s = .next s) ∧
    (s.boot.atbusy = false →
      ∃ t, exec .atgo s = .next t ∧ t.boot.atbusy = true ∧ t.boot.atdone = false ∧ t.boot.aterr = false ∧
        t.boot.atnonce = s.boot.nonce) ∧
    (s.boot.atbusy = true → s.boot.hashes ≠ [] →
      let n := 0x41E0 + (certBytes s.boot.hashes).length
      ∃ t, exec .atdone s = .next t ∧ t.boot.atbusy = false ∧ t.boot.atlen = n ∧
        (b64 s.boot.atdst 44 12 * 4096 + n ≤ 2 ^ 39 → t.boot.atdone = true) ∧
        (2 ^ 39 < b64 s.boot.atdst 44 12 * 4096 + n → t.boot.aterr = true ∧ t.mm = s.mm))

/-- R31, R36, R39, R40, R42, R45, R46, R55 to R58: Tocsin orders by pin and message, whose re-plan in progress is aborted, and
which a power-fail trap only keeps; a step level written; the loop's grades applied and lifted, and its orders that were late
counted; the current limit's duty, and the re-plans of the margins; R28, R29, R231, R232: time messages, holdover and the
pulse. That CAP rises to min 5 (op + 1) is the model's reading (log entry 45). Where it meets log entries 45, 79, 80, 82, 83, 104, 130, 148 and 150 to 152, it states the model's reading, not the spec's words. -/
def Obligations.TocsinMarginsAndTime : Prop :=
  ∀ (s : State),
    (∀ x : BitVec 3, s.power.st = .on →
      ∃ t, exec (.tocsin x) s = .next t ∧ t.power.level = x.toNat ∧ t.power.src = 0 ∧ t.power.pinAt = some s.time ∧
        t.power.replan = (if x = 0#3 then mergeIslands s.power.replanWait s.power.replan else []) ∧
        t.power.met = decide (s.fld 0x18 43 32 ≤ s.pcap x.toNat) ∧
        (∀ i ∈ s.power.replan, t.fld (0x200 + i) 1 1 = 1) ∧ t.mm = s.mm ∧ t.groups = s.groups) ∧
    (∀ x : BitVec 3, s.power.st = .draining →
      ∃ t, exec (.tocsin x) s = .next t ∧ t.power.ordered = some x.toNat ∧ t.power.level = s.power.level ∧
        t.power.applied = s.power.applied ∧ t.mm = s.mm) ∧
    (∀ x : BitVec 3, (s.power.input = false → exec (.tocsinMessage x) s = .next s) ∧
      (∀ p, s.power.pinAt = some p → s.time < p + 16000 → exec (.tocsinMessage x) s = .next s) ∧
      ((∀ p, s.power.pinAt = some p → p + 16000 ≤ s.time) → s.power.st = .on → s.power.input = true →
        ∃ t, exec (.tocsinMessage x) s = .next t ∧ t.power.level = x.toNat ∧ t.power.src = 1 ∧ t.mm = s.mm)) ∧
    (∀ (n : BitVec 3) (v : BitVec 64),
      let ok := 500 ≤ b64 v 11 0 ∧ b64 v 11 0 ≤ 2000 ∧ 1 ≤ b64 v 19 16 ∧ b64 v 19 16 ≤ 8 ∧ 1 ≤ b64 v 23 20 ∧ b64 v 23 20 ≤ 8
      (¬ ok → exec (.tslvlWrite n v) s = .next (s.setFld 0x18 12 12 1)) ∧
      (ok → ∃ t, exec (.tslvlWrite n v) s = .next t ∧ t.pcap n.toNat = b64 v 11 0 ∧ t.mfloor n.toNat = b64 v 19 16 ∧
        t.vfloor n.toNat = b64 v 23 20 ∧ t.power.level = s.power.level ∧
        t.power.src = s.power.src ∧ t.mm = s.mm ∧ (n.toNat = s.power.level → s.power.st = .on →
          t.power.met = decide (s.fld 0x18 43 32 ≤ b64 v 11 0) ∧ t.power.pursue =
            if b64 v 11 0 < s.pcap n.toNat ∧ b64 v 11 0 < s.fld 0x18 43 32 then some s.time else none))) ∧
    (∀ p a temps amps, s.power.st = .on → s.power.level < 8 →
      let cap := s.pcap s.power.level
      ∃ t, exec (.taborLoopTick p ⟨a, temps, amps⟩) s = .next t ∧ t.power.temps = temps ∧ t.power.amps = amps ∧
        t.fld 0x18 43 32 = a % 2 ^ 12 ∧ (a ≤ cap → t.power.met = true ∧ t.power.pursue = none) ∧
        (∀ t0, s.power.pursue = some t0 → cap < a → t.fld 0x18 31 16 =
          if t0 + 16000000 < s.time then min 0xFFFF (s.fld 0x18 31 16 + 1) else s.fld 0x18 31 16) ∧
        t.power.applied = (if cap < p then (match s.nextStage with
            | some k => k :: s.power.applied
            | none => s.power.applied)
          else if p * 100 < cap * 95 then s.power.applied.tail else s.power.applied) ∧ t.mm = s.mm) ∧
    (∀ a, ((3900 ≤ a ∧ s.power.limiting = false) →
        ∃ t, exec (.currentLimitTrip a) s = .next t ∧ t.power.limiting = true ∧ t.power.duty = s.power.duty - 1) ∧
      (a < 3900 → exec (.currentLimitTrip a) s = .next s) ∧
      (s.power.limiting = true →
        ∃ t, exec (.currentLimitStep a) s = .next t ∧ t.power.limiting = decide (3800 ≤ a) ∧
          t.power.duty = if 3800 ≤ a then s.power.duty - 1 else s.power.duty)) ∧
    (s.power.limiting = false → s.power.duty < 8 →
      ∃ t, exec .currentLimitRestore s = .next t ∧ t.power.duty = s.power.duty + 1) ∧
    (∀ v : BitVec 64, s.power.replan = [] →
      (b64 v 9 9 = 1 → b64 v 8 0 ≤ 256 → ∃ t, exec (.margcmdStart v) s = .next t ∧
        t.power.replan = (if b64 v 8 0 = 256 then List.range 256 else [b64 v 8 0]) ∧ t.mm = s.mm) ∧
      (b64 v 9 9 = 1 → 256 < b64 v 8 0 → exec (.margcmdStart v) s = .next s) ∧
      (b64 v 9 9 = 0 → exec (.margcmdStart v) s = .next (s.setFld 0x19 8 0 (b64 v 8 0)))) ∧
    (∀ h, (s.power.st = .on → s.power.hours + 1000 ≤ h →
        ∃ t, exec (.replanTimer h) s = .next t ∧ t.power.replan = List.range 256 ∧ t.power.hours = h / 1000 * 1000 ∧
          t.onHours = h) ∧
      (h < s.power.hours + 1000 → exec (.replanTimer h) s = .next s)) ∧
    (∀ rs i rest, s.power.replan = i :: rest →
      let bad := dedup ((List.range 6).flatMap (fun op => badMonitors (rs.getD op [])))
      ∃ t, exec (.replanIsland rs) s = .next t ∧ t.power.replan = rest ∧ t.fld (0x200 + i) 0 0 = (if bad = [] then 0 else 1) ∧
        t.fld (0x200 + i) 63 44 = s.onHours % 2 ^ 20 ∧
        ∀ op < 6,
          let m := marginOf (leastSlack (rs.getD op []) bad)
          (s.power.margin i op ≤ min 60 m → t.power.margin i op = min 60 m ∧ mget? t.power.lower (i * 8 + op) = none) ∧
          (min 60 m < s.power.margin i op → t.power.margin i op = s.power.margin i op ∧
            mget? t.power.lower (i * 8 + op) = some (min 60 m)) ∧
          (60 < m → t.fld (0x200 + i) 2 2 = 1 ∧ min 5 (op + 1) ≤ t.fld (0x200 + i) 15 13)) ∧
    (∀ x : BitVec 8, (s.islandEmpty x.toNat = true →
        ∃ t, exec (.marginLowerApply x) s = .next t ∧ ∀ op < 6, mget? t.power.lower (x.toNat * 8 + op) = none ∧
          t.power.margin x.toNat op = (mget? s.power.lower (x.toNat * 8 + op)).getD (s.power.margin x.toNat op)) ∧
      (s.islandEmpty x.toNat = false → exec (.marginLowerApply x) s = .next s)) ∧
    (s.links.holdover = false → s.links.annAt + 3 * s.links.annEvery ≤ s.time →
      ∃ t, exec .holdover s = .next t ∧ t.links.holdover = true ∧ t.links.slew = 0 ∧ t.time = s.time) ∧
    (s.links.holdover = true ∨ s.time < s.links.annAt + 3 * s.links.annEvery → exec .holdover s = .next s) ∧
    (∀ n, ∃ t, exec (.ppsEdge n) s = .next t ∧ t.links.pps = decide (100 < n) ∧ t.time = s.time) ∧
    (∀ (p : BitVec 2) (dm : BitVec 16) sec ns ann,
      let x : Nat := sec * 16000000000 + ns * 16
      (¬ (s.linksUp = true ∧ p.toNat = s.fld 0x2E 15 0 ∧ dm.toNat = s.fld 0x2F 15 0) →
        exec (.ptpMessage p dm sec ⟨ns, ann⟩) s = .next s) ∧
      (s.links.holdover = true → ann = none → exec (.ptpMessage p dm sec ⟨ns, ann⟩) s = .next s) ∧
      (s.linksUp = true → p.toNat = s.fld 0x2E 15 0 → dm.toNat = s.fld 0x2F 15 0 → (s.links.holdover = false ∨ ann ≠ none) →
        ∃ t, exec (.ptpMessage p dm sec ⟨ns, ann⟩) s = .next t ∧
          (ann = none → t.links.holdover = s.links.holdover ∧ t.links.annAt = s.links.annAt) ∧
          (∀ i, ann = some i → t.links.holdover = false ∧ t.links.annAt = t.time ∧ t.links.annEvery = i) ∧
          (if s.links.locked then t.time = s.time ∧ t.links.slew = (x : Int) - s.time ∧ t.peal.copies = s.peal.copies
           else t.time = max s.time x ∧ t.links.locked = true ∧
             ∀ d < 5, s.copyTime d ≤ t.time + 32 → t.time ≤ t.copyTime d + 32 ∧ t.copyTime d ≤ t.time + 32)))

/-! ## Events of Peal and of the debugger -/

/-- R236, R239 to R244, R246, R248, R438: TIME records, the writing, dropping and holding back of records, the reports
and samples, and the registers of a partition's buffer. Where it meets log entries 108 and 109, it states the model's
reading, not the spec's words. -/
def Obligations.PealEvents : Prop :=
  ∀ (s : State) (p : BitVec 4) (v : BitVec 64) (c : BitVec 8) (n : BitVec 12),
    (s.links.ptpSec < s.packSecond →
      ∃ t, exec .timeRecord s = .next t ∧ t.links.ptpSec = s.links.ptpSec + 1 ∧ t.time = s.time ∧ t.peal.copies = s.peal.copies ∧
        (s.pealOn p.toNat = true → ∃ r ∈ t.peal.wait, r.part = p.toNat ∧ r.kind = 1 ∧ r.sclass = 5 ∧
          r.ts = (s.links.ptpSec + 1) * 16000000000 ∧ r.payload % 2 ^ 48 = (s.links.ptpSec + 1) % 2 ^ 48)) ∧
    (s.packSecond ≤ s.links.ptpSec → exec .timeRecord s = .next s) ∧
    (∃ t, exec (.sourceTimeReport c n) s = .next t ∧
      mget? t.peal.reports (c.toNat * 4096 + n.toNat) = some (s.copyTime (sourceDie c.toNat n.toNat) - 1) ∧ t.peal.wait = s.peal.wait) ∧
    (∀ r, s.nextRec p.toNat = some r →
      (s.pealFull p.toNat = false → s.rel.latent = [] → b64 (s.reg 0x27) 0 0 = 0 →
        ∃ t, exec (.pealRecordWrite p) s = .next t ∧ t.peal.wait = s.peal.wait.erase r ∧
          t.fld (nPPTR p.toNat) 31 0 = (s.fld (nPPTR p.toNat) 31 0 + 1) % 2 ^ 32 ∧
          t.fld (nPPTR p.toNat) 63 32 = s.fld (nPPTR p.toNat) 63 32) ∧
      (s.pealFull p.toNat = true → s.effLL p.toNat = false →
        ∃ t, exec (.pealRecordWrite p) s = .next t ∧ t.peal.wait = s.peal.wait.erase r ∧ t.mm = s.mm ∧
          t.reg (nPPTR p.toNat) = s.reg (nPPTR p.toNat) ∧
          t.fld (nPSTAT p.toNat) 63 32 = min (2 ^ 32 - 1) (s.fld (nPSTAT p.toNat) 63 32 + 1)) ∧
      (s.pealFull p.toNat = true → s.effLL p.toNat = true → exec (.pealRecordWrite p) s = .next s)) ∧
    (s.nextRec p.toNat = none → exec (.pealRecordWrite p) s = .next s) ∧
    (∀ r, s.lateRec p.toNat = some r → s.pealFull p.toNat = true →
      ∃ t, exec (.deviceRecordTimeout p) s = .next t ∧ t.peal.wait = s.peal.wait.erase r ∧ t.mm = s.mm) ∧
    (s.lateRec p.toNat = none → exec (.deviceRecordTimeout p) s = .next s) ∧
    (∀ x, mget? s.peal.perturb (c.toNat * 4096 + n.toNat) = some x →
      (s.periodEnd (c.toNat * 4096 + n.toNat) = true → ∃ t, exec (.perturb c n) s = .next t ∧ mget? t.peal.perturb (c.toNat * 4096 + n.toNat) = none) ∧
      (s.periodEnd (c.toNat * 4096 + n.toNat) = false → exec (.perturb c n) s = .next s)) ∧
    (∀ (h : BitVec 2) x rest, s.samplable c.toNat h.toNat = x :: rest →
      let last := mgetD s.peal.sampled (c.toNat * 4 + h.toNat) 15
      let ends := s.coreClk c.toNat % 2 ^ (s.fld (nPCTL x.2.2.2.part) 19 16 + 8) = 0 ∧ s.edgeAt (s.clk - 1) c.toNat = true
      (ends →
        ∃ t e, exec (.sample c h) s = .next t ∧ e ∈ x :: rest ∧
          mget? t.peal.sampled (c.toNat * 4 + h.toNat) = some e.2.1.slot ∧
          (last < e.2.1.slot ∨ e = x ∧ ∀ y ∈ x :: rest, y.2.1.slot ≤ last) ∧ t.groups = s.groups ∧ t.mm = s.mm) ∧
      (¬ ends → exec (.sample c h) s = .next s)) ∧
    (∃ t, exec (.pctlEnable p v) s = .next t ∧ t.pealOn p.toNat = (b64 v 0 0 == 1) ∧ t.mm = s.mm ∧
      (s.pealOn p.toNat = false → b64 v 0 0 = 1 → t.reg (nPPTR p.toNat) = 0#64 ∧ t.fld (nPSTAT p.toNat) 63 32 = 0) ∧
      (s.pealOn p.toNat = true → b64 v 0 0 = 0 → ∀ r ∈ t.peal.wait, r.part ≠ p.toNat)) ∧
    (let rp := s.fld (nPPTR p.toNat) 63 32
     let wp := s.fld (nPPTR p.toNat) 31 0
     let within := (b64 v 63 32 + 2 ^ 32 - rp) % 2 ^ 32 ≤ (wp + 2 ^ 32 - rp) % 2 ^ 32
     (s.pealOn p.toNat = false ∨ ¬ within → exec (.rpWrite p v) s = .next s) ∧
     (s.pealOn p.toNat = true → within →
       ∃ t, exec (.rpWrite p v) s = .next t ∧ t.fld (nPPTR p.toNat) 63 32 = b64 v 63 32 ∧ t.fld (nPPTR p.toNat) 31 0 = wp ∧
         t.mm = s.mm))

/-- R251 to R256, R261: DBGCTL begins and ends a debug stop and lets a halted gang go on, with the result in DBGSTAT;
the quiet point is reached once everything issued has been performed; DBGD reads and writes the 8 bytes at DBGA,
physical memory in window 0. Where it meets log entry 111, it states the model's reading, not the spec's words. -/
def Obligations.DebugEvents : Prop :=
  ∀ (s : State) (v : BitVec 64),
    let k := b64 v 35 28 * 4 + b64 v 37 36
    (b64 v 35 28 < 192 → mget? s.stops k = none →
      ∃ t st, exec (.debugStop v) s = .next t ∧ mget? t.stops k = some st ∧ st.cause = 0 ∧ st.quiet = none ∧
        st.time = s.time ∧ t.fld 0x2A 1 0 = 1 ∧ t.groups = s.groups ∧ t.mm = s.mm) ∧
    (192 ≤ b64 v 35 28 → ∃ t, exec (.debugStop v) s = .next t ∧ t.stops = s.stops ∧ t.fld 0x2A 1 0 = 2) ∧
    (mget? s.stops k = none → ∃ t, exec (.debugStopEnd v) s = .next t ∧ t.fld 0x2A 1 0 = 2 ∧ t.stops = s.stops) ∧
    (∀ st, mget? s.stops k = some st →
      ∃ t, exec (.debugStopEnd v) s = .next t ∧ mget? t.stops k = none ∧ t.fld 0x2A 1 0 = 1 ∧
        ((∀ e ∈ s.groups, e.2.pend = []) → (∀ g, mget? t.groups g = mget? s.groups g) ∧ t.mm = s.mm)) ∧
    ((∀ e ∈ s.gangs, e.2.halted = false) → ∃ t, exec (.resumeHaltedGang v) s = .next t ∧ t.gangs = s.gangs ∧ t.fld 0x2A 1 0 = 2) ∧
    (∀ nk gg l, s.gangs = [(nk, gg)] → gg.halted = true → gg.index % 2 ^ 18 = b64 v 27 10 →
      mget? s.launches gg.launch = some l → l.queue = b64 v 9 0 →
      ∃ t, exec (.resumeHaltedGang v) s = .next t ∧ t.gangs = [(nk, { gg with halted := false, free := true })] ∧
        t.fld 0x2A 1 0 = 1) ∧
    (∀ (c : BitVec 8) (h : BitVec 2),
      (∀ st, mget? s.stops (c.toNat * 4 + h.toNat) = some st → st.quiet = none → s.isQuiet c.toNat h.toNat = true →
        ∃ t, exec (.quietPoint c h) s = .next t ∧ mget? t.stops (c.toNat * 4 + h.toNat) = some { st with quiet := some s.time }) ∧
      ((mget? s.stops (c.toNat * 4 + h.toNat) = none ∨ s.isQuiet c.toNat h.toNat = false) →
        exec (.quietPoint c h) s = .next s)) ∧
    (let a := (s.reg 0x2C).toNat
     (a % 8 ≠ 0 → (∃ t, exec .dbgdRead s = .next t ∧ t.fld 0x2A 1 0 = 3 ∧ t.mm = s.mm) ∧
       ∃ t, exec (.dbgdWrite v) s = .next t ∧ t.fld 0x2A 1 0 = 3 ∧ t.mm = s.mm) ∧
     (a % 8 = 0 → a < 0x7FFE000000 → s.Sound →
       (s.linePois (a / 128) = none →
         ∃ t, exec .dbgdRead s = .next t ∧ t.fld 0x2A 1 0 = 1 ∧ t.fld 0x2A 2 2 = 0 ∧ (∀ b, t.byteAt b = s.byteAt b) ∧
           (s.links.sl15 = true →
             t.links.out = s.links.out ++ [.host (.data ((List.range 8).map (fun j => s.byteAt (a + j))) false)])) ∧
       ∃ t, exec (.dbgdWrite v) s = .next t ∧ t.fld 0x2A 1 0 = 1 ∧
         ∀ b, t.byteAt b = if a ≤ b ∧ b < a + 8 then BitVec.ofNat 8 (v.toNat / 2 ^ (8 * (b - a))) else s.byteAt b))

/-! ## Events of the network and the links -/

/-- R25 to R27, R385 to R387, R425: a frame that is no packet, or a packet that R27 refuses, is dropped and counted; one
out of order is answered with a NAK; in order, WRITE and SEND are performed in their window before they are
acknowledged, READ is answered with its bytes, and READ-RESP lands them; ACK and NAK end, advance or repeat what was
sent, and so do the timers. Connection n has the entry v, which is read without effect. Where it meets log entries 94,
95, 97 and 123, it states the model's reading, not the spec's words. -/
def Obligations.DamaviEvents : Prop :=
  ∀ (s : State) (p : BitVec 2) (udp : BitVec 16) (h : BitVec 256) (data : List Byte) (v : Nat),
    let dropped := fun (t : State) => t.fld 0x32 31 0 = min (2 ^ 32 - 1) (s.fld 0x32 31 0 + 1) ∧ t.mm = s.mm ∧
      t.links = s.links ∧ t.groups = s.groups
    let up := s.linksUp = true ∧ udp.toNat = s.fld 0x30 15 0
    let peerOf := fun (v : Nat) => ({ addr := BitVec.ofNat 128 v, udp := BitVec.ofNat 16 (v / 2 ^ 128), src := udp } : UdpTo)
    let sends := [(Instr.damaviWrite ⟨p, udp⟩ h data, 1), (.damaviRead ⟨p, udp⟩ h, 2), (.damaviReadResp ⟨p, udp⟩ h data, 3), (.damaviSend ⟨p, udp⟩ h data, 6)]
    let all := sends ++ [(Instr.damaviAck ⟨p, udp⟩ h, 4), (.damaviNak ⟨p, udp⟩ h, 5)]
    (s.linksUp = true → ∃ t, exec (.otherFrame p) s = .next t ∧ dropped t) ∧
    (s.linksUp = false → exec (.otherFrame p) s = .next s ∧ ∀ i op, (i, op) ∈ all → exec i s = .next s) ∧
    (∀ i op, (i, op) ∈ all → s.linksUp = true → (udp.toNat ≠ s.fld 0x30 15 0 ∨ hOk h op = false) →
      ∃ t, exec i s = .next t ∧ dropped t) ∧
    (up → s.conn (hCONN h) = (some v, s) → hRKEY h ≠ connRkey v → ∀ i op, (i, op) ∈ all → ∃ t, exec i s = .next t ∧ dropped t) ∧
    (up → s.conn (hCONN h) = (some v, s) → hRKEY h = connRkey v →
      let ready := hLEN h ≤ 8192 ∧ data.length = hLEN h
      let apart := fun base n => base + n ≤ s.connAt (hCONN h) ∨ s.connAt (hCONN h) + 64 ≤ base
      (∀ i op, (i, op) ∈ sends → hOk h op = true → ready → inWindow v (hROFF h) (hLEN h) = true → nbit (hFLAGS h) 1 = true →
        16384 ≤ connSize v → connSize v % 16384 = 0 → inDram (connBase v) = true → inDram (connBase v + connSize v - 1) = true →
        hPSN h ≠ connExpect v →
        ∃ t r, exec i s = .next t ∧ t.links.out = s.links.out ++ [.damavi (connPort v) (peerOf v) r []] ∧ hOk r 5 = true ∧
          hPSN r = connExpect v ∧ t.mm = s.mm ∧ t.groups = s.groups) ∧
      (hPSN h = connExpect v → s.Sound → ready →
        (hOk h 1 = true → inWindow v (hROFF h) (hLEN h) = true → apart (connBase v + hROFF h) (hLEN h) →
          ∃ t, exec (.damaviWrite ⟨p, udp⟩ h data) s = .next t ∧
            (∀ j < hLEN h, t.byteAt (connBase v + hROFF h + j) = data.getD j 0#8) ∧
            (nbit (hFLAGS h) 0 = true → ∃ r, t.links.out = s.links.out ++ [.damavi (connPort v) (peerOf v) r []] ∧ hOk r 4 = true)) ∧
        (hOk h 2 = true → inWindow v (hROFF h) (hLEN h) = true → apart (connBase v + hROFF h) (hLEN h) →
          (∀ ln, s.linePois ln = none) →
          ∃ t r, exec (.damaviRead ⟨p, udp⟩ h) s = .next t ∧ t.links.out.getLast? = some (.damavi (connPort v) (peerOf v) r
            ((List.range (hLEN h)).map (fun j => s.byteAt (connBase v + hROFF h + j)))) ∧ hOk r 3 = true ∧ hLEN r = hLEN h) ∧
        (hOk h 6 = true → nbit (hFLAGS h) 1 = true → 16384 ≤ connSize v → connSize v % 16384 = 0 →
          inDram (connBase v) = true → inDram (connBase v + connSize v - 1) = true → (∀ ln, s.linePois ln = none) →
          let slot := connBase v + 16384 * (connSlot v % (connSize v / 16384))
          apart slot 16384 →
          (s.byteAt (slot + 7) &&& 0x80#8 = 0#8 →
            ∃ t r, exec (.damaviSend ⟨p, udp⟩ h data) s = .next t ∧ (∀ j < hLEN h, t.byteAt (slot + 0x40 + j) = data.getD j 0#8) ∧
              (∀ j < 64, t.byteAt (slot + j) = BitVec.ofNat 8 ((hLEN h + hPSN h * 2 ^ 32 + 2 ^ 63) / 2 ^ (8 * j))) ∧
              t.links.out = s.links.out ++ [.damavi (connPort v) (peerOf v) r []] ∧ hOk r 4 = true) ∧
          (s.byteAt (slot + 7) &&& 0x80#8 ≠ 0#8 →
            ∃ t r, exec (.damaviSend ⟨p, udp⟩ h data) s = .next t ∧ (∀ b, t.byteAt b = s.byteAt b) ∧
              t.links.out = s.links.out ++ [.damavi (connPort v) (peerOf v) r []] ∧ hOk r 5 = true ∧ hPSN r = hPSN h))) ∧
      (hOk h 3 = true → hLEN h ≤ 8192 → data.length = hLEN h → hPSN h = connExpect v → nbit (hFLAGS h) 0 = false →
        ∀ key u gk id c o a ps, s.oldestRead (hCONN h) = some (key, u) → u.n ≤ u.got + data.length → u.n = hROFF h + data.length →
          u.op = some (gk, id) →
          let s1 := ((s.psnOn h v).1).setUnacked (mdel s.links.unacked key)
          s1.gctx gk = some c → s1.stale c.l = false → s1.latched c.l.part 1 c.g.core = false → c.g.ops.find? (fun x => x.id == id) = some o → o.stopped = false → o.reads = true →
          o.come = [] → o.sent = o.desc.len → rowAt o.localAddr 1 (u.off + hROFF h) = some a →
          s1.rangeParts (c.atOp o) a data.length 1 .store 0 = (.inr ps, s1) →
          ∃ t g o', exec (.damaviReadResp ⟨p, udp⟩ h data) s = .next t ∧ mget? t.links.unacked key = none ∧
            mget? t.groups gk = some g ∧ g.ops.find? (fun x => x.id == id) = some o' ∧ o'.acked = o.acked + data.length) ∧
      (∀ key u gk g id o, s.links.unacked = [(key, u)] → key / 2 ^ 24 = hCONN h → u.acked = false → u.op = some (gk, id) →
        mget? s.groups gk = some g → g.ops.find? (fun x => x.id == id) = some o → o.stopped = false →
        (hOk h 4 = true → psnBefore (hACK h) (key % 2 ^ 24) = false → nbits u.hdr.toNat 63 56 ≠ 2 →
          ∃ t g' o', exec (.damaviAck ⟨p, udp⟩ h) s = .next t ∧ t.links.unacked = [] ∧ mget? t.groups gk = some g' ∧
            g'.ops.find? (fun x => x.id == id) = some o' ∧ o'.acked = o.acked + u.n ∧ t.mm = s.mm) ∧
        (hOk h 5 = true → psnBefore (hACK h) (key % 2 ^ 24) = true → key % 2 ^ 24 = hPSN h →
          (nbits u.hdr.toNat 63 56 = 6 → ∃ t, exec (.damaviNak ⟨p, udp⟩ h) s = .next t ∧ t.links.out = s.links.out ∧
            t.links.unacked = [(key, { u with full := some s.time })]) ∧
          (nbits u.hdr.toNat 63 56 ≠ 6 → u.tries < 16 → ∃ t, exec (.damaviNak ⟨p, udp⟩ h) s = .next t ∧
            t.links.out = s.links.out ++ [.damavi u.port u.dest u.hdr u.data] ∧
            t.links.unacked = [(key, { u with tries := u.tries + 1, at_ := s.time, full := none })]) ∧
          (nbits u.hdr.toNat 63 56 ≠ 6 → 16 ≤ u.tries → ∃ t g' o', exec (.damaviNak ⟨p, udp⟩ h) s = .next t ∧
            t.links.unacked = [] ∧ mget? t.groups gk = some g' ∧ g'.ops.find? (fun x => x.id == id) = some o' ∧
            o'.rerr = 5)))) ∧
    (∀ (n k : BitVec 24) u, s.links.unacked = [(n.toNat * 2 ^ 24 + k.toNat, u)] →
      (u.acked = false → u.full = none → s.time < u.at_ + 1600000 → exec (.damaviRetransmit n k) s = .next s) ∧
      (u.acked = false → u.full = none → u.at_ + 1600000 ≤ s.time → u.tries < 16 →
        ∃ t, exec (.damaviRetransmit n k) s = .next t ∧ t.links.out = s.links.out ++ [.damavi u.port u.dest u.hdr u.data] ∧
          t.links.unacked = [(n.toNat * 2 ^ 24 + k.toNat, { u with tries := u.tries + 1, at_ := s.time, full := none })]) ∧
      (∀ w, u.full = some w →
        (s.time < w + 160000 → exec (.sendRetry n k) s = .next s) ∧
        (w + 160000 ≤ s.time → ∃ t, exec (.sendRetry n k) s = .next t ∧
          t.links.out = s.links.out ++ [.damavi u.port u.dest u.hdr u.data] ∧
          t.links.unacked = [(n.toNat * 2 ^ 24 + k.toNat, { u with at_ := s.time, full := none })])))

/-- R13, R14, R16 to R21, R74 to R76: packets of the ports: peer packets and doorbells that the peer address table lets
through, reads and writes of the aperture, answers, host traffic, and packets of a reserved kind; a port counts replays,
trains, goes down when a flit's replays are exhausted, is cleared and narrows; a bridge counts a beat's replays, and one that
fails poisons the modified lines that it lost. Where it meets log entries 91, 98, 99, 102, 103, 131, 155 and 156, it
states the model's reading, not the spec's words. -/
def Obligations.LinkEvents : Prop :=
  ∀ (s : State) (p : BitVec 4) (beat packet : BitVec 512) (data : List Byte) (tlp : Tlp),
    let b := beat.toNat
    let x := s.port p.toNat
    (∀ i k, (i, k) ∈ [(Instr.pqw p beat packet, 1), (.pdb p beat, 2), (.mrd p beat, 3), (.mwr p beat data, 4),
        (.cpl p beat data, 5)] → (nbits b 7 0 ≠ k ∨ s.accepts p.toNat beat = false) → exec i s = .next s) ∧
    (s.accepts p.toNat beat = true →
      (∀ i k bit, (i, k, bit) ∈ [(Instr.pqw p beat packet, 1, 34), (.pdb p beat, 2, 35)] → nbits b 7 0 = k → nbits b 63 42 = 0 →
        ((s.queue (nbits b 41 32)).peer = false ∨ s.patAllows x.peer bit (some (nbits b 41 32)) = false) →
        exec i s = .next (s.patDeny x.peer)) ∧
      (let q := nbits b 41 32
       let y := s.queue q
       nbits b 7 0 = 1 → nbits b 63 42 = 0 → y.st ≠ .disabled → y.enable = true → y.peer = true → b64 (s.reg 0x27) 0 0 = 0 →
       s.patAllows x.peer 34 (some q) = true →
       ((y.wrseen + 2 ^ 32 - y.rdidx) % 2 ^ 32 < 2 ^ (y.size + 4) →
         ∃ t, exec (.pqw p beat packet) s = .next t ∧ (t.queue q).wrseen = (y.wrseen + 1) % 2 ^ 32 ∧
           (t.queue q).st = (if y.st = .idle then .ready else y.st) ∧ t.regs = s.regs) ∧
       (2 ^ (y.size + 4) ≤ (y.wrseen + 2 ^ 32 - y.rdidx) % 2 ^ 32 →
         ∃ t, exec (.pqw p beat packet) s = .next t ∧ (t.queue q).wrseen = y.wrseen ∧
           (t.queue q).peerdrop = min 0xFFFF (y.peerdrop + 1))) ∧
      (let q := nbits b 41 32
       nbits b 7 0 = 2 → (s.queue q).st ≠ .disabled → (s.queue q).enable = true → (s.queue q).peer = true →
       s.patAllows x.peer 35 (some q) = true →
       exec (.pdb p beat) s = .next (s.doorbell q (BitVec.ofNat 64 (nbits b 95 64)))) ∧
      (nbits b 7 0 = 3 →
        (∀ st pa, s.aperture x.peer 36 (nbits b 95 32) (nbits b 111 96) = (st, pa) → st ≠ 0 →
          ∃ t, exec (.mrd p beat) s = .next t ∧ t.links.out = s.links.out ++ [.packet p.toNat (beat0 5 x.peer st) []] ∧
            t.mm = s.mm) ∧
        (∀ pa, s.aperture x.peer 36 (nbits b 95 32) (nbits b 111 96) = (0, pa) → s.Sound → (∀ ln, s.linePois ln = none) →
          ∃ t, exec (.mrd p beat) s = .next t ∧ (∀ a, t.byteAt a = s.byteAt a) ∧
            t.links.out = s.links.out ++ [.packet p.toNat (beat0 5 x.peer 0)
              ((List.range (nbits b 111 96)).map (fun j => s.byteAt (pa + j)))])) ∧
      (nbits b 7 0 = 4 → data.length = nbits b 111 96 →
        (∀ st pa, s.aperture x.peer 37 (nbits b 95 32) (nbits b 111 96) = (st, pa) → st ≠ 0 →
          ∃ t, exec (.mwr p beat data) s = .next t ∧ t.links.out = s.links.out ++ [.packet p.toNat (beat0 5 x.peer st) []] ∧
            t.mm = s.mm) ∧
        (∀ pa, s.aperture x.peer 37 (nbits b 95 32) (nbits b 111 96) = (0, pa) → s.Sound →
          ∃ t, exec (.mwr p beat data) s = .next t ∧
            (∀ a, t.byteAt a = if pa ≤ a ∧ a < pa + data.length then data.getD (a - pa) 0#8 else s.byteAt a) ∧
            t.links.out = s.links.out ++ [.packet p.toNat (beat0 5 x.peer 0) []])) ∧
      (∀ gk id off n rest c o, nbits b 7 0 = 5 → x.open_ = (gk, id, off, n) :: rest → s.gctx gk = some c →
        c.g.ops.find? (fun y => y.id == id) = some o → o.stopped = false → o.reads = false → o.sent = o.desc.len →
        nbits b 35 32 ≤ 2 →
        ∃ t g o', exec (.cpl p beat data) s = .next t ∧ (t.port p.toNat).open_ = rest ∧ mget? t.groups gk = some g ∧
          g.ops.find? (fun y => y.id == id) = some o' ∧ t.mm = s.mm ∧
          (match nbits b 35 32 with
            | 0 => o'.acked = o.acked + n ∧ o'.rerr = o.rerr
            | 1 => o'.acked = o.acked ∧ o'.rerr = 2
            | _ => o'.acked = o.acked ∧ o'.rerr = 7))) ∧
    (let dest := nbits b 19 8
     let mine := dest = s.devNum.getD 0xFFF
     (nbits b 7 0 ≠ 6 ∨ s.linksUp = false → exec (.htn p beat tlp) s = .next s) ∧
     (nbits b 7 0 = 6 → s.linksUp = true →
       (∀ k, s.links.sl15 = true → p = 15#4 → (if dest = 0xFFF then k = s.fld 0x36 19 16 else s.portTo dest = some k) →
         s.isScasutal k = true → (s.port k).trained = true → exec (.htn p beat tlp) s = .next (s.send (.htn k beat tlp))) ∧
       (s.links.sl15 = false ∨ p ≠ 15#4 →
         (x.trained = false ∨ ¬ mine → exec (.htn p beat tlp) s = .next s) ∧
         (x.trained = true → mine → s.links.sl15 = true → exec (.htn p beat tlp) s = .next (s.send (.host tlp))) ∧
         (∀ pa n, x.trained = true → mine → s.links.sl15 = false → tlp = .readMem pa n → s.links.pci.d3hot = false → 0 < n → n ≤ 4096 →
           pa + n ≤ 0x7FFE000000 → pa + n ≤ 2 ^ s.links.pci.bar2 → s.Sound → (∀ ln, s.linePois ln = none) →
           ∃ t r, exec (.htn p beat tlp) s = .next t ∧ t.links.htnPort = some p.toNat ∧ nbits r.toNat 7 0 = 6 ∧
             nbits r.toNat 19 8 = x.peer % 4096 ∧ t.links.out = s.links.out ++
               [.htn p.toNat r (.data ((List.range n).map (fun j => s.byteAt (pa + j))) false)])))) ∧
    ((nbits b 7 0 ≠ 7 ∨ s.narrowing p.toNat = false ∨ x.asked = false) → exec (.lct p beat) s = .next s) ∧
    (nbits b 7 0 = 7 → s.linksUp = true → s.narrowing p.toNat = true → x.asked = true →
      ∃ t, exec (.lct p beat) s = .next t ∧ (t.port p.toNat = x ∨ t.port p.toNat = { x with agreed := true }) ∧ t.mm = s.mm) ∧
    (∀ (g : BitVec 2) (up re : Bool) (n : BitVec 10),
      (s.links.bridges.contains g.toNat = true → exec (.beatCrcFail g ⟨up, re, n⟩) s = .next s) ∧
      (s.links.bridges.contains g.toNat = false → s.fld 0x23 0 0 = 0 →
        let key := g.toNat * 2 + (if up then 1 else 0)
        let was := mgetD s.links.beatRun key (0, 0)
        let failed := if re then (if was.1 = n.toNat then was.2 + 1 else 1) else 0
        ∃ t, exec (.beatCrcFail g ⟨up, re, n⟩) s = .next t ∧ mget? t.links.beatRun key = some (n.toNat, failed) ∧
          (∀ k, k ≠ key → mget? t.links.beatRun k = mget? s.links.beatRun k) ∧
          (16 ≤ failed → t.links.dyingB.contains g.toNat = true) ∧ (failed < 16 → t.links.dyingB = s.links.dyingB) ∧
          t.links.bridges = s.links.bridges ∧ t.mm = s.mm ∧ t.groups = s.groups)) ∧
    ((1 ≤ nbits b 7 0 ∧ nbits b 7 0 ≤ 7 ∨ x.trained = false ∨ s.linksUp = false) → exec (.badpkt p beat) s = .next s) ∧
    (s.isScasutal p.toNat = true → s.linksUp = true →
      (x.trained = true → (nbits b 7 0 = 0 ∨ 7 < nbits b 7 0) →
        ∃ t, exec (.badpkt p beat) s = .next t ∧ t.port p.toNat = { x with badpkt := min 0xFFFF (x.badpkt + 1) } ∧ t.mm = s.mm) ∧
      (∀ (out re : Bool) (q : BitVec 12) n, x.trained = true → s.fld 0x23 0 0 = 0 →
        let dir := if out then 1 else 0
        let was := mgetD x.runs dir (0, 0)
        let failed := if re then (if was.1 = q.toNat then was.2 + 1 else 1) else 0
        ∃ t, exec (.flitCrcFail p ⟨out, re, q, n⟩) s = .next t ∧ t.mm = s.mm ∧ t.port p.toNat =
          { x with replays := min 0xFFFF (x.replays + n), runs := mput x.runs dir (q.toNat, failed)
                   replay := if n = 0 then x.replay else mput x.replay dir n, dying := x.dying || decide (32 ≤ failed) }) ∧
      (x.trained = true → x.dying = true → x.open_ = [] → s.fld 0x23 0 0 = 0 →
        ∃ t, exec (.portDown p) s = .next t ∧ t.mm = s.mm ∧ t.groups = s.groups ∧
          t.port p.toNat = { x with ldown := true, trained := false, runs := [], replay := [], dying := false, asked := false, agreed := false }) ∧
      (∀ y : BitVec 12, x.enable = true → x.ldown = false →
        ∃ t, exec (.linkTraining p y) s = .next t ∧ t.port p.toNat = { x with trained := true, peer := y.toNat } ∧ t.mm = s.mm) ∧
      (x.trained = true → s.power.applied.contains 7 = true → x.narrow = false →
        (x.asked = false → ∃ t r, exec (.portNarrow p) s = .next t ∧ t.port p.toNat = { x with asked := true } ∧
          t.links.out = s.links.out ++ [.packet p.toNat r []] ∧ nbits r.toNat 7 0 = 7 ∧ nbits r.toNat 19 8 = x.peer % 4096) ∧
        (x.asked = true → x.agreed = true → x.replay = [] →
          ∃ t, exec (.portNarrow p) s = .next t ∧ t.port p.toNat = { x with narrow := true, asked := false, agreed := false }) ∧
        (x.asked = true → (x.agreed = false ∨ x.replay ≠ []) → exec (.portNarrow p) s = .next s)) ∧
      (x.ldown = true → x.enable = true →
        ∃ t, exec (.ldownClear p) s = .next t ∧ t.port p.toNat = { x with ldown := false } ∧
          t.links.out = s.links.out ++ [.train p.toNat])) ∧
    (∀ f, (x.trained = false → p ≠ 15#4 → exec (.flitCrcFail p f) s = .next s) ∧
      (p = 15#4 → s.links.sl15 = true → s.linksUp = true →
        ∃ t, exec (.flitCrcFail p f) s = .next t ∧ t.links.pci.aerCor.getLsbD 6 = true ∧ t.links.ports = s.links.ports)) ∧
    (p = 15#4 → s.links.sl15 = true → s.linksUp = true → ∀ y : BitVec 12,
      ∃ t, exec (.linkTraining p y) s = .next t ∧ 1 ≤ t.links.pci.rate ∧ t.links.pci.rate ≤ 7 ∧
        t.links.pci.width ∈ [1, 2, 4, 8, 16] ∧ t.links.ports = s.links.ports) ∧
    (x.trained = false ∨ x.dying = false → exec (.portDown p) s = .next s) ∧
    (s.power.applied.contains 7 = false ∨ x.narrow = true ∨ x.trained = false → exec (.portNarrow p) s = .next s) ∧
    (x.ldown = false → exec (.ldownClear p) s = .next s) ∧
    (∀ v : BitVec 64, (b64 v 12 12 = 1 → b64 v 11 0 = 0xFFF → exec (.devnumWrite v) s = .next s) ∧
      (¬ (b64 v 12 12 = 1 ∧ b64 v 11 0 = 0xFFF) →
        ∃ t, exec (.devnumWrite v) s = .next t ∧ t.reg 0x36 = (v &&& 0xF1FFF#64) ∧ t.mm = s.mm ∧
          t.devNum = if b64 v 12 12 = 1 then some (b64 v 11 0) else none)) ∧
    (∀ (g : BitVec 2) lost,
      (s.links.bridges.contains g.toNat = true ∨ s.links.dyingB.contains g.toNat = false →
        exec (.bridgeFailed g lost) s = .next s) ∧
      (s.links.bridges = [] → s.links.dyingB.contains g.toNat = true → s.fld 0x23 0 0 = 0 →
        ∃ t, exec (.bridgeFailed g lost) s = .next t ∧ t.links.bridges = [g.toNat] ∧ t.groups = s.groups ∧
          ∀ ln,
            let hit := ln ∈ lost ∧ (s.line ln).dirty = true ∧ ∃ d, (s.line ln).owner = some d ∧ s.crosses d ln g.toNat = true
            (hit → (t.line ln).owner = none ∧ (t.line ln).pois.isSome = true ∧
              (t.line ln).version = ((s.line ln).version + 1) % 2 ^ 16) ∧ (¬ hit → t.line ln = s.line ln)))

/-- R23, R24, R95, R155, R218: host accesses to memory: a read gives the bytes, the wait-entry overflow areas reading as
zero; a write stores them, and with EP it poisons its lines; one outside the window has no effect, and one whose ECRC does not
fit, or that is too long, is reported in AER and has no other. Where it
meets log entries 100, 101, 127 and 129, it states the model's reading, not the spec's words. -/
def Obligations.HostAccesses : Prop :=
  ∀ (s : State) (pa n : Nat) (e : Bool) (data : List Byte),
    let open_ := s.power.st ≠ .off ∧ s.links.pci.d3hot = false
    let read := Instr.hostMemoryRead ⟨pa, e⟩ n
    let write := Instr.hostMemoryWrite ⟨pa, e⟩ data
    let inWin := fun (m : Nat) => 0 < m ∧ pa + m ≤ 2 ^ s.links.pci.bar2 ∧ pa + m ≤ 2 ^ 39
    (s.power.st ≠ .off → e = false → s.links.pci.ecrcChk = true → ∀ i, i = read ∨ i = write true ∨ i = write false →
      ∃ t, exec i s = .next t ∧ t.links.pci.aer.getLsbD 19 = true ∧ t.links.out = s.links.out ∧ t.mm = s.mm ∧ t.groups = s.groups) ∧
    ((e = true ∨ s.links.pci.ecrcChk = false) →
      (¬ inWin n ∨ ¬ open_ → exec read s = .next s) ∧
      (open_ → inWin n → 4096 < n →
        ∃ t, exec read s = .next t ∧ t.links.pci.aer.getLsbD 18 = true ∧ t.links.out = s.links.out ∧ t.mm = s.mm) ∧
      (open_ → s.links.sl15 = true → inWin n → n ≤ 4096 →
        (0x7FFE000000 ≤ pa → exec read s = .next (s.send (.host (.data (List.replicate n 0#8) false)))) ∧
        (pa + n ≤ 0x7FFE000000 → s.Sound → (∀ ln, s.linePois ln = none) →
          ∃ t, exec read s = .next t ∧ (∀ b, t.byteAt b = s.byteAt b) ∧
            t.links.out = s.links.out ++ [.host (.data ((List.range n).map (fun j => s.byteAt (pa + j))) false)])) ∧
      (¬ inWin data.length ∨ ¬ open_ → ∀ ep, exec (write ep) s = .next s) ∧
      (open_ → inWin data.length →
        (s.links.pci.payload < data.length → ∀ ep,
          ∃ t, exec (write ep) s = .next t ∧ t.links.pci.aer.getLsbD 18 = true ∧ t.mm = s.mm ∧ t.groups = s.groups) ∧
        (data.length ≤ s.links.pci.payload →
          (0x7FFE000000 ≤ pa → exec (write false) s = .next s ∧
            ∃ t, exec (write true) s = .next t ∧ t.links.pci.aer.getLsbD 12 = true ∧ t.mm = s.mm ∧ t.groups = s.groups) ∧
          (pa + data.length ≤ 0x7FFE000000 → s.Sound → s.fld 0x23 0 0 = 0 → ∀ ep,
            ∃ t, exec (write ep) s = .next t ∧
              (∀ b, t.byteAt b = if pa ≤ b ∧ b < pa + data.length then data.getD (b - pa) 0#8 else s.byteAt b) ∧
              (ep = true → t.links.pci.aer.getLsbD 12 = true ∧
                ∀ b, pa ≤ b → b < pa + data.length → (t.linePois (b / 128)).isSome = true)))))

/-! ## Forms that complete -/

/-- R268, R269: CLAUSE completes at every clause boundary: the split stands at the first word of the body, with the clause's
flags, wait and end. R351, R352, R335: VBCAST, VSHFL, VSHFX, VRED and VSCAN complete, writing no register but their destination
(Obligations.LaneMovesAndReductions says what), and so does CONVL. R60, R62 to R65, R78, R80, R91, R59:
DOORBELL, DOORBELL_RSY, DOORBELL_CLRERR, QUEUE_ENABLE, QUEUE_DISABLE, CQ_ENABLE, CQHEAD_WRITE, CQ_COALESCE_TIMER, CPART_WRITE,
PARTCTL_WRITE and REGISTER_WRITE (of DBGA, at offset 0x10160) complete, and so do, by R54, R424 and R82 to R86, RESTORE, RESTORED, CLAIM, BOOTGO,
BUNDLE_START, COMMIT, ATGO and ATDONE: each answers a next state with its own effect, under conditions on the state and the
operands alone. -/
def Obligations.FormsThatComplete : Prop :=
  (∀ (s : State) (c : Ctx) (w : BitVec 12) (a b l : BitVec 4) (y : BitVec 1), s.ctx = some c → c.sp.inClause = false →
    (Instr.clause w a b l y).wf = true →
    ∃ t g p, exec (.clause w a b l y) s = .next t ∧ mget? t.groups c.gk = some g ∧ g.splits[c.ix]? = some p ∧
      p.inClause = true ∧ p.mask = c.sp.mask ∧ p.pc = c.sp.pc + 1 ∧ p.clauseEnd = c.sp.pc + 1 + l.toNat ∧ p.setA = a.toNat ∧
      p.setB = b.toNat ∧ p.wait = w ∧ p.yieldHint = decide (y = 1#1) ∧ t.mm = s.mm ∧ t.wgs = s.wgs ∧
      ∀ k, k ≠ c.gk → mget? t.groups k = mget? s.groups k) ∧
  (∀ (s : State) (c : Ctx) (d a b : BitVec 7) (o : BitVec 4) (e : BitVec 1) (i : Instr), c.logRoom d.toNat 1 → MayIssue s c i →
    (i ∈ [Instr.vbcast d a b, .vshfl d a b, .vshfx d a b] ∨ reductionMode c.g.m o.toNat ∧ i ∈ [Instr.vred d a o, .vscan d a e o]) →
    ∃ t g, exec i s = .next t ∧ mget? t.groups c.gk = some g ∧ g.standsAt c.sp.mask (c.sp.pc + 1) ∧
      (∀ r, r ≠ d.toNat → g.reg r = c.g.reg r) ∧ g.preds = c.g.preds ∧ g.m = c.g.m ∧ t.mm = s.mm) ∧
  (∀ (s : State) (c : Ctx) (m : Nat), MayIssue s c .convl → c.wg.blocks = [] → c.wg.conv = some m →
    s.canonical → (∀ k h, (k, h) ∈ s.groups → h.wg = c.wk → k = c.gk) → (∀ e ∈ s.wgs, e.2.conv = some m → e.1 = c.wk) →
    ∃ t g w, exec .convl s = .next t ∧ mget? t.groups c.gk = some g ∧ g.standsAt c.sp.mask (c.sp.pc + 1) ∧
      mget? t.wgs c.wk = some w ∧ w.conv = none ∧ w.convl = [] ∧ t.mm = s.mm) ∧
  (∀ (s : State) (q : BitVec 10) (v : BitVec 64) (b : Nat), s.ctlBad b = false →
    ((s.queue q.toNat).st = .idle → (s.queue q.toNat).enable = true → (s.queue q.toNat).cqstall = false →
      s.readCtl (s.queue q.toNat).addr = (b, false, s) →
      (v.toNat / 2 ^ 33 % 4 = 0 → v.toNat % 2 ^ 32 = ((s.queue q.toNat).wrseen + 1) % 2 ^ 32 →
        (s.queue q.toNat).wrseen < 2 ^ 32 → (s.queue q.toNat).rdidx = (s.queue q.toNat).wrseen →
        ∃ t, exec (.doorbell q v) s = .next t ∧ (t.queue q.toNat).wrseen = v.toNat % 2 ^ 32 ∧ (t.queue q.toNat).st = .ready) ∧
      (v.toNat / 2 ^ 34 % 2 = 0 → ∃ t, exec (.doorbellRsy q v) s = .next t ∧ (t.queue q.toNat).rsy = true)) ∧
    ((s.queue q.toNat).st = .error → (s.queue q.toNat).enable = true → (s.queue q.toNat).cqstall = false →
      s.readCtl (s.queue q.toNat).addr = (b, false, s) → v.toNat / 2 ^ 33 % 2 = 0 →
      ∃ t, exec (.doorbellClrerr q v) s = .next t ∧ (t.queue q.toNat).err = 0 ∧ (t.queue q.toNat).st ≠ .error) ∧
    (s.boot.running = true → (s.queue q.toNat).enable = false → (s.queue q.toNat).ladder = none →
      s.readCtl (v.toNat / 64 * 64) = (b, false, s) →
      ∃ t, exec (.queueEnable q v) s = .next t ∧ (t.queue q.toNat).enable = true ∧ (t.queue q.toNat).st = .idle) ∧
    ((s.queue q.toNat).enable = true → (∀ e ∈ s.launches, e.2.queue ≠ q.toNat) → (s.queue q.toNat).ladder = none →
      ∃ t, exec (.queueDisable q v) s = .next t ∧ (t.queue q.toNat).st = .disabled)) ∧
  (∀ (s : State) (c : BitVec 8) (v : BitVec 64),
    ((s.cq c.toNat).items = [] → b64 (s.cq c.toNat).coal 24 24 = 0 →
      (v.toNat % 32 ≤ 16 → ∃ t, exec (.cqEnable c v) s = .next t ∧ b64 (t.cq c.toNat).cfg 32 32 = 1) ∧
      ∃ t, exec (.cqheadWrite c v) s = .next t ∧ (t.cq c.toNat).head = v.toNat % 2 ^ 32) ∧
    (let x := s.cq c.toNat
     b64 x.coal 24 24 = 1 → b64 x.coal 23 8 ≠ 0 → 1 ≤ x.p → x.first + b64 x.coal 23 8 * 16000 ≤ s.time →
       ∃ t, exec (.cqCoalesceTimer c) s = .next t ∧ (t.cq c.toNat).p = 0) ∧
    (c.toNat < 192 → s.wgsOn c.toNat = [] → s.kul.anchors = [] →
      ∃ t, exec (.cpartWrite c v) s = .next t ∧ t.reg (0x100 + c.toNat) = (v &&& 0x1F#64)) ∧
    (∀ n : BitVec 4, b64 v 48 32 = 0 → (∀ e ∈ s.kul.queues, e.2.enable = false) →
      ∃ t, exec (.partctlWrite n v) s = .next t ∧ t.reg (0x40 + n.toNat) = (v &&& 0xF001FFFF0000FFFF#64)) ∧
    (s.power.st = .on → s.links.pci.d3hot = false →
      ∃ t, exec (.registerWrite ⟨.host, .bar0 0x10160, true⟩ v) s = .next t ∧ t.reg 0x2C = v)) ∧
  (∀ (s : State),
    (∀ d, s.power.selected = some d → s.kul.launched = false → s.power.restoring = false →
      ∃ t, exec .restore s = .next t ∧ t.power.restoring = true) ∧
    (s.power.restoring = true → ∃ t, exec .restored s = .next t ∧ t.power.restoring = false ∧ t.fld 0x1A 4 4 = 1) ∧
    (∀ k d, s.power.sel = some k → s.power.slot k = some d →
      ∃ t, exec .claim s = .next t ∧ t.power.slot k = some { d with claimed := true }) ∧
    (s.boot.busy = false → s.boot.running = false → ∃ t, exec .bootgo s = .next t ∧ t.boot.busy = true) ∧
    (s.boot.busy = true → ∃ t, exec .bundleStart s = .next t ∧ t.boot.busy = false) ∧
    (s.boot.counter < s.boot.runver → ∃ t, exec .commit s = .next t ∧ t.boot.counter = s.boot.runver) ∧
    (s.boot.atbusy = false → ∃ t, exec .atgo s = .next t ∧ t.boot.atbusy = true ∧ t.boot.atnonce = s.boot.nonce) ∧
    (s.boot.atbusy = true → ∃ t, exec .atdone s = .next t ∧ t.boot.atbusy = false ∧
      (t.boot.atdone = true ∨ t.boot.aterr = true)))

/-! ## The whole machine -/

/-- R273 to R281: decoding the word of a well-formed instruction gives the instruction back, whatever its operands; and a
word that decodes is the word of what it decodes to, so that no two words stand for one instruction and no bit is
dropped. -/
def Obligations.EncodeDecodeAgree : Prop :=
  (∀ (i : Instr) (w : Word), i.wf = true → encode i = some w → decodeWord w = .ok i) ∧
  (∀ (i : Instr) (w : Word), decodeWord w = .ok i → encode i = some w)

/-- R273, R286, R318: words that the spec works out decode to the instructions that they stand for. -/
def Obligations.WorkedWords : Prop :=
  [0xFE0041E6#32, 0xA0204920#32, 0x40143070#32, 0x023FFFFD#32, 0x20300004#32, 0x5C04B002#32, 0x26000800#32, 0x86C94021#32,
    0xC450B181#32, 0xD04000B0#32, 0xE41803C3#32].map (fun w => (decodeWord w).toOption) =
  [some (.clause 2#12 0#4 15#4 3#4 0#1), some (.ld 8#7 9#7 2#4 2#3 0#1), some (.vadd 5#7 6#7 7#7), some (.bra (-3#22)),
    some (.ensure 12#7 4#18), some (.vcmpi 0#4 1#3 22#7 2#11), some (.accept 1#3), some (.vcvtn 50#7 40#7 2#3 0#1),
    some (.cpyxG 20#7 22#7 24#7 1#3), some (.mma 1#3 0#4 0#7 11#7), some (.bankm 6#7 7#3 2#2 3#5)]

/-- R106, R268, R269: a step runs the decoded instruction. Where the next turn is a scheduler's and it selects a split,
and the word at the split's program counter is fetched and decodes to i, the step is exec of i in the state that the
selection and the fetch leave, with the issuer taken away after it and a split that is to rotate giving way; at a clause boundary the header at the
program counter is executed first. On a core with no FIFO bank the scheduler whose turn it is takes it (R411 orders the
others). Without errors in the hardware nothing comes between. The four bytes at the program counter are the word fetched. Where the next turn is an
event's, the step is exec of the event; with no turn left, a new cycle begins, and its first turn is taken. Where it meets log entry 31, it states
the model's reading, not the spec's words. -/
def Obligations.StepRunsTheDecodedInstruction : Prop :=
  (∀ (s : State) (core sched : Nat) (rest : List Turn) (e : List Place) (stalled : List (Place × Nat)) (p : Place),
    s.agenda = .issue core sched :: rest →
    let s0 := (({ s with agenda := rest } : State).pick core sched).2
    let k := (({ s with agenda := rest } : State).pick core sched).1
    s0.eligible core k = (e, stalled) → s0.select core k e = some p →
    let u := (s0.settleTurn core k e stalled (some p)).aim p.g p.ix
    ∀ c, u.ctx = some c → u.holds c = none → c.sp.resume = false →
      let ran := fun (i : Instr) (v : State) => match exec i v with
        | .next t => step s = .next (t.unfocus.updGroup p.g (fun g => g.rotated (s0.splitAt p).mask))
        | .fault r => step s = .fault r
        | .refused r => step s = .refused r
      (∀ w v i x t, c.sp.inClause = true → u.fetch c c.sp.pc = (.inr w, v) → decodeWord w = .ok i → v.ctx = some x →
        v.checked x i = .instr i t → ran i t) ∧
      (∀ h v v' c' w v'' i x t, c.sp.inClause = false → u.fetch c c.sp.pc = (.inr h, v) →
        isHeader h = true → exec (decHeader h.toNat) v = .next v' → v'.ctx = some c' → c'.sp.inClause = true →
        v'.fetch c' c'.sp.pc = (.inr w, v'') → decodeWord w = .ok i → v''.ctx = some x → v''.checked x i = .instr i t →
        ran i t)) ∧
  (∀ (s : State) (core sched : Nat), s.hasFifo core = false → s.pick core sched = (sched, s)) ∧
  (∀ (s : State) (c : Ctx) (i : Instr), s.rel.latent = [] → s.checked c i = .instr i s) ∧
  (∀ (s : State) (c : Ctx) (t : Trans) (i : Instr), c.sp.pc < 2 ^ 22 → s.stale c.l = false →
    let va := c.l.codebase % 2 ^ 60 + 4 * c.sp.pc
    let pa := t.base + va % 65536
    va < 2 ^ 52 → s.translate c.g.core c.l.aspace va = (some t, s) → t.x = true → pa % 4 = 0 →
    mget? s.mm.icache (copyKey c.g.core (pa / 128)) = none → (s.line (pa / 128)).owner = some (c.g.core / 48) →
    b64 (s.reg 0x27) 0 0 = 0 → s.rel.latent = [] →
    decode [s.byteAt pa, s.byteAt (pa + 1), s.byteAt (pa + 2), s.byteAt (pa + 3)] = .ok (i, []) →
    ∃ w v, s.fetch c c.sp.pc = (.inr w, v) ∧ decodeWord w = .ok i ∧ v.groups = s.groups ∧ ∀ b, v.byteAt b = s.byteAt b) ∧
  (∀ (s : State) (e : Instr) (rest : List Turn), s.agenda = .event e :: rest →
    step s = exec e { s with agenda := rest }) ∧
  (∀ (s : State), s.agenda = [] → (s.tick.agenda = [] → step s = .next s.tick) ∧
    (s.tick.agenda ≠ [] → step s = step s.tick) ∧ s.tick.clk = s.clk + 1 ∧
    s.tick.mm.bytes = s.mm.bytes)

/-- R20, R21, R26, R39, R71, R78, R84, R91, R94, R103, R219, R225, R239: what reset leaves: no launch, gang, workgroup
or group; every queue and completion queue disabled, every event 0, every port down, no bundle running, no error record;
the step levels, preemption limits, scrubber, port and device number registers at their reset values, and every
partition's Peal off; and the state's tables and memory in canonical form. Where it meets log entries 69, 70, 71 and 73,
it states the model's reading, not the spec's words. -/
def Obligations.Reset : Prop :=
  let s := State.reset
  s.canonical ∧ s.launches = [] ∧ s.gangs = [] ∧ s.wgs = [] ∧ s.groups = [] ∧
  (∀ q, (s.queue q).st = .disabled ∧ (s.queue q).enable = false ∧ (s.queue q).err = 0) ∧ (∀ e, s.event e = 0) ∧
  (∀ c, (s.cq c).enabled = false) ∧ (∀ n, (s.port n).trained = false ∧ (s.port n).enable = false) ∧
  s.boot.running = false ∧ s.boot.busy = false ∧ s.rel.recs = [] ∧ s.power.level = 0 ∧ s.power.applied = [] ∧
  (∀ n < 8, s.pcap n = 2000 - 200 * n ∧ s.mfloor n = 1 ∧ s.vfloor n = 1) ∧
  s.fld 0x1E 31 0 = 100 ∧ s.fld 0x1F 31 0 = 500 ∧ s.fld 0x28 0 0 = 1 ∧ s.fld 0x28 47 32 = 24 ∧ s.fld 0x30 15 0 = 0xB1A8 ∧
  s.fld 0x36 11 0 = 0xFFF ∧ s.fld 0x36 12 12 = 0 ∧ (∀ p < 16, s.pealOn p = false) ∧
  (∀ n < 192, s.reg (0x100 + n) = 0x10#64)

/-- MEMORY KEEPS ITS CANONICAL FORM: from every state whose memory is in canonical form, every step that answers a next state
leaves it so. -/
def Obligations.MemoryStaysCanonical : Prop :=
  ∀ (s t : State), Memory.wf s.mm.bytes = true → step s = .next t → Memory.wf t.mm.bytes = true

/-- THE TABLES KEEP THEIR CANONICAL FORM: from every state whose groups, workgroups and gangs are listed by rising key, with
every workgroup's banks in canonical form, every step that answers a next state leaves them so. -/
def Obligations.TablesStayCanonical : Prop :=
  ∀ (s t : State),
    let ok := fun (x : State) => (mkeys x.groups).Pairwise (· < ·) ∧ (mkeys x.wgs).Pairwise (· < ·) ∧
      (mkeys x.gangs).Pairwise (· < ·) ∧ ∀ e ∈ x.wgs, Memory.wf e.2.sram = true
    ok s → step s = .next t → ok t
end

