-- ==== Sys2Proof/Laws/Maps.lean ====
section
/-! SUPPORT. Keyed collections, lane collections and bytes of memory: reads after writes, and the canonical form. -/

namespace Sys2Proof.Machine

/-! ## Keyed collections -/

@[simp] theorem mget?_nil {α : Type} (n : Nat) : mget? ([] : Map α) n = none := rfl

/-- A read of the key just written gives the value written. -/
@[simp] theorem mget?_mput_same {α : Type} (m : Map α) (n : Nat) (a : α) : mget? (mput m n a) n = some a := by
  induction m with
  | nil => simp [mput, mget?]
  | cons e r ih =>
    obtain ⟨k, v⟩ := e
    simp only [mput]
    split
    · simp [mget?]
    · split
      · simp [mget?]
      · rename_i h; simp [mget?, h, ih]

/-- A write leaves every other key alone. -/
theorem mget?_mput_other {α : Type} (m : Map α) {n k : Nat} (a : α) (h : k ≠ n) : mget? (mput m n a) k = mget? m k := by
  induction m with
  | nil => simp [mput, mget?, h]
  | cons e r ih =>
    obtain ⟨j, v⟩ := e
    simp only [mput]
    split
    · simp [mget?, h]
    · split
      · rename_i h'; subst h'; simp [mget?, h]
      · simp only [mget?, ih]

theorem mget?_mput {α : Type} (m : Map α) (n k : Nat) (a : α) :
    mget? (mput m n a) k = if k = n then some a else mget? m k := by
  split
  · rename_i h; subst h; exact mget?_mput_same m k a
  · rename_i h; exact mget?_mput_other m a h

/-- What an update of one entry leaves at each key. -/
theorem mget?_mupd {α : Type} (m : Map α) (n k : Nat) (f : α → α) :
    mget? (mupd m n f) k = if k = n then (mget? m n).map f else mget? m k := by
  unfold mupd
  cases h : mget? m n with
  | none => split <;> simp_all
  | some v => simp only [mget?_mput, Option.map_some]

theorem mget?_mupd_same {α : Type} {m : Map α} {n : Nat} {f : α → α} {v : α} (h : mget? m n = some v) :
    mget? (mupd m n f) n = some (f v) := by simp [mget?_mupd, h]

theorem mget?_mupd_other {α : Type} (m : Map α) {n k : Nat} (f : α → α) (h : k ≠ n) :
    mget? (mupd m n f) k = mget? m k := by simp [mget?_mupd, h]

/-- A value-wise change is seen at every key. -/
theorem mget?_mmap {α β : Type} (m : Map α) (f : Nat → α → β) (k : Nat) :
    mget? (mmap m f) k = (mget? m k).map (f k) := by
  induction m with
  | nil => rfl
  | cons e r ih =>
    obtain ⟨j, v⟩ := e
    simp only [mmap, List.map_cons, mget?] at ih ⊢
    split
    · rename_i h; subst h; rfl
    · exact ih

/-- A deleted key is absent, and every other is as before. -/
theorem mget?_mdel {α : Type} (m : Map α) (n k : Nat) : mget? (mdel m n) k = if k = n then none else mget? m k := by
  induction m with
  | nil => simp [mdel, mget?]
  | cons e r ih =>
    obtain ⟨j, v⟩ := e
    simp only [mdel, List.filter_cons] at ih ⊢
    by_cases hj : j = n
    · subst hj
      simp only [bne_self_eq_false, Bool.false_eq_true, if_false, ih, mget?]
      split <;> simp_all
    · have : (j != n) = true := by simpa using hj
      simp only [this, if_true, mget?, ih]
      split
      · rename_i h; subst h; simp [hj]
      · rfl

theorem mgetD_mput_same {α : Type} (m : Map α) (n : Nat) (a d : α) : mgetD (mput m n a) n d = a := by
  simp [mgetD]

theorem mgetD_mput_other {α : Type} (m : Map α) {n k : Nat} (a d : α) (h : k ≠ n) :
    mgetD (mput m n a) k d = mgetD m k d := by simp [mgetD, mget?_mput_other m a h]

/-- A list of entries made from rising lane numbers answers each lane's own entry. -/
theorem mget?_filterMap_range {α : Type} (f : Nat → Option α) (n k : Nat) :
    mget? ((List.range n).filterMap (fun l => (f l).map (fun p => (l, p)))) k = if k < n then f k else none := by
  induction n with
  | zero => simp
  | succ n ih =>
    have app : ∀ (a b : Map α), mget? (a ++ b) k = (mget? a k).or (mget? b k) := by
      intro a b
      induction a with
      | nil => simp
      | cons e r ih =>
        obtain ⟨j, v⟩ := e
        simp only [List.cons_append, mget?]
        split <;> simp_all
    rw [List.range_succ, List.filterMap_append, app, ih]
    by_cases h : k < n
    · have : k ≠ n := by omega
      cases hk : f k with
      | some v => simp [h, Nat.lt_succ_of_lt h]
      | none =>
        cases hn : f n with
        | none => simp [h, Nat.lt_succ_of_lt h, hn]
        | some v => simp [h, Nat.lt_succ_of_lt h, hn, mget?, this]
    · by_cases h' : k = n
      · subst h'
        cases hk : f k <;> simp [hk, mget?]
      · have h2 : ¬ k < n + 1 := by omega
        cases hn : f n with
        | none => simp [h, h2, hn]
        | some v => simp [h, h2, hn, mget?, h']

/-! ## Lanes -/

theorem mem_allLanes {l : Nat} : l ∈ allLanes ↔ l < 32 := by simp [allLanes]

theorem mem_lanesOf {m : Lanes} {l : Nat} : l ∈ lanesOf m ↔ l < 32 ∧ m.getLsbD l = true := by
  simp [lanesOf, mem_allLanes]

/-- A mask built lane by lane has exactly the lanes where f is true. -/
theorem getLsbD_maskOf (f : Nat → Bool) (l : Nat) : (maskOf f).getLsbD l = (decide (l < 32) && f l) := by
  have key : ∀ (ls : List Nat) (a : Lanes), (∀ x ∈ ls, x < 32) → ∀ k,
      (ls.foldl (fun m l => if f l then m ||| (1#32 <<< l) else m) a).getLsbD k =
        (a.getLsbD k || (decide (k ∈ ls) && f k)) := by
    intro ls
    induction ls with
    | nil => intro a _ k; simp
    | cons x r ih =>
      intro a h k
      have hx : x < 32 := h x (by simp)
      have hr := fun y hy => h y (List.mem_cons_of_mem x hy)
      rw [List.foldl_cons, ih _ hr]
      by_cases hfx : f x = true
      · by_cases hk : k = x
        · subst hk; simp [hfx, hx]
        · have : ((1#32 <<< x).getLsbD k) = false := by
            simp only [BitVec.getLsbD_shiftLeft, BitVec.getLsbD_one]
            by_cases h1 : k < x
            · simp [h1]
            · have : k - x ≠ 0 := by omega
              simp [this]
          simp [hfx, hk, this]
      · simp only [hfx, Bool.false_eq_true, if_false]
        by_cases hk : k = x
        · subst hk; simp [hfx]
        · simp [hk]
  unfold maskOf
  rw [key allLanes 0#32 (fun x hx => mem_allLanes.mp hx) l]
  simp [mem_allLanes]

theorem codeMask_eq_zero {f : Nat → Option Nat} (h : ∀ l < 32, f l = none) : maskOf (fun l => (f l).isSome) = 0#32 := by
  apply BitVec.eq_of_getLsbD_eq
  intro i hi
  simp [getLsbD_maskOf, h i hi]

theorem lanesOf_zero : lanesOf 0#32 = [] := by decide

/-! ## Memory -/

/-- A read of the byte just written gives it. -/
theorem memGet_memPut_same (m : List Host.Cell) (a : Nat) (b : Byte) (h : Memory.wf m = true) :
    memGet (memPut m a b) a = b := by
  induction m with
  | nil => simp only [memPut]; split <;> simp_all [memGet]
  | cons e r ih =>
    obtain ⟨k, v⟩ := e
    have hr : Memory.wf r = true := by cases r <;> simp_all [Memory.wf]
    simp only [memPut]
    split
    · rename_i h1
      split
      · rename_i hb; simp [memGet, h1, hb, Nat.ne_of_lt h1]
      · simp [memGet]
    · split
      · rename_i h1 h2
        subst h2
        split
        · rename_i hb
          cases r with
          | nil => simp [memGet, hb]
          | cons f r =>
            obtain ⟨k', v'⟩ := f
            have : a < k' := by simp [Memory.wf] at h; exact h.1.2
            simp [memGet, hb, this, Nat.ne_of_lt this]
        · simp [memGet]
      · rename_i h1 h2
        simp [memGet, h1, h2, ih hr]

/-- A write leaves every other byte alone. -/
theorem memGet_memPut_other (m : List Host.Cell) (a x : Nat) (b : Byte) (hx : x ≠ a) (h : Memory.wf m = true) :
    memGet (memPut m a b) x = memGet m x := by
  induction m with
  | nil => simp only [memPut]; split <;> simp [memGet, hx]
  | cons e r ih =>
    obtain ⟨k, v⟩ := e
    have hr : Memory.wf r = true := by cases r <;> simp_all [Memory.wf]
    simp only [memPut]
    split
    · rename_i h1
      split
      · rfl
      · simp only [memGet, hx, if_false]
        split
        · have : x < k := by omega
          simp [this, Nat.ne_of_lt this]
        · rfl
    · split
      · rename_i h1 h2
        subst h2
        split
        · cases r with
          | nil => simp [memGet, hx]
          | cons f r =>
            obtain ⟨k', v'⟩ := f
            have hlt : a < k' := by simp [Memory.wf] at h; exact h.1.2
            simp only [memGet, hx, if_false]
            by_cases h3 : x < a
            · simp [h3, show x < k' by omega, show x ≠ k' by omega]
            · simp [h3]
        · simp [memGet, hx]
      · simp only [memGet, ih hr]

/-- The canonical form of a list with a first entry. -/
theorem wf_cons {k : Nat} {v : Byte} {r : List Host.Cell} :
    Memory.wf ((k, v) :: r) = true ↔ v ≠ 0#8 ∧ (∀ e ∈ r, k < e.1) ∧ Memory.wf r = true := by
  induction r generalizing k v with
  | nil => simp [Memory.wf]
  | cons e r ih =>
    obtain ⟨k', v'⟩ := e
    simp only [Memory.wf, Bool.and_eq_true, bne_iff_ne, decide_eq_true_eq, List.mem_cons, forall_eq_or_imp]
    constructor
    · rintro ⟨⟨h1, h2⟩, h3⟩
      exact ⟨h1, ⟨h2, fun e he => Nat.lt_trans h2 ((ih.mp h3).2.1 e he)⟩, h3⟩
    · rintro ⟨h1, ⟨h2, _⟩, h3⟩
      exact ⟨⟨h1, h2⟩, h3⟩

/-- Every address of a memory after a write was there before or is the one written. -/
theorem mem_memPut {m : List Host.Cell} {a : Nat} {b : Byte} {e : Host.Cell} (h : e ∈ memPut m a b) :
    e ∈ m ∨ e = (a, b) := by
  induction m with
  | nil => simp only [memPut] at h; split at h <;> simp_all
  | cons f r ih =>
    obtain ⟨k, v⟩ := f
    simp only [memPut] at h
    split at h
    · split at h
      · exact .inl h
      · rcases List.mem_cons.mp h with h | h
        · exact .inr h
        · exact .inl h
    · split at h
      · split at h
        · exact .inl (List.mem_cons_of_mem _ h)
        · rcases List.mem_cons.mp h with h | h
          · exact .inr h
          · exact .inl (List.mem_cons_of_mem _ h)
      · rcases List.mem_cons.mp h with h | h
        · subst h; exact .inl (by simp)
        · rcases ih h with h | h
          · exact .inl (List.mem_cons_of_mem _ h)
          · exact .inr h

/-- A write keeps the canonical form. -/
theorem memPut_wf (m : List Host.Cell) (a : Nat) (b : Byte) (h : Memory.wf m = true) : Memory.wf (memPut m a b) = true := by
  induction m with
  | nil => simp only [memPut]; split <;> simp_all [Memory.wf]
  | cons e r ih =>
    obtain ⟨k, v⟩ := e
    have hw := wf_cons.mp h
    simp only [memPut]
    split
    · rename_i h1
      split
      · exact h
      · rename_i hb
        refine wf_cons.mpr ⟨hb, ?_, h⟩
        intro e he
        rcases List.mem_cons.mp he with he | he
        · subst he; exact h1
        · exact Nat.lt_trans h1 (hw.2.1 e he)
    · split
      · rename_i h1 h2
        subst h2
        split
        · exact hw.2.2
        · rename_i hb; exact wf_cons.mpr ⟨hb, hw.2.1, hw.2.2⟩
      · rename_i h1 h2
        refine wf_cons.mpr ⟨hw.1, ?_, ih hw.2.2⟩
        intro e he
        rcases mem_memPut he with he | he
        · exact hw.2.1 e he
        · subst he; change k < a; omega

/-- A write of bytes keeps the canonical form. -/
theorem memPutL_wf (bs : List Byte) (m : List Host.Cell) (a : Nat) (h : Memory.wf m = true) :
    Memory.wf (memPutL m a bs) = true := by
  induction bs generalizing m a with
  | nil => exact h
  | cons b r ih => exact ih _ _ (memPut_wf m a b h)

theorem filter_wf (p : Host.Cell → Bool) (m : List Host.Cell) (h : Memory.wf m = true) : Memory.wf (m.filter p) = true := by
  induction m with
  | nil => rfl
  | cons e r ih =>
    obtain ⟨k, v⟩ := e
    have hw := wf_cons.mp h
    rw [List.filter_cons]
    split
    · exact wf_cons.mpr ⟨hw.1, fun e he => hw.2.1 e (List.mem_filter.mp he).1, ih hw.2.2⟩
    · exact ih hw.2.2

/-- A clearing of a range keeps the canonical form. -/
theorem memClear_wf (m : List Host.Cell) (lo hi : Nat) (h : Memory.wf m = true) : Memory.wf (memClear m lo hi) = true :=
  filter_wf _ m h

/-- A byte after a write of several: the one written there, or the one before. -/
theorem memGet_memPutL (bs : List Byte) (m : List Host.Cell) (a x : Nat) (h : Memory.wf m = true) :
    memGet (memPutL m a bs) x = if a ≤ x ∧ x < a + bs.length then bs.getD (x - a) 0#8 else memGet m x := by
  induction bs generalizing m a with
  | nil => simp only [memPutL, List.length_nil]; rw [if_neg (by omega)]
  | cons b r ih =>
    rw [memPutL, ih _ _ (memPut_wf m a b h)]
    by_cases hx : x = a
    · subst hx
      rw [if_neg (by omega), memGet_memPut_same m x b h]
      simp
    · rw [memGet_memPut_other m a x b hx h]
      by_cases h1 : a + 1 ≤ x ∧ x < a + 1 + r.length
      · rw [if_pos h1, if_pos (by simp only [List.length_cons]; omega)]
        have : x - a = (x - (a + 1)) + 1 := by omega
        rw [this]; simp
      · rw [if_neg h1, if_neg (by simp only [List.length_cons]; omega)]

/-- A number written and read back. -/
theorem ofBytesLE_bytesLE (n x : Nat) : ofBytesLE (bytesLE n x) = x % 256 ^ n := by
  induction n generalizing x with
  | zero => simp [bytesLE, ofBytesLE, Nat.mod_one]
  | succ n ih =>
    simp only [bytesLE, ofBytesLE, ih, BitVec.toNat_ofNat]
    have h : 256 ^ (n + 1) = 256 * 256 ^ n := by rw [Nat.pow_succ, Nat.mul_comm]
    rw [h, Nat.mod_mul]

@[simp] theorem length_bytesLE (n x : Nat) : (bytesLE n x).length = n := by
  induction n generalizing x with
  | zero => rfl
  | succ n ih => simp [bytesLE, ih]

@[simp] theorem length_memGetL (m : List Host.Cell) (a n : Nat) : (memGetL m a n).length = n := by
  induction n generalizing a with
  | zero => rfl
  | succ n ih => simp [memGetL, ih]

/-- Bytes written read back. -/
theorem memGetL_memPutL (bs : List Byte) (m : List Host.Cell) (a : Nat) (h : Memory.wf m = true) :
    memGetL (memPutL m a bs) a bs.length = bs := by
  have key : ∀ (n : Nat) (mm : List Host.Cell) (a : Nat), memGetL mm a n = (List.range n).map (fun i => memGet mm (a + i)) := by
    intro n
    induction n with
    | zero => intro mm a; rfl
    | succ n ih =>
      intro mm a
      rw [memGetL, ih, List.range_succ_eq_map, List.map_cons, List.map_map]
      simp only [Nat.add_zero, List.cons.injEq, true_and]
      apply List.map_congr_left
      intro i _
      simp only [Function.comp, Nat.add_assoc, Nat.add_comm 1 i, Nat.succ_eq_add_one]
  rw [key]
  apply List.ext_getElem
  · simp
  · intro i h1 h2
    simp only [List.getElem_map, List.getElem_range]
    rw [memGet_memPutL bs m a _ h, if_pos (by omega)]
    have : a + i - a = i := by omega
    rw [this, List.getD_eq_getElem _ _ h2]

end Sys2Proof.Machine
end

