-- ==== Sys2Proof/Laws/State.lean ====
section
/-! SUPPORT. What each small update of the state changes and what it leaves: one lemma per field per update. -/

namespace Sys2Proof.Machine

/-! ## setMM -/

@[simp] theorem State.setMM_groups (s : State) (m : MemSys) : (s.setMM m).groups = s.groups := rfl
@[simp] theorem State.setMM_wgs (s : State) (m : MemSys) : (s.setMM m).wgs = s.wgs := rfl
@[simp] theorem State.setMM_gangs (s : State) (m : MemSys) : (s.setMM m).gangs = s.gangs := rfl
@[simp] theorem State.setMM_launches (s : State) (m : MemSys) : (s.setMM m).launches = s.launches := rfl
@[simp] theorem State.setMM_saved (s : State) (m : MemSys) : (s.setMM m).saved = s.saved := rfl
@[simp] theorem State.setMM_lastPos (s : State) (m : MemSys) : (s.setMM m).lastPos = s.lastPos := rfl
@[simp] theorem State.setMM_engPos (s : State) (m : MemSys) : (s.setMM m).engPos = s.engPos := rfl
@[simp] theorem State.setMM_stops (s : State) (m : MemSys) : (s.setMM m).stops = s.stops := rfl
@[simp] theorem State.setMM_mm (s : State) (m : MemSys) : (s.setMM m).mm = m := rfl
@[simp] theorem State.setMM_kul (s : State) (m : MemSys) : (s.setMM m).kul = s.kul := rfl
@[simp] theorem State.setMM_boot (s : State) (m : MemSys) : (s.setMM m).boot = s.boot := rfl
@[simp] theorem State.setMM_rel (s : State) (m : MemSys) : (s.setMM m).rel = s.rel := rfl
@[simp] theorem State.setMM_peal (s : State) (m : MemSys) : (s.setMM m).peal = s.peal := rfl
@[simp] theorem State.setMM_links (s : State) (m : MemSys) : (s.setMM m).links = s.links := rfl
@[simp] theorem State.setMM_power (s : State) (m : MemSys) : (s.setMM m).power = s.power := rfl
@[simp] theorem State.setMM_regs (s : State) (m : MemSys) : (s.setMM m).regs = s.regs := rfl
@[simp] theorem State.setMM_time (s : State) (m : MemSys) : (s.setMM m).time = s.time := rfl
@[simp] theorem State.setMM_clk (s : State) (m : MemSys) : (s.setMM m).clk = s.clk := rfl
@[simp] theorem State.setMM_skips (s : State) (m : MemSys) : (s.setMM m).skips = s.skips := rfl
@[simp] theorem State.setMM_nextId (s : State) (m : MemSys) : (s.setMM m).nextId = s.nextId := rfl
@[simp] theorem State.setMM_focus (s : State) (m : MemSys) : (s.setMM m).focus = s.focus := rfl
@[simp] theorem State.setMM_agenda (s : State) (m : MemSys) : (s.setMM m).agenda = s.agenda := rfl
@[simp] theorem State.setMM_draws (s : State) (m : MemSys) : (s.setMM m).draws = s.draws := rfl

/-! ## putBytes -/

@[simp] theorem State.putBytes_groups (s : State) (pa : Nat) (bs : List Byte) : (s.putBytes pa bs).groups = s.groups := rfl
@[simp] theorem State.putBytes_wgs (s : State) (pa : Nat) (bs : List Byte) : (s.putBytes pa bs).wgs = s.wgs := rfl
@[simp] theorem State.putBytes_gangs (s : State) (pa : Nat) (bs : List Byte) : (s.putBytes pa bs).gangs = s.gangs := rfl
@[simp] theorem State.putBytes_launches (s : State) (pa : Nat) (bs : List Byte) : (s.putBytes pa bs).launches = s.launches := rfl
@[simp] theorem State.putBytes_saved (s : State) (pa : Nat) (bs : List Byte) : (s.putBytes pa bs).saved = s.saved := rfl
@[simp] theorem State.putBytes_lastPos (s : State) (pa : Nat) (bs : List Byte) : (s.putBytes pa bs).lastPos = s.lastPos := rfl
@[simp] theorem State.putBytes_engPos (s : State) (pa : Nat) (bs : List Byte) : (s.putBytes pa bs).engPos = s.engPos := rfl
@[simp] theorem State.putBytes_stops (s : State) (pa : Nat) (bs : List Byte) : (s.putBytes pa bs).stops = s.stops := rfl
@[simp] theorem State.putBytes_mm (s : State) (pa : Nat) (bs : List Byte) : (s.putBytes pa bs).mm = { s.mm with
      bytes := memPutL s.mm.bytes pa bs
      olds := changedWords s.mm.bytes (memPutL s.mm.bytes pa bs) pa bs.length ++ s.mm.olds } := rfl
@[simp] theorem State.putBytes_kul (s : State) (pa : Nat) (bs : List Byte) : (s.putBytes pa bs).kul = s.kul := rfl
@[simp] theorem State.putBytes_boot (s : State) (pa : Nat) (bs : List Byte) : (s.putBytes pa bs).boot = s.boot := rfl
@[simp] theorem State.putBytes_rel (s : State) (pa : Nat) (bs : List Byte) : (s.putBytes pa bs).rel = s.rel := rfl
@[simp] theorem State.putBytes_peal (s : State) (pa : Nat) (bs : List Byte) : (s.putBytes pa bs).peal = s.peal := rfl
@[simp] theorem State.putBytes_links (s : State) (pa : Nat) (bs : List Byte) : (s.putBytes pa bs).links = s.links := rfl
@[simp] theorem State.putBytes_power (s : State) (pa : Nat) (bs : List Byte) : (s.putBytes pa bs).power = s.power := rfl
@[simp] theorem State.putBytes_regs (s : State) (pa : Nat) (bs : List Byte) : (s.putBytes pa bs).regs = s.regs := rfl
@[simp] theorem State.putBytes_time (s : State) (pa : Nat) (bs : List Byte) : (s.putBytes pa bs).time = s.time := rfl
@[simp] theorem State.putBytes_clk (s : State) (pa : Nat) (bs : List Byte) : (s.putBytes pa bs).clk = s.clk := rfl
@[simp] theorem State.putBytes_skips (s : State) (pa : Nat) (bs : List Byte) : (s.putBytes pa bs).skips = s.skips := rfl
@[simp] theorem State.putBytes_nextId (s : State) (pa : Nat) (bs : List Byte) : (s.putBytes pa bs).nextId = s.nextId := rfl
@[simp] theorem State.putBytes_focus (s : State) (pa : Nat) (bs : List Byte) : (s.putBytes pa bs).focus = s.focus := rfl
@[simp] theorem State.putBytes_agenda (s : State) (pa : Nat) (bs : List Byte) : (s.putBytes pa bs).agenda = s.agenda := rfl
@[simp] theorem State.putBytes_draws (s : State) (pa : Nat) (bs : List Byte) : (s.putBytes pa bs).draws = s.draws := rfl

/-! ## updGroup -/

@[simp] theorem State.updGroup_groups (s : State) (k : Nat) (f : Group → Group) : (s.updGroup k f).groups = mupd s.groups k f := rfl
@[simp] theorem State.updGroup_wgs (s : State) (k : Nat) (f : Group → Group) : (s.updGroup k f).wgs = s.wgs := rfl
@[simp] theorem State.updGroup_gangs (s : State) (k : Nat) (f : Group → Group) : (s.updGroup k f).gangs = s.gangs := rfl
@[simp] theorem State.updGroup_launches (s : State) (k : Nat) (f : Group → Group) : (s.updGroup k f).launches = s.launches := rfl
@[simp] theorem State.updGroup_saved (s : State) (k : Nat) (f : Group → Group) : (s.updGroup k f).saved = s.saved := rfl
@[simp] theorem State.updGroup_lastPos (s : State) (k : Nat) (f : Group → Group) : (s.updGroup k f).lastPos = s.lastPos := rfl
@[simp] theorem State.updGroup_engPos (s : State) (k : Nat) (f : Group → Group) : (s.updGroup k f).engPos = s.engPos := rfl
@[simp] theorem State.updGroup_stops (s : State) (k : Nat) (f : Group → Group) : (s.updGroup k f).stops = s.stops := rfl
@[simp] theorem State.updGroup_mm (s : State) (k : Nat) (f : Group → Group) : (s.updGroup k f).mm = s.mm := rfl
@[simp] theorem State.updGroup_kul (s : State) (k : Nat) (f : Group → Group) : (s.updGroup k f).kul = s.kul := rfl
@[simp] theorem State.updGroup_boot (s : State) (k : Nat) (f : Group → Group) : (s.updGroup k f).boot = s.boot := rfl
@[simp] theorem State.updGroup_rel (s : State) (k : Nat) (f : Group → Group) : (s.updGroup k f).rel = s.rel := rfl
@[simp] theorem State.updGroup_peal (s : State) (k : Nat) (f : Group → Group) : (s.updGroup k f).peal = s.peal := rfl
@[simp] theorem State.updGroup_links (s : State) (k : Nat) (f : Group → Group) : (s.updGroup k f).links = s.links := rfl
@[simp] theorem State.updGroup_power (s : State) (k : Nat) (f : Group → Group) : (s.updGroup k f).power = s.power := rfl
@[simp] theorem State.updGroup_regs (s : State) (k : Nat) (f : Group → Group) : (s.updGroup k f).regs = s.regs := rfl
@[simp] theorem State.updGroup_time (s : State) (k : Nat) (f : Group → Group) : (s.updGroup k f).time = s.time := rfl
@[simp] theorem State.updGroup_clk (s : State) (k : Nat) (f : Group → Group) : (s.updGroup k f).clk = s.clk := rfl
@[simp] theorem State.updGroup_skips (s : State) (k : Nat) (f : Group → Group) : (s.updGroup k f).skips = s.skips := rfl
@[simp] theorem State.updGroup_nextId (s : State) (k : Nat) (f : Group → Group) : (s.updGroup k f).nextId = s.nextId := rfl
@[simp] theorem State.updGroup_focus (s : State) (k : Nat) (f : Group → Group) : (s.updGroup k f).focus = s.focus := rfl
@[simp] theorem State.updGroup_agenda (s : State) (k : Nat) (f : Group → Group) : (s.updGroup k f).agenda = s.agenda := rfl
@[simp] theorem State.updGroup_draws (s : State) (k : Nat) (f : Group → Group) : (s.updGroup k f).draws = s.draws := rfl

/-! ## updWg -/

@[simp] theorem State.updWg_groups (s : State) (k : Nat) (f : Wg → Wg) : (s.updWg k f).groups = s.groups := rfl
@[simp] theorem State.updWg_wgs (s : State) (k : Nat) (f : Wg → Wg) : (s.updWg k f).wgs = mupd s.wgs k f := rfl
@[simp] theorem State.updWg_gangs (s : State) (k : Nat) (f : Wg → Wg) : (s.updWg k f).gangs = s.gangs := rfl
@[simp] theorem State.updWg_launches (s : State) (k : Nat) (f : Wg → Wg) : (s.updWg k f).launches = s.launches := rfl
@[simp] theorem State.updWg_saved (s : State) (k : Nat) (f : Wg → Wg) : (s.updWg k f).saved = s.saved := rfl
@[simp] theorem State.updWg_lastPos (s : State) (k : Nat) (f : Wg → Wg) : (s.updWg k f).lastPos = s.lastPos := rfl
@[simp] theorem State.updWg_engPos (s : State) (k : Nat) (f : Wg → Wg) : (s.updWg k f).engPos = s.engPos := rfl
@[simp] theorem State.updWg_stops (s : State) (k : Nat) (f : Wg → Wg) : (s.updWg k f).stops = s.stops := rfl
@[simp] theorem State.updWg_mm (s : State) (k : Nat) (f : Wg → Wg) : (s.updWg k f).mm = s.mm := rfl
@[simp] theorem State.updWg_kul (s : State) (k : Nat) (f : Wg → Wg) : (s.updWg k f).kul = s.kul := rfl
@[simp] theorem State.updWg_boot (s : State) (k : Nat) (f : Wg → Wg) : (s.updWg k f).boot = s.boot := rfl
@[simp] theorem State.updWg_rel (s : State) (k : Nat) (f : Wg → Wg) : (s.updWg k f).rel = s.rel := rfl
@[simp] theorem State.updWg_peal (s : State) (k : Nat) (f : Wg → Wg) : (s.updWg k f).peal = s.peal := rfl
@[simp] theorem State.updWg_links (s : State) (k : Nat) (f : Wg → Wg) : (s.updWg k f).links = s.links := rfl
@[simp] theorem State.updWg_power (s : State) (k : Nat) (f : Wg → Wg) : (s.updWg k f).power = s.power := rfl
@[simp] theorem State.updWg_regs (s : State) (k : Nat) (f : Wg → Wg) : (s.updWg k f).regs = s.regs := rfl
@[simp] theorem State.updWg_time (s : State) (k : Nat) (f : Wg → Wg) : (s.updWg k f).time = s.time := rfl
@[simp] theorem State.updWg_clk (s : State) (k : Nat) (f : Wg → Wg) : (s.updWg k f).clk = s.clk := rfl
@[simp] theorem State.updWg_skips (s : State) (k : Nat) (f : Wg → Wg) : (s.updWg k f).skips = s.skips := rfl
@[simp] theorem State.updWg_nextId (s : State) (k : Nat) (f : Wg → Wg) : (s.updWg k f).nextId = s.nextId := rfl
@[simp] theorem State.updWg_focus (s : State) (k : Nat) (f : Wg → Wg) : (s.updWg k f).focus = s.focus := rfl
@[simp] theorem State.updWg_agenda (s : State) (k : Nat) (f : Wg → Wg) : (s.updWg k f).agenda = s.agenda := rfl
@[simp] theorem State.updWg_draws (s : State) (k : Nat) (f : Wg → Wg) : (s.updWg k f).draws = s.draws := rfl

/-! ## updGang -/

@[simp] theorem State.updGang_groups (s : State) (k : Nat) (f : Gang → Gang) : (s.updGang k f).groups = s.groups := rfl
@[simp] theorem State.updGang_wgs (s : State) (k : Nat) (f : Gang → Gang) : (s.updGang k f).wgs = s.wgs := rfl
@[simp] theorem State.updGang_gangs (s : State) (k : Nat) (f : Gang → Gang) : (s.updGang k f).gangs = mupd s.gangs k f := rfl
@[simp] theorem State.updGang_launches (s : State) (k : Nat) (f : Gang → Gang) : (s.updGang k f).launches = s.launches := rfl
@[simp] theorem State.updGang_saved (s : State) (k : Nat) (f : Gang → Gang) : (s.updGang k f).saved = s.saved := rfl
@[simp] theorem State.updGang_lastPos (s : State) (k : Nat) (f : Gang → Gang) : (s.updGang k f).lastPos = s.lastPos := rfl
@[simp] theorem State.updGang_engPos (s : State) (k : Nat) (f : Gang → Gang) : (s.updGang k f).engPos = s.engPos := rfl
@[simp] theorem State.updGang_stops (s : State) (k : Nat) (f : Gang → Gang) : (s.updGang k f).stops = s.stops := rfl
@[simp] theorem State.updGang_mm (s : State) (k : Nat) (f : Gang → Gang) : (s.updGang k f).mm = s.mm := rfl
@[simp] theorem State.updGang_kul (s : State) (k : Nat) (f : Gang → Gang) : (s.updGang k f).kul = s.kul := rfl
@[simp] theorem State.updGang_boot (s : State) (k : Nat) (f : Gang → Gang) : (s.updGang k f).boot = s.boot := rfl
@[simp] theorem State.updGang_rel (s : State) (k : Nat) (f : Gang → Gang) : (s.updGang k f).rel = s.rel := rfl
@[simp] theorem State.updGang_peal (s : State) (k : Nat) (f : Gang → Gang) : (s.updGang k f).peal = s.peal := rfl
@[simp] theorem State.updGang_links (s : State) (k : Nat) (f : Gang → Gang) : (s.updGang k f).links = s.links := rfl
@[simp] theorem State.updGang_power (s : State) (k : Nat) (f : Gang → Gang) : (s.updGang k f).power = s.power := rfl
@[simp] theorem State.updGang_regs (s : State) (k : Nat) (f : Gang → Gang) : (s.updGang k f).regs = s.regs := rfl
@[simp] theorem State.updGang_time (s : State) (k : Nat) (f : Gang → Gang) : (s.updGang k f).time = s.time := rfl
@[simp] theorem State.updGang_clk (s : State) (k : Nat) (f : Gang → Gang) : (s.updGang k f).clk = s.clk := rfl
@[simp] theorem State.updGang_skips (s : State) (k : Nat) (f : Gang → Gang) : (s.updGang k f).skips = s.skips := rfl
@[simp] theorem State.updGang_nextId (s : State) (k : Nat) (f : Gang → Gang) : (s.updGang k f).nextId = s.nextId := rfl
@[simp] theorem State.updGang_focus (s : State) (k : Nat) (f : Gang → Gang) : (s.updGang k f).focus = s.focus := rfl
@[simp] theorem State.updGang_agenda (s : State) (k : Nat) (f : Gang → Gang) : (s.updGang k f).agenda = s.agenda := rfl
@[simp] theorem State.updGang_draws (s : State) (k : Nat) (f : Gang → Gang) : (s.updGang k f).draws = s.draws := rfl

/-! ## updLaunch -/

@[simp] theorem State.updLaunch_groups (s : State) (k : Nat) (f : Launch → Launch) : (s.updLaunch k f).groups = s.groups := rfl
@[simp] theorem State.updLaunch_wgs (s : State) (k : Nat) (f : Launch → Launch) : (s.updLaunch k f).wgs = s.wgs := rfl
@[simp] theorem State.updLaunch_gangs (s : State) (k : Nat) (f : Launch → Launch) : (s.updLaunch k f).gangs = s.gangs := rfl
@[simp] theorem State.updLaunch_launches (s : State) (k : Nat) (f : Launch → Launch) : (s.updLaunch k f).launches = mupd s.launches k f := rfl
@[simp] theorem State.updLaunch_saved (s : State) (k : Nat) (f : Launch → Launch) : (s.updLaunch k f).saved = s.saved := rfl
@[simp] theorem State.updLaunch_lastPos (s : State) (k : Nat) (f : Launch → Launch) : (s.updLaunch k f).lastPos = s.lastPos := rfl
@[simp] theorem State.updLaunch_engPos (s : State) (k : Nat) (f : Launch → Launch) : (s.updLaunch k f).engPos = s.engPos := rfl
@[simp] theorem State.updLaunch_stops (s : State) (k : Nat) (f : Launch → Launch) : (s.updLaunch k f).stops = s.stops := rfl
@[simp] theorem State.updLaunch_mm (s : State) (k : Nat) (f : Launch → Launch) : (s.updLaunch k f).mm = s.mm := rfl
@[simp] theorem State.updLaunch_kul (s : State) (k : Nat) (f : Launch → Launch) : (s.updLaunch k f).kul = s.kul := rfl
@[simp] theorem State.updLaunch_boot (s : State) (k : Nat) (f : Launch → Launch) : (s.updLaunch k f).boot = s.boot := rfl
@[simp] theorem State.updLaunch_rel (s : State) (k : Nat) (f : Launch → Launch) : (s.updLaunch k f).rel = s.rel := rfl
@[simp] theorem State.updLaunch_peal (s : State) (k : Nat) (f : Launch → Launch) : (s.updLaunch k f).peal = s.peal := rfl
@[simp] theorem State.updLaunch_links (s : State) (k : Nat) (f : Launch → Launch) : (s.updLaunch k f).links = s.links := rfl
@[simp] theorem State.updLaunch_power (s : State) (k : Nat) (f : Launch → Launch) : (s.updLaunch k f).power = s.power := rfl
@[simp] theorem State.updLaunch_regs (s : State) (k : Nat) (f : Launch → Launch) : (s.updLaunch k f).regs = s.regs := rfl
@[simp] theorem State.updLaunch_time (s : State) (k : Nat) (f : Launch → Launch) : (s.updLaunch k f).time = s.time := rfl
@[simp] theorem State.updLaunch_clk (s : State) (k : Nat) (f : Launch → Launch) : (s.updLaunch k f).clk = s.clk := rfl
@[simp] theorem State.updLaunch_skips (s : State) (k : Nat) (f : Launch → Launch) : (s.updLaunch k f).skips = s.skips := rfl
@[simp] theorem State.updLaunch_nextId (s : State) (k : Nat) (f : Launch → Launch) : (s.updLaunch k f).nextId = s.nextId := rfl
@[simp] theorem State.updLaunch_focus (s : State) (k : Nat) (f : Launch → Launch) : (s.updLaunch k f).focus = s.focus := rfl
@[simp] theorem State.updLaunch_agenda (s : State) (k : Nat) (f : Launch → Launch) : (s.updLaunch k f).agenda = s.agenda := rfl
@[simp] theorem State.updLaunch_draws (s : State) (k : Nat) (f : Launch → Launch) : (s.updLaunch k f).draws = s.draws := rfl

/-! ## setReg -/

@[simp] theorem State.setReg_groups (s : State) (n : Nat) (v : BitVec 64) : (s.setReg n v).groups = s.groups := rfl
@[simp] theorem State.setReg_wgs (s : State) (n : Nat) (v : BitVec 64) : (s.setReg n v).wgs = s.wgs := rfl
@[simp] theorem State.setReg_gangs (s : State) (n : Nat) (v : BitVec 64) : (s.setReg n v).gangs = s.gangs := rfl
@[simp] theorem State.setReg_launches (s : State) (n : Nat) (v : BitVec 64) : (s.setReg n v).launches = s.launches := rfl
@[simp] theorem State.setReg_saved (s : State) (n : Nat) (v : BitVec 64) : (s.setReg n v).saved = s.saved := rfl
@[simp] theorem State.setReg_lastPos (s : State) (n : Nat) (v : BitVec 64) : (s.setReg n v).lastPos = s.lastPos := rfl
@[simp] theorem State.setReg_engPos (s : State) (n : Nat) (v : BitVec 64) : (s.setReg n v).engPos = s.engPos := rfl
@[simp] theorem State.setReg_stops (s : State) (n : Nat) (v : BitVec 64) : (s.setReg n v).stops = s.stops := rfl
@[simp] theorem State.setReg_mm (s : State) (n : Nat) (v : BitVec 64) : (s.setReg n v).mm = s.mm := rfl
@[simp] theorem State.setReg_kul (s : State) (n : Nat) (v : BitVec 64) : (s.setReg n v).kul = s.kul := rfl
@[simp] theorem State.setReg_boot (s : State) (n : Nat) (v : BitVec 64) : (s.setReg n v).boot = s.boot := rfl
@[simp] theorem State.setReg_rel (s : State) (n : Nat) (v : BitVec 64) : (s.setReg n v).rel = s.rel := rfl
@[simp] theorem State.setReg_peal (s : State) (n : Nat) (v : BitVec 64) : (s.setReg n v).peal = s.peal := rfl
@[simp] theorem State.setReg_links (s : State) (n : Nat) (v : BitVec 64) : (s.setReg n v).links = s.links := rfl
@[simp] theorem State.setReg_power (s : State) (n : Nat) (v : BitVec 64) : (s.setReg n v).power = s.power := rfl
@[simp] theorem State.setReg_regs (s : State) (n : Nat) (v : BitVec 64) : (s.setReg n v).regs = mput s.regs n v := rfl
@[simp] theorem State.setReg_time (s : State) (n : Nat) (v : BitVec 64) : (s.setReg n v).time = s.time := rfl
@[simp] theorem State.setReg_clk (s : State) (n : Nat) (v : BitVec 64) : (s.setReg n v).clk = s.clk := rfl
@[simp] theorem State.setReg_skips (s : State) (n : Nat) (v : BitVec 64) : (s.setReg n v).skips = s.skips := rfl
@[simp] theorem State.setReg_nextId (s : State) (n : Nat) (v : BitVec 64) : (s.setReg n v).nextId = s.nextId := rfl
@[simp] theorem State.setReg_focus (s : State) (n : Nat) (v : BitVec 64) : (s.setReg n v).focus = s.focus := rfl
@[simp] theorem State.setReg_agenda (s : State) (n : Nat) (v : BitVec 64) : (s.setReg n v).agenda = s.agenda := rfl
@[simp] theorem State.setReg_draws (s : State) (n : Nat) (v : BitVec 64) : (s.setReg n v).draws = s.draws := rfl

/-! ## setFld -/

@[simp] theorem State.setFld_groups (s : State) (n hi lo x : Nat) : (s.setFld n hi lo x).groups = s.groups := rfl
@[simp] theorem State.setFld_wgs (s : State) (n hi lo x : Nat) : (s.setFld n hi lo x).wgs = s.wgs := rfl
@[simp] theorem State.setFld_gangs (s : State) (n hi lo x : Nat) : (s.setFld n hi lo x).gangs = s.gangs := rfl
@[simp] theorem State.setFld_launches (s : State) (n hi lo x : Nat) : (s.setFld n hi lo x).launches = s.launches := rfl
@[simp] theorem State.setFld_saved (s : State) (n hi lo x : Nat) : (s.setFld n hi lo x).saved = s.saved := rfl
@[simp] theorem State.setFld_lastPos (s : State) (n hi lo x : Nat) : (s.setFld n hi lo x).lastPos = s.lastPos := rfl
@[simp] theorem State.setFld_engPos (s : State) (n hi lo x : Nat) : (s.setFld n hi lo x).engPos = s.engPos := rfl
@[simp] theorem State.setFld_stops (s : State) (n hi lo x : Nat) : (s.setFld n hi lo x).stops = s.stops := rfl
@[simp] theorem State.setFld_mm (s : State) (n hi lo x : Nat) : (s.setFld n hi lo x).mm = s.mm := rfl
@[simp] theorem State.setFld_kul (s : State) (n hi lo x : Nat) : (s.setFld n hi lo x).kul = s.kul := rfl
@[simp] theorem State.setFld_boot (s : State) (n hi lo x : Nat) : (s.setFld n hi lo x).boot = s.boot := rfl
@[simp] theorem State.setFld_rel (s : State) (n hi lo x : Nat) : (s.setFld n hi lo x).rel = s.rel := rfl
@[simp] theorem State.setFld_peal (s : State) (n hi lo x : Nat) : (s.setFld n hi lo x).peal = s.peal := rfl
@[simp] theorem State.setFld_links (s : State) (n hi lo x : Nat) : (s.setFld n hi lo x).links = s.links := rfl
@[simp] theorem State.setFld_power (s : State) (n hi lo x : Nat) : (s.setFld n hi lo x).power = s.power := rfl
@[simp] theorem State.setFld_regs (s : State) (n hi lo x : Nat) : (s.setFld n hi lo x).regs = mput s.regs n (setBits (s.reg n) hi lo x) := rfl
@[simp] theorem State.setFld_time (s : State) (n hi lo x : Nat) : (s.setFld n hi lo x).time = s.time := rfl
@[simp] theorem State.setFld_clk (s : State) (n hi lo x : Nat) : (s.setFld n hi lo x).clk = s.clk := rfl
@[simp] theorem State.setFld_skips (s : State) (n hi lo x : Nat) : (s.setFld n hi lo x).skips = s.skips := rfl
@[simp] theorem State.setFld_nextId (s : State) (n hi lo x : Nat) : (s.setFld n hi lo x).nextId = s.nextId := rfl
@[simp] theorem State.setFld_focus (s : State) (n hi lo x : Nat) : (s.setFld n hi lo x).focus = s.focus := rfl
@[simp] theorem State.setFld_agenda (s : State) (n hi lo x : Nat) : (s.setFld n hi lo x).agenda = s.agenda := rfl
@[simp] theorem State.setFld_draws (s : State) (n hi lo x : Nat) : (s.setFld n hi lo x).draws = s.draws := rfl

/-! ## draw -/

@[simp] theorem State.draw_groups (s : State) (n : Nat) : (s.draw n).groups = s.groups := rfl
@[simp] theorem State.draw_wgs (s : State) (n : Nat) : (s.draw n).wgs = s.wgs := rfl
@[simp] theorem State.draw_gangs (s : State) (n : Nat) : (s.draw n).gangs = s.gangs := rfl
@[simp] theorem State.draw_launches (s : State) (n : Nat) : (s.draw n).launches = s.launches := rfl
@[simp] theorem State.draw_saved (s : State) (n : Nat) : (s.draw n).saved = s.saved := rfl
@[simp] theorem State.draw_lastPos (s : State) (n : Nat) : (s.draw n).lastPos = s.lastPos := rfl
@[simp] theorem State.draw_engPos (s : State) (n : Nat) : (s.draw n).engPos = s.engPos := rfl
@[simp] theorem State.draw_stops (s : State) (n : Nat) : (s.draw n).stops = s.stops := rfl
@[simp] theorem State.draw_mm (s : State) (n : Nat) : (s.draw n).mm = s.mm := rfl
@[simp] theorem State.draw_kul (s : State) (n : Nat) : (s.draw n).kul = s.kul := rfl
@[simp] theorem State.draw_boot (s : State) (n : Nat) : (s.draw n).boot = s.boot := rfl
@[simp] theorem State.draw_rel (s : State) (n : Nat) : (s.draw n).rel = s.rel := rfl
@[simp] theorem State.draw_peal (s : State) (n : Nat) : (s.draw n).peal = s.peal := rfl
@[simp] theorem State.draw_links (s : State) (n : Nat) : (s.draw n).links = s.links := rfl
@[simp] theorem State.draw_power (s : State) (n : Nat) : (s.draw n).power = s.power := rfl
@[simp] theorem State.draw_regs (s : State) (n : Nat) : (s.draw n).regs = s.regs := rfl
@[simp] theorem State.draw_time (s : State) (n : Nat) : (s.draw n).time = s.time := rfl
@[simp] theorem State.draw_clk (s : State) (n : Nat) : (s.draw n).clk = s.clk := rfl
@[simp] theorem State.draw_skips (s : State) (n : Nat) : (s.draw n).skips = s.skips := rfl
@[simp] theorem State.draw_nextId (s : State) (n : Nat) : (s.draw n).nextId = s.nextId := rfl
@[simp] theorem State.draw_focus (s : State) (n : Nat) : (s.draw n).focus = s.focus := rfl
@[simp] theorem State.draw_agenda (s : State) (n : Nat) : (s.draw n).agenda = s.agenda := rfl
@[simp] theorem State.draw_draws (s : State) (n : Nat) : (s.draw n).draws = s.draws + n := rfl

/-! ## send -/

@[simp] theorem State.send_groups (s : State) (o : OutItem) : (s.send o).groups = s.groups := rfl
@[simp] theorem State.send_wgs (s : State) (o : OutItem) : (s.send o).wgs = s.wgs := rfl
@[simp] theorem State.send_gangs (s : State) (o : OutItem) : (s.send o).gangs = s.gangs := rfl
@[simp] theorem State.send_launches (s : State) (o : OutItem) : (s.send o).launches = s.launches := rfl
@[simp] theorem State.send_saved (s : State) (o : OutItem) : (s.send o).saved = s.saved := rfl
@[simp] theorem State.send_lastPos (s : State) (o : OutItem) : (s.send o).lastPos = s.lastPos := rfl
@[simp] theorem State.send_engPos (s : State) (o : OutItem) : (s.send o).engPos = s.engPos := rfl
@[simp] theorem State.send_stops (s : State) (o : OutItem) : (s.send o).stops = s.stops := rfl
@[simp] theorem State.send_mm (s : State) (o : OutItem) : (s.send o).mm = s.mm := rfl
@[simp] theorem State.send_kul (s : State) (o : OutItem) : (s.send o).kul = s.kul := rfl
@[simp] theorem State.send_boot (s : State) (o : OutItem) : (s.send o).boot = s.boot := rfl
@[simp] theorem State.send_rel (s : State) (o : OutItem) : (s.send o).rel = s.rel := rfl
@[simp] theorem State.send_peal (s : State) (o : OutItem) : (s.send o).peal = s.peal := rfl
@[simp] theorem State.send_links (s : State) (o : OutItem) : (s.send o).links = { s.links with out := s.links.out ++ [o] } := rfl
@[simp] theorem State.send_power (s : State) (o : OutItem) : (s.send o).power = s.power := rfl
@[simp] theorem State.send_regs (s : State) (o : OutItem) : (s.send o).regs = s.regs := rfl
@[simp] theorem State.send_time (s : State) (o : OutItem) : (s.send o).time = s.time := rfl
@[simp] theorem State.send_clk (s : State) (o : OutItem) : (s.send o).clk = s.clk := rfl
@[simp] theorem State.send_skips (s : State) (o : OutItem) : (s.send o).skips = s.skips := rfl
@[simp] theorem State.send_nextId (s : State) (o : OutItem) : (s.send o).nextId = s.nextId := rfl
@[simp] theorem State.send_focus (s : State) (o : OutItem) : (s.send o).focus = s.focus := rfl
@[simp] theorem State.send_agenda (s : State) (o : OutItem) : (s.send o).agenda = s.agenda := rfl
@[simp] theorem State.send_draws (s : State) (o : OutItem) : (s.send o).draws = s.draws := rfl

/-! ## setLine -/

@[simp] theorem State.setLine_groups (s : State) (n : Nat) (x : Line) : (s.setLine n x).groups = s.groups := rfl
@[simp] theorem State.setLine_wgs (s : State) (n : Nat) (x : Line) : (s.setLine n x).wgs = s.wgs := rfl
@[simp] theorem State.setLine_gangs (s : State) (n : Nat) (x : Line) : (s.setLine n x).gangs = s.gangs := rfl
@[simp] theorem State.setLine_launches (s : State) (n : Nat) (x : Line) : (s.setLine n x).launches = s.launches := rfl
@[simp] theorem State.setLine_saved (s : State) (n : Nat) (x : Line) : (s.setLine n x).saved = s.saved := rfl
@[simp] theorem State.setLine_lastPos (s : State) (n : Nat) (x : Line) : (s.setLine n x).lastPos = s.lastPos := rfl
@[simp] theorem State.setLine_engPos (s : State) (n : Nat) (x : Line) : (s.setLine n x).engPos = s.engPos := rfl
@[simp] theorem State.setLine_stops (s : State) (n : Nat) (x : Line) : (s.setLine n x).stops = s.stops := rfl
@[simp] theorem State.setLine_mm (s : State) (n : Nat) (x : Line) : (s.setLine n x).mm = { s.mm with lines := if x = Line.fresh then mdel s.mm.lines n else mput s.mm.lines n x } := rfl
@[simp] theorem State.setLine_kul (s : State) (n : Nat) (x : Line) : (s.setLine n x).kul = s.kul := rfl
@[simp] theorem State.setLine_boot (s : State) (n : Nat) (x : Line) : (s.setLine n x).boot = s.boot := rfl
@[simp] theorem State.setLine_rel (s : State) (n : Nat) (x : Line) : (s.setLine n x).rel = s.rel := rfl
@[simp] theorem State.setLine_peal (s : State) (n : Nat) (x : Line) : (s.setLine n x).peal = s.peal := rfl
@[simp] theorem State.setLine_links (s : State) (n : Nat) (x : Line) : (s.setLine n x).links = s.links := rfl
@[simp] theorem State.setLine_power (s : State) (n : Nat) (x : Line) : (s.setLine n x).power = s.power := rfl
@[simp] theorem State.setLine_regs (s : State) (n : Nat) (x : Line) : (s.setLine n x).regs = s.regs := rfl
@[simp] theorem State.setLine_time (s : State) (n : Nat) (x : Line) : (s.setLine n x).time = s.time := rfl
@[simp] theorem State.setLine_clk (s : State) (n : Nat) (x : Line) : (s.setLine n x).clk = s.clk := rfl
@[simp] theorem State.setLine_skips (s : State) (n : Nat) (x : Line) : (s.setLine n x).skips = s.skips := rfl
@[simp] theorem State.setLine_nextId (s : State) (n : Nat) (x : Line) : (s.setLine n x).nextId = s.nextId := rfl
@[simp] theorem State.setLine_focus (s : State) (n : Nat) (x : Line) : (s.setLine n x).focus = s.focus := rfl
@[simp] theorem State.setLine_agenda (s : State) (n : Nat) (x : Line) : (s.setLine n x).agenda = s.agenda := rfl
@[simp] theorem State.setLine_draws (s : State) (n : Nat) (x : Line) : (s.setLine n x).draws = s.draws := rfl

/-! ## dropCopies -/

@[simp] theorem State.dropCopies_groups (s : State) (n : Nat) : (s.dropCopies n).groups = s.groups := rfl
@[simp] theorem State.dropCopies_wgs (s : State) (n : Nat) : (s.dropCopies n).wgs = s.wgs := rfl
@[simp] theorem State.dropCopies_gangs (s : State) (n : Nat) : (s.dropCopies n).gangs = s.gangs := rfl
@[simp] theorem State.dropCopies_launches (s : State) (n : Nat) : (s.dropCopies n).launches = s.launches := rfl
@[simp] theorem State.dropCopies_saved (s : State) (n : Nat) : (s.dropCopies n).saved = s.saved := rfl
@[simp] theorem State.dropCopies_lastPos (s : State) (n : Nat) : (s.dropCopies n).lastPos = s.lastPos := rfl
@[simp] theorem State.dropCopies_engPos (s : State) (n : Nat) : (s.dropCopies n).engPos = s.engPos := rfl
@[simp] theorem State.dropCopies_stops (s : State) (n : Nat) : (s.dropCopies n).stops = s.stops := rfl
@[simp] theorem State.dropCopies_mm (s : State) (n : Nat) : (s.dropCopies n).mm = { s.mm with
      vcopy := s.mm.vcopy.filter (fun e => e.1 % 2 ^ 44 != n)
      wcopy := s.mm.wcopy.filter (fun e => e.1 % 2 ^ 44 != n) } := rfl
@[simp] theorem State.dropCopies_kul (s : State) (n : Nat) : (s.dropCopies n).kul = s.kul := rfl
@[simp] theorem State.dropCopies_boot (s : State) (n : Nat) : (s.dropCopies n).boot = s.boot := rfl
@[simp] theorem State.dropCopies_rel (s : State) (n : Nat) : (s.dropCopies n).rel = s.rel := rfl
@[simp] theorem State.dropCopies_peal (s : State) (n : Nat) : (s.dropCopies n).peal = s.peal := rfl
@[simp] theorem State.dropCopies_links (s : State) (n : Nat) : (s.dropCopies n).links = s.links := rfl
@[simp] theorem State.dropCopies_power (s : State) (n : Nat) : (s.dropCopies n).power = s.power := rfl
@[simp] theorem State.dropCopies_regs (s : State) (n : Nat) : (s.dropCopies n).regs = s.regs := rfl
@[simp] theorem State.dropCopies_time (s : State) (n : Nat) : (s.dropCopies n).time = s.time := rfl
@[simp] theorem State.dropCopies_clk (s : State) (n : Nat) : (s.dropCopies n).clk = s.clk := rfl
@[simp] theorem State.dropCopies_skips (s : State) (n : Nat) : (s.dropCopies n).skips = s.skips := rfl
@[simp] theorem State.dropCopies_nextId (s : State) (n : Nat) : (s.dropCopies n).nextId = s.nextId := rfl
@[simp] theorem State.dropCopies_focus (s : State) (n : Nat) : (s.dropCopies n).focus = s.focus := rfl
@[simp] theorem State.dropCopies_agenda (s : State) (n : Nat) : (s.dropCopies n).agenda = s.agenda := rfl
@[simp] theorem State.dropCopies_draws (s : State) (n : Nat) : (s.dropCopies n).draws = s.draws := rfl

/-! ## A fresh identifier -/

@[simp] theorem State.takeId_fst (s : State) : s.takeId.1 = s.nextId := rfl
@[simp] theorem State.takeId_groups (s : State) : s.takeId.2.groups = s.groups := rfl
@[simp] theorem State.takeId_wgs (s : State) : s.takeId.2.wgs = s.wgs := rfl
@[simp] theorem State.takeId_gangs (s : State) : s.takeId.2.gangs = s.gangs := rfl
@[simp] theorem State.takeId_launches (s : State) : s.takeId.2.launches = s.launches := rfl
@[simp] theorem State.takeId_saved (s : State) : s.takeId.2.saved = s.saved := rfl
@[simp] theorem State.takeId_lastPos (s : State) : s.takeId.2.lastPos = s.lastPos := rfl
@[simp] theorem State.takeId_engPos (s : State) : s.takeId.2.engPos = s.engPos := rfl
@[simp] theorem State.takeId_stops (s : State) : s.takeId.2.stops = s.stops := rfl
@[simp] theorem State.takeId_mm (s : State) : s.takeId.2.mm = s.mm := rfl
@[simp] theorem State.takeId_kul (s : State) : s.takeId.2.kul = s.kul := rfl
@[simp] theorem State.takeId_boot (s : State) : s.takeId.2.boot = s.boot := rfl
@[simp] theorem State.takeId_rel (s : State) : s.takeId.2.rel = s.rel := rfl
@[simp] theorem State.takeId_peal (s : State) : s.takeId.2.peal = s.peal := rfl
@[simp] theorem State.takeId_links (s : State) : s.takeId.2.links = s.links := rfl
@[simp] theorem State.takeId_power (s : State) : s.takeId.2.power = s.power := rfl
@[simp] theorem State.takeId_regs (s : State) : s.takeId.2.regs = s.regs := rfl
@[simp] theorem State.takeId_time (s : State) : s.takeId.2.time = s.time := rfl
@[simp] theorem State.takeId_clk (s : State) : s.takeId.2.clk = s.clk := rfl
@[simp] theorem State.takeId_skips (s : State) : s.takeId.2.skips = s.skips := rfl
@[simp] theorem State.takeId_nextId (s : State) : s.takeId.2.nextId = s.nextId + 1 := rfl
@[simp] theorem State.takeId_focus (s : State) : s.takeId.2.focus = s.focus := rfl
@[simp] theorem State.takeId_agenda (s : State) : s.takeId.2.agenda = s.agenda := rfl
@[simp] theorem State.takeId_draws (s : State) : s.takeId.2.draws = s.draws := rfl

/-! ## Errors that lie unfound -/

/-- Dropping errors takes those away and changes nothing else. -/
theorem State.dropFlaws_eq (s : State) (p : FlawAt → Bool) :
    s.dropFlaws p = { s with rel := { s.rel with latent := s.rel.latent.filter (fun f => !p f.at_) } } := by
  unfold State.dropFlaws
  split
  · rename_i h
    have h0 : s.rel.latent = [] := by simpa using h
    have h1 : s.rel.latent.filter (fun f => !p f.at_) = s.rel.latent := by rw [h0]; rfl
    rw [h1]
  · rfl

/-- Where none lies, none is dropped. -/
theorem State.dropFlaws_none {s : State} (h : s.rel.latent = []) (p : FlawAt → Bool) : s.dropFlaws p = s := by
  unfold State.dropFlaws
  simp [h]

end Sys2Proof.Machine
end

