-- ==== Sys2Proof/Laws/Ops.lean ====
section
/-! SUPPORT. What the shared operations of instructions do: the issuing context, the checks at issue, dividing and
settling splits, advancing, and writing registers and predicates. -/

namespace Sys2Proof.Machine

/-! ## The issuing context -/

theorem ctxOf_some {s : State} {gk ix : Nat} {c : Ctx} (h : s.ctxOf gk ix = some c) : CtxOf s c := by
  unfold State.ctxOf at h
  split at h
  · exact absurd h (by simp)
  · rename_i g hg
    split at h
    · exact absurd h (by simp)
    · rename_i sp hsp
      split at h
      · exact absurd h (by simp)
      · rename_i wg hwg
        split at h
        · exact absurd h (by simp)
        · rename_i gg hgg
          split at h
          · exact absurd h (by simp)
          · rename_i l hl
            cases h
            exact ⟨hg, hsp, rfl, hwg, rfl, hgg, rfl, hl⟩

theorem ctx_some {s : State} {c : Ctx} (h : s.ctx = some c) : CtxOf s c := by
  unfold State.ctx at h
  split at h
  · exact absurd h (by simp)
  · exact ctxOf_some h

/-! ## The checks at issue -/

theorem leastBy_nil_of {α : Type} (k : α → Nat) (l : List α) (h : l = []) : leastBy k l = none := by subst h; rfl

/-- The checks of R263 and R246 let the instruction go. -/
theorem MayIssue.pre {s : State} {c : Ctx} {i : Instr} (h : MayIssue s c i) : s.pre c i true = .go := by
  have hh : s.holds c = none := by
    have h1 : (s.isStopped c.g || c.gg.halted) = false := by
      simp [State.isStopped, h.noStop, h.noHalt]
    have h2 : ¬ (c.gg.st = GangState.saving ∨ c.gg.st = GangState.saved) := by
      rcases h.noSave with ⟨a, b⟩; simp [a, b]
    simp [State.holds, State.foremost, h1, h2, h.notBusy]
  have hf : c.g.flagsZero c.sp.wait = true := by
    unfold Group.flagsZero
    rw [List.all_eq_true]
    intro f hf
    have : f < 12 := by simpa [upto] using hf
    by_cases hw : c.sp.wait.getLsbD f = true
    · simp [h.waited f this hw]
    · simp [hw]
  have hd : c.clauseDue = none := by
    unfold Ctx.clauseDue
    rcases h.noDelayed with a | a
    · simp [a]
    · split
      · rfl
      · unfold Group.due
        apply leastBy_nil_of
        rw [List.filter_eq_nil_iff]
        intro d hd
        simpa using a d hd
  have ht : s.throttled c.g.core i = false := by
    have hm : s.matrixDuty = 8 := by simp [State.matrixDuty, h.fullDuty.1, h.fullDuty.2]
    have hv : s.vectorDuty = 8 := by simp [State.vectorDuty, h.fullDuty.2]
    unfold State.throttled
    simp only [hm, hv, h.clocked]
    split
    · simp
    · split <;> simp
  have hw : (!i.wf || !c.encoded i || !c.sp.inClause || (lastOnly i && c.sp.pc + 1 != c.sp.clauseEnd)) = false := by
    simp only [h.place.wf, h.place.encoded, h.place.inClause, Bool.not_true, Bool.false_or]
    cases hl : lastOnly i
    · rfl
    · simp [h.place.lastWord hl]
  have hg : (isGroup i && !c.converged) = false := by
    cases hl : isGroup i
    · rfl
    · rcases h.converged hl with ⟨a, b⟩
      simp [Ctx.converged, a, b]
  have hb : ((regNums (regsOf c.g.m i)).any (fun r => decide (c.budget ≤ r)) ||
      (tilesOf i).any (fun t => decide (c.l.tiles ≤ t))) = false := by
    rw [Bool.or_eq_false_iff, List.any_eq_false, List.any_eq_false]
    constructor
    · intro r hr; have := h.budget.1 r hr; simpa using this
    · intro t ht; have := h.budget.2 t ht; simpa using this
  have hm : (isMemory i && c.g.acquiring c.sp.mask) = false := by
    cases hl : isMemory i
    · rfl
    · simp [h.noAcquire hl]
  unfold State.pre
  simp only [hh, hf, hd, h.noPending h.place.wf, hm, h.noFailure, ht, hw, hg, hb, Option.isSome_none, Bool.not_true, Bool.false_eq_true, if_false, Bool.and_false]

/-- An instruction that may issue and accepts its mode does what its body says. -/
theorem MayIssue.issue {s : State} {c : Ctx} {i : Instr} (h : MayIssue s c i) {mOk : Ctx → Bool} (hm : mOk c = true)
    (body : Ctx → State) : s.issue i mOk body = .next (body c) := by
  unfold State.issue State.orMerge
  simp only [h.ctx, hm, h.pre, h.noFailure]

/-! ## Splits -/

theorem Group.sameButSplits.refl (g : Group) : g.sameButSplits g := rfl

theorem Group.sameButSplits.trans {a b d : Group} (h : a.sameButSplits b) (h' : b.sameButSplits d) :
    a.sameButSplits d := by
  unfold Group.sameButSplits at *
  rw [← h', ← h]

theorem mergeAt_same (g : Group) (ix : Nat) : (g.mergeAt ix).1.sameButSplits g := by
  unfold Group.mergeAt
  split
  · rfl
  · simp only
    split <;> rfl

theorem mergeSplit_same (g : Group) (p : Split) : (g.mergeSplit p).sameButSplits g := by
  unfold Group.mergeSplit
  split
  · exact mergeAt_same g _
  · rfl

theorem mergeParked_same (g : Group) (old : List Split) : (g.mergeParked old).sameButSplits g := by
  unfold Group.mergeParked
  generalize g.splits.filter _ = ps
  suffices ∀ a : Group, a.sameButSplits g → (ps.foldl (fun g p => g.mergeSplit p) a).sameButSplits g from this g rfl
  induction ps with
  | nil => exact fun a h => h
  | cons p r ih => exact fun a h => ih _ ((mergeSplit_same a _).trans h)

/-- A split of before stood before. -/
theorem stood_self {p : Split} {old : List Split} (h : p ∈ old) : p.stood old = true := by
  unfold Split.stood
  rw [List.any_eq_true]
  refine ⟨p, h, ?_⟩
  have : p.mask &&& ~~~ p.mask = 0#32 := by ext i; simp
  simp [this]

/-- No split has been parked since: nothing merges. -/
theorem mergeParked_stood {g : Group} {old : List Split}
    (h : ∀ p ∈ g.splits, p.isWaiting = true ∨ p.st = .ready → p.stood old = true) : g.mergeParked old = g := by
  unfold Group.mergeParked
  rw [List.filter_eq_nil_iff.mpr]
  · rfl
  · intro p hp
    by_cases hs : p.stood old = true
    · simp [hs]
    · have : ¬ (p.isWaiting = true ∨ p.st = .ready) := fun hw => hs (h p hp hw)
      simpa [hs, not_or] using this

/-- Nothing is released at a JOIN while a split does not wait. -/
theorem joinRelease_of {g : Group} {q : Split} (hq : q ∈ g.splits) (hn : ∀ w, q.st ≠ .waiting w) : g.joinRelease = g := by
  unfold Group.joinRelease
  have : g.splits.all (·.isWaiting) = false := by
    rw [List.all_eq_false]
    refine ⟨q, hq, ?_⟩
    unfold Split.isWaiting
    cases hst : q.st with
    | waiting w => exact absurd hst (hn w)
    | _ => simp
  simp [this]

/-- Refill changes states and rotation counts only. -/
theorem refillList_keeps (n : Nat) (ps : List Split) (q : Split) (hq : q ∈ ps) :
    ∃ p ∈ refillList ps n, ({ p with st := q.st, issued := q.issued } : Split) = q := by
  induction n generalizing ps q with
  | zero => exact ⟨q, hq, rfl⟩
  | succ n ih =>
    simp only [refillList]
    split
    · rename_i i _ k _ _
      obtain ⟨j, hj, rfl⟩ := List.getElem_of_mem hq
      have hj' : j < (ps.modify k (·.goLive i)).length := by simpa using hj
      obtain ⟨p, hp, he⟩ := ih _ ((ps.modify k (·.goLive i))[j]) (List.getElem_mem hj')
      refine ⟨p, hp, ?_⟩
      rw [List.getElem_modify] at he
      split at he
      · have h := congrArg (fun x : Split => ({ x with st := (ps[j]).st, issued := (ps[j]).issued } : Split)) he
        exact h
      · exact he
    · exact ⟨q, hq, rfl⟩

theorem refill_same (g : Group) : g.refill.sameButSplits g := rfl

/-- Where no split has been parked, settling keeps every split that does not wait, but for its slot, and changes splits
only. -/
theorem settle_spec {g : Group} {old : List Split} {q : Split}
    (h : ∀ p ∈ g.splits, p.isWaiting = true ∨ p.st = .ready → p.stood old = true)
    (hq : q ∈ g.splits) (hn : ∀ w, q.st ≠ .waiting w) :
    (g.settle old).sameButSplits g ∧
    ∃ p ∈ (g.settle old).splits, ({ p with st := q.st, issued := q.issued } : Split) = q := by
  unfold Group.settle
  rw [mergeParked_stood h, joinRelease_of hq hn]
  exact ⟨refill_same _, refillList_keeps 4 _ q hq⟩

theorem joinRelease_same (g : Group) : g.joinRelease.sameButSplits g := by
  unfold Group.joinRelease
  generalize g.splits.all (·.isWaiting) = b
  cases b
  · rfl
  · simp only [Bool.not_true, Bool.false_eq_true, if_false]
    generalize leastBy (·.pc) (g.splits.filter (fun p => p.st == .waiting .join)) = o
    cases o <;> rfl

theorem settle_same (g : Group) (old : List Split) : (g.settle old).sameButSplits g :=
  ((refill_same _).trans (joinRelease_same _)).trans (mergeParked_same g old)

theorem divide_same (g : Group) (ix : Nat) (ps : List Split) : (g.divide ix ps).sameButSplits g := by
  unfold Group.divide
  split <;> rfl

theorem mem_insertBy {α : Type} (k : α → Nat) (a b : α) (l : List α) : b ∈ insertBy k a l ↔ b = a ∨ b ∈ l := by
  induction l with
  | nil => simp [insertBy]
  | cons e r ih =>
    simp only [insertBy]
    split
    · simp
    · simp only [List.mem_cons, ih]; tauto

theorem mem_sortBy {α : Type} (k : α → Nat) (b : α) (l : List α) : b ∈ sortBy k l ↔ b ∈ l := by
  induction l with
  | nil => simp [sortBy]
  | cons e r ih => simp [sortBy, mem_insertBy, ih]

/-- Each part with a lane is among the splits after a division, but for its slot. -/
theorem divide_part {g : Group} {ix : Nat} {p q : Split} {ps : List Split} (hp : g.splits[ix]? = some p) (hq : q ∈ ps)
    (hm : q.mask ≠ 0#32) (hf : q.st ≠ .faulted) :
    ∃ r ∈ (g.divide ix ps).splits, (∀ w, r.st ≠ .waiting w) ∧ r.mask = q.mask ∧ r.pc = q.pc := by
  unfold Group.divide
  rw [hp]
  simp only
  have hin : q ∈ sortBy (·.rank) (ps.filter (fun q => q.mask != 0#32 && q.st != .faulted)) := by
    rw [mem_sortBy, List.mem_filter]; exact ⟨hq, by simp [hm, hf]⟩
  obtain ⟨j, hj, he⟩ := List.getElem_of_mem hin
  generalize hrun : sortBy (·.rank) (ps.filter (fun q => q.mask != 0#32 && q.st != .faulted)) = run at hj he
  generalize ((match p.liveIx with
      | some i => [i]
      | none => []) ++ freeIx g.splits) = ixs
  have hz : (q, j) ∈ run.zipIdx := by
    rw [List.mem_zipIdx_iff_getElem?, List.getElem?_eq_getElem hj, he]
  cases hx : ixs[j]? with
  | none =>
    refine ⟨{ q with st := .ready, stall := 12 }, ?_, by simp, rfl, rfl⟩
    simp only [List.mem_append, List.mem_map]
    exact .inl (.inl (.inr ⟨(q, j), hz, by simp [hx]⟩))
  | some i =>
    refine ⟨{ q with st := .live i, issued := if j = 0 then q.issued else 0 }, ?_, by simp, rfl, rfl⟩
    simp only [List.mem_append, List.mem_map]
    exact .inl (.inl (.inr ⟨(q, j), hz, by simp [hx]⟩))

/-- A live split that goes on as one leaves no split newly parked. -/
theorem divide_one_stood {g : Group} {ix i : Nat} {p q : Split} (hp : g.splits[ix]? = some p) (hl : p.st = .live i)
    (hm : q.mask ≠ 0#32) (hf : q.st ≠ .faulted) :
    ∀ r ∈ (g.divide ix [q]).splits, r.isWaiting = true ∨ r.st = .ready → r.stood g.splits = true := by
  intro r hr hw
  have hrun : sortBy (·.rank) ([q].filter (fun q => q.mask != 0#32 && q.st != .faulted)) = [q] := by
    simp [hm, hf, sortBy, insertBy]
  have hbad : [q].filter (fun q => q.mask != 0#32 && q.st == .faulted) = [] := by simp [hf]
  unfold Group.divide at hr
  rw [hp] at hr
  simp only [hrun, hbad, Split.liveIx, hl, List.zipIdx_cons, List.zipIdx_nil, List.map_cons, List.map_nil, List.append_nil,
    List.mem_append, List.mem_singleton, List.cons_append, List.nil_append, List.getElem?_cons_zero] at hr
  rcases hr with (h | h) | h
  · exact stood_self (List.mem_of_mem_eraseIdx (List.mem_of_mem_take h))
  · subst h
    simp [Split.isWaiting] at hw
  · exact stood_self (List.mem_of_mem_eraseIdx (List.mem_of_mem_drop h))

end Sys2Proof.Machine
end

