-- ==== Sys2Proof/Laws/Issue.lean ====
section
/-! SUPPORT. What an instruction that completes leaves: advancing, register and predicate writes with their log entries,
and the two ends of a vector instruction. -/

namespace Sys2Proof.Machine

theorem MayIssue.ctxOf {s : State} {c : Ctx} {i : Instr} (h : MayIssue s c i) : CtxOf s c := ctx_some h.ctx

/-! ## States between the issue of an instruction and its end -/

theorem Wg.sameButLogs.refl (w : Wg) : w.sameButLogs w := ⟨rfl, rfl⟩

theorem OnlyGroup.refl {s : State} {c : Ctx} (h : CtxOf s c) : OnlyGroup s s c :=
  ⟨rfl, fun _ _ => .rfl, fun _ _ => rfl, fun _ _ => rfl, c.wg, h.wg, .refl _⟩

/-- State t stands between the issue at s and the end: the issuing group is g, with its splits untouched. -/
structure Mid (s t : State) (c : Ctx) (g : Group) : Prop where
  only   : OnlyGroup s t c
  group  : mget? t.groups c.gk = some g
  splits : g.splits = c.g.splits

theorem Mid.refl {s : State} {c : Ctx} (h : CtxOf s c) : Mid s s c c.g := ⟨.refl h, h.group, rfl⟩

theorem OnlyGroup.gangs {s t : State} {c : Ctx} (h : OnlyGroup s t c) : t.gangs = s.gangs := by
  have := congrArg State.gangs h.rest; simpa using this

theorem OnlyGroup.launches {s t : State} {c : Ctx} (h : OnlyGroup s t c) : t.launches = s.launches := by
  have := congrArg State.launches h.rest; simpa using this

/-- A change of the issuing group leaves all else. -/
theorem OnlyGroup.updGroup {s t : State} {c : Ctx} (h : OnlyGroup s t c) (f : Group → Group) :
    OnlyGroup s (t.updGroup c.gk f) c :=
  { rest := h.rest
    flaws := h.flaws
    groups := fun k hk => by
      rw [State.updGroup_groups, mget?_mupd_other _ _ hk]; exact h.groups k hk
    wgs := h.wgs
    logs := h.logs }

theorem OnlyGroup.draw {s t : State} {c : Ctx} (h : OnlyGroup s t c) (n : Nat) : OnlyGroup s (t.draw n) c :=
  ⟨h.rest, h.flaws, h.groups, h.wgs, h.logs⟩

theorem OnlyGroup.takeId {s t : State} {c : Ctx} (h : OnlyGroup s t c) : OnlyGroup s t.takeId.2 c :=
  ⟨h.rest, h.flaws, h.groups, h.wgs, h.logs⟩

/-- A write takes only errors in the issuing group's registers away (R436). -/
theorem OnlyGroup.dropReg {s t : State} {c : Ctx} (h : OnlyGroup s t c) (d : Nat) (m : Lanes) :
    OnlyGroup s (t.dropReg c.gk d m) c := by
  unfold State.dropReg
  rw [State.dropFlaws_eq]
  exact
  { rest := h.rest
    flaws := fun x hx => by
      rw [← h.flaws x hx]
      simp only [List.mem_filter, and_iff_left_iff_imp]
      intro _
      split
      · rename_i g r l he
        have : g ≠ c.gk := fun e => hx r l (e ▸ he)
        simp [this]
      · rfl
    groups := h.groups
    wgs := h.wgs
    logs := h.logs }

theorem Mid.dropReg {s t : State} {c : Ctx} {g : Group} (h : Mid s t c g) (d : Nat) (m : Lanes) :
    Mid s (t.dropReg c.gk d m) c g := by
  refine ⟨h.only.dropReg d m, ?_, h.splits⟩
  unfold State.dropReg
  rw [State.dropFlaws_eq]
  exact h.group

theorem Mid.updGroup {s t : State} {c : Ctx} {g : Group} (h : Mid s t c g) (f : Group → Group)
    (hf : (f g).splits = g.splits) : Mid s (t.updGroup c.gk f) c (f g) :=
  ⟨h.only.updGroup f, mget?_mupd_same h.group, hf.trans h.splits⟩

theorem Mid.draw {s t : State} {c : Ctx} {g : Group} (h : Mid s t c g) (n : Nat) : Mid s (t.draw n) c g :=
  ⟨h.only.draw n, h.group, h.splits⟩

theorem Mid.failing {s t : State} {c : Ctx} {g : Group} (h : Mid s t c g) (hf : c.wg.failing = none) :
    t.frozen c.wk = false := by
  obtain ⟨w, hw, hs⟩ := h.only.logs
  have : w.failing = c.wg.failing := by have := congrArg Wg.failing hs.1; simpa using this
  simp [State.frozen, hw, this, hf]

/-! ## Advancing -/

theorem codeMask_noFault : codeMask noFault = 0#32 := by decide

/-- The end of an instruction in which no lane faults. -/
theorem endInstr_noFault (s : State) (c : Ctx) (code : Nat → Option Nat) (hc : ∀ l < 32, code l = none)
    (hf : s.frozen c.wk = false) :
    s.endInstr c code = s.updGroup c.gk (fun g =>
      (g.divide c.ix [{ c.sp.goTo (c.sp.pc + 1) with mask := c.sp.mask }]).settle g.splits) := by
  have hm : codeMask code = 0#32 := codeMask_eq_zero hc
  unfold State.endInstr
  rw [if_neg (by simp [hf])]
  unfold State.takeFault State.takeFaultAt
  simp only [hm, lanesOf_zero, List.filterMap_nil, if_true]
  have : (c.sp.mask &&& ~~~ 0#32) = c.sp.mask := by
    rw [show (~~~ 0#32 : Lanes) = BitVec.allOnes 32 from by decide, BitVec.and_allOnes]
  simp only [this, List.map_cons, List.map_nil]
  cases c.inBlock <;> rfl

/-- The group after an instruction that completes in every lane. -/
theorem Mid.ended {s t : State} {c : Ctx} {i : Instr} {g : Group} (hi : MayIssue s c i) (h : Mid s t c g)
    {code : Nat → Option Nat} (hc : ∀ l < 32, code l = none) :
    OnlyGroup s (t.endInstr c code) c ∧
    ∃ g', mget? (t.endInstr c code).groups c.gk = some g' ∧ g'.sameButSplits g ∧ g'.standsAt c.sp.mask (c.sp.pc + 1) := by
  rw [endInstr_noFault t c code hc (h.failing hi.noFailure)]
  refine ⟨h.only.updGroup _, _, mget?_mupd_same h.group, (settle_same _ _).trans (divide_same _ _ _), ?_⟩
  obtain ⟨k, hk⟩ := hi.live
  have hsp : g.splits[c.ix]? = some c.sp := by rw [h.splits]; exact hi.ctxOf.split
  obtain ⟨r, hr, hn, hm, hp⟩ := divide_part (q := { c.sp.goTo (c.sp.pc + 1) with mask := c.sp.mask }) hsp
    (List.mem_singleton.mpr rfl) hi.lanes (by simp [Split.goTo, hk])
  obtain ⟨p, hp', he⟩ := (settle_spec (divide_one_stood hsp hk (q := { c.sp.goTo (c.sp.pc + 1) with mask := c.sp.mask })
    hi.lanes (by simp [Split.goTo, hk])) hr hn).2
  have e1 : p.mask = r.mask := by have := congrArg Split.mask he; simpa using this
  have e2 : p.pc = r.pc := by have := congrArg Split.pc he; simpa using this
  exact ⟨p, hp', by rw [e1, hm], by rw [e2, hp]; rfl⟩

/-! ## Register writes -/

/-- Lane l after a write. -/
theorem Reg.write_lane (old : Reg) (m : Lanes) (t : Tag) (f : Nat → Val) (n l : Nat) (hl : l < 32) :
    let x := old.write m t f n
    (m.getLsbD l = true → Val.like { w := x.val.getD l 0#32, p := mget? x.pois l } (f l)) ∧
    (m.getLsbD l = false → m ≠ 0#32 → x.val.getD l 0#32 = old.val.getD l 0#32 ∧ mget? x.pois l = mget? old.pois l) := by
  have hp : ∀ (h : Nat → Option PTag), mget? (allLanes.filterMap (fun l => (h l).map (fun p => (l, p)))) l = h l := by
    intro h; unfold allLanes; rw [mget?_filterMap_range]; simp [hl]
  have hv : ∀ (h : Nat → Word), (allLanes.map h).getD l 0#32 = h l := by
    intro h; unfold allLanes; simp [List.getD_eq_getElem?_getD, hl]
  unfold Reg.write
  constructor
  · intro hm
    have : m ≠ 0#32 := by rintro rfl; simp at hm
    simp only [this, if_false, hp, hv, hm, if_true]
    refine ⟨rfl, ?_⟩
    intro h; simp [h]
  · intro hm hz
    simp only [hz, if_false, hp, hv, hm, Bool.false_eq_true, and_self]

/-- The registers of group g after a write of register d in the lanes m. -/
structure Wrote (g g' : Group) (d : Nat) (m : Lanes) (f : Nat → Val) : Prop where
  rest   : ({ g' with regs := g.regs } : Group) = g
  others : ∀ r, r ≠ d → g'.reg r = g.reg r
  values : ∀ l < 32, d ≠ 0 → m.getLsbD l = true → (g'.lane d l).like (f l)
  lanes  : ∀ l < 32, m.getLsbD l = false → g'.lane d l = g.lane d l

theorem Wrote.none {g : Group} {d : Nat} {m : Lanes} {f : Nat → Val} (h : d = 0 ∨ m = 0#32) : Wrote g g d m f := by
  refine ⟨rfl, fun _ _ => rfl, ?_, fun _ _ _ => rfl⟩
  intro l _ hd hm
  rcases h with h | h
  · exact absurd h hd
  · subst h; simp at hm

theorem wrote_mput (g : Group) (d : Nat) (m : Lanes) (t : Tag) (f : Nat → Val) (n : Nat) (hd : d ≠ 0) (hm : m ≠ 0#32) :
    Wrote g { g with regs := mput g.regs d ((g.reg d).write m t f n) } d m f := by
  have hreg : ∀ r, ({ g with regs := mput g.regs d ((g.reg d).write m t f n) } : Group).reg r =
      if r = d then (g.reg d).write m t f n else g.reg r := by
    intro r
    unfold Group.reg
    by_cases h0 : r = 0
    · subst h0; simp [Ne.symm hd]
    · by_cases h : r = d
      · subst h; simp [hd, mgetD_mput_same]
      · simp [h, h0, mgetD_mput_other _ _ _ h]
  refine ⟨rfl, fun r hr => by rw [hreg, if_neg hr], ?_, ?_⟩
  · intro l hl _ hml
    unfold Group.lane
    rw [hreg, if_pos rfl]
    exact (Reg.write_lane _ m t f n l hl).1 hml
  · intro l hl hml
    have := (Reg.write_lane (g.reg d) m t f n l hl).2 hml hm
    unfold Group.lane
    rw [hreg, if_pos rfl]
    simp only [this.1, this.2]

/-- A write of a register without logging. -/
theorem Mid.putReg {s t : State} {c : Ctx} {g : Group} (h : Mid s t c g) (d : Nat) (m : Lanes) (tg : Tag) (f : Nat → Val) :
    ∃ g', Mid s (t.putReg c.gk d m tg f) c g' ∧ Wrote g g' d m f ∧ g'.splits = g.splits := by
  unfold State.putReg
  by_cases hz : d = 0 ∨ m = 0#32
  · have : (decide (d = 0) || decide (m = 0#32)) = true := by simpa using hz
    simp only [this, if_true]
    exact ⟨g, h, .none hz, rfl⟩
  · have hb : (decide (d = 0) || decide (m = 0#32)) = false := by simpa using hz
    push Not at hz
    simp only [hb, Bool.false_eq_true, if_false]
    have hm := h.updGroup (fun g => { g with regs := mput g.regs d ((g.reg d).write m tg f t.draws) }) rfl
    refine ⟨_, ?_, wrote_mput g d m tg f t.draws hz.1 hz.2, rfl⟩
    split
    · exact (hm.dropReg d m).draw 32
    · exact hm.dropReg d m

/-! ## The log -/

theorem foldl_add (l : List Nat) (a : Nat) : l.foldl (· + ·) a = a + l.foldl (· + ·) 0 := by
  induction l generalizing a with
  | nil => simp
  | cons x r ih => simp only [List.foldl_cons]; rw [ih (a + x), ih (0 + x)]; omega

/-- The bytes of a log with one entry more. -/
theorem logUsed_cons (w : Wg) (l : Launch) (b : Block) (r : List Block) (e : LogEntry) (h : w.blocks = b :: r) :
    ({ w with blocks := { b with log := e :: b.log } :: r } : Wg).logUsed l = w.logUsed l + e.size := by
  unfold Wg.logUsed
  simp only [h, List.map_cons, List.foldl_cons]
  rw [foldl_add _ (0 + _), foldl_add _ (0 + (frameSize l + _)), foldl_add _ (0 + e.size)]
  omega

theorem reg_size (k r : Nat) (old : Reg) : (LogEntry.reg k r old).size ≤ 144 := by
  simp only [LogEntry.size]; split <;> omega

/-- Register d of group k is logged in the innermost block of a workgroup, or no block is open. -/
def Wg.loggedReg (w : Wg) (k d : Nat) : Bool :=
  match w.blocks with
  | [] => true
  | b :: _ => b.log.any (fun e => match e with
    | .reg k' d' _ => k == k' && d == d'
    | _ => false)

theorem sameLoc_reg (k d : Nat) (old : Reg) (e : LogEntry) :
    sameLoc (.reg k d old) e = (match e with
    | .reg k' d' _ => k == k' && d == d'
    | _ => false) := by cases e <;> rfl

theorem loggedReg_ctx (c : Ctx) (d : Nat) : c.loggedReg d = c.wg.loggedReg c.g.k d := by
  unfold Ctx.loggedReg Wg.loggedReg
  cases c.wg.blocks with
  | nil => rfl
  | cons b r => exact congrArg (fun p => b.log.any p) (funext fun e => sameLoc_reg _ _ _ e)

/-- There is room in workgroup w's log for the first writes of registers d to d + n − 1 of the issuing group. -/
def Wg.roomFor (w : Wg) (c : Ctx) (d n : Nat) : Prop :=
  w.blocks = [] ∨ (∀ j < n, w.loggedReg c.g.k (d + j) = true) ∨ w.logUsed c.l + 144 * n ≤ w.logCap

theorem roomFor_ctx {c : Ctx} {d n : Nat} (h : c.logRoom d n) : c.wg.roomFor c d n := by
  rcases h with h | h | h
  · exact .inl h
  · exact .inr (.inl (fun j hj => by rw [← loggedReg_ctx]; exact h j hj))
  · exact .inr (.inr h)

theorem logFirst_reg {s t : State} {c : Ctx} {g : Group} (hc : CtxOf s c) (h : Mid s t c g) {w : Wg}
    (hw : mget? t.wgs c.wk = some w) (hs : w.sameButLogs c.wg) (d n pc : Nat) (old : Reg) (hr : w.roomFor c d (n + 1)) :
    ∃ t' w', t.logFirst c.wk (.reg c.g.k d old) pc = (true, t') ∧ Mid s t' c g ∧ mget? t'.wgs c.wk = some w' ∧
      w'.sameButLogs c.wg ∧ w'.roomFor c (d + 1) n ∧ t'.draws = t.draws := by
  have hgang : w.gang = c.wg.gang := by have := congrArg Wg.gang hs.1; simpa using this
  have shift : ∀ v : Wg, v.roomFor c d (n + 1) → v.roomFor c (d + 1) n := by
    intro v hv
    rcases hv with h | h | h
    · exact .inl h
    · exact .inr (.inl (fun j hj => by have := h (j + 1) (by omega); rwa [show d + 1 + j = d + (j + 1) by omega]))
    · exact .inr (.inr (by omega))
  unfold State.logFirst
  simp only [hw]
  cases hb : w.blocks with
  | nil => exact ⟨t, w, rfl, h, hw, hs, shift w hr, rfl⟩
  | cons b rest =>
    simp only
    by_cases hany : b.log.any (sameLoc (.reg c.g.k d old)) = true
    · rw [if_pos hany]
      exact ⟨t, w, rfl, h, hw, hs, shift w hr, rfl⟩
    · rw [if_neg hany]
      simp only [h.only.gangs, h.only.launches, hgang, ← hc.nk, hc.gang, ← hc.lk, hc.launch]
      have hnot : w.loggedReg c.g.k d = false := by
        unfold Wg.loggedReg
        rw [hb]
        exact (congrArg (fun p => b.log.any p) (funext fun e => (sameLoc_reg _ _ old e).symm)).trans
          (Bool.eq_false_iff.mpr hany)
      have hfit : w.logUsed c.l + 144 * (n + 1) ≤ w.logCap := by
        rcases hr with h | h | h
        · rw [hb] at h; cases h
        · have := h 0 (by omega); rw [Nat.add_zero, hnot] at this; cases this
        · exact h
      have hsz := reg_size c.g.k d old
      rw [if_neg (by omega)]
      refine ⟨_, { w with blocks := { b with log := .reg c.g.k d old :: b.log } :: rest }, rfl, ?_, ?_, ?_, ?_, rfl⟩
      · refine ⟨⟨h.only.rest, h.only.flaws, h.only.groups, ?_, ?_⟩, h.group, h.splits⟩
        · intro k hk
          rw [State.updWg_wgs, mget?_mupd_other _ _ hk]; exact h.only.wgs k hk
        · refine ⟨_, by rw [State.updWg_wgs]; exact mget?_mupd_same hw, ?_⟩
          refine ⟨hs.1, ?_⟩
          rw [← hs.2, hb]; rfl
      · rw [State.updWg_wgs]; exact mget?_mupd_same hw
      · refine ⟨hs.1, ?_⟩
        rw [← hs.2, hb]; rfl
      · refine .inr (.inr ?_)
        rw [logUsed_cons w c.l b rest _ hb]
        have : ({ w with blocks := { b with log := .reg c.g.k d old :: b.log } :: rest } : Wg).logCap = w.logCap := rfl
        omega

/-! ## Writes of the instruction -/

/-- The instruction's write of register d: logged first where a block is open. -/
theorem Mid.writeV {s t : State} {c : Ctx} {g : Group} (hc : CtxOf s c) (hf : c.wg.failing = none) (h : Mid s t c g) {w : Wg}
    (hw : mget? t.wgs c.wk = some w) (hs : w.sameButLogs c.wg) (d n : Nat) (hr : w.roomFor c d (n + 1)) (m : Lanes)
    (tg : Tag) (f : Nat → Val) :
    ∃ g' w', Mid s (t.writeV c d m tg f) c g' ∧ mget? (t.writeV c d m tg f).wgs c.wk = some w' ∧ w'.sameButLogs c.wg ∧
      w'.roomFor c (d + 1) n ∧ Wrote g g' d m f := by
  have hwgs : ∀ x : State, (x.putReg c.gk d m tg f).wgs = x.wgs := by
    intro x; unfold State.putReg; split
    · rfl
    · simp only [State.dropReg, State.dropFlaws_eq]; split <;> rfl
  have shift : w.roomFor c (d + 1) n := by
    rcases hr with h | h | h
    · exact .inl h
    · exact .inr (.inl (fun j hj => by have := h (j + 1) (by omega); rwa [show d + 1 + j = d + (j + 1) by omega]))
    · exact .inr (.inr (by omega))
  have hfz := h.failing hf
  unfold State.writeV
  by_cases hz : d = 0 ∨ m = 0#32
  · have : (decide (d = 0) || decide (m = 0#32) || t.frozen c.wk) = true := by simp [hz]
    rw [if_pos this]
    exact ⟨g, w, h, hw, hs, shift, .none hz⟩
  · have hb : ¬ ((decide (d = 0) || decide (m = 0#32) || t.frozen c.wk) = true) := by simp [hfz]; tauto
    rw [if_neg hb]
    by_cases hin : c.inBlock = true
    · rw [if_pos hin]
      obtain ⟨t', w', he, hm, hw', hs', hr', _⟩ := logFirst_reg hc h hw hs d n c.sp.pc (c.g.reg d) hr
      simp only [he, if_true]
      obtain ⟨g', hm', hwr, _⟩ := hm.putReg d m tg f
      exact ⟨g', w', hm', by rw [hwgs]; exact hw', hs', hr', hwr⟩
    · rw [if_neg hin]
      obtain ⟨g', hm', hwr, _⟩ := h.putReg d m tg f
      exact ⟨g', w, hm', by rw [hwgs]; exact hw, hs, shift, hwr⟩

/-- Consecutive registers written one after the other. -/
structure WroteAll (g g' : Group) (d n : Nat) (m : Lanes) (f : Nat → Nat → Val) : Prop where
  rest   : ({ g' with regs := g.regs } : Group) = g
  others : ∀ r, (r < d ∨ d + n ≤ r) → g'.reg r = g.reg r
  values : ∀ j l, j < n → l < 32 → d + j ≠ 0 → m.getLsbD l = true → (g'.lane (d + j) l).like (f j l)
  lanes  : ∀ j l, j < n → l < 32 → m.getLsbD l = false → g'.lane (d + j) l = g.lane (d + j) l

theorem Mid.writeVs {s : State} {c : Ctx} (hc : CtxOf s c) (hf : c.wg.failing = none) (m : Lanes) (tg : Nat → Tag)
    (f : Nat → Nat → Val) (d n : Nat) (hr : c.logRoom d n) :
    ∃ g', Mid s ((upto n).foldl (fun s j => s.writeV c (d + j) m (tg j) (f j)) s) c g' ∧ WroteAll c.g g' d n m f := by
  suffices ∀ k, k ≤ n → ∃ g' w', Mid s ((List.range k).foldl (fun s j => s.writeV c (d + j) m (tg j) (f j)) s) c g' ∧
      mget? ((List.range k).foldl (fun s j => s.writeV c (d + j) m (tg j) (f j)) s).wgs c.wk = some w' ∧
      w'.sameButLogs c.wg ∧ w'.roomFor c (d + k) (n - k) ∧ WroteAll c.g g' d k m f by
    obtain ⟨g', _, h, _, _, _, hw⟩ := this n (Nat.le_refl n)
    exact ⟨g', h, hw⟩
  intro k
  induction k with
  | zero =>
    intro _
    exact ⟨c.g, c.wg, .refl hc, hc.wg, .refl _, roomFor_ctx hr, rfl, fun _ _ => rfl, fun _ _ h => absurd h (by omega),
      fun _ _ h => absurd h (by omega)⟩
  | succ k ih =>
    intro hk
    obtain ⟨g1, w1, hm, hw, hs, hroom, hall⟩ := ih (by omega)
    obtain ⟨g2, w2, hm2, hw2, hs2, hr2, hwr⟩ := Mid.writeV hc hf hm hw hs (d + k) (n - (k + 1))
      (by rwa [show n - (k + 1) + 1 = n - k by omega]) m (tg k) (f k)
    refine ⟨g2, w2, ?_, ?_, hs2, hr2, ?_⟩
    · rw [List.range_succ, List.foldl_append]; exact hm2
    · rw [List.range_succ, List.foldl_append]; exact hw2
    · refine ⟨?_, ?_, ?_, ?_⟩
      · rw [← hall.rest, ← hwr.rest]
      · intro r h; rw [hwr.others r (by omega)]; exact hall.others r (by omega)
      · intro j l hj hl hd hml
        by_cases h : j = k
        · subst h; exact hwr.values l hl hd hml
        · have : (g2.lane (d + j) l) = g1.lane (d + j) l := by
            unfold Group.lane; rw [hwr.others (d + j) (by omega)]
          rw [this]; exact hall.values j l (by omega) hl hd hml
      · intro j l hj hl hml
        by_cases h : j = k
        · subst h
          rw [hwr.lanes l hl hml]
          unfold Group.lane; rw [hall.others (d + j) (by omega)]
        · have : (g2.lane (d + j) l) = g1.lane (d + j) l := by
            unfold Group.lane; rw [hwr.others (d + j) (by omega)]
          rw [this]; exact hall.lanes j l (by omega) hl hml

/-! ## Completion -/

theorem pred_of_preds {g g' : Group} (h : g'.preds = g.preds) (p : Nat) : g'.pred p = g.pred p := by
  simp [Group.pred, h]

theorem reg_of_regs {g g' : Group} (h : g'.regs = g.regs) (r : Nat) : g'.reg r = g.reg r := by
  simp [Group.reg, h]

/-- An instruction that writes n registers in the active lanes and goes on completes with those values. -/
theorem completes_writeVs {s : State} {c : Ctx} {i : Instr} (hi : MayIssue s c i) {d n : Nat} (hr : c.logRoom d n)
    {tg : Nat → Tag} {f : Nat → Nat → Val} {val : Nat → Nat → Val → Prop}
    (hv : ∀ j l v, j < n → l < 32 → c.act.getLsbD l = true → v.like (f j l) → val j l v)
    (he : exec i s = .next (((upto n).foldl (fun s j => s.writeV c (d + j) c.act (tg j) (f j)) s).advance c)) :
    Completes i s c (.regs c.act d n val) := by
  obtain ⟨g1, hm, hw⟩ := Mid.writeVs hi.ctxOf hi.noFailure c.act tg f d n hr
  obtain ⟨ho, g2, hg2, hsame, hst⟩ := hm.ended (code := noFault) hi (fun _ _ => rfl)
  refine ⟨_, g2, he, ho, hg2, ?_, hst⟩
  have e1 : g2.regs = g1.regs := by have := congrArg Group.regs hsame; simpa using this
  have e2 : g2.preds = c.g.preds := by
    have a := congrArg Group.preds hsame; have b := congrArg Group.preds hw.rest; simp at a b; rw [a, b]
  have e3 : g2.srctr = c.g.srctr := by
    have a := congrArg Group.srctr hsame; have b := congrArg Group.srctr hw.rest; simp at a b; rw [a, b]
  have hl : ∀ r l, g2.lane r l = g1.lane r l := by intro r l; unfold Group.lane; rw [reg_of_regs e1]
  refine ⟨?_, ?_, ?_, ?_, ?_, ?_⟩
  · have h1 := hw.rest
    unfold Group.sameButSplits at hsame
    rw [← h1, ← hsame]
  · intro r h; rw [reg_of_regs e1]; exact hw.others r h
  · intro j l hj hl' hd hml
    simp only [Effect.regs] at hml ⊢
    rw [hl]; exact hv j l _ hj hl' hml (hw.values j l hj hl' hd hml)
  · intro j l hj hl' hml
    simp only [Effect.regs] at hml ⊢
    rw [hl]; exact hw.lanes j l hj hl' hml
  · intro q l _ _
    have : ¬ (q = (Effect.regs c.act d n val).p ∧ q ≠ 7 ∧ (Effect.regs c.act d n val).lanes.getLsbD l = true) := by
      rintro ⟨a, b, _⟩; exact b a
    rw [if_neg this, pred_of_preds e2]
  · intro l _
    have : g2.sr l = c.g.sr l := by simp [Group.sr, e3]
    rw [this]; split <;> simp [Effect.regs]

/-- An instruction that ends with State.put completes with the values it puts. -/
theorem completes_put {s : State} {c : Ctx} {i : Instr} (hi : MayIssue s c i) {d : BitVec 7} (hr : c.logRoom d.toNat 1)
    {tg : Tag} {f : Nat → Val} (he : exec i s = .next (s.put c d tg f)) : Completes i s c (.reg c.act d f) := by
  refine completes_writeVs hi hr (tg := fun _ => tg) (f := fun _ => f) ?_ ?_
  · intro j l v _ _ _ h; exact h
  · rw [he]; rfl

/-- What drawing stochastic words does to the counters of a group (R308). -/
theorem drew_sr (g : Group) (m : Lanes) (x : Word) (l : Nat) (hl : l < 32) :
    ({ g with srctr := (lanesOf m).foldl (fun t l => mput t l (g.sr l + x)) g.srctr } : Group).sr l =
      if m.getLsbD l = true then g.sr l + x else g.sr l := by
  have key : ∀ (ls : List Nat) (t : Map Word),
      mgetD (ls.foldl (fun t l => mput t l (g.sr l + x)) t) l 0#32 = if l ∈ ls then g.sr l + x else mgetD t l 0#32 := by
    intro ls
    induction ls with
    | nil => intro t; simp
    | cons a r ih =>
      intro t
      rw [List.foldl_cons, ih]
      by_cases h : l = a
      · subst h; simp [mgetD_mput_same]
      · simp [h, mgetD_mput_other _ _ _ h]
  change mgetD _ l 0#32 = _
  rw [key]
  simp only [mem_lanesOf, hl, true_and]
  rfl

/-- An instruction that writes n registers in the active lanes, draws e words in each, and goes on. -/
theorem completes_putRes {s : State} {c : Ctx} {i : Instr} (hi : MayIssue s c i) {d : BitVec 7} {n e : Nat}
    (hr : c.logRoom d.toNat n) {tg : Nat → Tag} {te : BitVec 1} {rs : Map LaneRes} {val : Nat → Nat → Val → Prop}
    (ht : ∀ l < 32, trapped rs te l = none)
    (hv : ∀ j l v, j < n → l < 32 → c.act.getLsbD l = true → v.like (resWord rs j l) → val j l v)
    (he : exec i s = .next (s.putRes c d n tg te e rs)) :
    Completes i s c { Effect.regs c.act d.toNat n val with drawn := e } := by
  have hm0 : codeMask (trapped rs te) = 0#32 := codeMask_eq_zero ht
  have hgood : c.act &&& ~~~ codeMask (trapped rs te) = c.act := by
    rw [hm0, show (~~~ 0#32 : Lanes) = BitVec.allOnes 32 from by decide, BitVec.and_allOnes]
  obtain ⟨g1, hm, hw⟩ := Mid.writeVs hi.ctxOf hi.noFailure c.act tg (resWord rs) d.toNat n hr
  have hsr1 : g1.srctr = c.g.srctr := by have b := congrArg Group.srctr hw.rest; simpa using b
  have hd : ∃ g2, Mid s (((upto n).foldl (fun s j => s.writeV c (d.toNat + j) c.act (tg j) (resWord rs j)) s).drew c.gk c.act e) c g2 ∧
      ({ g2 with srctr := g1.srctr } : Group) = g1 ∧
      ∀ l < 32, g2.sr l = if c.act.getLsbD l = true then c.g.sr l + BitVec.ofNat 32 ((e + 3) / 4) else c.g.sr l := by
    unfold State.drew
    by_cases h : e = 0
    · simp only [h, if_true]
      refine ⟨g1, hm, rfl, fun l _ => ?_⟩
      have : g1.sr l = c.g.sr l := by simp [Group.sr, hsr1]
      simp [this]
    · simp only [h, if_false]
      refine ⟨_, hm.updGroup _ rfl, rfl, fun l hl => ?_⟩
      rw [drew_sr g1 c.act _ l hl]
      have : g1.sr l = c.g.sr l := by simp [Group.sr, hsr1]
      rw [this]
  obtain ⟨g2, hm2, hrest2, hsr2⟩ := hd
  obtain ⟨ho, g3, hg3, hsame, hst⟩ := hm2.ended (code := trapped rs te) hi ht
  have e1 : g3.regs = g1.regs := by
    have a := congrArg Group.regs hsame; have b := congrArg Group.regs hrest2; simp at a b; rw [a, b]
  have e2 : g3.preds = c.g.preds := by
    have a := congrArg Group.preds hsame; have b := congrArg Group.preds hrest2; have d := congrArg Group.preds hw.rest
    simp at a b d; rw [a, b, d]
  have e3 : g3.srctr = g2.srctr := by have a := congrArg Group.srctr hsame; simpa using a
  have hl : ∀ r l, g3.lane r l = g1.lane r l := by intro r l; unfold Group.lane; rw [reg_of_regs e1]
  refine ⟨_, g3, ?_, ho, hg3, ?_, hst⟩
  · rw [he]; unfold State.putRes; simp only [hgood]
  · refine ⟨?_, ?_, ?_, ?_, ?_, ?_⟩
    · have h1 := hw.rest
      unfold Group.sameButSplits at hsame
      rw [← h1, ← hrest2, ← hsame]
    · intro r h; rw [reg_of_regs e1]; exact hw.others r h
    · intro j l hj hl' hd' hml
      simp only [Effect.regs] at hml ⊢
      rw [hl]; exact hv j l _ hj hl' hml (hw.values j l hj hl' hd' hml)
    · intro j l hj hl' hml
      simp only [Effect.regs] at hml ⊢
      rw [hl]; exact hw.lanes j l hj hl' hml
    · intro q l _ _
      rw [if_neg (by rintro ⟨a, b, _⟩; exact b a), pred_of_preds e2]
    · intro l hl'
      have : g3.sr l = g2.sr l := by simp [Group.sr, e3]
      rw [this, hsr2 l hl']; rfl

/-- An instruction that writes a predicate in the active lanes, none of which faults, and goes on. -/
theorem completes_pred {s : State} {c : Ctx} {i : Instr} (hi : MayIssue s c i) {p : BitVec 3} {b : Lanes} {bits : Nat → Bool}
    {code : Nat → Option Nat} (hc : ∀ l < 32, code l = none) (hb : ∀ l < 32, b.getLsbD l = bits l)
    (he : exec i s = .next ((s.writeP c.gk p.toNat c.act b).endInstr c code)) : Completes i s c (.pred c.act p bits) := by
  have h0 : Mid s s c c.g := .refl hi.ctxOf
  have hm : ∃ g1, Mid s (s.writeP c.gk p.toNat c.act b) c g1 ∧ ({ g1 with preds := c.g.preds } : Group) = c.g ∧
      ∀ q l, q < 8 → l < 32 → (g1.pred q).getLsbD l =
        if q = p.toNat ∧ q ≠ 7 ∧ c.act.getLsbD l = true then bits l else (c.g.pred q).getLsbD l := by
    unfold State.writeP
    by_cases hz : p.toNat = 7 ∨ c.act = 0#32
    · rw [if_pos (by simpa using hz)]
      refine ⟨c.g, h0, rfl, fun q l _ _ => ?_⟩
      rw [if_neg]
      rintro ⟨a, b, e⟩
      rcases hz with hz | hz
      · exact b (a.trans hz)
      · rw [hz] at e; simp at e
    · rw [if_neg (by simpa using hz)]
      have h7 : p.toNat ≠ 7 := fun h => hz (.inl h)
      refine ⟨_, h0.updGroup _ rfl, rfl, fun q l hq hl => ?_⟩
      by_cases hqp : q = p.toNat
      · subst hqp
        have : ∀ y, ({ c.g with preds := mput c.g.preds p.toNat y } : Group).pred p.toNat = y := by
          intro y; simp [Group.pred, h7, mgetD_mput_same]
        rw [this]
        rw [BitVec.getLsbD_or, BitVec.getLsbD_and, BitVec.getLsbD_and, BitVec.getLsbD_not, hb l hl]
        cases c.act.getLsbD l <;> simp only [h7, hl, decide_true, Bool.not_true, Bool.not_false, Bool.and_true,
          Bool.and_false, Bool.or_false, Bool.false_or, Bool.false_eq_true, and_self, and_false, ne_eq, not_false_eq_true,
          if_true, if_false]
      · have : ∀ y, ({ c.g with preds := mput c.g.preds p.toNat y } : Group).pred q = c.g.pred q := by
          intro y; simp [Group.pred, mgetD_mput_other _ _ _ hqp]
        rw [this, if_neg (by rintro ⟨a, _, _⟩; exact hqp a)]
  obtain ⟨g1, hm1, hrest, hp⟩ := hm
  obtain ⟨ho, g2, hg2, hsame, hst⟩ := hm1.ended (code := code) hi hc
  have e1 : g2.regs = c.g.regs := by
    have a := congrArg Group.regs hsame; have b := congrArg Group.regs hrest; simp at a b; rw [a, b]
  have e2 : g2.preds = g1.preds := by have a := congrArg Group.preds hsame; simpa using a
  have e3 : g2.srctr = c.g.srctr := by
    have a := congrArg Group.srctr hsame; have b := congrArg Group.srctr hrest; simp at a b; rw [a, b]
  refine ⟨_, g2, he, ho, hg2, ?_, hst⟩
  refine ⟨?_, fun r _ => reg_of_regs e1 r, fun j _ hj => absurd hj (by simp [Effect.pred]),
    fun j _ hj => absurd hj (by simp [Effect.pred]), ?_, ?_⟩
  · unfold Group.sameButSplits at hsame
    rw [← hrest, ← hsame]
  · intro q l hq hl; rw [pred_of_preds e2]; exact hp q l hq hl
  · intro l _
    have : g2.sr l = c.g.sr l := by simp [Group.sr, e3]
    rw [this]; split <;> simp [Effect.pred]

/-- An instruction that writes nothing and goes on. -/
theorem completes_advance {s : State} {c : Ctx} {i : Instr} (hi : MayIssue s c i)
    (he : exec i s = .next (s.advance c)) : Completes i s c .nothing := by
  obtain ⟨ho, g2, hg2, hsame, hst⟩ := (Mid.refl hi.ctxOf).ended (code := noFault) hi (fun _ _ => rfl)
  have e1 : g2.regs = c.g.regs := by have a := congrArg Group.regs hsame; simpa using a
  have e2 : g2.preds = c.g.preds := by have a := congrArg Group.preds hsame; simpa using a
  have e3 : g2.srctr = c.g.srctr := by have a := congrArg Group.srctr hsame; simpa using a
  refine ⟨_, g2, he, ho, hg2, ?_, hst⟩
  refine ⟨?_, fun r _ => reg_of_regs e1 r, fun j _ hj => absurd hj (by simp [Effect.nothing, Effect.regs]),
    fun j _ hj => absurd hj (by simp [Effect.nothing, Effect.regs]), ?_, ?_⟩
  · unfold Group.sameButSplits at hsame
    rw [← hsame]
  · intro q l _ _
    rw [if_neg (by rintro ⟨a, b, _⟩; exact b a), pred_of_preds e2]
  · intro l _
    have : g2.sr l = c.g.sr l := by simp [Group.sr, e3]
    rw [this]; simp [Effect.nothing, Effect.regs]

end Sys2Proof.Machine
end

