-- ==== Sys2Proof/Tests/Slice0.lean ====
section
/-! SUPPORT. Tests of the model, each on one word or one step, and the witnesses: for each statement, states and operands that
meet its hypotheses. Expected results are the spec's. -/

namespace Sys2Proof.Tests

open Sys2Proof.Machine

-- The checks below run one after another: each may hold a thread of its own otherwise.
set_option Elab.async false

/-! ## Small states -/

/-- One running split of 32 lanes at word 1 of a clause of two words. -/
def split : Split := { Split.start (BitVec.allOnes 32) 1 with st := .live 0, inClause := true, clauseEnd := 2 }

/-- The launch: as assumption 30 loads one, with 128 KB of scratchpad. -/
def launch : Launch := { Launch.single 0 0x40000 with scratch := 0x20000, bankplan := 1, queue := 5 }

/-- The gang. -/
def gang : Gang :=
  { launch := 0, index := 0, st := .running, die := 0, origin := 0, w := 1, h := 1, slot := none, steps := 0, halted := false,
    free := false, rrn := 0, rrpos := 0, rrovf := false, rrdiv := false, ended := false }

/-- The context of the one group of the one workgroup. -/
def base : Ctx :=
  { gk := 0, ix := 0, sp := split, g := { Group.placed 0 0 0 0 0 0 with splits := [split] }, wk := 0,
    wg := Wg.placed launch 0 0 0 [], nk := 0, gg := gang, lk := 0, l := launch }

/-- The base context with another mode word. -/
def mode (m : BitVec 16) : Ctx := { base with g := { base.g with m := m } }

/-- A context with another split. -/
def within (c : Ctx) (p : Split) : Ctx := { c with sp := p, g := { c.g with splits := [p] } }

/-- A register of 32 equal lanes. -/
def lanesAll (x : Word) (t : Tag) : Reg := { val := List.replicate 32 x, tag := t, pois := [] }

/-- A context with register r. -/
def withReg (c : Ctx) (r : Nat) (x : Reg) : Ctx := { c with g := { c.g with regs := mput c.g.regs r x } }

/-- The state that holds a context, after reset. -/
def holding (c : Ctx) : State :=
  { State.reset with
    groups := [(c.gk, c.g)], wgs := [(c.wk, c.wg)], gangs := [(c.nk, c.gg)], launches := [(c.lk, c.l)]
    focus := some { g := c.gk, ix := 0, stall := 0, look := false } }

/-! ## When an instruction issues -/

/-- What Unheld asks, computed. -/
def unheld (s : State) (c : Ctx) (i : Instr) : Bool :=
  decide (s.ctx = some c) && decide (c.sp.mask ≠ 0#32) && decide (c.sp.st = .live 0) &&
  (mget? s.stops (c.g.core * 4 + c.g.sched)).isNone && !c.gg.halted && decide (c.gg.st = .running) && c.sp.busy.isNone &&
  c.wg.failing.isNone && s.edge c.g.core && decide (c.sp.wait = 0#12) && !c.g.pendingOn (regNums (regsOf c.g.m i)) &&
  !c.g.acquiring c.sp.mask && decide (s.power.duty = 8 ∧ s.power.applied = [])

/-- What MayIssue asks, computed. -/
def may (s : State) (c : Ctx) (i : Instr) : Bool :=
  unheld s c i && i.wf && c.encoded i && c.sp.inClause && (!lastOnly i || c.sp.pc + 1 == c.sp.clauseEnd) &&
  (!isGroup i || decide (c.sp.mask = c.g.present ∧ c.act = c.g.present)) && (regNums (regsOf c.g.m i)).all (· < c.budget) &&
  (tilesOf i).all (· < c.l.tiles)

theorem unheld_of {s : State} {c : Ctx} {i : Instr} (h : unheld s c i = true) : Unheld s c i := by
  simp only [unheld, Bool.and_eq_true, decide_eq_true_eq, Bool.not_eq_true'] at h
  obtain ⟨⟨⟨⟨⟨⟨⟨⟨⟨⟨⟨⟨h1, h2⟩, h3⟩, h4⟩, h5⟩, h6⟩, h7⟩, h8⟩, h9⟩, h10⟩, h11⟩, h12⟩, h13⟩ := h
  exact { ctx := h1, lanes := h2, live := ⟨0, h3⟩, noStop := by simpa using h4, noHalt := h5, noSave := by simp [h6],
          notBusy := by simpa using h7, noFailure := by simpa using h8, clocked := h9, waited := by simp [h10],
          noDelayed := .inl h10, noPending := fun _ => h11, noAcquire := fun _ => h12, fullDuty := h13 }

theorem may_of {s : State} {c : Ctx} {i : Instr} (h : may s c i = true) : MayIssue s c i := by
  simp only [may, Bool.and_eq_true, decide_eq_true_eq, Bool.or_eq_true, Bool.not_eq_true', beq_iff_eq, List.all_eq_true] at h
  obtain ⟨⟨⟨⟨⟨⟨⟨h1, h2⟩, h8⟩, h3⟩, h4⟩, h5⟩, h6⟩, h7⟩ := h
  exact { toUnheld := unheld_of h1, place := { wf := h2, encoded := h8, inClause := h3, lastWord := fun h => by simpa [h] using h4 },
          converged := fun h => by simpa [h] using h5, budget := ⟨h6, h7⟩ }

theorem may_all {s : State} {c : Ctx} {is : List Instr} (h : is.all (may s c) = true) : ∀ i ∈ is, MayIssue s c i :=
  fun i hi => may_of (List.all_eq_true.mp h i hi)

/-! ## Witnesses: vector instructions -/

theorem witness_IntegerArithmetic :
    ((∃ f, (.vadd 3 4 5, [4, 5], f) ∈ integerRows 3 4 5 9 (tyWidth (tyOf (mode 0xA0).g.m))) ∧
      MayIssue (holding (mode 0xA0)) (mode 0xA0) (.vadd 3 4 5) ∧ tyOf (mode 0xA0).g.m ≤ 5 ∧ (mode 0xA0).logRoom 3 1) ∧
    (MayIssue (holding (mode 0x80)) (mode 0x80) (.vdot4 127 4 5) ∧ tyOf (mode 0x80).g.m = 4 ∧ (mode 0x80).logRoom 127 1) ∧
    (MayIssue (holding (mode 0x60)) (mode 0x60) (.vdot4 3 4 5) ∧ tyOf (mode 0x60).g.m ≠ 4 ∧ tyOf (mode 0x60).g.m ≠ 5) :=
  ⟨⟨⟨_, .head _⟩, may_of (by decide +kernel), by decide, .inl rfl⟩, ⟨may_of (by decide +kernel), by decide, .inl rfl⟩,
    may_of (by decide +kernel), by decide, by decide⟩

theorem witness_WordOperations :
    (∃ R, (.vand 3 4 5, [4, 5], R) ∈ wordRows 3 4 5 9 31 (tyOf base.g.m == 0)) ∧
      MayIssue (holding base) base (.vand 3 4 5) ∧ base.logRoom 3 1 :=
  ⟨⟨_, .head _⟩, may_of (by decide +kernel), .inl rfl⟩

theorem witness_MovesConstantsAndPacking :
    (base.logRoom 3 1 ∧
      ∀ i ∈ [Instr.vmov 3 4, .vtag 3 4, .vmovi 3 0x20000, .vlui 3 0x3FFFF, .vaff 3 4 0x400, .vsel 3 4 1 7 5],
        MayIssue (holding base) base i) ∧
    (2 ≤ tyOf (mode 0x40).g.m ∧ tyOf (mode 0x40).g.m ≤ 5 ∧ MayIssue (holding (mode 0x40)) (mode 0x40) (.vpack 3 4 5) ∧
      (mode 0x40).logRoom 3 1) ∧
    (2 ≤ tyOf (mode 0xA0).g.m ∧ tyOf (mode 0xA0).g.m ≤ 5 ∧ MayIssue (holding (mode 0xA0)) (mode 0xA0) (.vunpk 126 4) ∧
      (mode 0xA0).logRoom 126 2) :=
  ⟨⟨.inl rfl, may_all (by decide +kernel)⟩,
   ⟨by decide, by decide, may_of (by decide +kernel), .inl rfl⟩, by decide, by decide, may_of (by decide +kernel), .inl rfl⟩

theorem witness_LaneMovesAndReductions :
    (base.logRoom 3 1 ∧ base.opLane = some 0 ∧ MayIssue (holding base) base (.vbcast 3 4 5) ∧
      MayIssue (holding base) base (.vshfl 3 4 5) ∧ MayIssue (holding base) base (.vshfx 3 4 5)) ∧
    (reductionMode base.g.m 0 ∧ MayIssue (holding base) base (.vred 3 4 0) ∧ reductionMode (mode 0x100).g.m 6 ∧
      MayIssue (holding (mode 0x100)) (mode 0x100) (.vscan 3 4 1 6)) :=
  ⟨⟨.inl rfl, by decide +kernel, may_of (by decide +kernel), may_of (by decide +kernel), may_of (by decide +kernel)⟩,
   .inl (by decide), may_of (by decide +kernel), .inr (.inr (by decide)), may_of (by decide +kernel)⟩

theorem witness_PredicateResults :
    MayIssue (holding base) base (.pand 7 1 7) ∧ MayIssue (holding base) base (.por 0 1 2) ∧
    MayIssue (holding base) base (.pxor 0 1 2) ∧ MayIssue (holding base) base (.pnot 0 1) ∧
    (MayIssue (holding base) base (.ballot 3 1) ∧ base.logRoom 3 1) ∧
    (MayIssue (holding base) base (.pmask 1 4) ∧ ∀ l < 32, base.act.getLsbD l = true → (base.src 4 l).p = none) ∧
    (MayIssue (holding (mode 0x20)) (mode 0x20) (.vcmp 1 4 5 5) ∧ tyOf (mode 0x20).g.m ≤ 1 ∧
      ∀ l < 32, (mode 0x20).act.getLsbD l = true → ((mode 0x20).src 4 l).p = none ∧ ((mode 0x20).src 5 l).p = none) ∧
    (MayIssue (holding base) base (.vcmpi 0 1 4 0x400) ∧ tyOf base.g.m ≤ 1) ∧
    (MayIssue (holding (mode 0xC0)) (mode 0xC0) (.vfcmp 1 4 5 7) ∧ tyOf (mode 0xC0).g.m = 6 ∧
      ∀ l < 32, (mode 0xC0).act.getLsbD l = true → ((mode 0xC0).src 4 l).p = none ∧ ((mode 0xC0).src 5 l).p = none) := by
  refine ⟨may_of ?_, may_of ?_, may_of ?_, may_of ?_, ⟨may_of ?_, .inl rfl⟩, ⟨may_of ?_, ?_⟩, ⟨may_of ?_, ?_, ?_⟩,
    ⟨may_of ?_, ?_⟩, may_of ?_, ?_, ?_⟩ <;> decide +kernel

theorem witness_SpecialValues :
    ((∃ f, (0, 1, f) ∈ specialRows (holding base) base) ∧ MayIssue (holding base) base (.vspr 3 0) ∧ base.logRoom 3 1) ∧
    ((∃ f, (5, 2, f) ∈ specialRows (holding base) base) ∧ MayIssue (holding base) base (.vspr 126 5) ∧ base.logRoom 126 2) ∧
    (MayIssue (holding base) base (.getm 3) ∧ base.logRoom 3 1) ∧
    (MayIssue (holding base) base (.vrand 4 2) ∧ base.logRoom 4 (2 ^ 2)) :=
  ⟨⟨⟨_, by simp [specialRows]; exact rfl⟩, may_of (by decide +kernel), .inl rfl⟩,
   ⟨⟨_, by simp [specialRows]; exact rfl⟩, may_of (by decide +kernel), .inl rfl⟩, ⟨may_of (by decide +kernel), .inl rfl⟩,
   may_of (by decide +kernel), .inl rfl⟩

theorem witness_FloatArithmetic :
    (6 ≤ tyOf (mode 0xC0).g.m ∧ tyOf (mode 0xC0).g.m ≤ 8 ∧ (mode 0xC0).logRoom 3 1) ∧
    (∃ f, (.vfadd 3 4 5 0, [4, 5], f, true) ∈ floatRows 3 4 5 0 (rndOf (mode 0xC0).g.m) ∧
      MayIssue (holding (mode 0xC0)) (mode 0xC0) (.vfadd 3 4 5 0) ∧
      (mode 0xC0).noEvent 0 (fun l e => if true then (mode 0xC0).drawnWord l e else 0) [4, 5] f) ∧
    (6 ≤ tyOf (mode 0x100).g.m ∧ tyOf (mode 0x100).g.m ≤ 8 ∧ MayIssue (holding (mode 0x100)) (mode 0x100) (.vfrnd 3 4 0)) :=
  ⟨⟨by decide, by decide, .inl rfl⟩, ⟨_, .head _, may_of (by decide +kernel), .inl rfl⟩, by decide, by decide,
   may_of (by decide +kernel)⟩

theorem witness_LongFloatArithmetic :
    (6 ≤ tyOf (mode 0xC0).g.m ∧ tyOf (mode 0xC0).g.m ≤ 8 ∧ (mode 0xC0).act ≠ 0#32 ∧
      (mode 0xC0).g.flagFull (mode 0xC0).sp.setA = false) ∧
    (∃ f, (.vfdiv 3 4 5 0, [4, 5], f) ∈ longRows 3 4 5 0 ∧ MayIssue (holding (mode 0xC0)) (mode 0xC0) (.vfdiv 3 4 5 0) ∧
      (mode 0xC0).noEvent 0 (mode 0xC0).drawnWord [4, 5] f) ∧
    (∃ f, (.vrcp 3 4 0, f) ∈ specialFunctionRows 3 4 0) ∧ MayIssue (holding (mode 0xC0)) (mode 0xC0) (.vrcp 3 4 0) :=
  ⟨⟨by decide, by decide, by decide +kernel, by decide⟩, ⟨_, .head _, may_of (by decide +kernel), .inl rfl⟩, ⟨_, .head _⟩,
   may_of (by decide +kernel)⟩

/-- Packed bytes to one word: a source of one register, a target of four. -/
theorem witness_Conversion :
    MayIssue (holding (mode 0x80)) (mode 0x80) (.vcvt 4 4 0 0) ∧ tyOf (mode 0x80).g.m ≤ 9 ∧
    4 % cvtSrc (tyOf (mode 0x80).g.m) 0 = 0 ∧ 4 % cvtDst (tyOf (mode 0x80).g.m) 0 = 0 ∧
    (mode 0x80).logRoom 4 (cvtDst (tyOf (mode 0x80).g.m) 0) :=
  ⟨may_of (by decide +kernel), by decide, by decide, by decide, .inl rfl⟩

/-- The launch with format slot 1 as BQ4 operands and an F32 scale. -/
def slotted : Ctx := { mode 0xC0 with l := { launch with slots := [0#64, 0x44#64] } }

theorem witness_Quantisation :
    (MayIssue (holding (mode 0xC0)) (mode 0xC0) (.vamax 3 4 2) ∧ 6 ≤ tyOf (mode 0xC0).g.m ∧ tyOf (mode 0xC0).g.m ≤ 9 ∧
      (mode 0xC0).logRoom 3 1) ∧
    ((b64 (slotted.slot 1) 4 0, 7) ∈ [(1, 1), (2, 1), (3, 3), (4, 7), (5, 15), (6, 31), (7, 63), (8, 127), (9, 255), (10, 448)] ∧
      MayIssue (holding slotted) slotted (.vscl 3 4 1 0) ∧ slotted.logRoom 3 1) ∧
    (MayIssue (holding slotted) slotted (.vcvtn 4 8 1 0) ∧ 1 ≤ b64 (slotted.slot 1) 4 0 ∧ b64 (slotted.slot 1) 4 0 ≤ 9 ∧
      (slotted.g.reg 5).tag = .U ∧ slotted.logRoom 4 2) :=
  ⟨⟨may_of (by decide +kernel), by decide, by decide, .inl rfl⟩, ⟨by decide, may_of (by decide +kernel), .inl rfl⟩,
   may_of (by decide +kernel), by decide, by decide, by decide, .inl rfl⟩

/-- A register with every lane poisoned. -/
def poisoned : Reg := { lanesAll 0 .U with pois := (List.range 32).map (fun l => (l, 5#12)) }

/-- The poisoned register 4, in mode F32. -/
def bad : Ctx := withReg (mode 0xC0) 4 poisoned

/-- A signalling operand: infinity minus infinity is invalid in every lane. -/
def invalid : Ctx := withReg (withReg (mode 0xC0) 4 (lanesAll 0x7F800000 .U)) 5 (lanesAll 0xFF800000 .U)

theorem witness_DataFaults :
    (MayIssue (holding (withReg base 4 poisoned)) (withReg base 4 poisoned) (.pmask 1 4) ∧
      (withReg base 4 poisoned).wg.blocks = [] ∧ (withReg base 4 poisoned).act = (withReg base 4 poisoned).sp.mask ∧
      ∀ l < 32, ((withReg base 4 poisoned).src 4 l).p.isSome = true) ∧
    (MayIssue (holding bad) bad (.vfcmp 1 4 5 0) ∧ tyOf bad.g.m = 6 ∧ bad.act = bad.sp.mask ∧
      ∀ l < 32, (bad.src 4 l).p.isSome = true) ∧
    (∃ f, (.vfadd 3 4 5 1, [4, 5], f, true) ∈ floatRows 3 4 5 1#1 (rndOf invalid.g.m) ∧
      MayIssue (holding invalid) invalid (.vfadd 3 4 5 1) ∧ 6 ≤ tyOf invalid.g.m ∧ tyOf invalid.g.m ≤ 8 ∧
      invalid.wg.blocks = [] ∧ invalid.act = invalid.sp.mask ∧
      ∀ l < 32, (floatElement invalid.g.m (fun e => invalid.drawnWord l e) f
        (fun k => ([4#7, 5#7].map (fun r => (invalid.src r l).w)).getD k 0#32) 0).ev = true) :=
  ⟨⟨may_of (by decide +kernel), rfl, by decide +kernel, by decide +kernel⟩,
   ⟨may_of (by decide +kernel), by decide, by decide +kernel, by decide +kernel⟩,
   _, .head _, may_of (by decide +kernel), by decide, by decide, rfl, by decide +kernel, by decide +kernel⟩

/-! ## Witnesses: clauses, control and recovery -/

/-- The base split at a clause boundary. -/
def boundary : Ctx := within base { split with inClause := false }

/-- A second, ready split of the upper 16 lanes beside one of the lower 16. -/
def two (p q : Split) : Ctx :=
  { base with sp := { p with mask := 0xFFFF#32 }
              g := { base.g with splits := [{ p with mask := 0xFFFF#32 }, { q with mask := 0xFFFF0000#32 }] } }

/-- A context beside a second group of the workgroup, which runs. -/
def paired (c : Ctx) : State := { holding c with groups := [(0, c.g), (1, Group.placed 0 1 0 1 0 0)] }

theorem witness_ClauseStartNopAndYield :
    ((holding boundary).ctx = some boundary ∧ boundary.sp.inClause = false ∧ (Instr.clause 0x800 0 11 15 1).wf = true) ∧
    ((Instr.clause 0 15 14 1 0).wf = false ∧ (holding base).ctx = some base ∧ base.sp.inClause = true ∧
      ∀ c ∈ [boundary, base], c.wg.failing = none ∧ c.sp.wait = 0#12) ∧
    MayIssue (holding base) base .nop ∧
    (MayIssue (holding (two split { split with st := .ready })) (two split { split with st := .ready }) .yield ∧
      nextReady (two split { split with st := .ready }).g.splits (some 0) = some 1) :=
  ⟨⟨by decide +kernel, rfl, by decide⟩, by decide +kernel, may_of (by decide +kernel), may_of (by decide +kernel), by decide +kernel⟩

/-- The 128 bytes of a line of words. -/
def line (ws : List Nat) : BitVec 1024 := BitVec.ofNat 1024 (ws.zipIdx.foldl (fun a e => a + e.1 * 2 ^ (32 * e.2)) 0)

/-- The memory of assumption 30, with the translations of its two lowest code and data pages at hand. -/
def pages : MemSys :=
  { State.reset.loadTables.mm with
    tlb := [(tlbKey 1 0x40000, { base := 0x40000, w := true, x := true }), (tlbKey 1 0x50000, { base := 0x50000, w := true, x := true })] }

/-- The state that holds a context whose code starts with the words ws. -/
def coded (c : Ctx) (ws : List Nat) : State :=
  { holding c with mm := { pages with icache := [(copyKey 0 0x800, line ws)] }, regs := [(0x21, 0x10001#64)] }

/-- Clause headers. -/
def headers (n : Nat) : List Nat := List.replicate n 0xFE001FE2

theorem witness_Branches :
    (MayIssue (coded base (headers 32)) base (.bra 5) ∧ base.logRoom 1 1 ∧ (∀ l < 32, base.act.getLsbD l = true) ∧
      HeaderAt (coded base (headers 32)) base 6) ∧
    (MayIssue (holding base) base (.bra (-5)) ∧ base.act = base.sp.mask ∧
      ¬ (0 ≤ (base.sp.pc : Int) + (-5#22).toInt ∧ (base.sp.pc : Int) + (-5#22).toInt < 2 ^ 22)) ∧
    (MayIssue (coded base [0, 0, 0, 0x0C000002]) base (.bra 2) ∧
      (coded base [0, 0, 0, 0x0C000002]).fetch base 3 = (.inr 0x0C000002#32, coded base [0, 0, 0, 0x0C000002]) ∧
      isHeader 0x0C000002#32 = false) ∧
    (let c := withReg base 4 (lanesAll 0x400000 .U)
     MayIssue (holding c) c (.ret 4) ∧ c.act = c.sp.mask ∧ (∀ l < 32, (c.src 4 l).p = none) ∧
       ∀ l < 32, c.act.getLsbD l = true ∧ ¬ ((c.src 4 l).w.toNat : Int) < 2 ^ 22) ∧
    (let c := withReg base 4 (lanesAll 3 .U)
     MayIssue (coded c [0, 0, 0, 0x0C000002]) c (.callx 4) ∧ (∀ l < 32, (c.src 4 l).w.toNat = 3) ∧
       (coded c [0, 0, 0, 0x0C000002]).fetch c 3 = (.inr 0x0C000002#32, coded c [0, 0, 0, 0x0C000002])) ∧
    (MayIssue (holding (withReg base 4 poisoned)) (withReg base 4 poisoned) (.brx 4) ∧
      MayIssue (holding (withReg base 4 poisoned)) (withReg base 4 poisoned) (.ret 4) ∧
      MayIssue (holding (withReg base 4 poisoned)) (withReg base 4 poisoned) (.callx 4) ∧
      ∀ l < 32, (withReg base 4 poisoned).act.getLsbD l = true → ((withReg base 4 poisoned).src 4 l).p.isSome = true) :=
  ⟨⟨may_of (by decide +kernel), .inl rfl, by decide +kernel, 0xFE001FE2#32, by decide +kernel, by decide⟩,
   ⟨may_of (by decide +kernel), by decide +kernel, by decide⟩, ⟨may_of (by decide +kernel), by decide +kernel, by decide⟩,
   ⟨may_of (by decide +kernel), by decide +kernel⟩, ⟨may_of (by decide +kernel), by decide +kernel⟩,
   may_of (by decide +kernel), may_of (by decide +kernel), may_of (by decide +kernel), by decide +kernel⟩

/-- Two table words after word 1, and headers. -/
def tables : State := coded base ([0, 0, 8, 0x10008] ++ headers 28)

/-- V4 = 0 selects the first table word; V5 = 7 none. -/
theorem witness_TableBranches :
    tables.tableWords base 2 = (.inr [8#32, 0x10008#32], tables) ∧ HeaderAt tables base 10 ∧
    MayIssue tables base (.jtab 4 2) ∧ MayIssue tables base (.switch 4 2) ∧
    (∀ l < 32, base.act.getLsbD l = true ∧ (base.src 4 l).p = none ∧ (base.src 4 l).w = 0#32) ∧
    (MayIssue { tables with groups := [(0, (withReg base 4 (lanesAll 7 .U)).g)] } (withReg base 4 (lanesAll 7 .U)) (.jtab 4 2) ∧
      ∀ l < 32, ((withReg base 4 (lanesAll 7 .U)).src 4 l).w = 7#32) :=
  ⟨by decide +kernel, ⟨0xFE001FE2#32, by decide +kernel, by decide⟩, may_of (by decide +kernel), may_of (by decide +kernel),
   by decide +kernel, may_of (by decide +kernel), by decide +kernel⟩

/-- A block in its routine whose terminator is word 1. -/
def routine : Block :=
  { term := 1, cycles := 0, limit := 0, inTest := false, elseerr := 9, frames := [], log := [], pushes0 := 0, dirty0 := [] }

/-- A context inside an open block. -/
def inBlock (c : Ctx) (b : Block) : Ctx := { c with wg := { c.wg with blocks := [b] } }

theorem witness_JoinAndExit :
    (MayIssue (holding (two split { split with st := .ready })) (two split { split with st := .ready }) .join ∧
      (two split { split with st := .ready }).otherRuns) ∧
    (MayIssue (holding base) base .join ∧ base.g.splits = [base.sp]) ∧
    MayIssue (holding (two split { split with st := .waiting .join })) (two split { split with st := .waiting .join }) .join ∧
    (MayIssue (holding (mode 1)) (mode 1) .exit ∧ (mode 1).act = 0#32) ∧
    (MayIssue (holding (inBlock base routine)) (inBlock base routine) .exit ∧ (inBlock base routine).act ≠ 0#32) ∧
    (MayIssue (paired base) base .exit ∧ base.act ≠ 0#32 ∧ base.g.watching = false ∧ base.g.struck = false ∧ base.wg.conv = none ∧
      (1, Group.placed 0 1 0 1 0 0) ∈ (paired base).groups ∧ ∃ q ∈ (Group.placed 0 1 0 1 0 0).splits, ∀ w, q.st ≠ .waiting w) :=
  ⟨⟨may_of (by decide +kernel), 1, _, by decide, rfl, by intro w h; cases h⟩, ⟨may_of (by decide +kernel), rfl⟩,
   may_of (by decide +kernel), ⟨may_of (by decide +kernel), by decide +kernel⟩,
   ⟨may_of (by decide +kernel), by decide +kernel⟩, may_of (by decide +kernel), by decide +kernel, by decide +kernel,
   by decide +kernel, rfl, by decide +kernel, _, .head _, by intro w h; cases h⟩

/-- The workgroup in a conversation of workgroups 0 and 1. -/
def joined : Ctx := { base with wg := { base.wg with conv := some 3 } }

theorem witness_EnsureAndBlockWords :
    (MayIssue (holding base) base (.ensure 4 0x3FFFF) ∧ base.sp.pc + 0x3FFFF < 2 ^ 22 ∧
      (∀ l < 32, base.sp.mask.getLsbD l = true → (base.src 4 l).p = none) ∧ base.tag 4 = .U ∧ (∀ f < 12, base.g.flag f = 0) ∧
      base.wg.dirty = [] ∧ base.wg.ensureEnd = none ∧ base.g.splits = [base.sp]) ∧
    (MayIssue (holding (withReg base 4 (lanesAll 0 .G))) (withReg base 4 (lanesAll 0 .G)) (.ensure 4 1) ∧
      (withReg base 4 (lanesAll 0 .G)).tag 4 ≠ .U ∧
      ∀ l < 32, ((withReg base 4 (lanesAll 0 .G)).src 4 l).p = none) ∧
    (MayIssue (holding (inBlock base routine)) (inBlock base routine) (.elseby 1) ∧ routine.inTest = false ∧
      routine.term = (inBlock base routine).sp.pc) ∧
    (MayIssue (holding base) base .elseerr ∧ MayIssue (holding base) base (.accept 7) ∧ base.wg.blocks = []) ∧
    MayIssue (holding (inBlock base routine)) (inBlock base routine) (.accept 7) ∧
    (MayIssue (holding (inBlock base routine)) (inBlock base routine) .reject ∧ (inBlock base routine).act ≠ 0#32) ∧
    MayIssue (holding base) base .reject ∧ (MayIssue (holding base) base .convl ∧ base.wg.conv = none) ∧
    MayIssue (holding (inBlock base routine)) (inBlock base routine) .convl ∧
    (MayIssue (paired joined) joined .convl ∧ joined.wg.blocks = [] ∧ joined.wg.conv ≠ none ∧
      (1, Group.placed 0 1 0 1 0 0) ∈ (paired joined).groups ∧ (Group.placed 0 1 0 1 0 0).splits ≠ [] ∧
      (Group.placed 0 1 0 1 0 0).k ≠ joined.g.k ∧ (Group.placed 0 1 0 1 0 0).k ∉ joined.wg.convl) ∧
    (MayIssue (holding joined) joined .convl ∧ (∀ h ∈ (holding joined).groups, h.2.k = joined.g.k) ∧
      ∀ h ∈ (holding joined).groups, h.2.wg = joined.wk) :=
  ⟨⟨may_of (by decide +kernel), by decide, by decide +kernel, by decide, by decide, rfl, rfl, rfl⟩,
   ⟨may_of (by decide +kernel), by decide, by decide +kernel⟩, ⟨may_of (by decide +kernel), rfl, rfl⟩,
   ⟨may_of (by decide +kernel), may_of (by decide +kernel), rfl⟩, may_of (by decide +kernel),
   ⟨may_of (by decide +kernel), by decide +kernel⟩, may_of (by decide +kernel), ⟨may_of (by decide +kernel), rfl⟩,
   may_of (by decide +kernel),
   ⟨may_of (by decide +kernel), rfl, by decide, by decide +kernel, by decide, by decide, by decide⟩,
   may_of (by decide +kernel), by decide +kernel, by decide +kernel⟩

/-- The acceptance test of the block. -/
def testing : Ctx := inBlock base { routine with inTest := true }

/-- V2, V3 hold the flat address 0x50000 of a conversation block. -/
def member : Ctx := { withReg base 2 (lanesAll 0x50000 .U) with gg := { gang with w := 2 } }

/-- Memory with the conversation block at 0x50000 held by core 0: member mask x. -/
def conversation (x : Byte) : State :=
  { holding member with
    mm := { pages with
      bytes := memPut pages.bytes 0x50000 x, lines := [(0xA00, { Line.fresh with owner := some 0 })], held := [copyKey 0 0xA00] }
    regs := [(0x21, 0x10001#64)] }

/-- The one part of the conversation block's read. -/
def blockParts : List Access := match ((conversation 3).formAccess member 0 2 64 .conv 0).1 with
  | .inr ps => ps
  | .inl _ => []

theorem witness_AcceptAndConversationJoin :
    (MayIssue (paired testing) testing (.accept 7) ∧ testing.wg.blocks = [{ routine with inTest := true }] ∧
      testing.wg.dirty = [] ∧ testing.g.splits = [testing.sp] ∧ testing.wg.conv = none ∧ (1, Group.placed 0 1 0 1 0 0) ∈ (paired testing).groups) ∧
    (MayIssue (holding testing) testing (.accept 7) ∧ testing.wg.conv = none ∧ testing.wg.pushes = [] ∧
      (∀ e ∈ (holding testing).groups, e.2.wg = testing.wk → e.1 = testing.gk) ∧ (holding testing).groups.length = 1 ∧
      ∀ l < 32, testing.sp.mask.getLsbD l = true → (testing.g.pred 7).getLsbD l = true) ∧
    (∀ x ∈ [3#8, 1#8], MayIssue (conversation x) member (.convj 2 0) ∧
      (conversation x).formAccess member 0 2 64 .conv member.g.low = (.inr blockParts, conversation x) ∧
      (∀ a ∈ blockParts, a.path = 0 ∨ a.path = 1 ∨ a.path = 4) ∧ (conversation x).stale member.l = false ∧
      (conversation x).readParts 0 blockParts = (x.toNat, none, conversation x) ∧ (∀ e ∈ (conversation x).groups, e.2.conv = none) ∧
      (∀ e ∈ (conversation x).wgs, e.2.conv = none) ∧ (conversation x).passing member.wk = false) ∧
    (2 ≤ ((List.range 24).filter (fun k => (3#24).getLsbD k)).length ∧ (3#24).getLsbD member.wg.k = true ∧
      3 < 2 ^ (member.gg.w * member.gg.h) ∧ ((List.range 24).filter (fun k => (1#24).getLsbD k)).length < 2) := by
  refine ⟨⟨may_of (by decide +kernel), rfl, rfl, rfl, rfl, by decide +kernel⟩,
    ⟨may_of (by decide +kernel), rfl, rfl, by decide +kernel, rfl, by decide +kernel⟩, ?_, by decide, by decide, by decide, by decide⟩
  intro x hx
  rcases (by simpa using hx : x = 3#8 ∨ x = 1#8) with rfl | rfl <;>
    exact ⟨may_of (by decide +kernel), by decide +kernel⟩

theorem witness_SetMode :
    (MayIssue (holding base) base (.setm 0x2B3F) ∧ base.act ≠ 0#32 ∧ 0x2B3F / 32 % 16 ≤ 9 ∧ 0x2B3F / 512 % 8 ≤ 5 ∧ 0x2B3F < 2 ^ 14) ∧
    (MayIssue (holding base) base (.setm 0x4000) ∧ ¬ (0x4000 / 32 % 16 ≤ 9 ∧ 0x4000 / 512 % 8 ≤ 5 ∧ 0x4000 < 2 ^ 14)) ∧
    (MayIssue (holding base) base (.setmRegister 4) ∧ base.opLane = some 0 ∧ (base.src 4 0).p = none) ∧
    (MayIssue (holding (mode 1)) (mode 1) (.setm 0) ∧ MayIssue (holding (mode 1)) (mode 1) (.setmRegister 4) ∧ (mode 1).act = 0#32) ∧
    (MayIssue (holding (withReg base 4 poisoned)) (withReg base 4 poisoned) (.setmRegister 4) ∧
      (withReg base 4 poisoned).opLane = some 0 ∧ ((withReg base 4 poisoned).src 4 0).p.isSome = true) :=
  ⟨⟨may_of (by decide +kernel), by decide +kernel, by decide, by decide, by decide⟩, ⟨may_of (by decide +kernel), by decide⟩,
   ⟨may_of (by decide +kernel), by decide +kernel, by decide +kernel⟩,
   ⟨may_of (by decide +kernel), may_of (by decide +kernel), by decide +kernel⟩,
   may_of (by decide +kernel), by decide +kernel, by decide +kernel⟩

/-! ## Witnesses: faults -/

/-- A context of the state that holds it. -/
theorem ctxOf_holding {c : Ctx} (h : (c.g.splits[c.ix]? = some c.sp ∧ c.wk = c.g.wg ∧ c.nk = c.wg.gang) ∧ c.lk = c.gg.launch) :
    CtxOf (holding c) c :=
  { group := by simp [holding, mget?], split := h.1.1, wgKey := h.1.2.1, wg := by simp [holding, mget?], nk := h.1.2.2,
    gang := by simp [holding, mget?], lk := h.2, launch := by simp [holding, mget?] }

/-- The base context with a budget of 8 registers. -/
def small : Ctx := { base with l := { launch with repi := 8 } }

theorem witness_IssueChecks :
    (Unheld (holding boundary) boundary .nop ∧ ¬ LegalPlace boundary .nop) ∧
    (Unheld (holding base) base (.setm 0x8000) → True) ∧
    (Unheld (holding (mode 1)) (mode 1) (.ensure 4 1) ∧ LegalPlace (mode 1) (.ensure 4 1) ∧ ¬ Converges (mode 1) (.ensure 4 1)) ∧
    (Unheld (holding small) small (.vmov 7 8) ∧ LegalPlace small (.vmov 7 8) ∧ Converges small (.vmov 7 8) ∧
      ¬ InBudget small (.vmov 7 8)) ∧
    (encode .nop).isSome = true ∧ (encode (.ensure 4 1)).isSome = true ∧ (encode (.vmov 7 8)).isSome = true := by
  refine ⟨⟨unheld_of (by decide +kernel), fun h => absurd h.inClause (by decide)⟩, fun _ => trivial,
    ⟨unheld_of (by decide +kernel), ⟨by decide, by decide, by decide, by decide⟩, fun h => absurd (h (by decide)) (by decide +kernel)⟩,
    ⟨unheld_of (by decide +kernel), ⟨by decide, by decide, by decide, by decide⟩, fun h => absurd h (by decide), fun h => ?_⟩,
    by decide, by decide, by decide⟩
  exact absurd (h.1 8 (by decide)) (by decide)

/-- The last word of the code space, with the fault entry at word 9. -/
def trapping : Ctx := within { base with l := { launch with faulten := true, faultoff := 9 } } { split with pc := 2 ^ 22 - 1 }

/-- A split in its fault entry, to return to word 0. -/
def handling : Ctx := within trapping { split with handler := true, ret := 0 }

theorem witness_FaultEntryAndFaultedSplit :
    (CtxOf (holding trapping) trapping ∧ trapping.sp.st = .live 0 ∧ trapping.sp.mask ≠ 0#32 ∧ trapping.wg.blocks = [] ∧
      trapping.l.faulten = true ∧ trapping.sp.handler = false ∧ trapping.sp.pc < 2 ^ 22) ∧
    (CtxOf (holding base) base ∧ base.sp.st = .live 0 ∧ base.sp.mask ≠ 0#32 ∧ base.wg.blocks = [] ∧ base.l.faulten = false) ∧
    (CtxOf (holding handling) handling ∧ handling.sp.st = .live 0 ∧ handling.wg.blocks = [] ∧ handling.sp.handler = true) :=
  ⟨⟨ctxOf_holding (by decide), rfl, by decide, rfl, rfl, rfl, by decide⟩,
   ⟨ctxOf_holding (by decide), rfl, by decide, rfl, rfl⟩, ctxOf_holding (by decide), rfl, rfl, rfl⟩

theorem witness_BlockFaultsAndFailure :
    (CtxOf (holding testing) testing ∧ testing.sp.mask ≠ 0#32 ∧ testing.wg.blocks ≠ []) ∧
    (mget? (holding testing).wgs 0 = some testing.wg ∧ testing.wg.failing = none ∧ testing.wg.conv = none) :=
  ⟨⟨ctxOf_holding (by decide), by decide, by decide⟩, by decide, rfl, rfl⟩

/-- The fault entry on, predicate 0 true in the lower lanes and the guard on. -/
def partly (c : Ctx) : Ctx :=
  { c with l := { launch with faulten := true }, g := { c.g with m := 1, preds := [(0, 0xFFFF#32)] } }

/-- The state with the debugger on. -/
def debugging (s : State) : State := { s with regs := [(0x29, 0x8000000000000000#64)] }

theorem witness_TrapAndBreakpoint :
    (MayIssue (holding (mode 1)) (mode 1) (.trap 0) ∧ MayIssue (holding (mode 1)) (mode 1) (.bkpt 0) ∧ (mode 1).act = 0#32) ∧
    (MayIssue (holding (partly base)) (partly base) (.trap 0xFFFF) ∧ MayIssue (holding (partly base)) (partly base) (.bkpt 7) ∧
      (partly base).act = 0xFFFF#32 ∧ (holding (partly base)).fld 0x29 63 63 = 0 ∧ (partly base).wg.blocks = [] ∧
      (partly base).l.faulten = true ∧ (partly base).sp.handler = false) ∧
    (MayIssue (debugging (holding base)) base (.bkpt 7) ∧ base.act ≠ 0#32 ∧ (debugging (holding base)).fld 0x29 63 63 = 1) :=
  ⟨⟨may_of (by decide +kernel), may_of (by decide +kernel), by decide +kernel⟩,
   ⟨may_of (by decide +kernel), may_of (by decide +kernel), by decide +kernel, by decide +kernel, rfl, rfl, rfl⟩,
   may_of (by decide +kernel), by decide +kernel, by decide +kernel⟩

theorem witness_ReturnFromFault :
    (MayIssue (holding base) base .eret ∧ MayIssue (holding base) base .eretSkip ∧ base.sp.handler = false) ∧
    (MayIssue (holding (partly handling)) (partly handling) .eret ∧ (partly handling).act = 0xFFFF#32 ∧
      (partly handling).sp.mask &&& ~~~ (partly handling).act ≠ 0#32) ∧
    (MayIssue (holding handling) handling .eretSkip ∧ handling.act ≠ 0#32 ∧ handling.sp.handler = true) :=
  ⟨⟨may_of (by decide +kernel), may_of (by decide +kernel), rfl⟩,
   ⟨may_of (by decide +kernel), by decide +kernel, by decide +kernel⟩, may_of (by decide +kernel), by decide +kernel, rfl⟩

/-! ## Witnesses: memory -/

/-- V2, V3 hold the flat address a. -/
def addressing (c : Ctx) (a : Nat) : Ctx :=
  withReg (withReg c 2 (lanesAll (BitVec.ofNat 32 a) .U)) 3 (lanesAll (BitVec.ofNat 32 (a / 2 ^ 32)) .U)

/-- The state that holds a context, with memory. -/
def reaching (c : Ctx) : State := { holding c with mm := pages, regs := [(0x21, 0x10001#64)] }

/-- The base context with the four banks of a scratchpad of n bytes. -/
def sized (n : Nat) : Ctx := { base with wg := Wg.placed { launch with scratch := n } 0 0 0 [4], l := { launch with scratch := n } }

/-- A handle of 16 bytes at 0x50000 with every right. -/
def handle : Handle :=
  { base := 0x50000, limit := 15, path := 0, kind := 0, policy := 0, rr := true, rw := true, ra := true, persist := false,
    gen := 0, kinfo := 0 }

/-- The handle in slot 1, V4 = 1. -/
def bound : Ctx :=
  let c := withReg base 4 (lanesAll 1 .U)
  { c with wg := { c.wg with handles := [(1, handle)] } }

/-- Memory whose lowest gigabyte has no W. -/
def readOnly (c : Ctx) : State :=
  { reaching c with
    mm := { pages with
      bytes := memPut pages.bytes loadL2 0x23, tlb := [(tlbKey 1 0x50000, { base := 0x50000, w := false, x := true })] } }

/-- V2, V3 poisoned. -/
def badAddress : Ctx := withReg base 3 poisoned

theorem witness_AccessChecks :
    (((withReg base 4 poisoned).g.lane 4 31).p.isSome = true ∧ (base.g.lane 4 0).p = none ∧ mget? base.wg.handles 15 = none) ∧
    ((bound.g.lane 4 0).p = none ∧ ∃ x, mget? bound.wg.handles 1 = some x ∧ x.limit < (bound.g.lane 4 0).w.toNat + 16 - 1) ∧
    (badAddress.g.pair 2 0).2.isSome = true ∧
    ((addressing base 0x8000000000000000).g.pair 2 0 = (8 * 2 ^ 60 + 0, none) ∧
      (addressing base 0x6000000000000000).g.pair 2 0 = (6 * 2 ^ 60 + 0, none) ∧
      (addressing base 0x5010000000000000).g.pair 2 0 = (5 * 2 ^ 60 + 2 ^ 52, none)) ∧
    ((addressing base 0x300000000001FFF0).g.pair 2 0 = (3 * 2 ^ 60 + 0x1FFF0, none) ∧ 0x1FFF0 + 16 ≤ base.l.scratch ∧
      base.wg.scrOk 0x1FFF0 16 = true ∧ base.wg.scrOk 0x1FFFE 2 = true ∧ base.l.scratch < 0x1FFF0 + 17) ∧
    ((reaching base).translate base.g.core base.l.aspace 0x5FFF0 = (some { base := 0x50000, w := true, x := true }, reaching base) ∧
      (reaching base).deadHome (0x50000 + 0x5FFF0 % 65536) = none) ∧
    (readOnly base).translate base.g.core base.l.aspace 0x5FFF0 = (some { base := 0x50000, w := false, x := true }, readOnly base) ∧
    (holding base).translate base.g.core base.l.aspace 0x5FFF0 = (none, holding base) ∧
    (MayIssue (holding (addressing base 0x3000000000000001)) (addressing base 0x3000000000000001) (.ld 9 2 0 2 0) ∧
      MayIssue (holding (addressing base 0x3000000000000001)) (addressing base 0x3000000000000001) (.st 9 2 0 2) ∧
      (addressing base 0x3000000000000001).act = (addressing base 0x3000000000000001).sp.mask ∧
      ∀ k, k = .load ∨ k = .store →
        ∀ e ∈ ((holding (addressing base 0x3000000000000001)).formAll (addressing base 0x3000000000000001) 0 2 4 k).1,
          e.2 = .inl 4) := by
  refine ⟨by decide +kernel, ⟨by decide +kernel, _, rfl, by decide +kernel⟩, by decide +kernel, by decide +kernel, by decide +kernel,
    by decide +kernel, by decide +kernel, by decide +kernel, may_of (by decide +kernel), may_of (by decide +kernel),
    by decide +kernel, ?_⟩
  rintro k (rfl | rfl) <;> decide +kernel

/-- A gang of two workgroups, V2, V3 at the last 16 bytes of the second one's scratchpad; and at the last of the page on path 0x5. -/
def across : Ctx := { addressing base 0x400000000041FFF0 with gg := { gang with w := 2 } }
def acrossAt : State := { holding across with wgs := [(0, across.wg), (1, { across.wg with k := 1 })] }
def distant : Ctx := addressing base 0x500000000005FFF0

/-- Memory whose lowest gigabyte is mapped to tier 2. -/
def tier2 : State :=
  { reaching distant with
    mm := { pages with
      bytes := memPut pages.bytes (loadL2 + 5) 0x10#8, tlb := [(tlbKey 1 0x50000, { base := 0x100000050000, w := true, x := true })] } }

/-- Slot 15 with handle x, V4 = v; the kind words of groups of format 4, and of tiles of 32 × 2 bytes with one word and one row of
halo. -/
def slot15 (x : Handle) (v : Word) : Ctx :=
  let c := withReg base 4 (lanesAll v .U)
  { c with wg := { c.wg with handles := [(15, x)] }, gg := { gang with w := 2 } }
def sparse : Handle := { handle with path := 6, limit := 0xFFF, kinfo := 4 }
def tiled : Handle := { handle with path := 7, limit := 0xFFF, kinfo := 0x10100020020#128 }

theorem witness_AccessChecks_paths :
    (across.g.pair 2 0 = (4 * 2 ^ 60 + 0x41FFF0, none) ∧ 0x41FFF0 / 0x400000 < across.gg.w * across.gg.h ∧
      0x41FFF0 % 0x400000 < across.l.scratch ∧ mget? acrossAt.wgs (wgKey across.nk 1) = some { across.wg with k := 1 } ∧
      across.wg.scrOk 0x1FFF0 16 = true ∧ 2 * 1 ≤ 0x800000 / 0x400000) ∧
    (distant.g.pair 2 0 = (5 * 2 ^ 60 + 0x5FFF0, none) ∧
      tier2.translate 0 1 0x5FFF0 = (some { base := 0x100000050000, w := true, x := true }, tier2) ∧
      inTier2 (0x100000050000 + 0x5FFF0 % 65536) = true ∧ inTier2 (0x50000 + 0x5FFF0 % 65536) = false ∧
      tier2.deadHome (0x100000050000 + 0x5FFF0 % 65536) = none) := by
  and_intros <;> decide +kernel

theorem witness_AccessChecks_handles :
    ((slot15 handle 15).g.lane 4 31 = clean 15#32 ∧ (slot15 handle 1).g.lane 4 31 = clean 1#32 ∧ 15 + 1 - 1 ≤ handle.limit ∧
      ∀ p ≤ 5, mget? (slot15 { handle with path := p } 15).wg.handles 15 = some { handle with path := p }) ∧
    ((slot15 sparse 64).g.lane 4 0 = clean 64#32 ∧ (slot15 sparse 65).g.lane 4 0 = clean 65#32 ∧
      mget? (slot15 sparse 64).wg.handles 15 = some sparse ∧ fmtWidth (nbits sparse.kinfo.toNat 4 0) = 4 ∧
      (reaching (slot15 sparse 64)).translate 0 1 (0x50000 + 128 * (64 / (16 * 4))) =
        (some { base := 0x50000, w := true, x := true }, reaching (slot15 sparse 64))) ∧
    (mget? (slot15 tiled 28).wg.handles 15 = some tiled ∧ (slot15 tiled 28).g.lane 4 0 = clean 28#32 ∧
      (reaching (slot15 tiled 28)).translate 0 1 (0x50000 + 28) =
        (some { base := 0x50000, w := true, x := true }, reaching (slot15 tiled 28))) := by
  and_intros <;> decide +kernel

theorem witness_AccessChecks_halo :
    (let c := slot15 tiled 0
     tiled.halo.tw = 32 ∧ tiled.halo.th = 2 ∧ c.wg.k = 0 ∧
       (∀ i < 4, (28 + i) / (c.gg.w * 32) / 2 * c.gg.w + (28 + i) % (c.gg.w * 32) / 32 = 0) ∧
       (∀ i < 4, (32 + i) / (c.gg.w * 32) / 2 * c.gg.w + (32 + i) % (c.gg.w * 32) / 32 ≠ 0 ∧
         tiled.halo.at c.gg.w c.gg.h 0 (32 + i) = .rep (88 + i) ∧ c.wg.scrOk (tiled.halo.hoff + (88 + i)) 1 = true) ∧
       tiled.halo.at c.gg.w c.gg.h 0 36 = .out ∧ (0x50000 + 32) % 4 = 0) := by
  and_intros <;> decide +kernel

/-- The accesses of a load, store or other kind through V2, V3 at the flat address a. -/
def formed (s : State) (c : Ctx) (n : Nat) (k : AccKind) : Forms := (s.formAll c 0 2 n k).1

/-- One lane left. -/
def lone : Ctx :=
  let c := within base { split with mask := 1#32 }
  { c with g := { c.g with exited := 0xFFFFFFFE#32 } }

/-- V2, V3 hold the last word of the scratchpad; and of the page at 0x50000. -/
def nearScr : Ctx := addressing lone 0x300000000001FFFC
def nearMem : Ctx := addressing lone 0x5FFF8

theorem witness_LoadsIssue :
    (nearScr.act ≠ 0#32 ∧ nearScr.g.flagFull nearScr.sp.setA = false ∧ (holding nearScr).bankWait nearScr 0 2 = false ∧
      nearScr.logRoom 9 (sizeRegs 2) ∧ MayIssue (holding nearScr) nearScr (.ld 9 2 0 2 0) ∧
      MayIssue (holding nearScr) nearScr (.lda 9 2 0 2 4) ∧ nearScr.g.watchingLanes nearScr.sp.mask = false ∧
      (holding nearScr).forms nearScr 0 2 4 .load (formed (holding nearScr) nearScr 4 .load)) ∧
    ((reaching nearMem).bankWait nearMem 0 2 = false ∧ nearMem.logRoom 10 (sizeRegs 3) ∧ nearMem.rrOn 2 = false ∧
      MayIssue (reaching nearMem) nearMem (.lr 10 2 0 3 1 4) ∧
      (reaching nearMem).forms nearMem 0 2 8 .lrsc (formed (reaching nearMem) nearMem 8 .lrsc)) :=
  ⟨⟨by decide +kernel, by decide, by decide +kernel, .inl rfl, may_of (by decide +kernel), may_of (by decide +kernel),
     by and_intros <;> decide +kernel⟩,
   by decide +kernel, .inl rfl, by decide, may_of (by decide +kernel), by decide +kernel, by decide +kernel⟩

/-- A context of which nothing stands before a release. -/
theorem mayRelease_of {s : State} {c : Ctx} {k : Nat} (h : (c.g.watching = false ∧ s.relHeld c k = false ∧ c.g.delayed = []) ∧
    c.g.struck = false ∧ c.wg.dirty = []) : MayRelease s c k := ⟨h.1.1, h.1.2.1, h.1.2.2, h.2.1, h.2.2⟩

theorem witness_StoresIssue :
    (nearScr.act ≠ 0#32 ∧ (holding nearScr).bankWait nearScr 0 2 = false ∧ nearScr.wg.blocks = [] ∧ MayRelease (holding nearScr) nearScr 4 ∧
      nearScr.g.flagFull nearScr.sp.setB = false ∧ nearScr.rrOn 2 = false ∧ nearScr.logRoom 9 1 ∧
      nearScr.g.watchingLanes nearScr.sp.mask = false) ∧
    (MayIssue (holding nearScr) nearScr (.st 9 2 0 2) ∧ MayIssue (holding nearScr) nearScr (.strl 9 2 0 2 4) ∧
      (holding nearScr).forms nearScr 0 2 4 .store (formed (holding nearScr) nearScr 4 .store)) ∧
    (MayIssue (holding nearScr) nearScr (.atomAr 9 2 0 4 0 4) ∧ MayIssue (holding nearScr) nearScr (.atom 10 2 0 4 0 7) ∧
      tyOf nearScr.g.m ≤ 1 ∧ (holding nearScr).forms nearScr 0 2 4 .atom (formed (holding nearScr) nearScr 4 .atom)) ∧
    ((reaching nearMem).bankWait nearMem 0 2 = false ∧ MayRelease (reaching nearMem) nearMem 4 ∧ MayIssue (reaching nearMem) nearMem (.sc 10 2 0 3 1 4) ∧
      (reaching nearMem).forms nearMem 0 2 8 .lrsc (formed (reaching nearMem) nearMem 8 .lrsc)) :=
  ⟨⟨by decide +kernel, by decide +kernel, rfl, mayRelease_of (by decide +kernel), by decide, by decide, .inl rfl, by decide +kernel⟩,
   ⟨may_of (by decide +kernel), may_of (by decide +kernel), by decide +kernel, by decide +kernel⟩,
   ⟨may_of (by decide +kernel), may_of (by decide +kernel), by decide, by decide +kernel, by decide +kernel⟩,
   by decide +kernel, mayRelease_of (by decide +kernel), may_of (by decide +kernel), by decide +kernel, by decide +kernel⟩

/-- A watch entry of tag 0 on line 0 for the 16 lower lanes, confirmed or struck. -/
def watched (x : WatchState) : Watch :=
  { n := 0, id := 0, tag := 0, lanes := 0xFFFF#32, line := 0, gen := 0, ver := 0, stamp := 0, ofW := false, st := x, used := 0#32 }

/-- The base context with that entry. -/
def watching (x : WatchState) : Ctx := { base with g := { base.g with watches := [watched x] } }

theorem witness_WatchedLoads :
    (MayIssue (reaching nearMem) nearMem (.ldw 10 2 0 3 0) ∧ nearMem.act ≠ 0#32 ∧ nearMem.g.flagFull nearMem.sp.setA = false ∧
      nearMem.logRoom 10 (sizeRegs 3) ∧ (reaching nearMem).forms nearMem 0 2 8 .watched (formed (reaching nearMem) nearMem 8 .watched) ∧
      [0xBFF].Pairwise (· < ·) ∧ (formed (reaching nearMem) nearMem 8 .watched).parts.all (fun x => x.loc == .mem 0x5FFF8) = true ∧
      (formed (reaching nearMem) nearMem 8 .watched).parts.length = 1) ∧
    (MayIssue (coded (watching .confirmed) (headers 32)) (watching .confirmed) (.chk 1 2) ∧ base.l.rrMode = 0) ∧
    (MayIssue (coded (watching .struck) (headers 32)) (watching .struck) (.chk 1 2) ∧
      (∀ w ∈ (watching .struck).g.watches, w.st = .confirmed ∨ w.st = .struck) ∧
      (∀ l < 32, (0xFFFF#32).getLsbD l = true ↔ (watching .struck).act.getLsbD l = true ∧ (watched .struck).lanes.getLsbD l = true) ∧
      HeaderAt ((coded (watching .struck) (headers 32)).updGroup 0 (fun g => { g with evno := g.evno + 1 })) (watching .struck) 3) :=
  ⟨⟨may_of (by decide +kernel), by decide +kernel, by decide, .inl rfl, ⟨by decide +kernel, by decide +kernel⟩, by decide,
     by decide +kernel, by decide +kernel⟩,
   ⟨may_of (by decide +kernel), by decide⟩, may_of (by decide +kernel), by decide, by decide +kernel, 0xFE001FE2#32,
   by decide +kernel, by decide⟩

theorem witness_FencesAndCache :
    (MayIssue (holding base) base (.fence 1 4 1) ∧ MayIssue (holding base) base (.fence 0 4 4) ∧ base.act ≠ 0#32 ∧
      base.wg.blocks = [] ∧ base.g.watchingLanes base.act = false ∧ base.g.loading base.act = false ∧
      base.g.accessing base.act = false ∧ MayRelease (holding base) base 4) ∧
    MayIssue (holding base) base .cbinv ∧
    (MayIssue (holding nearScr) nearScr (.pref 2 0 0) ∧ ((holding nearScr).formAll nearScr 0 2 1 .pref).2 = holding nearScr ∧
      (∀ x ∈ ((holding nearScr).formAll nearScr 0 2 1 .pref).1, x.2 ≠ .inl 9) ∧ (holding nearScr).rel.latent = [] ∧
      (holding nearScr).mm.lines = [] ∧ (holding nearScr).mm.flips = []) ∧
    (MayIssue (holding base) base (.hload 0 1) ∧ base.l.hcount ≤ 0) ∧
    (let c := { base with l := { launch with hcount := 1 } }
     MayIssue (holding c) c (.hload 0 1) ∧ 0 < c.l.hcount) :=
  ⟨⟨may_of (by decide +kernel), may_of (by decide +kernel), by decide +kernel, rfl, by decide +kernel, by decide +kernel,
     by decide +kernel, mayRelease_of (by decide +kernel)⟩,
   may_of (by decide +kernel), ⟨may_of (by decide +kernel), by decide +kernel, by decide +kernel, by decide +kernel, by decide, by decide⟩,
   ⟨may_of (by decide +kernel), by decide⟩, may_of (by decide +kernel), by decide⟩

/-- An operation of all lanes on flag 0 with accesses as to V9. -/
def pending (o : PendOp) (m : Lanes) (as : List Access) : Pend :=
  { id := 0, pc := 1, op := o, dst := 9, nreg := 1, lanes := m, tag := .U, acc := as, flag := 0, gen := 0, acq := false, scope := 0,
    held := false, cut := [], tile := none, evno := 0, hash := 0, rep := none, dhash := 0, drop := false }

/-- The context as the performing of an operation sees it. -/
def owing (p : Pend) : Ctx := { base with g := { base.g with pend := [p], flags := [(0, 1)] }, sp := Split.start 0#32 0 }

/-- What MayReturn asks, as one decidable statement. -/
theorem mayReturn_of {s : State} {gk : Nat} {c : Ctx} {p : Pend}
    (h : (s.gctx gk = some c ∧ c.g.pend.find? (fun q => q.id == p.id) = some p ∧ s.canPerform c p = true ∧ p.drop = false) ∧
      p.cut = [] ∧ p.gen = c.wg.gen ∧ c.wg.blocks = [] ∧ mget? s.stops (c.g.core * 4 + c.g.sched) = none ∧ c.l.rrMode ≠ 1 ∧
      c.rrOn 2 = false) : MayReturn s gk c p :=
  ⟨h.1.1, h.1.2.1, h.1.2.2.1, h.1.2.2.2, h.2.1, h.2.2.1, h.2.2.2.1, h.2.2.2.2.1, h.2.2.2.2.2⟩

/-- A part of lane l at the place loc, with data x. -/
def part (l : Nat) (loc : Loc) (x : Nat) : Access := { mkAcc l 0 0 loc 0 4 .core with data := x }

/-- A load, store, atomic and store-conditional of one lane. -/
def loadOp : Pend := pending (.load 1 true) 1#32 [{ part 0 (.scr 0 0x1FFFF) 0 with path := 3, n := 1 }]
def storeOp : Pend := { pending (.store 4) 3#32 [part 0 (.mem 0x5FFFC) 1, part 1 (.mem 0x5FFFC) 2] with nreg := 0 }
def atomOp : Pend := pending (.atom 4 0 true) (laneBit 31) [part 31 (.scr 0 0x1FFFC) 0xFFFFFFFF]
def scOp : Pend := pending (.sc 4) (laneBit 31) [part 31 (.mem 0x5FFFC) 7]

/-- A context in which the store is pending, with this scope mark. -/
def passed (k : Nat) : Ctx := { base with g := { base.g with pend := [{ storeOp with scope := k }] } }

theorem witness_StoresIssue_waits :
    MayIssue (holding (passed 0)) (passed 0) (.strl 9 2 0 2 1) ∧ (passed 0).act ≠ 0#32 ∧
    (holding (passed 0)).bankWait (passed 0) 0 2 = false ∧ (passed 0).g.flagFull (passed 0).sp.setB = false ∧
    (holding (passed 0)).relWaits (passed 0) 1 = true ∧
    (let c := { nearScr with g := { nearScr.g with watches := [{ watched .struck with lanes := 1#32 }] } }
     MayIssue (holding c) c (.strl 9 2 0 2 1) ∧ (holding c).forms c 0 2 4 .store (formed (holding c) c 4 .store) ∧
       (holding c).bankWait c 0 2 = false ∧ c.act ≠ 0#32 ∧ c.g.flagFull c.sp.setB = false ∧
       (holding c).relWaits c 1 = false ∧ c.g.delayed = [] ∧ c.g.struck = true ∧ c.wg.blocks = []) := by
  refine ⟨may_of ?_, ?_, ?_, ?_, ?_, may_of ?_, ⟨?_, ?_⟩, ?_, ?_, ?_, ?_, ?_, ?_, ?_⟩ <;> decide +kernel

/-- R186, R201: a store that a WG release has passed holds a WG release back no longer and a wider one still does, and a later
load of its bytes waits for it. -/
theorem test_narrow_release :
    (holding (passed 0)).relHeld (passed 0) 1 = true ∧ (holding (passed 2)).relHeld (passed 2) 1 = false ∧
    (holding (passed 2)).relHeld (passed 2) 4 = true ∧
    ([0, 2].map (fun k => (holding (passed k)).canPerform (passed k)
      { pending (.load 4 false) (laneBit 9) [part 9 (.mem 0x5FFFF) 0] with id := 1 })) = [true, false] := by decide +kernel

theorem witness_ReturnWritten :
    MayReturn (holding (owing (pending (.value [] 0) 1#32 []))) 0 (owing (pending (.value [] 0) 1#32 [])) (pending (.value [] 0) 1#32 []) ∧
    MayReturn (holding (owing (pending (.evqry 0xFFFF) 1#32 []))) 0 (owing (pending (.evqry 0xFFFF) 1#32 []))
      (pending (.evqry 0xFFFF) 1#32 []) ∧
    (MayReturn (holding (owing loadOp)) 0 (owing loadOp) loadOp ∧
      (holding (owing loadOp)).loadLane (owing loadOp) loadOp 0 = (0, none, holding (owing loadOp))) :=
  ⟨mayReturn_of (by decide +kernel), mayReturn_of (by decide +kernel), mayReturn_of (by decide +kernel), by decide +kernel⟩

/-- Die 0 owns lines 0xA00 and 0xBFF, both with core 0. -/
def homed (c : Ctx) : State :=
  let own := { Line.fresh with owner := some 0 }
  { reaching c with mm := { pages with lines := [(0xA00, own), (0xBFF, own)], held := [copyKey 0 0xA00, copyKey 0 0xBFF] } }

/-- An LR and an LDW of lane 31 of the line 0xA00, the latter with a watch entry or without. -/
def lrOp : Pend := pending (.lr 4) (laneBit 31) [part 31 (.mem 0x50004) 0]
def ldwOp : Pend := pending (.watched 4 0) (laneBit 31) [part 31 (.mem 0x5007C) 0]
def fetching (b : Bool) : Ctx :=
  let w := { watched .fetching with line := 0xA00, lanes := laneBit 31 }
  { owing ldwOp with g := { (owing ldwOp).g with watches := if b then [w] else [] } }

/-- That line in the core's W copy, in the die's V copy, and nowhere. -/
def copied : State :=
  let k : Copy := { ver := 3, stamp := 2, data := 7#1024, pois := none, ro := false }
  { homed (fetching true) with mm := { (homed (fetching true)).mm with wcopy := [(copyKey 0 0xA00, k)] } }
def kept : State :=
  let k : Copy := { ver := 3, stamp := 0, data := 7#1024, pois := none, ro := false }
  { reaching (fetching true) with mm := { pages with vcopy := [(copyKey 0 0xA00, k)] } }

theorem witness_ReturnWritten_reserves :
    (homed (owing lrOp)).Sound ∧ MayReturn (homed (owing lrOp)) 0 (owing lrOp) lrOp ∧ lrOp.rep = none ∧
    (homed (owing lrOp)).readPart 0 (part 31 (.mem 0x50004) 0) = (List.replicate 4 0#8, none, homed (owing lrOp)) ∧
    (homed (owing lrOp)).groups.flatMap (fun e => e.2.resv) = [] ∧
    (Memory.wf (homed (owing lrOp)).mm.bytes = true ∧ (homed (owing lrOp)).wgs.all (fun e => Memory.wf e.2.sram) = true ∧
      (homed (owing lrOp)).groups.length = 1 ∧ (homed (owing lrOp)).wgs.length = 1 ∧ (homed (owing lrOp)).gangs.length = 1) := by
  refine ⟨⟨?_, ?_, ?_, ?_, ?_, ?_⟩, mayReturn_of ?_, ?_, ?_, ?_, ?_, ?_, ?_, ?_, ?_⟩ <;> decide +kernel

theorem witness_ReturnWritten_watches :
    (∀ b, ((fetching b).g.watches.find? (fun w => w.id == ldwOp.id && w.line == 0xA00)).isSome = b) ∧
    (MayReturn copied 0 (fetching true) ldwOp ∧ (mget? copied.mm.wcopy (copyKey 0 0xA00)).any (fun k => !k.ro) = true ∧
      copied.rel.latent = [] ∧ b64 (copied.reg 0x27) 0 0 = 0) ∧
    (MayReturn (homed (fetching true)) 0 (fetching true) ldwOp ∧ ((homed (fetching true)).line 0xA00).owner = some 0 ∧
      (homed (fetching true)).heldFlip 0 0xA00 = none ∧ ((homed (fetching true)).readLine 0 0xA00 .core).2.2.groups =
        (homed (fetching true)).groups) ∧
    (MayReturn kept 0 (fetching true) ldwOp ∧ (kept.line 0xA00).owner = none ∧ kept.mm.wcopy = [] ∧
      (mget? kept.mm.vcopy (copyKey 0 0xA00)).isSome = true) ∧
    (MayReturn (reaching (fetching true)) 0 (fetching true) ldwOp ∧ (reaching (fetching true)).mm.vcopy = [] ∧
      (let u := ((reaching (fetching true)).readLine 0 0xA00 .core).2.2
       u.groups = (reaching (fetching true)).groups ∧ u.wgs = (reaching (fetching true)).wgs ∧ u.gangs = (reaching (fetching true)).gangs ∧
         u.launches = (reaching (fetching true)).launches ∧ u.stops = [] ∧ u.regs = (reaching (fetching true)).regs ∧
         u.kul = (reaching (fetching true)).kul)) ∧
    MayReturn (reaching (fetching false)) 0 (fetching false) ldwOp := by
  refine ⟨?_, ⟨mayReturn_of ?_, ?_, ?_, ?_⟩, ⟨mayReturn_of ?_, ?_, ?_, ?_⟩, ⟨mayReturn_of ?_, ?_, ?_, ?_⟩,
    ⟨mayReturn_of ?_, ?_, ?_, ?_, ?_, ?_, ?_, ?_, ?_⟩, mayReturn_of ?_⟩
  case refine_1 => intro b; cases b <;> decide +kernel
  all_goals decide +kernel

theorem witness_StoreWritten :
    MayReturn (holding (owing storeOp)) 0 (owing storeOp) storeOp ∧ storeOp.op = .store 4 ∧
    (∀ a ∈ storeOp.acc, a.loc = .mem 0x5FFFC) ∧ Memory.wf (holding (owing storeOp)).mm.bytes = true ∧
    b64 ((holding (owing storeOp)).reg 0x27) 0 0 = 0 ∧ (holding (owing storeOp)).mm.lines = [] ∧
    (holding (owing storeOp)).mm.flips = [] ∧ (holding (owing storeOp)).rel.latent = [] ∧ storeOp.tile = none ∧
    MayReturn (holding (owing { storeOp with tile := some handle })) 0 (owing { storeOp with tile := some handle })
      { storeOp with tile := some handle } :=
  ⟨mayReturn_of (by decide +kernel), rfl, by decide, by decide, by decide, by decide, by decide, by decide, rfl,
   mayReturn_of (by decide +kernel)⟩

/-- The scratchpad's last word is 1: less than the operand under unsigned order only. -/
def counted : Ctx := { owing atomOp with wg := { base.wg with sram := [(0x1FFFC, 1#8)] } }

/-- Lane 31 has a reservation for line 0xBFF. -/
def reserving : Ctx := { owing scOp with g := { (owing scOp).g with resv := [(31, 0xBFF)] } }

/-- An ADD of lanes 0 and 1 to a word each, the last of its line. -/
def addOp (ret : Bool) : Pend :=
  { pending (.atom 0 0 ret) 3#32 [part 0 (.mem 0x5007C) 1, part 1 (.mem 0x5FFFC) 0xFFFFFFFF] with nreg := if ret then 1 else 0 }

theorem witness_AtomicsPerformed_memory :
    ∀ ret, (homed (owing (addOp ret))).Sound ∧ MayReturn (homed (owing (addOp ret))) 0 (owing (addOp ret)) (addOp ret) ∧
      (addOp ret).rep = none ∧ (addOp ret).tile = none ∧
      (addOp ret).acc.map (fun a => (a.lane, a.loc)) = [(0, .mem 0x5007C), (1, .mem 0x5FFFC)] ∧
      (∀ ln ∈ [0x5007C / 128, 0x5FFFC / 128], ((homed (owing (addOp ret))).line ln).owner = some 0 ∧
        (homed (owing (addOp ret))).linePois ln = none) ∧
      ∀ i < 4, (homed (owing (addOp ret))).byteAt (0x5007C + i) = 0#8 ∧ (homed (owing (addOp ret))).byteAt (0x5FFFC + i) = 0#8 := by
  intro ret
  refine ⟨⟨?_, ?_, ?_, ?_, ?_, ?_⟩, mayReturn_of ?_, ?_, ?_, ?_, ?_, ?_⟩
  all_goals cases ret <;> decide +kernel

theorem witness_AtomicsPerformed :
    (MayReturn (holding counted) 0 counted atomOp ∧ atomOp.lanes = laneBit 31 ∧ atomOp.tile = none ∧
      (holding counted).rel.latent = [] ∧ mget? (holding counted).wgs 0 = some counted.wg ∧
      Memory.wf counted.wg.sram = true ∧ counted.wg.scrAt 0x1FFFC = some 0x1FFFC ∧
      counted.wg.bankRead 0x1FFFC 4 = (bytesLE 4 (1#32).toNat, none) ∧ ¬ (1#32).toInt < (0xFFFFFFFF#32).toInt) ∧
    (MayReturn (holding reserving) 0 reserving scOp ∧ reserving.g.reserved 31 (0x5FFFC / 128) = true ∧
      (holding reserving).linePois (0x5FFFC / 128) = none) ∧
    (MayReturn (holding (owing scOp)) 0 (owing scOp) scOp ∧ (owing scOp).g.reserved 31 (0x5FFFC / 128) = false) :=
  ⟨⟨mayReturn_of (by decide +kernel), rfl, rfl, rfl, by decide, by decide, by decide +kernel, by decide +kernel, by decide⟩,
   ⟨mayReturn_of (by decide +kernel), by decide, by decide⟩, mayReturn_of (by decide +kernel), by decide⟩

/-! ## Witnesses: engines -/

/-- The descriptor's length 4096 in V9, V2, V3 and V4, V5 at the scratchpad. -/
def copying : Ctx :=
  let c := addressing base 0x300000000001F000
  withReg (withReg (withReg c 9 (lanesAll 4096 .U)) 4 (lanesAll 0 .U)) 5 (lanesAll 0x30000000 .U)

/-- One lane, V2, V3 at a descriptor's last place in the scratchpad. -/
def describing : Ctx := addressing lone 0x300000000001FFC0

/-- The ranges of a lane of copying. -/
def ranges (l : Nat) : List Access × List Access :=
  match ((holding copying).cpyLane copying 9 2 4 l).1 with
  | .inr p => p
  | .inl _ => ([], [])

theorem witness_CopiesQueue :
    (copying.g.flagFull copying.sp.setB = false ∧ MayIssue (holding copying) copying (.cpy 9 2 4 3) ∧ copying.act ≠ 0#32 ∧
      copying.g.queueLen 3 < 8 ∧
      (∀ l ∈ lanesOf copying.act, (holding copying).cpyLane copying 9 2 4 l = (.inr (ranges l), holding copying)) ∧
      ∀ l ∈ lanesOf copying.act, (holding copying).flatBusy copying (copying.g.pair 2 l).1 (copying.g.lane 9 l).w.toNat = false ∧
        (holding copying).flatBusy copying (copying.g.pair 4 l).1 (copying.g.lane 9 l).w.toNat = false) ∧
    (MayIssue (holding describing) describing (.cpyb 2 4 6 0) ∧ MayIssue (holding describing) describing (.cpyxG 2 4 6 4) ∧
      MayIssue (holding describing) describing (.cpyxS 2 4 6 3) ∧ describing.g.queueLen 4 < 8 ∧
      (∀ r ∈ [2, 4, 6], (describing.g.pair r describing.g.low).2 = none ∧
        (holding describing).flatBusy describing (describing.g.pair r describing.g.low).1 1 = false) ∧
      (holding describing).flatBusy describing (describing.g.pair 2 describing.g.low).1 64 = false ∧
      ((holding describing).formAccess describing 0 2 64 .store describing.g.low).1.isRight = true ∧
      ((holding describing).formAccess describing 0 2 64 .store describing.g.low).2 = holding describing) ∧
    MayIssue (holding base) base (.qfence 0x3F) :=
  ⟨⟨by decide, may_of (by decide +kernel), by decide +kernel, by decide, by decide +kernel, by decide +kernel⟩,
   ⟨may_of (by decide +kernel), may_of (by decide +kernel), may_of (by decide +kernel), by decide, by decide +kernel⟩, may_of (by decide +kernel)⟩

/-- The launch with format slot 1: formats 8 and 8, K 64, scales in V8, V9 and V10; V2, V3 at the scratchpad's 16 KB from
0x1C000, and V4 the last 4 KB operand. -/
def multiplying : Ctx :=
  { withReg (addressing lone 0x300000000001C000) 4 (lanesAll 0x1F000 .U) with l := { launch with slots := [0#64, 0x28454108#64] } }

theorem witness_MatrixQueues :
    (multiplying.g.queueLen 5 < 8 ∧ multiplying.g.flagFull multiplying.sp.setB = false ∧
      MayIssue (holding multiplying) multiplying (.mma 1 2 4 4) ∧ MayIssue (holding multiplying) multiplying (.mmack 1 2 4 4) ∧
      scaleRegs (multiplying.slot 1) true = [8, 9, 10] ∧ multiplying.g.pendingOn [8, 9, 10] = false ∧ 10 < multiplying.budget ∧
      slotAccepted (multiplying.slot 1) = true ∧ slotFC (multiplying.slot 1) = 0 ∧
      (multiplying.g.lane 4 multiplying.g.low).p = none ∧ multiplying.operandBad 0x1F000 (bytesA (multiplying.slot 1)) = none ∧
      multiplying.operandBad 0x1F000 (bytesB (multiplying.slot 1)) = none ∧
      (multiplying.g.lane 4 multiplying.g.low).w = 0x1F000#32 ∧
      (holding multiplying).operandBusy multiplying 0x1F000 (bytesA (multiplying.slot 1)) = false ∧
      (holding multiplying).operandBusy multiplying 0x1F000 (bytesB (multiplying.slot 1)) = false) ∧
    (MayIssue (holding multiplying) multiplying (.mzero 0xFFFF) ∧ MayIssue (holding multiplying) multiplying (.mld 15 2 0) ∧
      MayIssue (holding multiplying) multiplying (.mst 15 2 0) ∧ MayIssue (holding multiplying) multiplying (.mstn 1 15 2 0) ∧
      ∀ n ∈ [16384, 512 * fmtWidth (slotFA (multiplying.slot 1)) + 32], ∀ k, k = .load ∨ k = .store →
        ((holding multiplying).formRange multiplying 0 2 n 128 k multiplying.g.low).1.isRight = true ∧
        ((holding multiplying).formRange multiplying 0 2 n 128 k multiplying.g.low).2 = holding multiplying ∧
        multiplying.ownOff 0 2 multiplying.g.low = some 0x1C000 ∧ (holding multiplying).scrBusy multiplying 0x1C000 n = false) ∧
    (MayIssue (holding multiplying) multiplying (.mckv 12 0 11) ∧ multiplying.g.flagFull multiplying.sp.setA = false ∧
      multiplying.logRoom 12 4 ∧ (multiplying.g.lane 11 0) = clean 0#32 ∧ ∃ k, f32.dec 0 = .fin false 0 k) ∧
    (MayIssue (holding multiplying) multiplying (.mckc 0 12) ∧
      ∀ j < 4, (multiplying.g.lane (12 + j) multiplying.g.low).p = none) := by
  refine ⟨⟨by decide, by decide, may_of (by decide +kernel), may_of (by decide +kernel), by decide +kernel⟩,
    ⟨may_of (by decide +kernel), may_of (by decide +kernel), may_of (by decide +kernel), may_of (by decide +kernel), ?_⟩,
    ⟨may_of (by decide +kernel), by decide, .inl rfl, by decide +kernel, _, rfl⟩,
    may_of (by decide +kernel), by decide +kernel⟩
  rintro n hn k (rfl | rfl) <;> revert n <;> decide +kernel

/-! ## Witnesses: synchronisation -/

/-- A group whose one split waits. -/
def parked (c : Ctx) (w : WaitAt) : Ctx := within c { split with st := .waiting w }

/-- The second group of a workgroup, waiting there too. -/
def other (w : WaitAt) : Group := { Group.placed 0 1 0 1 0 0 with splits := [{ split with st := .waiting w }] }

/-- A context and a second group that waits. -/
def pairedAt (c : Ctx) (w : WaitAt) : State := { holding c with groups := [(0, c.g), (1, other w)] }

/-- A state of one canonical context is canonical. -/
theorem canonical_of {s : State} (h : ((mkeys s.groups).Pairwise (· < ·) ∧ (mkeys s.wgs).Pairwise (· < ·) ∧
    (mkeys s.gangs).Pairwise (· < ·)) ∧ (s.wgs.all (fun e => Memory.wf e.2.sram) = true ∧ Memory.wf s.mm.bytes = true)) : s.canonical :=
  ⟨h.1.1, h.1.2.1, h.1.2.2, fun e he => List.all_eq_true.mp h.2.1 e he, h.2.2⟩

theorem witness_BarriersAndHalt :
    ((paired base).canonical ∧ MayIssue (paired base) base .wbar ∧ MayRelease (paired base) base 1 ∧ MayRelease (holding base) base 2 ∧ base.wg.conv = none ∧
      (1, Group.placed 0 1 0 1 0 0) ∈ (paired base).groups ∧ (Group.placed 0 1 0 1 0 0).splits ≠ [] ∧
      ∀ q ∈ (Group.placed 0 1 0 1 0 0).splits, q.isWaiting = false) ∧
    ((pairedAt base .wbar).canonical ∧ MayIssue (pairedAt base .wbar) base .wbar ∧ base.g.splits = [base.sp] ∧
      ∀ e ∈ (pairedAt base .wbar).groups, e.1 ≠ 0 → ∀ q ∈ e.2.splits, q.st = .waiting .wbar) ∧
    (MayIssue (holding base) base .gbar ∧ base.wg.blocks = [] ∧ (inBlock base routine).wg.blocks ≠ [] ∧
      MayIssue (holding (inBlock base routine)) (inBlock base routine) .gbar ∧
      MayRelease (holding (inBlock base routine)) (inBlock base routine) 2) ∧
    ((pairedAt (parked base .gbar) .gbar).canonical ∧
      mget? (pairedAt (parked base .gbar) .gbar).wgs 0 = some (parked base .gbar).wg ∧ (parked base .gbar).wg.gang = 0 ∧
      (mget? (pairedAt (parked base .gbar) .gbar).gangs 0).isSome = true ∧
      ∀ e ∈ (pairedAt (parked base .gbar) .gbar).groups, e.2.splits ≠ [] ∧ (∀ q ∈ e.2.splits, q.st = .waiting .gbar) ∧
        e.2.pend = [] ∧ e.2.ops = []) ∧
    (MayIssue (holding base) base (.waitf 0xFFF) ∧ (∀ f < 12, base.g.flag f = 0) ∧ base.g.delayed = []) ∧
    (MayIssue (holding base) base .halt ∧ base.act ≠ 0#32 ∧ base.g.watching = false ∧ base.g.struck = false ∧
      MayIssue (holding (inBlock base routine)) (inBlock base routine) .halt) :=
  ⟨⟨canonical_of (by decide +kernel), may_of (by decide +kernel), mayRelease_of (by decide +kernel), mayRelease_of (by decide +kernel), rfl, by decide +kernel,
     by decide, by decide⟩,
   ⟨canonical_of (by decide +kernel), may_of (by decide +kernel), rfl, by decide +kernel⟩,
   ⟨may_of (by decide +kernel), rfl, by decide, may_of (by decide +kernel), mayRelease_of (by decide +kernel)⟩,
   ⟨canonical_of (by decide +kernel), by decide +kernel, rfl, by decide +kernel, by decide +kernel⟩,
   ⟨may_of (by decide +kernel), by decide, rfl⟩, may_of (by decide +kernel), by decide +kernel, by decide, by decide,
   may_of (by decide +kernel)⟩

/-- Bank 0 scratchpad, banks 4 and 5 FIFOs of 32 slots of 4 KB, and n slots of bank 5 full. -/
def queueing (n : Nat) : Ctx :=
  let l := { launch with bankplan := 1 + 2 * 4 ^ 4 + 2 * 4 ^ 5 }
  let w := Wg.placed l 0 0 0 []
  { base with wg := { w with banks := mupd w.banks 5 (fun b => { b with wp := n % 32, count := n, held := [] }) }, l := l }

/-- A BANKM of V3 waits: bank b to mode m. -/
def changing (c : Ctx) (m b : Nat) : Ctx := within c { split with busy := some (.bankm 3 0 m b 0xFFFFFFFF#32 0) }

theorem witness_FifosAndBanks :
    (MayIssue (holding base) base (.fpush 2 0) ∧ base.opLane = some 0 ∧ (holding base).bankBusy 0 0 = false ∧
      (mget? base.wg.banks 0).any (fun x => x.mode == .fifo) = false) ∧
    (MayIssue (holding (queueing 31)) (queueing 31) (.fpush 2 5) ∧ (queueing 31).opLane = some 0 ∧
      (holding (queueing 31)).bankBusy 0 5 = false ∧
      (mget? (queueing 31).wg.banks 5).any (fun k => k.mode == .fifo && !k.full && k.wp < k.depth && k.esize == 4096) = true ∧
      (queueing 31).g.lane 2 0 = clean 0#32 ∧ Memory.wf (queueing 31).wg.sram = true ∧ 0 + 4096 ≤ (queueing 31).l.scratch ∧
      (queueing 31).wg.scrOk 0 4096 = true ∧ ((queueing 31).touching 0 4096 || (holding (queueing 31)).passing 0) = false ∧
      (holding (queueing 31)).scrBusy (queueing 31) 0 4096 = false ∧ (holding (queueing 31)).rel.latent = [] ∧
      (mget? (queueing 31).wg.banks 5).any (fun k => k.wp == 31) = true) ∧
    (MayIssue (holding base) base (.fpop 3 23) ∧ base.act ≠ 0#32 ∧ (mget? base.wg.banks 23).any (fun x => x.mode == .fifo) = false ∧
      MayIssue (holding (queueing 1)) (queueing 1) (.fpop 3 5) ∧
      (mget? (queueing 1).wg.banks 5).any (fun k => k.mode == .fifo && k.count != 0) = true) ∧
    MayIssue (holding (queueing 0)) (queueing 0) (.bankm 3 0 2 4) ∧
    (∀ x ∈ [(queueing 0, 2, 4, 1), (queueing 0, 1, 4, 2), (queueing 1, 0, 5, 4), (queueing 0, 0, 4, 0), (queueing 0, 0, 5, 0)],
      (holding (changing x.1 x.2.1 x.2.2.1)).ctxOf 0 0 = some (changing x.1 x.2.1 x.2.2.1) ∧
      (holding (changing x.1 x.2.1 x.2.2.1)).bankTouched 0 x.2.2.1 0 = false ∧ x.1.wg.failing = none ∧
      (mget? x.1.wg.banks x.2.2.1).isSome = true) ∧
    ((queueing 0).wg.list.contains 4 = false ∧ ((holding (queueing 0)).ownedBanks 0).length < 24) :=
  ⟨⟨may_of (by decide +kernel), by decide +kernel⟩,
   ⟨may_of (by decide +kernel), by and_intros <;> decide +kernel⟩,
   ⟨may_of (by decide +kernel), by decide +kernel, by decide +kernel, may_of (by decide +kernel), by decide +kernel⟩,
   may_of (by decide +kernel), by decide +kernel⟩

/-- Events 4 to 11 and every gate for partition 0. -/
def gated (c : Ctx) : State := { holding c with regs := [(0x40, 0x800000004#64), (0x50, 0xF#64)] }

/-- V2 = n. -/
def naming (n : Nat) : Ctx := withReg base 2 (lanesAll (BitVec.ofNat 32 n) .U)

/-- A launch that traces TRACE and TMARK. -/
def traced : Ctx := { base with l := { launch with trfilt := BitVec.ofNat 128 (2 ^ 0x1B + 2 ^ 0x1C) } }

theorem witness_EventsTraceRegisters :
    (base.wg.blocks = [] ∧ base.opLane = some 0 ∧ MayRelease (holding base) base 4) ∧
    (MayIssue (gated (withReg base 2 poisoned)) (withReg base 2 poisoned) (.evsigClr 2) ∧
      ((withReg base 2 poisoned).g.lane 2 0).p.isSome = true) ∧
    (∀ n ∈ [4, 11], MayIssue (gated (naming n)) (naming n) (.evsigAdd 2 3) ∧ MayIssue (gated (naming n)) (naming n) (.evsigSet 2 3) ∧
      MayIssue (gated (naming n)) (naming n) (.evqry 9 2) ∧ MayRelease (gated (naming n)) (naming n) 4 ∧ (naming n).g.lane 2 0 = clean (BitVec.ofNat 32 n) ∧
      (naming n).g.flagFull (naming n).sp.setA = false ∧ (naming n).g.watchingLanes (naming n).sp.mask = false ∧ (gated (naming n)).fld 0x40 15 0 ≤ n ∧
      n < (gated (naming n)).fld 0x40 15 0 + (gated (naming n)).fld 0x40 48 32) ∧
    (MayIssue (gated (naming 12)) (naming 12) (.evsigAdd 2 3) ∧ (gated (naming 12)).fld 0x40 15 0 + (gated (naming 12)).fld 0x40 48 32 ≤ 12) ∧
    (MayIssue (holding base) base (.trace 2 5) ∧ MayIssue (holding base) base (.tmark 5) ∧ base.l.traces 0x1B = false ∧
      MayIssue (holding traced) traced (.trace 2 5) ∧ MayIssue (holding traced) traced (.tmark 5) ∧ traced.l.traces 0x1C = true) ∧
    (MayIssue (holding base) base (.sysr 4 0x18) ∧ (holding base).mayRead 0 0x18 = false ∧ MayIssue (gated base) base (.sysr 4 0x18) ∧
      (gated base).mayRead 0 0x18 = true ∧ ((gated base).sysRead 0x18).2 = gated base) ∧
    (MayIssue (holding base) base (.sysw 4 0x10) ∧ (holding base).mayWrite 0 0x10 0#64 = false ∧
      MayIssue (gated base) base (.sysw 4 0x10) ∧ (gated base).mayWrite 0 0x10 0#64 = true ∧
      base.g.lane 4 0 = clean 0#32 ∧ base.g.lane 5 0 = clean 0#32) := by
  refine ⟨⟨rfl, by decide +kernel, mayRelease_of (by decide +kernel)⟩, ⟨may_of (by decide +kernel), by decide +kernel⟩, ?_,
    ⟨may_of (by decide +kernel), by decide +kernel⟩,
    ⟨may_of (by decide +kernel), may_of (by decide +kernel), by decide +kernel, may_of (by decide +kernel),
      may_of (by decide +kernel), by decide +kernel⟩,
    ⟨may_of (by decide +kernel), by decide +kernel, may_of (by decide +kernel), by decide +kernel, by decide +kernel⟩,
    may_of (by decide +kernel), by decide +kernel, may_of (by decide +kernel), by decide +kernel⟩
  intro n hn
  rcases (by simpa using hn : n = 4 ∨ n = 11) with rfl | rfl <;>
    exact ⟨may_of (by decide +kernel), may_of (by decide +kernel), may_of (by decide +kernel), mayRelease_of (by decide +kernel),
      by decide +kernel⟩

/-- The lone lane with an address in the scratchpad's, and in the page's, last place; and a context with registers 2 and 3, all in an
open block. -/
def escScr : Ctx := inBlock nearScr routine
def escMem : Ctx := inBlock nearMem routine
def escReg (n : Nat) : Ctx := inBlock (naming n) routine

theorem witness_BlockFaultsAndFailure_escapes :
    (escScr.wg.blocks ≠ [] ∧ escScr.opLane = some 0 ∧ escScr.wg.conv = none ∧ (holding escScr).bankWait escScr 0 2 = false ∧
      escScr.g.flagFull escScr.sp.setA = false ∧ escScr.g.flagFull escScr.sp.setB = false ∧ MayRelease (holding escScr) escScr 2 ∧
      escScr.g.watchingLanes escScr.sp.mask = false ∧ tyOf escScr.g.m ≤ 1) ∧
    (MayIssue (holding escScr) escScr (.strl 9 2 0 2 2) ∧
      (holding escScr).forms escScr 0 2 4 .store (formed (holding escScr) escScr 4 .store)) ∧
    (escMem.opLane = some 0 ∧ (reaching escMem).bankWait escMem 0 2 = false ∧ MayRelease (reaching escMem) escMem 4 ∧
      MayIssue (reaching escMem) escMem (.sc 10 2 0 3 1 4) ∧
      (reaching escMem).forms escMem 0 2 8 .lrsc (formed (reaching escMem) escMem 8 .lrsc)) ∧
    (MayIssue (holding escScr) escScr (.atom 9 2 0 2 1 4) ∧ MayIssue (holding escScr) escScr (.atomAr 9 2 0 3 0 0) ∧
      (holding escScr).forms escScr 0 2 4 .atom (formed (holding escScr) escScr 4 .atom)) ∧
    (MayIssue (holding escScr) escScr (.fence 1 2 1) ∧ MayIssue (holding escScr) escScr (.fence 0 4 3) ∧
      escScr.g.watchingLanes escScr.act = false ∧ escScr.g.loading escScr.act = false ∧ escScr.g.accessing escScr.act = false ∧
      MayRelease (holding escScr) escScr 4) ∧
    ((escReg 11).opLane = some 0 ∧ MayRelease (gated (escReg 11)) (escReg 11) 4 ∧ MayIssue (gated (escReg 11)) (escReg 11) (.evsigAdd 2 3) ∧
      MayIssue (gated (escReg 11)) (escReg 11) (.evsigSet 2 3) ∧ MayIssue (gated (escReg 11)) (escReg 11) (.evsigClr 2) ∧
      (escReg 11).g.lane 2 0 = clean 11#32 ∧ (escReg 11).g.lane 3 0 = clean 0#32 ∧
      11 < (gated (escReg 11)).fld 0x40 15 0 + (gated (escReg 11)).fld 0x40 48 32 ∧ (gated (escReg 11)).fld 0x40 15 0 ≤ 11) ∧
    (MayIssue (gated (escReg 11)) (escReg 11) (.sysw 4 0x10) ∧ (gated (escReg 11)).mayWrite 0 0x10 0#64 = true ∧
      (escReg 11).g.lane 4 0 = clean 0#32 ∧ (escReg 11).g.lane 5 0 = clean 0#32) ∧
    (MayIssue (gated (escReg 11)) (escReg 11) .gbar ∧ MayRelease (gated (escReg 11)) (escReg 11) 2 ∧
      MayIssue (gated (escReg 11)) (escReg 11) (.bankm 3 0 1 0)) := by
  refine ⟨⟨?_, ?_, ?_, ?_, ?_, ?_, mayRelease_of ?_, ?_, ?_⟩, ⟨may_of ?_, ?_, ?_⟩, ⟨?_, ?_, mayRelease_of ?_, may_of ?_, ?_, ?_⟩,
    ⟨may_of ?_, may_of ?_, ?_, ?_⟩, ⟨may_of ?_, may_of ?_, ?_, ?_, ?_, mayRelease_of ?_⟩,
    ⟨?_, mayRelease_of ?_, may_of ?_, may_of ?_, may_of ?_, ?_, ?_, ?_, ?_⟩, ⟨may_of ?_, ?_, ?_, ?_⟩, may_of ?_, mayRelease_of ?_,
    may_of ?_⟩ <;> decide +kernel

/-! ## Witnesses: events of the recovery model -/

/-- What the event statements ask of the state that holds a context: the workgroup 0 of gang 0 of launch 0. -/
def owned (s : State) (c : Ctx) : Bool := decide (s.launchOf 0 = some (c.wg, c.gg, c.l))

/-- A split at a clause boundary that has issued 4096 instructions beside a ready one. -/
def rotating : Ctx := two { split with issued := 4096, inClause := false } { split with st := .ready, pc := 7 }

/-- Bank 23 a log bank, and no block or one open. -/
def logging (c : Ctx) : Ctx :=
  let l := { launch with bankplan := 1 + 3 * 4 ^ 23 }
  { c with l := l, wg := { c.wg with banks := (Wg.placed l 0 0 0 []).banks } }

/-- At ENSURE with end offset 7; at the terminator at word 1; and an inner block below its cycle limit within one at its own. -/
def entering : Ctx := parked (logging { base with wg := { base.wg with ensureEnd := some 7 } }) .ensure
def ending : Ctx := parked (logging (inBlock base routine)) .term
def limited : Ctx :=
  logging { base with wg := { base.wg with blocks := [{ routine with limit := 2048, cycles := 1024 }, { routine with limit := 1024, cycles := 1024 }] } }

theorem witness_BlockEvents :
    ((holding rotating).canonical ∧ owned (holding rotating) rotating = true ∧ mget? (holding rotating).groups 0 = some rotating.g ∧
      rotating.g.splits[0]? = some rotating.sp ∧ rotating.sp.st = .live 0 ∧ rotating.sp.issued = 4096 ∧
      rotating.sp.inClause = false ∧ nextReady rotating.g.splits (some 0) = some 1 ∧
      ∀ x, rotating.g.splits[1]? = some x → x.pc ≠ rotating.sp.pc) ∧
    ((holding entering).canonical ∧ owned (holding entering) entering = true ∧ entering.wg.failing = none ∧
      entering.wg.blocks = [] ∧ entering.wg.logUsed entering.l + frameSize entering.l ≤ entering.wg.logCap ∧
      (holding entering).groups = [(0, entering.g)] ∧ entering.g.wg = 0 ∧ entering.g.splits = [entering.sp] ∧
      entering.sp.st = .waiting .ensure ∧ entering.sp.pc = 1 ∧ entering.sp.arg = 0) ∧
    ((coded ending [0, 0x24000000]).canonical ∧ owned (coded ending [0, 0x24000000]) ending = true ∧ ending.wg.blocks = [routine] ∧
      (coded ending [0, 0x24000000]).groups = [(0, ending.g)] ∧ ending.g.splits = [ending.sp] ∧ ending.sp.st = .waiting .term ∧
      ending.g.pend = [] ∧ ending.g.ops = [] ∧ ending.g.watching = false ∧ ending.g.delayed = [] ∧
      (coded ending [0, 0x24000000]).wgCtx 0 = some ending ∧
      (coded ending [0, 0x24000000]).chain ending 1 (2 ^ 22) = (some 1, coded ending [0, 0x24000000])) ∧
    (owned (holding limited) limited = true ∧ (holding limited).wgStopped 0 = false ∧ limited.wg.blocks.length = 2) := by
  refine ⟨⟨canonical_of ?_, ?_, ?_, ?_, ?_, ?_, ?_, ?_, by intro x h; cases h; decide⟩, ⟨canonical_of ?_, ?_, ?_, ?_, ?_, ?_, ?_, ?_, ?_, ?_, ?_⟩,
    ⟨canonical_of ?_, ?_, ?_, ?_, ?_, ?_, ?_, ?_, ?_, ?_, ?_, ?_⟩, ?_, ?_, ?_⟩ <;> decide +kernel

/-- The one block of the workgroup fails with cause 9; it logged V4 = 7 of its one group. -/
def failing : Ctx :=
  let b := { routine with
    log := [.reg 0 4 (lanesAll 7 .U)]
    frames := [{ k := 0, preds := [], m := 0, srctr := [], lanes := 1#32, ret := none, finfo := [], pub0 := [] }] }
  let c := inBlock base b
  { c with wg := { c.wg with failing := some { cause := 9, clk := 0, depth := 0, pc := 1, atAccept := false } } }

/-- Two workgroups of one group each, which wait at CONVJ for each other. -/
def joining : State :=
  let c := parked base .convj
  { holding c with
    groups := [(0, { c.g with conv := some 3 }), (32, { c.g with wg := 1, conv := some 3 })]
    wgs := [(0, c.wg), (1, { c.wg with k := 1 })] }

theorem witness_RollbackAndConversation :
    (let s := coded failing [0, 0x22000004]
     s.canonical ∧ owned s failing = true ∧ failing.wg.conv = none ∧ (failing.wg.failing.map (·.depth)) = some 0 ∧
      failing.wg.blocks.length = 1 ∧ groupKey 0 0 = 0 ∧ mget? s.groups 0 = some failing.g ∧ s.groups.length = 1 ∧ 1#32 &&& ~~~ failing.g.exited ≠ 0#32 ∧
      failing.g.ops = [] ∧ failing.g.pend = [] ∧ s.wgStopped 0 = false ∧
      ((s.undo 0).wgCtx 0).any (fun c => decide ((s.undo 0).fetch c 1 = (.inr 0x22000004#32, s.undo 0))) = true ∧
      termOf 0x22000004#32 = .next 4) ∧
    (joining.canonical ∧ 2 ≤ ((List.range 24).filter (fun k => (3#24).getLsbD k)).length ∧
      (∀ k < 24, (3#24).getLsbD k = true → (mget? joining.wgs (wgKey 0 k)).isSome = true ∧
        joining.groups.any (fun e => e.2.wg == wgKey 0 k && !e.2.splits.isEmpty) = true) ∧
      ∀ e ∈ joining.groups, (∀ q ∈ e.2.splits, q.st = .waiting .convj) ∧ e.2.conv = some (3#24).toNat) := by
  refine ⟨⟨canonical_of ?_, ?_, ?_, ?_, ?_, ?_, ?_, ?_, ?_, ?_, ?_, ?_, ?_, rfl⟩, canonical_of ?_, ?_, ?_, ?_⟩ <;> decide +kernel

/-- A watch whose copy is a W copy of version n of line 0. -/
def judged (n : Nat) : Ctx := { base with g := { base.g with watches := [{ watched .pending with ofW := true, ver := n }] } }

/-- The state in which die 0 owns lines 0 and 0xA00, and core 0 holds the latter. -/
def owning (c : Ctx) : State :=
  { reaching c with
    mm := { pages with
      lines := [(0, { Line.fresh with owner := some 0 }), (0xA00, { Line.fresh with owner := some 0 })], held := [copyKey 0 0xA00] } }

/-- A load of all lanes, of a launch with a stale generation. -/
def staleOp : Pend := pending (.load 4 false) 0xFFFFFFFF#32 [part 0 (.mem 0) 0]
def rejected : Ctx :=
  { owing staleOp with g := { (owing staleOp).g with splits := [{ split with inClause := false }] }, l := { launch with gen := 1, faulten := true } }

/-- An HLOAD of entry 0 into slot 15 waits. -/
def binding : Ctx :=
  let c := within base { split with busy := some (.hload 0 15) }
  { c with l := { launch with htab := 0x50000, hcount := 1 } }

/-- Its state, with byte 12 of the entry. -/
def entryAt (x : Byte) : State := { owning binding with mm := { (owning binding).mm with bytes := memPut pages.bytes 0x5000C x } }

theorem witness_AccessEvents :
    ((owning (judged 0)).passing 0 = false ∧ (owning (judged 1)).passing 0 = false ∧
      (owning (judged 0)).gctx 0 = some { judged 0 with sp := Split.start 0#32 0 } ∧
      (owning (judged 0)).verdict 0 { watched .pending with ofW := true } ((owning (judged 0)).asGen 1 != 0) = (none, owning (judged 0)) ∧
      (owning (judged 1)).verdict 0 { watched .pending with ofW := true, ver := 1 } ((owning (judged 1)).asGen 1 != 0) =
        (some 1, owning (judged 1))) ∧
    ((holding rejected).gctx 0 = some rejected ∧ rejected.g.pend = [staleOp] ∧ staleOp.acc ≠ [] ∧
      (holding rejected).stale rejected.l = true ∧ rejected.g.splits = [{ split with inClause := false }] ∧
      split.mask = staleOp.lanes ∧ staleOp.lanes &&& rejected.g.exited = 0#32 ∧ rejected.l.rrMode = 0) ∧
    (∀ x ∈ [0#8, 0xC0#8],
      (entryAt x).ctxOf 0 0 = some binding ∧ binding.g.splits = [binding.sp] ∧ binding.sp.busy = some (.hload 0 15) ∧
      (entryAt x).stale binding.l = false ∧ (entryAt x).passing 0 = false ∧ (entryAt x).vaOf 0 binding.l 0x50000 = (some 0x50000, entryAt x) ∧
      (entryAt x).readPa 0 0x50000 32 .l2 = (List.replicate 12 0#8 ++ [x] ++ List.replicate 19 0#8, none, entryAt x)) ∧
    (handleBad binding 0 = false ∧ handleBad binding (0xC0 * 2 ^ 96) = true) := by
  refine ⟨⟨?_, ?_, ?_⟩, ⟨?_, ?_, ?_, ?_, ?_, ?_, ?_, ?_⟩, ?_, ?_, ?_⟩ <;> decide +kernel

/-! ## Witnesses: events of the engines and of the homes -/

/-- A queued operation of queue q. -/
def queued (q : Nat) (o : EngOp) (started : Bool) : QOp :=
  { id := 0, q := q, pc := 1, op := o, flag := 1, gen := 0, started := started, inBlock := false, after := [], sent := 0, acked := 0,
    rerr := 0, port := 0, bound := none, fcode := 0, hash := 0, met := false, come := [], cut := [] }

/-- The context of a group with that operation. -/
def engaged (o : QOp) : Ctx := { base with g := { base.g with ops := [o], flags := [(1, 1)] }, sp := Split.start 0#32 0 }

/-- A copy of 31 bytes from the scratchpad's start to its last sector. -/
def sectorCopy : EngOp := .cpy [([{ part 0 (.scr 0 0x1FFE1) 0 with n := 31 }], [{ part 0 (.scr 0 0) 0 with n := 31 }])]

/-- The context under a stale launch. -/
def stalled (o : QOp) : Ctx := { engaged o with l := { launch with gen := 1 } }

theorem witness_EngineEvents :
    ((holding (engaged (queued 3 sectorCopy false))).gctx 0 = some (engaged (queued 3 sectorCopy false)) ∧ launch.rrMode = 0 ∧
      (engaged (queued 3 sectorCopy false)).g.startable 3 = some (queued 3 sectorCopy false) ∧
      (holding (engaged (queued 3 sectorCopy false))).qmReady 0 = false ∧
      ((holding (engaged (queued 3 sectorCopy false))).latched 0 1 0 = false ∧
        (holding (engaged (queued 3 sectorCopy false))).passing 0 = false) ∧
      (holding (engaged (queued 3 sectorCopy false))).rel.latent = []) ∧
    ((holding (engaged (queued 4 sectorCopy true))).gctx 0 = some (engaged (queued 4 sectorCopy true)) ∧
      (engaged (queued 4 sectorCopy true)).g.running 4 = some (queued 4 sectorCopy true) ∧
      (holding (engaged (queued 4 sectorCopy true))).stale launch = false ∧ 0x1FFE1 % 32 + 31 ≤ 32 ∧
      (holding (engaged (queued 4 sectorCopy true))).scrRead 0 0 31 = (List.replicate 31 0#8, none) ∧
      base.wg.scrAt 0x1FFE1 = some 0x1FFE1 ∧ Memory.wf base.wg.sram = true) ∧
    ((holding (stalled (queued 0 sectorCopy true))).gctx 0 = some (stalled (queued 0 sectorCopy true)) ∧
      (holding (stalled (queued 0 sectorCopy true))).stale (stalled (queued 0 sectorCopy true)).l = true) ∧
    ((holding (engaged (queued 5 (.mzero 0xFFFF) false))).engGroups 0 = [(0, (engaged (queued 5 (.mzero 0xFFFF) false)).g)] ∧
      (engaged (queued 5 (.mzero 0xFFFF) false)).g.running 5 = none ∧
      (engaged (queued 5 (.mzero 0xFFFF) false)).g.startable 5 = some (queued 5 (.mzero 0xFFFF) false) ∧
      (holding (engaged (queued 5 (.mzero 0xFFFF) false))).latched 0 2 0 = false ∧
      (holding (engaged (queued 5 (.mzero 0xFFFF) false))).passing 0 = false) ∧
    ((holding (engaged (queued 5 (.mzero 0x8001) true))).engGroups 0 = [(0, (engaged (queued 5 (.mzero 0x8001) true)).g)] ∧
      (engaged (queued 5 (.mzero 0x8001) true)).g.running 5 = some (queued 5 (.mzero 0x8001) true)) := by
  refine ⟨⟨?_, ?_, ?_, ?_, ?_, ?_⟩, ⟨?_, ?_, ?_, ?_, ?_, ?_, ?_⟩, ⟨?_, ?_⟩, ⟨?_, ?_, ?_, ?_, ?_⟩, ?_, ?_⟩ <;> decide +kernel

/-- A started operation of the engine behind queue q; and the state that holds it, in which die 0 owns lines 0xA00 and 0xBFF. -/
def ranOp (q : Nat) (o : EngOp) : QOp := queued q o true
def ran (o : QOp) : State := homed (engaged o)

/-- Four bytes copied from memory to memory. -/
def memCopy : QOp := ranOp 4 (.cpy [([part 0 (.mem 0x5FFFC) 0], [part 0 (.mem 0x5007C) 0])])

theorem witness_EngineEvents_copy :
    (ran memCopy).gctx 0 = some (engaged memCopy) ∧ (engaged memCopy).g.running 4 = some memCopy ∧
    (ran memCopy).latched 0 1 0 = false ∧ (ran memCopy).stale launch = false ∧ (ran memCopy).Sound ∧
    (ran memCopy).engRead ((engaged memCopy).atOp memCopy) [part 0 (.mem 0x5007C) 0] = (List.replicate 4 (0#8, none), ran memCopy) := by
  refine ⟨?_, ?_, ?_, ?_, ⟨?_, ?_, ?_, ?_, ?_, ?_⟩, ?_⟩ <;> decide +kernel

/-- A block copy with the descriptor db at the scratchpad's last place, and the part that STATUS is written to. -/
def blockCopy (dst src db : Nat) : QOp := { ranOp 4 (.cpyb 0x300000000001FFC0 dst src) with bound := some db }
def statusPart (n : Nat) : Access := { part 0 (.scr 0 0x1FFF0) 0 with off := n, n := 8 }

/-- One row of 4 bytes; one group of format 4 from a stream to planes; one from a line that may hold one element. -/
def rowDesc : Nat := 4 * 2 ^ 32 + 2 ^ 64
def planeDesc : Nat := 1 + 4 * 2 ^ 3 + 2 ^ 32 + 2 ^ 64
def lineDesc : Nat := 3 + 4 * 2 ^ 3 + 2 ^ 8 + 2 ^ 32 + 2 ^ 64

/-- The source and destination parts of a row or group of m and n bytes, at alignments al and bl. -/
def moved (o : QOp) (src dst m al n bl : Nat) : List Access × List Access :=
  match ((ran o).engMove ((engaged o).atOp o) { addr := src, n := m, al := al, kind := .load }
      { addr := dst, n := n, al := bl, kind := .store }).1 with
  | .inr p => p
  | .inl _ => ([], [])

/-- Every part is in memory, within n bytes. -/
def inMem (ps : List Access) (n : Nat) : Bool := ps.all (fun a => a.off + a.n ≤ n && (match a.loc with
  | .mem _ => true
  | _ => false))

/-- What the statement asks of a copy between memory lines, computed. -/
def movable (o : QOp) (db m al n bl : Nat) : Bool :=
  let ps := moved o 0x50000 0x5FF80 m al n bl
  decide ((ran o).gctx 0 = some (engaged o) ∧ (engaged o).g.running 4 = some o ∧ (ran o).latched 0 1 0 = false ∧
    (ran o).stale launch = false ∧ (ran o).mm.asBusy = none ∧ (ran o).asGen launch.aspace = launch.gen ∧
    o.op.desc? = some (3 * 2 ^ 60 + 0x1FFC0) ∧ o.bound = some db ∧ 0x1FFC0 % 8 = 0 ∧ 0x1FFC0 + 0x38 ≤ launch.scratch ∧
    base.wg.scrOk (0x1FFC0 + 0x30) 8 = true ∧ (descOf db).bad false = false ∧ (descOf db).rows = 1 ∧
    (ran o).engMove ((engaged o).atOp o) { addr := 0x50000, n := m, al := al, kind := .load }
      { addr := 0x5FF80, n := n, al := bl, kind := .store } = (.inr ps, ran o) ∧
    (ran o).engRead ((engaged o).atOp o) ps.1 = (List.replicate m (0#8, none), ran o)) &&
  inMem ps.2 n && (upto 8).all (fun i => base.wg.scrAt (0x1FFF0 + i) == some (0x1FFF0 + i))

theorem witness_EngineEvents_rows :
    movable (blockCopy 0x5FF80 0x50000 rowDesc) rowDesc 4 1 4 1 = true ∧ (descOf rowDesc).mode = 0 ∧ (descOf rowDesc).len = 4 ∧
    movable (blockCopy 0x5FF80 0x50000 planeDesc) planeDesc 64 16 64 16 = true ∧ (descOf planeDesc).mode = 1 ∧
      (descOf planeDesc).len = 1 ∧ (descOf planeDesc).layouts = (.stream, .plane) ∧ (descOf planeDesc).fmt = 4 ∧
    (∀ keep, groupOf .plane 4 (fun i j => elementBit .stream 4 0 i j) keep 0) ∧
    movable (blockCopy 0x5FF80 0x50000 lineDesc) lineDesc 128 128 64 16 = true ∧ (descOf lineDesc).mode = 3 ∧
      (descOf lineDesc).nz = 1 ∧ (descOf lineDesc).layouts = (.line, .stream) ∧ 1 < maskCount 3 0 128 := by
  refine ⟨?_, ?_, ?_, ?_, ?_, ?_, ?_, ?_, fun keep => ?_, ?_, ?_, ?_, ?_, ?_⟩
  case refine_9 => exact ⟨fun i _ j _ => by simp [elementBit], fun b _ => by simp⟩
  all_goals decide +kernel

/-- Three rows of 4 bytes, 8 bytes apart in the source and descending by 8 in the destination; three entries of 4 bytes of a table
of 5. -/
def rowsDesc : Nat := 4 * 2 ^ 32 + 3 * 2 ^ 64 + 8 * 2 ^ 128 + (2 ^ 64 - 8) * 2 ^ 192
def indexDesc : Nat := 5 + 2 * 2 ^ 18 + 3 * 2 ^ 32 + (3 * 2 ^ 60 + 0x1000) * 2 ^ 256 + 5 * 2 ^ 320
def indexCopy (b : Bool) : QOp :=
  { ranOp 4 (.cpyx b 0x300000000001FFC0 0x3000000000000100 0x3000000000000200) with bound := some indexDesc }

theorem scrAt_base (x : Nat) (h : x < base.l.scratch) : base.wg.scrAt x = some (0 + x) := by
  have hx : x < 0x20000 := h
  have hb : base.wg.list = [0] ∧ (mget? base.wg.banks 0).map (·.mode) = some .scratch := by decide +kernel
  obtain ⟨k, hk, hm⟩ := Option.map_eq_some_iff.mp hb.2
  simp [Wg.scrAt, hb.1, hk, hm, Nat.div_eq_of_lt hx, Nat.mod_eq_of_lt hx]

theorem witness_EngineEvents_scratchpad :
    (let o := blockCopy 0x3000000000000110 0x3000000000000000 rowsDesc
     (ran o).gctx 0 = some (engaged o) ∧ (engaged o).g.running 4 = some o ∧ (descOf rowsDesc).bad false = false ∧
       (descOf rowsDesc).mode = 0 ∧ (descOf rowsDesc).rows = 3 ∧ (descOf rowsDesc).ds = -8 ∧ (descOf rowsDesc).ss = 8 ∧
       ∀ i < 3, 8 * i + 4 ≤ base.l.scratch ∧ (∀ k < 3, 8 * k + 4 ≤ 0x110 - 8 * i) ∧ 0x110 - 8 * i + 4 ≤ 0x1FFC0 + 0x30) ∧
    (∀ b, (ran (indexCopy b)).gctx 0 = some (engaged (indexCopy b)) ∧ (engaged (indexCopy b)).g.running 4 = some (indexCopy b) ∧
      (ran (indexCopy b)).latched 0 1 0 = false ∧ (ran (indexCopy b)).stale launch = false) ∧
    ((descOf indexDesc).bad true = false ∧ (descOf indexDesc).base = 3 * 2 ^ 60 + 0x1000 ∧ 2 ^ (descOf indexDesc).esz = 4 ∧
      (descOf indexDesc).len = 3 ∧ (descOf indexDesc).limit = 5 ∧ 0x200 % 4 = 0 ∧ 0x100 + 3 * 4 ≤ 0x200 ∧ 0x200 + 4 * 3 ≤ 0x1000 ∧
      0x1000 + 5 * 4 ≤ base.l.scratch ∧ base.l.scratch ≤ 2 ^ 22 ∧ Memory.wf base.wg.sram = true ∧ base.wg.spois = []) := by
  refine ⟨?_, fun b => ?_, ?_⟩
  case refine_2 => cases b <;> decide +kernel
  all_goals decide +kernel

/-- A matrix operation under way, of a launch with the format slot of multiplying. -/
def mating (o : EngOp) : Ctx := { engaged (ranOp 5 o) with l := multiplying.l }

/-- What the statements ask of every matrix operation, computed. -/
def mates (o : EngOp) : Bool :=
  decide ((holding (mating o)).gctx 0 = some (mating o) ∧ (holding (mating o)).engGroups 0 = [(0, (mating o).g)] ∧
    (mating o).g.running 5 = some (ranOp 5 o) ∧ (holding (mating o)).stale (mating o).l = false ∧
    (mating o).l.traces 0x13 = false)

/-- The 16 KB of a tile's image in the scratchpad, and its image when every cell is zero. -/
def tilePart : Access := { part 0 (.scr 0 0x1C000) 0 with n := 16384 }

theorem witness_EngineEvents_matrix :
    mates (.mma false 1 15 0x1F000 0x1F000 []) = true ∧ mates (.mma true 1 14 0x1F000 0x1F000 []) = true ∧
    (slotAccepted (multiplying.l.slots.getD 1 0#64) = true ∧ slotNZ (multiplying.l.slots.getD 1 0#64) = 0 ∧
      bytesA (multiplying.l.slots.getD 1 0#64) = 4096 ∧ bytesB (multiplying.l.slots.getD 1 0#64) = 4096 ∧ 0x1F000 / 2 ^ 30 = 0 ∧
      ∀ i < 32, (holding (mating (.mzero 0))).scrRead 0 (0x1F000 % 2 ^ 30 + 128 * i) 128 =
        (((List.replicate 4096 0#8).drop (128 * i)).take 128, none)) ∧
    (mates (.mst 15 [tilePart]) = true ∧ mates (.mstn 1 15 [{ tilePart with n := 4128 }] [] []) = true ∧
      tilePart.off + tilePart.n ≤ 16384 ∧ mget? (holding (mating (.mst 15 [tilePart]))).wgs 0 = some base.wg ∧
      512 * fmtWidth (slotFA (multiplying.l.slots.getD 1 0#64)) + 32 = 4128 ∧ 0x1C000 + 16384 ≤ base.l.scratch ∧
      Memory.wf base.wg.sram = true ∧ mgetD base.wg.tiles 15 Tile.zero = Tile.zero ∧ Tile.zero.pois = []) ∧
    (mates (.mckv 12 14 oneVal) = true ∧ mates (.mckc 14 [0x80000000, 0, 0, 1]) = true ∧ mates (.mckc 14 [3, 0, 0, 1]) = true ∧
      mget? (mgetD base.wg.tiles 15 Tile.zero).pois 0 = none ∧ mget? (mgetD base.wg.tiles 15 Tile.zero).pois 1 = none ∧
      0x80000000 + 0 * 2 ^ 32 = 2 ^ 31 ∧ 0 + 1 * 2 ^ 32 = 2 ^ 32 ∧ Tile.zero.cells = [] ∧ ∀ r, r < 64 → 3 + 0 * 2 ^ 32 ≠ 2 ^ r) := by
  refine ⟨?_, ?_, ⟨?_, ?_, ?_, ?_, ?_, ?_⟩, ?_, ?_⟩ <;> decide +kernel

/-- An engine's read of clean zeros, part by part. -/
theorem engRead_zeros {s : State} {c : Ctx} {ps : List Access} (h : ∀ p ∈ ps.flatMap (fun p => p.cut p.grain),
    s.readPart c.g.core { p with keep := .l2 } = (List.replicate p.n 0#8, none, s)) :
    s.engRead c ps = ((ps.flatMap (fun p => p.cut p.grain)).flatMap (fun p => List.replicate p.n (0#8, none)), s) := by
  unfold State.engRead
  generalize ps.flatMap (fun p => p.cut p.grain) = qs at h ⊢
  have go : ∀ acc, qs.foldl (fun (acc : List EByte × State) p =>
      let (bs, t, s) := acc.2.readPart c.g.core { p with keep := .l2 }
      (acc.1 ++ bs.map (fun b => (b, t)), s)) (acc, s) = (acc ++ qs.flatMap (fun p => List.replicate p.n (0#8, none)), s) := by
    induction qs with
    | nil => simp
    | cons q qs ih => intro acc; simp [h q (by simp), ih (fun p hp => h p (by simp [hp])), List.append_assoc]
  simpa using go []

/-- The image that MLD reads is 16 KB long, and the reading changes nothing. -/
theorem witness_EngineEvents_mld :
    mates (.mld 15 [tilePart]) = true ∧
    ∃ bs, (holding (mating (.mld 15 [tilePart]))).engRead ((mating (.mld 15 [tilePart])).atOp (ranOp 5 (.mld 15 [tilePart]))) [tilePart] =
      (bs, holding (mating (.mld 15 [tilePart]))) ∧ bs.length = 16384 := by
  refine ⟨by decide +kernel, _, engRead_zeros (fun p hp => ?_), ?_⟩
  · have h : ([tilePart].flatMap (fun p => p.cut p.grain)).all (fun p => decide
        ((holding (mating (.mld 15 [tilePart]))).readPart 0 { p with keep := .l2 } =
          (List.replicate p.n 0#8, none, holding (mating (.mld 15 [tilePart]))))) = true := by decide +kernel
    exact of_decide_eq_true (List.all_eq_true.mp h p hp)
  · rw [List.length_flatMap]; simp only [List.length_replicate]; decide +kernel

/-- Line 7 modified by die 1 at version 0xFFFE; line 8 unowned with a V copy of version n at die 0. -/
def coherent (n : Nat) : State :=
  { State.reset with mm := { State.reset.mm with
      lines := [(7, { Line.fresh with version := 0xFFFE, owner := some 1, dirty := true }), (8, { Line.fresh with version := 1 })]
      vcopy := [(copyKey 0 8, { ver := n, stamp := 0, data := 0#1024, pois := none, ro := false })] } }

/-- An advance of address space 3 under way. -/
def advancing : State := { State.reset with mm := { State.reset.mm with asBusy := some (3, true) } }

/-- A watch of identifier 0 on line 0 of core 0 pending, WRAP of line 0 set after it; die 0 owns the line. -/
def wrapping : State :=
  { holding (watching .pending) with mm := { State.reset.mm with
      lines := [(0, { Line.fresh with owner := some 0, wrap := true, swrap := true, wrapId := 1, swrapId := 1 })] } }

theorem witness_CoherenceEvents :
    (b64 ((coherent 1).reg 0x27) 0 0 = 0 ∧ (∀ x ∈ (coherent 1).mm.lines, x.2.flip = none) ∧ (coherent 1).askable 0 7 = true ∧
      ((coherent 1).line 7).version < 0xFFFF ∧ ((coherent 1).line 7).owner = some 1 ∧ ((coherent 1).line 7).dirty = true) ∧
    (∀ n < 2, (coherent n).askable 0 8 = true ∧ ((coherent n).line 8).owner = none ∧
      (mget? (coherent n).mm.vcopy (copyKey 0 8)).any (fun k => k.ver == n) = true ∧ ((coherent n).line 8).version = 1) ∧
    ((coherent 1).rel.latent = [] ∧ wrapping.asking 0 (wrapping.line 0).wrapId none = true ∧
      wrapping.asking 0 (wrapping.line 0).swrapId (some 0) = true ∧ wrapping.asking 0 (wrapping.line 0).swrapId (some 1) = false ∧
      (coherent 1).asking 7 ((coherent 1).line 7).wrapId none = false) ∧
    (State.reset.mm.asBusy = none ∧ advancing.mm.asBusy = some (3, true)) := by
  refine ⟨⟨?_, ?_, ?_, ?_, ?_, ?_⟩, ?_, ⟨?_, ?_, ?_, ?_, ?_⟩, ?_, ?_⟩ <;> decide +kernel

/-- An error record in slot 4095. -/
def recorded : State :=
  let r : ErrRec := { valid := true, ovf := true, sev := 0, inj := false, count := 3, addr := 0, time := 0, hold := false, unit := 0,
                      kind := 0, space := 0, synd := 0, owner := none }
  { State.reset with rel := { State.reset.rel with recs := [(4095, r)] } }

theorem witness_ReliabilityEvents :
    (recorded.fld 0x23 0 0 = 0 ∧ (0x1FFF#64).toNat % 2 = 1 ∧ (mget? recorded.rel.recs ((0x1FFF#64).toNat / 2 % 2 ^ 12)).isSome = true ∧
      recorded.rel.heldR = []) ∧
    ((1#64).toNat / 2 % 4 ≠ 3 ∧ paReachable (State.reset.fld 0x26 47 7 * 128) = true ∧ (7#64).toNat / 2 % 4 = 3) ∧
    (State.reset.fld 0x23 0 0 = 0 ∧ State.reset.fld 0x28 0 0 = 1 ∧ State.reset.power.applied.contains 1 = false ∧
      State.reset.rel.scrubAt + 1 < 2 ^ 32 ∧ State.reset.rel.latent = []) ∧
    ((coherent 0).fld 0x23 0 0 = 0 ∧ mget? (coherent 0).mm.deadDie (1#2).toNat = none ∧ (coherent 0).gangs = [] ∧
      (coherent 0).launches = [] ∧ mget? (coherent 0).mm.deadStack (7#3).toNat = none ∧
      mget? (coherent 0).mm.deadCtl (1#1).toNat = none) := by
  refine ⟨⟨?_, ?_, ?_, ?_⟩, ⟨?_, ?_, ?_⟩, ⟨?_, ?_, ?_, ?_, ?_⟩, ?_, ?_, ?_, ?_, ?_, ?_⟩ <;> decide +kernel

/-! ## Witnesses: events of the dispatcher and of Kulintang -/

/-- A group that has exited. -/
def exited : Ctx := { base with g := { base.g with splits := [], exited := 0xFFFFFFFF#32, retiring := true } }

/-- A launch whose only gang has gone, with its event or none. -/
def ended (b : Bool) : State := { State.reset with launches := [(0, { launch with sigen := b, sigev := 5, sigadd := 1 })] }

/-- An update of event 5 is handed over. -/
def handed (op v : Nat) : State :=
  { State.reset with kul := { State.reset.kul with
      events := [(5, 0xFFFFFFFF)], held := [{ ev := 5, op := op, v := v, part := 0, sclass := 0, sinst := 0, mask := false }] } }

/-- A queue waits for event 5 to reach n. -/
def awaiting (n : Nat) : State :=
  { State.reset with kul := { State.reset.kul with
      queues := [(1023, { Queue.fresh with st := .waiting, wait := some (0, 0, false) })], events := [(5, 9)]
      waiters := [{ n := 0, event := 5, thresh := n, owner := .queue 1023 0 0 false, part := 0, ovf := none, fired := false }] } }

/-- The queue waits no more, the entry of its WAIT does. -/
def answered : State := { awaiting 9 with kul := { (awaiting 9).kul with queues := [(1023, { Queue.fresh with st := .ready })] } }

theorem witness_RetirementAndEvents :
    ((paired exited).canonical ∧ owned (paired exited) exited = true ∧ mget? (paired exited).groups 0 = some exited.g ∧
      exited.g.retiring = true ∧ exited.g.retired = false ∧ exited.g.splits = [] ∧ (∀ f < 12, exited.g.flag f = 0) ∧
      exited.g.ops = [] ∧ exited.g.pend = [] ∧ exited.wg.conv = none ∧ exited.l.rrMode = 0 ∧ (paired exited).fld (nPCTL 0) 3 3 = 0 ∧
      (1, Group.placed 0 1 0 1 0 0) ∈ (paired exited).groups) ∧
    ((holding exited).canonical ∧ (holding exited).groups = [(0, exited.g)] ∧ (holding exited).wgs = [(exited.g.wg, exited.wg)] ∧
      exited.g.wg / 32 = exited.wg.gang ∧ exited.wg.conv = none) ∧
    (∀ b, (ended b).canonical ∧ (mget? (ended b).launches 0).any (fun l => l.ended == none && l.gx * l.gy * l.gz ≤ l.nextGang) = true ∧
      (ended b).gangs = []) ∧
    (∀ op < 3, (handed op 1).canonical ∧ (handed op 1).kul.queues = [] ∧ (handed op 1).kul.held.length = 1) ∧
    ((awaiting 9).canonical ∧ (awaiting 9).kul.waiters.length = 1 ∧ 9 ≤ (awaiting 9).event 5 ∧
      ((awaiting 9).queue 1023).wait = some (0, 0, false) ∧ ((awaiting 9).queue 1023).st = .waiting ∧ ((awaiting 9).queue 1023).cqstall = false ∧ (awaiting 10).event 5 < 10) ∧
    (answered.kul.waiters = (awaiting 9).kul.waiters ∧ 9 ≤ answered.event 5 ∧ (answered.queue 1023).cqstall = false ∧
      (answered.queue 1023).wait ≠ some (0, 0, false) ∧ answered.canonical) := by
  refine ⟨⟨canonical_of ?_, ?_, ?_, ?_, ?_, ?_, ?_, ?_, ?_, ?_, ?_, ?_, ?_⟩, ⟨canonical_of ?_, ?_, ?_, ?_, ?_⟩,
    fun b => ⟨canonical_of ?_, ?_, ?_⟩, fun op _ => ⟨canonical_of ?_, rfl, rfl⟩,
    ⟨canonical_of ?_, ?_, ?_, ?_, ?_, ?_, ?_⟩, ?_, ?_, ?_, ?_, canonical_of ?_⟩
  case refine_19 => cases b <;> decide +kernel
  case refine_20 => cases b <;> decide +kernel
  case refine_21 => rfl
  case refine_22 => exact ⟨⟨.nil, .nil, .nil⟩, rfl, rfl⟩
  all_goals decide +kernel

/-- A queue whose launch has its gang still to be placed. -/
def unplaced : State :=
  { State.reset with
    launches := [(launchKey 5 0, { launch with nextGang := 0 })]
    kul := { State.reset.kul with queues := [(5, { Queue.fresh with st := .idle, enable := true })], passes := [0] }
    time := 16000 }

/-- The gang of the base context in state x, under a ladder on its queue at step k. -/
def laddered (k : Nat) (x : Option GangState) : State :=
  let gs := match x with
    | some y => [(0, { gang with st := y, slot := some 0 })]
    | none => []
  let ld : Ladder := { top := 3, hold := true, step := k, since := 0, rung := 0, done := [], disable := false }
  { holding base with gangs := gs, time := 500 * 16000
                      kul := { State.reset.kul with queues := [(5, { Queue.fresh with st := .idle, ladder := some ld })] } }

/-- A gang to be saved. -/
def saving : State := { holding base with gangs := [(0, { gang with st := .saving, slot := some 0 })] }

/-- A faulted split beside another group. -/
def faulted : Ctx := within base { split with st := .faulted, ret := 5, inClause := false }

theorem witness_DispatcherEvents :
    ((State.reset).canonical ∧ (0#4).toNat ∉ State.reset.kul.passes) ∧
    (unplaced.canonical ∧ 0 ∈ unplaced.kul.passes ∧ mgetD unplaced.kul.lastPass 0 0 + 16000 ≤ unplaced.time ∧
      unplaced.dispatchOrder 0 = [5] ∧ unplaced.dispLatched 0 = false ∧
      (unplaced.headGang 5).any (fun h => (unplaced.firstFit h).any (fun o =>
        (((unplaced.placeHead h o).placedHead 0 h.nk).headGang 5).isNone &&
          !((unplaced.placeHead h o).placedHead 0 h.nk).dispLatched 0)) = true) ∧
    ((laddered 1 none).canonical ∧ ((laddered 1 none).queue 5).ladder.any (fun x => x.hold && !x.disable) = true ∧
      ((laddered 1 none).queue 5).st ≠ .disabled ∧ (laddered 1 none).gangsIn 5 (fun st => st == .draining || st == .saving) = []) ∧
    ((laddered 1 (some .draining)).canonical ∧ 0 + (laddered 1 (some .draining)).fld 0x1E 31 0 * 16000 ≤ (laddered 1 (some .draining)).time ∧
      ((laddered 1 (some .draining)).gangsIn 5 (· == .draining)).any (fun e => e.2.slot.isSome) = true ∧
      ((laddered 1 (some .draining)).gangsIn 5 (· == .draining)).length = 1) ∧
    ((laddered 2 (some .saving)).canonical ∧ 0 + (laddered 2 (some .saving)).fld 0x1F 31 0 * 16000 ≤ (laddered 2 (some .saving)).time ∧
      ((laddered 2 (some .saving)).gangsIn 5 (· == .saving)).length = 1) ∧
    (saving.canonical ∧ saving.saveReady 0 = true ∧ saving.anyStruck 0 = false ∧ (∀ e ∈ saving.groups, e.2.delayed = []) ∧
      (saving.queue 5).ladder = none) ∧
    ((paired faulted).canonical ∧ (paired faulted).fresumeGroup 5 = some 0 ∧ mget? (paired faulted).groups 0 = some faulted.g ∧
      faulted.g.splits = [faulted.sp] ∧ faulted.sp.st = .faulted ∧ faulted.sp.handler = false ∧
      mget? (paired faulted).wgs 0 = some faulted.wg ∧ faulted.wg.conv = none ∧ faulted.sp.mask ≠ 0#32) := by
  refine ⟨⟨canonical_of ?_, ?_⟩, ⟨canonical_of ?_, ?_, ?_, ?_, ?_, ?_⟩, ⟨canonical_of ?_, ?_, ?_, ?_⟩, ⟨canonical_of ?_, ?_, ?_, ?_⟩,
    ⟨canonical_of ?_, ?_, ?_⟩, ⟨canonical_of ?_, ?_, ?_, ?_, ?_⟩, canonical_of ?_, ?_, ?_, ?_, ?_, ?_, ?_, ?_, ?_⟩ <;> decide +kernel

/-- A well-formed control block at 0x1000: ring 0x2000 of 16 packets, state array 0x3000 of 256 bytes. -/
def control : Nat := 0x2000 + 0x3000 * 2 ^ 256 + 256 * 2 ^ 320

/-- Queue 1023 as x, completion queue 0 enabled for partition 0, the bundle running. -/
def queuing (x : Queue) : State :=
  { State.reset with
    mm := { State.reset.mm with bytes := memPutL [] 0x1000 (bytesLE 64 control) }
    kul := { State.reset.kul with queues := [(1023, x)], cqs := [(0, { Cq.fresh with cfg := 0x100000000#64 })] }
    boot := { State.reset.boot with running := true } }

/-- The queue enabled, in state st. -/
def ready (st : QState) : Queue := { Queue.fresh with addr := 0x1000, enable := true, st := st }

/-- A completion queue whose interrupt is due after 1 µs, at time n. -/
def coalescing (n : Nat) : State :=
  { State.reset with time := n, kul := { State.reset.kul with
      cqs := [(255, { Cq.fresh with coal := 0x1000101#64, p := 1 })] } }

/-- A module with the host port; with MSI-X on and vector 0 open; and with the function masked. -/
def hosted (s : State) : State := { s with links := { s.links with sl15 := true } }
def opened (s : State) : State :=
  { hosted s with links := { (hosted s).links with pci := { s.links.pci with msixOn := true, table := [(0, 0#64, 0#32, 0#32)] } } }
def masked (s : State) : State := { s with links := { s.links with pci := { s.links.pci with masked := true } } }

theorem witness_QueueEvents :
    ((queuing Queue.fresh).ctlBad control = false ∧ ((queuing Queue.fresh).queue 1023).enable = false ∧
      ((queuing Queue.fresh).queue 1023).ladder = none ∧ (queuing Queue.fresh).boot.running = true ∧
      (queuing Queue.fresh).readCtl ((0x1001#64).toNat / 64 * 64) = (control, false, queuing Queue.fresh)) ∧
    (∀ st, st = .idle ∨ st = .error → (queuing (ready st)).ctlBad control = false ∧ ((queuing (ready st)).queue 1023).st ≠ .disabled ∧
      ((queuing (ready st)).queue 1023).enable = true ∧
      (queuing (ready st)).readCtl ((queuing (ready st)).queue 1023).addr = (control, false, queuing (ready st)) ∧
      (queuing (ready st)).launches = [] ∧ ((queuing (ready st)).queue 1023).ladder = none ∧
      ((queuing (ready st)).queue 1023).cqstall = false) ∧
    (2 ^ (control / 2 ^ 64 % 16 + 4) = 16 ∧ 16 < (0 + 2 ^ 32 - 16) % 2 ^ 32 ∧ (16 + 2 ^ 32 - 0) % 2 ^ 32 ≤ 16 ∧
      (16#64).toNat % 2 ^ 32 = 16 ∧ (16#64).toNat / 2 ^ 33 % 4 = 0) ∧
    (((queuing Queue.fresh).cq 7).items = [] ∧ b64 ((queuing Queue.fresh).cq 7).coal 24 24 = 0 ∧ (16#64).toNat % 32 ≤ 16) ∧
    (let x := (coalescing 16000).cq 255
     b64 x.coal 24 24 = 1 ∧ b64 x.coal 23 8 ≠ 0 ∧ 1 ≤ x.p ∧ x.first + b64 x.coal 23 8 * 16000 ≤ (coalescing 16000).time ∧
      (opened (coalescing 16000)).links.pci.holds (b64 x.cfg 26 16) = false ∧ (opened (coalescing 16000)).links.sl15 = true ∧
      (masked (opened (coalescing 16000))).links.pci.holds (b64 x.cfg 26 16) = true ∧
      ¬ x.first + b64 x.coal 23 8 * 16000 ≤ (coalescing 15999).time) ∧
    ((queuing Queue.fresh).wgsOn 191 = [] ∧ (queuing Queue.fresh).kul.anchors = [] ∧ (holding base).wgsOn 0 ≠ []) ∧
    (let x := fun (v : BitVec 64) => v &&& 0xF001FFFF0000FFFF#64
     65536 < b64 (x 0x10010000F000#64) 15 0 + b64 (x 0x10010000F000#64) 48 32 ∧
      b64 (x 0x10000000F000#64) 15 0 + b64 (x 0x10000000F000#64) 48 32 = 65536 ∧
      (∀ k < 15, (queuing Queue.fresh).fld (0x40 + k) 15 0 + (queuing Queue.fresh).fld (0x40 + k) 48 32 ≤ 0xF000) ∧
      (queuing Queue.fresh).fld 0x4F 48 0 = b64 (x 0x10000000F000#64) 48 0) ∧
    ((queuing Queue.fresh).power.st ≠ .off ∧ (queuing Queue.fresh).links.pci.d3hot = false ∧
      (queuing Queue.fresh).links.pci.ecrcChk = false ∧ (queuing Queue.fresh).power.input = true) := by
  refine ⟨⟨?_, ?_, ?_, ?_, ?_⟩, ?_, ⟨?_, ?_, ?_, ?_, ?_⟩, ⟨?_, ?_, ?_⟩, ⟨?_, ?_, ?_, ?_, ?_, ?_, ?_, ?_⟩, ⟨?_, ?_, ?_⟩, ?_, ?_⟩
  case refine_6 => rintro st (rfl | rfl) <;> decide +kernel
  all_goals decide +kernel

/-! ## Witnesses: power, boot, time, Peal and debug -/

/-- The initial record of a drain of one persist line at 0x4000, and its final record. -/
def record (last : Bool) : DrainRec :=
  { level := 0, status := if last then 0x51 else 0, saved := [0, 0, 0, 0, if last then 128 else 0]
    plist := [(0x4000, 128, if last then 128 else 0)] }

/-- That drain when n sections have ended, with its final record or without. -/
def drain (n : Nat) (last : Bool) : Drain :=
  { seq := 1, time := 0, energy := 0, planned := [0, 0, 0, 0, 128], banks := [], first := record false
    final := if last then some (record true) else none, done := n, chunks := [], kept := { wgs := [], groups := [] }, gangs := []
    kul := Kul.reset, bytes := [(0x4001, 7#8)], pois := [], claimed := false }

/-- A drain under way, or the power gone, with drain n in slot A, the input there or not. -/
def powered (st : PowerState) (n : Nat) (input : Bool) : State :=
  { State.reset with power := { State.reset.power with
      st := st, slotA := some (drain n (n == 5)), input := input, wake := st == .off && !input } }

theorem witness_PowerEvents :
    (State.reset.power.st = .on ∧ State.reset.rel.latent = [] ∧ (powered .draining 0 false).power.st ≠ .on) ∧
    (∀ n ≤ 5, (powered .draining n false).power.slot (powered .draining n false).power.writing = some (drain n (n == 5)) ∧
      (drain n (n == 5)).last = n) ∧
    ((powered .off 5 false).power.st = .off ∧ (powered .off 5 false).power.input = false ∧ (powered .off 5 false).power.wake = true) ∧
    ((powered .off 5 true).power.input = true ∧ (powered .off 5 true).power.wake = false ∧ State.reset.power.input = true) := by
  refine ⟨⟨rfl, rfl, by decide⟩, ?_, ⟨rfl, rfl, rfl⟩, rfl, rfl, rfl⟩
  decide +kernel

/-- Slot A selected at power-on; a restore under way. -/
def restorable (b : Bool) : State :=
  { State.reset with power := { State.reset.power with slotA := some (drain 5 true), sel := some 0, restoring := b } }

/-- A bundle of one byte to be checked; a bundle newer than the counter; a report due. -/
def checking : State := { State.reset with boot := { State.reset.boot with busy := true, len := 1#64 } }
def newer : State := { State.reset with boot := { State.reset.boot with runver := 1, ctr := some 0 } }
def attesting : State := { State.reset with boot := { State.reset.boot with atbusy := true, hashes := [0#8] } }

/-- What Sound asks, computed. -/
theorem sound_of {s : State} (h : (Memory.wf s.mm.bytes = true ∧ b64 (s.reg 0x27) 0 0 = 0 ∧ ∀ x ∈ s.mm.lines, x.2.flip = none) ∧
    s.mm.flips = [] ∧ (s.rel.latent = [] ∧ s.mm.deadStack = [] ∧ s.mm.deadCtl = [])) : s.Sound :=
  ⟨h.1.1, h.1.2.1, h.1.2.2, h.2.1, h.2.2.1, h.2.2.2⟩

theorem witness_RestartAndBoot :
    (State.reset.power.selected = none ∧ State.reset.power.sel = none ∧ State.reset.boot.busy = false ∧
      State.reset.boot.running = false ∧ State.reset.boot.atbusy = false) ∧
    ((restorable false).power.selected = some (drain 5 true) ∧ (restorable false).kul.launched = false ∧
      (restorable false).power.restoring = false ∧ (∀ k < 4, (drain 5 true).now.saved.getD k 0 = 0) ∧
      128 * (persistLines ((drain 5 true).first.plist.map (fun r => (r.1, r.2.1, [])))).length ≤ (drain 5 true).now.saved.getD 4 0 ∧
      (restorable false).Sound ∧ (restorable true).power.restoring = true ∧ (restorable true).power.sel = some 0) ∧
    (checking.boot.busy = true ∧ b64 checking.boot.len 26 0 = 1 ∧
      b64 checking.boot.addr 44 12 * 4096 + b64 checking.boot.len 26 0 ≤ 0x7FFE000000 ∧
      checking.homeRead (b64 checking.boot.addr 44 12 * 4096) (b64 checking.boot.len 26 0) = ([0#8], none, checking)) ∧
    (newer.boot.counter < newer.boot.runver ∧ attesting.boot.atbusy = true ∧ attesting.boot.hashes ≠ []) := by
  refine ⟨⟨?_, ?_, ?_, ?_, ?_⟩, ⟨?_, ?_, ?_, ?_, ?_, sound_of ?_, ?_, ?_⟩, ⟨?_, ?_, ?_, ?_⟩, ?_, ?_, ?_⟩ <;> decide +kernel

/-- A pin order at time 0, at time t. -/
def ordered (t : Nat) : State := { State.reset with time := t, power := { State.reset.power with pinAt := some 0 } }

/-- The readings of one operating point at which one monitor stands apart, and the islands' replies of six such. -/
def readings : List Nat := [10, 11, 12, 300]

/-- The current limit at duty n; a re-plan of islands 255 and 0. -/
def current (b : Bool) (n : Nat) : State := { State.reset with power := { State.reset.power with limiting := b, duty := n } }
def replanning : State := { State.reset with power := { State.reset.power with replan := [255, 0] } }

/-- A step order whose cap is pursued since time 0, at time n; the clock in holdover. -/
def pursuing (n : Nat) : State := { State.reset with time := n, power := { State.reset.power with pursue := some 0 } }
def drifting : State := { State.reset with links := { State.reset.links with holdover := true } }

theorem witness_TocsinMarginsAndTime :
    (State.reset.power.st = .on ∧ State.reset.power.level < 8 ∧ State.reset.power.limiting = false ∧ State.reset.power.replan = [] ∧
      State.reset.power.hours + 1000 ≤ 1000 ∧ State.reset.links.holdover = false ∧ State.reset.power.input = true ∧
      ¬ State.reset.links.annAt + 3 * State.reset.links.annEvery ≤ State.reset.time) ∧
    ((ordered 96000000000).links.annAt + 3 * (ordered 96000000000).links.annEvery ≤ (ordered 96000000000).time ∧
      badMonitors readings = [3] ∧ leastSlack readings [3] = 10 ∧ marginOf 10 = 40 ∧ 60 < marginOf 0) ∧
    ((ordered 15999).power.pinAt = some 0 ∧ (ordered 15999).time < 0 + 16000 ∧ 0 + 16000 ≤ (ordered 16000).time) ∧
    (let v := 0x881F4#64
     500 ≤ b64 v 11 0 ∧ b64 v 11 0 ≤ 2000 ∧ 1 ≤ b64 v 19 16 ∧ b64 v 19 16 ≤ 8 ∧ ¬ 1 ≤ b64 v 23 20 ∧ b64 0x8807D0#64 23 20 ≤ 8) ∧
    ((current true 8).power.limiting = true ∧ (current false 7).power.limiting = false ∧ (current false 7).power.duty < 8) ∧
    (b64 0x300#64 9 9 = 1 ∧ b64 0x300#64 8 0 = 256 ∧ replanning.power.replan = 255 :: [0]) ∧
    ((holding base).islandEmpty 0 = false ∧ State.reset.islandEmpty 0 = true) ∧
    (replanning.power.st = .on ∧ (powered .draining 0 false).power.st = .draining ∧ State.reset.power.pinAt = none ∧
      (pursuing 16000001).power.pursue = some 0 ∧ 0 + 16000000 < (pursuing 16000001).time ∧ ¬ 0 + 16000000 < (pursuing 16000000).time ∧
      (pursuing 0).power.st = .on ∧ (pursuing 0).power.level < 8 ∧ (pursuing 0).pcap 0 < 2001 ∧ drifting.links.holdover = true ∧
      drifting.linksUp = true) ∧
    ((0#2).toNat = State.reset.fld 0x2E 15 0 ∧ (0#16).toNat = State.reset.fld 0x2F 15 0 ∧ State.reset.links.locked = false ∧ State.reset.linksUp = true) := by
  refine ⟨⟨?_, ?_, ?_, ?_, ?_, ?_, ?_, ?_⟩, ⟨?_, ?_, ?_, ?_, ?_⟩, ⟨?_, ?_, ?_⟩, ⟨?_, ?_, ?_, ?_, ?_, ?_⟩, ⟨?_, ?_, ?_⟩, ⟨?_, ?_, ?_⟩, ⟨?_, ?_⟩,
    ⟨?_, ?_, ?_, ?_, ?_, ?_, ?_, ?_, ?_, ?_, ?_⟩, ?_, ?_, ?_, ?_⟩ <;> decide +kernel

/-- A record of Tabor for partition 0 that waits; its buffer on, lossless when b, with n records, at time t. -/
def recording (b : Bool) (n t : Nat) : State :=
  { State.reset with
    time := t
    peal := { State.reset.peal with
      wait := [{ part := 0, ts := 0, die := 4, sclass := 6, sinst := 0, kind := 1, payload := 0, stalled := false }] }
    regs := [(nPCTL 0, if b then 3#64 else 1#64), (nPPTR 0, BitVec.ofNat 64 n)] }

/-- A second gone by at the PTP clock; a stall counted; a sampled group, at cycle n. -/
def passing : State := { State.reset with time := 16000000000 }
def perturbed (n : Nat) : State := { State.reset with clk := n, peal := { State.reset.peal with perturb := [(4095, 1, 1, 0)] } }
def sampled (n : Nat) : State :=
  { holding { base with l := { launch with trfilt := BitVec.ofNat 128 (2 ^ 64 + 2 ^ 4) } } with clk := n }

theorem witness_PealEvents :
    (passing.links.ptpSec < passing.packSecond ∧ State.reset.packSecond ≤ State.reset.links.ptpSec ∧ State.reset.nextRec 0 = none ∧
      State.reset.lateRec 0 = none) ∧
    ((recording false 255 0).pealOn 0 = true ∧ ((recording false 255 0).nextRec 0).isSome = true ∧ (recording false 255 0).pealFull 0 = false ∧
      (recording false 256 0).pealFull 0 = true ∧ (recording false 256 0).effLL 0 = false ∧ (recording true 256 0).effLL 0 = true ∧
      (recording false 255 0).rel.latent = [] ∧ b64 ((recording false 255 0).reg 0x27) 0 0 = 0) ∧
    (((recording false 256 16000000).lateRec 0).isSome = true ∧ (recording false 256 15999999).lateRec 0 = none) ∧
    ((mget? (perturbed 65536).peal.perturb (0 * 4096 + (4095#12).toNat)).isSome = true ∧ (perturbed 65536).periodEnd 4095 = true ∧
      (perturbed 1).periodEnd 4095 = false) ∧
    (((sampled 256).samplable 0 0).length = 1 ∧ (sampled 256).coreClk 0 % 2 ^ ((sampled 256).fld (nPCTL 0) 19 16 + 8) = 0 ∧
      (sampled 256).edgeAt 255 0 = true) ∧
    (let s := recording false 256 0
     (256 + 2 ^ 32 - s.fld (nPPTR 0) 63 32) % 2 ^ 32 ≤ (s.fld (nPPTR 0) 31 0 + 2 ^ 32 - s.fld (nPPTR 0) 63 32) % 2 ^ 32) := by
  refine ⟨⟨?_, ?_, ?_, ?_⟩, ⟨?_, ?_, ?_, ?_, ?_, ?_, ?_, ?_⟩, ⟨?_, ?_⟩, ⟨?_, ?_, ?_⟩, ⟨?_, ?_, ?_⟩, ?_⟩ <;> decide +kernel

/-- Scheduler 3 of core 191 stopped; a halted gang; DBGA at x. -/
def stopped : State :=
  { State.reset with stops := [(767, { cause := 0, time := 0, quiet := none, clock := 0, before := [] })] }
def haltedGang : State := { holding base with gangs := [(0, { gang with halted := true })] }
def looking (x : BitVec 64) : State := { State.reset with regs := [(0x2C, x)] }

theorem witness_DebugEvents :
    (b64 0x3BF0000000#64 35 28 * 4 + b64 0x3BF0000000#64 37 36 = 767 ∧ b64 0x3BF0000000#64 35 28 < 192 ∧
      mget? State.reset.stops 767 = none ∧ 192 ≤ b64 0xC00000000#64 35 28) ∧
    ((mget? stopped.stops 767).isSome = true ∧ (∀ g h, mget? stopped.groups g = some h → h.pend = []) ∧
      ((mget? stopped.stops ((191#8).toNat * 4 + (3#2).toNat)).any (fun x => x.quiet.isNone)) = true ∧
      stopped.isQuiet (191#8).toNat (3#2).toNat = true) ∧
    ((∀ e ∈ stopped.gangs, e.2.halted = false) ∧ haltedGang.gangs = [(0, { gang with halted := true })] ∧
      gang.index % 2 ^ 18 = b64 5#64 27 10 ∧ mget? haltedGang.launches gang.launch = some launch ∧ launch.queue = b64 5#64 9 0) ∧
    ((looking 4#64).reg 0x2C = 4#64 ∧ ((looking 0x7FFDFFFFF8#64).reg 0x2C).toNat % 8 = 0 ∧
      ((looking 0x7FFDFFFFF8#64).reg 0x2C).toNat < 0x7FFE000000 ∧ (hosted (looking 0x7FFDFFFFF8#64)).Sound ∧
      (looking 0x7FFDFFFFF8#64).linePois (0x7FFDFFFFF8 / 128) = none ∧
      (hosted (looking 0x7FFDFFFFF8#64)).links.sl15 = true) := by
  refine ⟨⟨?_, ?_, ?_, ?_⟩, ⟨?_, ?_, ?_, ?_⟩, ⟨?_, ?_, ?_, ?_, ?_⟩, ?_, ?_, ?_, sound_of ?_, ?_, ?_⟩
  case refine_6 => intro g h e; cases e
  all_goals decide +kernel

/-! ## Witnesses: network, links and host -/

/-- The entry of connection 0: a window of 32 KB at 0x10000 with key 0, PSN 0 expected. -/
def entry : Nat := 2 ^ 151 + 0x10000 * 2 ^ 320 + 0x7FFF * 2 ^ 384

/-- A state with that entry at 0x1000, and byte x at the end of word 0 of the window's first slot. -/
def netted (s : State) (x : Byte) : State :=
  { s with mm := { MemSys.reset with bytes := memPut (memPutL [] 0x1000 (bytesLE 64 entry)) 0x10007 x }, regs := [(0x31, 0x1001#64)] }

/-- A header of operation op: offset o in the window, PSN p, n bytes; an ACK asked for unless op is 3. -/
def header (op o p n : Nat) : BitVec 256 := dmvHeader o 0 p 0 0 n (if op = 3 then 2 else 3) op

/-- A packet not done with: operation code op, of request r, sent t times, full since f. -/
def unacked (op : Nat) (r : Option (Nat × Nat)) (t : Nat) (f : Option Nat) : Unacked :=
  { op := r, off := 0, n := 4, got := 0, tries := t, at_ := 0, acked := false, full := f, port := 0, dest := { addr := 0, udp := 0, src := 0 }, hdr := header op 0 0 4, data := [] }

/-- A copy of 4 bytes with descriptor op rop (1: READ), local address the scratchpad's start. -/
def remote (rop : Nat) : QOp :=
  { queued 0 (.cpyb 0 0x3000000000000000 0x3000000000000000) true with bound := some (rop * 2 ^ 21 + 4 * 2 ^ 32), sent := 4 }

/-- The state of that copy, with what is not acknowledged, at time t. -/
def outgoing (rop : Nat) (u : Unacked) (t : Nat) : State :=
  { netted (holding (engaged (remote rop))) 0 with links := { Links.reset with unacked := [(0, u)] }, time := t }

/-- The one place that a READ-RESP of 4 bytes writes. -/
def landing (s : State) : List Access := match (s.rangeParts ((engaged (remote 1)).atOp (remote 1)) 0x3000000000000000 4 1 .store 0).1 with
  | .inr p => p
  | .inl _ => []

theorem witness_DamaviEvents :
    (hOk (header 9 0 0 0) 1 = false ∧ hOk (header 1 0 0 8192) 1 = true ∧ State.reset.linksUp = true ∧
      (powered .draining 0 false).linksUp = false ∧ (netted State.reset 0).fld 0x30 15 0 = (0xB1A8#16).toNat ∧
      (netted State.reset 0).linksUp = true) ∧
    (∀ x ∈ [0#8, 0x80#8], (netted State.reset x).conn (hCONN (header 1 0 0 4)) = (some entry, netted State.reset x) ∧
      (netted State.reset x).Sound ∧ (netted State.reset x).connAt 0 = 0x1000 ∧
      ((netted State.reset x).byteAt (0x10007) &&& 0x80#8 = 0#8 ↔ x = 0#8)) ∧
    (hPSN (header 1 0 1 4) ≠ connExpect entry ∧ hRKEY (header 1 0 0 4) = connRkey entry ∧ nbit (hFLAGS (header 1 0 0 4)) 1 = true ∧
      inWindow entry (0x8000 - 4) 4 = true ∧ 16384 ≤ connSize entry ∧ connSize entry % 16384 = 0 ∧ inDram (connBase entry) = true ∧
      inDram (connBase entry + connSize entry - 1) = true ∧ 0x1000 + 64 ≤ connBase entry) ∧
    (let s := outgoing 1 (unacked 2 (some (0, 0)) 0 none) 0
     let h := header 3 0 0 4
     let s1 := ((s.psnOn h entry).1).setUnacked (mdel s.links.unacked 0)
     s.conn (hCONN h) = (some entry, s) ∧ hOk h 3 = true ∧ nbit (hFLAGS h) 0 = false ∧ s.Sound ∧
      s.oldestRead 0 = some (0, unacked 2 (some (0, 0)) 0 none) ∧ s1.gctx 0 = some (engaged (remote 1)) ∧
      s1.stale (engaged (remote 1)).l = false ∧ s1.latched 0 1 0 = false ∧ (remote 1).come = [] ∧
      (remote 1).stopped = false ∧ (remote 1).reads = true ∧ (remote 1).sent = (remote 1).desc.len ∧
      rowAt (remote 1).localAddr 1 (0 + hROFF h) = some 0x3000000000000000 ∧
      s1.rangeParts ((engaged (remote 1)).atOp (remote 1)) 0x3000000000000000 4 1 .store 0 = (.inr (landing s1), s1)) ∧
    (let s := outgoing 0 (unacked 1 (some (0, 0)) 15 none) 0
     s.conn 0 = (some entry, s) ∧ hOk (header 4 0 0 0) 4 = true ∧ psnBefore (hACK (header 4 0 0 0)) (0 % 2 ^ 24) = false ∧
      mget? s.groups 0 = some (engaged (remote 0)).g ∧ (engaged (remote 0)).g.ops.find? (fun x => x.id == 0) = some (remote 0) ∧
      (remote 0).stopped = false) ∧
    (let h := dmvHeader 0 0 0 0xFFFFFF 0 0 0 5
     hOk h 5 = true ∧ psnBefore (hACK h) (0 % 2 ^ 24) = true ∧ 0 % 2 ^ 24 = hPSN h) ∧
    ((outgoing 0 (unacked 1 none 15 none) 1600000).links.unacked = [((0#24).toNat * 2 ^ 24 + (0#24).toNat, unacked 1 none 15 none)] ∧
      (unacked 1 none 15 none).at_ + 1600000 ≤ (outgoing 0 (unacked 1 none 15 none) 1600000).time ∧
      (unacked 6 none 0 (some 0)).full = some 0) := by
  refine ⟨⟨?_, ?_, ?_, ?_, ?_, ?_⟩, ?_, ⟨?_, ?_, ?_, ?_, ?_, ?_, ?_, ?_, ?_⟩, ⟨?_, ?_, ?_, sound_of ?_, ?_, ?_, ?_, ?_, ?_, ?_, ?_, ?_, ?_, ?_⟩,
    ⟨?_, ?_, ?_, ?_, ?_, ?_⟩, ⟨?_, ?_, ?_⟩, ?_, ?_, ?_⟩
  case refine_7 =>
    intro x hx
    rcases (by simpa using hx : x = 0#8 ∨ x = 0x80#8) with rfl | rfl <;>
      exact ⟨by decide +kernel, sound_of (by decide +kernel), by decide +kernel, by decide +kernel⟩
  all_goals decide +kernel

/-- Port 0 trained with peer 7, device number 5; every right for the peer; an aperture of 64 KB from 0. -/
def linked (s : State) (q : Queue) (o : List (Nat × Nat × Nat × Nat)) : State :=
  { s with
    links := { Links.reset with ports := [(0, { Port.fresh with peer := 7, trained := true, enable := true, open_ := o })] }
    kul := { Kul.reset with queues := [(1023, q)], pat := [(0, BitVec.ofNat 64 (1 + 7 * 4 + 1023 * 2 ^ 24 + 15 * 2 ^ 34))] }
    regs := [(0x33, 1#64), (0x34, 1#64), (0x36, 0x1005#64)] }

/-- Beat 0 of kind k to device 5. -/
def beat (k rest : Nat) : BitVec 512 := BitVec.ofNat 512 (k + 5 * 2 ^ 8 + rest * 2 ^ 32)

/-- A peer queue of 16 packets, with n announced. -/
def peerQueue (n : Nat) : Queue := { ready .idle with peer := true, wrseen := n }

/-- Port 0 down; stage 7 applied. -/
def portAt (x : Port) (g : List Nat) : State :=
  { State.reset with links := { Links.reset with ports := [(0, x)] }, power := { Power.reset with applied := g } }
def serving : State := hosted (linked State.reset Queue.fresh [])
/-- The module whose port 0 and bridge 1 have, in direction 0, a replay that failed n times in succession, and, when b, are to go down. -/
def failing16 (n : Nat) (b : Bool) : State :=
  { State.reset with
    mm := (coherent 0).mm
    links := { Links.reset with
      ports := [(0, { Port.fresh with trained := true, runs := [(0, (4095, 2 * n))], dying := b })]
      beatRun := [(2, (1023, n))], dyingB := if b then [1] else [] } }

theorem witness_LinkEvents :
    (∀ n ∈ [15, 16], ∀ k ≤ 7, (linked State.reset (peerQueue n) []).accepts 0 (beat k 1023) = true ∧ nbits (beat k 1023).toNat 7 0 = k ∧
      nbits (beat k 1023).toNat 63 42 = 0 ∧ nbits (beat k 1023).toNat 41 32 = 1023 ∧
      ((linked State.reset (peerQueue n) []).queue 1023).st = .idle ∧ ((linked State.reset (peerQueue n) []).queue 1023).enable = true ∧
      ((linked State.reset (peerQueue n) []).queue 1023).peer = true ∧
      b64 ((linked State.reset (peerQueue n) []).reg 0x27) 0 0 = 0 ∧
      (linked State.reset (peerQueue n) []).patAllows 7 34 (some 1023) = true ∧
      (linked State.reset (peerQueue n) []).patAllows 7 35 (some 1023) = true) ∧
    ((linked State.reset Queue.fresh []).accepts 0 (beat 1 1023) = true ∧ ((linked State.reset Queue.fresh []).queue 1023).peer = false ∧
      State.reset.accepts 0 (beat 1 0) = false) ∧
    (let s := linked State.reset Queue.fresh []
     s.Sound ∧ (∀ bit ∈ [36, 37], s.aperture 7 bit (nbits (beat 3 ((2 ^ 16 - 64) + 64 * 2 ^ 64)).toNat 95 32)
        (nbits (beat 3 ((2 ^ 16 - 64) + 64 * 2 ^ 64)).toNat 111 96) = (0, 2 ^ 16 - 64)) ∧
      s.aperture 7 36 0 63 = (2, 0) ∧ s.aperture 8 37 0 64 = (1, 0)) ∧
    (let s := linked (holding (engaged (remote 0))) Queue.fresh [(0, 0, 0, 4)]
     s.accepts 0 (beat 5 2) = true ∧ (s.port 0).open_ = [(0, 0, 0, 4)] ∧ s.gctx 0 = some (engaged (remote 0)) ∧
      (engaged (remote 0)).g.ops.find? (fun y => y.id == 0) = some (remote 0) ∧ (remote 0).stopped = false ∧
      (remote 0).reads = false ∧ (remote 0).sent = (remote 0).desc.len ∧ nbits (beat 5 2).toNat 35 32 ≤ 2) ∧
    (let d := fun (n : Nat) => nbits (BitVec.ofNat 512 (6 + n * 256) : BitVec 512).toNat 19 8
     serving.links.sl15 = true ∧ (serving.port 0).trained = true ∧ d 7 ≠ 0xFFF ∧ serving.portTo (d 7) = some 0 ∧ d 0xFFF = 0xFFF ∧
      serving.fld 0x36 19 16 = 0 ∧ serving.isScasutal 0 = true ∧ serving.linksUp = true ∧ d 5 = serving.devNum.getD 0xFFF ∧
      d 6 ≠ serving.devNum.getD 0xFFF ∧ (linked State.reset Queue.fresh []).links.sl15 = false ∧
      (linked State.reset Queue.fresh []).links.pci.d3hot = false ∧ 0x7FFDFFFFFC + 4 ≤ 0x7FFE000000 ∧
      0x7FFDFFFFFC + 4 ≤ 2 ^ (linked State.reset Queue.fresh []).links.pci.bar2) ∧
    ((failing16 16 false).links.bridges.contains 1 = false ∧ (failing16 16 false).fld 0x23 0 0 = 0 ∧
      16 ≤ (again (mgetD (failing16 15 false).links.beatRun (1 * 2 + 0) (0, 0)) true 1023).2 ∧
      (again (mgetD (failing16 14 false).links.beatRun 2 (0, 0)) true 1023).2 < 16 ∧
      (again (mgetD (failing16 15 false).links.beatRun 2 (0, 0)) false 1023).2 < 16 ∧
      32 ≤ (again (mgetD ((failing16 16 false).port 0).runs 0 (0, 0)) true 4095).2 ∧
      ((failing16 16 true).port 0).dying = true ∧ ((failing16 16 true).port 0).open_ = [] ∧ (failing16 16 true).links.bridges = [] ∧
      (failing16 16 true).links.dyingB.contains 1 = true ∧ ((failing16 16 true).line 7).dirty = true ∧
      ((failing16 16 true).line 7).owner = some 1 ∧ ((upto 4).filter ((failing16 16 true).crosses 1 7)).length < 4 ∧
      (upto 4).any ((failing16 16 true).crosses 1 7) = true) ∧
    ((portAt { Port.fresh with trained := true, asked := true, agreed := true } [7]).narrowing 0 = true ∧
      nbits (beat 7 0).toNat 7 0 = 7 ∧ (portAt { Port.fresh with trained := true } [7]).linksUp = true ∧
      (portAt { Port.fresh with trained := true } [7]).isScasutal 0 = true ∧ serving.isScasutal 15 = false ∧
      (linked State.reset Queue.fresh []).isScasutal 0 = true ∧ nbits (beat 8 0).toNat 7 0 = 8 ∧
      (linked State.reset Queue.fresh []).fld 0x23 0 0 = 0 ∧ ((portAt { Port.fresh with ldown := true, enable := true } []).port 0).ldown = true ∧
      ((portAt { Port.fresh with trained := true } [7]).port 0).trained = true ∧
      (portAt { Port.fresh with trained := true } [7]).power.applied.contains 7 = true ∧
      ((portAt Port.fresh []).port 0).trained = false) ∧
    (b64 0x1FFF#64 12 12 = 1 ∧ b64 0x1FFF#64 11 0 = 0xFFF ∧ b64 0x1FFE#64 11 0 ≠ 0xFFF) := by
  refine ⟨?_, ⟨?_, ?_, ?_⟩, ⟨sound_of ?_, ?_, ?_, ?_⟩, ⟨?_, ?_, ?_, ?_, ?_, ?_, ?_, ?_⟩,
    ?_, ?_, ?_, ?_, ?_, ?_⟩ <;> decide +kernel

theorem witness_HostAccesses :
    (let s := hosted State.reset
     2 ^ 39 < 2 ^ 39 - 3 + 4 ∧ 0x7FFE000000 ≤ 2 ^ 39 - 4 ∧ 2 ^ 39 - 4 + 4 ≤ 2 ^ s.links.pci.bar2 ∧ 0x7FFDFFFFFC + 4 ≤ 0x7FFE000000 ∧
     s.power.st ≠ .off ∧ s.links.pci.d3hot = false ∧ s.links.sl15 = true ∧ s.fld 0x23 0 0 = 0 ∧ [0#8, 1#8, 2#8, 3#8].length = 4 ∧
     s.links.pci.payload < 4096 ∧ 4 ≤ s.links.pci.payload ∧ 4097 ≤ 2 ^ s.links.pci.bar2 ∧ s.links.pci.ecrcChk = false ∧
     ({ Pci.reset with ecrcChk := true } : Pci).ecrcChk = true) ∧
    (hosted State.reset).Sound ∧ (∀ ln, (hosted State.reset).linePois ln = none) ∧ (powered .off 5 false).power.st = .off :=
  ⟨by decide, sound_of (by decide), fun _ => by
    simp [State.linePois, State.deadHome, State.line, mgetD, hosted, State.reset, MemSys.reset, Line.fresh], rfl⟩

theorem witness_FormsThatComplete :
    ((holding boundary).ctx = some boundary ∧ boundary.sp.inClause = false ∧ (Instr.clause 0x800 0 11 15 1).wf = true) ∧
    (base.logRoom 3 1 ∧ MayIssue (holding base) base (.vbcast 3 4 5) ∧ MayIssue (holding base) base (.vshfl 3 4 5) ∧
      MayIssue (holding base) base (.vshfx 3 4 5) ∧ reductionMode base.g.m 0 ∧ MayIssue (holding base) base (.vred 3 4 0) ∧
      MayIssue (holding base) base (.vscan 3 4 1 0)) ∧
    (MayIssue (holding joined) joined .convl ∧ joined.wg.blocks = [] ∧ joined.wg.conv = some 3 ∧ (holding joined).canonical ∧
      (holding joined).groups = [(joined.gk, joined.g)] ∧ (holding joined).wgs = [(joined.wk, joined.wg)]) ∧
    (((queuing (ready .idle)).queue 1023).st = .idle ∧ ((queuing (ready .idle)).queue 1023).rdidx = 0 ∧
      ((queuing (ready .idle)).queue 1023).wrseen = 0 ∧ ((queuing (ready .error)).queue 1023).st = .error ∧
      (queuing (ready .idle)).readCtl 0x1000 = (control, false, queuing (ready .idle)) ∧
      (queuing (ready .error)).readCtl 0x1000 = (control, false, queuing (ready .error)) ∧
      (queuing (ready .idle)).ctlBad control = false ∧ ((queuing Queue.fresh).queue 1023).ladder = none ∧
      ((queuing Queue.fresh).queue 1023).enable = false ∧ (queuing Queue.fresh).boot.running = true ∧
      (queuing Queue.fresh).readCtl ((0x1001#64).toNat / 64 * 64) = (control, false, queuing Queue.fresh) ∧ (∀ e ∈ State.reset.kul.queues, e.2.enable = false) ∧
      State.reset.power.st = .on ∧ State.reset.links.pci.d3hot = false) ∧
    ((restorable false).power.selected = some (drain 5 true) ∧ (restorable true).power.restoring = true ∧
      (restorable false).power.slot 0 = some (drain 5 true) ∧ checking.boot.busy = true ∧ newer.boot.counter < newer.boot.runver ∧
      attesting.boot.atbusy = true) :=
  ⟨⟨by decide +kernel, rfl, by decide⟩, ⟨.inl rfl, may_of (by decide +kernel), may_of (by decide +kernel), may_of (by decide +kernel), .inl (by decide),
     may_of (by decide +kernel), may_of (by decide +kernel)⟩,
   ⟨may_of (by decide +kernel), rfl, rfl, canonical_of (by decide +kernel), rfl, rfl⟩, by decide +kernel, by decide +kernel⟩

/-! ## Witnesses: the whole machine -/

/-- The base context with its code at hand, and the next turn its scheduler's: NOP at word 1. -/
def turned (c : Ctx) : State := { coded c [0xFE001FE2, 0x0C000002] with focus := none, agenda := [.issue 0 0] }

/-- Where its split stands in the issue order. -/
def place : Place := { pos := base.g.slot * 4, g := 0, ix := 0 }

/-- NOP stored at 0x50004, its line owned by the die. -/
def nopAt : State :=
  { owning base with mm := { (owning base).mm with bytes := memPutL pages.bytes 0x50004 [2#8, 0#8, 0#8, 0xC#8] } }

theorem witness_StepRunsTheDecodedInstruction :
    (let s0 : State := { turned base with agenda := [] }
     s0.pick 0 0 = (0, s0) ∧ s0.hasFifo 0 = false ∧ s0.eligible 0 0 = ([place], []) ∧ s0.select 0 0 [place] = some place ∧
      (((s0.settleTurn 0 0 [place] [] (some place)).aim 0 0).ctx).any (fun c =>
        let u := (s0.settleTurn 0 0 [place] [] (some place)).aim 0 0
        (u.holds c).isNone && !c.sp.resume && c.sp.inClause && decide (u.fetch c c.sp.pc = (.inr 0x0C000002#32, u))) = true ∧
      s0.rel.latent = [] ∧
      (decodeWord 0x0C000002#32).toOption = some .nop) ∧
    (∃ c0, c0 = within base { split with inClause := false, pc := 0 } ∧
      let s0 : State := { turned c0 with agenda := [] }
      s0.pick 0 0 = (0, s0) ∧ s0.eligible 0 0 = ([place], []) ∧ s0.select 0 0 [place] = some place ∧
      (((s0.settleTurn 0 0 [place] [] (some place)).aim 0 0).ctx).any (fun c =>
        let u := (s0.settleTurn 0 0 [place] [] (some place)).aim 0 0
        (u.holds c).isNone && !c.sp.resume && !c.sp.inClause && decide (u.fetch c c.sp.pc = (.inr 0xFE001FE2#32, u)) &&
          (match exec (decHeader 0xFE001FE2) u with
            | .next v => v.ctx.any (fun c' => c'.sp.inClause && decide (v.fetch c' c'.sp.pc = (.inr 0x0C000002#32, v)))
            | _ => false)) = true) ∧
    (nopAt.stale launch = false ∧
      nopAt.translate 0 1 0x50004 = (some { base := 0x50000, w := true, x := true }, nopAt) ∧
      mget? nopAt.mm.icache (copyKey 0 (0x50004 / 128)) = none ∧ (nopAt.line (0x50004 / 128)).owner = some 0 ∧
      b64 (nopAt.reg 0x27) 0 0 = 0 ∧ (decode [2#8, 0#8, 0#8, 0xC#8]).toOption = some (.nop, []) ∧
      nopAt.byteAt 0x50004 = 2#8 ∧ nopAt.byteAt 0x50005 = 0#8 ∧
      nopAt.byteAt 0x50006 = 0#8 ∧ nopAt.byteAt 0x50007 = 0xC#8 ∧ nopAt.rel.latent = []) := by
  refine ⟨⟨?_, ?_, ?_, ?_, ?_, ?_, ?_⟩, ⟨_, rfl, ?_, ?_, ?_, ?_⟩, ?_, ?_, ?_, ?_, ?_, ?_, ?_, ?_, ?_, ?_, ?_⟩ <;> decide +kernel

/-- The state of base is in canonical form, and its next step answers a next state. -/
theorem witness_MemoryStaysCanonical :
    Memory.wf (turned base).mm.bytes = true ∧ (match step (turned base) with
      | .next _ => true
      | _ => false) = true := by
  constructor <;> decide +kernel

theorem witness_TablesStayCanonical : (turned base).canonical := canonical_of (by decide +kernel)

/-- An instruction of each kind of encoding is well formed and has a word. -/
theorem witness_EncodeDecodeAgree :
    (Instr.vadd 127 0 5).wf = true ∧ (encode (.vadd 127 0 5)).isSome = true ∧ (Instr.clause 0xFFF 11 15 15 1).wf = true ∧
    (decodeWord 0x023FFFFD#32).toOption = some (.bra (-3)) := by decide +kernel

/-! ## Decoding

Each word is the opcode map's fixed bits (R276 to R280) with these fields in their places: Vd 84, Va 40, Vb 23 and others
distinct where they fit. -/

/-- Every word of the list decodes to its instruction. -/
def decodes (l : List (Word × Instr)) : Prop := l.map (fun x => (decodeWord x.1).toOption) = l.map (fun x => some x.2)

theorem test_decode_control : decodes
    [(0xFF40B0EF, .clause 2565 8 7 7 1), (0x023FFFFD, .bra (-3)), (0x02400005, .braAny 5), (0x02BFFFFD, .braAll (-3)),
     (0x04000007, .call 7), (0x06014000, .brx 40), (0x06014001, .callx 40), (0x06014002, .ret 40),
     (0x08014001, .jtab 40 1), (0x0A014001, .switch 40 1), (0x0C000000, .join), (0x0C000001, .exit),
     (0x0C000002, .nop), (0x0C000003, .yield), (0x20100001, .ensure 4 1), (0x22000001, .elseby 1),
     (0x24000000, .elseerr), (0x26002800, .accept 5), (0x26000001, .reject), (0x28014480, .convj 40 9),
     (0x2A000000, .convl), (0x30002B3F, .setm 11071), (0x30090000, .setmRegister 2), (0x33500000, .getm 84),
     (0x34000004, .trap 4)] := by
  unfold decodes; decide

theorem test_decode_control2 : decodes
    [(0x36000001, .bkpt 1), (0x38000000, .eret), (0x38000001, .eretSkip)] := by
  unfold decodes; decide

theorem test_decode_vector : decodes
    [(0x41514170, .vadd 84 40 23), (0x41514171, .vsub 84 40 23), (0x41514172, .vmul 84 40 23),
     (0x41514173, .vmulh 84 40 23), (0x41514174, .vmad 84 40 23), (0x41514175, .vmin 84 40 23),
     (0x41514176, .vmax 84 40 23), (0x41514007, .vabs 84 40), (0x41514008, .vneg 84 40),
     (0x41514179, .vdot4 84 40 23), (0x43514170, .vand 84 40 23), (0x43514171, .vor 84 40 23),
     (0x43514172, .vxor 84 40 23), (0x43514173, .vshl 84 40 23), (0x43514174, .vshr 84 40 23),
     (0x43514175, .vrol 84 40 23), (0x43514006, .vclz 84 40), (0x43514007, .vpopc 84 40),
     (0x43514008, .vbrev 84 40), (0x45514170, .vbfe 84 40 23), (0x45514171, .vbfi 84 40 23),
     (0x45514002, .vmov 84 40), (0x45514003, .vtag 84 40), (0x45514174, .vpack 84 40 23),
     (0x45514005, .vunpk 84 40)] := by
  unfold decodes; decide

theorem test_decode_vector2 : decodes
    [(0x46154174, .vcmp 5 40 23 4), (0x49514297, .vsel 84 40 0 5 23), (0x51514155, .vaddi 84 40 341),
     (0x53514155, .vandi 84 40 341), (0x55514155, .vori 84 40 341), (0x57514155, .vxori 84 40 341),
     (0x59514013, .vshli 84 40 19), (0x5B514013, .vshri 84 40 19), (0x5C954155, .vcmpi 4 5 40 341),
     (0x5F514155, .vaff 84 40 341), (0x61500155, .vmovi 84 341), (0x63500155, .vlui 84 341),
     (0x71514170, .vbcast 84 40 23), (0x71514171, .vshfl 84 40 23), (0x71514172, .vshfx 84 40 23),
     (0x71514063, .vred 84 40 6), (0x71514164, .vscan 84 40 1 6), (0x72100070, .pand 4 0 7),
     (0x72100071, .por 4 0 7), (0x72100072, .pxor 4 0 7), (0x72100003, .pnot 4 0), (0x73500004, .ballot 84 0),
     (0x72114005, .pmask 4 40)] := by
  unfold decodes; decide

theorem test_decode_float : decodes
    [(0x81514178, .vfadd 84 40 23 1), (0x81514179, .vfsub 84 40 23 1), (0x8151417A, .vfmul 84 40 23 1),
     (0x8151417B, .vfma 84 40 23 1), (0x8151417C, .vfmin 84 40 23 1), (0x8151417D, .vfmax 84 40 23 1),
     (0x8151417E, .vfdiv 84 40 23 1), (0x82154174, .vfcmp 5 40 23 4), (0x85514008, .vrcp 84 40 1),
     (0x85514009, .vrsq 84 40 1), (0x8551400A, .vsqrt 84 40 1), (0x8551400B, .vexp2 84 40 1),
     (0x8551400C, .vlog2 84 40 1), (0x8551400D, .vsin 84 40 1), (0x8551400E, .vcos 84 40 1),
     (0x8551400F, .vfrnd 84 40 1), (0x87514018, .vcvt 84 40 1 1), (0x87514069, .vcvtn 84 40 6 1),
     (0x87514012, .vamax 84 40 1), (0x8751406B, .vscl 84 40 6 1), (0x87500014, .vrand 84 1),
     (0x89500001, .vspr 84 1)] := by
  unfold decodes; decide

theorem test_decode_memory : decodes
    [(0xA15144A1, .ld 84 40 9 2 1), (0xA35144A0, .st 84 40 9 2), (0xA55144A4, .lda 84 40 9 2 4),
     (0xA75144A4, .strl 84 40 9 2 4), (0xA95144A1, .ldw 84 40 9 2 1), (0xAA0087FD, .chk 33 (-3)),
     (0xAC000053, .fence 1 2 3), (0xAF5144AD, .atom 84 40 9 2 1 5), (0xB15144A7, .atomAcq 84 40 9 2 0 7),
     (0xB35144AA, .atomRel 84 40 9 2 1 2), (0xB55144A6, .atomAr 84 40 9 2 0 6), (0xB75144BC, .lr 84 40 9 3 1 4),
     (0xB95144BC, .sc 84 40 9 3 1 4), (0xBA014481, .pref 40 9 1), (0xBC000012, .hload 1 2), (0xBE000000, .cbinv)] := by
  unfold decodes; decide

theorem test_decode_copy : decodes
    [(0xC1514173, .cpy 84 40 23 3), (0xC3514173, .cpyb 84 40 23 3), (0xC5514173, .cpyxG 84 40 23 3),
     (0xC551417B, .cpyxS 84 40 23 3), (0xC6000021, .qfence 33)] := by
  unfold decodes; decide

theorem test_decode_matrix : decodes
    [(0xD1854170, .mma 6 1 40 23), (0xD3854170, .mmack 6 1 40 23), (0xD4000021, .mzero 33),
     (0xD6054480, .mld 1 40 9), (0xD8054480, .mst 1 40 9), (0xDB854480, .mstn 6 1 40 9),
     (0xDD500970, .mckv 84 1 23), (0xDE041800, .mckc 1 3)] := by
  unfold decodes; decide

theorem test_decode_sync : decodes
    [(0xE0000000, .wbar), (0xE0000001, .gbar), (0xE3500017, .fpush 84 23), (0xE3520017, .fpop 84 23),
     (0xE55000B7, .bankm 84 1 1 23), (0xE6014170, .evsigAdd 40 23), (0xE6014171, .evsigSet 40 23),
     (0xE6014002, .evsigClr 40), (0xE7514003, .evqry 84 40), (0xE9500004, .trace 84 4), (0xE8020004, .tmark 4),
     (0xEB500001, .sysr 84 1), (0xEB520001, .sysw 84 1), (0xEC000021, .waitf 33), (0xEE000000, .halt)] := by
  unfold decodes; decide

/-- R286, R318: clause headers and words that the spec works out. -/
theorem test_decode_worked : decodes
    [(0xFE001FE2, .clause 0 15 15 1 0), (0xFE001E46, .clause 0 15 2 3 0), (0xFE0081E2, .clause 4 0 15 1 0),
     (0x86D14022, .vamax 52 40 2), (0x86CDA023, .vscl 51 52 2 0), (0x60580001, .vmovi 22 1), (0xD4000001, .mzero 1),
     (0xE2100003, .fpush 4 3), (0xE2160003, .fpop 5 3), (0x22000004, .elseby 4), (0x0C000001, .exit)] := by
  unfold decodes; decide

/-- R281: a word of an unassigned major, an unlisted minor, or with a field that is not used nonzero is no instruction; and a
word with a reserved value decodes, and is not well formed. -/
theorem test_decode_refuses :
    [0x00000000#32, 0xFC000000#32, 0x4000000A#32, 0x02C00000#32, 0x0C000004#32, 0x24000001#32, 0x41514017#32, 0xEE000001#32].map
      (fun w => (decodeWord w).toOption) = List.replicate 8 none ∧
    (decodeWord 0xFE000000#32).toOption = some (.clause 0 0 0 0 0) ∧ (Instr.clause 0 0 0 0 0).wf = false := by decide

/-- R263, R274: an ill-formed term of each check, which the check refuses. -/
theorem test_ill_formed :
    [Instr.clause 0 15 15 0 0, .clause 0 12 15 1 0, .clause 0 15 14 1 0, .jtab 4 0, .switch 4 0, .ensure 4 0, .elseby 0,
      .elseby 0x200000, .convj 3 0, .vunpk 3 4, .vcmp 0 1 2 6, .vcmpi 6 0 1 2, .vred 1 2 9, .vscan 1 2 0 9, .vcvt 1 2 10 0,
      .vcvtn 3 4 0 0, .vcvtn 4 6 0 0, .vamax 1 4 3, .vamax 1 6 2, .vamax 1 5 1, .vrand 4 3, .vrand 6 2, .vspr 4 15, .vspr 3 5,
      .ld 3 1 0 2 0, .ld 3 2 0 3 0, .ld 6 2 0 4 0, .ld 4 2 0 5 0, .ld 4 2 0 2 1, .st 3 2 1 3, .lda 4 2 0 4 0, .lda 4 2 0 2 6,
      .strl 4 2 0 2 7].all (fun i => !i.wf) = true ∧
    [Instr.ldw 4 2 0 1 0, .chk 0 1, .fence 0 6 1, .fence 0 0 5, .fence 0 1 0, .atom 3 2 0 0 0 7, .atomAcq 4 2 0 0 1 7,
      .atomRel 4 3 0 0 0 0, .atomAr 4 2 0 6 0 0, .lr 4 2 0 1 0 0, .sc 3 2 0 3 0 0, .sc 4 2 0 2 0 6, .pref 3 0 0, .hload 0 0,
      .hload 15 1, .cpy 1 3 4 0, .cpy 1 2 5 0, .cpyb 2 4 6 5, .cpyb 3 4 6 0, .cpyxG 2 5 6 0, .cpyxS 2 4 7 0, .qfence 0, .mmack 0 1 2 3,
      .mzero 0, .mld 0 3 0, .mst 0 3 0, .mstn 0 0 3 0, .mckv 6 0 1, .mckv 4 1 1, .mckc 0 2, .mckc 1 4, .fpush 1 24, .fpop 1 24,
      .bankm 1 0 0 24, .bankm 1 1 1 0, .sysr 3 0, .sysw 2 0x37, .waitf 0].all (fun i => !i.wf) = true := by decide

/-! ## One step, against results worked out by hand or in the spec -/

/-- Lane l of register r after instruction i in context c. -/
def got (i : Instr) (c : Ctx) (r l : Nat) : Option Val := match exec i (holding c) with
  | .next t => (mget? t.groups 0).map (fun g => g.lane r l)
  | _ => none

/-- V4 = x and V5 = y in mode m. -/
def with45 (m : BitVec 16) (x y : Word) : Ctx := withReg (withReg (mode m) 4 (lanesAll x .U)) 5 (lanesAll y .U)

/-- R346: wrap in I32 and by element in I16x2; clamp under SAT. -/
theorem test_vadd_wraps : got (.vadd 3 4 5) (with45 0 0x7FFFFFFF 1) 3 31 = some (clean 0x80000000) ∧
    got (.vadd 3 4 5) (with45 0x40 0x0001FFFF 0x00010001) 3 0 = some (clean 0x00020000) := by decide +kernel
theorem test_vadd_saturates : got (.vadd 3 4 5) (with45 0x1000 0x7FFFFFFF 1) 3 0 = some (clean 0x7FFFFFFF) := by decide +kernel

/-- R348: an I32 shift keeps the sign, and uses the amount modulo 32. -/
theorem test_vshr_arithmetic : got (.vshr 3 4 5) (with45 0 0x80000000 0x24) 3 0 = some (clean 0xF8000000) ∧
    got (.vshr 3 4 5) (with45 0x20 0x80000000 0x24) 3 0 = some (clean 0x08000000) := by decide +kernel

/-- R116: V0 discards a write. -/
theorem test_v0_discards : got (.vadd 0 4 5) (with45 0 1 1) 0 0 = some (clean 0) := by decide +kernel

/-- R354: 1 + 2^-24 is a tie, which RNE takes to 1 and RUP upwards. -/
theorem test_vfadd_rounds : got (.vfadd 3 4 5 0) (with45 0xC0 0x3F800000 0x33800000) 3 0 = some (clean 0x3F800000) := by
  decide +kernel

/-- Example of file 13: the block of V40 to V43 and the scale in V51. -/
def block (scale : Word) : Ctx :=
  let half : List Word := List.replicate 32 0x3F000000
  let reg := fun (v : List Word) => ({ val := v, tag := .U, pois := [] } : Reg)
  let c := { mode 0xC0 with l := { launch with slots := [0#64, 0#64, 0x4#64] } }
  let c := withReg (withReg c 40 (reg ((half.set 0 0x41200000).set 1 0xC1200000))) 41 (reg half)
  withReg (withReg (withReg c 42 (reg half)) 43 (reg (half.set 31 0))) 51 (lanesAll scale .U)

/-- Example of file 13, steps 1 and 4: the codes of lane 0, 1, 2 and 31. -/
theorem test_vcvtn_example :
    [0, 1, 2, 31].map (got (.vcvtn 50 40 2 0) (block 0x3F000000) 50) =
      [0x1117#32, 0x1118#32, 0x1111#32, 0x0111#32].map (fun w => some (clean w)) ∧
    got (.vcvtn 50 40 2 0) (block 0x3F000000) 51 0 = some (clean 2#32) := by decide +kernel
theorem test_vcvtn_flushes :
    [0, 1, 2, 31].map (got (.vcvtn 50 40 2 0) (block 0x3FB6DB6E) 50) = [7#32, 9#32, 0#32, 0#32].map (fun w => some (clean w)) ∧
    got (.vcvtn 50 40 2 0) (block 0x3FB6DB6E) 51 0 = some (clean 0x7D00#32) := by decide +kernel

/-- Example of file 13, steps 2 and 3: the greatest magnitude, and the scale 10 / 7 rounded up. -/
theorem test_vamax_example : got (.vamax 52 40 2) (block 0) 52 0 = some (clean 0x41200000) := by decide +kernel
theorem test_vscl_example :
    got (.vscl 51 52 2 0) (withReg (block 0) 52 (lanesAll 0x41200000 .U)) 51 0 = some (clean 0x3FB6DB6E) := by decide +kernel

/-- Example under R314: the products 2^40, −2^40 and 2^−30 of a BF16 cell give 0 under G16 and 2^−30 under SEQ. -/
theorem test_mma_example :
    let ps := [FNum.fin false (2 ^ 40) 1, .fin true (2 ^ 40) 1, .fin false 1 (2 ^ 30)]
    mmaCell 0x1018C#64 0 ps (.fin false 1 1) = 0 ∧ mmaCell 0x18C#64 0 ps (.fin false 1 1) = 0x30800000 := by decide +kernel

/-- Examples of file 01 and under R160: the stacks of three addresses. -/
theorem test_home_example : homeOf 0x2000003080 = 3 ∧ homeOf 0x2000403080 = 1 ∧ homeOf 0x200080 = 1 := by decide

/-- R413, as in the example of file 16 for bank 3 (0x40060000): the first pop of bank 5 gives 0x400A0000. -/
theorem test_fpop_example : got (.fpop 5 5) (queueing 3) 5 0 = some (clean 0x400A0000) := by decide +kernel

/-- R319, R320: BRA −3 from word 1 leaves the code space: fault 0x01, taken at the fault entry. -/
theorem test_bra_out_of_range : (match exec (.bra (-3)) (holding { base with l := { launch with faulten := true, faultoff := 9 } }) with
    | .next t => (mget? t.groups 0).map (fun g => (g.splits.map (·.pc), (mgetD g.finfo 0 0#32).toNat % 256))
    | _ => none) = some ([9], 1) := by decide +kernel

/-- The table's numbering: the word is the decoder's. -/
theorem test_decodeTableWord : decodeTableWord 32 0x41514170 = some (.vadd 84 40 23) := by decide

/-- From reset, an instruction placed where the next step fetches runs as the first: NOP, and VMOVI V3, 5. -/
theorem test_step_runs_nop : (match step (State.reset.withFetchWord 32 0x0C000002) with
    | .next t => (mget? t.groups 0).map (fun g => g.splits.map (·.pc))
    | _ => none) = some [2] := by decide +kernel
theorem test_step_runs_vmovi : (match step (State.reset.withFetchWord 32 0x600C0005) with
    | .next t => (mget? t.groups 0).map (fun g => g.lane 3 31)
    | _ => none) = some (clean 5) := by decide +kernel

end Sys2Proof.Tests
end

section
/-! SUPPORT. The state after reset (R20, R39, R78, R94, R239, R422). -/

namespace Sys2Proof.Proofs
open Sys2Proof.Machine

/-- The tables and memory after reset are empty, so in canonical form. -/
theorem reset_canonical : State.reset.canonical :=
  { groups := .nil, wgs := .nil, gangs := .nil, sram := fun _ h => absurd h (by simp [State.reset]), memory := rfl }

/-- TSLVLn after reset (R39): a cap of 2000 − 200 n watts, with both duty floors at one eighth. -/
theorem reset_stepLevels : ∀ n < 8,
    State.reset.pcap n = 2000 - 200 * n ∧ State.reset.mfloor n = 1 ∧ State.reset.vfloor n = 1 := by decide

/-- PCTL of every partition is 0 after reset, so Peal is off (R239). -/
theorem reset_pealOff : ∀ p < 16, State.reset.pealOn p = false := by decide

/-- The CPART registers after reset (R422): no register is stored, and each reads as 0x10. -/
theorem reset_cpart (n : Nat) (h : n < 192) : State.reset.reg (0x100 + n) = 0x10#64 := by
  have h1 : ¬ (0x40 ≤ 0x100 + n ∧ 0x100 + n ≤ 0x4F) := by omega
  have h2 : 0x100 ≤ 0x100 + n ∧ 0x100 + n ≤ 0x1BF := by omega
  change regReset (0x100 + n) = 0x10#64
  rw [regReset, if_neg h1, if_pos h2]

/-- A completion queue that nothing has set is disabled (R78). -/
theorem freshCq_disabled : Cq.fresh.enabled = false := by decide

/-- Settles O57: every table of the reset state is empty, so each read answers its default, and the registers hold regReset. -/
theorem reset : Obligations.Reset := by
  unfold Obligations.Reset
  have regs : State.reset.fld 0x1E 31 0 = 100 ∧ State.reset.fld 0x1F 31 0 = 500 ∧ State.reset.fld 0x28 0 0 = 1 ∧
      State.reset.fld 0x28 47 32 = 24 ∧ State.reset.fld 0x30 15 0 = 0xB1A8 ∧ State.reset.fld 0x36 11 0 = 0xFFF ∧
      State.reset.fld 0x36 12 12 = 0 := by decide
  obtain ⟨drain, save, scrub, pace, udp, dev, devSet⟩ := regs
  exact ⟨reset_canonical, rfl, rfl, rfl, rfl, fun _ => ⟨rfl, rfl, rfl⟩, fun _ => rfl, fun _ => freshCq_disabled, fun _ => ⟨rfl, rfl⟩,
    rfl, rfl, rfl, rfl, rfl, reset_stepLevels, drain, save, scrub, pace, udp, dev, devSet, reset_pealOff, reset_cpart⟩
end Sys2Proof.Proofs
end

section
/-! SUPPORT. States in which a statement about links does not hold: a stalled queue of a peer, and a READ whose operation has not
started. -/

namespace Sys2Proof.Proofs
open Sys2Proof.Machine

/-! ## A stalled queue on a doorbell of a peer -/

/-- A queue of a peer that stands at IDLE while a completion queue holds an entry of it back: CQSTALL is set (R71, R78). -/
def stalledQueue : Queue := { Queue.fresh with st := .idle, enable := true, peer := true, cqstall := true }

/-- Module 0 with port 0 trained to a peer of number 0, which may write the stalled queue 0. -/
def stalledModule : State :=
  { State.reset with
    links := { Links.reset with ports := [(0, { Port.fresh with trained := true })] }
    kul := { Kul.reset with queues := [(0, stalledQueue)], pat := [(0, 0x400000001#64)] }
    regs := [(0x36, 0x1000#64)] }

/-- The state of queue 0 after a step that answers a next state. -/
def queueState : Host.Outcome State Fault Refusal → Option QState
  | .next t => some (t.queue 0).st
  | _ => none

/-- A PQW packet, kind 1 for queue 0, is let through, and the queue that it announces packets to goes on to BLOCKED. -/
theorem pqw_blocks_stalledQueue : queueState (exec (.pqw 0#4 1#512 0#512) stalledModule) = some .blocked := by
  decide +kernel

/-- Refutes O52: the clause of an accepted PQW says that an IDLE queue becomes READY, with no word of CQSTALL; a queue with
an entry held back for a full completion queue becomes BLOCKED instead (Queue.stalled, R71, R78). -/
theorem not_linkEvents : ¬ Obligations.LinkEvents := by
  unfold Obligations.LinkEvents
  intro h
  obtain ⟨_, accepted, _⟩ := h stalledModule 0#4 1#512 0#512 [] .badEcrc
  obtain ⟨_, written, _⟩ := accepted (by decide +kernel)
  obtain ⟨t, he, _, ready, _⟩ := (written (by decide +kernel) (by decide +kernel) (by decide +kernel) (by decide +kernel)
    (by decide +kernel) (by decide +kernel) (by decide +kernel)).1 (by decide +kernel)
  have blocked := pqw_blocks_stalledQueue
  rw [he] at blocked
  have idle : (stalledModule.queue 0).st = .idle := by decide +kernel
  have q0 : nbits (1#512).toNat 41 32 = 0 := by decide +kernel
  rw [q0, idle] at ready
  simp [queueState, ready] at blocked

/-! ## Bytes of a READ for an operation that a full recovery log cancels -/

/-- A Damavi READ of one byte into the start of its own scratchpad, asked for and never started. -/
def unstartedRead : QOp :=
  { id := 0, q := 0, pc := 0, op := .cpyb 0 (3 * 2 ^ 60) 0, flag := 15, gen := 0, started := false, inBlock := false, after := [],
    sent := 1, acked := 0, rerr := 0, met := false, come := [], port := 0, bound := some (2 ^ 21 + 2 ^ 32), fcode := 0,
    hash := 0, cut := [] }

/-- The launch of its workgroup, with one bank of scratchpad and none for a recovery log. -/
def loglessLaunch : Launch := { Launch.single 0 0 with scratch := 0x20000, bankplan := 1 }

/-- An open recovery block, in a workgroup whose recovery log has no bank and so no room. -/
def openBlock : Block :=
  { term := 0, cycles := 0, limit := 0, inTest := false, elseerr := 0, frames := [], log := [], pushes0 := 0, dirty0 := [] }

/-- The context of the operation: a workgroup with that block open, and a group with the operation in its queue. -/
def readingCtx : Ctx :=
  { gk := 0, ix := 0, g := { Group.placed 0 0 0 0 0 0 with ops := [unstartedRead] }, sp := Split.start 0#32 0, wk := 0
    wg := { Wg.placed loglessLaunch 0 0 0 [] with blocks := [openBlock] }, nk := 0
    gg := { launch := 0, index := 0, st := .running, die := 0, origin := 0, w := 1, h := 1, slot := none, steps := 0,
            halted := false, free := false, rrn := 0, rrpos := 0, rrovf := false, rrdiv := false, ended := false }
    lk := 0, l := loglessLaunch }

/-- The entry of connection 0: valid, with all its other fields 0 (R425). -/
def plainEntry : Nat := 2 ^ 151

/-- The packet of the READ, not answered yet. -/
def unansweredRead : Unacked :=
  { op := some (0, 0), off := 0, n := 1, got := 0, tries := 0, at_ := 0, acked := false, full := none, port := 0
    dest := { addr := 0, udp := 0, src := 0 }, hdr := dmvHeader 0 0 0 0 0 1 0 2, data := [] }

/-- The module that waits for the byte, its connection table at 0x1000. -/
def readingModule : State :=
  { State.reset with
    groups := [(0, readingCtx.g)], wgs := [(0, readingCtx.wg)], gangs := [(0, readingCtx.gg)], launches := [(0, loglessLaunch)]
    mm := { MemSys.reset with bytes := [(0x1012, 0x80#8)] }
    links := { Links.reset with unacked := [(0, unansweredRead)] }
    regs := [(0x31, 0x1001#64)] }

/-- The header of the READ-RESP packet with the byte. -/
def respHeader : BitVec 256 := dmvHeader 0 0 0 0 0 1 0 3

/-- The module when the packet's PSN has been counted and its READ is done with. -/
def answeredModule : State := ((readingModule.psnOn respHeader plainEntry).1).setUnacked (mdel readingModule.links.unacked 0)

/-- The one place that the byte goes to. -/
def readPlace : List Access := [mkAcc 0 (3 * 2 ^ 60) 3 (.scr 0 0) 0 1 (keepOf 3 none)]

/-- The operations of group 0 after a step that answers a next state. -/
def opsLeft : Host.Outcome State Fault Refusal → Option (List QOp)
  | .next t => (mget? t.groups 0).map (·.ops)
  | _ => none

/-- The log entry of the byte's granule does not fit, which fails the block and cancels the operation (R131, R132). -/
theorem readResp_cancels_unstartedRead :
    opsLeft (exec (.damaviReadResp ⟨0#2, 0xB1A8#16⟩ respHeader [0#8]) readingModule) = some [] := by
  decide +kernel

/-- Refutes O51: the clause of READ-RESP says that the operation of the READ is still there with its bytes counted, and does
not ask that it has started; the write of the bytes can fail an open block, which cancels one that has not (R131). -/
theorem not_damaviEvents : ¬ Obligations.DamaviEvents := by
  unfold Obligations.DamaviEvents
  intro h
  obtain ⟨_, _, _, _, usable, _⟩ := h readingModule 0#2 0xB1A8#16 respHeader [0#8] plainEntry
  obtain ⟨_, _, landed, _⟩ := usable (by decide +kernel) (by decide +kernel) (by decide +kernel)
  obtain ⟨t, g, o, he, _, hg, ho, _⟩ := landed (by decide +kernel) (by decide +kernel) (by decide +kernel) (by decide +kernel)
    (by decide +kernel) 0 unansweredRead 0 0 readingCtx unstartedRead (3 * 2 ^ 60) readPlace (by decide +kernel)
    (by decide +kernel) (by decide +kernel) rfl (by decide +kernel) (by decide +kernel) (by decide +kernel)
    (by decide +kernel) (by decide +kernel) (by decide +kernel) rfl (by decide +kernel) (by decide +kernel)
    (by decide +kernel)
  have cancelled := readResp_cancels_unstartedRead
  rw [he] at cancelled
  have none_left : g.ops = [] := by simpa [opsLeft, hg] using cancelled
  simp [none_left] at ho
end Sys2Proof.Proofs
end

section
/-! SUPPORT. Fields of registers: reads after writes. -/

namespace Sys2Proof.Machine

/-! ## Fields of a register -/

/-- A number cut at bits lo and lo + w. -/
theorem eq_cut (v lo w : Nat) : v = 2 ^ lo * (2 ^ w * (v / 2 ^ (lo + w)) + v / 2 ^ lo % 2 ^ w) + v % 2 ^ lo := by
  rw [Nat.pow_add, ← Nat.div_div_eq_div_mul, Nat.div_add_mod, Nat.div_add_mod]

/-- A field of v written with x: the bits above it, x, and the bits below it. -/
theorem toNat_setBits (v : BitVec 64) {hi lo : Nat} (x : Nat) (hlo : lo ≤ hi) (hhi : hi < 64) :
    (setBits v hi lo x).toNat =
      2 ^ lo * (2 ^ (hi + 1 - lo) * (v.toNat / 2 ^ (hi + 1)) + x % 2 ^ (hi + 1 - lo)) + v.toNat % 2 ^ lo := by
  obtain ⟨w, rfl⟩ : ∃ w, hi = lo + w := ⟨hi - lo, by omega⟩
  have hv := eq_cut v.toNat lo (w + 1)
  unfold setBits nbits
  rw [show lo + w + 1 - lo = w + 1 by omega, Nat.add_assoc lo w 1]
  have ha : v.toNat / 2 ^ (lo + (w + 1)) < 2 ^ (63 - (lo + w)) :=
    Nat.div_lt_of_lt_mul (by rw [← Nat.pow_add, show lo + (w + 1) + (63 - (lo + w)) = 64 by omega]; exact v.isLt)
  have h64 : 2 ^ lo * 2 ^ (w + 1) * 2 ^ (63 - (lo + w)) = 2 ^ 64 := by
    rw [← Nat.pow_add, ← Nat.pow_add]; congr 1; omega
  generalize v.toNat / 2 ^ (lo + (w + 1)) = a at hv ha ⊢
  generalize v.toNat / 2 ^ lo % 2 ^ (w + 1) = b at hv ⊢
  have hc : v.toNat % 2 ^ lo < 2 ^ lo := Nat.mod_lt _ (by positivity)
  generalize v.toNat % 2 ^ lo = c at hv hc ⊢
  have hx : x % 2 ^ (w + 1) < 2 ^ (w + 1) := Nat.mod_lt _ (by positivity)
  generalize x % 2 ^ (w + 1) = y at hx ⊢
  generalize 2 ^ lo = p at *
  generalize 2 ^ (w + 1) = q at *
  generalize 2 ^ (63 - (lo + w)) = r at *
  have small : p * (q * a + y) + c < 2 ^ 64 :=
    calc p * (q * a + y) + c < p * (q * a + y) + p := by omega
      _ = p * (q * a + (y + 1)) := by ring
      _ ≤ p * (q * a + q) := Nat.mul_le_mul_left _ (by omega)
      _ = p * q * (a + 1) := by ring
      _ ≤ p * q * r := Nat.mul_le_mul_left _ ha
      _ = 2 ^ 64 := h64
  have taken : v.toNat - b * p + y * p = p * (q * a + y) + c := by
    rw [hv, show p * (q * a + b) + c = b * p + (p * (q * a) + c) by ring, Nat.add_sub_cancel_left]; ring
  rw [BitVec.toNat_ofNat, taken, Nat.mod_eq_of_lt small]

/-- What a field holds after a write of it. -/
@[simp] theorem b64_setBits_same (v : BitVec 64) {hi lo : Nat} (x : Nat) (hlo : lo ≤ hi) (hhi : hi < 64) :
    b64 (setBits v hi lo x) hi lo = x % 2 ^ (hi + 1 - lo) := by
  have hc : v.toNat % 2 ^ lo < 2 ^ lo := Nat.mod_lt _ (by positivity)
  rw [b64, nbits, toNat_setBits v x hlo hhi, Nat.mul_add_div (by positivity), Nat.div_eq_of_lt hc, Nat.add_zero,
    Nat.mul_add_mod_self_left, Nat.mod_mod]

/-- Bit j after a write of a field: one of x inside the field, one of v outside. -/
theorem testBit_setBits (v : BitVec 64) {hi lo : Nat} (x j : Nat) (hlo : lo ≤ hi) (hhi : hi < 64) (hj : j < lo ∨ hi < j) :
    (setBits v hi lo x).toNat.testBit j = v.toNat.testBit j := by
  have hc : v.toNat % 2 ^ lo < 2 ^ lo := Nat.mod_lt _ (by positivity)
  have hx : x % 2 ^ (hi + 1 - lo) < 2 ^ (hi + 1 - lo) := Nat.mod_lt _ (by positivity)
  rw [toNat_setBits v x hlo hhi, Nat.testBit_two_pow_mul_add _ hc, Nat.testBit_two_pow_mul_add _ hx]
  rcases hj with hj | hj
  · rw [if_pos hj, Nat.testBit_mod_two_pow]; simp [hj]
  · rw [if_neg (by omega), if_neg (by omega), Nat.testBit_div_two_pow]; congr 1; omega

/-- A write of a field leaves the others. -/
theorem b64_setBits_other (v : BitVec 64) {hi lo hi' lo' : Nat} (x : Nat) (hlo : lo ≤ hi) (hhi : hi < 64)
    (h : hi' < lo ∨ hi < lo') : b64 (setBits v hi lo x) hi' lo' = b64 v hi' lo' := by
  apply Nat.eq_of_testBit_eq
  intro k
  simp only [b64, nbits, Nat.testBit_mod_two_pow, Nat.testBit_div_two_pow]
  by_cases hk : k < hi' + 1 - lo'
  · rw [testBit_setBits v x _ hlo hhi (by omega)]
  · simp [hk]

@[simp] theorem State.reg_setReg_same (s : State) (n : Nat) (v : BitVec 64) : (s.setReg n v).reg n = v := mgetD_mput_same _ _ _ _

theorem State.reg_setReg_other (s : State) {n k : Nat} (v : BitVec 64) (h : k ≠ n) : (s.setReg n v).reg k = s.reg k :=
  mgetD_mput_other _ _ _ h

/-- Fields depend on the stored registers only. -/
theorem State.fld_congr {s t : State} (h : t.regs = s.regs) (n hi lo : Nat) : t.fld n hi lo = s.fld n hi lo := by
  unfold State.fld State.reg; rw [h]

theorem State.fld_setFld_same (s : State) (n : Nat) {hi lo : Nat} (x : Nat) (hlo : lo ≤ hi) (hhi : hi < 64) :
    (s.setFld n hi lo x).fld n hi lo = x % 2 ^ (hi + 1 - lo) := by
  unfold State.fld State.setFld; rw [State.reg_setReg_same, b64_setBits_same _ _ hlo hhi]

/-- A write of a field leaves every other field of every register. -/
theorem State.fld_setFld_other (s : State) (n k : Nat) {hi lo hi' lo' : Nat} (x : Nat) (hlo : lo ≤ hi) (hhi : hi < 64)
    (h : k ≠ n ∨ hi' < lo ∨ hi < lo') : (s.setFld n hi lo x).fld k hi' lo' = s.fld k hi' lo' := by
  unfold State.fld State.setFld
  by_cases hk : k = n
  · subst hk
    rw [State.reg_setReg_same, b64_setBits_other _ _ hlo hhi (h.resolve_left (fun c => c rfl))]
  · rw [State.reg_setReg_other _ _ hk]

/-- A field holds no more than its width. -/
theorem b64_lt (v : BitVec 64) (hi lo : Nat) : b64 v hi lo < 2 ^ (hi + 1 - lo) := Nat.mod_lt _ (by positivity)

end Sys2Proof.Machine
end

section
/-! SUPPORT. What the units leave alone as they report: records of Peal, error records and what these write at a home. -/

namespace Sys2Proof.Machine

/-! ## What reports leave alone -/

/-- t is s but for the records that wait for Peal's buffers. -/
def State.Offered (s t : State) : Prop := ∃ w, t = { s with peal := { s.peal with wait := w } }

theorem State.Offered.refl (s : State) : s.Offered s := ⟨s.peal.wait, rfl⟩

theorem State.Offered.trans {s t u : State} (h : s.Offered t) (h' : t.Offered u) : s.Offered u := by
  obtain ⟨_, rfl⟩ := h
  obtain ⟨w, rfl⟩ := h'
  exact ⟨w, rfl⟩

/-- What every step of a fold offers, the fold offers. -/
theorem State.Offered.foldl {α : Type} {f : State → α → State} (h : ∀ (s : State) a, s.Offered (f s a)) (l : List α) (s : State) :
    s.Offered (l.foldl f s) :=
  List.foldlRecOn l f (.refl s) (fun _ ht a _ => ht.trans (h _ a))

theorem State.emitTo_offered (s : State) (p die c i k pl : Nat) : s.Offered (s.emitTo p die c i k pl) := by
  unfold State.emitTo
  dsimp only
  split
  · exact ⟨_, rfl⟩
  · exact .refl s

theorem State.emitDev_offered (s : State) (c i k pl : Nat) : s.Offered (s.emitDev c i k pl) :=
  .foldl (fun s p => by
    split
    · exact s.emitTo_offered ..
    · exact .refl s) _ s

theorem State.emitTocsin_offered (s : State) (b : Bool) : s.Offered (s.emitTocsin b) := s.emitDev_offered ..

theorem State.emitTime_offered (s : State) : s.Offered s.emitTime := .foldl (fun s _ => s.emitTo_offered ..) _ s

theorem State.emitErr_offered (s : State) (i k sev : Nat) (m : Bool) (o : Option (Nat × Nat)) :
    s.Offered (s.emitErr i k sev m o) := by
  unfold State.emitErr
  dsimp only
  split
  · split
    · exact s.emitTo_offered ..
    · exact .refl s
  · exact s.emitDev_offered ..

/-- t is s but for what an error record may change wherever it is written: memory, reservations on its line, the records, Peal's
waiting records and messages to the host. -/
def State.Reported (s t : State) : Prop :=
  ∃ mm gs rel peal links, t = { s with mm := mm, groups := gs, rel := rel, peal := peal, links := links }

theorem State.Reported.refl (s : State) : s.Reported s := ⟨s.mm, s.groups, s.rel, s.peal, s.links, rfl⟩

theorem State.Reported.trans {s t u : State} (h : s.Reported t) (h' : t.Reported u) : s.Reported u := by
  obtain ⟨_, _, _, _, _, rfl⟩ := h
  obtain ⟨mm, gs, rel, peal, links, rfl⟩ := h'
  exact ⟨mm, gs, rel, peal, links, rfl⟩

theorem State.Offered.reported {s t : State} (h : s.Offered t) : s.Reported t := by
  obtain ⟨_, rfl⟩ := h
  exact ⟨_, _, _, _, _, rfl⟩

theorem State.Reported.power {s t : State} (h : s.Reported t) : t.power = s.power := by
  obtain ⟨_, _, _, _, _, rfl⟩ := h; rfl

theorem State.Reported.regs {s t : State} (h : s.Reported t) : t.regs = s.regs := by
  obtain ⟨_, _, _, _, _, rfl⟩ := h; rfl

theorem State.updLine_reported (s : State) (ln : Nat) (f : Line → Line) : s.Reported (s.updLine ln f) := ⟨_, _, _, _, _, rfl⟩

theorem State.putBytes_reported (s : State) (pa : Nat) (bs : List Byte) : s.Reported (s.putBytes pa bs) :=
  ⟨_, _, _, _, _, rfl⟩

theorem State.dropFlaws_reported (s : State) (p : FlawAt → Bool) : s.Reported (s.dropFlaws p) := by
  rw [State.dropFlaws_eq]; exact ⟨_, _, _, _, _, rfl⟩

theorem State.takeBack_reported (s : State) (ln : Nat) : s.Reported (s.takeBack ln).1 := by
  unfold State.takeBack
  dsimp only
  split
  · exact .refl s
  · split <;> exact ⟨_, _, _, _, _, rfl⟩

theorem State.bumpVersion_reported (s : State) (ln : Nat) : s.Reported (s.bumpVersion ln) := by
  unfold State.bumpVersion
  dsimp only
  split <;> exact ⟨_, _, _, _, _, rfl⟩

theorem State.loseResv_reported (s : State) (ln : Nat) : s.Reported (s.loseResv ln) := by
  unfold State.loseResv
  split
  · exact ⟨_, _, _, _, _, rfl⟩
  · exact .refl s

/-- Line ln is recalled for a write at its home: the die that had it keeps a V copy (R155, R157). -/
def State.recalled (s : State) (ln : Nat) : State :=
  match (s.takeBack ln).2.1 with
  | some d => (s.takeBack ln).1.keepV d ln
  | none => (s.takeBack ln).1

/-- Bytes bs at pa are merged into line ln, with its poison, and errors in the array go where the line is written whole. -/
def State.merged (s : State) (ln pa : Nat) (bs : List Byte) (p : Option PTag) : State :=
  let s := (s.putBytes pa bs).updLine ln (fun x =>
    { x with pois := if bs.length = 128 && p.isNone then none else tagMin p x.pois, writer := 0 })
  if bs.length = 128 && p.isNone then s.dropFlaws (· == .array ln) else s

/-- The steps of a write at a home that stands: recall, merge, the advance of the version, and the end of reservations. -/
theorem State.homeWriteLine_eq (s : State) (pa : Nat) (bs : List Byte) (p : Option PTag) :
    s.homeWriteLine pa bs p = if (s.deadHome pa).isSome then s else
      (((s.recalled (pa / 128)).merged (pa / 128) pa bs p).bumpVersion (pa / 128)).loseResv (pa / 128) := by
  unfold State.homeWriteLine State.recalled State.merged
  dsimp only
  generalize s.takeBack (pa / 128) = r
  obtain ⟨u, d, m⟩ := r
  cases s.deadHome pa with
  | some t => rfl
  | none => cases d <;> rfl

theorem State.recalled_reported (s : State) (ln : Nat) : s.Reported (s.recalled ln) := by
  unfold State.recalled
  have h := s.takeBack_reported ln
  split
  · exact h.trans ⟨_, _, _, _, _, rfl⟩
  · exact h

theorem State.merged_reported (s : State) (ln pa : Nat) (bs : List Byte) (p : Option PTag) :
    s.Reported (s.merged ln pa bs p) := by
  have put := fun f => (s.putBytes_reported pa bs).trans (State.updLine_reported _ ln f)
  unfold State.merged
  dsimp only
  split
  · exact (put _).trans (State.dropFlaws_reported _ _)
  · exact put _

theorem State.homeWriteLine_reported (s : State) (pa : Nat) (bs : List Byte) (p : Option PTag) :
    s.Reported (s.homeWriteLine pa bs p) := by
  rw [State.homeWriteLine_eq]
  split
  · exact .refl s
  · exact (((s.recalled_reported _).trans (State.merged_reported ..)).trans (State.bumpVersion_reported ..)).trans
      (State.loseResv_reported ..)

theorem State.homeWrite_reported (s : State) (pa : Nat) (bs : List Byte) (p : Option PTag) : s.Reported (s.homeWrite pa bs p) :=
  List.foldlRecOn _ _ (.refl s) (fun _ ht _ _ => ht.trans (State.homeWriteLine_reported ..))

theorem State.recStore_reported (s : State) (i : Nat) : s.Reported (s.recStore i) := by
  unfold State.recStore
  dsimp only
  split
  · exact (s.homeWrite_reported ..).trans ⟨_, _, _, _, _, rfl⟩
  · split
    · exact .refl s
    · exact ⟨_, _, _, _, _, rfl⟩

theorem State.toHost_reported (s : State) (p : Tlp) : s.Reported (s.toHost p) := by
  unfold State.toHost
  split
  · exact ⟨_, _, _, _, _, rfl⟩
  · split
    · exact ⟨_, _, _, _, _, rfl⟩
    · exact .refl s

theorem State.errMessage_reported (s : State) (sev : Nat) : s.Reported (s.errMessage sev) := by
  unfold State.errMessage State.interrupt
  dsimp only
  split
  · split
    · exact ⟨_, _, _, _, _, rfl⟩
    · exact s.toHost_reported _
  · exact .refl s

/-- Recording an error leaves registers, power and everything else of the device but what State.Reported names (R219, R222). -/
theorem State.record_reported (s : State) (cls kind sev : Nat) (inj : Bool) (addr unit space synd : Nat)
    (o : Option (Nat × Nat)) : s.Reported (s.record cls kind sev inj addr unit space synd o).2 := by
  have counted : s.Reported (s.countErr cls) := ⟨_, _, _, _, _, rfl⟩
  have fresh : ∀ (u : State) k, u.Reported (State.record.go cls kind sev inj addr unit space synd o u k).2 := fun u k =>
    ((State.Reported.trans ⟨_, _, _, _, _, rfl⟩ (State.recStore_reported _ _)).trans
      (State.errMessage_reported _ _)).trans (State.emitErr_offered ..).reported
  unfold State.record
  dsimp only
  split
  · split
    · exact ((counted.trans ⟨_, _, _, _, _, rfl⟩).trans (State.recStore_reported _ _)).trans
        (State.emitErr_offered ..).reported
    · exact counted.trans (fresh _ _)
  · exact counted.trans (fresh _ _)

end Sys2Proof.Machine
end

section
/-! SUPPORT. Orders of a step level (R31, R40, R45). -/

namespace Sys2Proof.Machine

/-! ## Orders of a step level -/

/-- The islands of a list carry ABORTED. -/
def State.markAborted (s : State) (is : List Nat) : State := is.foldl (fun s i => s.setFld (0x200 + i) 1 1 1) s

/-- Marking islands changes registers only. -/
theorem State.markAborted_only (s : State) (is : List Nat) : ∃ r, s.markAborted is = { s with regs := r } :=
  List.foldlRecOn (motive := fun t => ∃ r, t = ({ s with regs := r } : State)) is _ ⟨_, rfl⟩
    (fun _ ht i _ => by obtain ⟨r, rfl⟩ := ht; exact ⟨_, rfl⟩)

theorem State.markAborted_fld_other (s : State) (is : List Nat) {n : Nat} (hn : n < 0x200) (hi lo : Nat) :
    (s.markAborted is).fld n hi lo = s.fld n hi lo :=
  List.foldlRecOn (motive := fun t : State => t.fld n hi lo = s.fld n hi lo) is _ rfl (fun t ht i _ => by
    rw [State.fld_setFld_other _ _ _ _ (by decide) (by decide) (.inl (by omega)), ht])

theorem State.markAborted_fld (s : State) (is : List Nat) {i : Nat} (h : i ∈ is) : (s.markAborted is).fld (0x200 + i) 1 1 = 1 := by
  induction is generalizing s with
  | nil => cases h
  | cons j r ih =>
    by_cases hr : i ∈ r
    · exact ih _ hr
    · have hj : i = j := (List.mem_cons.mp h).resolve_right hr
      subst hj
      exact List.foldlRecOn (motive := fun t : State => t.fld (0x200 + i) 1 1 = 1) r _
        (s.fld_setFld_same (0x200 + i) 1 (by decide) (by decide)) (fun t ht k hk => by
          rw [State.fld_setFld_other _ _ _ _ (by decide) (by decide) (.inl (fun e => hr (by rwa [show i = k by omega])))]
          exact ht)

/-- Power when an order of a level has been taken (R31, R40, R45): met says whether its cap is reached, lower whether it lowers
the cap. -/
def Power.ordering (p : Power) (level src : Nat) (met lower : Bool) (now : Nat) : Power :=
  let wait := mergeIslands p.replanWait p.replan
  { p with
    level := level, src := src, met := met, pursue := if lower && !met then some now else none
    replan := if level = 0 then wait else [], replanWait := if level = 0 then [] else wait }

/-- What an order of a level leaves while the device is on: power as it orders it, the re-plan in progress marked ABORTED, and
nothing else but registers of islands and Peal's records changed. -/
structure State.Ordered (s t : State) (old level src : Nat) : Prop where
  power   : t.power = s.power.ordering level src (decide (s.fld 0x18 43 32 ≤ s.pcap level)) (decide (s.pcap level < old)) s.time
  aborted : ∀ i ∈ s.power.replan, t.fld (0x200 + i) 1 1 = 1
  regs    : ∀ n < 0x200, ∀ hi lo, t.fld n hi lo = s.fld n hi lo
  mm      : t.mm = s.mm
  groups  : t.groups = s.groups

theorem State.orderFrom_on {s : State} (h : s.power.st = .on) (old : Nat) {level : Nat} (hl : level < 8) (src : Nat) :
    s.Ordered (s.orderFrom old level src) old level src := by
  have marked := fun i => s.markAborted_fld (is := s.power.replan) (i := i)
  have kept := fun n hn hi lo => s.markAborted_fld_other s.power.replan (n := n) hn hi lo
  have cap : (s.markAborted s.power.replan).pcap level = s.pcap level := kept _ (by omega) _ _
  have used : (s.markAborted s.power.replan).fld 0x18 43 32 = s.fld 0x18 43 32 := kept _ (by decide) _ _
  obtain ⟨r, hr⟩ := s.markAborted_only s.power.replan
  have he : s.orderFrom old level src = (({ s.markAborted s.power.replan with
      power := s.power.ordering level src (decide (s.fld 0x18 43 32 ≤ s.pcap level)) (decide (s.pcap level < old)) s.time } : State)).emitTocsin
        false := by
    rw [← cap, ← used, hr]
    unfold State.orderFrom
    rw [h]
    unfold State.abortReplan
    unfold State.markAborted at hr
    simp only [hr]
    by_cases h0 : level = 0
    · simp only [Power.ordering, h0, if_true]
      rfl
    · simp only [Power.ordering, h0, if_false]
      rfl
  obtain ⟨w, hw⟩ := State.emitTocsin_offered ({ s.markAborted s.power.replan with
      power := s.power.ordering level src (decide (s.fld 0x18 43 32 ≤ s.pcap level)) (decide (s.pcap level < old)) s.time }) false
  rw [he, hw]
  exact { power := rfl, aborted := marked, regs := kept, mm := by rw [hr], groups := by rw [hr] }

end Sys2Proof.Machine
end

section
/-! SUPPORT. The events that order a step level (R31, R39). -/

namespace Sys2Proof.Machine

/-- TOCSIN while the device is on (R31, R45). -/
theorem tocsin_on {s : State} (h : s.power.st = .on) (x : BitVec 3) :
    ∃ t, exec (.tocsin x) s = .next t ∧ t.power.level = x.toNat ∧ t.power.src = 0 ∧ t.power.pinAt = some s.time ∧
      t.power.replan = (if x = 0#3 then mergeIslands s.power.replanWait s.power.replan else []) ∧
      t.power.met = decide (s.fld 0x18 43 32 ≤ s.pcap x.toNat) ∧
      (∀ i ∈ s.power.replan, t.fld (0x200 + i) 1 1 = 1) ∧ t.mm = s.mm ∧ t.groups = s.groups := by
  have o := State.orderFrom_on (s := s.setPower { s.power with pinAt := some s.time }) h (s.pcap s.power.level) x.isLt 0
  have level0 : x.toNat = 0 ↔ x = 0#3 := by rw [← BitVec.toNat_inj]; rfl
  have islands : ∀ (a : List Nat), (if x.toNat = 0 then a else []) = if x = 0#3 then a else [] := fun a => by
    simp only [level0]
  exact ⟨_, rfl, congrArg Power.level o.power, congrArg Power.src o.power, congrArg Power.pinAt o.power,
    (congrArg Power.replan o.power).trans (islands _), congrArg Power.met o.power, o.aborted, o.mm, o.groups⟩

/-- TOCSIN during the trap: the order is kept, and none is applied (R45). -/
theorem tocsin_draining {s : State} (h : s.power.st = .draining) (x : BitVec 3) :
    ∃ t, exec (.tocsin x) s = .next t ∧ t.power.ordered = some x.toNat ∧ t.power.level = s.power.level ∧
      t.power.applied = s.power.applied ∧ t.mm = s.mm := by
  have he : exec (.tocsin x) s =
      .next (s.setPower { s.power with pinAt := some s.time, ordered := some x.toNat }) := by
    change Host.Outcome.next ((s.setPower { s.power with pinAt := some s.time }).orderFrom (s.pcap s.power.level) x.toNat 0) = _
    unfold State.orderFrom
    simp only [State.setPower, h]
  exact ⟨_, he, rfl, rfl, rfl, rfl⟩

/-- TOCSIN_MESSAGE has no effect without the main input (R30). -/
theorem tocsinMessage_noInput {s : State} (h : s.power.input = false) (x : BitVec 3) :
    exec (.tocsinMessage x) s = .next s := by
  change execTocsinMessage x s = _
  simp [execTocsinMessage, h]

/-- TOCSIN_MESSAGE has no effect within a microsecond of a pin edge (R31). -/
theorem tocsinMessage_afterPin {s : State} {p : Nat} (hp : s.power.pinAt = some p) (ht : s.time < p + 16000) (x : BitVec 3) :
    exec (.tocsinMessage x) s = .next s := by
  change execTocsinMessage x s = _
  simp [execTocsinMessage, hp, ht]

/-- TOCSIN_MESSAGE later orders the level (R31). -/
theorem tocsinMessage_orders {s : State} (ht : ∀ p, s.power.pinAt = some p → p + 16000 ≤ s.time) (h : s.power.st = .on)
    (hi : s.power.input = true) (x : BitVec 3) :
    ∃ t, exec (.tocsinMessage x) s = .next t ∧ t.power.level = x.toNat ∧ t.power.src = 1 ∧ t.mm = s.mm := by
  have o := State.orderFrom_on h (s.pcap s.power.level) x.isLt 1
  have he : exec (.tocsinMessage x) s = .next (s.order x.toNat 1) := by
    change execTocsinMessage x s = _
    unfold execTocsinMessage
    cases hp : s.power.pinAt with
    | none => simp [hi]
    | some p => simp [hi, Nat.not_lt.mpr (ht p hp)]
  exact ⟨_, he, congrArg Power.level o.power, congrArg Power.src o.power, o.mm⟩

/-- The fields of TSLVLn as they are stored (R39). -/
theorem tslvl_fields {p m v : Nat} (hp : p < 2 ^ 11) (hm : m < 2 ^ 4) (hv : v < 2 ^ 4) :
    b64 (BitVec.ofNat 64 (p + m * 2 ^ 16 + v * 2 ^ 20)) 11 0 = p ∧
    b64 (BitVec.ofNat 64 (p + m * 2 ^ 16 + v * 2 ^ 20)) 19 16 = m ∧
    b64 (BitVec.ofNat 64 (p + m * 2 ^ 16 + v * 2 ^ 20)) 23 20 = v := by
  simp only [b64, nbits, BitVec.toNat_ofNat]
  omega

/-- A write of TSLVLn that R39 accepts. -/
def tslvlOk (v : BitVec 64) : Prop :=
  500 ≤ b64 v 11 0 ∧ b64 v 11 0 ≤ 2000 ∧ 1 ≤ b64 v 19 16 ∧ b64 v 19 16 ≤ 8 ∧ 1 ≤ b64 v 23 20 ∧ b64 v 23 20 ≤ 8

/-- TSLVL_WRITE with a field out of range sets the error bit alone (R39). -/
theorem tslvlWrite_bad {v : BitVec 64} (h : ¬ tslvlOk v) (n : BitVec 3) (s : State) :
    exec (.tslvlWrite n v) s = .next (s.setFld 0x18 12 12 1) := by
  change Host.Outcome.next (s.writeTslvl n.toNat v) = _
  unfold State.writeTslvl
  rw [if_pos (by unfold tslvlOk at h; omega)]

/-- The state when an accepted value stands in TSLVLn. -/
def State.storeTslvl (s : State) (n : Nat) (v : BitVec 64) : State :=
  s.setReg (0x10 + n) (BitVec.ofNat 64 (b64 v 11 0 + b64 v 19 16 * 2 ^ 16 + b64 v 23 20 * 2 ^ 20))

/-- TSLVL_WRITE that is accepted stores the value, and is an order when the level is in force (R39). -/
theorem tslvlWrite_ok {v : BitVec 64} (h : tslvlOk v) (n : BitVec 3) (s : State) :
    exec (.tslvlWrite n v) s = .next (if n.toNat = s.power.level then
      (s.storeTslvl n.toNat v).orderFrom (s.pcap s.power.level) n.toNat s.power.src else s.storeTslvl n.toNat v) := by
  change Host.Outcome.next (s.writeTslvl n.toNat v) = _
  unfold State.writeTslvl
  rw [if_neg (by unfold tslvlOk at h; omega)]
  rfl

theorem State.storeTslvl_fields {v : BitVec 64} (h : tslvlOk v) (s : State) (n : Nat) :
    (s.storeTslvl n v).pcap n = b64 v 11 0 ∧ (s.storeTslvl n v).mfloor n = b64 v 19 16 ∧
    (s.storeTslvl n v).vfloor n = b64 v 23 20 := by
  obtain ⟨_, cap, _, matrix, _, vector⟩ := h
  have f := tslvl_fields (p := b64 v 11 0) (m := b64 v 19 16) (v := b64 v 23 20) (by omega) (by omega) (by omega)
  unfold State.pcap State.mfloor State.vfloor State.fld State.storeTslvl
  rwa [State.reg_setReg_same]

/-- An order that is not taken while the device is on changes at most the order kept for the end of the trap. -/
theorem State.orderFrom_notOn {s : State} (h : s.power.st ≠ .on) (old level src : Nat) :
    ∃ o, s.orderFrom old level src = s.setPower { s.power with ordered := o } := by
  unfold State.orderFrom
  split
  · exact ⟨s.power.ordered, rfl⟩
  · exact ⟨_, rfl⟩
  · contradiction

/-- What an accepted write of TSLVLn leaves (R39, R40). -/
theorem tslvlWrite_stores {v : BitVec 64} (h : tslvlOk v) (n : BitVec 3) (s : State) :
    ∃ t, exec (.tslvlWrite n v) s = .next t ∧ t.pcap n.toNat = b64 v 11 0 ∧ t.mfloor n.toNat = b64 v 19 16 ∧
      t.vfloor n.toNat = b64 v 23 20 ∧ t.power.level = s.power.level ∧ t.power.src = s.power.src ∧ t.mm = s.mm ∧
      (n.toNat = s.power.level → s.power.st = .on →
        t.power.met = decide (s.fld 0x18 43 32 ≤ b64 v 11 0) ∧ t.power.pursue =
          if b64 v 11 0 < s.pcap n.toNat ∧ b64 v 11 0 < s.fld 0x18 43 32 then some s.time else none) := by
  have hn := n.isLt
  refine ⟨_, tslvlWrite_ok h n s, ?_⟩
  obtain ⟨cap, matrix, vector⟩ := s.storeTslvl_fields h n.toNat
  by_cases hl : n.toNat = s.power.level
  · rw [if_pos hl]
    by_cases hon : s.power.st = .on
    · have o := State.orderFrom_on (s := s.storeTslvl n.toNat v) hon (s.pcap s.power.level) hn s.power.src
      have used : (s.storeTslvl n.toNat v).fld 0x18 43 32 = s.fld 0x18 43 32 := by
        unfold State.fld State.storeTslvl; rw [State.reg_setReg_other _ _ (by omega)]
      refine ⟨(o.regs _ (by omega) _ _).trans cap, (o.regs _ (by omega) _ _).trans matrix,
        (o.regs _ (by omega) _ _).trans vector, ?_, ?_, o.mm, fun _ _ => ⟨?_, ?_⟩⟩
      all_goals rw [o.power]
      · exact hl
      · rfl
      · simp only [Power.ordering, cap, used]
      · simp only [Power.ordering, cap, used, ← hl, Bool.and_eq_true, Bool.not_eq_true', decide_eq_true_eq,
          decide_eq_false_iff_not, Nat.not_le]
        rfl
    · obtain ⟨o, ho⟩ := State.orderFrom_notOn (s := s.storeTslvl n.toNat v) hon (s.pcap s.power.level) n.toNat s.power.src
      rw [ho]
      exact ⟨cap, matrix, vector, rfl, rfl, rfl, fun _ h => absurd h hon⟩
  · rw [if_neg hl]
    exact ⟨cap, matrix, vector, rfl, rfl, rfl, fun h => absurd h hl⟩

end Sys2Proof.Machine
end

section
/-! SUPPORT. The loop of Tabor, the current limit, and what starts a re-plan (R36, R42, R55, R58). -/

namespace Sys2Proof.Machine

/-! ## The loop of Tabor -/

/-- Suspending lossless mode changes Peal, and PSTAT of partitions whose records are dropped (R243, R245). -/
theorem State.suspend_only (s : State) : ∃ r p, s.suspend = { s with regs := r, peal := p } ∧
    ∀ n < 0x330, ∀ hi lo, s.suspend.fld n hi lo = s.fld n hi lo := by
  unfold State.suspend
  dsimp only
  refine List.foldlRecOn (motive := fun t : State => ∃ r p, t = { s with regs := r, peal := p } ∧
    ∀ n < 0x330, ∀ hi lo, t.fld n hi lo = s.fld n hi lo) _ _ ⟨_, _, rfl, fun _ _ _ _ => rfl⟩ ?_
  rintro _ ⟨r, p, rfl, kept⟩ x _
  refine ⟨_, _, rfl, fun n hn hi lo => ?_⟩
  rw [← kept n hn hi lo]
  exact State.fld_setFld_other _ (nPSTAT x.part) n _ (by decide) (by decide) (.inl (by unfold nPSTAT; omega))

/-- From s to t the stages applied become those of a list, and nothing changes but links, Peal and PSTAT registers. -/
structure State.Graded (s t : State) (applied : List Nat) : Prop where
  power : t.power = { s.power with applied := applied }
  regs  : ∀ n < 0x330, ∀ hi lo, t.fld n hi lo = s.fld n hi lo
  time  : t.time = s.time
  mm    : t.mm = s.mm

theorem State.Graded.refl (s : State) : s.Graded s s.power.applied := ⟨rfl, fun _ _ _ _ => rfl, rfl, rfl⟩

theorem State.Graded.offered {s t u : State} {a : List Nat} (h : s.Graded t a) (o : t.Offered u) : s.Graded u a := by
  obtain ⟨w, rfl⟩ := o
  exact ⟨h.power, h.regs, h.time, h.mm⟩

/-- The stages applied with one more grade, where there is one (R42). -/
def State.oneMore (s : State) : List Nat :=
  match s.nextStage with
  | some k => k :: s.power.applied
  | none => s.power.applied

theorem State.applyGrade_graded (s : State) : s.Graded s.applyGrade s.oneMore := by
  unfold State.applyGrade State.oneMore
  cases s.nextStage with
  | none => exact .refl s
  | some k =>
    refine State.Graded.offered ?_ (State.emitTocsin_offered _ false)
    dsimp only
    split
    · obtain ⟨r, p, hu, kept⟩ := (s.setPower { s.power with applied := k :: s.power.applied }).suspend_only
      refine ⟨by rw [hu]; rfl, kept, by rw [hu]; rfl, by rw [hu]; rfl⟩
    · exact ⟨rfl, fun _ _ _ _ => rfl, rfl, rfl⟩

theorem State.liftGrade_graded (s : State) : s.Graded s.liftGrade s.power.applied.tail := by
  unfold State.liftGrade
  split
  · next h =>
    have same := State.Graded.refl s
    rw [h] at same ⊢
    exact same
  · next k r h =>
    rw [h]
    refine State.Graded.offered ?_ (State.emitTocsin_offered _ _)
    by_cases h2 : k = 2 <;> by_cases h7 : k = 7 <;> simp only [h2, h7, if_true, if_false, State.setPower] <;>
      exact ⟨rfl, fun _ _ _ _ => rfl, rfl, rfl⟩

/-- The grade that projected power p asks for under the cap (R42). -/
def State.regrade (s : State) (cap p : Nat) : State :=
  if cap < p then s.applyGrade else if p * 100 < cap * 95 then s.liftGrade else s

theorem State.regrade_graded (s : State) (cap p : Nat) : s.Graded (s.regrade cap p)
    (if cap < p then s.oneMore else if p * 100 < cap * 95 then s.power.applied.tail else s.power.applied) := by
  unfold State.regrade
  split
  · exact s.applyGrade_graded
  · split
    · exact s.liftGrade_graded
    · exact .refl s

/-- The next grade depends on the stages applied, the level, and the duty floors of its register. -/
theorem State.oneMore_congr {s t : State} (ha : t.power.applied = s.power.applied) (hl : t.power.level = s.power.level)
    (hm : t.mfloor s.power.level = s.mfloor s.power.level) (hv : t.vfloor s.power.level = s.vfloor s.power.level) :
    t.oneMore = s.oneMore := by
  have grades : t.grades = s.grades := by
    funext k
    unfold State.grades
    rw [hl, hm, hv]
  unfold State.oneMore State.nextStage Power.grade Power.stage
  rw [ha, grades]

/-- The state in which the loop has taken what its sensors show. -/
def State.sensed (s : State) (seen : Sensed) : State :=
  (s.setPower { s.power with temps := seen.temps, amps := seen.amps }).setFld 0x18 43 32 seen.average

/-- What the loop does about the 50 µs average at the end: the cap is reached, or an order that lowered it is late (R44, R46). -/
def State.checkCap (s : State) (cap a : Nat) : State :=
  if a ≤ cap then s.setPower { s.power with met := true, pursue := none }
  else match s.power.pursue with
    | some t => if t + 16000000 < s.time then
        (s.setFld 0x18 31 16 (satAdd 0xFFFF (s.fld 0x18 31 16) 1)).setPower { s.power with pursue := none }
      else s
    | none => s

theorem taborLoopTick_eq {s : State} (h : s.power.st = .on) (p : Nat) (seen : Sensed) :
    exec (.taborLoopTick p seen) s =
      .next (((s.sensed seen).regrade (s.pcap s.power.level) p).checkCap (s.pcap s.power.level) seen.average) := by
  change execTaborLoopTick p seen s = _
  unfold execTaborLoopTick
  rw [if_neg (by simp [h])]
  rfl

/-- What the last part of the loop leaves of the 50 µs average, the sensors and the stages; what it says of the cap. -/
theorem State.checkCap_spec (s : State) (cap a : Nat) :
    (s.checkCap cap a).power.temps = s.power.temps ∧ (s.checkCap cap a).power.amps = s.power.amps ∧
    (s.checkCap cap a).power.applied = s.power.applied ∧ (s.checkCap cap a).mm = s.mm ∧
    (s.checkCap cap a).fld 0x18 43 32 = s.fld 0x18 43 32 ∧
    (a ≤ cap → (s.checkCap cap a).power.met = true ∧ (s.checkCap cap a).power.pursue = none) ∧
    (∀ t0, s.power.pursue = some t0 → cap < a → (s.checkCap cap a).fld 0x18 31 16 =
      if t0 + 16000000 < s.time then min 0xFFFF (s.fld 0x18 31 16 + 1) else s.fld 0x18 31 16) := by
  unfold State.checkCap
  by_cases hc : a ≤ cap
  · rw [if_pos hc]
    exact ⟨rfl, rfl, rfl, rfl, rfl, fun _ => ⟨rfl, rfl⟩, fun _ _ h => absurd h (by omega)⟩
  · rw [if_neg hc]
    cases hp : s.power.pursue with
    | none => exact ⟨rfl, rfl, rfl, rfl, rfl, fun h => absurd h hc, fun _ h => by cases h⟩
    | some t0 =>
      dsimp only
      by_cases late : t0 + 16000000 < s.time
      · rw [if_pos late]
        refine ⟨rfl, rfl, rfl, rfl, s.fld_setFld_other _ _ _ (by decide) (by decide) (by decide), fun h => absurd h hc, ?_⟩
        rintro _ ⟨⟩ _
        rw [if_pos late]
        refine (s.fld_setFld_same _ _ (by decide) (by decide)).trans (Nat.mod_eq_of_lt ?_)
        unfold satAdd
        omega
      · rw [if_neg late]
        refine ⟨rfl, rfl, rfl, rfl, rfl, fun h => absurd h hc, ?_⟩
        rintro _ ⟨⟩ _
        rw [if_neg late]

/-- TABOR_LOOP_TICK while the device is on (R30, R42, R44, R46). -/
theorem taborLoopTick_on {s : State} (h : s.power.st = .on) (hl : s.power.level < 8) (p a : Nat) (temps amps : List Nat) :
    ∃ t, exec (.taborLoopTick p ⟨a, temps, amps⟩) s = .next t ∧ t.power.temps = temps ∧ t.power.amps = amps ∧
      t.fld 0x18 43 32 = a % 2 ^ 12 ∧ (a ≤ s.pcap s.power.level → t.power.met = true ∧ t.power.pursue = none) ∧
      (∀ t0, s.power.pursue = some t0 → s.pcap s.power.level < a → t.fld 0x18 31 16 =
        if t0 + 16000000 < s.time then min 0xFFFF (s.fld 0x18 31 16 + 1) else s.fld 0x18 31 16) ∧
      t.power.applied = (if s.pcap s.power.level < p then s.oneMore
        else if p * 100 < s.pcap s.power.level * 95 then s.power.applied.tail else s.power.applied) ∧ t.mm = s.mm := by
  have g := (s.sensed ⟨a, temps, amps⟩).regrade_graded (s.pcap s.power.level) p
  obtain ⟨temps', amps', applied, mm, average, reached, late⟩ :=
    ((s.sensed ⟨a, temps, amps⟩).regrade (s.pcap s.power.level) p).checkCap_spec (s.pcap s.power.level) a
  have other : ∀ n hi lo, n ≠ 0x18 ∨ hi < 32 → (s.sensed ⟨a, temps, amps⟩).fld n hi lo = s.fld n hi lo := fun n hi lo hn =>
    (State.fld_setFld_other _ 0x18 n a (by decide) (by decide) (by omega)).trans rfl
  have more : (s.sensed ⟨a, temps, amps⟩).oneMore = s.oneMore :=
    State.oneMore_congr rfl rfl (other _ _ _ (.inl (by omega))) (other _ _ _ (.inl (by omega)))
  rw [more] at g
  refine ⟨_, taborLoopTick_eq h p _, ?_, ?_, ?_, reached, fun t0 ht hc => ?_, ?_, ?_⟩
  · rw [temps', g.power]; rfl
  · rw [amps', g.power]; rfl
  · rw [average, g.regs _ (by decide)]
    exact State.fld_setFld_same _ _ _ (by decide) (by decide)
  · have hp : ((s.sensed ⟨a, temps, amps⟩).regrade (s.pcap s.power.level) p).power.pursue = some t0 := by rw [g.power]; exact ht
    rw [late t0 hp hc, g.time, g.regs _ (by decide), other _ _ _ (.inr (by decide))]
    rfl
  · rw [applied, g.power]; rfl
  · rw [mm, g.mm]; rfl

/-! ## The current limit, time of re-plans, and the command of margins -/

theorem currentLimitTrip_trips {s : State} {a : Nat} (ha : 3900 ≤ a) (h : s.power.limiting = false) :
    ∃ t, exec (.currentLimitTrip a) s = .next t ∧ t.power.limiting = true ∧ t.power.duty = s.power.duty - 1 := by
  have he : exec (.currentLimitTrip a) s = .next (s.setPower { s.power with limiting := true, duty := s.power.duty - 1 }) := by
    change execCurrentLimitTrip a s = _
    simp [execCurrentLimitTrip, ha, h]
  exact ⟨_, he, rfl, rfl⟩

theorem currentLimitTrip_below {a : Nat} (ha : a < 3900) (s : State) : exec (.currentLimitTrip a) s = .next s := by
  change execCurrentLimitTrip a s = _
  simp [execCurrentLimitTrip, Nat.not_le.mpr ha]

theorem currentLimitStep_limits {s : State} (h : s.power.limiting = true) (a : Nat) :
    ∃ t, exec (.currentLimitStep a) s = .next t ∧ t.power.limiting = decide (3800 ≤ a) ∧
      t.power.duty = if 3800 ≤ a then s.power.duty - 1 else s.power.duty := by
  have he : exec (.currentLimitStep a) s = .next (if a < 3800 then s.setPower { s.power with limiting := false }
      else s.setPower { s.power with duty := s.power.duty - 1 }) := by
    change execCurrentLimitStep a s = _
    simp [execCurrentLimitStep, h]
  refine ⟨_, he, ?_⟩
  by_cases ha : a < 3800
  · simp [ha, Nat.not_le.mpr ha, State.setPower]
  · simp [ha, Nat.not_lt.mp ha, State.setPower, h]

theorem currentLimitRestore_raises {s : State} (h : s.power.limiting = false) (hd : s.power.duty < 8) :
    ∃ t, exec .currentLimitRestore s = .next t ∧ t.power.duty = s.power.duty + 1 := by
  have he : exec .currentLimitRestore s = .next (s.setPower { s.power with duty := s.power.duty + 1 }) := by
    change execCurrentLimitRestore s = _
    simp [execCurrentLimitRestore, h, Nat.not_le.mpr hd]
  exact ⟨_, he, rfl⟩

/-- MARGCMD_START with GO for an island, or for all (R58). -/
theorem margcmdStart_go {s : State} {v : BitVec 64} (hr : s.power.replan = []) (hg : b64 v 9 9 = 1) (hi : b64 v 8 0 ≤ 256) :
    ∃ t, exec (.margcmdStart v) s = .next t ∧
      t.power.replan = (if b64 v 8 0 = 256 then List.range 256 else [b64 v 8 0]) ∧ t.mm = s.mm := by
  have he : exec (.margcmdStart v) s = .next ((s.setFld 0x19 8 0 (b64 v 8 0)).setPower
      { s.power with replan := if b64 v 8 0 = 256 then upto 256 else [b64 v 8 0] }) := by
    change Host.Outcome.next (s.writeMargcmd v) = _
    unfold State.writeMargcmd
    simp only [hr, List.isEmpty_nil, hg, Nat.not_lt.mpr hi, Bool.not_true, Bool.false_eq_true, if_false]
    rfl
  exact ⟨_, he, rfl, rfl⟩

theorem margcmdStart_noIsland {s : State} {v : BitVec 64} (hr : s.power.replan = []) (hg : b64 v 9 9 = 1)
    (hi : 256 < b64 v 8 0) : exec (.margcmdStart v) s = .next s := by
  change Host.Outcome.next (s.writeMargcmd v) = _
  simp [State.writeMargcmd, hr, hg, hi]

theorem margcmdStart_noGo {s : State} {v : BitVec 64} (hr : s.power.replan = []) (hg : b64 v 9 9 = 0) :
    exec (.margcmdStart v) s = .next (s.setFld 0x19 8 0 (b64 v 8 0)) := by
  change Host.Outcome.next (s.writeMargcmd v) = _
  simp [State.writeMargcmd, hr, hg]

/-- REPLAN_TIMER when 1000 hours have passed (R55). -/
theorem replanTimer_due {s : State} {h : Nat} (hon : s.power.st = .on) (hd : s.power.hours + 1000 ≤ h) :
    ∃ t, exec (.replanTimer h) s = .next t ∧ t.power.replan = List.range 256 ∧ t.power.hours = h / 1000 * 1000 ∧
      t.onHours = h := by
  have he : exec (.replanTimer h) s =
      .next (s.setPower { s.power with hours := h / 1000 * 1000, hoursAt := (h, 0), replan := upto 256 }) := by
    change execReplanTimer h s = _
    unfold execReplanTimer
    rw [if_pos ⟨hon, hd⟩]
    rfl
  exact ⟨_, he, by simp only [State.setPower, upto], rfl, by simp [State.onHours, State.setPower]⟩

theorem replanTimer_early {s : State} {h : Nat} (hd : h < s.power.hours + 1000) : exec (.replanTimer h) s = .next s := by
  change execReplanTimer h s = _
  simp [execReplanTimer, Nat.not_le.mpr hd]

end Sys2Proof.Machine
end

section
/-! SUPPORT. The re-plan of an island and its lowered margins (R55 to R57). -/

namespace Sys2Proof.Machine

/-! ## The re-plan of an island -/

/-- A margin that is not below the one in force comes into force, and none waits any more (R55). -/
theorem State.setMargin_raised {s : State} {i op m : Nat} (h : s.power.margin i op ≤ m) :
    (s.setMargin i op m).power.margin i op = m ∧ mget? (s.setMargin i op m).power.lower (i * 8 + op) = none := by
  unfold State.setMargin
  rw [if_pos h]
  exact ⟨mgetD_mput_same _ _ _ _, by simp [State.setPower, mget?_mdel]⟩

/-- A margin below the one in force waits (R55). -/
theorem State.setMargin_lowered {s : State} {i op m : Nat} (h : m < s.power.margin i op) :
    (s.setMargin i op m).power.margin i op = s.power.margin i op ∧
    mget? (s.setMargin i op m).power.lower (i * 8 + op) = some m := by
  unfold State.setMargin
  rw [if_neg (by omega)]
  exact ⟨rfl, mget?_mput_same _ _ _⟩

/-- t has the margins of operating point op of island i that s has: the one in force and the one that waits. -/
def State.SameMargin (s t : State) (i op : Nat) : Prop :=
  t.power.margin i op = s.power.margin i op ∧ mget? t.power.lower (i * 8 + op) = mget? s.power.lower (i * 8 + op)

theorem State.setMargin_other (s : State) {i op k : Nat} (m : Nat) (h : k ≠ op) : s.SameMargin (s.setMargin i op m) i k := by
  have hk : i * 8 + k ≠ i * 8 + op := by omega
  unfold State.setMargin
  dsimp only
  split
  · exact ⟨mgetD_mput_other _ _ _ hk, by simp [State.setPower, mget?_mdel, h]⟩
  · exact ⟨rfl, mget?_mput_other _ _ hk⟩

/-- From s to t nothing of power changes but margins, and of MARGSTAT of island i, MONFAULT stays, a point once lost stays lost
and CAP does not fall. -/
structure State.Replans (s t : State) (i : Nat) : Prop where
  power    : ∃ m l, t.power = { s.power with margins := m, lower := l }
  monfault : t.fld (0x200 + i) 0 0 = s.fld (0x200 + i) 0 0
  lost     : s.fld (0x200 + i) 2 2 = 1 → t.fld (0x200 + i) 2 2 = 1
  cap      : s.fld (0x200 + i) 15 13 ≤ t.fld (0x200 + i) 15 13

theorem State.Replans.refl (s : State) (i : Nat) : s.Replans s i := ⟨⟨_, _, rfl⟩, rfl, id, le_rfl⟩

theorem State.Replans.trans {s t u : State} {i : Nat} (h : s.Replans t i) (h' : t.Replans u i) : s.Replans u i := by
  obtain ⟨_, _, ht⟩ := h.power
  obtain ⟨m, l, hu⟩ := h'.power
  exact ⟨⟨m, l, by rw [hu, ht]⟩, h'.monfault.trans h.monfault, fun e => h'.lost (h.lost e), h.cap.trans h'.cap⟩

/-- Operating point op of island i stands in t as its margin m of state s asks for (R55, R56). -/
structure State.Planned (s t : State) (i op m : Nat) : Prop where
  raised  : s.power.margin i op ≤ min 60 m →
    t.power.margin i op = min 60 m ∧ mget? t.power.lower (i * 8 + op) = none
  lowered : min 60 m < s.power.margin i op →
    t.power.margin i op = s.power.margin i op ∧ mget? t.power.lower (i * 8 + op) = some (min 60 m)
  beyond    : 60 < m → t.fld (0x200 + i) 2 2 = 1 ∧ min 5 (op + 1) ≤ t.fld (0x200 + i) 15 13

/-- What follows of other operating points leaves a planned one so. -/
theorem State.Planned.later {s t u : State} {i op m : Nat} (h : s.Planned t i op m) (r : t.Replans u i)
    (k : t.SameMargin u i op) : s.Planned u i op m where
  raised hm := by rw [k.1, k.2]; exact h.raised hm
  lowered hm := by rw [k.1, k.2]; exact h.lowered hm
  beyond hm := ⟨r.lost (h.beyond hm).1, (h.beyond hm).2.trans r.cap⟩

/-- What came before of other operating points does not matter. -/
theorem State.Planned.earlier {s t u : State} {i op m : Nat} (h : t.Planned u i op m) (k : s.SameMargin t i op) :
    s.Planned u i op m where
  raised hm := h.raised (by rwa [k.1])
  lowered hm := by rw [← k.1] at hm ⊢; exact h.lowered hm
  beyond := h.beyond

/-- The registers of an island whose operating point op is lost (R56). -/
def State.losePoint (s : State) (i op : Nat) : State :=
  (s.setFld (0x200 + i) 15 13 (max (s.fld (0x200 + i) 15 13) (min 5 (op + 1)))).setFld (0x200 + i) 2 2 1

theorem State.losePoint_fld (s : State) (i op : Nat) :
    (s.losePoint i op).fld (0x200 + i) 2 2 = 1 ∧
    (s.losePoint i op).fld (0x200 + i) 15 13 = max (s.fld (0x200 + i) 15 13) (min 5 (op + 1)) ∧
    (s.losePoint i op).fld (0x200 + i) 0 0 = s.fld (0x200 + i) 0 0 := by
  have width : s.fld (0x200 + i) 15 13 < 2 ^ (15 + 1 - 13) := b64_lt _ _ _
  unfold State.losePoint
  refine ⟨State.fld_setFld_same _ _ _ (by decide) (by decide), ?_, ?_⟩
  · rw [State.fld_setFld_other _ _ _ _ (by decide) (by decide) (by omega),
      State.fld_setFld_same _ _ _ (by decide) (by decide), Nat.mod_eq_of_lt (by omega)]
  · rw [State.fld_setFld_other _ _ _ _ (by decide) (by decide) (by omega),
      State.fld_setFld_other _ _ _ _ (by decide) (by decide) (by omega)]

/-- One operating point is planned, and the others keep their margins (R55, R56). -/
theorem State.replanPoint_spec (s : State) (i op : Nat) (rs bad : List Nat) :
    s.Replans (s.replanPoint i op rs bad) i ∧ s.Planned (s.replanPoint i op rs bad) i op (marginOf (leastSlack rs bad)) ∧
    ∀ k ≠ op, s.SameMargin (s.replanPoint i op rs bad) i k := by
  unfold State.replanPoint
  dsimp only
  generalize marginOf (leastSlack rs bad) = m
  have others := fun k hk => s.setMargin_other (i := i) (op := op) (k := k) (min 60 m) hk
  have raised := fun hm => s.setMargin_raised (i := i) (op := op) (m := min 60 m) hm
  have lowered := fun hm => s.setMargin_lowered (i := i) (op := op) (m := min 60 m) hm
  have only : ∃ a b, s.setMargin i op (min 60 m) = s.setPower { s.power with margins := a, lower := b } := by
    unfold State.setMargin
    dsimp only
    split <;> exact ⟨_, _, rfl⟩
  obtain ⟨a, b, hu⟩ := only
  generalize s.setMargin i op (min 60 m) = u at *
  subst hu
  by_cases hm : 60 < m
  · rw [if_pos hm]
    have recorded := State.record_reported (s.setPower { s.power with margins := a, lower := b }) 6 0x09 4 false 0 (i + op * 256) 0 0 none
    generalize (State.record (s.setPower { s.power with margins := a, lower := b }) 6 0x09 4 false 0 (i + op * 256) 0 0 none).2 = v at *
    have power : v.power = { s.power with margins := a, lower := b } := recorded.power
    have regs : ∀ hi lo, v.fld (0x200 + i) hi lo = s.fld (0x200 + i) hi lo := State.fld_congr recorded.regs _
    obtain ⟨lost, cap, mon⟩ := v.losePoint_fld i op
    have same : (v.losePoint i op).power = { s.power with margins := a, lower := b } := power
    change s.Replans (v.losePoint i op) i ∧ s.Planned (v.losePoint i op) i op m ∧ ∀ k ≠ op, s.SameMargin (v.losePoint i op) i k
    refine ⟨⟨⟨a, b, same⟩, by rw [mon, regs], fun _ => lost, by rw [cap, regs]; omega⟩, ⟨?_, ?_, fun _ => ⟨lost, by rw [cap]; omega⟩⟩, ?_⟩
    · rw [same]; exact raised
    · rw [same]; exact lowered
    · unfold State.SameMargin; rw [same]; exact others
  · rw [if_neg hm]
    exact ⟨⟨⟨a, b, rfl⟩, rfl, id, le_rfl⟩, ⟨raised, lowered, fun h => absurd h hm⟩, others⟩

/-- Operating points are planned one after the other. -/
theorem State.replanPoints_spec (i : Nat) (rs : Nat → List Nat) (bad ops : List Nat) (hd : ops.Nodup) (s : State) :
    let t := ops.foldl (fun s op => s.replanPoint i op (rs op) bad) s
    s.Replans t i ∧ (∀ op ∈ ops, s.Planned t i op (marginOf (leastSlack (rs op) bad))) ∧ ∀ k ∉ ops, s.SameMargin t i k := by
  induction ops generalizing s with
  | nil => exact ⟨.refl s i, fun _ h => absurd h (by simp), fun _ _ => ⟨rfl, rfl⟩⟩
  | cons op r ih =>
    obtain ⟨fresh, hr⟩ := List.nodup_cons.mp hd
    obtain ⟨first, done, others⟩ := s.replanPoint_spec i op (rs op) bad
    obtain ⟨rest, later, outside⟩ := ih hr (s.replanPoint i op (rs op) bad)
    refine ⟨first.trans rest, fun k hk => ?_, fun k hk => ?_⟩
    · by_cases he : k = op
      · subst he; exact done.later rest (outside k fresh)
      · exact (later k ((List.mem_cons.mp hk).resolve_left he)).earlier (others k he)
    · obtain ⟨ne, notIn⟩ := not_or.mp (mt List.mem_cons.mpr hk)
      exact ⟨(outside k notIn).1.trans (others k ne).1, (outside k notIn).2.trans (others k ne).2⟩

/-- The excluded monitors of an island set MONFAULT and leave power (R57). -/
theorem State.excludeMonitors_spec (i : Nat) (bad : List Nat) (s : State) :
    let t := bad.foldl (fun s m => s.excludeMonitor i m) s
    t.power = s.power ∧ t.fld (0x200 + i) 0 0 = if bad = [] then s.fld (0x200 + i) 0 0 else 1 := by
  induction bad generalizing s with
  | nil => exact ⟨rfl, rfl⟩
  | cons m r ih =>
    obtain ⟨power, mon⟩ := ih (s.excludeMonitor i m)
    have set : (s.excludeMonitor i m).fld (0x200 + i) 0 0 = 1 := State.fld_setFld_same _ _ _ (by decide) (by decide)
    refine ⟨power.trans (State.record_reported ..).power, ?_⟩
    rw [if_neg (by simp)]
    refine mon.trans ?_
    rw [set]
    split <;> rfl

/-- The end of the re-plan of an island: its first and least slack, the hours, and its margins as MARGSTAT shows them (R57). -/
def State.closeReplan (s : State) (i slack : Nat) : State :=
  let first := mgetD s.power.slack0 i slack
  let s := s.setPower { s.power with slack0 := mput s.power.slack0 i first }
  let s := s.setFld (0x200 + i) 43 32 (min slack 0xFFF)
  let s := s.setFld (0x200 + i) 31 24 (min (first - slack) 0xFF)
  let s := s.setFld (0x200 + i) 63 44 s.onHours
  s.syncMargin i

theorem State.closeReplan_power (s : State) (i slack : Nat) : ∃ m, (s.closeReplan i slack).power = { s.power with slack0 := m } :=
  ⟨_, rfl⟩

/-- The end of a re-plan writes the hours, and leaves what the re-plan has said of monitors, lost points and CAP. -/
theorem State.closeReplan_fld (s : State) (i slack : Nat) :
    (s.closeReplan i slack).fld (0x200 + i) 63 44 = s.onHours % 2 ^ 20 ∧
    ∀ hi lo, (hi < 3 ∨ 4 ≤ lo ∧ hi < 16) → (s.closeReplan i slack).fld (0x200 + i) hi lo = s.fld (0x200 + i) hi lo := by
  unfold State.closeReplan State.syncMargin
  refine ⟨?_, fun hi lo h => ?_⟩
  · rw [State.fld_setFld_other _ _ _ _ (by decide) (by decide) (by omega),
      State.fld_setFld_other _ _ _ _ (by decide) (by decide) (by omega),
      State.fld_setFld_same _ _ _ (by decide) (by decide)]
    rfl
  · rw [State.fld_setFld_other _ _ _ _ (by decide) (by decide) (by omega),
      State.fld_setFld_other _ _ _ _ (by decide) (by decide) (by omega),
      State.fld_setFld_other _ _ _ _ (by decide) (by decide) (by omega),
      State.fld_setFld_other _ _ _ _ (by decide) (by decide) (by omega),
      State.fld_setFld_other _ _ _ _ (by decide) (by decide) (by omega)]
    rfl

/-- The monitors that a re-plan with these readings excludes (R57). -/
def excluded (rs : List (List Nat)) : List Nat := dedup ((List.range 6).flatMap (fun op => badMonitors (rs.getD op [])))

/-- The state in which the re-plan of island i begins, and the rest are still to come. -/
def State.beginReplan (s : State) (i : Nat) (rest : List Nat) : State :=
  (s.setPower { s.power with replan := rest }).setFld (0x200 + i) 0 0 0

/-- Monitors are marked, and then the operating points planned. -/
def State.replanAll (s : State) (i : Nat) (rs : List (List Nat)) (bad : List Nat) : State :=
  (List.range 6).foldl (fun s op => s.replanPoint i op (rs.getD op []) bad) (bad.foldl (fun s m => s.excludeMonitor i m) s)

theorem replanIsland_eq {s : State} {i : Nat} {rest : List Nat} (h : s.power.replan = i :: rest) (rs : List (List Nat)) :
    exec (.replanIsland rs) s = .next (((s.beginReplan i rest).replanAll i rs (excluded rs)).closeReplan i
      (leastSlack (rs.getD 0 []) (excluded rs))) := by
  change execReplanIsland rs s = _
  unfold execReplanIsland State.closeReplan State.replanAll State.beginReplan excluded
  simp only [h, upto]

/-- REPLAN_ISLAND handles the first island of the re-plan (R55 to R57). -/
theorem replanIsland_first {s : State} {i : Nat} {rest : List Nat} (h : s.power.replan = i :: rest) (rs : List (List Nat)) :
    ∃ t, exec (.replanIsland rs) s = .next t ∧ t.power.replan = rest ∧
      t.fld (0x200 + i) 0 0 = (if excluded rs = [] then 0 else 1) ∧ t.fld (0x200 + i) 63 44 = s.onHours % 2 ^ 20 ∧
      ∀ op < 6, s.Planned t i op (marginOf (leastSlack (rs.getD op []) (excluded rs))) := by
  obtain ⟨power2, mon2⟩ := State.excludeMonitors_spec i (excluded rs) (s.beginReplan i rest)
  obtain ⟨frame, planned, _⟩ := State.replanPoints_spec i (fun op => rs.getD op []) (excluded rs) (List.range 6) List.nodup_range
    ((excluded rs).foldl (fun s m => s.excludeMonitor i m) (s.beginReplan i rest))
  rw [replanIsland_eq h]
  change State.Replans _ ((s.beginReplan i rest).replanAll i rs (excluded rs)) i at frame
  change ∀ op ∈ List.range 6, State.Planned _ ((s.beginReplan i rest).replanAll i rs (excluded rs)) i op _ at planned
  generalize (excluded rs).foldl (fun s m => s.excludeMonitor i m) (s.beginReplan i rest) = s2 at *
  generalize (s.beginReplan i rest).replanAll i rs (excluded rs) = s3 at *
  obtain ⟨m, l, power3⟩ := frame.power
  obtain ⟨first, power4⟩ := s3.closeReplan_power i (leastSlack (rs.getD 0 []) (excluded rs))
  obtain ⟨hours, kept⟩ := s3.closeReplan_fld i (leastSlack (rs.getD 0 []) (excluded rs))
  have power3' : s3.power = { s.power with replan := rest, margins := m, lower := l } := by rw [power3, power2]; rfl
  refine ⟨_, rfl, by rw [power4, power3'], ?_, ?_, fun op hop => ?_⟩
  · rw [kept _ _ (.inl (by decide)), frame.monfault, mon2]
    unfold State.beginReplan
    rw [State.fld_setFld_same _ _ _ (by decide) (by decide)]
    rfl
  · rw [hours]
    unfold State.onHours
    rw [power3']
  · have before : s.SameMargin s2 i op := by unfold State.SameMargin; rw [power2]; exact ⟨rfl, rfl⟩
    have p := (planned op (List.mem_range.mpr hop)).earlier before
    refine ⟨?_, ?_, fun hm => ⟨?_, ?_⟩⟩
    · rw [power4]; exact p.raised
    · rw [power4]; exact p.lowered
    · rw [kept _ _ (.inl (by decide))]; exact (p.beyond hm).1
    · rw [kept _ _ (.inr (by decide))]; exact (p.beyond hm).2

/-! ## Lowered margins -/

/-- The lowered margin of one operating point comes into force, where one waits (R55). -/
def State.applyLower (s : State) (i op : Nat) : State :=
  match mget? s.power.lower (i * 8 + op) with
  | some m => s.setPower { s.power with
      margins := mput s.power.margins (i * 8 + op) m, lower := mdel s.power.lower (i * 8 + op) }
  | none => s

theorem State.applyLower_same (s : State) (i op : Nat) :
    mget? (s.applyLower i op).power.lower (i * 8 + op) = none ∧
    (s.applyLower i op).power.margin i op = (mget? s.power.lower (i * 8 + op)).getD (s.power.margin i op) := by
  unfold State.applyLower
  cases h : mget? s.power.lower (i * 8 + op) with
  | none => exact ⟨h, rfl⟩
  | some m => exact ⟨by simp [State.setPower, mget?_mdel], mgetD_mput_same _ _ _ _⟩

theorem State.applyLower_other (s : State) (i : Nat) {op k : Nat} (h : k ≠ op) : s.SameMargin (s.applyLower i op) i k := by
  have hk : i * 8 + k ≠ i * 8 + op := by omega
  unfold State.applyLower
  cases mget? s.power.lower (i * 8 + op) with
  | none => exact ⟨rfl, rfl⟩
  | some m => exact ⟨mgetD_mput_other _ _ _ hk, by simp [State.setPower, mget?_mdel, h]⟩

/-- Every operating point of a list takes the lowered margin that waits for it. -/
theorem State.applyLowers_spec (i : Nat) (ops : List Nat) (hd : ops.Nodup) (s : State) :
    (∀ op ∈ ops, mget? (ops.foldl (fun s op => s.applyLower i op) s).power.lower (i * 8 + op) = none ∧
      (ops.foldl (fun s op => s.applyLower i op) s).power.margin i op =
        (mget? s.power.lower (i * 8 + op)).getD (s.power.margin i op)) ∧
    ∀ k ∉ ops, s.SameMargin (ops.foldl (fun s op => s.applyLower i op) s) i k := by
  induction ops generalizing s with
  | nil => exact ⟨fun _ h => absurd h (by simp), fun _ _ => ⟨rfl, rfl⟩⟩
  | cons op r ih =>
    obtain ⟨fresh, hr⟩ := List.nodup_cons.mp hd
    obtain ⟨inside, outside⟩ := ih hr (s.applyLower i op)
    obtain ⟨gone, now⟩ := s.applyLower_same i op
    rw [List.foldl_cons]
    refine ⟨fun k hk => ?_, fun k hk => ?_⟩
    · by_cases he : k = op
      · subst he
        exact ⟨(outside k fresh).2.trans gone, (outside k fresh).1.trans now⟩
      · obtain ⟨margin, lower⟩ := s.applyLower_other i he
        have := inside k ((List.mem_cons.mp hk).resolve_left he)
        rwa [margin, lower] at this
    · obtain ⟨ne, notIn⟩ := not_or.mp (mt List.mem_cons.mpr hk)
      obtain ⟨margin, lower⟩ := s.applyLower_other i ne
      exact ⟨(outside k notIn).1.trans margin, (outside k notIn).2.trans lower⟩

/-- MARGSTAT follows the margins, which stay. -/
theorem State.syncMargin_power (s : State) (i : Nat) : (s.syncMargin i).power = s.power := rfl

/-- MARGIN_LOWER_APPLY on an empty island (R55). -/
theorem marginLowerApply_empty {s : State} {x : BitVec 8} (h : s.islandEmpty x.toNat = true) :
    ∃ t, exec (.marginLowerApply x) s = .next t ∧ ∀ op < 6, mget? t.power.lower (x.toNat * 8 + op) = none ∧
      t.power.margin x.toNat op = (mget? s.power.lower (x.toNat * 8 + op)).getD (s.power.margin x.toNat op) := by
  have he : exec (.marginLowerApply x) s =
      .next (((List.range 6).foldl (fun s op => s.applyLower x.toNat op) s).syncMargin x.toNat) := by
    exact congrArg Host.Outcome.next (if_pos h)
  obtain ⟨applied, _⟩ := State.applyLowers_spec x.toNat (List.range 6) List.nodup_range s
  refine ⟨_, he, fun op hop => ?_⟩
  rw [State.syncMargin_power]
  exact applied op (List.mem_range.mpr hop)

theorem marginLowerApply_resident {s : State} {x : BitVec 8} (h : s.islandEmpty x.toNat = false) :
    exec (.marginLowerApply x) s = .next s := by
  change execMarginLowerApply x s = _
  simp [execMarginLowerApply, h]

end Sys2Proof.Machine
end

section
/-! SUPPORT. Time (R28, R29, R231, R232), and what Tocsin, the margins and time do together. -/

namespace Sys2Proof.Machine

/-! ## Time -/

/-- HOLDOVER when three announce intervals have passed (R29). -/
theorem holdover_enters {s : State} (h : s.links.holdover = false) (ht : s.links.annAt + 3 * s.links.annEvery ≤ s.time) :
    ∃ t, exec .holdover s = .next t ∧ t.links.holdover = true ∧ t.links.slew = 0 ∧ t.time = s.time := by
  obtain ⟨w, hw⟩ := ({ s with links := { s.links with holdover := true, slew := 0 } } : State).emitTime_offered
  have he : exec .holdover s = .next ({ s with links := { s.links with holdover := true, slew := 0 } } : State).emitTime := by
    change execHoldover s = _
    simp [execHoldover, State.holdoverDue, h, ht]
  rw [hw] at he
  exact ⟨_, he, rfl, rfl, rfl⟩

theorem holdover_notDue {s : State} (h : s.links.holdover = true ∨ s.time < s.links.annAt + 3 * s.links.annEvery) :
    exec .holdover s = .next s := by
  have due : s.holdoverDue = false := by
    unfold State.holdoverDue
    rcases h with h | h
    · simp [h]
    · simp [Nat.not_le.mpr h]
  change execHoldover s = _
  simp [execHoldover, due]

/-- A PTP message that the module does not listen to has no effect (R28). -/
theorem ptpMessage_elsewhere {s : State} {p : BitVec 2} {dm : BitVec 16}
    (h : ¬ (s.linksUp = true ∧ p.toNat = s.fld 0x2E 15 0 ∧ dm.toNat = s.fld 0x2F 15 0)) (sec : Nat) (r : PtpRest) :
    exec (.ptpMessage p dm sec r) s = .next s := by
  change execPtpMessage p dm sec r s = _
  unfold execPtpMessage
  rw [if_pos]
  simp only [Bool.or_eq_true, Bool.not_eq_true', decide_eq_true_eq]
  by_cases hu : s.linksUp = true
  · by_cases hp : p.toNat = s.fld 0x2E 15 0
    · exact .inr (fun hd => h ⟨hu, hp, hd⟩)
    · exact .inl (.inr hp)
  · exact .inl (.inl (by simpa using hu))

/-- In holdover only an Announce message has an effect (R29). -/
theorem ptpMessage_holdover {s : State} (h : s.links.holdover = true) (p : BitVec 2) (dm : BitVec 16) (sec ns : Nat) :
    exec (.ptpMessage p dm sec ⟨ns, none⟩) s = .next s := by
  change execPtpMessage p dm sec ⟨ns, none⟩ s = _
  unfold execPtpMessage
  simp [h]

/-- An Announce message ends holdover (R29). -/
def State.announced (s : State) : Option Nat → State
  | none => s
  | some i =>
    let t : State := { s with links := { s.links with holdover := false, annAt := s.time, annEvery := i } }
    if s.links.holdover then t.emitTime else t

/-- A PTP message that the module takes moves the master time, and may be an Announce message (R28, R29, R231). -/
theorem ptpMessage_taken {s : State} {p : BitVec 2} {dm : BitVec 16} {ann : Option Nat} (hu : s.linksUp = true)
    (hp : p.toNat = s.fld 0x2E 15 0) (hd : dm.toNat = s.fld 0x2F 15 0) (h : s.links.holdover = false ∨ ann ≠ none)
    (sec ns : Nat) :
    exec (.ptpMessage p dm sec ⟨ns, ann⟩) s = .next ((s.toMaster (sec * 16000000000 + ns * 16)).announced ann) := by
  change execPtpMessage p dm sec ⟨ns, ann⟩ s = _
  unfold execPtpMessage
  have taken : ¬ ((s.links.holdover && ann.isNone) = true) := by
    rcases h with h | h
    · simp [h]
    · simp [h]
  rw [if_neg (by simp [hu, hp, hd]), if_neg taken]
  cases ann <;> rfl

/-- What the message leaves of time: everything but holdover, the announce times and Peal's waiting records. -/
theorem State.announced_spec (s : State) (ann : Option Nat) :
    (s.announced ann).time = s.time ∧ (s.announced ann).links.slew = s.links.slew ∧
    (s.announced ann).links.locked = s.links.locked ∧ (s.announced ann).peal.copies = s.peal.copies ∧
    (ann = none → (s.announced ann).links.holdover = s.links.holdover ∧ (s.announced ann).links.annAt = s.links.annAt) ∧
    (∀ i, ann = some i → (s.announced ann).links.holdover = false ∧ (s.announced ann).links.annAt = (s.announced ann).time ∧
      (s.announced ann).links.annEvery = i) := by
  cases ann with
  | none => exact ⟨rfl, rfl, rfl, rfl, fun _ => ⟨rfl, rfl⟩, fun _ h => by cases h⟩
  | some i =>
    obtain ⟨w, hw⟩ :=
      ({ s with links := { s.links with holdover := false, annAt := s.time, annEvery := i } } : State).emitTime_offered
    unfold State.announced
    dsimp only
    rw [hw]
    split <;> exact ⟨rfl, rfl, rfl, rfl, fun h => (by cases h), fun _ h => by cases h; exact ⟨rfl, rfl, rfl⟩⟩

/-- The copies of Peal time after a master time t stand within 32 units of it, where they did not run ahead before (R232). -/
theorem State.copyTimes_near (s : State) (t : Nat) {d : Nat} (hd : d < 5) (h : s.copyTime d ≤ t + 32) (x : Nat) :
    t ≤ mgetD (s.copyTimes t) d x + 32 ∧ mgetD (s.copyTimes t) d x ≤ t + 32 := by
  have at_ : mgetD (s.copyTimes t) d x = max (s.copyTime d) (min (t + 32) (t - 32 + Config.freeNat (s.draws + d) % 65)) := by
    unfold mgetD State.copyTimes
    have := mget?_filterMap_range
      (fun d => some (max (s.copyTime d) (min (t + 32) (t - 32 + Config.freeNat (s.draws + d) % 65)))) 5 d
    simp only [Option.map_some, List.filterMap_eq_map', if_pos hd] at this
    rw [upto, this]
    rfl
  rw [at_]
  omega

/-- A message that the module takes, with what it says of the master time (R28, R29, R231, R232). -/
theorem ptpMessage_moves {s : State} {p : BitVec 2} {dm : BitVec 16} {ann : Option Nat} (hu : s.linksUp = true)
    (hp : p.toNat = s.fld 0x2E 15 0) (hd : dm.toNat = s.fld 0x2F 15 0) (h : s.links.holdover = false ∨ ann ≠ none)
    (sec ns : Nat) :
    let x : Nat := sec * 16000000000 + ns * 16
    ∃ t, exec (.ptpMessage p dm sec ⟨ns, ann⟩) s = .next t ∧
      (ann = none → t.links.holdover = s.links.holdover ∧ t.links.annAt = s.links.annAt) ∧
      (∀ i, ann = some i → t.links.holdover = false ∧ t.links.annAt = t.time ∧ t.links.annEvery = i) ∧
      (if s.links.locked then t.time = s.time ∧ t.links.slew = (x : Int) - s.time ∧ t.peal.copies = s.peal.copies
       else t.time = max s.time x ∧ t.links.locked = true ∧
         ∀ d < 5, s.copyTime d ≤ t.time + 32 → t.time ≤ t.copyTime d + 32 ∧ t.copyTime d ≤ t.time + 32) := by
  intro x
  refine ⟨_, ptpMessage_taken hu hp hd h sec ns, ?_⟩
  obtain ⟨time, slew, locked, copies, quiet, announce⟩ := (s.toMaster x).announced_spec ann
  have links : (s.toMaster x).links.holdover = s.links.holdover ∧ (s.toMaster x).links.annAt = s.links.annAt := by
    unfold State.toMaster
    split <;> exact ⟨rfl, rfl⟩
  refine ⟨fun hn => ?_, announce, ?_⟩
  · obtain ⟨holdover, annAt⟩ := quiet hn
    exact ⟨holdover.trans links.1, annAt.trans links.2⟩
  · unfold State.copyTime
    rw [time, slew, locked, copies]
    unfold State.toMaster
    by_cases hl : s.links.locked = true
    · simp only [hl, if_true, and_self]
    · simp only [hl, Bool.false_eq_true, if_false]
      exact ⟨trivial, trivial, fun d hd hc => s.copyTimes_near (max s.time x) hd hc _⟩

end Sys2Proof.Machine

namespace Sys2Proof.Proofs
open Sys2Proof.Machine

/-- Settles O48: each clause is the lemma about its event. -/
theorem tocsinMarginsAndTime : Obligations.TocsinMarginsAndTime := by
  unfold Obligations.TocsinMarginsAndTime
  intro s
  refine ⟨fun x h => tocsin_on h x, fun x h => tocsin_draining h x,
    fun x => ⟨fun h => tocsinMessage_noInput h x, fun p hp ht => tocsinMessage_afterPin hp ht x,
      fun hp h hi => tocsinMessage_orders hp h hi x⟩,
    fun n v => ⟨fun h => tslvlWrite_bad h n s, fun h => tslvlWrite_stores h n s⟩,
    fun p a temps amps h hl => taborLoopTick_on h hl p a temps amps,
    fun a => ⟨fun h => currentLimitTrip_trips h.1 h.2, fun h => currentLimitTrip_below h s,
      fun h => currentLimitStep_limits h a⟩,
    currentLimitRestore_raises,
    fun v hr => ⟨margcmdStart_go hr, margcmdStart_noIsland hr, margcmdStart_noGo hr⟩,
    fun h => ⟨replanTimer_due, replanTimer_early⟩,
    fun rs i rest h => ?_,
    fun x => ⟨marginLowerApply_empty, marginLowerApply_resident⟩,
    holdover_enters, holdover_notDue, fun n => ⟨_, rfl, rfl, rfl⟩,
    fun p dm sec ns ann => ⟨fun h => ptpMessage_elsewhere h sec _, fun h ha => by subst ha; exact ptpMessage_holdover h p dm sec ns,
      fun hu hp hd h => ptpMessage_moves hu hp hd h sec ns⟩⟩
  obtain ⟨t, he, rest, mon, hours, points⟩ := replanIsland_first h rs
  exact ⟨t, he, rest, mon, hours, fun op hop => ⟨(points op hop).raised, (points op hop).lowered, (points op hop).beyond⟩⟩

end Sys2Proof.Proofs
end

section
/-! SUPPORT. Reads and writes at homes of a sound memory (R155, R214, R216). -/

namespace Sys2Proof.Machine

/-! ## Bytes of numbers and of memory -/

theorem memGetL_eq_map (m : List Host.Cell) (a n : Nat) : memGetL m a n = (List.range n).map (fun i => memGet m (a + i)) := by
  induction n generalizing a with
  | zero => rfl
  | succ n ih =>
    rw [memGetL, ih, List.range_succ_eq_map, List.map_cons, List.map_map]
    simp only [Nat.add_zero, List.cons.injEq, true_and]
    exact List.map_congr_left (fun i _ => by simp only [Function.comp]; congr 1; omega)

/-- Bytes taken out of the number of a longer list. -/
theorem bytesLE_ofBytesLE (l : List Byte) (n : Nat) (h : n ≤ l.length) : bytesLE n (ofBytesLE l) = l.take n := by
  induction n generalizing l with
  | zero => rfl
  | succ n ih =>
    cases l with
    | nil => simp at h
    | cons b r =>
      have hb : b.toNat < 256 := b.isLt
      have hq : (b.toNat + 256 * ofBytesLE r) / 256 = ofBytesLE r := by omega
      have hm : BitVec.ofNat 8 (b.toNat + 256 * ofBytesLE r) = b := by
        apply BitVec.eq_of_toNat_eq
        rw [BitVec.toNat_ofNat]
        omega
      rw [ofBytesLE, bytesLE, hq, hm, ih r (by simpa using h), List.take_succ_cons]

theorem ofBytesLE_drop (l : List Byte) (k : Nat) : ofBytesLE l / 2 ^ (8 * k) = ofBytesLE (l.drop k) := by
  induction k generalizing l with
  | zero => simp
  | succ k ih =>
    cases l with
    | nil => simp [ofBytesLE]
    | cons b r =>
      have hb : b.toNat < 256 := b.isLt
      have hq : (b.toNat + 256 * ofBytesLE r) / 256 = ofBytesLE r := by omega
      rw [ofBytesLE, show 2 ^ (8 * (k + 1)) = 256 * 2 ^ (8 * k) by rw [Nat.mul_add, Nat.pow_add]; omega,
        ← Nat.div_div_eq_div_mul, hq, ih, List.drop_succ_cons]

theorem ofBytesLE_lt (l : List Byte) : ofBytesLE l < 2 ^ (8 * l.length) := by
  induction l with
  | nil => simp [ofBytesLE]
  | cons b r ih =>
    have hb : b.toNat < 256 := b.isLt
    rw [ofBytesLE, List.length_cons, show 2 ^ (8 * (r.length + 1)) = 256 * 2 ^ (8 * r.length) by rw [Nat.mul_add, Nat.pow_add]; omega]
    omega

theorem toNat_ofNat_of_lt {w x : Nat} (h : x < 2 ^ w) : (BitVec.ofNat w x).toNat = x := by
  rw [BitVec.toNat_ofNat, Nat.mod_eq_of_lt h]

/-- Bytes of a line's data are bytes of storage. -/
theorem lineBytes_lineData (s : State) (ln off n : Nat) (h : off + n ≤ 128) :
    lineBytes (s.lineData ln) off n = (List.range n).map (fun j => s.byteAt (ln * 128 + off + j)) := by
  have hl : (memGetL s.mm.bytes (ln * 128) 128).length = 128 := length_memGetL ..
  have whole : (s.lineData ln).toNat = ofBytesLE (memGetL s.mm.bytes (ln * 128) 128) := by
    exact toNat_ofNat_of_lt (lt_of_lt_of_eq (ofBytesLE_lt _) (congrArg (fun k => 2 ^ k) (by omega)))
  unfold lineBytes
  rw [whole, ofBytesLE_drop, bytesLE_ofBytesLE _ _ (by rw [List.length_drop, hl]; omega), memGetL_eq_map]
  apply List.ext_getElem
  · simp only [List.length_take, List.length_drop, List.length_map, List.length_range]; omega
  · intro j h1 h2
    simp only [List.getElem_take, List.getElem_drop, List.getElem_map, List.getElem_range, State.byteAt]
    rw [Nat.add_assoc]

/-! ## Line records -/

theorem mem_mput {α : Type} {m : Map α} {n : Nat} {a : α} {e : Nat × α} (h : e ∈ mput m n a) : e ∈ m ∨ e = (n, a) := by
  induction m with
  | nil => exact .inr (by simpa [mput] using h)
  | cons f r ih =>
    simp only [mput] at h
    split at h
    · exact (List.mem_cons.mp h).symm
    · split at h
      · rcases List.mem_cons.mp h with h | h
        · exact .inr h
        · exact .inl (List.mem_cons_of_mem _ h)
      · rcases List.mem_cons.mp h with h | h
        · exact .inl (h ▸ List.mem_cons_self)
        · exact (ih h).imp_left (List.mem_cons_of_mem _)

theorem mget?_mem {α : Type} {m : Map α} {n : Nat} {a : α} (h : mget? m n = some a) : (n, a) ∈ m := by
  induction m with
  | nil => cases h
  | cons f r ih =>
    simp only [mget?] at h
    split at h
    · next e => cases h; subst e; exact List.mem_cons_self
    · exact List.mem_cons_of_mem _ (ih h)

/-- A line record after a write of one. -/
theorem State.line_setLine (s : State) (n k : Nat) (x : Line) : (s.setLine n x).line k = if k = n then x else s.line k := by
  unfold State.line mgetD
  rw [State.setLine_mm]
  dsimp only
  by_cases hx : x = Line.fresh
  · rw [if_pos hx, mget?_mdel]
    split
    · exact hx.symm
    · rfl
  · rw [if_neg hx, mget?_mput]
    split <;> rfl

/-- A record that has no flipped bit leaves none in any (R224). -/
theorem State.setLine_noFlip {s : State} {n : Nat} {x : Line} (h : ∀ e ∈ s.mm.lines, e.2.flip = none) (hx : x.flip = none) :
    ∀ e ∈ (s.setLine n x).mm.lines, e.2.flip = none := by
  intro e he
  rw [State.setLine_mm] at he
  dsimp only at he
  split at he
  · exact h e (List.mem_filter.mp he).1
  · rcases mem_mput he with he | he
    · exact h e he
    · rw [he]; exact hx

/-! ## Moves of lines -/

/-- From s to t lines have only moved: nothing but the memory system differs, and in it no byte, no poison marker, no failure, and
no bit is flipped in what is stored or held. -/
structure State.Moves (s t : State) : Prop where
  rest  : ∃ mm, t = s.setMM mm
  bytes : t.mm.bytes = s.mm.bytes
  pois  : ∀ ln, (t.line ln).pois = (s.line ln).pois
  flips : (∀ e ∈ s.mm.lines, e.2.flip = none) → ∀ e ∈ t.mm.lines, e.2.flip = none
  sent  : s.mm.flips = [] → t.mm.flips = []
  dead  : t.mm.deadStack = s.mm.deadStack ∧ t.mm.deadCtl = s.mm.deadCtl

theorem State.Moves.refl (s : State) : s.Moves s := ⟨⟨s.mm, rfl⟩, rfl, fun _ => rfl, id, id, rfl, rfl⟩

theorem State.Moves.trans {s t u : State} (h : s.Moves t) (h' : t.Moves u) : s.Moves u := by
  obtain ⟨m, hm⟩ := h'.rest
  obtain ⟨m', hm'⟩ := h.rest
  exact ⟨⟨m, by rw [hm, hm']; rfl⟩, h'.bytes.trans h.bytes, fun ln => (h'.pois ln).trans (h.pois ln), fun e => h'.flips (h.flips e),
    fun e => h'.sent (h.sent e), h'.dead.1.trans h.dead.1, h'.dead.2.trans h.dead.2⟩

/-- Soundness depends on memory, the register that arms an injection, and the errors that lie unfound. -/
theorem State.Sound.congr {s t : State} (h : s.Sound) (hm : t.mm = s.mm) (hr : t.regs = s.regs)
    (hl : t.rel.latent = s.rel.latent) : t.Sound where
  memory := by rw [hm]; exact h.memory
  noArm := by unfold State.reg; rw [hr]; exact h.noArm
  noFlip := by rw [hm]; exact h.noFlip
  noSent := by rw [hm]; exact h.noSent
  noFlaw := by rw [hl]; exact h.noFlaw
  noDead := by rw [hm]; exact h.noDead

theorem State.Sound.moves {s t : State} (h : s.Sound) (m : s.Moves t) : t.Sound := by
  obtain ⟨mm, hm⟩ := m.rest
  exact { memory := by rw [m.bytes]; exact h.memory
          noArm := by rw [hm]; exact h.noArm
          noFlip := m.flips h.noFlip
          noSent := m.sent h.noSent
          noFlaw := by rw [hm]; exact h.noFlaw
          noDead := by rw [m.dead.1, m.dead.2]; exact h.noDead }

theorem State.Moves.byteAt {s t : State} (m : s.Moves t) (a : Nat) : t.byteAt a = s.byteAt a := by
  unfold State.byteAt; rw [m.bytes]

theorem State.Moves.lineData {s t : State} (m : s.Moves t) (ln : Nat) : t.lineData ln = s.lineData ln := by
  unfold State.lineData State.readN; rw [m.bytes]

theorem State.Moves.linePois {s t : State} (m : s.Moves t) (ln : Nat) : t.linePois ln = s.linePois ln := by
  unfold State.linePois State.deadHome
  rw [m.dead.1, m.dead.2, m.pois]

/-- A change of a line record that leaves its poison, and flips no bit. -/
theorem State.setLine_moves {s : State} {n : Nat} {x : Line} (hp : x.pois = (s.line n).pois) (hx : x.flip = none) :
    s.Moves (s.setLine n x) where
  rest := ⟨_, rfl⟩
  bytes := rfl
  pois k := by
    rw [State.line_setLine]
    split
    · next e => rw [e]; exact hp
    · rfl
  flips h := State.setLine_noFlip h hx
  sent := id
  dead := ⟨rfl, rfl⟩

theorem State.keepV_moves (s : State) (d ln : Nat) : s.Moves (s.keepV d ln) := ⟨⟨_, rfl⟩, rfl, fun _ => rfl, id, id, rfl, rfl⟩

theorem State.dropCopies_moves (s : State) (ln : Nat) : s.Moves (s.dropCopies ln) := ⟨⟨_, rfl⟩, rfl, fun _ => rfl, id, id, rfl, rfl⟩

/-- No bit is flipped in the record of any line. -/
theorem State.Sound.line_flip {s : State} (h : s.Sound) (ln : Nat) : (s.line ln).flip = none := by
  unfold State.line mgetD
  cases hm : mget? s.mm.lines ln with
  | none => rfl
  | some x => exact h.noFlip _ (mget?_mem hm)

theorem State.Sound.bumpVersion_moves {s : State} (h : s.Sound) (ln : Nat) : s.Moves (s.bumpVersion ln) := by
  unfold State.bumpVersion
  dsimp only
  split
  · exact (State.setLine_moves (x := { s.line ln with version := 0, wrap := true, wrapId := s.nextId }) rfl (h.line_flip ln)).trans
      (State.dropCopies_moves _ _)
  · exact State.setLine_moves (x := { s.line ln with version := (s.line ln).version + 1 }) rfl (h.line_flip ln)

/-- The record of a line that its die has given back (R157). -/
def Line.givenBack (x : Line) : Line :=
  { x with owner := none, dirty := false, stamp := 0, swrap := false, granted := 0, mcore := none, flip := none }

/-- The copies that go when die d gives line ln back: those of its cores (R157). -/
def MemSys.dropHeld (m : MemSys) (d ln : Nat) : MemSys :=
  { m with
    held := m.held.filter (fun k => k % 2 ^ 44 != ln)
    flips := m.flips.filter (fun e => e.1 % 2 ^ 44 != ln)
    wcopy := m.wcopy.filter (fun e => e.1 % 2 ^ 44 != ln || e.2.ro || (e.1 / 2 ^ 44) / 48 != d) }

theorem State.takeBack_unowned {s : State} {ln : Nat} (ho : (s.line ln).owner = none) : s.takeBack ln = (s, none, false) := by
  unfold State.takeBack
  dsimp only
  rw [ho]

theorem State.Sound.takeBack_owned {s : State} (h : s.Sound) {ln d : Nat} (ho : (s.line ln).owner = some d) :
    (s.takeBack ln).1 = (s.setLine ln (s.line ln).givenBack).setMM ((s.setLine ln (s.line ln).givenBack).mm.dropHeld d ln) := by
  unfold State.takeBack Line.givenBack MemSys.dropHeld
  dsimp only
  rw [ho, h.line_flip ln]

theorem State.Sound.takeBack_moves {s : State} (h : s.Sound) (ln : Nat) : s.Moves (s.takeBack ln).1 := by
  cases ho : (s.line ln).owner with
  | none => rw [State.takeBack_unowned ho]; exact .refl s
  | some d =>
    rw [h.takeBack_owned ho]
    refine (State.setLine_moves (n := ln) (x := (s.line ln).givenBack) rfl rfl).trans
      ⟨⟨_, rfl⟩, rfl, fun _ => rfl, id, fun e => ?_, rfl, rfl⟩
    simp [MemSys.dropHeld, State.setMM, show s.mm.flips = [] from e]

/-! ## Nothing lies unfound, and no injection is armed -/

theorem State.flaw_none {s : State} (h : s.rel.latent = []) (p : FlawAt) : s.flaw p = none := by simp [State.flaw, h]

theorem State.checkCopy_none {s : State} (h : s.rel.latent = []) (c ln : Nat) : s.checkCopy c ln = s := by
  unfold State.checkCopy; rw [State.flaw_none h]

theorem State.checkSlice_none {s : State} (h : s.rel.latent = []) (d ln : Nat) : s.checkSlice d ln = s := by
  unfold State.checkSlice; rw [State.flaw_none h]

theorem State.findFlaw_none {s : State} (h : s.rel.latent = []) (p : FlawAt) (cls unit addr space : Nat)
    (o : Option (Nat × Nat)) : s.findFlaw p cls unit addr space o = (none, s) := by
  unfold State.findFlaw; rw [State.flaw_none h]

theorem State.checkArray_none {s : State} (h : s.rel.latent = []) (ln : Nat) : s.checkArray ln = s := by
  unfold State.checkArray; rw [State.findFlaw_none h]

theorem State.sendLine_none {s : State} (h : s.rel.latent = []) (d ln : Nat) : s.sendLine d ln = s := by
  unfold State.sendLine; rw [State.findFlaw_none h]

theorem State.checkEntry_none {s : State} (h : s.rel.latent = []) (ln : Nat) : s.checkEntry ln = s := by
  unfold State.checkEntry State.loseEntry; rw [State.flaw_none h]

theorem State.checkOwn_none {s : State} (h : s.rel.latent = []) (d ln : Nat) : s.checkOwn d ln = s := by
  unfold State.checkOwn
  cases hm : (s.line ln).mcore with
  | none => simp [hm, State.checkSlice_none h]
  | some c => simp [hm, State.checkCopy_none h]

theorem State.inject_unarmed {s : State} (h : b64 (s.reg 0x27) 0 0 = 0) (ln t d : Nat) : s.inject ln t d = (none, none, s) := by
  unfold State.inject
  rw [if_neg (by simp [h])]

/-! ## Recalls and reads at a home -/

theorem State.Sound.recall_moves {s : State} (h : s.Sound) (ln : Nat) : s.Moves (s.recall ln).1 := by
  unfold State.recall
  cases (s.line ln).owner with
  | none => exact .refl s
  | some d =>
    dsimp only
    rw [State.checkOwn_none h.noFlaw, State.inject_unarmed h.noArm]
    have back := h.takeBack_moves ln
    refine back.trans (.trans ?_ (State.keepV_moves _ _ _))
    dsimp only
    split
    · rw [State.sendLine_none (h.moves back).noFlaw]; exact .refl _
    · exact .refl _

theorem State.Sound.recallStep_moves {s : State} (h : s.Sound) (ln : Nat) : s.Moves (s.recallStep ln).1 := by
  have called := h.recall_moves ln
  unfold State.recallStep
  dsimp only
  split
  · refine (called.trans ((h.moves called).bumpVersion_moves ln)).trans ?_
    dsimp only
    split
    · split
      · exact State.keepV_moves _ _ _
      · exact .refl _
    · exact .refl _
  · exact called

/-- A read at the home gives the line's data and poison (R155). -/
theorem State.Sound.homeReadLine_eq {s : State} (h : s.Sound) (ln : Nat) :
    s.homeReadLine ln = (s.lineData ln, s.linePois ln, (s.recallStep ln).1) := by
  have m := h.recallStep_moves ln
  have h' := h.moves m
  unfold State.homeReadLine
  dsimp only
  rw [State.checkEntry_none h.noFlaw]
  cases (s.line ln).owner.isSome
  · simp only [Bool.false_eq_true, if_false, State.checkArray_none h'.noFlaw, State.inject_unarmed h'.noArm]
    rw [← m.lineData, ← m.linePois]; rfl
  · simp only [if_true]
    rw [← m.lineData, ← m.linePois]; rfl

/-! ## Accesses over several lines -/

/-- How many of the n bytes at pa lie in the first k lines of the access. -/
def bytesIn (pa n k : Nat) : Nat := min (pa + n) ((pa / 128 + k) * 128) - pa

theorem bytesIn_zero (pa n : Nat) : bytesIn pa n 0 = 0 := by unfold bytesIn; omega

theorem bytesIn_le (pa n k : Nat) : bytesIn pa n k ≤ n := by unfold bytesIn; omega

theorem bytesIn_all (pa n : Nat) : bytesIn pa n ((pa + n + 127) / 128 - pa / 128) = n := by unfold bytesIn; omega

/-- The bytes in the next line of an access stand behind those in the lines before it. -/
theorem bytesIn_succ {pa n k : Nat} (hk : k < (pa + n + 127) / 128 - pa / 128) :
    max pa ((pa / 128 + k) * 128) = pa + bytesIn pa n k ∧
      bytesIn pa n (k + 1) = bytesIn pa n k + (min (pa + n) ((pa / 128 + k + 1) * 128) - max pa ((pa / 128 + k) * 128)) := by
  unfold bytesIn
  omega

/-- A fold over the lines of an access keeps what holds at the start and what each line's step takes from k lines to k + 1. -/
theorem foldl_linesOf {α : Type} {f : α → Nat → α} {pa n : Nat} {x : α} (P : Nat → α → Prop) (start : P 0 x)
    (step : ∀ k y, k < (pa + n + 127) / 128 - pa / 128 → P k y → P (k + 1) (f y (pa / 128 + k))) :
    P ((pa + n + 127) / 128 - pa / 128) ((linesOf pa n).foldl f x) := by
  have upTo : ∀ k ≤ (pa + n + 127) / 128 - pa / 128, P k (((List.range k).map (fun i => pa / 128 + i)).foldl f x) := by
    intro k
    induction k with
    | zero => exact fun _ => start
    | succ k ih =>
      intro hk
      rw [List.range_succ, List.map_append, List.foldl_append]
      exact step k _ hk (ih (by omega))
  exact upTo _ (Nat.le_refl _)

/-- What a read from outside answers, with the bytes of line ln (R76, R218). -/
def serveLine (pa n : Nat) (acc : List Byte × Bool × State) (ln : Nat) : List Byte × Bool × State :=
  let (bs, bad, s) := acc
  let lo := max pa (ln * 128)
  let k := min (pa + n) ((ln + 1) * 128) - lo
  let (d, p, s) := s.homeReadLine ln
  if p.isSome then
    let (x, s) := s.openBytes k
    (bs ++ x, true, s)
  else (bs ++ lineBytes d (lo - ln * 128) k, bad, s)

theorem State.homeServe_foldl (s : State) (pa n : Nat) :
    s.homeServe pa n = (linesOf pa n).foldl (serveLine pa n) ([], false, s) := rfl

/-- A clean line adds its bytes of storage to the answer. -/
theorem State.Sound.serveLine_clean {s : State} (h : s.Sound) {pa n k : Nat} (hk : k < (pa + n + 127) / 128 - pa / 128)
    (clean : s.linePois (pa / 128 + k) = none) (bad : Bool) :
    serveLine pa n ((List.range (bytesIn pa n k)).map (fun j => s.byteAt (pa + j)), bad, s) (pa / 128 + k) =
      ((List.range (bytesIn pa n (k + 1))).map (fun j => s.byteAt (pa + j)), bad, (s.recallStep (pa / 128 + k)).1) := by
  obtain ⟨start, count⟩ := bytesIn_succ hk
  unfold serveLine
  dsimp only
  rw [h.homeReadLine_eq, clean]
  simp only [Option.isSome_none, Bool.false_eq_true, if_false]
  rw [lineBytes_lineData _ _ _ _ (by omega), count, List.range_add, List.map_append, List.map_map]
  congr 2
  refine List.map_congr_left (fun j _ => ?_)
  rw [start]
  simp only [Function.comp]
  congr 1
  omega

/-- A read from outside over clean lines answers the bytes of storage, and only moves lines (R76, R155, R218). -/
theorem State.Sound.homeServe_eq {s : State} (h : s.Sound) (clean : ∀ ln, s.linePois ln = none) (pa n : Nat) :
    ∃ t, s.Moves t ∧ s.homeServe pa n = ((List.range n).map (fun j => s.byteAt (pa + j)), false, t) := by
  have served := foldl_linesOf (f := serveLine pa n) (x := ([], false, s))
    (P := fun k acc => ∃ t, s.Moves t ∧ acc = ((List.range (bytesIn pa n k)).map (fun j => t.byteAt (pa + j)), false, t))
    ⟨s, .refl s, by rw [bytesIn_zero]; rfl⟩
    (by
      rintro k _ hk ⟨t, moved, rfl⟩
      have ht := h.moves moved
      have next := ht.recallStep_moves (pa / 128 + k)
      refine ⟨_, moved.trans next, ?_⟩
      rw [ht.serveLine_clean hk (by rw [moved.linePois, clean])]
      simp only [next.byteAt])
  rw [bytesIn_all, ← State.homeServe_foldl] at served
  obtain ⟨t, moved, answer⟩ := served
  exact ⟨t, moved, by rw [answer]; simp only [moved.byteAt]⟩

/-! ## Writes at homes -/

/-- From s to t the n bytes at a became those of v, with poison p: the memory system is sound, and nothing but it and
reservations differs. -/
structure State.Wrote (s t : State) (a n : Nat) (v : Nat → Byte) (p : Option PTag) : Prop where
  rest   : ∃ mm gs, t = { s with mm := mm, groups := gs }
  sound  : t.Sound
  bytes  : ∀ b, t.byteAt b = if a ≤ b ∧ b < a + n then v b else s.byteAt b
  kept   : p.isSome → ∀ ln, (s.linePois ln).isSome → (t.linePois ln).isSome
  marked : p.isSome → ∀ b, a ≤ b → b < a + n → (t.linePois (b / 128)).isSome

theorem State.Wrote.nothing {s : State} (h : s.Sound) (a : Nat) (v : Nat → Byte) (p : Option PTag) : s.Wrote s a 0 v p :=
  ⟨⟨s.mm, s.groups, rfl⟩, h, fun b => by rw [if_neg (by omega)], fun _ _ => id, fun _ b h1 h2 => by omega⟩

/-- Two writes, the second of the bytes behind those of the first. -/
theorem State.Wrote.append {s t u : State} {a n k : Nat} {v : Nat → Byte} {p : Option PTag} (h : s.Wrote t a n v p)
    (h' : t.Wrote u (a + n) k v p) : s.Wrote u a (n + k) v p where
  rest := by
    obtain ⟨mm, gs, hu⟩ := h'.rest
    obtain ⟨_, _, ht⟩ := h.rest
    exact ⟨mm, gs, by rw [hu, ht]⟩
  sound := h'.sound
  bytes b := by
    rw [h'.bytes, h.bytes]
    split
    · rw [if_pos (by omega)]
    · split
      · rw [if_pos (by omega)]
      · rw [if_neg (by omega)]
  kept hp ln hl := h'.kept hp ln (h.kept hp ln hl)
  marked hp b h1 h2 := by
    by_cases hb : b < a + n
    · exact h'.kept hp _ (h.marked hp b h1 hb)
    · exact h'.marked hp b (by omega) (by omega)

theorem State.Wrote.ofMoves {s t u : State} {a n : Nat} {v : Nat → Byte} {p : Option PTag} (m : s.Moves t)
    (h : t.Wrote u a n v p) : s.Wrote u a n v p where
  rest := by
    obtain ⟨mm, gs, hu⟩ := h.rest
    obtain ⟨_, ht⟩ := m.rest
    exact ⟨mm, gs, by rw [hu, ht]; rfl⟩
  sound := h.sound
  bytes b := by rw [h.bytes, m.byteAt]
  kept hp ln hl := h.kept hp ln (by rw [m.linePois]; exact hl)
  marked := h.marked

theorem State.Wrote.thenMoves {s t u : State} {a n : Nat} {v : Nat → Byte} {p : Option PTag} (h : s.Wrote t a n v p)
    (m : t.Moves u) : s.Wrote u a n v p where
  rest := by
    obtain ⟨mm, hu⟩ := m.rest
    obtain ⟨_, gs, ht⟩ := h.rest
    exact ⟨mm, gs, by rw [hu, ht]; rfl⟩
  sound := h.sound.moves m
  bytes b := by rw [m.byteAt, h.bytes]
  kept hp ln hl := by rw [m.linePois]; exact h.kept hp ln hl
  marked hp b h1 h2 := by rw [m.linePois]; exact h.marked hp b h1 h2

theorem State.Sound.deadHome_none {s : State} (h : s.Sound) (pa : Nat) : s.deadHome pa = none := by
  unfold State.deadHome
  rw [h.noDead.1, h.noDead.2]
  split
  · rfl
  · split <;> rfl

theorem State.Sound.recalled_moves {s : State} (h : s.Sound) (ln : Nat) : s.Moves (s.recalled ln) := by
  unfold State.recalled
  split
  · exact (h.takeBack_moves ln).trans (State.keepV_moves _ _ _)
  · exact h.takeBack_moves ln

theorem tagMin_isSome (p q : Option PTag) : (tagMin p q).isSome = (p.isSome || q.isSome) := by
  cases p <;> cases q <;> rfl

/-- The record of a line into which bytes with poison p are merged, all its bytes or only some. -/
def Line.merged (x : Line) (whole : Bool) (p : Option PTag) : Line :=
  { x with pois := if whole && p.isNone then none else tagMin p x.pois, writer := 0 }

theorem State.Sound.merged_eq {s : State} (h : s.Sound) (ln pa : Nat) (bs : List Byte) (p : Option PTag) :
    s.merged ln pa bs p = (s.putBytes pa bs).setLine ln ((s.line ln).merged (bs.length = 128) p) := by
  have unfound : ∀ u : State, u.rel = s.rel → (if bs.length = 128 && p.isNone then u.dropFlaws (· == .array ln) else u) = u := by
    intro u hu
    rw [State.dropFlaws_none (by rw [hu]; exact h.noFlaw), ite_self]
  exact unfound ((s.putBytes pa bs).setLine ln _) rfl

theorem State.Sound.merged_sound {s : State} (h : s.Sound) (ln pa : Nat) (bs : List Byte) (p : Option PTag) :
    (s.merged ln pa bs p).Sound := by
  rw [h.merged_eq]
  exact {
    memory := memPutL_wf _ _ _ h.memory
    noArm := h.noArm
    noFlip := State.setLine_noFlip (s := s.putBytes pa bs) h.noFlip (h.line_flip _)
    noSent := h.noSent
    noFlaw := h.noFlaw
    noDead := h.noDead }

/-- In a sound memory the poison of a line is its marker. -/
theorem State.Sound.linePois_eq {s : State} (h : s.Sound) (ln : Nat) : s.linePois ln = (s.line ln).pois := by
  unfold State.linePois; rw [h.deadHome_none]

/-- Bytes with poison poison their line, and leave the poison of any other (R214). -/
theorem State.Sound.linePois_merged {s : State} (h : s.Sound) (ln pa : Nat) (bs : List Byte) {p : Option PTag} (hp : p.isSome)
    (k : Nat) : ((s.merged ln pa bs p).linePois k).isSome = (decide (k = ln) || (s.linePois k).isSome) := by
  have hn : p.isNone = false := by rw [Option.isNone_eq_false_iff]; exact hp
  rw [(h.merged_sound ..).linePois_eq, h.linePois_eq, h.merged_eq, State.line_setLine]
  by_cases e : k = ln
  · rw [if_pos e, decide_eq_true e, Line.merged, hn, Bool.and_false, if_neg Bool.false_ne_true, tagMin_isSome, hp]; rfl
  · rw [if_neg e, decide_eq_false e]; rfl

/-- The merge of bytes within a line (R155, R214, R216). -/
theorem State.Sound.merged_wrote {s : State} (h : s.Sound) {pa : Nat} {bs : List Byte} (fits : pa % 128 + bs.length ≤ 128)
    (p : Option PTag) {v : Nat → Byte} (hv : ∀ j < bs.length, v (pa + j) = bs.getD j 0#8) :
    s.Wrote (s.merged (pa / 128) pa bs p) pa bs.length v p where
  rest := ⟨_, s.groups, by rw [h.merged_eq]; rfl⟩
  sound := h.merged_sound ..
  bytes b := by
    rw [h.merged_eq]
    refine (memGet_memPutL bs s.mm.bytes pa b h.memory).trans ?_
    split
    · next hb => rw [← hv (b - pa) (by omega)]; congr 1; omega
    · rfl
  kept hp ln hl := by rw [h.linePois_merged _ _ _ hp, hl, Bool.or_true]
  marked hp b h1 h2 := by rw [h.linePois_merged _ _ _ hp, decide_eq_true (by omega), Bool.true_or]

theorem State.loseResv_groups (s : State) (ln : Nat) : ∃ gs, s.loseResv ln = { s with groups := gs } := by
  unfold State.loseResv
  split
  · exact ⟨_, rfl⟩
  · exact ⟨s.groups, rfl⟩

/-- Losing reservations on a line changes nothing of what is written. -/
theorem State.Wrote.thenLoseResv {s t : State} {a n : Nat} {v : Nat → Byte} {p : Option PTag} (h : s.Wrote t a n v p) (ln : Nat) :
    s.Wrote (t.loseResv ln) a n v p := by
  obtain ⟨gs, hg⟩ := t.loseResv_groups ln
  obtain ⟨mm, _, ht⟩ := h.rest
  rw [hg]
  exact ⟨⟨mm, gs, by rw [ht]⟩, h.sound.congr rfl rfl rfl, h.bytes, h.kept, h.marked⟩

/-- A write at a home of bytes within a line (R155). -/
theorem State.Sound.homeWriteLine_wrote {s : State} (h : s.Sound) {pa : Nat} {bs : List Byte}
    (fits : pa % 128 + bs.length ≤ 128) (p : Option PTag) {v : Nat → Byte} (hv : ∀ j < bs.length, v (pa + j) = bs.getD j 0#8) :
    s.Wrote (s.homeWriteLine pa bs p) pa bs.length v p := by
  have called := h.recalled_moves (pa / 128)
  have merged := (h.moves called).merged_wrote fits p hv
  rw [State.homeWriteLine_eq, h.deadHome_none, Option.isSome_none, if_neg Bool.false_ne_true]
  exact .ofMoves called ((merged.thenMoves (merged.sound.bumpVersion_moves _)).thenLoseResv _)

/-- The bytes of an access that lie in its line k. -/
theorem inLine_spec (pa : Nat) (bs : List Byte) {k : Nat} (hk : k < (pa + bs.length + 127) / 128 - pa / 128) :
    (inLine pa bs (pa / 128 + k)).length = bytesIn pa bs.length (k + 1) - bytesIn pa bs.length k ∧
      ∀ j < (inLine pa bs (pa / 128 + k)).length,
        (inLine pa bs (pa / 128 + k)).getD j 0#8 = bs.getD (bytesIn pa bs.length k + j) 0#8 := by
  have length : (inLine pa bs (pa / 128 + k)).length = bytesIn pa bs.length (k + 1) - bytesIn pa bs.length k := by
    unfold inLine bytesIn
    dsimp only
    rw [List.length_take, List.length_drop]
    split <;> omega
  refine ⟨length, fun j hj => ?_⟩
  have skip : (pa / 128 + k) * 128 - pa = bytesIn pa bs.length k := by unfold bytesIn; omega
  have inside : bytesIn pa bs.length k + j < bs.length := by
    have := bytesIn_le pa bs.length (k + 1)
    omega
  unfold inLine at hj ⊢
  dsimp only at hj ⊢
  rw [List.getD_eq_getElem _ _ hj, List.getElem_take, List.getElem_drop, List.getD_eq_getElem _ _ inside]
  simp only [skip]

/-- Line ln's part of a write from outside: the recall, then the write at the home (R155, R224). -/
def State.outsideLine (s : State) (pa : Nat) (bs : List Byte) (p : Option PTag) (ln : Nat) : State :=
  (s.recall ln).1.homeWriteLine (max pa (ln * 128)) (inLine pa bs ln) p

theorem State.outsideWrite_foldl (s : State) (pa : Nat) (bs : List Byte) (p : Option PTag) :
    s.outsideWrite pa bs p = (linesOf pa bs.length).foldl (fun s ln => s.outsideLine pa bs p ln) s := rfl

theorem State.Sound.outsideLine_wrote {s : State} (h : s.Sound) {pa k : Nat} {bs : List Byte} (p : Option PTag)
    (hk : k < (pa + bs.length + 127) / 128 - pa / 128) :
    s.Wrote (s.outsideLine pa bs p (pa / 128 + k)) (pa + bytesIn pa bs.length k)
      (bytesIn pa bs.length (k + 1) - bytesIn pa bs.length k) (fun b => bs.getD (b - pa) 0#8) p := by
  obtain ⟨start, count⟩ := bytesIn_succ hk
  obtain ⟨length, bytes⟩ := inLine_spec pa bs hk
  have called := h.recall_moves (pa / 128 + k)
  have fits : (pa + bytesIn pa bs.length k) % 128 + (inLine pa bs (pa / 128 + k)).length ≤ 128 := by omega
  have line := (h.moves called).homeWriteLine_wrote fits p (v := fun b => bs.getD (b - pa) 0#8)
    (fun j hj => by rw [bytes j hj]; congr 1; omega)
  rw [← length, State.outsideLine, start]
  exact .ofMoves called line

/-- A write from outside, of bytes over any lines (R155). -/
theorem State.Sound.outsideWrite_wrote {s : State} (h : s.Sound) (pa : Nat) (bs : List Byte) (p : Option PTag) :
    s.Wrote (s.outsideWrite pa bs p) pa bs.length (fun b => bs.getD (b - pa) 0#8) p := by
  have written := foldl_linesOf (pa := pa) (n := bs.length) (x := s) (f := fun s ln => s.outsideLine pa bs p ln)
    (P := fun k t => s.Wrote t pa (bytesIn pa bs.length k) (fun b => bs.getD (b - pa) 0#8) p)
    (by rw [bytesIn_zero]; exact .nothing h ..)
    (by
      intro k t hk wrote
      obtain ⟨_, count⟩ := bytesIn_succ hk
      have both := wrote.append (wrote.sound.outsideLine_wrote p hk)
      rwa [Nat.add_sub_of_le (by omega)] at both)
  rwa [bytesIn_all, ← State.outsideWrite_foldl] at written

end Sys2Proof.Machine
end

section
/-! SUPPORT. Host accesses to memory (R23, R24, R95, R155, R218). -/

namespace Sys2Proof.Machine

/-! ## Error records before ERRBASE is enabled -/

/-- t is s but for records of errors and Peal's waiting records, and no error is found or hidden. -/
def State.Logged (s t : State) : Prop :=
  ∃ rel w, t = { s with rel := rel, peal := { s.peal with wait := w } } ∧ rel.latent = s.rel.latent

theorem State.Logged.trans {s t u : State} (h : s.Logged t) (h' : t.Logged u) : s.Logged u := by
  obtain ⟨_, _, rfl, hl⟩ := h
  obtain ⟨rel, w, rfl, hl'⟩ := h'
  exact ⟨rel, w, rfl, hl'.trans hl⟩

theorem State.Logged.fld {s t : State} (h : s.Logged t) (n hi lo : Nat) : t.fld n hi lo = s.fld n hi lo := by
  obtain ⟨_, _, rfl, _⟩ := h; rfl

theorem State.Logged.mm {s t : State} (h : s.Logged t) : t.mm = s.mm := by obtain ⟨_, _, rfl, _⟩ := h; rfl

theorem State.Logged.links {s t : State} (h : s.Logged t) : t.links = s.links := by obtain ⟨_, _, rfl, _⟩ := h; rfl

theorem State.Logged.sound {s t : State} (h : s.Logged t) (hs : s.Sound) : t.Sound := by
  obtain ⟨_, _, rfl, hl⟩ := h
  exact hs.congr rfl rfl hl

theorem State.Offered.logged {s t : State} (h : s.Offered t) : s.Logged t := by
  obtain ⟨w, rfl⟩ := h
  exact ⟨s.rel, w, rfl, rfl⟩

/-- Before ERRBASE is enabled a record is held, and not stored (R219). -/
theorem State.recStore_logged {s : State} (h : s.fld 0x23 0 0 = 0) (i : Nat) : s.Logged (s.recStore i) := by
  unfold State.recStore
  rw [if_neg (by omega)]
  split
  · exact ⟨s.rel, s.peal.wait, rfl, rfl⟩
  · exact ⟨_, s.peal.wait, rfl, rfl⟩

theorem State.errMessage_disabled {s : State} (h : s.fld 0x23 0 0 = 0) (sev : Nat) : s.errMessage sev = s := by
  unfold State.errMessage
  rw [h]
  rfl

/-- Before ERRBASE is enabled an error changes nothing but the records (R219, R222). -/
theorem State.record_logged {s : State} (h : s.fld 0x23 0 0 = 0) (cls kind sev : Nat) (inj : Bool) (addr unit space synd : Nat)
    (o : Option (Nat × Nat)) : s.Logged (s.record cls kind sev inj addr unit space synd o).2 := by
  have counted : s.Logged (s.countErr cls) := ⟨_, s.peal.wait, rfl, rfl⟩
  have put : ∀ (u : State) i r, s.Logged u → s.Logged ((u.setRec i r).recStore i) := by
    intro u i r hu
    have set : s.Logged (u.setRec i r) := hu.trans ⟨_, u.peal.wait, rfl, rfl⟩
    exact set.trans (State.recStore_logged (by rw [set.fld, h]) i)
  have fresh : ∀ (u : State) k, s.Logged u → s.Logged (State.record.go cls kind sev inj addr unit space synd o u k).2 := by
    intro u k hu
    unfold State.record.go
    dsimp only
    refine .trans ?_ (State.emitErr_offered ..).logged
    have stored := fun r => put u (cls * 512 + k) r hu
    rw [State.errMessage_disabled (by rw [(stored _).fld, h])]
    exact stored _
  unfold State.record
  dsimp only
  split
  · split
    · exact (put _ _ _ counted).trans (State.emitErr_offered ..).logged
    · exact fresh _ _ counted
  · exact fresh _ _ counted

/-! ## The host port and its window -/

theorem State.aerSet_same (s : State) {b : Nat} (h : b < 32) : (s.aerSet b).links.pci.aer.getLsbD b = true := by
  unfold State.aerSet State.setPci
  rw [BitVec.getLsbD_or, BitVec.getLsbD_ofNat, Nat.testBit_two_pow_self, decide_eq_true h]
  simp

/-- A packet whose ECRC does not fit is reported and dropped (R23). -/
theorem State.taken_refused {s : State} (hp : s.power.st ≠ .off) (hc : s.links.pci.ecrcChk = true) (f : State → State) :
    s.taken false f = s.aerSet 19 := by
  unfold State.taken
  simp [hc, hp]

theorem State.taken_accepted {s : State} {e : Bool} (h : e = true ∨ s.links.pci.ecrcChk = false) (f : State → State) :
    s.taken e f = f s := by
  unfold State.taken
  rcases h with h | h <;> simp [h]

/-- What lies in the window, while the function answers (R23). -/
theorem State.inBar2_iff (s : State) (pa n : Nat) :
    s.inBar2 pa n = true ↔ (0 < n ∧ pa + n ≤ 2 ^ s.links.pci.bar2 ∧ pa + n ≤ 2 ^ 39) ∧
      s.power.st ≠ .off ∧ s.links.pci.d3hot = false := by
  unfold State.inBar2 inStack
  simp only [Bool.and_eq_true, bne_iff_ne, ne_eq, Bool.not_eq_true', decide_eq_true_eq]
  constructor
  · rintro ⟨⟨⟨⟨hp, hd⟩, hn⟩, hs⟩, hb⟩
    exact ⟨⟨hn, hb, by omega⟩, hp, hd⟩
  · rintro ⟨⟨hn, hb, hs⟩, hp, hd⟩
    exact ⟨⟨⟨⟨hp, hd⟩, hn⟩, by omega⟩, hb⟩

/-! ## Reads -/

theorem State.hostRead_outside {s : State} {pa n : Nat} (h : s.inBar2 pa n = false) : s.hostRead pa n = s := by
  unfold State.hostRead; simp [h]

theorem State.hostRead_long {s : State} {pa n : Nat} (h : s.inBar2 pa n = true) (hn : 4096 < n) :
    s.hostRead pa n = s.aerSet 18 := by
  unfold State.hostRead; simp [h, hn]

theorem State.toHost_direct {s : State} (h : s.links.sl15 = true) (p : Tlp) : s.toHost p = s.send (.host p) := by
  unfold State.toHost; rw [if_pos h]

/-- The overflow areas read as zero (R95). -/
theorem State.hostRead_overflow {s : State} {pa n : Nat} (h : s.inBar2 pa n = true) (hn : n ≤ 4096) (hpa : 0x7FFE000000 ≤ pa)
    (hsl : s.links.sl15 = true) : s.hostRead pa n = s.send (.host (.data (List.replicate n 0#8) false)) := by
  obtain ⟨⟨_, _, _⟩, _⟩ := (s.inBar2_iff pa n).mp h
  have area : inOvf pa = true := by
    unfold inOvf; rw [decide_eq_true hpa, decide_eq_true (by omega)]; rfl
  unfold State.hostRead
  rw [h, Bool.not_true, if_neg Bool.false_ne_true, if_neg (by omega), if_pos area, State.toHost_direct hsl]

/-- A read below the overflow areas answers what the home serves (R155, R218). -/
theorem State.hostRead_dram {s : State} {pa n : Nat} (h : s.inBar2 pa n = true) (hn : n ≤ 4096) (hpa : pa + n ≤ 0x7FFE000000) :
    s.hostRead pa n = (s.homeServe pa n).2.2.toHost (.data (s.homeServe pa n).1 (s.homeServe pa n).2.1) := by
  obtain ⟨⟨_, _, _⟩, _⟩ := (s.inBar2_iff pa n).mp h
  have below : ∀ a < 0x7FFE000000, inOvf a = false := by
    intro a ha; unfold inOvf; rw [decide_eq_false (by omega)]; rfl
  unfold State.hostRead
  rw [h, Bool.not_true, if_neg Bool.false_ne_true, if_neg (by omega), below pa (by omega), below (pa + n - 1) (by omega)]
  simp only [Bool.false_eq_true, if_false, Nat.sub_self, List.replicate_zero, List.append_nil]

/-- A read of clean memory gives its bytes. -/
theorem State.Sound.hostRead_bytes {s : State} (hs : s.Sound) (clean : ∀ ln, s.linePois ln = none) {pa n : Nat}
    (h : s.inBar2 pa n = true) (hn : n ≤ 4096) (hpa : pa + n ≤ 0x7FFE000000) (hsl : s.links.sl15 = true) :
    ∃ t, s.hostRead pa n = t ∧ (∀ b, t.byteAt b = s.byteAt b) ∧
      t.links.out = s.links.out ++ [.host (.data ((List.range n).map (fun j => s.byteAt (pa + j))) false)] := by
  obtain ⟨t, moved, served⟩ := hs.homeServe_eq clean pa n
  obtain ⟨mm, hm⟩ := moved.rest
  have links : t.links = s.links := by rw [hm]; rfl
  refine ⟨_, State.hostRead_dram h hn hpa, ?_⟩
  rw [served, State.toHost_direct (by rw [links]; exact hsl)]
  exact ⟨moved.byteAt, by unfold State.send; rw [links]⟩

/-! ## Writes -/

theorem State.hostWrite_outside {s : State} {pa : Nat} {data : List Byte} (h : s.inBar2 pa data.length = false) (ep : Bool) :
    s.hostWrite pa data ep = s := by
  unfold State.hostWrite; simp [h]

theorem State.hostWrite_long {s : State} {pa : Nat} {data : List Byte} (h : s.inBar2 pa data.length = true)
    (hn : s.links.pci.payload < data.length) (ep : Bool) : s.hostWrite pa data ep = s.aerSet 18 := by
  unfold State.hostWrite; simp [h, hn]

/-- Writes to the overflow areas are dropped (R95). -/
theorem State.hostWrite_overflow {s : State} {pa : Nat} {data : List Byte} (h : s.inBar2 pa data.length = true)
    (hn : data.length ≤ s.links.pci.payload) (hpa : 0x7FFE000000 ≤ pa) (ep : Bool) :
    s.hostWrite pa data ep = if ep then s.aerSet 12 else s := by
  unfold State.hostWrite
  dsimp only
  rw [h, decide_eq_false (by omega : ¬ s.links.pci.payload < data.length), Nat.sub_eq_zero_of_le hpa]
  simp

/-- The record and the poison tag of a write with EP at pa (R208, R218). -/
def State.epRecorded (s : State) (pa : Nat) : Nat × State :=
  s.someLane.2.record 5 0x02 1 false (pa / 128 * 128) (239 + s.someLane.1 * 256) 0 0 none

theorem State.epRecorded_logged {s : State} (hb : s.fld 0x23 0 0 = 0) (pa : Nat) :
    s.someLane.2.Logged (s.epRecorded pa).2 := State.record_logged (s := s.someLane.2) hb ..

/-- The state in which the bytes of a write with EP, or without, are written, and their poison. -/
def State.epTagged (s : State) (pa : Nat) (ep : Bool) : Option PTag × State :=
  if ep then (some (mkTag 5 ((s.aerSet 12).epRecorded pa).1), ((s.aerSet 12).epRecorded pa).2) else (none, s)

theorem State.Sound.epTagged_sound {s : State} (hs : s.Sound) (hb : s.fld 0x23 0 0 = 0) (pa : Nat) (ep : Bool) :
    (s.epTagged pa ep).2.Sound ∧ (s.epTagged pa ep).2.mm = s.mm := by
  unfold State.epTagged
  cases ep
  · exact ⟨hs, rfl⟩
  · have logged := State.epRecorded_logged (s := s.aerSet 12) hb pa
    exact ⟨logged.sound (hs.congr rfl rfl rfl), logged.mm⟩

/-- A write with EP has poison, and AER reports it (R23, R208). -/
theorem State.epTagged_reported {s : State} (hb : s.fld 0x23 0 0 = 0) (pa : Nat) :
    (s.epTagged pa true).1.isSome ∧ (s.epTagged pa true).2.links.pci.aer.getLsbD 12 = true := by
  have logged := State.epRecorded_logged (s := s.aerSet 12) hb pa
  refine ⟨rfl, ?_⟩
  unfold State.epTagged
  rw [if_pos rfl, logged.links]
  exact s.aerSet_same (by omega)

/-- A write below the overflow areas, where no home has failed (R155, R218). -/
theorem State.Sound.hostWrite_dram {s : State} (hs : s.Sound) {pa : Nat} {data : List Byte} (h : s.inBar2 pa data.length = true)
    (hn : data.length ≤ s.links.pci.payload) (hpa : pa + data.length ≤ 0x7FFE000000) (ep : Bool) :
    s.hostWrite pa data ep = (s.epTagged pa ep).2.outsideWrite pa data (s.epTagged pa ep).1 := by
  obtain ⟨⟨hpos, _⟩, _⟩ := (s.inBar2_iff pa data.length).mp h
  have some_ : data.isEmpty = false := by cases data <;> simp at hpos ⊢
  have stands : ∀ u : State, u.Sound → ((linesOf pa data.length).filterMap (fun ln => u.deadHome (ln * 128))).head? = none := by
    intro u hu; simp [hu.deadHome_none]
  unfold State.hostWrite State.epTagged State.epRecorded
  dsimp only
  rw [h, decide_eq_false (by omega : ¬ s.links.pci.payload < data.length), List.take_of_length_le (by omega), some_]
  cases ep
  · simp [stands s hs]
  · have lit : (s.aerSet 12).Sound := hs.congr rfl rfl rfl
    simp [stands _ lit]

/-- A write stores its bytes, and with EP poisons its lines (R24, R155, R218). -/
theorem State.Sound.hostWrite_bytes {s : State} (hs : s.Sound) (hb : s.fld 0x23 0 0 = 0) {pa : Nat} {data : List Byte}
    (h : s.inBar2 pa data.length = true) (hn : data.length ≤ s.links.pci.payload) (hpa : pa + data.length ≤ 0x7FFE000000)
    (ep : Bool) :
    ∃ t, s.hostWrite pa data ep = t ∧
      (∀ b, t.byteAt b = if pa ≤ b ∧ b < pa + data.length then data.getD (b - pa) 0#8 else s.byteAt b) ∧
      (ep = true → t.links.pci.aer.getLsbD 12 = true ∧
        ∀ b, pa ≤ b → b < pa + data.length → (t.linePois (b / 128)).isSome = true) := by
  obtain ⟨sound, mm⟩ := hs.epTagged_sound hb pa ep
  have wrote := sound.outsideWrite_wrote pa data (s.epTagged pa ep).1
  refine ⟨_, hs.hostWrite_dram h hn hpa ep, fun b => ?_, ?_⟩
  · rw [wrote.bytes]
    unfold State.byteAt
    rw [mm]
  · rintro rfl
    obtain ⟨tagged, reported⟩ := State.epTagged_reported hb pa
    obtain ⟨_, _, ht⟩ := wrote.rest
    exact ⟨by rw [ht]; exact reported, wrote.marked tagged⟩

end Sys2Proof.Machine

namespace Sys2Proof.Proofs
open Sys2Proof.Machine

/-- Settles O53: what the home serves and what it writes of a sound memory, line by line. -/
theorem hostAccesses : Obligations.HostAccesses := by
  intro s pa n e data open_ read write inWin
  have bar2 : ∀ m, s.inBar2 pa m = true ↔ inWin m ∧ open_ := s.inBar2_iff pa
  have shut : ∀ m, ¬ inWin m ∨ ¬ open_ → s.inBar2 pa m = false := by
    intro m hm
    rw [← Bool.not_eq_true, bar2]
    tauto
  refine ⟨fun hp he hc i hi => ?_, fun he => ?_⟩
  · have dropped : exec i s = .next (s.aerSet 19) := by
      subst he
      rcases hi with rfl | rfl | rfl <;> exact congrArg Host.Outcome.next (State.taken_refused hp hc _)
    exact ⟨_, dropped, s.aerSet_same (by omega), rfl, rfl, rfl⟩
  have reads : exec read s = .next (s.hostRead pa n) := congrArg Host.Outcome.next (State.taken_accepted he _)
  have writes : ∀ ep, exec (write ep) s = .next (s.hostWrite pa data ep) :=
    fun ep => congrArg Host.Outcome.next (State.taken_accepted he _)
  refine ⟨fun out => ?_, fun ho hw hn => ?_, fun ho hsl hw hn => ⟨fun hpa => ?_, fun hpa hs clean => ?_⟩, fun out ep => ?_,
    fun ho hw => ⟨fun hn ep => ?_, fun hn => ⟨fun hpa => ⟨?_, ?_⟩, fun hpa hs hb ep => ?_⟩⟩⟩
  · rw [reads, State.hostRead_outside (shut n out)]
  · rw [reads, State.hostRead_long ((bar2 n).mpr ⟨hw, ho⟩) hn]
    exact ⟨_, rfl, s.aerSet_same (by omega), rfl, rfl⟩
  · rw [reads, State.hostRead_overflow ((bar2 n).mpr ⟨hw, ho⟩) hn hpa hsl]
  · obtain ⟨t, rfl, answered⟩ := hs.hostRead_bytes clean ((bar2 n).mpr ⟨hw, ho⟩) hn hpa hsl
    exact ⟨_, reads, answered⟩
  · rw [writes, State.hostWrite_outside (shut _ out)]
  · rw [writes, State.hostWrite_long ((bar2 _).mpr ⟨hw, ho⟩) hn]
    exact ⟨_, rfl, s.aerSet_same (by omega), rfl, rfl⟩
  · rw [writes, State.hostWrite_overflow ((bar2 _).mpr ⟨hw, ho⟩) hn hpa]; rfl
  · rw [writes, State.hostWrite_overflow ((bar2 _).mpr ⟨hw, ho⟩) hn hpa]
    exact ⟨_, rfl, s.aerSet_same (by omega), rfl, rfl⟩
  · obtain ⟨t, rfl, written⟩ := hs.hostWrite_bytes hb ((bar2 _).mpr ⟨hw, ho⟩) hn hpa ep
    exact ⟨_, writes ep, written⟩

end Sys2Proof.Proofs
end

section
/-! SUPPORT. The slots of the drain, and what a drain writes of its sections (R49 to R52). -/

namespace Sys2Proof.Machine

/-! ## The two slots -/

@[simp] theorem Power.slot_setSlot_same (p : Power) (k : Nat) (d : Option Drain) : (p.setSlot k d).slot k = d := by
  unfold Power.slot Power.setSlot
  by_cases h : k = 0 <;> simp [h]

theorem Power.slot_setSlot_other (p : Power) {j k : Nat} (d : Option Drain) (h : ¬ (j = 0 ↔ k = 0)) :
    (p.setSlot k d).slot j = p.slot j := by
  unfold Power.slot Power.setSlot
  by_cases hk : k = 0
  · have hj : j ≠ 0 := by omega
    simp [hk, hj]
  · have hj : j = 0 := by omega
    simp [hk, hj]

/-- A write of a slot changes the slots only. -/
theorem Power.setSlot_only (p : Power) (k : Nat) (d : Option Drain) :
    ∃ a b, p.setSlot k d = { p with slotA := a, slotB := b } := by
  unfold Power.setSlot
  split
  · exact ⟨d, p.slotB, rfl⟩
  · exact ⟨p.slotA, d, rfl⟩

theorem Power.target_cases (p : Power) : p.target = 0 ∨ p.target = 1 := by
  unfold Power.target
  split
  · exact .inr rfl
  · exact .inl rfl

@[simp] theorem State.updDrain_slot (s : State) (k : Nat) (f : Drain → Drain) :
    (s.updDrain k f).power.slot k = (s.power.slot k).map f := s.power.slot_setSlot_same k _

/-- A change of the drain in a slot changes the slots only. -/
theorem State.updDrain_only (s : State) (k : Nat) (f : Drain → Drain) :
    ∃ a b, s.updDrain k f = s.setPower { s.power with slotA := a, slotB := b } := by
  obtain ⟨a, b, h⟩ := s.power.setSlot_only k ((s.power.slot k).map f)
  exact ⟨a, b, congrArg s.setPower h⟩

/-- The drain that stands in a slot is changed, and the slots only. -/
theorem State.updDrain_spec {s : State} {k : Nat} {d : Drain} (h : s.power.slot k = some d) (f : Drain → Drain) :
    (s.updDrain k f).power.slot k = some (f d) ∧
      ∃ a b, s.updDrain k f = s.setPower { s.power with slotA := a, slotB := b } :=
  ⟨by rw [State.updDrain_slot, h, Option.map_some], s.updDrain_only k f⟩

/-! ## Chunks and their table -/

/-- What each step of a fold wrote at its own key is there at the end. -/
theorem mget?_foldl_mput {α : Type} (base : Nat) (f : Nat → α) (m : Map α) {n j : Nat} (h : j < n) :
    mget? ((upto n).foldl (fun m i => mput m (base + i) (f i)) m) (base + j) = some (f j) := by
  unfold upto
  induction n with
  | zero => omega
  | succ n ih =>
    rw [List.range_succ, List.foldl_append, List.foldl_cons, List.foldl_nil]
    by_cases hj : j = n
    · rw [hj, mget?_mput_same]
    · rw [mget?_mput_other _ _ (by omega), ih (by omega)]

/-- The first m chunks of section k stand in the chunk table of e with their checksums, at the places that d plans (R50). -/
def Drain.Tables (d e : Drain) (k m : Nat) : Prop :=
  ∀ j < m, mget? e.chunks (d.firstChunk k + j) = some (crc32 (e.chunk k j))

/-- A chunk depends on how much of its section is saved, and on its bytes. -/
theorem Drain.chunk_congr {d e : Drain} {k : Nat} (goal : e.goal k = d.goal k) (bytes : e.byteAt k = d.byteAt k) (n : Nat) :
    e.chunk k n = d.chunk k n := by
  unfold Drain.chunk
  rw [goal, bytes]

theorem Drain.tabled_tables (d : Drain) (k n : Nat) : d.Tables (d.tabled k n) k n := by
  intro j hj
  rw [Drain.chunk_congr (d := d) (e := d.tabled k n) rfl rfl]
  exact mget?_foldl_mput (d.firstChunk k) (fun j => crc32 (d.chunk k j)) d.chunks hj

/-- The places of chunks depend on what is planned. -/
theorem Drain.Tables.replan {d d' e : Drain} {k m : Nat} (h : d.Tables e k m) (plan : d'.planned = d.planned) : d'.Tables e k m := by
  have places : d'.firstChunk k = d.firstChunk k := by unfold Drain.firstChunk; rw [plan]
  intro j hj
  rw [places]
  exact h j hj

/-- The completion log does not change what the chunk table says. -/
theorem Drain.Tables.withDone {d e : Drain} {k m : Nat} (h : d.Tables e k m) (x : Nat) : d.Tables { e with done := x } k m := by
  intro j hj
  rw [Drain.chunk_congr (d := e) (e := { e with done := x }) rfl rfl]
  exact h j hj

theorem State.savePersist_only (s : State) (d : Drain) (n : Nat) :
    ∃ b p, s.savePersist d n = { d with bytes := b, pois := p } :=
  List.foldlRecOn (motive := fun e : Drain => ∃ b p, e = { d with bytes := b, pois := p }) _ _ ⟨d.bytes, d.pois, rfl⟩
    (fun _ he _ _ => by obtain ⟨_, _, rfl⟩ := he; exact ⟨_, _, rfl⟩)

/-- Saving chunks of a section adds persist lines and table entries, and leaves the records. -/
theorem State.saveSection_only (s : State) (d : Drain) (k n : Nat) :
    ∃ b p c, s.saveSection d k n = { d with bytes := b, pois := p, chunks := c } := by
  unfold State.saveSection
  split
  · obtain ⟨b, p, h⟩ := s.savePersist_only d (n * 0x2000)
    rw [h]
    exact ⟨b, p, _, rfl⟩
  · exact ⟨d.bytes, d.pois, _, rfl⟩

theorem State.saveSection_tables (s : State) (d : Drain) (k n : Nat) : d.Tables (s.saveSection d k n) k n := by
  unfold State.saveSection
  split
  · obtain ⟨_, _, h⟩ := s.savePersist_only d (n * 0x2000)
    exact (Drain.tabled_tables _ k n).replan (by rw [h])
  · exact d.tabled_tables k n

/-! ## The record that is rebuilt -/

/-- A fold that appends a value of at most g k at each step k makes a list with those bounds. -/
theorem foldl_append_le {β : Type} (g : Nat → Nat) (f : List Nat × β → Nat → List Nat × β)
    (hf : ∀ acc k, ∃ v ≤ g k, (f acc k).1 = acc.1 ++ [v]) (b : β) (n : Nat) :
    ((upto n).foldl f ([], b)).1.length = n ∧ ∀ k < n, ((upto n).foldl f ([], b)).1.getD k 0 ≤ g k := by
  unfold upto
  induction n with
  | zero => exact ⟨rfl, fun k hk => by omega⟩
  | succ n ih =>
    rw [List.range_succ, List.foldl_append, List.foldl_cons, List.foldl_nil]
    obtain ⟨len, le⟩ := ih
    obtain ⟨v, hv, he⟩ := hf ((List.range n).foldl f ([], b)) n
    rw [he]
    refine ⟨by rw [List.length_append, len, List.length_singleton], fun k hk => ?_⟩
    by_cases hn : k = n
    · rw [List.getD_append_right _ _ _ _ (by omega), len, hn, Nat.sub_self]
      exact hv
    · rw [List.getD_append _ _ _ _ (by omega)]
      exact le k (by omega)

/-- What the rebuilding of a record adds for section k: acc has the bytes saved of the sections before, and says whether every
chunk so far is there (R52). -/
def Drain.countSaved (d : Drain) (acc : List Nat × Bool) (k : Nat) : List Nat × Bool :=
  if !acc.2 then (acc.1 ++ [0], false)
  else if d.leading k = d.nChunks k && k < d.done then (acc.1 ++ [d.goal k], true)
  else (acc.1 ++ [min (d.goal k) (d.leading k * 0x100000)], d.leading k == d.nChunks k)

theorem Drain.rebuilt_eq (d : Drain) : ∃ got, got = ((upto 5).foldl d.countSaved ([], true)).1 ∧ d.rebuilt =
    { level := d.first.level, status := 2 + 16 * d.done, saved := got, plist := d.ranges (got.getD 4 0 / 128) } :=
  ⟨_, rfl, rfl⟩

theorem Drain.countSaved_append (d : Drain) (acc : List Nat × Bool) (k : Nat) :
    ∃ v ≤ d.goal k, (d.countSaved acc k).1 = acc.1 ++ [v] := by
  unfold Drain.countSaved
  split
  · exact ⟨0, Nat.zero_le _, rfl⟩
  · split
    · exact ⟨d.goal k, le_rfl, rfl⟩
    · exact ⟨min (d.goal k) (d.leading k * 0x100000), Nat.min_le_left _ _, rfl⟩

/-- No section of a rebuilt record has more saved than it was to save (R52). -/
theorem Drain.rebuilt_saved_le (d : Drain) : ∀ k < 5, d.rebuilt.saved.getD k 0 ≤ d.goal k := by
  obtain ⟨got, counted, record⟩ := d.rebuilt_eq
  rw [record]
  dsimp only
  rw [counted]
  exact (foldl_append_le d.goal d.countSaved d.countSaved_append true 5).2

theorem Drain.now_unfinished {d : Drain} (h : d.final = none) : d.now = d.rebuilt := by
  unfold Drain.now
  rw [h, Option.getD_none]

end Sys2Proof.Machine
end

section
/-! SUPPORT. The power-fail trap, the ends of the drain, and power-on (R30, R47, R48, R52, R53). -/

namespace Sys2Proof.Machine

/-! ## The trap -/

/-- POWER_FAIL while the device is on (R47, R48). -/
theorem powerFail_on {s : State} (h : s.power.st = .on) (n : Nat) :
    ∃ t e, exec (.powerFail n) s = .next t ∧ t.power.st = .draining ∧ t.agenda = [] ∧ t.focus = none ∧ t.peal.wait = [] ∧
      t.power.slot s.power.target = some e ∧ e.seq = s.power.nextSeq % 2 ^ 32 ∧ e.first.status = 0 ∧
      e.first.saved = [0, 0, 0, 0, 0] ∧ e.final = none ∧ e.done = 0 ∧ e.chunks = [] ∧ e.claimed = false ∧
      t.power.slot (1 - s.power.target) = s.power.slot (1 - s.power.target) ∧ t.mm = s.mm ∧
      t.wgs = s.wgs ∧ ∀ k g, mget? s.groups k = some g → mget? t.groups k = some { g with pend := [] } := by
  have other : ¬ (1 - s.power.target = 0 ↔ s.power.target = 0) := by
    rcases s.power.target_cases with e | e <;> rw [e] <;> decide
  have trapped : exec (.powerFail n) s = .next _ := congrArg Host.Outcome.next (if_neg (not_not_intro h))
  refine ⟨_, s.planDrain n, trapped, ?_, rfl, rfl, rfl, Power.slot_setSlot_same .., rfl, rfl, rfl, rfl, rfl, rfl, rfl,
    Power.slot_setSlot_other _ _ other, rfl, rfl, fun k g hg => ?_⟩
  · obtain ⟨_, _, only⟩ := Power.setSlot_only ({ s.power with
      st := .draining, input := false, wake := false, back := false, ordered := none, writing := s.power.target })
      s.power.target (some (s.planDrain n))
    exact congrArg Power.st only
  · have dropped := mget?_mmap s.groups (fun _ g => ({ g with pend := [] } : Group)) k
    rw [hg] at dropped
    exact dropped

theorem powerFail_notOn {s : State} (h : s.power.st ≠ .on) (n : Nat) : exec (.powerFail n) s = .next s :=
  congrArg Host.Outcome.next (if_pos h)

/-! ## The ends of a drain -/

/-- The drain when the section that is being written has ended (R48, R50). -/
def State.sectionEnded (s : State) (d : Drain) : Drain :=
  { s.saveSection d d.last (d.nChunks d.last) with done := d.last + 1 }

theorem State.sectionEnded_tables (s : State) (d : Drain) : d.Tables (s.sectionEnded d) d.last (d.nChunks d.last) :=
  Drain.Tables.withDone (s.saveSection_tables d _ _) _

theorem State.sectionEnded_final (s : State) (d : Drain) : (s.sectionEnded d).final = d.final := by
  obtain ⟨_, _, _, saved⟩ := s.saveSection_only d d.last (d.nChunks d.last)
  unfold State.sectionEnded
  rw [saved]

/-- DRAIN_SECTION_END (R48, R50). -/
theorem drainSectionEnd_tables {s : State} {d : Drain} (h : s.power.st = .draining)
    (hd : s.power.slot s.power.writing = some d) (hk : d.last < 5) :
    ∃ t e, exec .drainSectionEnd s = .next t ∧ t.power.slot s.power.writing = some e ∧ e.last = d.last + 1 ∧
      d.Tables e d.last (d.nChunks d.last) ∧ e.final = d.final ∧ t.power.st = .draining ∧ t.mm = s.mm := by
  have ended : exec .drainSectionEnd s = .next (s.updDrain s.power.writing (fun _ => s.sectionEnded d)) := by
    change execDrainSectionEnd s = _
    simp only [execDrainSectionEnd, h, hd, if_pos hk]
    rfl
  obtain ⟨slot, _, _, only⟩ := State.updDrain_spec hd (fun _ => s.sectionEnded d)
  exact ⟨_, _, ended, slot, rfl, s.sectionEnded_tables d, s.sectionEnded_final d, by rw [only]; exact h, by rw [only]; rfl⟩

/-- The power is gone when the drain has stopped; it comes back where the input has returned (R52, R53). -/
def State.powerGone (s : State) : State := s.setPower { s.power with st := .off, wake := s.power.back }

/-- DRAIN_END (R50, R53). -/
theorem drainEnd_closes {s : State} {d : Drain} (h : s.power.st = .draining)
    (hd : s.power.slot s.power.writing = some d) (hk : d.last = 5) :
    ∃ t e r, exec .drainEnd s = .next t ∧ t.power.slot s.power.writing = some e ∧ e.final = some r ∧ e.now = r ∧
      r.status = 1 + b2n s.power.back * 4 + 16 * 5 ∧ (∀ k < 5, r.saved.getD k 0 = d.goal k) ∧ e.chunks = d.chunks ∧
      t.power.st = .off ∧ t.power.wake = s.power.back ∧ t.mm = s.mm := by
  have ended : exec .drainEnd s = .next (s.updDrain s.power.writing s.power.closeDrain).powerGone := by
    change execDrainEnd s = _
    simp only [execDrainEnd, h, hd, if_pos hk]
    rfl
  obtain ⟨slot, _, _, only⟩ := State.updDrain_spec hd s.power.closeDrain
  refine ⟨_, _, _, ended, slot, rfl, rfl, ?_, fun k hk => ?_, rfl, rfl, by rw [only]; rfl, by rw [only]; rfl⟩
  · rw [show d.done = 5 from hk]
  · rw [List.getD_eq_getElem _ _ (by simpa [upto] using hk)]
    simp [upto]

/-- What the drain holds when holdup ends: of the section being written, the whole chunks among n bytes (R52). -/
def State.cutShort (s : State) (d : Drain) (n : Nat) : Drain :=
  if d.last < 5 then s.saveSection d d.last (min (d.goal d.last) n / 0x100000) else d

theorem State.cutShort_only (s : State) (d : Drain) (n : Nat) :
    ∃ b p c, s.cutShort d n = { d with bytes := b, pois := p, chunks := c } := by
  unfold State.cutShort
  split
  · exact s.saveSection_only ..
  · exact ⟨d.bytes, d.pois, d.chunks, rfl⟩

/-- Without a final record, the one that answers after restart says that the drain was cut short (R52). -/
theorem State.cutShort_now {d : Drain} (h : d.final = none) (s : State) (n : Nat) :
    (s.cutShort d n).now.status = 2 + 16 * d.last ∧ ∀ k < 5, (s.cutShort d n).now.saved.getD k 0 ≤ d.goal k := by
  obtain ⟨_, _, _, only⟩ := s.cutShort_only d n
  have unfinished : (s.cutShort d n).final = none := by rw [only]; exact h
  rw [Drain.now_unfinished unfinished, only]
  exact ⟨rfl, Drain.rebuilt_saved_le _⟩

/-- When holdup ends the drain is cut short in its slot, and the power is gone. -/
theorem holdupExhausted_cut {s : State} {d : Drain} (h : s.power.st = .draining)
    (hd : s.power.slot s.power.writing = some d) (n : Nat) :
    ∃ t, exec (.holdupExhausted n) s = .next t.powerGone ∧ t.power.slot s.power.writing = some (s.cutShort d n) ∧
      ∃ a b, t = s.setPower { s.power with slotA := a, slotB := b } := by
  have stopped : exec (.holdupExhausted n) s = .next
      (if d.last < 5 then s.updDrain s.power.writing
        (fun _ => s.saveSection d d.last (min (d.goal d.last) n / 0x100000)) else s).powerGone := by
    change execHoldupExhausted n s = _
    simp only [execHoldupExhausted, h, hd]
    rfl
  refine ⟨_, stopped, ?_⟩
  unfold State.cutShort
  split
  · exact State.updDrain_spec hd _
  · exact ⟨hd, s.power.slotA, s.power.slotB, rfl⟩

/-- HOLDUP_EXHAUSTED (R52). -/
theorem holdupExhausted_stops {s : State} {d : Drain} (h : s.power.st = .draining)
    (hd : s.power.slot s.power.writing = some d) (n : Nat) :
    ∃ t e, exec (.holdupExhausted n) s = .next t ∧ t.power.slot s.power.writing = some e ∧ e.final = d.final ∧
      e.last = d.last ∧ (d.last < 5 → d.Tables e d.last (min (d.goal d.last) n / 2 ^ 20)) ∧
      (d.final = none → e.now.status = 2 + 16 * d.last ∧ ∀ k < 5, e.now.saved.getD k 0 ≤ d.goal k) ∧
      t.power.st = .off ∧ t.power.wake = s.power.back ∧ t.mm = s.mm := by
  obtain ⟨_, stopped, slot, _, _, only⟩ := holdupExhausted_cut h hd n
  obtain ⟨_, _, _, cut⟩ := s.cutShort_only d n
  refine ⟨_, _, stopped, slot, by rw [cut], by rw [cut]; rfl, fun hk => ?_, fun hf => s.cutShort_now hf n, rfl,
    by rw [only]; rfl, by rw [only]; rfl⟩
  rw [State.cutShort, if_pos hk]
  exact s.saveSection_tables d _ _

/-! ## Input and power-on -/

theorem inputReturn_on {s : State} (h : s.power.st = .on) : exec .inputReturn s = .next s := by
  change execInputReturn s = _
  simp only [execInputReturn, h]

/-- INPUT_RETURN during the drain and after it (R53). -/
theorem inputReturn_notOn {s : State} (h : s.power.st ≠ .on) (hi : s.power.st = .off → s.power.input = false) :
    ∃ t, exec .inputReturn s = .next t ∧ t.power.input = true ∧ t.power.st = s.power.st ∧
      (if s.power.st = .off then t.power.wake = true else t.power.back = true) ∧ t.mm = s.mm := by
  change ∃ t, execInputReturn s = _ ∧ _
  unfold execInputReturn
  cases hs : s.power.st with
  | on => exact absurd hs h
  | draining => exact ⟨_, rfl, rfl, hs, by rw [if_neg nofun]; rfl, rfl⟩
  | off =>
    rw [hi hs]
    exact ⟨_, rfl, rfl, hs, by rw [if_pos rfl]; rfl, rfl⟩

/-- POWER_ON_RESET (R54): what the flash array and the fuses keep, and the rest as reset leaves it. -/
theorem powerOnReset_due {s : State} (h : s.power.st = .off) (hw : s.power.wake = true) (sl : Bool) :
    ∃ t, exec (.powerOnReset sl) s = .next t ∧ t.power.st = .on ∧ t.power.slotA = s.power.slotA ∧
      t.power.slotB = s.power.slotB ∧ t.power.sel = s.power.newest ∧ t.boot.ctr = s.boot.ctr ∧ t.boot.running = false ∧
      t.links.sl15 = sl ∧ t.regs = [] ∧ t.groups = [] ∧ t.kul = Kul.reset ∧ t.mm = MemSys.reset :=
  ⟨_, congrArg Host.Outcome.next (if_pos ⟨h, hw⟩), rfl, rfl, rfl, rfl, rfl, rfl, rfl, rfl, rfl, rfl, rfl⟩

theorem powerOnReset_notDue {s : State} (h : ¬ (s.power.st = .off ∧ s.power.wake = true)) (sl : Bool) :
    exec (.powerOnReset sl) s = .next s := congrArg Host.Outcome.next (if_neg h)

theorem sidebandPowerOn_wakes {s : State} (h : s.power.st = .off) (hi : s.power.input = true) :
    ∃ t, exec .sidebandPowerOn s = .next t ∧ t.power.wake = true ∧ t.mm = s.mm :=
  ⟨_, congrArg Host.Outcome.next (if_pos ⟨h, hi⟩), rfl, rfl⟩

theorem sidebandPowerOff_stops {s : State} (h : s.power.st = .on) (hi : s.power.input = true) :
    ∃ t, exec .sidebandPowerOff s = .next t ∧ t.power.st = .off ∧ t.power.wake = false ∧ t.mm = s.mm :=
  ⟨_, congrArg Host.Outcome.next (if_pos ⟨h, hi⟩), rfl, rfl, rfl⟩

end Sys2Proof.Machine

namespace Sys2Proof.Proofs
open Sys2Proof.Machine

/-- Settles O46: each clause is the lemma about its event; no clause needs that no error lies unfound. -/
theorem powerEvents : Obligations.PowerEvents := by
  unfold Obligations.PowerEvents
  intro s n sl d _
  exact ⟨fun h => powerFail_on h n, fun h => powerFail_notOn h n,
    fun h hd => ⟨drainSectionEnd_tables h hd, drainEnd_closes h hd, holdupExhausted_stops h hd n⟩,
    inputReturn_on, inputReturn_notOn, fun h hw => powerOnReset_due h hw sl, fun h => powerOnReset_notDue h sl,
    sidebandPowerOn_wakes, sidebandPowerOff_stops⟩

end Sys2Proof.Proofs
end

section
/-! SUPPORT. Restart, boot and attestation (R54, R82 to R86, R424). -/

namespace Sys2Proof.Machine

/-! ## RESTORE -/

/-- RESTORE without a selected slot, after the first launch, or while one is under way (R424). -/
theorem restore_refused {s : State} (h : s.power.selected = none ∨ s.kul.launched = true ∨ s.power.restoring = true) :
    exec .restore s = .next (s.setFld 0x1B 2 2 1) := by
  change Host.Outcome.next s.doRestore = _
  unfold State.doRestore
  cases hd : s.power.selected with
  | none => rfl
  | some d =>
    have ordered : s.kul.launched = true ∨ s.power.restoring = true := h.resolve_left (by rw [hd]; nofun)
    rw [← Bool.or_eq_true] at ordered
    exact congrArg Host.Outcome.next (if_pos ordered)

/-- The lines of the persist list of drain d, in order (R49). -/
def Drain.listed (d : Drain) : List (Nat × Nat) := persistLines (d.first.plist.map (fun r => (r.1, r.2.1, [])))

/-- Line ln gets back what drain d saved of it, with its poison (R54). -/
def State.restoreLine (s : State) (d : Drain) (ln : Nat) : State :=
  s.outsideWrite (ln * 128) (memGetL d.bytes (ln * 128) 128) (mget? d.pois ln)

/-- From s to t the lines of a list took the bytes that drain d saved: the memory system is sound, and nothing but it and
reservations differs. -/
structure State.TookBack (s t : State) (d : Drain) (ls : List (Nat × Nat)) : Prop where
  rest  : ∃ mm gs, t = { s with mm := mm, groups := gs }
  sound : t.Sound
  bytes : ∀ b, t.byteAt b = if ls.any (fun e => e.1 == b / 128) then memGet d.bytes b else s.byteAt b

theorem State.Sound.restoreLine_bytes {s : State} (h : s.Sound) (d : Drain) (ln b : Nat) :
    (s.restoreLine d ln).byteAt b = if ln = b / 128 then memGet d.bytes b else s.byteAt b := by
  unfold State.restoreLine
  rw [(h.outsideWrite_wrote ..).bytes, length_memGetL]
  by_cases hb : ln = b / 128
  · have place : b - ln * 128 < 128 := by omega
    rw [if_pos (by omega), if_pos hb, memGetL_eq_map, List.getD_eq_getElem _ _ (by simpa using place), List.getElem_map,
      List.getElem_range, Nat.add_sub_of_le (by omega)]
  · rw [if_neg (by omega), if_neg hb]

theorem State.Sound.restoreLines_tookBack {s : State} (h : s.Sound) (d : Drain) (ls : List (Nat × Nat)) :
    s.TookBack (ls.foldl (fun s e => s.restoreLine d e.1) s) d ls := by
  induction ls generalizing s with
  | nil => exact ⟨⟨s.mm, s.groups, rfl⟩, h, fun _ => rfl⟩
  | cons e r ih =>
    have first := h.outsideWrite_wrote (e.1 * 128) (memGetL d.bytes (e.1 * 128) 128) (mget? d.pois e.1)
    have rest := ih (s := s.restoreLine d e.1) first.sound
    obtain ⟨_, _, hs⟩ := first.rest
    obtain ⟨mm, gs, ht⟩ := rest.rest
    refine ⟨⟨mm, gs, ht.trans (by rw [State.restoreLine, hs])⟩, rest.sound, fun b => ?_⟩
    rw [List.foldl_cons, rest.bytes, h.restoreLine_bytes, List.any_cons]
    by_cases hb : e.1 = b / 128
    · simp [hb]
    · rw [beq_false_of_ne hb, Bool.false_or, if_neg hb]

/-- A section of which nothing was saved is not copied. -/
theorem State.copySection_none {d : Drain} {k : Nat} (h : d.now.saved.getD k 0 = 0) (s : State) (base : Nat) :
    s.copySection d base k = s := by
  unfold State.copySection
  rw [h]
  rfl

/-- RESTORE of a drain with all its listed lines saved and nothing of its other sections writes these lines and no more. -/
theorem State.doRestore_persist {s : State} {d : Drain} (hd : s.power.selected = some d) (hl : s.kul.launched = false)
    (hr : s.power.restoring = false) (none_ : ∀ k < 4, d.now.saved.getD k 0 = 0)
    (all_ : 128 * d.listed.length ≤ d.now.saved.getD 4 0) :
    s.doRestore = d.listed.foldl (fun s e => s.restoreLine d e.1) (s.setPower { s.power with restoring := true }) := by
  have copied : ∀ (t : State), (upto 4).foldl (fun s k => s.copySection d (s.fld 0x1C 44 12 * 4096) k) t = t := fun t =>
    List.foldlRecOn (motive := (· = t)) _ _ rfl (fun u hu k hk => by
      rw [State.copySection_none (none_ k (List.mem_range.mp hk)), hu])
  unfold Drain.listed at all_ ⊢
  unfold State.doRestore
  rw [hd]
  dsimp only
  rw [hl, hr, Bool.or_false, if_neg Bool.false_ne_true, List.take_of_length_le (by omega), List.drop_of_length_le (by omega)]
  exact copied _

/-- RESTORE brings the saved persist lines back (R54, R424). -/
theorem restore_brings {s : State} {d : Drain} (hd : s.power.selected = some d) (hl : s.kul.launched = false)
    (hr : s.power.restoring = false) (none_ : ∀ k < 4, d.now.saved.getD k 0 = 0)
    (all_ : 128 * d.listed.length ≤ d.now.saved.getD 4 0)
    (hs : s.Sound) :
    ∃ t, exec .restore s = .next t ∧ t.power.restoring = true ∧ ∀ b,
      t.byteAt b = if d.listed.any (fun e => e.1 == b / 128) then memGet d.bytes b else s.byteAt b := by
  have begun : (s.setPower { s.power with restoring := true }).Sound := hs.congr rfl rfl rfl
  have back := begun.restoreLines_tookBack d d.listed
  obtain ⟨_, _, rest⟩ := back.rest
  exact ⟨_, congrArg Host.Outcome.next (State.doRestore_persist hd hl hr none_ all_), by rw [rest]; rfl, back.bytes⟩

/-- RESTORED (R424). -/
theorem restored_done {s : State} (h : s.power.restoring = true) :
    ∃ t, exec .restored s = .next t ∧ t.power.restoring = false ∧ t.fld 0x1A 4 4 = 1 ∧ t.mm = s.mm :=
  ⟨_, congrArg Host.Outcome.next (if_pos h), rfl, State.fld_setFld_same _ _ _ (by decide) (by decide), rfl⟩

/-! ## CLAIM -/

theorem claim_selected {s : State} {k : Nat} (h : s.power.sel = some k) :
    ∃ t, exec .claim s = .next t ∧ t.power.slot k = (s.power.slot k).map (fun x => { x with claimed := true }) ∧
      t.mm = s.mm := by
  change ∃ t, Host.Outcome.next s.doClaim = _ ∧ _
  unfold State.doClaim
  rw [h]
  exact ⟨_, rfl, s.updDrain_slot .., rfl⟩

theorem claim_none {s : State} (h : s.power.sel = none) : exec .claim s = .next (s.setFld 0x1B 2 2 1) := by
  change Host.Outcome.next s.doClaim = _
  unfold State.doClaim
  rw [h]

/-! ## Boot -/

theorem bootgo_ignored {s : State} (h : s.boot.busy = true ∨ s.boot.running = true) : exec .bootgo s = .next s := by
  rw [← Bool.or_eq_true] at h
  exact congrArg Host.Outcome.next (if_pos h)

theorem bootgo_starts {s : State} (hb : s.boot.busy = false) (hr : s.boot.running = false) :
    ∃ t, exec .bootgo s = .next t ∧ t.boot.busy = true ∧ t.boot.running = false ∧ t.mm = s.mm := by
  refine ⟨s.setBoot { s.boot with busy := true }, ?_, rfl, hr, rfl⟩
  change execBootgo s = _
  simp [execBootgo, hb, hr]

/-- Boot when the checks of bundle b have ended with failure k, or with none (R82, R85). -/
def Boot.checked (x : Boot) (b : List Byte) (k : Nat) : Boot :=
  if k ≠ 0 then { x with busy := false, fail := k }
  else { x with busy := false, fail := 0, running := true, runver := sliceN b 0xC 4, hashes := imageHashes b }

section
variable {s : State} {b : List Byte} (hb : s.boot.busy = true) (hn : 0 < b64 s.boot.len 26 0)
    (hm : b64 s.boot.len 26 0 ≤ 2 ^ 26) (hpa : b64 s.boot.addr 44 12 * 4096 + b64 s.boot.len 26 0 ≤ 0x7FFE000000)
    (read : s.homeRead (b64 s.boot.addr 44 12 * 4096) (b64 s.boot.len 26 0) = (b, none, s))
include hb hn hm hpa read

/-- BUNDLE_START of a bundle that lies in stacked DRAM and reads clean (R82, R85). -/
theorem bundleStart_eq :
    exec .bundleStart s = .next (s.setBoot (s.boot.checked b (bundleFail b s.boot.counter))) := by
  have usable : ¬ ((b64 s.boot.len 26 0 = 0 || !inDram (b64 s.boot.addr 44 12 * 4096 + b64 s.boot.len 26 0 - 1) ||
      0x4000000 < b64 s.boot.len 26 0) = true) := by
    simp only [inDram, Bool.or_eq_true, Bool.not_eq_true', decide_eq_true_eq, decide_eq_false_iff_not]
    omega
  change execBundleStart s = _
  unfold execBundleStart Boot.checked
  dsimp only
  rw [hb, Bool.not_true, if_neg Bool.false_ne_true, if_neg usable, read]
  simp only [Option.isSome_none, Bool.false_eq_true, if_false]
  split <;> rfl

theorem bundleStart_checked :
    ∃ t, exec .bundleStart s = .next t ∧ t.boot.busy = false ∧ t.boot.fail = bundleFail b s.boot.counter ∧ t.mm = s.mm ∧
      (if bundleFail b s.boot.counter = 0 then t.boot.running = true ∧ t.boot.runver = ofBytesLE ((b.drop 0xC).take 4)
       else t.boot.running = s.boot.running) := by
  refine ⟨_, bundleStart_eq hb hn hm hpa read, ?_⟩
  unfold Boot.checked
  by_cases hk : bundleFail b s.boot.counter = 0
  · rw [if_neg (not_not_intro hk), if_pos hk]
    exact ⟨rfl, hk.symm, rfl, rfl, rfl⟩
  · rw [if_pos hk, if_neg hk]
    exact ⟨rfl, rfl, rfl, rfl⟩

end

theorem commit_advances {s : State} (h : s.boot.counter < s.boot.runver) :
    ∃ t, exec .commit s = .next t ∧ t.boot.counter = s.boot.runver ∧ t.boot.running = s.boot.running :=
  ⟨_, congrArg Host.Outcome.next (if_pos h), rfl, rfl⟩

theorem commit_ignored {s : State} (h : s.boot.runver ≤ s.boot.counter) : exec .commit s = .next s :=
  congrArg Host.Outcome.next (if_neg (Nat.not_lt.mpr h))

/-! ## Attestation -/

theorem atgo_ignored {s : State} (h : s.boot.atbusy = true) : exec .atgo s = .next s :=
  congrArg Host.Outcome.next (if_pos h)

theorem atgo_starts {s : State} (h : s.boot.atbusy = false) :
    ∃ t, exec .atgo s = .next t ∧ t.boot.atbusy = true ∧ t.boot.atdone = false ∧ t.boot.aterr = false ∧
      t.boot.atnonce = s.boot.nonce :=
  ⟨_, congrArg Host.Outcome.next (if_neg (by rw [h]; exact Bool.false_ne_true)), rfl, rfl, rfl, rfl⟩

/-- The report of R86, of n bytes, when the hashes of the started images are known. -/
def State.report (s : State) (n : Nat) : List Byte :=
  s.reportHead n s.boot.hashes ++ (upto 16608).map (Config.attestSig (s.reportHead n s.boot.hashes)) ++ certBytes s.boot.hashes

/-- The state in which the making of a report of n bytes has ended. -/
def State.reportMade (s : State) (n : Nat) : State := s.setBoot { s.boot with atbusy := false, atlen := n }

/-- ATDONE writes the report when it ends within stacked DRAM, and else sets ATERR (R83, R86). -/
theorem atdone_eq {s : State} (h : s.boot.atbusy = true) (hh : s.boot.hashes ≠ []) {n : Nat}
    (hn : n = 0x41E0 + (certBytes s.boot.hashes).length) :
    exec .atdone s = .next (if inStack (b64 s.boot.atdst 44 12 * 4096 + n - 1) then
        ((s.reportMade n).outsideWrite (b64 s.boot.atdst 44 12 * 4096) (s.report n) none).setBoot
          { (s.reportMade n).boot with atdone := true }
      else (s.reportMade n).setBoot { (s.reportMade n).boot with aterr := true }) := by
  subst hn
  change execAtdone s = _
  unfold execAtdone
  rw [h, List.isEmpty_eq_false_iff.mpr hh]
  simp only [Bool.not_true, Bool.false_eq_true, if_false]
  cases inStack (b64 s.boot.atdst 44 12 * 4096 + (0x41E0 + (certBytes s.boot.hashes).length) - 1) <;> rfl

/-- ATDONE when the hashes of the started images are known (R83, R86). -/
theorem atdone_ends {s : State} (h : s.boot.atbusy = true) (hh : s.boot.hashes ≠ []) :
    let n := 0x41E0 + (certBytes s.boot.hashes).length
    ∃ t, exec .atdone s = .next t ∧ t.boot.atbusy = false ∧ t.boot.atlen = n ∧
      (b64 s.boot.atdst 44 12 * 4096 + n ≤ 2 ^ 39 → t.boot.atdone = true) ∧
      (2 ^ 39 < b64 s.boot.atdst 44 12 * 4096 + n → t.boot.aterr = true ∧ t.mm = s.mm) := by
  intro n
  have fits : inStack (b64 s.boot.atdst 44 12 * 4096 + n - 1) = true ↔ b64 s.boot.atdst 44 12 * 4096 + n ≤ 2 ^ 39 := by
    simp only [inStack, decide_eq_true_eq]
    omega
  refine ⟨_, atdone_eq h hh rfl, ?_⟩
  by_cases hf : inStack (b64 s.boot.atdst 44 12 * 4096 + n - 1) = true
  · rw [if_pos hf]
    exact ⟨rfl, rfl, fun _ => rfl, fun far => absurd (fits.mp hf) (by omega)⟩
  · rw [if_neg hf]
    exact ⟨rfl, rfl, fun le => absurd (fits.mpr le) hf, fun _ => ⟨rfl, rfl⟩⟩

end Sys2Proof.Machine

namespace Sys2Proof.Proofs
open Sys2Proof.Machine

/-- Settles O47: each clause is the lemma about its event. -/
theorem restartAndBoot : Obligations.RestartAndBoot := by
  unfold Obligations.RestartAndBoot
  intro s d
  exact ⟨restore_refused, restore_brings, restored_done, fun _ => claim_selected, claim_none, fun h => bootgo_ignored h,
    bootgo_starts, fun _ => bundleStart_checked, commit_advances, commit_ignored, atgo_ignored, atgo_starts, atdone_ends⟩

end Sys2Proof.Proofs
end

section
/-! SUPPORT. What writes of the device's own units leave alone (R72, R155): queues, completion queues and launches. -/

namespace Sys2Proof.Machine

/-! ## Kulintang and the launches stand -/

/-- Kulintang and the launches are in t as they are in s. -/
structure State.KulKept (s t : State) : Prop where
  kul      : t.kul = s.kul
  launches : t.launches = s.launches

theorem State.KulKept.refl (s : State) : s.KulKept s := ⟨rfl, rfl⟩

theorem State.KulKept.trans {s t u : State} (h : s.KulKept t) (h' : t.KulKept u) : s.KulKept u :=
  ⟨h'.kul.trans h.kul, h'.launches.trans h.launches⟩

theorem State.KulKept.ite {s t u : State} {c : Prop} [Decidable c] (h : s.KulKept t) (h' : s.KulKept u) :
    s.KulKept (if c then t else u) := by
  split
  · exact h
  · exact h'

theorem State.Reported.kulKept {s t : State} (h : s.Reported t) : s.KulKept t := by
  obtain ⟨_, _, _, _, _, rfl⟩ := h
  exact ⟨rfl, rfl⟩

theorem State.setMM_kulKept (s : State) (m : MemSys) : s.KulKept (s.setMM m) := ⟨rfl, rfl⟩

theorem State.updLine_kulKept (s : State) (ln : Nat) (f : Line → Line) : s.KulKept (s.updLine ln f) :=
  (s.updLine_reported ln f).kulKept

theorem State.dropDie_kulKept (s : State) (d ln : Nat) : s.KulKept (s.dropDie d ln) := s.setMM_kulKept _

theorem State.keepV_kulKept (s : State) (d ln : Nat) : s.KulKept (s.keepV d ln) := s.setMM_kulKept _

theorem State.flipBit_kulKept (s : State) (ln b : Nat) : s.KulKept (s.flipBit ln b) := s.setMM_kulKept _

theorem State.dropFlaws_kulKept (s : State) (p : FlawAt → Bool) : s.KulKept (s.dropFlaws p) :=
  (s.dropFlaws_reported p).kulKept

theorem State.record_kulKept (s : State) (cls kind sev : Nat) (inj : Bool) (addr unit space synd : Nat)
    (o : Option (Nat × Nat)) : s.KulKept (s.record cls kind sev inj addr unit space synd o).2 :=
  (s.record_reported cls kind sev inj addr unit space synd o).kulKept

/-! ## Recalls, and what they find (R157, R208, R224) -/

theorem State.findFlaw_kulKept (s : State) (p : FlawAt) (cls unit addr space : Nat) (o : Option (Nat × Nat)) :
    s.KulKept (s.findFlaw p cls unit addr space o).2 := by
  unfold State.findFlaw
  split
  · exact .refl s
  · split <;> exact (s.dropFlaws_kulKept _).trans (State.record_kulKept ..)

theorem State.sendLine_kulKept (s : State) (d ln : Nat) : s.KulKept (s.sendLine d ln) := by
  have found := s.findFlaw_kulKept (.net d ln) 5 (sliceUnit d (ln * 128)) (ln * 128) 0 none
  unfold State.sendLine
  split
  · next h => rw [h] at found; exact found.trans (State.updLine_kulKept ..)
  · next h => rwa [h] at found

theorem State.dropCore_kulKept (s : State) (c ln : Nat) : s.KulKept (s.dropCore c ln) := by
  unfold State.dropCore
  dsimp only
  split <;> exact ⟨rfl, rfl⟩

theorem State.checkCopy_kulKept (s : State) (c ln : Nat) : s.KulKept (s.checkCopy c ln) := by
  have drawn : s.KulKept ((s.dropFlaws (· == .copy c ln)).draw 1) := (s.dropFlaws_kulKept _).trans ⟨rfl, rfl⟩
  unfold State.checkCopy
  split
  · exact .refl s
  · dsimp only
    split
    · exact s.dropFlaws_kulKept _
    · split
      · exact (drawn.trans (State.record_kulKept ..)).trans (State.updLine_kulKept ..)
      · split
        · exact drawn.trans (State.record_kulKept ..)
        · exact (drawn.trans (State.record_kulKept ..)).trans (State.dropCore_kulKept ..)

theorem State.checkSlice_kulKept (s : State) (d ln : Nat) : s.KulKept (s.checkSlice d ln) := by
  have dropped := s.dropFlaws_kulKept (· == .slice d ln)
  unfold State.checkSlice
  split
  · exact .refl s
  · dsimp only
    split
    · exact (dropped.trans (State.record_kulKept ..)).trans (State.updLine_kulKept ..)
    · split
      · exact dropped.trans (State.record_kulKept ..)
      · exact (dropped.trans (State.record_kulKept ..)).trans (State.dropDie_kulKept ..)

theorem State.checkOwn_kulKept (s : State) (d ln : Nat) : s.KulKept (s.checkOwn d ln) := by
  unfold State.checkOwn
  cases (s.line ln).mcore with
  | none =>
    dsimp only
    split
    · exact .refl s
    · exact s.checkSlice_kulKept d ln
  | some c =>
    dsimp only
    split
    · exact s.checkCopy_kulKept c ln
    · exact (s.checkCopy_kulKept c ln).trans (State.checkSlice_kulKept ..)

theorem State.inject_kulKept (s : State) (ln target die : Nat) : s.KulKept (s.inject ln target die).2.2 := by
  have noted : ∀ kind unit bit k v, s.KulKept
      ((s.record 7 0x06 kind true (ln * 128) unit 0 bit none).2.setReg k v) :=
    fun _ _ _ _ _ => (s.record_kulKept ..).trans ⟨rfl, rfl⟩
  unfold State.inject
  dsimp only
  split
  · split
    · exact .ite ((noted ..).trans (State.updLine_kulKept ..)) ((noted ..).trans (State.setMM_kulKept ..))
    · split <;> exact noted ..
  · exact .refl s

theorem State.recall_kulKept (s : State) (ln : Nat) : s.KulKept (s.recall ln).1 := by
  unfold State.recall
  cases (s.line ln).owner with
  | none => exact .refl s
  | some d =>
    have fired := (s.checkOwn_kulKept d ln).trans (State.inject_kulKept _ ln 1 d)
    dsimp only
    split
    · have back := fun f => (fired.trans (State.updLine_kulKept _ ln f)).trans (State.takeBack_reported _ ln).kulKept
      exact ((back _).trans (State.dropDie_kulKept ..)).trans (State.flipBit_kulKept ..)
    · have back := fired.trans (State.takeBack_reported _ ln).kulKept
      exact (State.KulKept.ite (back.trans (State.sendLine_kulKept ..)) back).trans (State.keepV_kulKept ..)

/-- A write from outside the dies leaves Kulintang and the launches, whatever errors its recalls find (R155, R224). -/
theorem State.outsideWrite_kulKept (s : State) (pa : Nat) (bs : List Byte) (p : Option PTag) :
    s.KulKept (s.outsideWrite pa bs p) :=
  List.foldlRecOn _ _ (.refl s) (fun t ht ln _ =>
    ht.trans ((t.recall_kulKept ln).trans (State.homeWriteLine_reported ..).kulKept))

/-! ## Changes of a queue -/

theorem State.syncQ_kulKept (s : State) (q : Nat) : s.KulKept (s.syncQ q) := by
  unfold State.syncQ
  dsimp only
  split
  · exact .refl s
  · exact s.outsideWrite_kulKept ..

theorem State.updQueue_kul (s : State) (q : Nat) (f : Queue → Queue) :
    (s.updQueue q f).kul = { s.kul with queues := mput s.kul.queues q (f (s.queue q)).stalled } :=
  (State.syncQ_kulKept _ q).kul

@[simp] theorem State.updQueue_launches (s : State) (q : Nat) (f : Queue → Queue) : (s.updQueue q f).launches = s.launches :=
  (State.syncQ_kulKept _ q).launches

@[simp] theorem State.updQueue_queue (s : State) (q : Nat) (f : Queue → Queue) :
    (s.updQueue q f).queue q = (f (s.queue q)).stalled := by
  unfold State.queue
  rw [State.updQueue_kul]
  exact mgetD_mput_same ..

/-- A queue with no entry held back goes on (R71, R78). -/
theorem Queue.stalled_eq {x : Queue} (h : x.cqstall = false) : x.stalled = x := by
  unfold Queue.stalled
  simp [h]

/-- A disabled queue stays so. -/
theorem Queue.stalled_disabled {x : Queue} (h : x.st = .disabled) : x.stalled = x := by
  unfold Queue.stalled
  simp [h]

@[simp] theorem Queue.stalled_enable (x : Queue) : x.stalled.enable = x.enable := by
  unfold Queue.stalled
  split <;> rfl

@[simp] theorem Queue.stalled_ladder (x : Queue) : x.stalled.ladder = x.ladder := by
  unfold Queue.stalled
  split <;> rfl

end Sys2Proof.Machine
end

section
/-! SUPPORT. Command queues: doorbells, and what enables and disables a queue (R60 to R65). -/

namespace Sys2Proof.Machine

/-! ## Bits under masks -/

/-- Bits [hi:lo] of a conjunction. -/
theorem b64_and (v m : BitVec 64) (hi lo : Nat) : b64 (v &&& m) hi lo = b64 v hi lo &&& b64 m hi lo := by
  simp only [b64, nbits, BitVec.toNat_and, Nat.and_div_two_pow, Nat.and_mod_two_pow]

/-- Bits [hi:lo] of a disjunction. -/
theorem b64_or (v m : BitVec 64) (hi lo : Nat) : b64 (v ||| m) hi lo = b64 v hi lo ||| b64 m hi lo := by
  simp only [b64, nbits, BitVec.toNat_or, Nat.or_div_two_pow, Nat.or_mod_two_pow]

/-- A mask with every bit of a field leaves the field. -/
theorem b64_and_ones (v : BitVec 64) {m : BitVec 64} {hi lo : Nat} (h : b64 m hi lo = 2 ^ (hi + 1 - lo) - 1) :
    b64 (v &&& m) hi lo = b64 v hi lo := by
  rw [b64_and, h, Nat.and_two_pow_sub_one_eq_mod, Nat.mod_eq_of_lt (b64_lt v hi lo)]

/-- The line number in a value of QBASEn (R60). -/
theorem b64_address (v : BitVec 64) : b64 v 63 6 = v.toNat / 64 := by
  have := v.isLt
  simp only [b64, nbits]
  omega

/-- The low bits of a value. -/
theorem b64_low (v : BitVec 64) (hi : Nat) : b64 v hi 0 = v.toNat % 2 ^ (hi + 1) := by
  rw [b64, nbits, Nat.pow_zero, Nat.div_one, Nat.sub_zero]

/-! ## Doorbells (R64, R65) -/

theorem State.doorbell_ignored {s : State} {q : Nat} (h : (s.queue q).st = .disabled ∨ (s.queue q).enable = false)
    (v : BitVec 64) : s.doorbell q v = s := by
  unfold State.doorbell
  rcases h with h | h <;> simp [h]

/-- A write index that is new and lies within the ring announces packets (R65). -/
theorem State.classify_announces {s : State} {q wr : Nat}
    (new : (wr + 2 ^ 32 - (s.queue q).wrseen) % 2 ^ 32 ≠ 0)
    (ahead : 2 ^ ((s.queue q).size + 4) < ((s.queue q).wrseen + 2 ^ 32 - wr) % 2 ^ 32)
    (within : (wr + 2 ^ 32 - (s.queue q).rdidx) % 2 ^ 32 ≤ 2 ^ ((s.queue q).size + 4)) :
    s.classify q wr = s.announce q wr := by
  unfold State.classify
  dsimp only
  rw [if_neg (by simp only [Bool.or_eq_true, decide_eq_true_eq]; omega), if_pos within]

section
variable {s : State} {q b : Nat} (on : (s.queue q).st ≠ .disabled) (enabled : (s.queue q).enable = true)
  (going : (s.queue q).cqstall = false) (read : s.readCtl (s.queue q).addr = (b, false, s)) (good : s.ctlBad b = false)

include going in
/-- The queue once its control block is read (R62). -/
theorem State.bound_queue : (s.updQueue q (fun x => x.bind b)).queue q = (s.queue q).bind b := by
  rw [State.updQueue_queue]
  exact Queue.stalled_eq going

include enabled read good

include on in
/-- A doorbell with a write index only (R64). -/
theorem State.doorbell_index {v : BitVec 64} (hv : b64 v 34 33 = 0) :
    s.doorbell q v = (s.updQueue q (fun x => x.bind b)).classify q (b64 v 31 0) := by
  have h33 : b64 v 33 33 = 0 := by simp only [b64, nbits] at hv ⊢; omega
  have h34 : b64 v 34 34 = 0 := by simp only [b64, nbits] at hv ⊢; omega
  unfold State.doorbell
  simp [on, enabled, read, good, hv, h33, h34]

include on in
/-- A doorbell with RSY and not CLRERR (R64). -/
theorem State.doorbell_rsy {v : BitVec 64} (h33 : b64 v 33 33 = 1) (h34 : b64 v 34 34 = 0) :
    s.doorbell q v = (s.updQueue q (fun x => x.bind b)).updQueue q (fun x => { x with rsy := true }) := by
  have hv : b64 v 34 33 ≠ 0 := by simp only [b64, nbits] at h33 ⊢; omega
  unfold State.doorbell
  simp [on, enabled, read, good, hv, h33, h34]

include going

/-- A doorbell with CLRERR and not RSY, of a queue in state ERROR (R64). -/
theorem State.doorbell_clrerr {v : BitVec 64} (h33 : b64 v 33 33 = 0) (h34 : b64 v 34 34 = 1) (error : (s.queue q).st = .error) :
    s.doorbell q v = (s.updQueue q (fun x => x.bind b)).updQueue q
      (fun x => { x with err := 0, st := x.awake, hold := false, wait := none }) := by
  have hv : b64 v 34 33 ≠ 0 := by simp only [b64, nbits] at h34 ⊢; omega
  have still : ((s.queue q).bind b).st = .error := error
  unfold State.doorbell
  simp [error, enabled, read, good, hv, h33, h34, State.bound_queue going, still]

include on in
/-- DOORBELL with a write index in the ring (R64, R65). -/
theorem State.doorbell_announced {v : BitVec 64} (hv : b64 v 34 33 = 0)
    (new : (b64 v 31 0 + 2 ^ 32 - (s.queue q).wrseen) % 2 ^ 32 ≠ 0)
    (ahead : 2 ^ (nbits b 67 64 + 4) < ((s.queue q).wrseen + 2 ^ 32 - b64 v 31 0) % 2 ^ 32)
    (within : (b64 v 31 0 + 2 ^ 32 - (s.queue q).rdidx) % 2 ^ 32 ≤ 2 ^ (nbits b 67 64 + 4)) :
    (s.doorbell q v).queue q = { (s.queue q).bind b with
      wrseen := b64 v 31 0, st := if (s.queue q).st = .idle then .ready else (s.queue q).st } := by
  have read_ := State.bound_queue (b := b) going
  rw [State.doorbell_index on enabled read good hv, State.classify_announces (by rwa [read_]) (by rwa [read_]) (by rwa [read_]),
    State.announce, State.updQueue_queue, read_, Nat.mod_eq_of_lt (b64_lt v 31 0)]
  exact Queue.stalled_eq going

include on in
/-- DOORBELL_RSY (R64). -/
theorem State.doorbell_asks {v : BitVec 64} (h33 : b64 v 33 33 = 1) (h34 : b64 v 34 34 = 0) :
    (s.doorbell q v).queue q = { (s.queue q).bind b with rsy := true } := by
  rw [State.doorbell_rsy on enabled read good h33 h34, State.updQueue_queue, State.bound_queue going]
  exact Queue.stalled_eq going

/-- DOORBELL_CLRERR (R64). -/
theorem State.doorbell_clears {v : BitVec 64} (h33 : b64 v 33 33 = 0) (h34 : b64 v 34 34 = 1) (error : (s.queue q).st = .error) :
    (s.doorbell q v).queue q =
      { (s.queue q).bind b with err := 0, st := (s.queue q).awake, hold := false, wait := none } := by
  rw [State.doorbell_clrerr enabled going read good h33 h34 error, State.updQueue_queue, State.bound_queue going]
  exact Queue.stalled_eq going

end

theorem Queue.awake_eq (x : Queue) : x.awake = if x.rdidx = x.wrseen ∧ x.bound = none then .idle else .ready := by
  unfold Queue.awake
  simp

/-! ## Enabling and disabling (R60) -/

/-- A queue as QUEUE_ENABLE finds it with control block b at addr, which is well formed (R60). -/
def Queue.enabledAt (x : Queue) (addr b : Nat) (owes : Bool) : Queue :=
  ({ x with
    addr := addr, enable := true, rdidx := nbits b 159 128, wrseen := nbits b 159 128, st := .idle, err := 0, cqstall := owes
    hold := false, rsy := false, lane := none, parsed := 0, ladder := none, wait := none, bound := none, used := true }).bind b

theorem State.letGo_queue (s : State) (q k : Nat) : (s.letGo q).queue k = s.queue k := by
  unfold State.letGo State.wantPass
  split
  · split <;> rfl
  · rfl

theorem State.KulKept.queue {s t : State} (h : s.KulKept t) (k : Nat) : t.queue k = s.queue k := by
  unfold State.queue
  rw [h.kul]

/-- Queue q is x, and WAIT packets of it wait no longer. -/
def State.renewQueue (s : State) (q : Nat) (x : Queue) : State :=
  ({ s with kul := { s.kul with queues := mput s.kul.queues q x } } : State).dropWaits q

/-- The control block of a queue is read, well formed and clean, while a bundle runs (R60). -/
theorem State.enableQueue_eq {s : State} {addr b : Nat} (q : Nat) (running : s.boot.running = true)
    (read : s.readCtl addr = (b, false, s)) (good : s.ctlBad b = false) :
    s.enableQueue q addr = ((s.renewQueue q ((s.queue q).enabledAt addr b (s.owes q))).syncQ q).letGo q := by
  unfold State.enableQueue
  simp only [running, Bool.not_true, Bool.false_eq_true, if_false, read, good, Bool.false_or]
  exact if_neg (Bool.eq_false_iff.mp good)

theorem State.enableQueue_queue {s : State} {addr b : Nat} (q : Nat) (running : s.boot.running = true)
    (read : s.readCtl addr = (b, false, s)) (good : s.ctlBad b = false) :
    (s.enableQueue q addr).queue q = (s.queue q).enabledAt addr b (s.owes q) := by
  rw [State.enableQueue_eq q running read good, State.letGo_queue, (State.syncQ_kulKept ..).queue]
  exact mgetD_mput_same ..

theorem State.writeQbase_enables {s : State} {q : Nat} (off : (s.queue q).enable = false) (v : BitVec 64) :
    s.writeQbase q (v ||| 1#64) = s.enableQueue q (v.toNat / 64 * 64) := by
  have bit : b64 (v ||| 1#64) 0 0 = 1 := by
    rw [b64_or]
    have := b64_lt v 0 0
    interval_cases b64 v 0 0 <;> rfl
  have addr : b64 (v ||| 1#64) 63 6 = v.toNat / 64 := by
    rw [b64_or, show b64 1#64 63 6 = 0 from rfl, Nat.or_zero, b64_address]
  unfold State.writeQbase
  simp only [off, bit, addr, Bool.false_eq_true, if_false, if_true]

theorem State.writeQbase_disables {s : State} {q : Nat} (on : (s.queue q).enable = true) (v : BitVec 64) :
    s.writeQbase q (v &&& ~~~1#64) = s.disableQueue q := by
  have bit : b64 (v &&& ~~~1#64) 0 0 = 0 := by rw [b64_and, show b64 (~~~1#64) 0 0 = 0 from rfl, Nat.and_zero]
  unfold State.writeQbase
  simp only [on, bit, if_true]

/-- A queue is disabled at once when no launch of it is in flight and no ladder runs (R60). -/
theorem State.disableQueue_queue {s : State} {q : Nat} (none_ : ∀ e ∈ s.launches, e.2.queue ≠ q)
    (quiet : (s.queue q).ladder = none) :
    ((s.disableQueue q).queue q).enable = false ∧ ((s.disableQueue q).queue q).st = .disabled := by
  have idle : (s.updQueue q (fun x => { x with enable := false })).inflight q = 0 := by
    unfold State.inflight
    rw [State.updQueue_launches, List.length_eq_zero_iff, List.filter_eq_nil_iff]
    intro e he
    simpa using none_ e he
  have still : ((s.updQueue q (fun x => { x with enable := false })).queue q).ladder = none := by simp [quiet]
  have kept : ∀ u : State, (u.dropWaits q).queue q = u.queue q := fun _ => rfl
  unfold State.disableQueue
  simp only [idle, still, Nat.lt_irrefl, Option.isSome_none, decide_false, Bool.or_self, Bool.false_eq_true, if_false]
  rw [State.updQueue_queue, Queue.stalled_disabled rfl, kept, State.updQueue_queue]
  exact ⟨Queue.stalled_enable _, rfl⟩

end Sys2Proof.Machine
end

section
/-! SUPPORT. Completion queues: their registers and their interrupts (R78, R80). -/

namespace Sys2Proof.Machine

@[simp] theorem State.setCq_cq (s : State) (c : Nat) (x : Cq) : (s.setCq c x).cq c = x := mgetD_mput_same ..

/-! ## Registers of a completion queue (R78) -/

/-- Freeing and blocking queues leaves the completion queues. -/
theorem State.cqStalls_cqs (s : State) : s.cqStalls.kul.cqs = s.kul.cqs :=
  List.foldlRecOn (motive := fun t : State => t.kul.cqs = s.kul.cqs) _ _ rfl (fun t ht e _ => by
    split
    · exact ht
    · rw [State.updQueue_kul]; exact ht)

/-- Without coalescing no interrupt is due (R80). -/
theorem State.coalesce_off {s : State} {c : Nat} (h : b64 (s.cq c).coal 24 24 = 0) : s.coalesce c = s := by
  unfold State.coalesce
  simp [h]

theorem State.cqDrain_empty {s : State} {c : Nat} (h : (s.cq c).items = []) (n : Nat) : s.cqDrain c n = s := by
  cases n with
  | zero => rfl
  | succ n => simp [State.cqDrain, h]

/-- A completion queue that holds no entry, and does not coalesce, has nothing to write or send (R78, R80). -/
theorem State.setCq_cqKick_cq (s : State) {c : Nat} {x : Cq} (items : x.items = []) (coal : b64 x.coal 24 24 = 0) :
    ((s.setCq c x).cqKick c).cq c = x := by
  have kick : (s.setCq c x).cqKick c = (s.setCq c x).cqStalls := by
    unfold State.cqKick
    rw [State.coalesce_off (by simpa using coal), State.cqDrain_empty (by simpa using items)]
  rw [kick, State.cq, State.cqStalls_cqs]
  exact mgetD_mput_same ..

section
variable {s : State} {c : Nat} (items : (s.cq c).items = []) (coal : b64 (s.cq c).coal 24 24 = 0)
include items coal

/-- CQ_ENABLE with a size within bounds (R78). -/
theorem State.writeCqcfg_enables (v : BitVec 64) (size : b64 v 4 0 ≤ 16) :
    (s.writeCqcfg c (setBits v 32 32 1)).cq c = { s.cq c with
      cfg := setBits v 32 32 1 &&& 0x1FFFF001F#64, head := 0, tail := 0, phase := true } := by
  have kept : b64 (setBits v 32 32 1) 4 0 = b64 v 4 0 := b64_setBits_other v 1 (by decide) (by decide) (by decide)
  have set : b64 (setBits v 32 32 1) 32 32 = 1 := b64_setBits_same v 1 (by decide) (by decide)
  unfold State.writeCqcfg
  dsimp only
  rw [if_neg (by omega), if_pos set]
  exact s.setCq_cqKick_cq items coal

/-- CQHEAD_WRITE (R78). -/
theorem State.writeCqhead_cq (v : BitVec 64) : (s.writeCqhead c v).cq c = { s.cq c with head := b64 v 31 0 } :=
  s.setCq_cqKick_cq items coal

end

/-! ## Interrupts (R80) -/

theorem State.interrupt_held {s : State} {n : Nat} (h : s.links.pci.holds n = true) :
    (s.interrupt n).links.out = s.links.out ∧ n ∈ (s.interrupt n).links.pci.pend := by
  unfold State.interrupt
  dsimp only
  rw [if_pos h]
  refine ⟨rfl, ?_⟩
  change n ∈ if s.links.pci.pend.contains n then s.links.pci.pend else insertBy (fun x => x) n s.links.pci.pend
  split
  · next pending => simpa using pending
  · rw [mem_insertBy]; exact .inl rfl

theorem State.interrupt_sent {s : State} {n : Nat} (h : s.links.pci.holds n = false) (host : s.links.sl15 = true) :
    s.interrupt n = s.send (.host (s.links.pci.message n)) := by
  unfold State.interrupt
  dsimp only
  rw [h, if_neg Bool.false_ne_true, State.toHost_direct host]

/-- An interrupt changes the links only. -/
theorem State.interrupt_only (s : State) (n : Nat) : ∃ l, s.interrupt n = { s with links := l } := by
  unfold State.interrupt State.toHost
  dsimp only
  split
  · exact ⟨_, rfl⟩
  · split
    · exact ⟨_, rfl⟩
    · split
      · exact ⟨_, rfl⟩
      · exact ⟨s.links, rfl⟩

/-- The timer of a completion queue has run out (R80). -/
def State.CoalesceDue (s : State) (x : Cq) : Prop :=
  b64 x.coal 24 24 = 1 ∧ b64 x.coal 23 8 ≠ 0 ∧ 1 ≤ x.p ∧ x.first + b64 x.coal 23 8 * 16000 ≤ s.time

theorem State.coalesceDue_iff (s : State) (x : Cq) : s.CoalesceDue x ↔ (b64 x.coal 24 24 = 1 && b64 x.coal 23 8 ≠ 0 &&
    1 ≤ x.p && x.first + b64 x.coal 23 8 * 16000 ≤ s.time) = true := by
  simp only [State.CoalesceDue, Bool.and_eq_true, decide_eq_true_eq, and_assoc]

theorem cqCoalesceTimer_early {s : State} {c : BitVec 8} (h : ¬ s.CoalesceDue (s.cq c.toNat)) :
    exec (.cqCoalesceTimer c) s = .next s := by
  rw [State.coalesceDue_iff] at h
  exact congrArg Host.Outcome.next (if_neg h)

theorem cqCoalesceTimer_due {s : State} {c : BitVec 8} (h : s.CoalesceDue (s.cq c.toNat)) :
    exec (.cqCoalesceTimer c) s =
      .next ((s.setCq c.toNat { s.cq c.toNat with p := 0 }).interrupt (b64 (s.cq c.toNat).cfg 26 16)) := by
  rw [State.coalesceDue_iff] at h
  exact congrArg Host.Outcome.next (if_pos h)

/-- CQ_COALESCE_TIMER at its time: the vector's message, or its pending bit while it is held back (R80). -/
theorem cqCoalesceTimer_interrupts {s : State} {c : BitVec 8} (h : s.CoalesceDue (s.cq c.toNat)) :
    let n := b64 (s.cq c.toNat).cfg 26 16
    ∃ t, exec (.cqCoalesceTimer c) s = .next t ∧ t.cq c.toNat = { s.cq c.toNat with p := 0 } ∧ t.mm = s.mm ∧
      (s.links.pci.holds n = false → s.links.sl15 = true →
        t.links = { s.links with out := s.links.out ++ [.host (.msix n (s.links.pci.vector n).1 (s.links.pci.vector n).2.1)] }) ∧
      (s.links.pci.holds n = true → t.links.out = s.links.out ∧ n ∈ t.links.pci.pend) := by
  intro n
  obtain ⟨l, only⟩ := (s.setCq c.toNat { s.cq c.toNat with p := 0 }).interrupt_only n
  refine ⟨_, cqCoalesceTimer_due h, ?_, by rw [only]; rfl, fun open_ host => ?_, fun held => State.interrupt_held held⟩
  · rw [only]
    exact State.setCq_cq ..
  · rw [State.interrupt_sent (s := s.setCq c.toNat { s.cq c.toNat with p := 0 }) open_ host]
    rfl

end Sys2Proof.Machine
end

section
/-! SUPPORT. Partitions and cores (R91), and the registers that the host and the board controller reach (R23, R30, R59). -/

namespace Sys2Proof.Machine

/-! ## CPART (R91) -/

/-- Registers and memory are in t as they are in s. -/
structure State.RegsKept (s t : State) : Prop where
  regs : t.regs = s.regs
  mm   : t.mm = s.mm

theorem State.RegsKept.trans {s t u : State} (h : s.RegsKept t) (h' : t.RegsKept u) : s.RegsKept u :=
  ⟨h'.regs.trans h.regs, h'.mm.trans h.mm⟩

theorem State.wantPass_regsKept (s : State) (p : Nat) : s.RegsKept (s.wantPass p) := by
  unfold State.wantPass
  split <;> exact ⟨rfl, rfl⟩

theorem State.endUnfit_regsKept (s : State) (p : Nat) : s.RegsKept (s.endUnfit p) :=
  List.foldlRecOn _ _ ⟨rfl, rfl⟩ (fun t ht e _ => by
    split
    · exact ht.trans ⟨rfl, rfl⟩
    · exact ht)

/-- An accepted CPART value is stored, whatever launches it ends and passes it calls for (R91, R92). -/
theorem State.setCpart_regsKept (s : State) (n : Nat) (v : BitVec 64) :
    (s.setReg (0x100 + n) v).RegsKept (s.setCpart n v) :=
  List.foldlRecOn _ _ ⟨rfl, rfl⟩ (fun t ht p _ => ht.trans ((t.endUnfit_regsKept p).trans (State.wantPass_regsKept ..)))

theorem State.writeCpart_refused {s : State} {n : Nat} (hn : n < 192) (busy : s.wgsOn n ≠ []) (v : BitVec 64) :
    s.writeCpart n v = s.setFld 0x1D 0 0 1 := by
  unfold State.writeCpart
  rw [if_neg (by omega), List.isEmpty_eq_false_iff.mpr busy]
  rfl

theorem State.writeCpart_taken {s : State} {n : Nat} (hn : n < 192) (idle : s.wgsOn n = []) (free : s.kul.anchors = [])
    (v : BitVec 64) : s.writeCpart n v = s.setCpart n (v &&& 0x1F#64) := by
  unfold State.writeCpart State.anchored
  rw [if_neg (by omega), idle, free]
  rfl

theorem cpartWrite_taken {s : State} {n : BitVec 8} (hn : n.toNat < 192) (idle : s.wgsOn n.toNat = [])
    (free : s.kul.anchors = []) (v : BitVec 64) :
    ∃ t, exec (.cpartWrite n v) s = .next t ∧ t.reg (0x100 + n.toNat) = (v &&& 0x1F#64) ∧ t.mm = s.mm := by
  obtain ⟨regs, mm⟩ := s.setCpart_regsKept n.toNat (v &&& 0x1F#64)
  refine ⟨_, congrArg Host.Outcome.next (State.writeCpart_taken hn idle free v), ?_, mm⟩
  unfold State.reg
  rw [regs]
  exact mgetD_mput_same ..

/-! ## PARTCTL (R91) -/

/-- A value of PARTCTLn is refused: its range of events ends past the last, overlaps another partition's, or changes while a
queue of the partition is enabled (R91). -/
def State.PartctlRefused (s : State) (n : Nat) (x : BitVec 64) : Prop :=
  65536 < b64 x 15 0 + b64 x 48 32 ∨
    (∃ k < 16, k ≠ n ∧ 0 < b64 x 48 32 ∧ 0 < s.fld (0x40 + k) 48 32 ∧ b64 x 15 0 < s.fld (0x40 + k) 15 0 + s.fld (0x40 + k) 48 32 ∧
      s.fld (0x40 + k) 15 0 < b64 x 15 0 + b64 x 48 32) ∨
    (s.fld (0x40 + n) 48 0 ≠ b64 x 48 0 ∧ ∃ e ∈ s.kul.queues, e.2.enable = true ∧ e.2.part = n)

/-- The overlap of a range that is written with another partition's. -/
theorem State.evOverlap_setReg (s : State) (x : BitVec 64) {n k : Nat} (h : k ≠ n) :
    (s.setReg (0x40 + n) x).evOverlap n k = true ↔ 0 < b64 x 48 32 ∧ 0 < s.fld (0x40 + k) 48 32 ∧
      b64 x 15 0 < s.fld (0x40 + k) 15 0 + s.fld (0x40 + k) 48 32 ∧ s.fld (0x40 + k) 15 0 < b64 x 15 0 + b64 x 48 32 := by
  have own : ∀ hi lo, (s.setReg (0x40 + n) x).fld (0x40 + n) hi lo = b64 x hi lo := fun hi lo => by
    rw [State.fld, State.reg_setReg_same]
  have other : ∀ hi lo, (s.setReg (0x40 + n) x).fld (0x40 + k) hi lo = s.fld (0x40 + k) hi lo := fun hi lo => by
    rw [State.fld, State.reg_setReg_other _ _ (by omega), State.fld]
  unfold State.evOverlap
  simp only [own, other, Bool.and_eq_true, decide_eq_true_eq, and_assoc]

theorem State.partctlRefused_iff (s : State) (n : Nat) (x : BitVec 64) : s.PartctlRefused n x ↔
    (65536 < b64 x 15 0 + b64 x 48 32 || (upto 16).any (fun q => q != n && (s.setReg (0x40 + n) x).evOverlap n q) ||
      (s.fld (0x40 + n) 48 0 ≠ b64 x 48 0 && s.kul.queues.any (fun e => e.2.enable && e.2.part == n))) = true := by
  have overlaps : ∀ k, (k ≠ n ∧ (s.setReg (0x40 + n) x).evOverlap n k = true) ↔ (k ≠ n ∧ 0 < b64 x 48 32 ∧
      0 < s.fld (0x40 + k) 48 32 ∧ b64 x 15 0 < s.fld (0x40 + k) 15 0 + s.fld (0x40 + k) 48 32 ∧
      s.fld (0x40 + k) 15 0 < b64 x 15 0 + b64 x 48 32) := fun k => and_congr_right (s.evOverlap_setReg x)
  simp only [State.PartctlRefused, Bool.or_eq_true, Bool.and_eq_true, decide_eq_true_eq, List.any_eq_true, bne_iff_ne, upto,
    List.mem_range, beq_iff_eq, overlaps, or_assoc]

theorem State.writePartctl_refused {s : State} {n : Nat} {v : BitVec 64}
    (h : s.PartctlRefused n (v &&& 0xF001FFFF0000FFFF#64)) : s.writePartctl n v = s.setFld 0x1D 1 1 1 :=
  if_pos ((s.partctlRefused_iff n _).mp h)

theorem State.writePartctl_taken {s : State} {n : Nat} {v : BitVec 64}
    (h : ¬ s.PartctlRefused n (v &&& 0xF001FFFF0000FFFF#64)) :
    s.writePartctl n v = s.setReg (0x40 + n) (v &&& 0xF001FFFF0000FFFF#64) :=
  if_neg (mt (s.partctlRefused_iff n _).mpr h)

/-! ## The BAR0 map (R59) -/

theorem State.bar0Write_misaligned (s : State) {off : Nat} (h : off % 8 ≠ 0) (v : BitVec 64) : s.bar0Write off v = s := if_pos h

theorem State.bar0Write_doorbell (s : State) {off : Nat} (aligned : off % 8 = 0) (h : off < 0x2000) (v : BitVec 64) :
    s.bar0Write off v = s.doorbell (off / 8) v := by
  unfold State.bar0Write
  rw [if_neg (not_not_intro aligned), if_pos h]

theorem State.bar0Write_sysReg (s : State) {off : Nat} (aligned : off % 8 = 0) (h : 0x10000 ≤ off) (h' : off < 0x20000)
    (v : BitVec 64) : s.bar0Write off v = s.sysWrite ((off - 0x10000) / 8) v := by
  unfold State.bar0Write
  rw [if_neg (not_not_intro aligned), if_neg (by omega), if_neg (by omega), if_neg (by omega), if_neg (by omega),
    if_neg (by omega), if_neg (by omega), if_pos ⟨h, h'⟩]

/-- The host writes a register of BAR0 in D0 with power on and a packet whose ECRC fits (R23, R59). -/
theorem registerWrite_host {s : State} (on : s.power.st ≠ .off) (d0 : s.links.pci.d3hot = false) {e : Bool}
    (fits : e = true ∨ s.links.pci.ecrcChk = false) (off : Nat) (v : BitVec 64) :
    exec (.registerWrite ⟨.host, .bar0 off, e⟩ v) s = .next (s.bar0Write off v) := by
  have reached : s.reaches (.bar0 off) = true := by simp [State.reaches, d0]
  exact congrArg Host.Outcome.next ((State.taken_accepted fits _).trans (if_pos ⟨on, reached⟩))

/-- A register write of the host whose ECRC does not fit (R23). -/
theorem registerWrite_badEcrc {s : State} (on : s.power.st ≠ .off) (checks : s.links.pci.ecrcChk = true) (r : HostReg)
    (v : BitVec 64) : exec (.registerWrite ⟨.host, r, false⟩ v) s = .next (s.aerSet 19) :=
  congrArg Host.Outcome.next (State.taken_refused on checks _)

/-- The board controller writes a system register while the main input is present (R30, R421). -/
theorem registerWrite_sideband {s : State} (on : s.power.st ≠ .off) (input : s.power.input = true) {off : Nat}
    (h : 0x10000 ≤ off) (h' : off < 0x20000) (e : Bool) (v : BitVec 64) :
    exec (.registerWrite ⟨.sideband, .bar0 off, e⟩ v) s = .next (s.bar0Write off v) :=
  congrArg Host.Outcome.next (if_pos ⟨on, input, decide_eq_true ⟨h, h'⟩⟩)

theorem registerWrite_sideband_noInput {s : State} (input : s.power.input = false) (r : HostReg) (e : Bool) (v : BitVec 64) :
    exec (.registerWrite ⟨.sideband, r, e⟩ v) s = .next s :=
  congrArg Host.Outcome.next (if_neg (fun h => Bool.false_ne_true (input.symm.trans h.2.1)))

end Sys2Proof.Machine
end

section
/-! SUPPORT. What the events of queues, partitions and registers leave, in the words of their statement. -/

namespace Sys2Proof.Machine

/-! ## Command queues (R60 to R65) -/

theorem doorbells_ignored {s : State} {q : BitVec 10} {v : BitVec 64}
    (h : (s.queue q.toNat).st = .disabled ∨ (s.queue q.toNat).enable = false) :
    ∀ i ∈ [Instr.doorbell q v, .doorbellRsy q v, .doorbellClrerr q v], exec i s = .next s := by
  simp only [List.mem_cons, List.not_mem_nil, or_false]
  rintro i (rfl | rfl | rfl)
  · exact congrArg Host.Outcome.next (State.doorbell_ignored h _)
  · exact congrArg Host.Outcome.next (State.doorbell_ignored h _)
  · exact congrArg Host.Outcome.next (State.doorbell_ignored h _)

section
variable {s : State} {q : BitVec 10} {v : BitVec 64} {b : Nat} (on : (s.queue q.toNat).st ≠ .disabled)
  (enabled : (s.queue q.toNat).enable = true) (going : (s.queue q.toNat).cqstall = false)
  (read : s.readCtl (s.queue q.toNat).addr = (b, false, s)) (good : s.ctlBad b = false)
include enabled going read good

include on in
theorem doorbell_announces (plain : b64 v 34 33 = 0)
    (ahead : 2 ^ (nbits b 67 64 + 4) < ((s.queue q.toNat).wrseen + 2 ^ 32 - v.toNat % 2 ^ 32) % 2 ^ 32)
    (new : (v.toNat % 2 ^ 32 + 2 ^ 32 - (s.queue q.toNat).wrseen) % 2 ^ 32 ≠ 0)
    (within : (v.toNat % 2 ^ 32 + 2 ^ 32 - (s.queue q.toNat).rdidx) % 2 ^ 32 ≤ 2 ^ (nbits b 67 64 + 4)) :
    ∃ t, exec (.doorbell q v) s = .next t ∧ (t.queue q.toNat).wrseen = v.toNat % 2 ^ 32 ∧
      (t.queue q.toNat).st = (if (s.queue q.toNat).st = .idle then .ready else (s.queue q.toNat).st) ∧
      (t.queue q.toNat).rdidx = (s.queue q.toNat).rdidx := by
  rw [← b64_low v 31] at ahead new within ⊢
  refine ⟨_, rfl, ?_⟩
  rw [State.doorbell_announced on enabled going read good plain new ahead within]
  exact ⟨rfl, rfl, rfl⟩

include on in
theorem doorbellRsy_asks (held : b64 v 34 34 = 0) :
    ∃ t, exec (.doorbellRsy q v) s = .next t ∧ (t.queue q.toNat).rsy = true ∧
      (t.queue q.toNat).st = (s.queue q.toNat).st ∧ (t.queue q.toNat).wrseen = (s.queue q.toNat).wrseen := by
  have set : b64 (setBits v 33 33 1) 33 33 = 1 := b64_setBits_same v 1 (by decide) (by decide)
  have kept : b64 (setBits v 33 33 1) 34 34 = 0 := by rw [b64_setBits_other v 1 (by decide) (by decide) (by decide), held]
  refine ⟨_, rfl, ?_⟩
  rw [State.doorbell_asks on enabled going read good set kept]
  exact ⟨rfl, rfl, rfl⟩

theorem doorbellClrerr_clears (error : (s.queue q.toNat).st = .error) (plain : b64 v 33 33 = 0) :
    ∃ t, exec (.doorbellClrerr q v) s = .next t ∧ (t.queue q.toNat).err = 0 ∧ (t.queue q.toNat).st =
      (if (s.queue q.toNat).rdidx = (s.queue q.toNat).wrseen ∧ (s.queue q.toNat).bound = none then .idle else .ready) := by
  have set : b64 (setBits v 34 34 1) 34 34 = 1 := b64_setBits_same v 1 (by decide) (by decide)
  have kept : b64 (setBits v 34 34 1) 33 33 = 0 := by rw [b64_setBits_other v 1 (by decide) (by decide) (by decide), plain]
  refine ⟨_, rfl, ?_⟩
  rw [State.doorbell_clears enabled going read good kept set error, ← Queue.awake_eq]
  exact ⟨rfl, rfl⟩

end

theorem queueEnable_enables {s : State} {q : BitVec 10} {v : BitVec 64} {b : Nat} (good : s.ctlBad b = false)
    (running : s.boot.running = true) (off : (s.queue q.toNat).enable = false)
    (read : s.readCtl (v.toNat / 64 * 64) = (b, false, s)) :
    ∃ t, exec (.queueEnable q v) s = .next t ∧ (t.queue q.toNat).enable = true ∧ (t.queue q.toNat).st = .idle ∧
      (t.queue q.toNat).rdidx = b / 2 ^ 128 % 2 ^ 32 ∧ (t.queue q.toNat).wrseen = b / 2 ^ 128 % 2 ^ 32 ∧
      (t.queue q.toNat).ring = b % 2 ^ 64 ∧ (t.queue q.toNat).part = b / 2 ^ 68 % 16 ∧ (t.queue q.toNat).err = 0 := by
  have ring : nbits b 63 0 = b % 2 ^ 64 := by rw [nbits, Nat.pow_zero, Nat.div_one]
  refine ⟨_, congrArg Host.Outcome.next (State.writeQbase_enables off v), ?_⟩
  rw [State.enableQueue_queue q.toNat running read good]
  exact ⟨rfl, rfl, rfl, rfl, ring, rfl, rfl⟩

theorem queueDisable_disables {s : State} {q : BitVec 10} (v : BitVec 64) (on : (s.queue q.toNat).enable = true)
    (none_ : ∀ e ∈ s.launches, e.2.queue ≠ q.toNat) (quiet : (s.queue q.toNat).ladder = none) :
    ∃ t, exec (.queueDisable q v) s = .next t ∧ (t.queue q.toNat).enable = false ∧ (t.queue q.toNat).st = .disabled :=
  ⟨_, congrArg Host.Outcome.next (State.writeQbase_disables on v), State.disableQueue_queue none_ quiet⟩

/-! ## Completion queues (R78) -/

theorem cqEnable_enables {s : State} {c : BitVec 8} {v : BitVec 64} (items : (s.cq c.toNat).items = [])
    (coal : b64 (s.cq c.toNat).coal 24 24 = 0) (size : v.toNat % 32 ≤ 16) :
    ∃ t, exec (.cqEnable c v) s = .next t ∧ (t.cq c.toNat).head = 0 ∧ (t.cq c.toNat).tail = 0 ∧
      (t.cq c.toNat).phase = true ∧ b64 (t.cq c.toNat).cfg 32 32 = 1 ∧ b64 (t.cq c.toNat).cfg 4 0 = v.toNat % 32 := by
  have low : b64 v 4 0 = v.toNat % 32 := b64_low v 4
  have set : b64 (setBits v 32 32 1 &&& 0x1FFFF001F#64) 32 32 = 1 :=
    (b64_and_ones _ (by decide)).trans (b64_setBits_same v 1 (by decide) (by decide))
  have kept : b64 (setBits v 32 32 1 &&& 0x1FFFF001F#64) 4 0 = v.toNat % 32 := by
    rw [b64_and_ones _ (by decide), b64_setBits_other v 1 (by decide) (by decide) (by decide), low]
  refine ⟨_, rfl, ?_⟩
  rw [State.writeCqcfg_enables items coal v (by omega)]
  exact ⟨rfl, rfl, rfl, set, kept⟩

theorem cqheadWrite_moves {s : State} {c : BitVec 8} (v : BitVec 64) (items : (s.cq c.toNat).items = [])
    (coal : b64 (s.cq c.toNat).coal 24 24 = 0) :
    ∃ t, exec (.cqheadWrite c v) s = .next t ∧ (t.cq c.toNat).head = v.toNat % 2 ^ 32 ∧
      (t.cq c.toNat).tail = (s.cq c.toNat).tail := by
  refine ⟨_, rfl, ?_⟩
  rw [State.writeCqhead_cq items coal]
  exact ⟨b64_low v 31, rfl⟩

end Sys2Proof.Machine

namespace Sys2Proof.Proofs
open Sys2Proof.Machine

/-- Settles O45: each clause is the lemma about its event. -/
theorem queueEvents : Obligations.QueueEvents := by
  unfold Obligations.QueueEvents
  intro s q v b good
  refine ⟨fun i hi h => doorbells_ignored h i hi, fun on enabled going read => ?doorbells,
    fun running off _ read => queueEnable_enables good running off read, queueDisable_disables v,
    fun c items coal => ⟨cqEnable_enables items coal, cqheadWrite_moves v items coal⟩,
    fun c => ⟨cqCoalesceTimer_interrupts, cqCoalesceTimer_early⟩,
    fun n hn => ⟨fun idle free => cpartWrite_taken hn idle free v,
      fun busy => congrArg Host.Outcome.next (State.writeCpart_refused hn busy v)⟩,
    fun n => ⟨fun bad => congrArg Host.Outcome.next (State.writePartctl_refused bad),
      fun ok => congrArg Host.Outcome.next (State.writePartctl_taken ok)⟩,
    fun off e powered => ⟨fun d0 fits => ?host, fun checks => ?badEcrc, fun input aligned lo hi => ?sideband,
      fun input => registerWrite_sideband_noInput input _ e v⟩⟩
  case doorbells =>
    exact ⟨fun plain _ ahead new within => doorbell_announces on enabled going read good plain ahead new within,
      doorbellRsy_asks on enabled going read good, doorbellClrerr_clears enabled going read good⟩
  case host =>
    have written := registerWrite_host powered d0 fits off v
    refine ⟨fun h => ?_, fun aligned lo hi => ?_, fun aligned hi => ?_⟩
    · rw [written, State.bar0Write_misaligned s h]
    · rw [written, State.bar0Write_sysReg s aligned lo hi]
    · rw [written, State.bar0Write_doorbell s aligned hi]
  case badEcrc => exact ⟨_, registerWrite_badEcrc powered checks _ v, s.aerSet_same (by decide), rfl, rfl, rfl⟩
  case sideband => rw [registerWrite_sideband powered input lo hi, State.bar0Write_sysReg s aligned lo hi]

end Sys2Proof.Proofs
end

section
/-! SUPPORT. How a step finds what it runs: the turn, the fetch and the decoding of the split in focus (R106, R268, R269, R275). -/

namespace Sys2Proof.Machine

/-! ## Turns and cycles -/

theorem step_of_turn {s : State} {t : Turn} {rest : List Turn} (h : s.agenda = t :: rest) :
    step s = ({ s with agenda := rest } : State).turn t := by
  unfold step
  rw [h]

theorem step_of_noTurn {s : State} (h : s.agenda = []) (none_ : s.tick.agenda = []) : step s = .next s.tick := by
  unfold step
  rw [h]
  dsimp only
  rw [none_]

theorem step_of_tick {s : State} (h : s.agenda = []) (some_ : s.tick.agenda ≠ []) : step s = step s.tick := by
  obtain ⟨t, rest, ht⟩ := List.exists_cons_of_ne_nil some_
  rw [step_of_turn ht]
  unfold step
  rw [h]
  dsimp only
  rw [ht]

theorem State.tick_clk (s : State) : s.tick.clk = s.clk + 1 := rfl

theorem State.tick_bytes (s : State) : s.tick.mm.bytes = s.mm.bytes := rfl

/-- A core with no FIFO bank takes its turns as they come (R411). -/
theorem State.pick_noFifo {s : State} {core : Nat} (h : s.hasFifo core = false) (sched : Nat) :
    s.pick core sched = (sched, s) := by
  unfold State.pick
  rw [h]
  rfl

/-- What the turn comes to in which place p has issued: nobody issues any more, and a split that is to rotate gives way (R111). -/
def State.turnOver (s : State) (p : Place) :
    Host.Outcome State Fault Refusal → Host.Outcome State Fault Refusal
  | .next t => .next (t.unfocus.updGroup p.g (fun g => g.rotated (s.splitAt p).mask))
  | .fault r => .fault r
  | .refused r => .refused r

/-- The step of a scheduler that selects a split is the split's attempt carried out (R106, R111). -/
theorem step_of_select {s : State} {core sched : Nat} {rest : List Turn} {e : List Place} {stalled : List (Place × Nat)}
    {p : Place} (turn : s.agenda = .issue core sched :: rest) (s0 : State) (k : Nat)
    (picked : ({ s with agenda := rest } : State).pick core sched = (k, s0))
    (eligible : s0.eligible core k = (e, stalled)) (selected : s0.select core k e = some p) :
    step s = s0.turnOver p ((s0.settleTurn core k e stalled (some p)).attempt p.g p.ix).run := by
  rw [step_of_turn turn, State.turn, picked, State.issueTurn, eligible]
  dsimp only
  rw [selected]
  rfl

/-! ## The instruction that a split executes next -/

/-- Without errors in the hardware nothing comes between (R208). -/
theorem State.checked_noFlaw {s : State} (h : s.rel.latent = []) (c : Ctx) (i : Instr) : s.checked c i = .instr i s := by
  unfold State.checked
  simp [h]

theorem State.fetchWord_of_decodes {s v : State} {c x : Ctx} {w : Word} {i : Instr} (here : s.ctx = some c)
    (fetched : s.fetch c c.sp.pc = (.inr w, v)) (decoded : decodeWord w = .ok i) (still : v.ctx = some x) :
    s.fetchWord = v.checked x i := by
  unfold State.fetchWord
  simp only [here, fetched, decoded, still]

/-- At a clause boundary the header is executed, and the first word of the clause is fetched (R269 steps 1 and 3). -/
theorem State.beginClause_of_header {s v v' : State} {c c' : Ctx} {h : Word} (fetched : s.fetch c c.sp.pc = (.inr h, v))
    (header : isHeader h = true) (begun : exec (decHeader h.toNat) v = .next v') (there : v'.ctx = some c')
    (inside : c'.sp.inClause = true) : s.beginClause c = v'.fetchWord := by
  unfold State.beginClause
  simp [fetched, header, begun, there, inside]

section
variable {s : State} {c : Ctx} (here : s.ctx = some c) (free : s.holds c = none) (fresh : c.sp.resume = false)
include here free fresh

theorem State.aimed_inClause (inside : c.sp.inClause = true) : s.aimed = s.fetchWord := by
  unfold State.aimed
  simp [here, free, fresh, inside]

theorem State.aimed_atBoundary (outside : c.sp.inClause = false) : s.aimed = s.beginClause c := by
  unfold State.aimed
  simp [here, free, fresh, outside]

end

/-! ## The word fetched -/

/-- A code line that the core has no copy of and its die owns, read without errors and without an injection (R156, R275). -/
theorem State.codeLine_owned {s : State} {core ln : Nat} (absent : mget? s.mm.icache (copyKey core ln) = none)
    (owned : (s.line ln).owner = some (core / 48)) (noArm : b64 (s.reg 0x27) 0 0 = 0) (noFlaw : s.rel.latent = []) :
    s.codeLine core ln =
      (s.lineData ln, s.setMM { s.mm with icache := mput s.mm.icache (copyKey core ln) (s.lineData ln) }) := by
  have entry : s.checkDir (core / 48) ln = s := by
    unfold State.checkDir State.loseEntry
    rw [State.flaw_none noFlaw, ite_self]
  have read : s.readLine core ln .l2 = (s.lineData ln, s.linePois ln, s) := by
    unfold State.readLine
    simp [entry, owned, Keep.inCore, State.checkOwn_none noFlaw, State.inject_unarmed noArm, flipped]
  unfold State.codeLine
  simp only [absent, read]

/-- A word of a line is the four bytes it holds, least significant first (R1). -/
theorem State.lineWord_eq (s : State) {pa : Nat} (aligned : pa % 4 = 0) :
    (BitVec.ofNat 32 ((s.lineData (pa / 128)).toNat / 2 ^ (8 * (pa % 128)))).toNat =
      (s.byteAt pa).toNat + 256 * (s.byteAt (pa + 1)).toNat + 65536 * (s.byteAt (pa + 2)).toNat +
        16777216 * (s.byteAt (pa + 3)).toNat := by
  have bytes := lineBytes_lineData s (pa / 128) (pa % 128) 4 (by omega)
  rw [show pa / 128 * 128 + pa % 128 = pa by omega] at bytes
  have number := congrArg ofBytesLE bytes
  rw [lineBytes, ofBytesLE_bytesLE] at number
  rw [BitVec.toNat_ofNat, show (2 : Nat) ^ 32 = 256 ^ 4 by norm_num, number]
  simp only [List.range, List.range.loop, List.map_cons, List.map_nil, ofBytesLE, Nat.add_zero, Nat.mul_zero]
  omega

/-- Bytes that decode to an instruction make a word that does (R1). -/
theorem decodeNat_of_decode {a b c d : Byte} {i : Instr} (h : decode [a, b, c, d] = .ok (i, [])) :
    decodeNat (a.toNat + 256 * b.toNat + 65536 * c.toNat + 16777216 * d.toNat) = .ok i := by
  unfold decode at h
  dsimp only at h
  split at h
  · next j hj => cases h; exact hj
  · cases h

/-- The fetch through a page with X of a launch that is not stale (R167, R170, R275). -/
theorem State.fetch_mapped {s : State} {c : Ctx} {pc va : Nat} {t : Trans} (inRange : pc < 2 ^ 22) (live : s.stale c.l = false)
    (at_ : va = c.l.codebase % 2 ^ 60 + 4 * pc) (path : va < 2 ^ 52)
    (mapped : s.translate c.g.core c.l.aspace va = (some t, s)) (exe : t.x = true) :
    s.fetch c pc =
      (.inr (BitVec.ofNat 32 ((s.codeLine c.g.core ((t.base + va % 65536) / 128)).1.toNat /
          2 ^ (8 * ((t.base + va % 65536) % 128)))),
        (s.codeLine c.g.core ((t.base + va % 65536) / 128)).2) := by
  have page : nbits va 59 52 = 0 := by unfold nbits; omega
  subst at_
  unfold State.fetch
  simp only [if_neg (Nat.not_le.mpr inRange), live, page, mapped, exe]
  rfl

end Sys2Proof.Machine

namespace Sys2Proof.Proofs
open Sys2Proof.Machine

/-- Settles O56: the step of a turn is that of the split selected, and what the split runs is what it fetches, decoded. -/
theorem stepRunsTheDecodedInstruction : Obligations.StepRunsTheDecodedInstruction := by
  unfold Obligations.StepRunsTheDecodedInstruction
  refine ⟨fun s core sched rest e stalled p turn => ?selected, fun s core sched h => State.pick_noFifo h sched,
    fun s c i h => State.checked_noFlaw h c i, fun s c t i => ?fetched, fun s e rest h => step_of_turn h,
    fun s h => ⟨step_of_noTurn h, step_of_tick h, s.tick_clk, s.tick_bytes⟩⟩
  case selected =>
    intro s0 k eligible selected u c here free fresh ran
    have runs : ∀ i v, u.aimed = .instr i v → ran i v := by
      intro i v next
      have stepped := step_of_select turn s0 k rfl eligible selected
      rw [show State.attempt _ p.g p.ix = .instr i v from next, Ready.run] at stepped
      dsimp only [ran]
      split <;> next h => exact stepped.trans (congrArg (s0.turnOver p) h)
    refine ⟨fun w v i x t inside fetched decoded still ready => runs i t ?_,
      fun h v v' c' w v'' i x t outside fetched header begun there inside fetched' decoded still ready => runs i t ?_⟩
    · rw [State.aimed_inClause here free fresh inside, State.fetchWord_of_decodes here fetched decoded still, ready]
    · rw [State.aimed_atBoundary here free fresh outside, State.beginClause_of_header fetched header begun there inside,
        State.fetchWord_of_decodes there fetched' decoded still, ready]
  case fetched =>
    intro inRange live va pa path mapped exe aligned absent owned noArm noFlaw bytes
    have fetched := State.fetch_mapped inRange live rfl path mapped exe
    rw [State.codeLine_owned absent owned noArm noFlaw] at fetched
    refine ⟨_, _, fetched, ?_, rfl, fun _ => rfl⟩
    rw [decodeWord, s.lineWord_eq aligned]
    exact decodeNat_of_decode bytes

end Sys2Proof.Proofs
end

section
/-! SUPPORT. Keyed collections and lists of numbers: what is in them, and what a read of them gives. -/

namespace Sys2Proof.Machine

/-- The entry of a key in a collection whose keys rise. -/
theorem mget?_of_mem {α : Type} {m : Map α} (rise : (mkeys m).Pairwise (· < ·)) {e : Nat × α} (h : e ∈ m) :
    mget? m e.1 = some e.2 := by
  induction m with
  | nil => cases h
  | cons f r ih =>
    obtain ⟨k, v⟩ := f
    obtain ⟨below, rest⟩ := List.pairwise_cons.mp rise
    simp only [mget?]
    rcases List.mem_cons.mp h with rfl | h
    · rw [if_pos rfl]
    · rw [if_neg (Nat.ne_of_gt (below _ (List.mem_map_of_mem h))), ih rest h]

/-- A write of one key leaves the entries of the others. -/
theorem mem_mput_other {α : Type} {m : Map α} {n : Nat} {e : Nat × α} (a : α) (h : e ∈ m) (other : e.1 ≠ n) :
    e ∈ mput m n a := by
  induction m with
  | nil => cases h
  | cons f r ih =>
    simp only [mput]
    split
    · exact List.mem_cons_of_mem _ h
    · split
      · next eq => exact List.mem_cons_of_mem _ ((List.mem_cons.mp h).resolve_left (fun he => other (by rw [he, eq])))
      · exact List.mem_cons.mpr ((List.mem_cons.mp h).imp_right ih)

theorem mem_mupd_other {α : Type} {m : Map α} {n : Nat} {e : Nat × α} (f : α → α) (h : e ∈ m) (other : e.1 ≠ n) :
    e ∈ mupd m n f := by
  unfold mupd
  split
  · exact mem_mput_other _ h other
  · exact h

theorem mem_dedup {l : List Nat} {x : Nat} (h : x ∈ l) : x ∈ dedup l := by
  have kept : ∀ (l acc : List Nat), x ∈ acc ∨ x ∈ l →
      x ∈ l.foldl (fun acc x => if acc.contains x then acc else acc ++ [x]) acc := by
    intro l
    induction l with
    | nil => exact fun acc h => h.elim id (fun h => absurd h List.not_mem_nil)
    | cons y l ih =>
      intro acc h
      rw [List.foldl_cons]
      refine ih _ ?_
      rw [List.mem_cons] at h
      split
      · next has => rcases h with h | rfl | h <;> simp_all
      · rcases h with h | rfl | h <;> simp_all
  exact kept l [] (.inr h)

end Sys2Proof.Machine
end

section
/-! SUPPORT. What no move of a line, no error and no report changes: which launches and gangs there are, which gangs are saved, and
the workgroups whose groups are on cores (R152 to R158, R208, R219). -/

namespace Sys2Proof.Machine

/-! ## Launches, gangs and the places of groups -/

/-- The launches, the gangs, the saved contexts, and the workgroups that have groups on cores. -/
def State.lodging (s : State) : Map Launch × Map Gang × Map Saved × Set Nat :=
  (s.launches, s.gangs, s.saved, {w | ∃ e ∈ s.groups, e.2.wg = w})

theorem State.launches_of_lodging {s t : State} (h : t.lodging = s.lodging) : t.launches = s.launches := congrArg (·.1) h

theorem State.gangs_of_lodging {s t : State} (h : t.lodging = s.lodging) : t.gangs = s.gangs := congrArg (·.2.1) h

theorem State.saved_of_lodging {s t : State} (h : t.lodging = s.lodging) : t.saved = s.saved := congrArg (·.2.2.1) h

theorem State.wgs_of_lodging {s t : State} (h : t.lodging = s.lodging) {e : Nat × Group} (he : e ∈ t.groups) :
    ∃ e' ∈ s.groups, e'.2.wg = e.2.wg := by
  have same : {w | ∃ e ∈ t.groups, e.2.wg = w} = {w | ∃ e ∈ s.groups, e.2.wg = w} := congrArg (·.2.2.2) h
  exact same.subset ⟨e, he, rfl⟩

theorem State.lodging_ite {c : Prop} [Decidable c] {s t u : State} (h : t.lodging = s.lodging) (h' : u.lodging = s.lodging) :
    (if c then t else u).lodging = s.lodging := by
  split
  · exact h
  · exact h'

/-- The same of what a read answers with its state. -/
theorem State.lodging_ite_read {α β : Type} {c : Prop} [Decidable c] {x y : α × β × State} {s : State}
    (h : x.2.2.lodging = s.lodging) (h' : y.2.2.lodging = s.lodging) : (if c then x else y).2.2.lodging = s.lodging := by
  split
  · exact h
  · exact h'

/-- What every step of a fold leaves, the fold leaves. -/
theorem State.lodging_foldl {α : Type} {f : State → α → State} (h : ∀ s a, (f s a).lodging = s.lodging) (l : List α)
    (s : State) : (l.foldl f s).lodging = s.lodging :=
  List.foldlRecOn l f (motive := fun t => t.lodging = s.lodging) rfl (fun _ ht _ _ => (h _ _).trans ht)

/-- A fold over a state and what has been read leaves what every step leaves. -/
theorem State.lodging_foldl_snd {α β : Type} {f : β × State → α → β × State} (h : ∀ x a, (f x a).2.lodging = x.2.lodging)
    (l : List α) (x : β × State) : (l.foldl f x).2.lodging = x.2.lodging :=
  List.foldlRecOn l f (motive := fun y => y.2.lodging = x.2.lodging) rfl (fun _ hy _ _ => (h _ _).trans hy)

/-- A group put in the place of one of the same workgroup. -/
theorem groupWgs_mput {m : Map Group} {n : Nat} {a b : Group} (at_ : mget? m n = some a) (same : b.wg = a.wg) :
    {w | ∃ e ∈ mput m n b, e.2.wg = w} = {w | ∃ e ∈ m, e.2.wg = w} := by
  induction m with
  | nil => cases at_
  | cons f r ih =>
    obtain ⟨k, v⟩ := f
    have found := mget?_mem at_
    simp only [mget?] at at_
    simp only [mput]
    split
    · ext w
      simp only [Set.mem_ofPred_eq, List.mem_cons (b := (n, b)), exists_eq_or_imp, same]
      exact ⟨fun h => h.elim (fun e => ⟨_, found, e⟩) id, .inr⟩
    · split
      · next eq =>
        rw [if_pos eq] at at_
        cases at_
        ext w
        simp only [Set.mem_ofPred_eq, List.mem_cons, exists_eq_or_imp, same]
      · next ne =>
        rw [if_neg ne] at at_
        ext w
        have rest := Set.ext_iff.mp (ih at_) w
        simp only [Set.mem_ofPred_eq, List.mem_cons, exists_eq_or_imp] at rest ⊢
        rw [rest]

theorem State.updGroup_lodging (s : State) (k : Nat) {f : Group → Group} (h : ∀ g, (f g).wg = g.wg) :
    (s.updGroup k f).lodging = s.lodging := by
  have same : {w | ∃ e ∈ mupd s.groups k f, e.2.wg = w} = {w | ∃ e ∈ s.groups, e.2.wg = w} := by
    unfold mupd
    split
    · next g hg => exact groupWgs_mput hg (h g)
    · rfl
  exact congrArg (fun x => (s.launches, s.gangs, s.saved, x)) same

theorem State.mmapGroups_lodging (s : State) {f : Nat → Group → Group} (h : ∀ k g, (f k g).wg = g.wg) :
    ({ s with groups := mmap s.groups f } : State).lodging = s.lodging := by
  have same : {w | ∃ e ∈ mmap s.groups f, e.2.wg = w} = {w | ∃ e ∈ s.groups, e.2.wg = w} := by
    ext w
    simp [mmap, h]
  exact congrArg (fun x => (s.launches, s.gangs, s.saved, x)) same

/-! ## Small updates, and records

A proof (rfl) keeps simp from using the equation as a definitional one, which the kernel would check by unfolding states. -/

@[simp] theorem State.setMM_lodging (s : State) (m : MemSys) : (s.setMM m).lodging = s.lodging := (rfl)
@[simp] theorem State.putBytes_lodging (s : State) (pa : Nat) (bs : List Byte) : (s.putBytes pa bs).lodging = s.lodging := (rfl)
@[simp] theorem State.flipBit_lodging (s : State) (ln b : Nat) : (s.flipBit ln b).lodging = s.lodging := (rfl)
@[simp] theorem State.setLine_lodging (s : State) (ln : Nat) (x : Line) : (s.setLine ln x).lodging = s.lodging := (rfl)
@[simp] theorem State.updLine_lodging (s : State) (ln : Nat) (f : Line → Line) : (s.updLine ln f).lodging = s.lodging := (rfl)
@[simp] theorem State.dropCopies_lodging (s : State) (ln : Nat) : (s.dropCopies ln).lodging = s.lodging := (rfl)
@[simp] theorem State.dropDie_lodging (s : State) (d ln : Nat) : (s.dropDie d ln).lodging = s.lodging := (rfl)
@[simp] theorem State.keepV_lodging (s : State) (d ln : Nat) : (s.keepV d ln).lodging = s.lodging := (rfl)
@[simp] theorem State.draw_lodging (s : State) (n : Nat) : (s.draw n).lodging = s.lodging := (rfl)
@[simp] theorem State.takeId_lodging (s : State) : s.takeId.2.lodging = s.lodging := (rfl)
@[simp] theorem State.setReg_lodging (s : State) (n : Nat) (v : BitVec 64) : (s.setReg n v).lodging = s.lodging := (rfl)
@[simp] theorem State.setFld_lodging (s : State) (n hi lo x : Nat) : (s.setFld n hi lo x).lodging = s.lodging := (rfl)
@[simp] theorem State.setRel_lodging (s : State) (r : Rel) : ({ s with rel := r } : State).lodging = s.lodging := (rfl)
@[simp] theorem State.updWg_lodging (s : State) (k : Nat) (f : Wg → Wg) : (s.updWg k f).lodging = s.lodging := (rfl)
@[simp] theorem State.setCq_lodging (s : State) (c : Nat) (x : Cq) : (s.setCq c x).lodging = s.lodging := (rfl)
@[simp] theorem State.dropWaits_lodging (s : State) (q : Nat) : (s.dropWaits q).lodging = s.lodging := (rfl)

theorem State.Offered.lodging {s t : State} (h : s.Offered t) : t.lodging = s.lodging := by
  obtain ⟨_, rfl⟩ := h
  rfl

@[simp] theorem State.emitTo_lodging (s : State) (p die c i k pl : Nat) : (s.emitTo p die c i k pl).lodging = s.lodging :=
  (s.emitTo_offered ..).lodging

@[simp] theorem State.emitL_lodging (s : State) (l : Launch) (die c i k pl : Nat) :
    (s.emitL l die c i k pl).lodging = s.lodging :=
  State.lodging_ite (s.emitTo_lodging ..) rfl

@[simp] theorem State.emitQ_lodging (s : State) (p i k pl : Nat) : (s.emitQ p i k pl).lodging = s.lodging :=
  State.lodging_ite (s.emitTo_lodging ..) rfl

@[simp] theorem State.dropFlaws_lodging (s : State) (p : FlawAt → Bool) : (s.dropFlaws p).lodging = s.lodging := by
  rw [State.dropFlaws_eq]
  rfl

@[simp] theorem State.toHost_lodging (s : State) (p : Tlp) : (s.toHost p).lodging = s.lodging := by
  unfold State.toHost
  split
  · rfl
  · split <;> rfl

@[simp] theorem State.interrupt_lodging (s : State) (n : Nat) : (s.interrupt n).lodging = s.lodging :=
  State.lodging_ite rfl (s.toHost_lodging _)

@[simp] theorem State.wantPass_lodging (s : State) (p : Nat) : (s.wantPass p).lodging = s.lodging :=
  State.lodging_ite rfl rfl

/-! ## Writes at homes (R155), and error records (R219) -/

@[simp] theorem State.takeBack_lodging (s : State) (ln : Nat) : (s.takeBack ln).1.lodging = s.lodging := by
  unfold State.takeBack
  dsimp only
  split
  · rfl
  · split <;> rfl

@[simp] theorem State.bumpVersion_lodging (s : State) (ln : Nat) : (s.bumpVersion ln).lodging = s.lodging :=
  State.lodging_ite rfl rfl

@[simp] theorem State.loseResv_lodging (s : State) (ln : Nat) : (s.loseResv ln).lodging = s.lodging :=
  State.lodging_ite (s.mmapGroups_lodging (fun _ _ => rfl)) rfl

@[simp] theorem State.recalled_lodging (s : State) (ln : Nat) : (s.recalled ln).lodging = s.lodging := by
  unfold State.recalled
  split <;> simp

@[simp] theorem State.merged_lodging (s : State) (ln pa : Nat) (bs : List Byte) (p : Option PTag) :
    (s.merged ln pa bs p).lodging = s.lodging :=
  State.lodging_ite (State.dropFlaws_lodging ..) rfl

@[simp] theorem State.homeWriteLine_lodging (s : State) (pa : Nat) (bs : List Byte) (p : Option PTag) :
    (s.homeWriteLine pa bs p).lodging = s.lodging := by
  rw [State.homeWriteLine_eq]
  split <;> simp

@[simp] theorem State.homeWrite_lodging (s : State) (pa : Nat) (bs : List Byte) (p : Option PTag) :
    (s.homeWrite pa bs p).lodging = s.lodging :=
  State.lodging_foldl (fun _ _ => State.homeWriteLine_lodging ..) _ s

@[simp] theorem State.recStore_lodging (s : State) (i : Nat) : (s.recStore i).lodging = s.lodging := by
  unfold State.recStore
  dsimp only
  split
  · rw [State.setRel_lodging, State.homeWrite_lodging]
  · exact State.lodging_ite rfl rfl

@[simp] theorem State.errMessage_lodging (s : State) (sev : Nat) : (s.errMessage sev).lodging = s.lodging :=
  State.lodging_ite (s.interrupt_lodging _) rfl

@[simp] theorem State.record_lodging (s : State) (cls kind sev : Nat) (inj : Bool) (addr unit space synd : Nat)
    (o : Option (Nat × Nat)) : (s.record cls kind sev inj addr unit space synd o).2.lodging = s.lodging := by
  have stored : ∀ (u : State) i r, ((u.setRec i r).recStore i).lodging = u.lodging := fun u i r => State.recStore_lodging ..
  have fresh : ∀ (u : State) k, (State.record.go cls kind sev inj addr unit space synd o u k).2.lodging = u.lodging :=
    fun u k => ((State.emitErr_offered ..).lodging.trans (State.errMessage_lodging ..)).trans (stored ..)
  unfold State.record
  dsimp only
  split
  · split
    · exact (State.emitErr_offered ..).lodging.trans (stored ..)
    · exact fresh ..
  · exact fresh ..

@[simp] theorem State.findFlaw_lodging (s : State) (p : FlawAt) (cls unit addr space : Nat) (o : Option (Nat × Nat)) :
    (s.findFlaw p cls unit addr space o).2.lodging = s.lodging := by
  unfold State.findFlaw
  split
  · rfl
  · split <;> simp

theorem State.lodging_of_findFlaw {s u : State} {p : FlawAt} {cls unit addr space : Nat} {o : Option (Nat × Nat)}
    {x : Option PTag} (h : s.findFlaw p cls unit addr space o = (x, u)) : u.lodging = s.lodging := by
  rw [← s.findFlaw_lodging p cls unit addr space o, h]

/-! ## Reads that find errors, and recalls (R157, R208, R224, R226) -/

@[simp] theorem State.checkSlice_lodging (s : State) (d ln : Nat) : (s.checkSlice d ln).lodging = s.lodging := by
  unfold State.checkSlice
  split
  · rfl
  · dsimp only
    split
    · simp
    · split <;> simp

/-- What an error found leaves, where its poison goes to the line. -/
theorem State.poisoned_lodging {x : Option PTag × State} {s : State} (h : x.2.lodging = s.lodging) (ln : Nat) :
    (match x with
      | (some t, s) => s.updLine ln (fun x => { x with pois := tagMin (some t) x.pois })
      | (none, s) => s).lodging = s.lodging := by
  obtain ⟨_ | t, u⟩ := x <;> exact h

@[simp] theorem State.checkArray_lodging (s : State) (ln : Nat) : (s.checkArray ln).lodging = s.lodging :=
  State.poisoned_lodging (s.findFlaw_lodging ..) ln

@[simp] theorem State.sendLine_lodging (s : State) (d ln : Nat) : (s.sendLine d ln).lodging = s.lodging :=
  State.poisoned_lodging (s.findFlaw_lodging ..) ln

@[simp] theorem State.fetchLine_lodging (s : State) (d ln : Nat) : (s.fetchLine d ln).lodging = s.lodging := by
  unfold State.fetchLine
  split <;> simp

@[simp] theorem State.dropCore_lodging (s : State) (c ln : Nat) : (s.dropCore c ln).lodging = s.lodging :=
  State.lodging_ite rfl rfl

@[simp] theorem State.checkCopy_lodging (s : State) (c ln : Nat) : (s.checkCopy c ln).lodging = s.lodging := by
  unfold State.checkCopy
  split
  · rfl
  · dsimp only
    split
    · simp
    · split
      · simp
      · split <;> simp

@[simp] theorem State.checkOwn_lodging (s : State) (d ln : Nat) : (s.checkOwn d ln).lodging = s.lodging := by
  unfold State.checkOwn
  cases (s.line ln).mcore with
  | none => exact State.lodging_ite rfl (s.checkSlice_lodging ..)
  | some c => exact State.lodging_ite (s.checkCopy_lodging ..) (by simp)

@[simp] theorem State.inject_lodging (s : State) (ln target die : Nat) : (s.inject ln target die).2.2.lodging = s.lodging := by
  unfold State.inject
  dsimp only
  split
  · split
    · exact State.lodging_ite (by simp) (by simp)
    · split <;> simp
  · rfl

@[simp] theorem State.recall_lodging (s : State) (ln : Nat) : (s.recall ln).1.lodging = s.lodging := by
  unfold State.recall
  cases (s.line ln).owner with
  | none => rfl
  | some d =>
    dsimp only
    split
    · simp
    · exact (State.keepV_lodging ..).trans (State.lodging_ite (by simp) (by simp))

@[simp] theorem State.recallStep_lodging (s : State) (ln : Nat) : (s.recallStep ln).1.lodging = s.lodging := by
  unfold State.recallStep
  dsimp only
  split
  · dsimp only
    split
    · exact State.lodging_ite (by simp) (by simp)
    · simp
  · simp

@[simp] theorem State.outsideWrite_lodging (s : State) (pa : Nat) (bs : List Byte) (p : Option PTag) :
    (s.outsideWrite pa bs p).lodging = s.lodging :=
  State.lodging_foldl (fun _ _ => by simp) _ s

@[simp] theorem State.devWrite_lodging (s : State) (pa n v : Nat) : (s.devWrite pa n v).lodging = s.lodging :=
  s.outsideWrite_lodging ..

@[simp] theorem State.strike_lodging (s : State) (g n cause : Nat) : (s.strike g n cause).lodging = s.lodging := by
  unfold State.strike
  split
  · rfl
  · split
    · rfl
    · have struck := fun f : Group → List Watch => s.updGroup_lodging g (f := fun x => { x with watches := f x }) (fun _ => rfl)
      dsimp only
      repeat' split
      · exact struck _
      · exact struck _
      · exact struck _
      · exact (State.emitL_lodging ..).trans (struck _)

@[simp] theorem State.strikeLine_lodging (s : State) (ln cause : Nat) (p : Group → Bool) :
    (s.strikeLine ln cause p).lodging = s.lodging :=
  State.lodging_foldl (fun s _ =>
    State.lodging_ite (State.lodging_foldl (fun s _ => s.strike_lodging ..) _ s) rfl) _ s

@[simp] theorem State.strikeLost_lodging (s : State) (ln : Nat) : (s.strikeLost ln).lodging = s.lodging :=
  s.strikeLine_lodging ..

@[simp] theorem State.loseEntry_lodging (s : State) (p : FlawAt) (cls unit ln : Nat) :
    (s.loseEntry p cls unit ln).lodging = s.lodging := by
  unfold State.loseEntry
  split
  · rfl
  · dsimp only
    repeat' split
    all_goals simp

@[simp] theorem State.checkDir_lodging (s : State) (d ln : Nat) : (s.checkDir d ln).lodging = s.lodging :=
  State.lodging_ite (s.loseEntry_lodging ..) rfl

@[simp] theorem State.checkEntry_lodging (s : State) (ln : Nat) : (s.checkEntry ln).lodging = s.lodging :=
  s.loseEntry_lodging ..

/-! ## Places in caches (R147, R152, R158) -/

@[simp] theorem State.useEntry_lodging (s : State) (ln : Nat) : (s.useEntry ln).lodging = s.lodging := by
  unfold State.useEntry
  dsimp only
  split
  · rfl
  · split
    · simp
    · split <;> simp

@[simp] theorem State.evictL2_lodging (s : State) (d ln : Nat) : (s.evictL2 d ln).lodging = s.lodging := by
  have own : (if (s.line ln).dirty then s.checkOwn d ln else s).lodging = s.lodging :=
    State.lodging_ite (s.checkOwn_lodging ..) rfl
  unfold State.evictL2
  dsimp only
  refine (State.dropDie_lodging ..).trans (State.lodging_ite (State.lodging_ite ?_ ?_) rfl) <;> simp [own]

@[simp] theorem State.roomL2_lodging (s : State) (d ln : Nat) (low : Bool) : (s.roomL2 d ln low).lodging = s.lodging := by
  unfold State.roomL2 State.victim
  dsimp only
  refine State.lodging_ite rfl ((State.setMM_lodging ..).trans (State.lodging_ite rfl (by simp)))

@[simp] theorem State.leaveCore_lodging (s : State) (c ln : Nat) : (s.leaveCore c ln).lodging = s.lodging :=
  (State.dropCore_lodging ..).trans (State.lodging_ite (s.checkCopy_lodging ..) rfl)

@[simp] theorem State.roomCore_lodging (s : State) (c ln : Nat) (low : Bool) : (s.roomCore c ln low).2.lodging = s.lodging := by
  unfold State.roomCore State.victim
  dsimp only
  split
  · rfl
  · split
    · rfl
    · exact (State.setMM_lodging ..).trans (State.lodging_ite rfl (by simp))

@[simp] theorem State.fillHeld_lodging (s : State) (c ln : Nat) (low : Bool) (fl : Option Nat) :
    (s.fillHeld c ln low fl).lodging = s.lodging :=
  State.lodging_ite (s.roomCore_lodging ..) (s.roomCore_lodging ..)

@[simp] theorem State.fillCopy_lodging (s : State) (c ln : Nat) (low : Bool) (x : Copy) :
    (s.fillCopy c ln low x).lodging = s.lodging :=
  State.lodging_ite (s.roomCore_lodging ..) (s.roomCore_lodging ..)

@[simp] theorem State.weaken_lodging (s : State) (ln : Nat) (keep : Option Nat) : (s.weaken ln keep).lodging = s.lodging := by
  unfold State.weaken
  dsimp only
  exact State.lodging_foldl (fun s _ => s.setMM_lodging _) _ _

@[simp] theorem State.bumpStamp_lodging (s : State) (ln : Nat) : (s.bumpStamp ln).lodging = s.lodging := by
  unfold State.bumpStamp
  dsimp only
  split
  · split <;> rfl
  · rfl

/-! ## Loads and stores of cores (R153, R156, R157) -/

@[simp] theorem State.freshLine_lodging (s : State) (c ln : Nat) (k : Keep) (had : Bool) :
    (s.freshLine c ln k had).2.2.lodging = s.lodging := by
  unfold State.freshLine
  cases had <;> exact State.lodging_ite (by simp) (by simp)

@[simp] theorem State.readLine_lodging (s : State) (c ln : Nat) (k : Keep) : (s.readLine c ln k).2.2.lodging = s.lodging := by
  unfold State.readLine
  dsimp only
  split
  · exact State.lodging_ite_read (by simp [apply_ite State.lodging]) (by simp [apply_ite State.lodging])
  · generalize hu : ((State.recallStep _ ln).1.checkSlice (c / 48) ln) = u
    have entered : u.lodging = s.lodging := by
      rw [← hu]
      simp [apply_ite State.lodging]
    split
    · exact State.lodging_ite_read (by simp [apply_ite State.lodging, entered]) (by simp [entered])
    · simp [entered]

@[simp] theorem State.own_lodging (s : State) (die ln : Nat) (low : Bool) : (s.own die ln low).lodging = s.lodging := by
  unfold State.own
  dsimp only
  refine State.lodging_ite (by simp) ?_
  simp only [State.updLine_lodging]
  split
  · simp only [State.flipBit_lodging, State.setMM_lodging]
    split <;> simp
  · simp only [State.setMM_lodging]
    split <;> simp

@[simp] theorem State.fillFrom_lodging (s : State) (c ln : Nat) : (s.fillFrom c ln).lodging = s.lodging := by
  unfold State.fillFrom
  dsimp only
  split
  · split <;> simp
  · split <;> simp

@[simp] theorem State.gain_lodging (s : State) (c ln : Nat) (k : Keep) : (s.gain c ln k).lodging = s.lodging := by
  unfold State.gain
  dsimp only
  refine State.lodging_ite (State.lodging_ite (by simp) ?_) ?_ <;> simp [apply_ite State.lodging]

@[simp] theorem State.writeLine_lodging (s : State) (c pa : Nat) (bs : List Byte) (k : Keep) (p : Option PTag) (w : Nat) :
    (s.writeLine c pa bs k p w).lodging = s.lodging := by
  unfold State.writeLine
  dsimp only
  rw [State.loseResv_lodging]
  split <;> simp

/-! ## Translation, and accesses at virtual addresses (R168) -/

@[simp] theorem State.tableWord_lodging (s : State) (c pa : Nat) : (s.tableWord c pa).2.lodging = s.lodging := by
  unfold State.tableWord State.readPa
  split
  · exact s.readLine_lodging ..
  · rfl

@[simp] theorem State.walkFrom_lodging (s : State) (c tab va fuel : Nat) : (s.walkFrom c tab va fuel).2.lodging = s.lodging := by
  induction fuel generalizing s tab with
  | zero => rfl
  | succ fuel ih =>
    unfold State.walkFrom
    dsimp only
    split <;> simp [ih]

@[simp] theorem State.walk_lodging (s : State) (c asp va : Nat) : (s.walk c asp va).2.lodging = s.lodging := by
  unfold State.walk
  split
  · rfl
  · split
    next a u first =>
      split
      next b v second =>
        have read : v.lodging = s.lodging := by
          rw [← s.tableWord_lodging c (s.spaceAt asp), first, ← u.tableWord_lodging c (u.spaceAt asp + 8), second]
        split
        · exact (State.walkFrom_lodging ..).trans read
        · exact read

@[simp] theorem State.translate_lodging (s : State) (c asp va : Nat) : (s.translate c asp va).2.lodging = s.lodging := by
  unfold State.translate
  split
  · rfl
  · dsimp only
    repeat' split
    all_goals simp

/-- A write at a virtual address, line by line, where each line is translated. -/
theorem State.vaLine_lodging (s : State) (c : Nat) (l : Launch) (a : Nat) (bs : List Byte) (p : Option PTag) :
    (match s.vaOf c l a with
      | (some pa, s) => s.writeLine c pa bs .l2 p l.space
      | (none, s) => s).lodging = s.lodging := by
  have found : (s.vaOf c l a).2.lodging = s.lodging := s.translate_lodging ..
  split
  · next h => rw [h] at found; exact (State.writeLine_lodging ..).trans found
  · next h => rwa [h] at found

@[simp] theorem State.vaWrite_lodging (s : State) (c : Nat) (l : Launch) (va : Nat) (bs : List Byte) :
    (s.vaWrite c l va bs).lodging = s.lodging :=
  State.lodging_foldl (fun s _ => s.vaLine_lodging ..) _ s

@[simp] theorem State.vaPut_lodging (s : State) (c : Nat) (l : Launch) (va : Nat) (bs : List Byte) (p : Nat → Option PTag) :
    (s.vaPut c l va bs p).lodging = s.lodging :=
  State.lodging_foldl (fun s _ => s.vaLine_lodging ..) _ s

/-! ## What a save reads and writes (R137, R249, R259, R436) -/

@[simp] theorem State.rrNumbers_lodging (s : State) (nk : Nat) : (s.rrNumbers nk).lodging = s.lodging := by
  refine State.lodging_foldl (fun s e => ?_) _ s
  split
  · exact State.lodging_ite (s.vaWrite_lodging ..) rfl
  · rfl

@[simp] theorem State.checkReg_lodging (s : State) (gk : Nat) (m : Lanes) (r : Nat) : (s.checkReg gk m r).lodging = s.lodging := by
  unfold State.checkReg
  split
  · rfl
  · split
    · rfl
    · refine State.lodging_foldl (fun s l => ?_) _ s
      split
      · next h => exact (State.updGroup_lodging _ gk (by exact fun _ => rfl)).trans (State.lodging_of_findFlaw h)
      · next h => exact State.lodging_of_findFlaw h

@[simp] theorem State.checkWord_lodging (s : State) (wk k : Nat) : (s.checkWord wk k).lodging = s.lodging := by
  unfold State.checkWord
  split
  · rfl
  · dsimp only
    split
    · next h => exact (State.updWg_lodging ..).trans (State.lodging_of_findFlaw h)
    · next h => exact State.lodging_of_findFlaw h

@[simp] theorem State.checkSram_lodging (s : State) (wk a n : Nat) : (s.checkSram wk a n).lodging = s.lodging := by
  refine State.lodging_foldl (fun s f => ?_) _ s
  split
  · exact State.lodging_ite (s.checkWord_lodging ..) rfl
  · rfl

@[simp] theorem State.checkRow_lodging (s : State) (wk t m : Nat) : (s.checkRow wk t m).lodging = s.lodging := by
  unfold State.checkRow
  split
  · dsimp only
    simp
  · rfl

@[simp] theorem State.checkTile_lodging (s : State) (wk t n : Nat) : (s.checkTile wk t n).lodging = s.lodging :=
  State.lodging_ite rfl (State.lodging_foldl (fun s _ => s.checkRow_lodging ..) _ s)

@[simp] theorem State.checkWg_lodging (s : State) (wk : Nat) (l : Launch) : (s.checkWg wk l).lodging = s.lodging := by
  have regs : ∀ gs : Map Group, (gs.foldl (fun s e =>
      (upto (l.budget e.2.k)).foldl (fun s r => s.checkReg e.1 (BitVec.allOnes 32) r) s) s).lodging = s.lodging := fun gs =>
    State.lodging_foldl (fun s _ => State.lodging_foldl (fun s _ => s.checkReg_lodging ..) _ s) gs s
  unfold State.checkWg
  refine State.lodging_ite rfl ((State.lodging_foldl (fun s _ => s.checkTile_lodging ..) _ _).trans ?_)
  split
  · exact (State.lodging_foldl (fun s _ => s.checkSram_lodging ..) _ _).trans (regs _)
  · exact regs _

@[simp] theorem State.saveWg_lodging (s : State) (nk : Nat) (l : Launch) (base k : Nat) :
    (s.saveWg nk l base k).lodging = s.lodging := by
  unfold State.saveWg
  dsimp only
  split
  · exact s.checkWg_lodging ..
  · rw [State.lodging_foldl (fun s _ => s.vaPut_lodging ..)]
    simp [State.lodging_foldl]

@[simp] theorem State.writeCounters_lodging (s : State) (gk : Nat) (b : Bool) : (s.writeCounters gk b).lodging = s.lodging := by
  unfold State.writeCounters
  split
  · rfl
  · split
    · rfl
    · exact State.lodging_ite (by simp) rfl

@[simp] theorem State.emitPerturb_lodging (s : State) (p die c i : Nat) (ok : Bool) :
    (s.emitPerturb p die c i ok).lodging = s.lodging := by
  unfold State.emitPerturb
  dsimp only
  split
  · rfl
  · exact State.lodging_ite (s.emitTo_lodging ..) rfl

@[simp] theorem State.perturbGang_lodging (s : State) (nk : Nat) (l : Launch) : (s.perturbGang nk l).lodging = s.lodging := by
  unfold State.perturbGang
  refine (State.lodging_foldl (fun s _ => State.lodging_ite (s.emitPerturb_lodging ..) rfl) _ _).trans ?_
  exact State.lodging_foldl (fun s _ => s.emitPerturb_lodging ..) _ s

/-! ## Queues and completion queues (R61, R72, R78, R104) -/

@[simp] theorem State.syncQ_lodging (s : State) (q : Nat) : (s.syncQ q).lodging = s.lodging :=
  State.lodging_ite rfl (s.devWrite_lodging ..)

@[simp] theorem State.updQueue_lodging (s : State) (q : Nat) (f : Queue → Queue) : (s.updQueue q f).lodging = s.lodging :=
  State.syncQ_lodging ..

@[simp] theorem State.coalesce_lodging (s : State) (c : Nat) : (s.coalesce c).lodging = s.lodging :=
  State.lodging_ite (State.interrupt_lodging ..) rfl

@[simp] theorem State.cqWrite_lodging (s : State) (c lo : Nat) : (s.cqWrite c lo).lodging = s.lodging :=
  State.lodging_ite (s.toHost_lodging _) (s.devWrite_lodging ..)

@[simp] theorem State.cqDrain_lodging (s : State) (c fuel : Nat) : (s.cqDrain c fuel).lodging = s.lodging := by
  induction fuel generalizing s with
  | zero => rfl
  | succ fuel ih =>
    unfold State.cqDrain
    dsimp only
    split
    · rfl
    · refine State.lodging_ite ?_ rfl
      rw [ih, State.coalesce_lodging]
      split <;> simp

@[simp] theorem State.cqStalls_lodging (s : State) : s.cqStalls.lodging = s.lodging :=
  State.lodging_foldl (fun s _ => State.lodging_ite rfl (s.updQueue_lodging ..)) _ s

@[simp] theorem State.postTo_lodging (s : State) (c q lo : Nat) (pair : Option Nat) :
    (s.postTo c q lo pair).lodging = s.lodging := by
  unfold State.postTo
  simp

@[simp] theorem State.postCq_lodging (s : State) (q lo : Nat) (pair : Option Nat) : (s.postCq q lo pair).lodging = s.lodging :=
  s.postTo_lodging ..

@[simp] theorem State.postErr_lodging (s : State) (q tag err ix : Nat) : (s.postErr q tag err ix).lodging = s.lodging :=
  s.postCq_lodging ..

@[simp] theorem State.postDone_lodging (s : State) (q kind tag ix detail : Nat) (b : Bool) :
    (s.postDone q kind tag ix detail b).lodging = s.lodging :=
  State.lodging_ite (s.postCq_lodging ..) rfl

@[simp] theorem State.unblock_lodging (s : State) (q : Nat) : (s.unblock q).lodging = s.lodging :=
  State.lodging_ite (s.updQueue_lodging ..) (s.syncQ_lodging q)

@[simp] theorem State.letGo_lodging (s : State) (q : Nat) : (s.letGo q).lodging = s.lodging :=
  State.lodging_ite (s.wantPass_lodging _) rfl

@[simp] theorem State.reach_lodging (s : State) (q r : Nat) : (s.reach q r).lodging = s.lodging := s.updQueue_lodging ..

@[simp] theorem State.endLadder_lodging (s : State) (q : Nat) : (s.endLadder q).lodging = s.lodging := by
  unfold State.endLadder
  split
  · rfl
  · rw [State.letGo_lodging]
    refine (State.lodging_ite (State.dropWaits_lodging ..) rfl).trans ?_
    refine (State.lodging_foldl (fun s _ => s.unblock_lodging _) _ _).trans ?_
    refine (State.lodging_foldl (fun s _ => s.postDone_lodging ..) _ _).trans ?_
    simp

@[simp] theorem State.checkLadder_lodging (s : State) (q : Nat) : (s.checkLadder q).lodging = s.lodging :=
  State.lodging_ite (s.endLadder_lodging q) rfl

end Sys2Proof.Machine
end

section
/-! SUPPORT. Placement passes and FRESUME (R99, R100, R125). -/

namespace Sys2Proof.Machine

/-! ## Placement passes (R99, R100) -/

/-- A placed head ends its anchor and its count, and nothing else of the device changes (R100). -/
theorem State.placedHead_eq (s : State) (p nk : Nat) :
    ∃ as fs, s.placedHead p nk = { s with kul := { s.kul with anchors := as, fails := fs } } := by
  unfold State.placedHead
  dsimp only
  split
  · split <;> exact ⟨_, _, rfl⟩
  · exact ⟨_, _, rfl⟩

section
variable {s : State} {p k : Nat} {h : Head} {o : Nat × Nat × Nat} (order : s.dispatchOrder p = [k])
  (head : s.headGang k = some h) (fit : s.firstFit h = some o) (free : s.dispLatched p = false)
  (last : ((s.placeHead h o).placedHead p h.nk).headGang k = none)
include head fit free last

/-- A queue with one head gang, which fits, has it placed (R100). -/
theorem State.passQueue_places (blocked : Bool) (fuel : Nat) :
    s.passQueue p k blocked (fuel + 2) = (blocked, (s.placeHead h o).placedHead p h.nk) := by
  rw [State.passQueue, head]
  simp only [free, Bool.false_eq_true, if_false, fit]
  rw [State.passQueue, last]

include order in
/-- A pass over a partition with one queue that has one head gang, which fits (R100). -/
theorem State.pass_places : s.pass p = (s.placeHead h o).placedHead p h.nk := by
  unfold State.pass
  rw [order, List.foldl_cons, List.foldl_nil]
  exact congrArg Prod.snd (State.passQueue_places head fit free last false 12287)

include order in
/-- A pass that is carried out places the head gang that fits, and is due no longer (R99, R100). -/
theorem State.runPass_places (still : ((s.placeHead h o).placedHead p h.nk).dispLatched p = false) :
    (s.runPass p).groups = (s.placeHead h o).groups ∧ (s.runPass p).wgs = (s.placeHead h o).wgs ∧
      (s.runPass p).gangs = (s.placeHead h o).gangs ∧ p ∉ (s.runPass p).kul.passes ∧
      mget? (s.runPass p).kul.lastPass p = some (s.runPass p).time := by
  obtain ⟨as, fs, placed⟩ := (s.placeHead h o).placedHead_eq p h.nk
  unfold State.runPass
  rw [if_neg (Bool.eq_false_iff.mp free), State.pass_places order head fit free last]
  dsimp only
  rw [if_neg (Bool.eq_false_iff.mp still), placed]
  exact ⟨rfl, rfl, rfl, by simp, mget?_mput_same ..⟩

end

theorem placementPass_notDue {s : State} {p : BitVec 4} (h : p.toNat ∉ s.kul.passes) :
    exec (.placementPass p) s = .next s := by
  refine congrArg Host.Outcome.next ?_
  rw [List.contains_eq_mem, decide_eq_false h]
  rfl

theorem placementPass_due {s : State} {p : BitVec 4} (h : p.toNat ∈ s.kul.passes) :
    exec (.placementPass p) s = .next (s.runPass p.toNat) := by
  refine congrArg Host.Outcome.next ?_
  rw [List.contains_eq_mem, decide_eq_true h]
  rfl

theorem placementRetry_due {s : State} {p : BitVec 4} {k : Nat} (order : s.dispatchOrder p.toNat = [k])
    (due : mgetD s.kul.lastPass p.toNat 0 + 16000 ≤ s.time) :
    exec (.placementRetry p) s = .next (s.runPass p.toNat) := by
  refine congrArg Host.Outcome.next (if_pos ?_)
  rw [order, decide_eq_true due]
  rfl

/-! ## A group of one split, or of none, settles (R111 to R113) -/

theorem mergeSplit_single {g : Group} {p : Split} (only : g.splits = [p]) (q : Split) : g.mergeSplit q = g := by
  have at0 : (g.mergeAt 0).1 = g := by
    unfold Group.mergeAt
    simp [only]
  unfold Group.mergeSplit
  rw [only, List.zipIdx_singleton, List.find?_singleton]
  cases p == q
  · rfl
  · exact at0

theorem mergeParked_single {g : Group} {p : Split} (only : g.splits = [p]) (old : List Split) : g.mergeParked old = g := by
  have merged := mergeSplit_single only
  unfold Group.mergeParked
  generalize g.splits.filter (fun p => (p.isWaiting || p.st == .ready) && !p.stood old) = ps
  induction ps with
  | nil => rfl
  | cons q ps ih => rw [List.foldl_cons, merged, ih]

/-- The only split of a group, ready, goes live (R111). -/
theorem settle_single_ready {g : Group} {p : Split} (only : g.splits = [p]) (ready : p.st = .ready) (old : List Split) :
    (g.settle old).splits = [p.goLive 0] := by
  have going : ∀ w, p.st ≠ .waiting w := by simp [ready]
  unfold Group.settle
  rw [mergeParked_single only, joinRelease_of (q := p) (by simp [only]) going]
  simp [Group.refill, only, refillList, freeIx, nextReady, leastBy, Split.liveIx, Split.goLive, ready]

theorem settle_empty {g : Group} (none_ : g.splits = []) (old : List Split) : (g.settle old).splits = [] := by
  have parked : g.mergeParked old = g := by
    unfold Group.mergeParked
    simp [none_]
  have released : g.joinRelease = g := by
    unfold Group.joinRelease
    simp [none_, leastBy]
  unfold Group.settle
  rw [parked, released]
  simp [Group.refill, none_, refillList, nextReady, leastBy]

theorem settle_regs (g : Group) (old : List Split) : (g.settle old).regs = g.regs := congrArg (·.regs) (settle_same g old)

theorem settle_exited (g : Group) (old : List Split) : (g.settle old).exited = g.exited :=
  congrArg (·.exited) (settle_same g old)

/-- The last exit of a group touches what is due to it, and none of these (R325). -/
theorem lastExit_keeps (g : Group) :
    g.lastExit.splits = g.splits ∧ g.lastExit.regs = g.regs ∧ g.lastExit.exited = g.exited := by
  unfold Group.lastExit
  split <;> exact ⟨rfl, rfl, rfl⟩

/-! ## A workgroup with a split that does not wait -/

/-- Some split of workgroup wk does not wait (R118). -/
def State.Underway (s : State) (wk : Nat) : Prop :=
  ∃ e ∈ s.groups, e.2.wg = wk ∧ ∃ p ∈ e.2.splits, ∀ w, p.st ≠ .waiting w

theorem State.Underway.gathered {s : State} {wk : Nat} (h : s.Underway wk) (at_ : WaitAt) : s.gathered wk at_ = false := by
  obtain ⟨e, mem, here, p, hp, going⟩ := h
  have some_ : (s.groupsOf wk).all (fun e => e.2.arrived at_) = false := by
    rw [List.all_eq_false]
    refine ⟨e, List.mem_filter.mpr ⟨mem, by simp [here]⟩, ?_⟩
    unfold Group.arrived
    rw [Bool.not_eq_true, List.all_eq_false]
    exact ⟨p, hp, by simpa using going at_⟩
  unfold State.gathered
  simp only [some_, Bool.false_and]

/-- Nothing is released in a workgroup while a split of it goes on, and no group of it has issued CONVL (R118, R129, R335). -/
theorem State.Underway.wgSettle {s : State} {wk : Nat} {w : Wg} (h : s.Underway wk) (here : mget? s.wgs wk = some w)
    (conv : w.conv = none ∨ w.convl = []) : s.wgSettle wk = s := by
  have wbar : s.wbarCheck wk = s := by
    unfold State.wbarCheck
    simp [h.gathered]
  have convl : s.convlCheck wk = s := by
    unfold State.convlCheck
    rcases conv with conv | conv <;> simp [here, conv]
  have accept : s.acceptCheck wk = s := by
    unfold State.acceptCheck State.voted
    simp [here, h.gathered]
  rw [State.wgSettle, wbar, convl, accept]

/-! ## FRESUME (R125) -/

/-- The field ACTION of a FRESUME value names no group. -/
theorem State.fresumeGroup_setAction (s : State) (v : BitVec 64) (a : Nat) :
    s.fresumeGroup (setBits v 61 60 a) = s.fresumeGroup v := by
  have field : ∀ {hi lo : Nat}, hi < 60 → b64 (setBits v 61 60 a) hi lo = b64 v hi lo := fun h =>
    b64_setBits_other v a (by decide) (by decide) (.inl h)
  unfold State.fresumeGroup
  simp only [field (by decide : 9 < 60), field (by decide : 49 < 60), field (by decide : 54 < 60), field (by decide : 59 < 60)]

theorem State.fresume_none {s : State} {v : BitVec 64} (h : s.fresumeGroup v = none) (f : Group → Nat → Split → Group) :
    s.fresume v f = s.setFld 0x20 63 62 2 := by
  unfold State.fresume
  rw [h]

/-- The faulted split p at position ix goes on, d words past its return point. -/
def Group.resumeSplit (d : Nat) (g : Group) (ix : Nat) (p : Split) : Group :=
  { g with splits := g.splits.set ix (p.resumed g d) }

/-- The faulted split p at position ix exits. -/
def Group.exitSplit (g : Group) (ix : Nat) (p : Split) : Group :=
  { g with
    splits := g.splits.eraseIdx ix, exited := g.exited ||| p.mask
    resv := g.resv.filter (fun r => !p.mask.getLsbD r.1), finfo := g.finfo.filter (fun r => !p.mask.getLsbD r.1) }

theorem b64_setAction (v : BitVec 64) {a : Nat} (h : a < 4) : b64 (setBits v 61 60 a) 61 60 = a :=
  (b64_setBits_same v a (by decide) (by decide)).trans (Nat.mod_eq_of_lt h)

theorem fresumeReplay_eq (s : State) (v : BitVec 64) :
    exec (.fresumeReplay v) s = .next (s.fresume (setBits v 61 60 0) (Group.resumeSplit 0)) := by
  refine congrArg Host.Outcome.next ?_
  rw [State.writeFresume, b64_setAction v (by decide)]
  rfl

theorem fresumeSkip_eq (s : State) (v : BitVec 64) :
    exec (.fresumeSkip v) s = .next (s.fresume (setBits v 61 60 1) (Group.resumeSplit 1)) := by
  refine congrArg Host.Outcome.next ?_
  rw [State.writeFresume, b64_setAction v (by decide)]
  rfl

theorem fresumeExit_eq (s : State) (v : BitVec 64) :
    exec (.fresumeExit v) s = .next (s.fresume (setBits v 61 60 2) Group.exitSplit) := by
  refine congrArg Host.Outcome.next ?_
  rw [State.writeFresume, b64_setAction v (by decide)]
  rfl

/-- FRESUME of a value that names no group (R125). -/
theorem fresume_unnamed {s : State} (h : ∀ v, s.fresumeGroup v = none) (v : BitVec 64) {i : Instr}
    (hi : i ∈ [Instr.fresumeReplay v, .fresumeSkip v, .fresumeExit v]) : exec i s = .next (s.setFld 0x20 63 62 2) := by
  simp only [List.mem_cons, List.not_mem_nil, or_false] at hi
  rcases hi with rfl | rfl | rfl
  · rw [fresumeReplay_eq, State.fresume_none (h _)]
  · rw [fresumeSkip_eq, State.fresume_none (h _)]
  · rw [fresumeExit_eq, State.fresume_none (h _)]

section
variable {s : State} {v : BitVec 64} {gk : Nat} {g : Group} {k : Split} {w : Wg} (named : s.fresumeGroup v = some gk)
  (group : mget? s.groups gk = some g) (only : g.splits = [k]) (faulted : k.st = .faulted)
  (home : mget? s.wgs g.wg = some w) (conv : w.conv = none ∨ w.convl = [])
  (beside : ∃ j h, (j, h) ∈ s.groups ∧ j ≠ gk ∧ h.wg = g.wg ∧ ∃ x ∈ h.splits, ∀ y, x.st ≠ .waiting y)
include named group only faulted home conv beside

/-- FRESUME of a group whose one split has faulted, beside a group that goes on (R125). -/
theorem State.fresume_faulted (a : Nat) (f : Group → Nat → Split → Group) :
    s.fresume (setBits v 61 60 a) f =
      (s.updGroup gk (fun g => ((f g 0 k).settle g.splits).lastExit)).setFld 0x20 63 62 1 := by
  obtain ⟨j, h, mem, other, wg, going⟩ := beside
  have first : g.faultedIx = some 0 := by
    unfold Group.faultedIx
    simp [only, faulted, leastBy]
  have underway : ((s.updGroup gk (fun g => ((f g 0 k).settle g.splits).lastExit)).setFld 0x20 63 62 1).Underway g.wg :=
    ⟨(j, h), mem_mupd_other _ mem other, wg, going⟩
  unfold State.fresume
  simp only [s.fresumeGroup_setAction, named, group, first, show g.splits[0]? = some k by simp [only]]
  exact underway.wgSettle home conv

/-- FRESUME with a treatment of the faulted split that leaves the group with splits ps (R125). -/
theorem State.fresume_leaves (a : Nat) {f : Group → Nat → Split → Group} {ps : List Split}
    (settled : ((f g 0 k).settle g.splits).splits = ps) :
    ∃ g', mget? (s.fresume (setBits v 61 60 a) f).groups gk = some g' ∧ g'.splits = ps ∧ g'.regs = (f g 0 k).regs ∧
      g'.exited = (f g 0 k).exited ∧ (s.fresume (setBits v 61 60 a) f).fld 0x20 63 62 = 1 ∧
      (s.fresume (setBits v 61 60 a) f).mm = s.mm := by
  obtain ⟨splits, regs, exited⟩ := lastExit_keeps ((f g 0 k).settle g.splits)
  rw [State.fresume_faulted named group only faulted home conv beside]
  exact ⟨_, mget?_mupd_same group, splits.trans settled, regs.trans (settle_regs ..), exited.trans (settle_exited ..),
    State.fld_setFld_same _ _ _ (by decide) (by decide), rfl⟩

/-- FRESUME_REPLAY and FRESUME_SKIP (R125): the split goes on at its return point, or past it. -/
theorem State.fresume_resumes (a d : Nat) :
    ∃ g' k', mget? (s.fresume (setBits v 61 60 a) (Group.resumeSplit d)).groups gk = some g' ∧ g'.splits = [k'] ∧
      k'.mask = k.mask ∧ k'.pc = k.ret + d ∧ k'.st = .live 0 ∧ g'.regs = g.regs ∧
      (s.fresume (setBits v 61 60 a) (Group.resumeSplit d)).fld 0x20 63 62 = 1 ∧
      (s.fresume (setBits v 61 60 a) (Group.resumeSplit d)).mm = s.mm := by
  have settled : ((g.resumeSplit d 0 k).settle g.splits).splits = [(k.resumed g d).goLive 0] :=
    settle_single_ready (by simp [Group.resumeSplit, only]) rfl _
  obtain ⟨g', found, splits, regs, -, result, mm⟩ :=
    State.fresume_leaves named group only faulted home conv beside a settled
  exact ⟨g', _, found, splits, rfl, rfl, rfl, regs, result, mm⟩

/-- FRESUME_EXIT (R125): the split's lanes exit. -/
theorem State.fresume_exits (a : Nat) :
    ∃ g', mget? (s.fresume (setBits v 61 60 a) Group.exitSplit).groups gk = some g' ∧ g'.splits = [] ∧
      g'.exited = g.exited ||| k.mask ∧ g'.regs = g.regs ∧
      (s.fresume (setBits v 61 60 a) Group.exitSplit).fld 0x20 63 62 = 1 ∧
      (s.fresume (setBits v 61 60 a) Group.exitSplit).mm = s.mm := by
  have settled : ((g.exitSplit 0 k).settle g.splits).splits = [] := settle_empty (by simp [Group.exitSplit, only]) _
  obtain ⟨g', found, splits, regs, exited, result, mm⟩ :=
    State.fresume_leaves named group only faulted home conv beside a settled
  exact ⟨g', found, splits, exited, regs, result, mm⟩

end

end Sys2Proof.Machine
end

section
/-! SUPPORT. The ladder of preemption: drains, saves and their limits (R104). -/

namespace Sys2Proof.Machine

/-! ## The end of a ladder -/

/-- A queue whose ladder ld has ended (R60, R72, R104). -/
def Queue.offLadder (x : Queue) (ld : Ladder) : Queue :=
  { x with
    rung := max 1 ld.rung, ladder := none, hold := ld.hold || x.hold, rsy := x.rsy && !ld.disable
    bound := if ld.disable then none else x.bound
    wait := if ld.disable then none else x.wait
    lane := if ld.hold || ld.disable then none else x.lane
    st := if ld.disable then .disabled else if ld.hold && x.st ≠ .disabled then .stopped else x.st }

@[simp] theorem Queue.stalled_rung (x : Queue) : x.stalled.rung = x.rung := by
  unfold Queue.stalled
  split <;> rfl

@[simp] theorem Queue.stalled_hold (x : Queue) : x.stalled.hold = x.hold := by
  unfold Queue.stalled
  split <;> rfl

/-- The state of a queue that is disabled or stopped stands (R71). -/
theorem Queue.stalled_st {x : Queue} (h : x.st = .disabled ∨ x.st = .stopped) : x.stalled.st = x.st := by
  unfold Queue.stalled
  rcases h with h | h <;> simp [h]

/-- A ladder that no packet waits for ends (R104). -/
theorem State.endLadder_queue {s : State} {q : Nat} {ld : Ladder} (on : (s.queue q).ladder = some ld) (alone : ld.done = []) :
    (s.endLadder q).queue q = ((s.queue q).offLadder ld).stalled := by
  have told : ∀ u : State, ∀ p k pl, (u.emitQ p 64 k pl).queue q = u.queue q := fun u p k pl => by
    unfold State.emitQ
    split
    · exact (State.emitTo_offered ..).reported.kulKept.queue q
    · rfl
  have kept : ∀ u : State, (if ld.disable then u.dropWaits q else u).queue q = u.queue q := fun u => by split <;> rfl
  unfold State.endLadder
  rw [on]
  dsimp only
  rw [alone, List.foldl_nil, List.foldl_nil, State.letGo_queue, kept, told, State.updQueue_queue]
  rfl

/-- DRAIN_COMPLETE with no gang left that drains or is being saved (R104). -/
theorem drainComplete_ends {s : State} {q : BitVec 10} {ld : Ladder} (on : (s.queue q.toNat).ladder = some ld)
    (alone : ld.done = []) (idle : s.gangsIn q.toNat (fun st => st == .draining || st == .saving) = []) :
    ∃ t, exec (.drainComplete q) s = .next t ∧ (t.queue q.toNat).ladder = none ∧
      (t.queue q.toNat).rung = max 1 ld.rung ∧ (t.queue q.toNat).hold = (ld.hold || (s.queue q.toNat).hold) ∧
      (ld.disable = true → (t.queue q.toNat).st = .disabled) ∧
      (ld.hold = true → ld.disable = false → (s.queue q.toNat).st ≠ .disabled → (t.queue q.toNat).st = .stopped) := by
  have ends : s.checkLadder q.toNat = s.endLadder q.toNat := by
    unfold State.checkLadder
    rw [idle]
    rfl
  refine ⟨s.endLadder q.toNat, congrArg Host.Outcome.next (by rw [on, Option.isSome_some, if_pos rfl, ends]), ?_⟩
  rw [State.endLadder_queue on alone]
  refine ⟨by simp [Queue.offLadder], by simp [Queue.offLadder], by simp [Queue.offLadder], fun disable => ?_,
    fun hold enabled on => ?_⟩
  · have st : ((s.queue q.toNat).offLadder ld).st = .disabled := by simp [Queue.offLadder, disable]
    rw [Queue.stalled_st (.inl st), st]
  · have st : ((s.queue q.toNat).offLadder ld).st = .stopped := by simp [Queue.offLadder, hold, enabled, on]
    rw [Queue.stalled_st (.inr st), st]

/-! ## DRAIN_LIMIT -/

/-- Gangs of a list are to be saved (R104 step 2). -/
def State.beginSaves (s : State) (l : List (Nat × Gang)) : State :=
  l.foldl (fun s e => s.updGang e.1 (fun g => { g with st := .saving })) s

theorem State.beginSaves_kul (s : State) (l : List (Nat × Gang)) : (s.beginSaves l).kul = s.kul :=
  List.foldlRecOn l _ (motive := fun t : State => t.kul = s.kul) rfl (fun _ ht _ _ => ht)

theorem State.beginSaves_launches (s : State) (l : List (Nat × Gang)) : (s.beginSaves l).launches = s.launches :=
  List.foldlRecOn l _ (motive := fun t : State => t.launches = s.launches) rfl (fun _ ht _ _ => ht)

/-- A gang stands as it stood, or is to be saved. -/
theorem State.beginSaves_gang {s : State} {k : Nat} {g : Gang} (l : List (Nat × Gang)) (h : mget? s.gangs k = some g) :
    mget? (s.beginSaves l).gangs k = some (if k ∈ l.map (·.1) then { g with st := .saving } else g) := by
  induction l generalizing s g with
  | nil => exact h
  | cons e l ih =>
    have first : mget? (s.updGang e.1 (fun g => { g with st := .saving })).gangs k =
        some (if k = e.1 then { g with st := .saving } else g) := by
      rw [State.updGang_gangs, mget?_mupd]
      split
      · next eq => rw [← eq, h, Option.map_some]
      · exact h
    rw [State.beginSaves, List.foldl_cons]
    refine (ih first).trans (congrArg some ?_)
    simp only [List.map_cons, List.mem_cons]
    split <;> split <;> simp_all

/-- DRAIN_LIMIT of a queue whose gangs left all have save slots (R104 step 2). -/
theorem drainLimit_saves {s : State} {q : BitVec 10} {ld : Ladder} (rise : (mkeys s.gangs).Pairwise (· < ·))
    (on : (s.queue q.toNat).ladder = some ld) (step : ld.step = 1) (top : 2 ≤ ld.top)
    (due : ld.since + s.fld 0x1E 31 0 * 16000 ≤ s.time)
    (slots : ∀ e ∈ s.gangsIn q.toNat (· == .draining), e.2.slot.isSome = true)
    (some_ : s.gangsIn q.toNat (· == .draining) ≠ []) :
    ∃ t ld', exec (.drainLimit q) s = .next t ∧ (t.queue q.toNat).ladder = some ld' ∧ ld'.step = 2 ∧ ld'.since = s.time ∧
      ∀ e ∈ s.gangsIn q.toNat (· == .draining), ∃ g, mget? t.gangs e.1 = some g ∧ g.st = .saving := by
  let u := s.updQueue q.toNat (fun x => { x with ladder := some { ld with step := 2, since := s.time } })
  let t := u.beginSaves (s.gangsIn q.toNat (· == .draining))
  have same : u.lodging = s.lodging := State.updQueue_lodging ..
  have saving : ∀ e ∈ s.gangsIn q.toNat (· == .draining), mget? t.gangs e.1 = some { e.2 with st := .saving } := by
    intro e he
    have before : mget? u.gangs e.1 = some e.2 := by
      rw [State.gangs_of_lodging same]
      exact mget?_of_mem rise (List.mem_filter.mp he).1
    rw [State.beginSaves_gang _ before, if_pos (List.mem_map_of_mem he)]
  have busy : t.checkLadder q.toNat = t := by
    obtain ⟨e, he⟩ := List.exists_mem_of_ne_nil _ some_
    have left : (e.1, { e.2 with st := .saving }) ∈ t.gangsIn q.toNat (fun st => st == .draining || st == .saving) := by
      refine List.mem_filter.mpr ⟨mget?_mem (saving e he), ?_⟩
      have launch := (List.mem_filter.mp he).2
      rw [Bool.and_eq_true] at launch
      have launches : t.launches = s.launches := (State.beginSaves_launches _ _).trans (State.launches_of_lodging same)
      rw [launches]
      exact launch.2
    unfold State.checkLadder
    rw [if_neg (by rw [List.isEmpty_iff]; exact List.ne_nil_of_mem left)]
  have all : (s.gangsIn q.toNat (· == .draining)).filter (fun e => e.2.slot.isSome) = s.gangsIn q.toNat (· == .draining) :=
    List.filter_eq_self.mpr slots
  have none_ : (s.gangsIn q.toNat (· == .draining)).filter (fun e => !e.2.slot.isSome) = [] :=
    List.filter_eq_nil_iff.mpr (fun e he => by simp [slots e he])
  refine ⟨t, { ld with step := 2, since := s.time }, ?_, ?_, rfl, rfl, fun e he => ⟨_, saving e he, rfl⟩⟩
  · refine congrArg Host.Outcome.next ?_
    dsimp only
    rw [on]
    dsimp only
    rw [if_pos ⟨step, top, due⟩, all, none_]
    exact busy
  · have kul : t.queue q.toNat = u.queue q.toNat := by
      unfold State.queue
      rw [State.beginSaves_kul]
    rw [kul, State.updQueue_queue, Queue.stalled_ladder]

/-! ## SAVE_LIMIT -/

@[simp] theorem State.emitBlock_lodging (s : State) (wk what cause depth : Nat) :
    (s.emitBlock wk what cause depth).lodging = s.lodging := by
  unfold State.emitBlock
  split
  · rfl
  · split
    · rfl
    · split
      · rfl
      · exact s.emitL_lodging ..

theorem State.resetGang_launches (s : State) (nk : Nat) : (s.resetGang nk).launches = s.launches := by
  unfold State.resetGang
  split
  · rfl
  · split
    · rfl
    · refine (State.launches_of_lodging (State.emitL_lodging ..)).trans (State.launches_of_lodging ?_)
      exact State.lodging_foldl (fun s _ => State.lodging_foldl (fun s _ => s.emitBlock_lodging ..) _ s) _ s

/-- A launch that is destroyed is gone, and none comes back (R104). -/
theorem State.destroyLaunch_gone {s : State} {lk k : Nat} (code : Nat) (h : k = lk ∨ mget? s.launches k = none) :
    mget? (s.destroyLaunch lk code).launches k = none := by
  have resets : ∀ ks : List Nat, (ks.foldl (fun s nk => s.resetGang nk) s).launches = s.launches := fun ks =>
    List.foldlRecOn ks _ (motive := fun t : State => t.launches = s.launches) rfl (fun _ ht _ _ => (State.resetGang_launches ..).trans ht)
  unfold State.destroyLaunch
  split
  · next gone => exact h.elim (fun e => e ▸ gone) id
  · refine (congrArg (mget? · k) (State.launches_of_lodging ((State.wantPass_lodging ..).trans
      ((State.unblock_lodging ..).trans (State.postErr_lodging ..))))).trans ?_
    by_cases same : k = lk
    · exact (mget?_mdel ..).trans (if_pos same)
    · refine (mget?_mdel ..).trans ((if_neg same).trans ((mget?_mupd_other _ _ same).trans ?_))
      rw [resets]
      exact h.resolve_left same

/-- The launches of gangs that reach step 4 are gone (R104). -/
theorem State.resetAll_gone {s : State} (q : Nat) {l : List (Nat × Gang)} {e : Nat × Gang} (h : e ∈ l) :
    mget? (s.resetAll q l).launches e.2.launch = none := by
  have folded : ∀ (ks : List Nat) (u : State), e.2.launch ∈ ks ∨ mget? u.launches e.2.launch = none →
      mget? (ks.foldl (fun s lk => s.destroyLaunch lk 7) u).launches e.2.launch = none := by
    intro ks
    induction ks with
    | nil => exact fun u h => h.resolve_left List.not_mem_nil
    | cons k ks ih =>
      intro u h
      rw [List.foldl_cons]
      refine ih _ ?_
      rw [List.mem_cons, or_assoc, or_left_comm] at h
      exact h.imp_right (State.destroyLaunch_gone 7)
  unfold State.resetAll
  rw [if_neg (by rw [List.isEmpty_iff]; exact List.ne_nil_of_mem h)]
  exact folded _ _ (.inl (mem_dedup (List.mem_map_of_mem h)))

/-- SAVE_LIMIT of a queue under TOP 3 ends the launches of the gangs not saved (R104 step 3). -/
theorem saveLimit_resets {s : State} {q : BitVec 10} {ld : Ladder} (on : (s.queue q.toNat).ladder = some ld)
    (step : ld.step = 2) (top : ld.top = 3) (due : ld.since + s.fld 0x1F 31 0 * 16000 ≤ s.time) {e : Nat × Gang}
    (he : e ∈ s.gangsIn q.toNat (· == .saving)) :
    ∃ t, exec (.saveLimit q) s = .next t ∧ mget? t.launches e.2.launch = none := by
  refine ⟨(s.resetAll q.toNat (s.gangsIn q.toNat (· == .saving))).checkLadder q.toNat, congrArg Host.Outcome.next ?_, ?_⟩
  · rw [on]
    exact if_pos ⟨step, top, due⟩
  · rw [State.launches_of_lodging (State.checkLadder_lodging ..)]
    exact State.resetAll_gone _ he

/-! ## SAVE -/

/-- Writing a gang's context leaves launches, gangs and the places of groups; then the gang leaves its cores (R104, R137). -/
theorem State.saveGang_eq (s : State) (nk : Nat) (gg : Gang) (l : Launch) :
    ∃ (u : State) (x : Saved), u.lodging = s.lodging ∧
      s.saveGang nk gg l = (((({ u with saved := mput u.saved nk x } : State).unplace nk).updGang nk
        (fun g => { g with st := .saved, halted := false })).updLaunch gg.launch
          (fun l => { l with rung := max l.rung 2 })).wantPass l.part := by
  refine ⟨_, _, ?_, rfl⟩
  rw [State.emitL_lodging, State.perturbGang_lodging, State.lodging_foldl (fun s _ => s.writeCounters_lodging ..),
    State.lodging_foldl (fun s _ => s.saveWg_lodging ..), State.vaPut_lodging, State.rrNumbers_lodging]

/-- A gang's context is written, and it leaves its cores (R104, R137). -/
theorem State.saveGang_saves {s : State} {nk : Nat} {gg : Gang} (here : mget? s.gangs nk = some gg) (l : Launch) :
    mget? (s.saveGang nk gg l).gangs nk = some { gg with st := .saved, halted := false } ∧
      (∀ e ∈ (s.saveGang nk gg l).groups, e.2.wg / 32 ≠ nk) ∧ (mget? (s.saveGang nk gg l).saved nk).isSome = true := by
  obtain ⟨u, x, same, eq⟩ := s.saveGang_eq nk gg l
  have passed : ∀ v : State, (v.wantPass l.part).gangs = v.gangs ∧ (v.wantPass l.part).groups = v.groups ∧
      (v.wantPass l.part).saved = v.saved := fun v => by
    unfold State.wantPass
    split <;> exact ⟨rfl, rfl, rfl⟩
  rw [eq, (passed _).1, (passed _).2.1, (passed _).2.2]
  refine ⟨mget?_mupd_same (show mget? u.gangs nk = some gg by rw [State.gangs_of_lodging same, here]), fun e he => ?_, ?_⟩
  · simpa using (List.mem_filter.mp he).2
  · exact congrArg Option.isSome (mget?_mput_same u.saved nk x)

/-- SAVE of a gang that has nothing outstanding (R104 step 3). -/
theorem save_saves {s : State} {nk : Nat} {gg : Gang} {l : Launch} (here : mget? s.gangs nk = some gg)
    (launch : mget? s.launches gg.launch = some l) (saving : gg.st = .saving) (ready : s.saveReady nk = true)
    (unstruck : s.anyStruck nk = false) (met : ∀ e ∈ s.groups, e.2.delayed = []) :
    ∃ t gg', exec (.save nk) s = .next t ∧ mget? t.gangs nk = some gg' ∧ gg'.st = .saved ∧
      (∀ e ∈ t.groups, e.2.wg / 32 ≠ nk) ∧ (mget? t.saved nk).isSome = true := by
  have delivered : s.delayedFaults nk = s := by
    unfold State.delayedFaults
    refine List.foldlRecOn _ _ (motive := fun t => t = s) rfl (fun t ht e he => ?_)
    rw [met e (List.mem_filter.mp he).1]
    exact ht
  obtain ⟨gangs, groups, saved⟩ := State.saveGang_saves here l
  have same : (((s.saveGang nk gg l).reach l.queue 2).checkLadder l.queue).lodging = (s.saveGang nk gg l).lodging := by simp
  refine ⟨((s.saveGang nk gg l).reach l.queue 2).checkLadder l.queue, _, congrArg Host.Outcome.next ?_,
    (congrArg (mget? · nk) (State.gangs_of_lodging same)).trans gangs, rfl, fun e he => ?_, ?_⟩
  · simp [here, launch, saving, ready, unstruck, delivered]
  · obtain ⟨e', he', wg⟩ := State.wgs_of_lodging same he
    rw [← wg]
    exact groups e' he'
  · rw [State.saved_of_lodging same]
    exact saved

end Sys2Proof.Machine

namespace Sys2Proof.Proofs
open Sys2Proof.Machine

/-- Settles O44: each clause is the lemma about its event. -/
theorem dispatcherEvents : Obligations.DispatcherEvents := by
  unfold Obligations.DispatcherEvents
  intro s p q canonical
  refine ⟨placementPass_notDue, fun i due k h o order head fit free last still => ?placed,
    fun ld on alone => ⟨drainComplete_ends on alone, drainLimit_saves canonical.gangs on,
      fun step top due e he => saveLimit_resets on step top due he⟩,
    fun nk gg l here launch saving ready unstruck met _ => save_saves here launch saving ready unstruck met,
    fun v gk g ix k w named group only _ faulted _ _ home conv beside => ⟨fun i d hi => ?resumed, ?exited⟩,
    fun v i hi none_ => fresume_unnamed none_ v hi⟩
  case placed =>
    refine ⟨s.runPass p.toNat, ?_, State.runPass_places order head fit free last still⟩
    rcases due with ⟨rfl, due⟩ | ⟨rfl, due⟩
    · exact placementPass_due due
    · exact placementRetry_due order due
  case resumed =>
    simp only [List.mem_cons, List.not_mem_nil, or_false, Prod.mk.injEq] at hi
    rcases hi with ⟨rfl, rfl⟩ | ⟨rfl, rfl⟩
    · obtain ⟨g', k', left⟩ := State.fresume_resumes named group only faulted home conv beside 0 0
      exact ⟨_, g', k', fresumeReplay_eq s v, left⟩
    · obtain ⟨g', k', left⟩ := State.fresume_resumes named group only faulted home conv beside 1 1
      exact ⟨_, g', k', fresumeSkip_eq s v, left⟩
  case exited =>
    obtain ⟨g', left⟩ := State.fresume_exits named group only faulted home conv beside 2
    exact ⟨_, g', fresumeExit_eq s v, left⟩

end Sys2Proof.Proofs
end

section
/-! SUPPORT. A state in which the statement about rollbacks does not hold: its recovery log holds an error that lies unfound. -/

namespace Sys2Proof.Proofs
open Sys2Proof.Machine

/-! ## An error in the recovery log that a rollback finds -/

/-- The launch of the workgroup: one group, its code at 0x40000, no scratchpad. -/
def rollLaunch : Launch := Launch.single 0 loadCode

/-- A register of 32 lanes 7. -/
def oldReg : Reg := { val := List.replicate 32 7#32, tag := .U, pois := [] }

/-- The frame of its group, with lane 0 active at ENSURE. -/
def loggedFrame : GroupFrame :=
  { k := 0, preds := [], m := 0, srctr := [], lanes := 1#32, ret := none, finfo := [], pub0 := [] }

/-- The open block, which has logged V4 of its one group and whose routine ends at the terminator at word 1. -/
def loggedBlock : Block :=
  { openBlock with
    term := 1, log := [.reg 0 4 oldReg]
    frames := [loggedFrame] }

def blockFailure : Failing := { cause := 9, clk := 0, depth := 0, pc := 1, atAccept := false }

/-- Its workgroup, with bank 0 as the recovery log, in which the block is failing. -/
def rollWg : Wg :=
  { Wg.placed rollLaunch 0 0 0 [] with
    banks := [(0, Bank.placed .log (some 0))], blocks := [loggedBlock], failing := some blockFailure }

def rollGroup : Group := Group.placed 0 0 0 0 0 0

def rollGang : Gang := readingCtx.gg

/-- An error that no check corrects, in the 8 bytes of the log in which the value of the logged register stands: offset 264,
behind the frame of 256 bytes and the 8 bytes of the entry's head (R132). -/
def logFlaw : Flaw := { at_ := .sram 0 33, fixed := false, known := false, synd := 0 }

/-- The first line of its code: at word 1 an ELSEBY whose next terminator stands 4 words on (R329). -/
def elsebyLine : BitVec 1024 := BitVec.ofNat 1024 (0x22000004 * 2 ^ 32)

/-- The module that is to roll the block back, with its code line at hand. -/
def rollModule : State :=
  { State.reset with
    groups := [(0, rollGroup)], wgs := [(0, rollWg)], gangs := [(0, rollGang)], launches := [(0, rollLaunch)]
    mm := { State.reset.loadTables.mm with
      tlb := [(tlbKey 1 loadCode, { base := loadCode, w := true, x := true })]
      icache := [(copyKey 0 (loadCode / 128), elsebyLine)] }
    regs := [(0x21, 0x10001#64)]
    rel := { Rel.reset with latent := [logFlaw] } }

/-- How many lanes of register r of group 0 are poisoned after a step that answers a next state. -/
def poisonedLanes (r : Nat) : Host.Outcome State Fault Refusal → Option Nat
  | .next t => (mget? t.groups 0).map (fun g => (g.reg r).pois.length)
  | _ => none

/-- The rollback finds the error as it reads the log, and restores the register poisoned in every lane (R208, R436). -/
theorem rollback_poisons_loggedReg : poisonedLanes 4 (exec (.rollback 0) rollModule) = some 32 := by
  decide +kernel

theorem rollModule_canonical : rollModule.canonical :=
  { groups := by decide, wgs := by decide, gangs := by decide, sram := by decide, memory := by decide +kernel }

/-- A translation at hand that the tables give too, whatever they have held, is used without an effect (R168). -/
theorem translate_atHand {s : State} {core asp va : Nat} {x : Trans} (on : (asp = 0 || s.fld 0x21 0 0 = 0) = false)
    (cached : mget? s.mm.tlb (tlbKey asp va) = some x) (now : (s.walk core asp va).1 = some x)
    (held : (s.heldTrans asp va).all (· == x) = true) (kept : mput s.mm.tlb (tlbKey asp va) x = s.mm.tlb) :
    s.translate core asp va = (some x, s) := by
  have same : ((x :: s.heldTrans asp va).map some).all (· == some x) = true := by
    rw [List.all_map, List.all_cons, Bool.and_eq_true]
    exact ⟨by simp, by simpa using held⟩
  unfold State.translate
  rw [on]
  simp only [cached, now, Option.isSome_some, Option.toList_some, List.singleton_append, same, if_true, Bool.false_eq_true, if_false,
    kept]
  rfl

/-- A word of a code line at hand is fetched without an effect (R275). -/
theorem fetch_atHand {s : State} {c : Ctx} {pc va : Nat} {t : Trans} {d : BitVec 1024} (inRange : pc < 2 ^ 22)
    (live : s.stale c.l = false) (at_ : va = c.l.codebase % 2 ^ 60 + 4 * pc) (path : va < 2 ^ 52)
    (mapped : s.translate c.g.core c.l.aspace va = (some t, s)) (exe : t.x = true)
    (line : mget? s.mm.icache (copyKey c.g.core ((t.base + va % 65536) / 128)) = some d) :
    s.fetch c pc = (.inr (BitVec.ofNat 32 (d.toNat / 2 ^ (8 * ((t.base + va % 65536) % 128)))), s) := by
  have read : s.codeLine c.g.core ((t.base + va % 65536) / 128) = (d, s) := by
    unfold State.codeLine
    rw [line]
  rw [State.fetch_mapped inRange live at_ path mapped exe, read]

/-- Memory is as before, and its translation at word 1 is at hand, once the block is undone. -/
theorem translate_undone {l : Launch} {core : Nat} (launch : l = rollLaunch) (zero : core = 0) :
    (rollModule.undo 0).translate core l.aspace (loadCode + 4) =
      (some { base := loadCode, w := true, x := true }, rollModule.undo 0) := by
  subst launch zero
  exact translate_atHand (by decide +kernel) (by decide +kernel) (by decide +kernel) (by decide +kernel) (by decide +kernel)

/-- What rollback finds of the workgroup once its block is undone: a context of the same launch, on core 0. -/
theorem wgCtx_undone : ∃ c, (rollModule.undo 0).wgCtx 0 = some c ∧ c.l = rollLaunch ∧ c.g.core = 0 := by
  have found : ((rollModule.undo 0).wgCtx 0).any (fun c => c.l = rollLaunch && c.g.core = 0) = true := by decide +kernel
  cases at_ : (rollModule.undo 0).wgCtx 0 with
  | none => rw [at_] at found; cases found
  | some c => rw [at_] at found; exact ⟨c, rfl, by simpa using found⟩

/-- The word at 1 of the line. -/
theorem elseby_termOf :
    termOf (BitVec.ofNat 32 (elsebyLine.toNat / 2 ^ (8 * ((loadCode + (loadCode + 4) % 65536) % 128)))) = .next 4 := by
  decide +kernel

/-- The terminator is read without an effect of its fetch. -/
theorem termAt_undone {c : Ctx} (launch : c.l = rollLaunch) (core : c.g.core = 0) :
    (rollModule.undo 0).termAt c 1 = (.next 4, rollModule.undo 0) := by
  have live : (rollModule.undo 0).stale rollLaunch = false := by decide +kernel
  have line : ∀ k, k = 0 → mget? (rollModule.undo 0).mm.icache (copyKey k ((loadCode + (loadCode + 4) % 65536) / 128)) =
      some elsebyLine := by
    rintro _ rfl
    decide +kernel
  have fetched := fetch_atHand (s := rollModule.undo 0) (c := c) (pc := 1) (va := loadCode + 4) (by decide)
    (launch ▸ live) (by rw [launch]; decide) (by decide) (translate_undone launch core) rfl (line _ core)
  unfold State.termAt
  rw [fetched]
  simp only [elseby_termOf]

/-- Refutes O38: the clause of a rollback says that the logged register has its pre-image again, with no word of errors that
lie unfound; a pre-image whose sector of the recovery log holds an error that no check corrects comes back poisoned
(State.checkLog, LogEntry.readAt, R208). -/
theorem not_rollbackAndConversation : ¬ Obligations.RollbackAndConversation := by
  unfold Obligations.RollbackAndConversation
  intro h
  obtain ⟨c, found, launch, core⟩ := wgCtx_undone
  obtain ⟨t, g, _, _, _, he, hg, restored, _⟩ := (h rollModule 0 rollModule_canonical).1 rollWg rollGang rollLaunch blockFailure
    loggedBlock 0 rollGroup 0 4 oldReg loggedFrame c 4 rfl rfl rfl rfl rfl rfl rfl rfl rfl (by decide) rfl
    (by decide) rfl (by simp [rollModule]) rfl rfl (by decide) found (termAt_undone launch core)
  have poisoned := rollback_poisons_loggedReg
  rw [he] at poisoned
  simp [poisonedLanes, hg, restored, oldReg] at poisoned

end Sys2Proof.Proofs
end

section
/-! SUPPORT. Waiting points (R110, R112, R118): what merging, settling, parking and going on leave of the splits that stand
there. -/

namespace Sys2Proof.Machine

/-! ## Splits that hold the lanes of others -/

/-- Split q holds the lanes of p at the same word, and waits where p does, or like p nowhere. -/
structure Split.Holds (q p : Split) : Prop where
  lanes : ∀ l, p.mask.getLsbD l = true → q.mask.getLsbD l = true
  pc    : q.pc = p.pc
  waits : ∀ w, q.st = .waiting w ↔ p.st = .waiting w

theorem Split.Holds.refl (p : Split) : p.Holds p := ⟨fun _ h => h, rfl, fun _ => .rfl⟩

theorem Split.Holds.trans {p q r : Split} (h : r.Holds q) (h' : q.Holds p) : r.Holds p :=
  ⟨fun l hl => h.lanes l (h'.lanes l hl), h.pc.trans h'.pc, fun w => (h.waits w).trans (h'.waits w)⟩

theorem goLive_holds {p : Split} (ready : p.st = .ready) (i : Nat) : (p.goLive i).Holds p :=
  ⟨fun _ h => h, rfl, fun w => by simp [Split.goLive, ready]⟩

/-- Splits that may merge stand at one word, and wait at one point or nowhere (R112). -/
theorem canMerge_iff_waits {a b : Split} (h : canMerge a b = true) :
    b.pc = a.pc ∧ ∀ w, a.st = .waiting w ↔ b.st = .waiting w := by
  unfold canMerge at h
  simp only [Bool.and_eq_true, beq_iff_eq] at h
  obtain ⟨⟨⟨pc, -⟩, -⟩, states⟩ := h
  refine ⟨pc.symm, fun w => ?_⟩
  split at states
  next i j ha hb => rw [ha, hb]; simp
  next i ha hb => rw [ha, hb]; simp
  next i ha hb => rw [ha, hb]; simp
  next ha hb => rw [ha, hb]
  next x y ha hb =>
    obtain ⟨⟨same, -⟩, -⟩ := by simpa only [Bool.and_eq_true, beq_iff_eq] using states
    rw [ha, hb, same]
  next => cases states

/-- The union of two splits that stand at one word, and wait at one point or nowhere, holds both. -/
theorem mergeTwo_holds {m e : Split} (pc : m.pc = e.pc) (waits : ∀ w, m.st = .waiting w ↔ e.st = .waiting w) :
    (mergeTwo m e).Holds m ∧ (mergeTwo m e).Holds e := by
  have lanes : (mergeTwo m e).mask = m.mask ||| e.mask := rfl
  have pc' : (mergeTwo m e).pc = e.pc := by
    simp only [mergeTwo]
    split
    · rfl
    · exact pc
  have st : ∀ w, (mergeTwo m e).st = .waiting w ↔ e.st = .waiting w := by
    intro w
    have both := waits w
    change mergeSt m.st e.st = _ ↔ _
    unfold mergeSt
    split
    next i j hm he => rw [he]; simp
    next i hm _ => rw [← both, hm]
    next j he _ => rw [he]
    next => exact both
  exact ⟨⟨fun l hl => by simp [lanes, hl], pc'.trans pc.symm, fun w => (st w).trans (waits w).symm⟩,
    ⟨fun l hl => by simp [lanes, hl], pc', st⟩⟩

/-- The union of a split with all those that it may merge with holds each of them. -/
theorem mergeAll_holds {p m : Split} {others : List (Split × Nat)} (start : m.Holds p)
    (may : ∀ e ∈ others, canMerge p e.1 = true) :
    (others.foldl (fun a e => mergeTwo a e.1) m).Holds m ∧
      ∀ e ∈ others, (others.foldl (fun a e => mergeTwo a e.1) m).Holds e.1 := by
  induction others generalizing m with
  | nil => exact ⟨.refl m, fun e h => absurd h List.not_mem_nil⟩
  | cons e r ih =>
    obtain ⟨pc, waits⟩ := canMerge_iff_waits (may e List.mem_cons_self)
    obtain ⟨one, two⟩ := mergeTwo_holds (start.pc.trans pc.symm) (fun w => (start.waits w).trans (waits w))
    obtain ⟨all, rest⟩ := ih (one.trans start) (fun x hx => may x (List.mem_cons_of_mem e hx))
    refine ⟨all.trans one, fun x hx => ?_⟩
    rcases List.mem_cons.mp hx with rfl | hx
    · exact all.trans two
    · exact rest x hx

theorem mergeAt_holds (g : Group) (ix : Nat) {q : Split} (h : q ∈ g.splits) : ∃ r ∈ (g.mergeAt ix).1.splits, r.Holds q := by
  unfold Group.mergeAt
  split
  · exact ⟨q, h, .refl q⟩
  next p hp =>
    dsimp only
    generalize ho : g.splits.zipIdx.filter (fun e => e.2 != ix && canMerge p e.1) = others
    split
    · exact ⟨q, h, .refl q⟩
    next ne =>
      have may : ∀ e ∈ others, canMerge p e.1 = true ∧ e.2 ≠ ix ∧ g.splits[e.2]? = some e.1 := by
        intro e he
        rw [← ho, List.mem_filter, Bool.and_eq_true, bne_iff_ne] at he
        exact ⟨he.2.2, he.2.1, List.mem_zipIdx_iff_getElem?.mp he.1⟩
      obtain ⟨whole, parts⟩ := mergeAll_holds (.refl p) (fun e he => (may e he).1)
      generalize others.foldl (fun a e => mergeTwo a e.1) p = m at whole parts
      have kept : ∀ (j : Nat) (r : Split), (g.splits.set ix m)[j]? = some r → (∀ e ∈ others, e.2 ≠ j) →
          r ∈ (((g.splits.set ix m).zipIdx.filter (fun e => !(others.map (·.2)).contains e.2)).map (·.1)) := by
        intro j r hj free
        refine List.mem_map.mpr ⟨(r, j), List.mem_filter.mpr ⟨List.mem_zipIdx_iff_getElem?.mpr hj, ?_⟩, rfl⟩
        simpa using fun x hx => free (x, j) hx rfl
      have merged := kept ix m (by
        rw [List.getElem?_set_self (List.getElem?_eq_some_iff.mp hp).1]) (fun e he => (may e he).2.1)
      obtain ⟨j, hj, rfl⟩ := List.getElem_of_mem h
      have at_ : g.splits[j]? = some g.splits[j] := List.getElem?_eq_getElem hj
      by_cases self : j = ix
      · subst self
        rw [at_] at hp
        cases hp
        exact ⟨m, merged, whole⟩
      · by_cases gone : ∃ e ∈ others, e.2 = j
        · obtain ⟨e, he, rfl⟩ := gone
          have same := (may e he).2.2
          have eq : g.splits[e.2] = e.1 := Option.some.inj (at_.symm.trans same)
          exact ⟨m, merged, eq ▸ parts e he⟩
        · exact ⟨_, kept j _ (by rw [List.getElem?_set_ne (Ne.symm self), at_]) (fun e he eq => gone ⟨e, he, eq⟩), .refl _⟩

theorem mergeSplit_holds (g : Group) (p : Split) {q : Split} (h : q ∈ g.splits) :
    ∃ r ∈ (g.mergeSplit p).splits, r.Holds q := by
  unfold Group.mergeSplit
  split
  · exact mergeAt_holds g _ h
  · exact ⟨q, h, .refl q⟩

theorem mergeParked_holds (g : Group) (old : List Split) {q : Split} (h : q ∈ g.splits) :
    ∃ r ∈ (g.mergeParked old).splits, r.Holds q := by
  unfold Group.mergeParked
  exact List.foldlRecOn _ _ (motive := fun a : Group => ∃ r ∈ a.splits, r.Holds q) ⟨q, h, .refl q⟩ (fun a ⟨r, hr, holds⟩ p _ =>
    have ⟨r', hr', holds'⟩ := mergeSplit_holds a p hr
    ⟨r', hr', holds'.trans holds⟩)

/-- A split that waits at no JOIN stays as it is when one is released (R113). -/
theorem joinRelease_keeps (g : Group) {q : Split} (h : q ∈ g.splits) (noJoin : q.st ≠ .waiting .join) :
    q ∈ g.joinRelease.splits := by
  unfold Group.joinRelease
  dsimp only
  split
  · exact h
  · split
    · exact h
    · refine List.mem_append_left _ (List.mem_filter.mpr ⟨h, ?_⟩)
      simp [noJoin]

theorem leastBy_mem {α : Type} {k : α → Nat} {l : List α} {a : α} (h : leastBy k l = some a) : a ∈ l := by
  induction l generalizing a with
  | nil => cases h
  | cons b r ih =>
    simp only [leastBy] at h
    split at h
    · cases h
      exact List.mem_cons_self
    next c hc =>
      split at h <;> cases h
      · exact List.mem_cons_of_mem _ (ih hc)
      · exact List.mem_cons_self

/-- Refill takes a ready split, and not the one left out (R111). -/
theorem nextReady_some {ps : List Split} {ex : Option Nat} {k : Nat} (h : nextReady ps ex = some k) :
    ∃ p, ps[k]? = some p ∧ p.st = .ready ∧ some k ≠ ex := by
  unfold nextReady at h
  obtain ⟨e, least, rfl⟩ := Option.map_eq_some_iff.mp h
  obtain ⟨at_, ready⟩ := List.mem_filter.mp (leastBy_mem least)
  simp only [Bool.and_eq_true, beq_iff_eq, bne_iff_ne] at ready
  exact ⟨e.1, List.mem_zipIdx_iff_getElem?.mp at_, ready⟩

/-- Refill leaves every split, or makes it live where it is ready (R111). -/
theorem refillList_mem (n : Nat) {ps : List Split} {q : Split} (h : q ∈ ps) :
    q ∈ refillList ps n ∨ q.st = .ready ∧ ∃ i, q.goLive i ∈ refillList ps n := by
  induction n generalizing ps q with
  | zero => exact .inl h
  | succ n ih =>
    simp only [refillList]
    split
    next i _ k _ next_ =>
      obtain ⟨p, at_, ready, -⟩ := nextReady_some next_
      obtain ⟨j, hj, rfl⟩ := List.getElem_of_mem h
      have len : j < (ps.modify k (·.goLive i)).length := by simpa using hj
      have step := List.getElem_mem len
      rw [List.getElem_modify] at step
      split at step
      next eq =>
        subst eq
        rw [List.getElem?_eq_getElem hj] at at_
        cases at_
        refine .inr ⟨ready, ?_⟩
        rcases ih step with there | ⟨r, -⟩
        · exact ⟨i, there⟩
        · simp [Split.goLive] at r
      · exact ih step
    · exact .inl h

theorem refill_holds (g : Group) {q : Split} (h : q ∈ g.splits) : ∃ r ∈ g.refill.splits, r.Holds q := by
  rcases refillList_mem 4 h with there | ⟨ready, i, there⟩
  · exact ⟨q, there, .refl q⟩
  · exact ⟨_, there, goLive_holds ready i⟩

/-- Settling leaves the lanes of every split that waits at no JOIN where they are (R111 to R113). -/
theorem settle_holds (g : Group) (old : List Split) {q : Split} (h : q ∈ g.splits) (noJoin : q.st ≠ .waiting .join) :
    ∃ r ∈ (g.settle old).splits, r.Holds q := by
  obtain ⟨a, ha, first⟩ := mergeParked_holds g old h
  have noJoin' : a.st ≠ .waiting .join := fun e => noJoin ((first.waits _).mp e)
  obtain ⟨b, hb, second⟩ := refill_holds _ (joinRelease_keeps _ ha noJoin')
  exact ⟨b, hb, second.trans first⟩

/-! ## Going on from a waiting point -/

theorem goOn_same (g : Group) (at_ : WaitAt) : (g.goOn at_).sameButSplits g := (settle_same _ _).trans rfl

/-- Every split of a group that waits at one point goes on at its next word (R112, R118). -/
theorem goOn_wentOn {g : Group} {at_ : WaitAt} (waits : ∀ q ∈ g.splits, q.st = .waiting at_) : (g.goOn at_).wentOn g.splits := by
  intro q hq l _ lane
  have there : ({ q with st := .ready, pc := q.pc + 1, inClause := false, arg := 0 } : Split) ∈
      g.splits.map (fun p => if p.st = .waiting at_ then
        { p with st := .ready, pc := p.pc + 1, inClause := false, arg := 0 } else p) :=
    List.mem_map.mpr ⟨q, hq, if_pos (waits q hq)⟩
  obtain ⟨p, hp, holds⟩ := settle_holds ({ g with splits := _ } : Group) g.splits there (by simp)
  refine ⟨p, hp, holds.lanes l lane, holds.pc, ?_⟩
  unfold Split.isWaiting
  split
  next w hw => exact absurd ((holds.waits w).mp hw) (by simp)
  · rfl

end Sys2Proof.Machine
end

section
/-! SUPPORT. Releases that nothing holds back (R186, R193, R197), parking at a waiting point (R110), and what settling a workgroup
does there (R118, R129, R335). -/

namespace Sys2Proof.Machine

/-! ## Reports leave the groups, the workgroups and memory alone -/

theorem State.Offered.groups {s t : State} (h : s.Offered t) : t.groups = s.groups := by obtain ⟨_, rfl⟩ := h; rfl
theorem State.Offered.wgs {s t : State} (h : s.Offered t) : t.wgs = s.wgs := by obtain ⟨_, rfl⟩ := h; rfl
theorem State.Offered.mm {s t : State} (h : s.Offered t) : t.mm = s.mm := by obtain ⟨_, rfl⟩ := h; rfl
theorem State.Offered.kul {s t : State} (h : s.Offered t) : t.kul = s.kul := by obtain ⟨_, rfl⟩ := h; rfl
theorem State.Offered.regs {s t : State} (h : s.Offered t) : t.regs = s.regs := by obtain ⟨_, rfl⟩ := h; rfl

theorem State.emitL_offered (s : State) (l : Launch) (die c i k pl : Nat) : s.Offered (s.emitL l die c i k pl) := by
  unfold State.emitL
  split
  · exact s.emitTo_offered ..
  · exact .refl s

theorem State.emitWg_offered (s : State) (wk kind pl : Nat) : s.Offered (s.emitWg wk kind pl) := by
  unfold State.emitWg
  split
  · exact s.emitL_offered ..
  · exact .refl s

theorem State.emitBlock_offered (s : State) (wk what cause depth : Nat) : s.Offered (s.emitBlock wk what cause depth) := by
  unfold State.emitBlock
  split
  · exact .refl s
  · split
    · exact .refl s
    · split
      · exact .refl s
      · exact s.emitL_offered ..

/-! ## Groups that differ in their splits only -/

theorem Group.sameButSplits.wg {a b : Group} (h : a.sameButSplits b) : a.wg = b.wg := by
  have same := congrArg Group.wg h
  exact same

theorem Group.sameButSplits.regs {a b : Group} (h : a.sameButSplits b) : a.regs = b.regs := by
  have same := congrArg Group.regs h
  exact same

/-! ## Releases -/

/-- The workgroup of a context, and its launch, are those that the state finds (R88). -/
theorem CtxOf.launchOf {s : State} {c : Ctx} (h : CtxOf s c) : s.launchOf c.wk = some (c.wg, c.gg, c.l) := by
  have gang := h.gang
  have launch := h.launch
  rw [h.nk] at gang
  rw [h.lk] at launch
  unfold State.launchOf
  rw [h.wg]
  dsimp only
  rw [gang]
  dsimp only
  rw [launch]

theorem Wg.pubUp_noBlock {w : Wg} (h : w.blocks = []) (k scope : Nat) : w.pubUp k scope = w := by
  unfold Wg.pubUp
  rw [h]
  cases w
  cases h
  rfl

theorem inBlock_iff {c : Ctx} : c.inBlock = true ↔ c.wg.blocks ≠ [] := by
  unfold Ctx.inBlock
  cases c.wg.blocks <;> simp

theorem inBlock_eq_false {c : Ctx} : c.inBlock = false ↔ c.wg.blocks = [] := by
  unfold Ctx.inBlock
  cases c.wg.blocks <;> simp

/-- The state after a release that has no tile to push: the group is released, and where a block is open the frames of its
workgroup are published as widely (R164, R197, R367). -/
theorem released_clean {s : State} {c : Ctx} (dirty : c.wg.dirty = []) (scope : Nat) :
    s.released c scope = if c.inBlock then (s.updGroup c.gk (·.afterRelease scope)).updWg c.wk (·.pubUp c.g.k scope)
      else s.updGroup c.gk (·.afterRelease scope) := by
  unfold State.released State.pushTiles
  rw [dirty]
  dsimp only [List.foldl_nil]
  split <;> rfl

section
variable {s : State} {c : Ctx} (dirty : c.wg.dirty = []) (scope : Nat)
include dirty

theorem released_groups : (s.released c scope).groups = mupd s.groups c.gk (·.afterRelease scope) := by
  rw [released_clean dirty]
  split <;> rfl

theorem released_mm : (s.released c scope).mm = s.mm := by
  rw [released_clean dirty]
  split <;> rfl

theorem released_regs : (s.released c scope).regs = s.regs := by
  rw [released_clean dirty]
  split <;> rfl

theorem released_gangs : (s.released c scope).gangs = s.gangs := by
  rw [released_clean dirty]
  split <;> rfl

theorem released_launches : (s.released c scope).launches = s.launches := by
  rw [released_clean dirty]
  split <;> rfl

theorem released_wgs_other {k : Nat} (h : k ≠ c.wk) : mget? (s.released c scope).wgs k = mget? s.wgs k := by
  rw [released_clean dirty]
  split
  · exact mget?_mupd_other _ _ h
  · rfl

theorem released_wg (here : mget? s.wgs c.wk = some c.wg) :
    mget? (s.released c scope).wgs c.wk = some (c.wg.pubUp c.g.k scope) := by
  rw [released_clean dirty]
  split
  next _ => exact mget?_mupd_same here
  next out => rw [Wg.pubUp_noBlock (inBlock_eq_false.mp (Bool.eq_false_iff.mpr out))]; exact here

end

/-- A group with no fault of an engine to be delivered. -/
theorem due_none {g : Group} (h : g.delayed = []) (fs : Option (BitVec 12)) : g.due fs = none := by
  unfold Group.due
  rw [h]
  rfl

theorem relCheck_ok {c : Ctx} (resolved : c.g.watching = false) (noDelayed : c.g.delayed = []) (noStrike : c.g.struck = false)
    (r : Nat) : c.relCheck r false = .ok := by
  unfold Ctx.relCheck
  simp [resolved, due_none noDelayed, noStrike]

/-- A release that nothing holds back takes effect, unless it escapes an open block (R135, R186). -/
theorem MayRelease.relThen {s : State} {c : Ctx} {scope : Nat} (h : MayRelease s c scope) (r : Nat)
    (own : List (Option Nat × Nat)) (code : Nat → Option Nat) (k : State → State) :
    s.relThen c r scope own code k =
      if c.escapeOf scope own then s.escape c code else k (s.released c scope) := by
  unfold State.relThen State.relWith
  rw [h.performed, relCheck_ok h.resolved h.noDelayed h.noStrike]
  rfl

/-- Outside a block nothing escapes, and a release at GROUP or WG never does (R135). -/
theorem escapes_false {c : Ctx} {scope : Nat} (h : c.wg.blocks = [] ∨ scope < 2) : c.escapes scope = false := by
  unfold Ctx.escapes
  rcases h with h | h
  · rw [inBlock_eq_false.mpr h]
    rfl
  · rw [decide_eq_false (Nat.not_le.mpr h), Bool.and_false, Bool.false_and]

theorem escapeOf_false {c : Ctx} {scope : Nat} (h : c.wg.blocks = [] ∨ scope < 2) (own : List (Option Nat × Nat)) :
    c.escapeOf scope own = false :=
  escapes_false h

/-! ## Parking -/

theorem getElem?_single {p q : Split} {ix : Nat} (h : [p][ix]? = some q) : ix = 0 := by
  rcases ix with _ | ix
  · rfl
  · simp at h

/-- The splits of a group after its split at position ix is parked, before it settles. -/
def Group.parked (g : Group) (ix : Nat) (at_ : WaitAt) (r arg : Nat) : Group :=
  { g with splits := g.splits.modify ix (fun p =>
      { p with st := .waiting at_, stall := r, arg := arg, age := 0, wait := 0#12, yielded := p.inClause && p.yieldHint }) }

theorem State.park_eq (s : State) (c : Ctx) (at_ : WaitAt) (r arg : Nat) :
    s.park c at_ r arg = s.updGroup c.gk (fun g => (g.parked c.ix at_ r arg).settle g.splits) := rfl

theorem parked_same (g : Group) (ix : Nat) (at_ : WaitAt) (r arg : Nat) (old : List Split) :
    ((g.parked ix at_ r arg).settle old).sameButSplits g := (settle_same _ _).trans rfl

/-- The lanes of a parked split wait there, at its word (R110). -/
theorem parked_waits {g : Group} {ix : Nat} {p : Split} (h : g.splits[ix]? = some p) {at_ : WaitAt} (noJoin : at_ ≠ .join)
    (r arg : Nat) (old : List Split) :
    ∃ q ∈ ((g.parked ix at_ r arg).settle old).splits, q.st = .waiting at_ ∧ q.pc = p.pc ∧
      ∀ l, p.mask.getLsbD l = true → q.mask.getLsbD l = true := by
  have len := (List.getElem?_eq_some_iff.mp h).1
  have there : ({ p with
      st := .waiting at_, stall := r, arg := arg, age := 0, wait := 0#12, yielded := p.inClause && p.yieldHint } : Split) ∈
      (g.parked ix at_ r arg).splits := by
    refine List.mem_iff_getElem?.mpr ⟨ix, ?_⟩
    simp [Group.parked, h]
  obtain ⟨q, hq, holds⟩ := settle_holds _ old there (by simpa using noJoin)
  exact ⟨q, hq, (holds.waits at_).mpr rfl, holds.pc, holds.lanes⟩

/-- The only split of a group, parked, waits alone (R110). -/
theorem parked_single {g : Group} {p : Split} (only : g.splits = [p]) {at_ : WaitAt} (noJoin : at_ ≠ .join) (r arg : Nat)
    (old : List Split) :
    ((g.parked 0 at_ r arg).settle old).splits = [{ p with
      st := .waiting at_, stall := r, arg := arg, age := 0, wait := 0#12, yielded := p.inClause && p.yieldHint }] := by
  have alone : (g.parked 0 at_ r arg).splits = [{ p with
      st := .waiting at_, stall := r, arg := arg, age := 0, wait := 0#12, yielded := p.inClause && p.yieldHint }] := by
    simp [Group.parked, only]
  have joined : (g.parked 0 at_ r arg).joinRelease = g.parked 0 at_ r arg := by
    unfold Group.joinRelease
    rw [alone]
    simp [noJoin, leastBy]
  unfold Group.settle
  rw [mergeParked_single alone, joined]
  simp [Group.refill, alone, refillList, nextReady, leastBy]

/-- A split that is parked in state u, which has come of state s by changes f of the issuing group, parks there (R110). -/
theorem parksAt_of {s u : State} {c : Ctx} {i : Instr} (hi : MayIssue s c i) {at_ : WaitAt} (noJoin : at_ ≠ .join) {r arg : Nat}
    {f : Group → Group} (group : mget? u.groups c.gk = some (f c.g)) (splits : (f c.g).splits = c.g.splits)
    (others : ∀ k, k ≠ c.gk → mget? u.groups k = mget? s.groups k) (mm : u.mm = s.mm) (regs : u.regs = s.regs)
    (he : exec i s = .next (u.park c at_ r arg)) : ParksAt i s c at_ f := by
  have here : (f c.g).splits[c.ix]? = some c.sp := splits ▸ hi.ctxOf.split
  obtain ⟨q, hq, st, pc, lanes⟩ := parked_waits here noJoin r arg (f c.g).splits
  refine ⟨_, _, he, mget?_mupd_same group, ?_, fun k hk => (mget?_mupd_other _ _ hk).trans (others k hk), mm, regs,
    fun l _ lane => ⟨q, hq, lanes l lane, st, pc⟩⟩
  have same := parked_same (f c.g) c.ix at_ r arg (f c.g).splits
  unfold Group.sameButSplits at same
  exact congrArg (fun g : Group => { g with splits := c.g.splits }) same

/-! ## Gathering -/

/-- Some split of workgroup wk does not wait at this point. -/
def State.Elsewhere (s : State) (wk : Nat) (at_ : WaitAt) : Prop :=
  ∃ e ∈ s.groups, e.2.wg = wk ∧ ∃ p ∈ e.2.splits, p.st ≠ .waiting at_

theorem State.Elsewhere.gathered {s : State} {wk : Nat} {at_ : WaitAt} (h : s.Elsewhere wk at_) : s.gathered wk at_ = false := by
  obtain ⟨e, mem, here, p, hp, st⟩ := h
  have notAll : (s.groupsOf wk).all (fun e => e.2.arrived at_) = false := by
    rw [List.all_eq_false]
    refine ⟨e, List.mem_filter.mpr ⟨mem, by simp [here]⟩, ?_⟩
    unfold Group.arrived
    rw [Bool.not_eq_true, List.all_eq_false]
    exact ⟨p, hp, by simpa using st⟩
  unfold State.gathered
  simp only [notAll, Bool.false_and]

theorem arrived_of {g : Group} {at_ : WaitAt} (h : ∀ q ∈ g.splits, q.st = .waiting at_) : g.arrived at_ = true :=
  List.all_eq_true.mpr fun q hq => by simpa using h q hq

/-- All splits of a workgroup wait at a point, and there is one (R118). -/
theorem State.gathered_of {s : State} {wk : Nat} {at_ : WaitAt} (some_ : ∃ k h, (k, h) ∈ s.groups ∧ h.wg = wk ∧ h.splits ≠ [])
    (all : ∀ k h, (k, h) ∈ s.groups → h.wg = wk → ∀ q ∈ h.splits, q.st = .waiting at_) : s.gathered wk at_ = true := by
  obtain ⟨k, h, mem, here, ne⟩ := some_
  unfold State.gathered
  rw [Bool.and_eq_true, List.all_eq_true, List.any_eq_true]
  constructor
  · intro e he
    obtain ⟨mem, wg⟩ := List.mem_filter.mp he
    exact arrived_of (all e.1 e.2 mem (by simpa using wg))
  · exact ⟨(k, h), List.mem_filter.mpr ⟨mem, by simp [here]⟩, by simpa using ne⟩

theorem State.wbarCheck_none {s : State} {wk : Nat} (h : s.Elsewhere wk .wbar) : s.wbarCheck wk = s := by
  unfold State.wbarCheck
  simp [h.gathered]

theorem State.convlCheck_none {s : State} {wk : Nat} {w : Wg} (here : mget? s.wgs wk = some w)
    (conv : w.conv = none ∨ w.convl = []) : s.convlCheck wk = s := by
  unfold State.convlCheck
  rcases conv with conv | conv <;> simp [here, conv]

theorem State.acceptCheck_none {s : State} {wk : Nat} {w : Wg} (here : mget? s.wgs wk = some w) (h : s.Elsewhere wk .accept) :
    s.acceptCheck wk = s := by
  unfold State.acceptCheck State.voted
  simp [here, h.gathered]

theorem State.goOnAll_groups (s : State) (wk : Nat) (at_ : WaitAt) (k : Nat) :
    mget? (s.goOnAll wk at_).groups k = (mget? s.groups k).map (fun g => if g.wg = wk then g.goOn at_ else g) :=
  mget?_mmap s.groups (fun _ g => if g.wg = wk then g.goOn at_ else g) k

/-! ## Collections whose keys rise -/

theorem mkeys_mput {α : Type} {m : Map α} (rise : (mkeys m).Pairwise (· < ·)) {n : Nat} {v : α} (at_ : mget? m n = some v) (a : α) :
    mkeys (mput m n a) = mkeys m := by
  induction m with
  | nil => cases at_
  | cons e r ih =>
    obtain ⟨k, x⟩ := e
    obtain ⟨below, rest⟩ := List.pairwise_cons.mp rise
    simp only [mget?] at at_
    simp only [mput]
    split at at_
    next eq => subst eq; simp [mkeys]
    next ne =>
      have later : k < n := below n (List.mem_map.mpr ⟨_, mget?_mem at_, rfl⟩)
      rw [if_neg (by omega), if_neg ne]
      exact congrArg (k :: ·) (ih rest at_)

theorem mkeys_mupd {α : Type} {m : Map α} (rise : (mkeys m).Pairwise (· < ·)) (n : Nat) (f : α → α) :
    mkeys (mupd m n f) = mkeys m := by
  unfold mupd
  split
  next v at_ => exact mkeys_mput rise at_ (f v)
  · rfl

end Sys2Proof.Machine
end

section
/-! SUPPORT. Barriers, WAITF and HALT (R118, R120, R409, R410, R418, R419). -/

namespace Sys2Proof.Machine

/-- An escape no lane of which faults fails the innermost block with cause 9 (R135). -/
theorem escape_clean {s : State} {c : Ctx} {code : Nat → Option Nat} (h : ∀ l < 32, code l = none) :
    s.escape c code = s.failBlock c.wk 9 0 c.sp.pc false := by
  unfold State.escape
  rw [List.filterMap_eq_nil_iff.mpr fun l hl => h l (mem_lanesOf.mp hl).1]
  rfl

section
variable {s : State} {c : Ctx} (dirty : c.wg.dirty = []) (scope : Nat) (at_ : WaitAt) (r arg : Nat)
include dirty

/-! ## A release that parks its split -/

theorem releasedPark_groups : ((s.released c scope).park c at_ r arg).groups =
    mupd (mupd s.groups c.gk (·.afterRelease scope)) c.gk (fun g => (g.parked c.ix at_ r arg).settle g.splits) := by
  rw [State.park_eq, State.updGroup_groups, released_groups dirty]

/-- The issuing group after a release that parks its split. -/
theorem releasedPark_group (hc : CtxOf s c) : mget? ((s.released c scope).park c at_ r arg).groups c.gk =
    some (((c.g.afterRelease scope).parked c.ix at_ r arg).settle c.g.splits) := by
  rw [releasedPark_groups dirty]
  exact mget?_mupd_same (mget?_mupd_same hc.group)

theorem releasedPark_other {k : Nat} (h : k ≠ c.gk) :
    mget? ((s.released c scope).park c at_ r arg).groups k = mget? s.groups k := by
  rw [releasedPark_groups dirty, mget?_mupd_other _ _ h, mget?_mupd_other _ _ h]

theorem releasedPark_mm : ((s.released c scope).park c at_ r arg).mm = s.mm := released_mm dirty scope

theorem releasedPark_wg (hc : CtxOf s c) :
    mget? ((s.released c scope).park c at_ r arg).wgs c.wk = some (c.wg.pubUp c.g.k scope) := released_wg dirty scope hc.wg

theorem releasedPark_wgs_other {k : Nat} (h : k ≠ c.wk) :
    mget? ((s.released c scope).park c at_ r arg).wgs k = mget? s.wgs k := released_wgs_other dirty scope h

theorem releasedPark_launchOf (hc : CtxOf s c) :
    ((s.released c scope).park c at_ r arg).launchOf c.wk = some (c.wg.pubUp c.g.k scope, c.gg, c.l) := by
  have wg := releasedPark_wg dirty scope at_ r arg hc
  have gangs : ((s.released c scope).park c at_ r arg).gangs = s.gangs := released_gangs dirty scope
  have launches : ((s.released c scope).park c at_ r arg).launches = s.launches := released_launches dirty scope
  have gang : mget? s.gangs (c.wg.pubUp c.g.k scope).gang = some c.gg := hc.nk ▸ hc.gang
  have launch : mget? s.launches c.gg.launch = some c.l := hc.lk ▸ hc.launch
  unfold State.launchOf
  simp only [wg, gangs, launches, gang, launch]

/-- Beside a group that goes on, nothing is released in the workgroup (R118, R129). -/
theorem releasedPark_underway (beside : ∃ k h, k ≠ c.gk ∧ (k, h) ∈ s.groups ∧ h.wg = c.wk ∧ ∃ q ∈ h.splits, ∀ w, q.st ≠ .waiting w) :
    ((s.released c scope).park c at_ r arg).Underway c.wk := by
  obtain ⟨k, h, other, mem, wg, going⟩ := beside
  refine ⟨(k, h), ?_, wg, going⟩
  rw [releasedPark_groups dirty]
  exact mem_mupd_other _ (mem_mupd_other _ mem other) other

/-- A split that waits at one point waits at no other. -/
theorem releasedPark_elsewhere (hc : CtxOf s c) (noJoin : at_ ≠ .join) {x : WaitAt} (ne : x ≠ at_) :
    ((s.released c scope).park c at_ r arg).Elsewhere c.wk x := by
  obtain ⟨q, hq, st, -⟩ := parked_waits (g := c.g.afterRelease scope) hc.split noJoin r arg c.g.splits
  have same := (parked_same (c.g.afterRelease scope) c.ix at_ r arg c.g.splits).wg
  refine ⟨_, mget?_mem (releasedPark_group dirty scope at_ r arg hc), same.trans hc.wgKey.symm, q, hq, ?_⟩
  rw [st]
  simpa using Ne.symm ne

/-- Its keys rise as before. -/
theorem releasedPark_rise (rise : (mkeys s.groups).Pairwise (· < ·)) :
    (mkeys ((s.released c scope).park c at_ r arg).groups).Pairwise (· < ·) := by
  have once := mkeys_mupd rise c.gk (·.afterRelease scope)
  rw [releasedPark_groups dirty, mkeys_mupd (once ▸ rise), once]
  exact rise

/-- A release that parks its split. -/
theorem releasedPark_parksAt {i : Instr} (hi : MayIssue s c i) (noJoin : at_ ≠ .join)
    (he : exec i s = .next ((s.released c scope).park c at_ r arg)) : ParksAt i s c at_ (·.afterRelease scope) :=
  parksAt_of hi noJoin (by rw [released_groups dirty]; exact mget?_mupd_same hi.ctxOf.group) rfl
    (fun k hk => by rw [released_groups dirty]; exact mget?_mupd_other _ _ hk) (released_mm dirty scope) (released_regs dirty scope)
    he

end

/-! ## WBAR (R118, R409) -/

theorem exec_wbar {s : State} {c : Ctx} (hi : MayIssue s c .wbar) (hr : MayRelease s c 1) :
    exec .wbar s = .next (((s.released c 1).park c .wbar 9 0).wgSettle c.wk) := by
  refine (hi.issue rfl _).trans ?_
  rw [hr.relThen, escapeOf_false (.inr (by decide))]
  rfl

/-- Beside a group that goes on, the split of a WBAR waits. -/
theorem wbar_parksAt {s : State} {c : Ctx} (hi : MayIssue s c .wbar) (hr : MayRelease s c 1)
    (conv : c.wg.conv = none ∨ c.wg.convl = [])
    (beside : ∃ k h, k ≠ c.gk ∧ (k, h) ∈ s.groups ∧ h.wg = c.wk ∧ ∃ q ∈ h.splits, ∀ w, q.st ≠ .waiting w) :
    ParksAt .wbar s c .wbar (·.afterRelease 1) := by
  refine releasedPark_parksAt hr.pushed 1 .wbar 9 0 hi (by decide) ?_
  rw [exec_wbar hi hr,
    (releasedPark_underway hr.pushed 1 .wbar 9 0 beside).wgSettle (releasedPark_wg hr.pushed 1 .wbar 9 0 hi.ctxOf) conv]

/-- Where a group has gone on, every split of it has left the waiting points. -/
theorem Group.wentOn.going {g : Group} {ps : List Split} (h : g.wentOn ps) {q : Split} (hq : q ∈ ps) (lanes : q.mask ≠ 0#32) :
    ∃ p ∈ g.splits, ∀ w, p.st ≠ .waiting w := by
  obtain ⟨l, hl, lane⟩ : ∃ l < 32, q.mask.getLsbD l = true := by
    by_contra none_
    push Not at none_
    exact lanes (BitVec.eq_of_getLsbD_eq fun l hl => by simpa using none_ l hl)
  obtain ⟨p, hp, -, -, going⟩ := h q hq l hl lane
  refine ⟨p, hp, fun w st => ?_⟩
  simp [Split.isWaiting, st] at going

/-- The last lanes of a workgroup at WBAR let every lane of it go on (R118). -/
theorem wbar_releases {s : State} {c : Ctx} (rise : (mkeys s.groups).Pairwise (· < ·)) (hi : MayIssue s c .wbar)
    (hr : MayRelease s c 1) (conv : c.wg.conv = none ∨ c.wg.convl = []) (only : c.g.splits = [c.sp])
    (rest : ∀ k h, k ≠ c.gk → (k, h) ∈ s.groups → h.wg = c.wk → ∀ q ∈ h.splits, q.st = .waiting .wbar) :
    ∃ t, exec .wbar s = .next t ∧ t.mm = s.mm ∧ mget? t.wgs c.wk = some (c.wg.pubUp c.g.k 1) ∧
      (∀ k, k ≠ c.wk → mget? t.wgs k = mget? s.wgs k) ∧
      ∀ k h, (k, h) ∈ s.groups → h.wg = c.wk → ∃ g, mget? t.groups k = some g ∧ g.wentOn h.splits ∧ g.regs = h.regs := by
  have hc := hi.ctxOf
  have hd := hr.pushed
  have ix : c.ix = 0 := getElem?_single (only ▸ hc.split)
  have group := releasedPark_group hd 1 .wbar 9 0 hc
  have other := fun {k} => releasedPark_other (s := s) hd 1 .wbar 9 0 (k := k)
  have risen := releasedPark_rise hd 1 .wbar 9 0 rise
  have launch := releasedPark_launchOf hd 1 .wbar 9 0 hc
  have wg := releasedPark_wg hd 1 .wbar 9 0 hc
  have wgs := fun {k} => releasedPark_wgs_other (s := s) hd 1 .wbar 9 0 (k := k)
  have mm := releasedPark_mm (s := s) hd 1 .wbar 9 0
  have run := exec_wbar hi hr
  generalize (s.released c 1).park c .wbar 9 0 = v at *
  rw [ix] at group
  have splits := parked_single (g := c.g.afterRelease 1) only (at_ := .wbar) (by decide) 9 0 c.g.splits
  have same := parked_same (c.g.afterRelease 1) 0 .wbar 9 0 c.g.splits
  generalize ((c.g.afterRelease 1).parked 0 .wbar 9 0).settle c.g.splits = pg at *
  have pgWg : pg.wg = c.wk := same.wg.trans hc.wgKey.symm
  have pgRegs : pg.regs = c.g.regs := same.regs
  have waits : ∀ q ∈ pg.splits, q.st = .waiting .wbar := by simp [splits]
  have all : v.gathered c.wk .wbar = true := by
    refine State.gathered_of ⟨c.gk, pg, mget?_mem group, pgWg, by simp [splits]⟩ fun k h mem here => ?_
    have at_ := mget?_of_mem risen mem
    by_cases self : k = c.gk
    · subst self
      rw [group] at at_
      cases at_
      exact waits
    · rw [other self] at at_
      exact rest k h self (mget?_mem at_) here
  have offered := (v.goOnAll c.wk .wbar).emitWg_offered c.wk 0x14 ((c.wg.pubUp c.g.k 1).k + c.gg.index % 2 ^ 18 * 32)
  have released : v.wbarCheck c.wk =
      (v.goOnAll c.wk .wbar).emitWg c.wk 0x14 ((c.wg.pubUp c.g.k 1).k + c.gg.index % 2 ^ 18 * 32) := by
    unfold State.wbarCheck
    rw [all, launch]
    rfl
  generalize (v.goOnAll c.wk .wbar).emitWg c.wk 0x14 ((c.wg.pubUp c.g.k 1).k + c.gg.index % 2 ^ 18 * 32) = t at offered released
  have tGroups : ∀ k, mget? t.groups k = (mget? v.groups k).map (fun g => if g.wg = c.wk then g.goOn .wbar else g) := fun k => by
    rw [offered.groups, State.goOnAll_groups]
  have tWg : mget? t.wgs c.wk = some (c.wg.pubUp c.g.k 1) := by rw [offered.wgs]; exact wg
  have mine : mget? t.groups c.gk = some (pg.goOn .wbar) := by rw [tGroups, group, Option.map_some, if_pos pgWg]
  have went : (pg.goOn .wbar).wentOn c.g.splits := by
    have moved := goOn_wentOn waits
    rw [only]
    rintro q hq l hl lane
    rw [List.mem_singleton] at hq
    subst hq
    rw [splits] at moved
    exact moved _ (List.mem_singleton.mpr rfl) l hl lane
  have elsewhere : t.Elsewhere c.wk .accept := by
    obtain ⟨p, hp, going⟩ := went.going (only ▸ List.mem_singleton.mpr rfl) hi.lanes
    exact ⟨_, mget?_mem mine, (goOn_same pg .wbar).wg.trans pgWg, p, hp, going _⟩
  refine ⟨t, ?_, offered.mm.trans mm, tWg, fun k hk => ?_, fun k h mem here => ?_⟩
  · rw [run, State.wgSettle, released, State.convlCheck_none tWg conv, State.acceptCheck_none tWg elsewhere]
  · rw [offered.wgs]
    exact wgs hk
  · have at_ := mget?_of_mem rise mem
    by_cases self : k = c.gk
    · subst self
      obtain rfl : c.g = h := Option.some.inj (hc.group.symm.trans at_)
      exact ⟨_, mine, went, (goOn_same pg .wbar).regs.trans pgRegs⟩
    · refine ⟨h.goOn .wbar, ?_, goOn_wentOn (rest k h self mem here), (goOn_same h .wbar).regs⟩
      rw [tGroups, other self, at_, Option.map_some, if_pos here]

/-! ## GBAR (R120, R410) -/

theorem exec_gbar {s : State} {c : Ctx} (hi : MayIssue s c .gbar) (hr : MayRelease s c 2) :
    exec .gbar s = .next (if c.inBlock then s.failBlock c.wk 9 0 c.sp.pc false
      else ((s.released c 2).park c .gbar 10 0).wgSettle c.wk) := by
  refine (hi.issue rfl _).trans ?_
  have clean : s.escape c noFault = s.failBlock c.wk 9 0 c.sp.pc false := escape_clean fun _ _ => rfl
  rw [hr.relThen, clean]
  cases inside : c.inBlock
  · rw [escapeOf_false (.inl (inBlock_eq_false.mp inside)), if_neg Bool.false_ne_true]
  · rw [if_pos rfl, ite_self]

theorem gbar_parksAt {s : State} {c : Ctx} (hi : MayIssue s c .gbar) (hr : MayRelease s c 2) (outside : c.wg.blocks = [])
    (conv : c.wg.conv = none ∨ c.wg.convl = []) : ParksAt .gbar s c .gbar (·.afterRelease 2) := by
  have wg := releasedPark_wg hr.pushed 2 .gbar 10 0 hi.ctxOf
  have elsewhere := fun x ne => releasedPark_elsewhere hr.pushed 2 .gbar 10 0 hi.ctxOf (by decide) (x := x) ne
  refine releasedPark_parksAt hr.pushed 2 .gbar 10 0 hi (by decide) ?_
  rw [exec_gbar hi hr, inBlock_eq_false.mpr outside, if_neg Bool.false_ne_true, State.wgSettle,
    State.wbarCheck_none (elsewhere .wbar (by decide)), State.convlCheck_none wg conv,
    State.acceptCheck_none wg (elsewhere .accept (by decide))]

/-- The groups of several workgroups go on (R120). -/
theorem foldl_goOnAll_groups (at_ : WaitAt) {ws : List Nat} (once : ws.Nodup) (s : State) (k : Nat) :
    mget? (ws.foldl (fun s w => s.goOnAll w at_) s).groups k =
      (mget? s.groups k).map (fun g => if g.wg ∈ ws then g.goOn at_ else g) := by
  induction ws generalizing s with
  | nil => simp
  | cons w r ih =>
    obtain ⟨notIn, once⟩ := List.nodup_cons.mp once
    rw [List.foldl_cons, ih once, State.goOnAll_groups, Option.map_map]
    refine congrArg (fun f => (mget? s.groups k).map f) (funext fun g => ?_)
    have same : (g.goOn at_).wg = g.wg := (goOn_same g at_).wg
    by_cases here : g.wg = w
    · simp [here, same, notIn]
    · simp [here]

theorem foldl_goOnAll_rest (at_ : WaitAt) (ws : List Nat) (s : State) :
    ∃ gs, ws.foldl (fun s w => s.goOnAll w at_) s = { s with groups := gs } :=
  List.foldlRecOn ws _ (motive := fun t : State => ∃ gs, t = { s with groups := gs }) ⟨s.groups, rfl⟩ fun t ⟨gs, h⟩ w _ => by
    subst h
    exact ⟨_, rfl⟩

theorem mem_wgsOf {s : State} (rise : (mkeys s.wgs).Pairwise (· < ·)) {gang w : Nat} :
    w ∈ mkeys (s.wgsOf gang) ↔ ∃ x, mget? s.wgs w = some x ∧ x.gang = gang := by
  unfold mkeys State.wgsOf
  constructor
  · intro h
    obtain ⟨e, mem, rfl⟩ := List.mem_map.mp h
    obtain ⟨mem, here⟩ := List.mem_filter.mp mem
    exact ⟨e.2, mget?_of_mem rise mem, by simpa using here⟩
  · rintro ⟨x, at_, here⟩
    exact List.mem_map.mpr ⟨(w, x), List.mem_filter.mpr ⟨mget?_mem at_, by simpa using here⟩, rfl⟩

theorem wgsOf_nodup {s : State} (rise : (mkeys s.wgs).Pairwise (· < ·)) (gang : Nat) : (mkeys (s.wgsOf gang)).Nodup :=
  (rise.sublist (List.filter_sublist.map _)).imp Nat.ne_of_lt

/-- A gang all of whose lanes wait at GBAR, with nothing to be performed, goes on (R120). -/
theorem gbarRelease_releases {s : State} (hs : s.canonical) {gang w : Nat} {gr : Wg} (mine : mget? s.wgs w = some gr)
    (its : gr.gang = gang) (known : (mget? s.gangs gang).isSome = true)
    (some_ : ∃ k h, (k, h) ∈ s.groups ∧ h.wg = w ∧ h.splits ≠ [])
    (all : ∀ k h x, (k, h) ∈ s.groups → mget? s.wgs h.wg = some x → x.gang = gang →
      (∀ q ∈ h.splits, q.st = .waiting .gbar) ∧ (∀ p ∈ h.pend, p.acc = []) ∧ h.ops = []) :
    ∃ t, exec (.gbarRelease gang) s = .next t ∧ t.mm = s.mm ∧ t.wgs = s.wgs ∧
      ∀ k h, (k, h) ∈ s.groups → (∃ x, mget? s.wgs h.wg = some x ∧ x.gang = gang) →
        ∃ g, mget? t.groups k = some g ∧ g.wentOn h.splits ∧ g.regs = h.regs := by
  have ready : s.gbarReady gang = true := by
    unfold State.gbarReady
    rw [Bool.and_eq_true, List.all_eq_true, List.any_eq_true]
    constructor
    · intro w' mem
      obtain ⟨x, at_, here⟩ := (mem_wgsOf hs.wgs).mp mem
      refine List.all_eq_true.mpr fun e he => ?_
      obtain ⟨mem, wg⟩ := List.mem_filter.mp he
      have wg : e.2.wg = w' := by simpa using wg
      obtain ⟨waits, performed, noOps⟩ := all e.1 e.2 x mem (wg ▸ at_) here
      simp [arrived_of waits, noOps]
      simpa using performed
    · exact ⟨w, (mem_wgsOf hs.wgs).mpr ⟨gr, mine, its⟩, State.gathered_of some_ fun k h mem here =>
        (all k h gr mem (here ▸ mine) its).1⟩
  obtain ⟨n, at_⟩ := Option.isSome_iff_exists.mp known
  obtain ⟨gs, folded⟩ := foldl_goOnAll_rest .gbar (mkeys (s.wgsOf gang)) (s.updGang gang (fun g => { g with steps := g.steps + 1 }))
  have groups := foldl_goOnAll_groups .gbar (wgsOf_nodup hs.wgs gang) (s.updGang gang (fun g => { g with steps := g.steps + 1 }))
  rw [folded] at groups
  have found : mget? (s.updGang gang (fun g => { g with steps := g.steps + 1 })).gangs gang = some { n with steps := n.steps + 1 } :=
    mget?_mupd_same at_
  have run : exec (.gbarRelease gang) s = .next
      (({ s.updGang gang (fun g => { g with steps := g.steps + 1 }) with groups := gs } : State).emitWg (wgKey gang 0) 0x15
        (n.index % 2 ^ 18 + (n.steps + 1) % 2 ^ 32 * 2 ^ 18)) := by
    change execGbarRelease gang s = _
    unfold execGbarRelease
    rw [if_pos ready]
    dsimp only
    rw [show s.wgsOf gang = (s.updGang gang (fun g => { g with steps := g.steps + 1 })).wgsOf gang from rfl] at folded
    rw [folded]
    dsimp only
    rw [found]
  have offered := State.emitWg_offered ({ s.updGang gang (fun g => { g with steps := g.steps + 1 }) with groups := gs } : State)
    (wgKey gang 0) 0x15 (n.index % 2 ^ 18 + (n.steps + 1) % 2 ^ 32 * 2 ^ 18)
  refine ⟨_, run, offered.mm, offered.wgs, fun k h mem here => ⟨h.goOn .gbar, ?_, ?_, (goOn_same h .gbar).regs⟩⟩
  · rw [offered.groups, groups, State.updGang_groups, mget?_of_mem hs.groups mem, Option.map_some,
      if_pos ((mem_wgsOf hs.wgs).mpr here)]
  · obtain ⟨x, at_, its⟩ := here
    exact goOn_wentOn (all k h x mem at_ its).1

/-! ## WAITF and HALT (R418, R419) -/

theorem flagsZero_of {g : Group} {m : BitVec 12} (h : ∀ f < 12, m.getLsbD f = true → g.flag f = 0) : g.flagsZero m = true := by
  unfold Group.flagsZero
  refine List.all_eq_true.mpr fun f hf => ?_
  have lt : f < 12 := by simpa [upto] using hf
  cases named : m.getLsbD f
  · rfl
  · simp [h f lt named]

/-- No delayed fault of these flags is due. -/
theorem due_unnamed {g : Group} {m : BitVec 12} (h : ∀ d ∈ g.delayed, ¬ (d.flag < 12 ∧ m.getLsbD d.flag = true)) :
    g.due (some m) = none := by
  unfold Group.due
  refine leastBy_nil_of _ _ (List.filter_eq_nil_iff.mpr fun d hd => ?_)
  simpa using h d hd

theorem waitf_completes {s : State} {c : Ctx} {m : BitVec 12} (hi : MayIssue s c (.waitf m))
    (zero : ∀ f < 12, m.getLsbD f = true → c.g.flag f = 0)
    (noDelayed : ∀ d ∈ c.g.delayed, ¬ (d.flag < 12 ∧ m.getLsbD d.flag = true)) : Completes (.waitf m) s c .nothing := by
  refine completes_advance hi ((hi.issue rfl _).trans ?_)
  rw [flagsZero_of zero, due_unnamed noDelayed]
  exact congrArg _ (ite_self _)

/-- A group that stops keeps its registers, and no lane of it is left (R419). -/
theorem halt_keeps (g : Group) :
    g.halt.regs = g.regs ∧ g.halt.splits = [] ∧ g.halt.exited = BitVec.allOnes 32 ∧ g.halt.retiring = true := by
  unfold Group.halt Group.lastExit
  rw [if_pos (by simp)]
  exact ⟨rfl, rfl, rfl, rfl⟩

theorem halt_ends {s : State} {c : Ctx} (rise : (mkeys s.groups).Pairwise (· < ·)) (riseW : (mkeys s.wgs).Pairwise (· < ·))
    (hi : MayIssue s c .halt) (active : c.act ≠ 0#32) (outside : c.wg.blocks = []) (resolved : c.g.watching = false)
    (noStrike : c.g.struck = false) :
    ∃ t n, exec .halt s = .next t ∧ mget? t.gangs c.nk = some n ∧ n.ended = true ∧ t.mm = s.mm ∧
      ∀ k h x, (k, h) ∈ s.groups → mget? s.wgs h.wg = some x →
        ∃ g, mget? t.groups k = some g ∧ g.regs = h.regs ∧
          if x.gang = c.nk then g.splits = [] ∧ g.exited = BitVec.allOnes 32 ∧ g.retiring = true else g = h := by
  have run : exec .halt s = .next _ := hi.issue rfl _
  dsimp only at run
  rw [if_neg active, inBlock_eq_false.mpr outside, resolved, noStrike] at run
  refine ⟨_, _, run, mget?_mupd_same hi.ctxOf.gang, rfl, rfl, fun k h x mem at_ => ?_⟩
  refine ⟨_, (mget?_mmap s.groups (fun _ g => if (mkeys (s.wgsOf c.nk)).contains g.wg then g.halt else g) k).trans
    (by rw [mget?_of_mem rise mem, Option.map_some]), ?_⟩
  obtain ⟨regs, splits, exited, retiring⟩ := halt_keeps h
  have named : (mkeys (s.wgsOf c.nk)).contains h.wg = decide (x.gang = c.nk) := by
    rw [Bool.eq_iff_iff, List.contains_iff_mem, mem_wgsOf riseW, decide_eq_true_iff, at_]
    simp
  rw [named]
  by_cases its : x.gang = c.nk <;> simp [its, regs, splits, exited, retiring]

end Sys2Proof.Machine

namespace Sys2Proof.Proofs
open Sys2Proof.Machine

/-- Settles O34: each barrier is a release that parks its split; where that split is the last, all go on at their next word. -/
theorem barriersAndHalt : Obligations.BarriersAndHalt := by
  unfold Obligations.BarriersAndHalt
  intro s c hs
  refine ⟨fun hi hr conv => ⟨wbar_parksAt hi hr conv, wbar_releases hs.groups hi hr conv⟩,
    fun hi => ⟨fun inside hr => ?_, fun outside hr conv => gbar_parksAt hi hr outside conv⟩,
    fun gang w gr mine its known some_ all => gbarRelease_releases hs mine its known some_ all,
    fun m hi zero noDelayed => waitf_completes hi zero noDelayed,
    fun hi active => ⟨fun inside => ?_, halt_ends hs.groups hs.wgs hi active⟩⟩
  · rw [exec_gbar hi hr, if_pos (inBlock_iff.mpr inside)]
  · refine (hi.issue rfl _).trans ?_
    rw [if_neg active, if_pos (inBlock_iff.mpr inside)]

end Sys2Proof.Proofs
end

section
/-! SUPPORT. The events of splits and blocks: rotation (R111), the opening of a block (R127), the end of a routine (R128) and the
cycle limit (R130). -/

namespace Sys2Proof.Machine

/-! ## Rotation (R111) -/

/-- A split at whose word no other stands merges with none (R112). -/
theorem mergeAt_alone {g : Group} {ix : Nat} {p : Split} (at_ : g.splits[ix]? = some p)
    (alone : ∀ j x, j ≠ ix → g.splits[j]? = some x → x.pc ≠ p.pc) : (g.mergeAt ix).1 = g := by
  have none_ : g.splits.zipIdx.filter (fun e => e.2 != ix && canMerge p e.1) = [] := by
    refine List.filter_eq_nil_iff.mpr fun e he => ?_
    rw [Bool.and_eq_true, bne_iff_ne]
    rintro ⟨other, may⟩
    exact alone e.2 e.1 other (List.mem_zipIdx_iff_getElem?.mp he) (canMerge_iff_waits may).1
  unfold Group.mergeAt
  simp only [at_, none_]

section
variable {g : Group} {ix k i : Nat} {p q : Split} (at_ : g.splits[ix]? = some p) (live : p.st = .live i)
  (next_ : nextReady g.splits (some ix) = some k) (alone : ∀ j x, j ≠ ix → g.splits[j]? = some x → x.pc ≠ p.pc)
include at_ live next_ alone

/-- A split at whose word no other stands gives its live slot to the split that refill takes, and is ready (R111 step 3). -/
theorem giveWay_eq : g.giveWay ix = { g with
    splits := (g.splits.set ix { p with st := .ready, issued := 0, age := 0, stall := 12 }).modify k (·.goLive i) } := by
  obtain ⟨-, -, -, ne⟩ := nextReady_some next_
  have ne : k ≠ ix := fun h => ne (congrArg some h)
  generalize hr : ({ p with st := .ready, issued := 0, age := 0, stall := 12 } : Split) = r
  have pc : r.pc = p.pc := hr ▸ rfl
  have moved : ∀ j x, ((g.splits.set ix r).modify k (·.goLive i))[j]? = some x →
      (j = ix ∧ x = r) ∨ (j ≠ ix ∧ ∃ y, g.splits[j]? = some y ∧ (x = y ∨ x = y.goLive i)) := by
    intro j x hx
    by_cases self : j = ix
    · subst self
      rw [List.getElem?_modify_ne _ _ ne, List.getElem?_set_self (List.getElem?_eq_some_iff.mp at_).1] at hx
      exact .inl ⟨rfl, (Option.some.inj hx).symm⟩
    · rw [List.getElem?_modify, List.getElem?_set_ne (Ne.symm self)] at hx
      obtain ⟨y, hy, rfl⟩ := Option.map_eq_some_iff.mp hx
      refine .inr ⟨self, y, hy, ?_⟩
      split
      · exact .inr rfl
      · exact .inl rfl
  have here : ((g.splits.set ix r).modify k (·.goLive i))[ix]? = some r := by
    rw [List.getElem?_modify_ne _ _ ne, List.getElem?_set_self (List.getElem?_eq_some_iff.mp at_).1]
  have apart : ∀ j x, j ≠ ix → ((g.splits.set ix r).modify k (·.goLive i))[j]? = some x → x.pc ≠ r.pc := by
    intro j x self hx
    rcases moved j x hx with ⟨eq, -⟩ | ⟨-, y, hy, eq⟩
    · exact absurd eq self
    · rw [pc, show x.pc = y.pc from by rcases eq with rfl | rfl <;> rfl]
      exact alone j y self hy
  have stays : ∀ a : Group, a.splits = (g.splits.set ix r).modify k (·.goLive i) → a.mergeSplit r = a := by
    intro a same
    unfold Group.mergeSplit
    split
    next e found =>
      have eq : e.1 = r := by simpa using List.find?_some found
      have place := List.mem_zipIdx_iff_getElem?.mp (List.mem_of_find?_eq_some found)
      rw [same] at place
      have ix_ : e.2 = ix := by
        by_contra other
        exact apart _ _ other place (congrArg Split.pc eq)
      rw [ix_]
      exact mergeAt_alone (same ▸ here) (same ▸ apart)
    · rfl
  unfold Group.giveWay
  simp only [at_, Split.liveIx, live, next_, hr]
  unfold Group.mergeParked
  refine List.foldlRecOn _ _ (motive := fun a : Group => a = { g with splits := _ }) rfl fun a ha x hx => ?_
  obtain ⟨mem, parked⟩ := List.mem_filter.mp hx
  obtain ⟨j, hj⟩ := List.mem_iff_getElem?.mp mem
  have eq : x = r := by
    rcases moved j x hj with ⟨-, eq⟩ | ⟨-, y, hy, rfl | rfl⟩
    · exact eq
    · simp [stood_self (List.mem_of_getElem? hy)] at parked
    · simp [Split.isWaiting, Split.goLive] at parked
  rw [eq, stays a (ha ▸ rfl), ha]

/-- SPLIT_ROTATION of a split that has issued 4096 instructions, at a clause's end (R111). -/
theorem splitRotation_rotates {s : State} {gk : Nat} (group : mget? s.groups gk = some g) (many : 4096 ≤ p.issued)
    (between : p.inClause = false) (there : g.splits[k]? = some q) :
    ∃ t g' p' q', exec (.splitRotation gk ix) s = .next t ∧ mget? t.groups gk = some g' ∧ g'.sameButSplits g ∧
      g'.splits[ix]? = some p' ∧ p'.st = .ready ∧ p'.mask = p.mask ∧ p'.pc = p.pc ∧ g'.splits[k]? = some q' ∧
      q'.st = .live i ∧ q'.mask = q.mask ∧ q'.pc = q.pc ∧ t.mm = s.mm ∧ t.wgs = s.wgs := by
  obtain ⟨-, -, -, ne⟩ := nextReady_some next_
  have ne : k ≠ ix := fun h => ne (congrArg some h)
  have due : g.rotates ix = true := by
    unfold Group.rotates
    simp [at_, many, between, Split.liveIx, live]
  refine ⟨_, _, { p with st := .ready, issued := 0, age := 0, stall := 12 }, q.goLive i, rfl, mget?_mupd_same group, ?_⟩
  rw [if_pos due, giveWay_eq at_ live next_ alone]
  refine ⟨rfl, ?_, rfl, rfl, rfl, ?_, rfl, rfl, rfl, rfl, rfl⟩
  · rw [List.getElem?_modify_ne _ _ ne, List.getElem?_set_self (List.getElem?_eq_some_iff.mp at_).1]
  · rw [List.getElem?_modify_eq, List.getElem?_set_ne (Ne.symm ne), there]
    rfl

end

/-! ## The opening of a block (R127) -/

theorem foldl_min_spec (x : Nat) (xs : List Nat) : xs.foldl min x ∈ x :: xs ∧ ∀ y ∈ x :: xs, xs.foldl min x ≤ y := by
  have least : (x :: xs).min? = some (xs.foldl min x) := List.min?_cons'
  exact List.min?_eq_some_iff.mp least

/-- The arguments of the splits of a workgroup: at ENSURE, the cycle limits that its groups give. -/
theorem mem_args {s : State} {wk n : Nat} :
    n ∈ (mvals (s.groupsOf wk)).flatMap (fun g => g.splits.map (·.arg)) ↔
      ∃ k h, (k, h) ∈ s.groups ∧ h.wg = wk ∧ ∃ q ∈ h.splits, q.arg = n := by
  simp only [mvals, State.groupsOf, List.mem_flatMap, List.mem_map, List.mem_filter, beq_iff_eq]
  constructor
  · rintro ⟨_, ⟨e, ⟨mem, here⟩, rfl⟩, q, hq, eq⟩
    exact ⟨e.1, e.2, mem, here, q, hq, eq⟩
  · rintro ⟨k, h, mem, here, q, hq, eq⟩
    exact ⟨h, ⟨(k, h), ⟨mem, here⟩, rfl⟩, q, hq, eq⟩

/-- The cycle limit of a block that opens, in units of 1024 cycles: the least that a group gives, or the launch's when none
gives one (R127). -/
def limitOf (args : List Nat) (cyclim : Nat) : Nat :=
  match args.filter (· != 0) with
  | x :: xs => xs.foldl min x
  | [] => cyclim

theorem limitOf_none {args : List Nat} (h : ∀ n ∈ args, n = 0) (cyclim : Nat) : limitOf args cyclim = cyclim := by
  unfold limitOf
  rw [List.filter_eq_nil_iff.mpr fun n hn => by simp [h n hn]]

theorem limitOf_some {args : List Nat} {n : Nat} (h : n ∈ args) (given : n ≠ 0) (cyclim : Nat) :
    limitOf args cyclim ≤ n ∧ limitOf args cyclim ∈ args ∧ limitOf args cyclim ≠ 0 := by
  have mem : n ∈ args.filter (· != 0) := List.mem_filter.mpr ⟨h, by simpa using given⟩
  unfold limitOf
  cases eq : args.filter (· != 0) with
  | nil => rw [eq] at mem; cases mem
  | cons x xs =>
    obtain ⟨least, below⟩ := foldl_min_spec x xs
    obtain ⟨arg, ne⟩ := List.mem_filter.mp (eq ▸ least)
    exact ⟨below n (eq ▸ mem), arg, by simpa using ne⟩

/-! ## The block that has reached its cycle limit (R130) -/

/-- The outermost block that has reached its limit: no block further out has (R130). -/
theorem overLimit_some {w : Wg} {d : Nat} {b : Block} (at_ : w.blocks[d]? = some b) (limited : b.limit ≠ 0)
    (reached : b.limit ≤ b.cycles)
    (outer : ∀ e x, d < e → w.blocks[e]? = some x → x.limit = 0 ∨ x.cycles < x.limit) : w.overLimit = some d := by
  obtain ⟨len, here⟩ := List.getElem?_eq_some_iff.mp at_
  have cut : w.blocks.zipIdx = w.blocks.zipIdx.take d ++ (b, d) :: w.blocks.zipIdx.drop (d + 1) := by
    have len' : d < w.blocks.zipIdx.length := by simpa using len
    have item : w.blocks.zipIdx[d] = (b, d) := by simp [here]
    rw [← item, List.cons_getElem_drop_succ, List.take_append_drop]
  have rest : (w.blocks.zipIdx.drop (d + 1)).filter (fun e => e.1.limit != 0 && e.1.limit ≤ e.1.cycles) = [] := by
    refine List.filter_eq_nil_iff.mpr fun x hx => ?_
    obtain ⟨j, hj⟩ := List.mem_iff_getElem?.mp hx
    rw [List.getElem?_drop] at hj
    obtain ⟨y, hy, rfl⟩ : ∃ y, w.blocks[d + 1 + j]? = some y ∧ (y, d + 1 + j) = x := by simpa using hj
    rcases outer _ y (by omega) hy with h | h
    · simp [h]
    · simp only [Bool.and_eq_true, decide_eq_true_eq, not_and]
      omega
  unfold Wg.overLimit
  rw [cut, List.filter_append, List.filter_cons_of_pos (by simp [limited, reached]), rest]
  simp

theorem overLimit_none {w : Wg} (h : ∀ b ∈ w.blocks, b.limit = 0 ∨ b.cycles < b.limit) : w.overLimit = none := by
  have none_ : w.blocks.zipIdx.filter (fun e => e.1.limit != 0 && e.1.limit ≤ e.1.cycles) = [] := by
    refine List.filter_eq_nil_iff.mpr fun x hx => ?_
    rcases h x.1 (List.fst_mem_of_mem_zipIdx hx) with h | h
    · simp [h]
    · simp only [Bool.and_eq_true, decide_eq_true_eq, not_and]
      omega
  unfold Wg.overLimit
  rw [none_]
  rfl

/-! ## Gathered workgroups -/

/-- The word of the first split of a workgroup all of whose splits stand at one. -/
theorem firstPc {s : State} {wk pc : Nat} (some_ : ∃ k h, (k, h) ∈ s.groups ∧ h.wg = wk ∧ h.splits ≠ [])
    (all : ∀ k h, (k, h) ∈ s.groups → h.wg = wk → ∀ q ∈ h.splits, q.pc = pc) :
    (((mvals (s.groupsOf wk)).flatMap (·.splits)).headD (Split.start 0#32 0)).pc = pc := by
  have each : ∀ q ∈ (mvals (s.groupsOf wk)).flatMap (·.splits), q.pc = pc := by
    intro q hq
    obtain ⟨g, hg, hq⟩ := List.mem_flatMap.mp hq
    obtain ⟨e, he, rfl⟩ := List.mem_map.mp hg
    obtain ⟨mem, here⟩ := List.mem_filter.mp he
    exact all e.1 e.2 mem (by simpa using here) q hq
  have nonempty : (mvals (s.groupsOf wk)).flatMap (·.splits) ≠ [] := by
    obtain ⟨k, h, mem, here, ne⟩ := some_
    obtain ⟨q, hq⟩ := List.exists_mem_of_ne_nil _ ne
    refine List.ne_nil_of_mem (a := q) (List.mem_flatMap.mpr ⟨h, List.mem_map.mpr ⟨(k, h), List.mem_filter.mpr ⟨mem, ?_⟩, rfl⟩, hq⟩)
    simpa using here
  cases eq : (mvals (s.groupsOf wk)).flatMap (·.splits) with
  | nil => exact absurd eq nonempty
  | cons q r => exact each q (eq ▸ List.mem_cons_self)

/-- The block that a workgroup opens at word pc (R127, R132). -/
def openedBlock (s : State) (wk : Nat) (w : Wg) (l : Launch) (pc : Nat) : Block :=
  { term := pc + w.ensureEnd.getD 0, cycles := 0
    limit := limitOf ((mvals (s.groupsOf wk)).flatMap (fun g => g.splits.map (·.arg))) l.cyclim * 1024
    inTest := false, elseerr := 0, frames := (mvals (s.groupsOf wk)).map Group.frame, log := [], pushes0 := w.pushes.length
    dirty0 := w.dirty }

/-- The workgroup with that block, and its groups with nothing unpublished in it (R197), before they go on. -/
def State.opening (s : State) (wk : Nat) (b : Block) : State :=
  { (s.updWg wk (fun w => { w with ensureEnd := none })).updWg wk (fun w => { w with blocks := b :: w.blocks }) with
    groups := mmap s.groups (fun _ g => if g.wg = wk then { g with pub := [] } else g) }

section
variable {s : State} {wk : Nat} {w : Wg} {gg : Gang} {l : Launch} (launch : s.launchOf wk = some (w, gg, l))
include launch

theorem launchOf_wg : mget? s.wgs wk = some w := by
  unfold State.launchOf at launch
  split at launch
  · cases launch
  next v at_ =>
    split at launch
    · cases launch
    · split at launch
      · cases launch
      · cases launch
        exact at_

section
variable (sound : w.failing = none) (some_ : ∃ k h, (k, h) ∈ s.groups ∧ h.wg = wk ∧ h.splits ≠ [])
include sound some_

/-- BLOCK_OPEN of a block that fits (R127). -/
theorem blockOpen_eq {pc : Nat} (few : w.blocks.length < 4) (fits : w.logUsed l + frameSize l ≤ w.logCap)
    (all : ∀ k h, (k, h) ∈ s.groups → h.wg = wk → ∀ q ∈ h.splits, q.st = .waiting .ensure ∧ q.pc = pc) :
    exec (.blockOpen wk) s = .next (((s.opening wk (openedBlock s wk w l pc)).emitBlock wk 0 0
      (w.blocks.length + 1)).goOnAll wk .ensure) := by
  have gathered := State.gathered_of some_ fun k h mem here q hq => (all k h mem here q hq).1
  have pc_ := firstPc some_ fun k h mem here q hq => (all k h mem here q hq).2
  change execBlockOpen wk s = _
  unfold execBlockOpen
  simp only [launch, gathered, sound, Option.isSome_none, Bool.not_true, Bool.or_false, Bool.false_eq_true, if_false,
    if_neg (Nat.not_le.mpr few), fits, pc_, if_true]
  rfl

/-- A block opens when every group has arrived, and every group goes on (R127). -/
theorem blockOpen_opens (rise : (mkeys s.groups).Pairwise (· < ·)) {pc : Nat} (few : w.blocks.length < 4)
    (fits : w.logUsed l + frameSize l ≤ w.logCap)
    (all : ∀ k h, (k, h) ∈ s.groups → h.wg = wk → ∀ q ∈ h.splits, q.st = .waiting .ensure ∧ q.pc = pc) :
    let arg := fun (n : Nat) => ∃ k h, (k, h) ∈ s.groups ∧ h.wg = wk ∧ ∃ q ∈ h.splits, q.arg = n
    ∃ t v b, exec (.blockOpen wk) s = .next t ∧ mget? t.wgs wk = some v ∧ v.blocks = b :: w.blocks ∧
      b.term = pc + w.ensureEnd.getD 0 ∧ b.cycles = 0 ∧ b.inTest = false ∧ b.log = [] ∧ v.ensureEnd = none ∧
      ((∀ n, arg n → n = 0) → b.limit = l.cyclim * 1024) ∧
      (∀ n, arg n → n ≠ 0 → b.limit ≤ n * 1024 ∧ ∃ m, arg m ∧ m ≠ 0 ∧ b.limit = m * 1024) ∧ t.mm = s.mm ∧
      ∀ k h, (k, h) ∈ s.groups → h.wg = wk → ∃ g, mget? t.groups k = some g ∧ g.wentOn h.splits ∧ g.regs = h.regs := by
  intro arg
  have offered := (s.opening wk (openedBlock s wk w l pc)).emitBlock_offered wk 0 0 (w.blocks.length + 1)
  refine ⟨_, { w with ensureEnd := none, blocks := openedBlock s wk w l pc :: w.blocks }, openedBlock s wk w l pc,
    blockOpen_eq launch sound some_ few fits all, ?_, rfl, rfl, rfl, rfl, rfl, rfl, fun none_ => ?_, fun n hn given => ?_,
    offered.mm, fun k h mem here => ⟨({ h with pub := [] } : Group).goOn .ensure, ?_, ?_, (goOn_same _ .ensure).regs⟩⟩
  · change mget? ((s.opening wk (openedBlock s wk w l pc)).emitBlock wk 0 0 (w.blocks.length + 1)).wgs wk = _
    rw [offered.wgs]
    exact mget?_mupd_same (mget?_mupd_same (launchOf_wg launch))
  · exact congrArg (· * 1024) (limitOf_none (fun n hn => none_ n (mem_args.mp hn)) _)
  · obtain ⟨below, given_, ne⟩ := limitOf_some (mem_args.mpr hn) given l.cyclim
    exact ⟨Nat.mul_le_mul_right 1024 below, _, mem_args.mp given_, ne, rfl⟩
  · have cleared : mget? (s.opening wk (openedBlock s wk w l pc)).groups k = some { h with pub := [] } := by
      refine (mget?_mmap s.groups (fun _ g => if g.wg = wk then { g with pub := [] } else g) k).trans ?_
      rw [mget?_of_mem rise mem, Option.map_some, if_pos here]
    rw [State.goOnAll_groups, offered.groups, cleared, Option.map_some, if_pos here]
  · exact goOn_wentOn (g := { h with pub := [] }) fun q hq => (all k h mem here q hq).1

/-! ## The end of a routine (R128) -/

/-- The acceptance test starts when every group has arrived at its terminator with nothing outstanding (R128). -/
theorem routineEnd_starts (rise : (mkeys s.groups).Pairwise (· < ·)) {c : Ctx} {b : Block} {r : List Block} {e : Nat}
    (blocks : w.blocks = b :: r) (ctx : s.wgCtx wk = some c)
    (all : ∀ k h, (k, h) ∈ s.groups → h.wg = wk → (∀ q ∈ h.splits, q.st = .waiting .term) ∧ h.pend = [] ∧ h.ops = [] ∧
      h.watching = false ∧ h.delayed = [] ∧ ∀ f < 12, h.flag f = 0)
    (chain : s.chain c b.term (2 ^ 22) = (some e, s)) :
    ∃ t v b', exec (.routineEnd wk) s = .next t ∧ mget? t.wgs wk = some v ∧ v.blocks = b' :: r ∧ b'.inTest = true ∧
      b'.term = b.term ∧ b'.log = b.log ∧ t.mm = s.mm ∧
      ∀ k h, (k, h) ∈ s.groups → h.wg = wk → ∃ g, mget? t.groups k = some g ∧ g.regs = h.regs ∧
        ∀ q ∈ h.splits, ∀ x < 32, q.mask.getLsbD x = true → ∃ p ∈ g.splits, p.mask.getLsbD x = true ∧ p.pc = e + 1 := by
  have gathered := State.gathered_of some_ fun k h mem here => (all k h mem here).1
  have mine : ∀ x ∈ s.groupsOf wk, (x.1, x.2) ∈ s.groups ∧ x.2.wg = wk := fun x hx =>
    ⟨(List.mem_filter.mp hx).1, by simpa using (List.mem_filter.mp hx).2⟩
  have quiet : (s.groupsOf wk).all (fun e =>
      e.2.pend.isEmpty && e.2.ops.isEmpty && !e.2.watching && e.2.flagsZero (BitVec.allOnes 12)) = true := by
    refine List.all_eq_true.mpr fun x hx => ?_
    obtain ⟨-, pend, ops, watching, -, flags⟩ := all x.1 x.2 (mine x hx).1 (mine x hx).2
    have zero : x.2.flagsZero (BitVec.allOnes 12) = true := flagsZero_of fun f lt _ => flags f lt
    rw [pend, ops, watching, zero]
    rfl
  have noDue : (s.groupsOf wk).findSome? (fun e => (e.2.due none).map (fun d => (e.1, d))) = none := by
    refine List.findSome?_eq_none_iff.mpr fun x hx => ?_
    obtain ⟨-, -, -, -, delayed, -⟩ := all x.1 x.2 (mine x hx).1 (mine x hx).2
    rw [due_none delayed]
    rfl
  have run : exec (.routineEnd wk) s = .next
      { s.updWg wk (fun w => { w with blocks := { b with inTest := true, elseerr := e } :: r }) with
        groups := mmap s.groups (fun _ g => if g.wg = wk then
          ({ g with splits := g.splits.map (fun p => { p with pc := e }) } : Group).goOn .term else g) } := by
    change execRoutineEnd wk s = _
    unfold execRoutineEnd
    simp only [launchOf_wg launch, ctx, blocks, gathered, sound, quiet, noDue, chain, Option.isSome_none, Bool.not_true,
      Bool.or_false, Bool.false_eq_true, if_false]
    rfl
  refine ⟨_, _, _, run, mget?_mupd_same (launchOf_wg launch), rfl, rfl, rfl, rfl, rfl, fun k h mem here => ?_⟩
  refine ⟨({ h with splits := h.splits.map (fun p => { p with pc := e }) } : Group).goOn .term, ?_, (goOn_same _ .term).regs, ?_⟩
  · refine (mget?_mmap s.groups (fun _ g => if g.wg = wk then
      ({ g with splits := g.splits.map (fun p => { p with pc := e }) } : Group).goOn .term else g) k).trans ?_
    rw [mget?_of_mem rise mem, Option.map_some, if_pos here]
  · intro q hq x hx lane
    have waits : ∀ p ∈ h.splits.map (fun p => { p with pc := e }), p.st = .waiting .term := by
      intro p hp
      obtain ⟨q, hq, rfl⟩ := List.mem_map.mp hp
      exact (all k h mem here).1 q hq
    obtain ⟨p, hp, has, pc, -⟩ := goOn_wentOn (g := { h with splits := h.splits.map (fun p => { p with pc := e }) }) waits
      { q with pc := e } (List.mem_map.mpr ⟨q, hq, rfl⟩) x hx lane
    exact ⟨p, hp, has, pc⟩

end

/-! ## The cycle limit (R130) -/

/-- The outermost block that has reached its limit fails with cause 1 (R130). -/
theorem cycleLimit_fails {d : Nat} (reached : w.overLimit = some d) (going : s.wgStopped wk = false) :
    exec (.cycleLimit wk) s = .next (s.failBlock wk 1 d 0 false) := by
  change execCycleLimit wk s = _
  unfold execCycleLimit
  simp only [launchOf_wg launch, reached, going, Bool.false_eq_true, if_false]

theorem cycleLimit_none (below : w.overLimit = none) : exec (.cycleLimit wk) s = .next s := by
  change execCycleLimit wk s = _
  unfold execCycleLimit
  simp only [launchOf_wg launch, below]

end

end Sys2Proof.Machine

namespace Sys2Proof.Proofs
open Sys2Proof.Machine

/-- Settles O37: rotation moves one split that no other stands beside; at the two gathering points every group goes on; and
the outermost block over its limit is the last of those in the list of open blocks. -/
theorem blockEvents : Obligations.BlockEvents := by
  unfold Obligations.BlockEvents
  intro s wk w gg l hs launch
  refine ⟨fun gk ix k i g p q group at_ live many between next_ there alone =>
      splitRotation_rotates at_ live next_ alone group many between there,
    fun pc sound few fits some_ all => blockOpen_opens launch sound some_ hs.groups few fits all,
    fun c b r e blocks sound ctx some_ all chain => routineEnd_starts launch sound some_ hs.groups blocks ctx all chain,
    fun d b at_ limited reached going outer => cycleLimit_fails launch (overLimit_some at_ limited reached outer) going,
    fun below => cycleLimit_none launch (overLimit_none below)⟩

end Sys2Proof.Proofs
end

section
/-! SUPPORT. ACCEPT (R129, R331, R133) and CONVJ (R334, R136). -/

namespace Sys2Proof.Machine

/-! ## Groups without watches, accesses or pushes -/

theorem watching_none {g : Group} (h : g.watches = []) : g.watching = false := by
  unfold Group.watching
  rw [h]
  rfl

theorem struck_none {g : Group} (h : g.watches = []) : g.struck = false := by
  unfold Group.struck
  rw [h]
  rfl

theorem accessing_none {g : Group} (h : g.pend = []) (m : Lanes) : g.accessing m = false := by
  unfold Group.accessing
  rw [h]
  rfl

/-- A release of a group without watches only publishes (R197, R367). -/
theorem afterRelease_noWatches {g : Group} (h : g.watches = []) (scope : Nat) :
    g.afterRelease scope = { g with pub := pubUp scope g.pub } := by
  unfold Group.afterRelease Group.freeConfirmed
  cases g
  cases h
  rfl

theorem State.doPush_none (s : State) (l : Launch) : s.doPush l [] = s := ite_self s

/-! ## ACCEPT -/

/-- The vote of a group at ACCEPT that has no watch: its predicate is true in every lane of the split (R331). -/
theorem vote_iff {p m : Lanes} : (p &&& m == m) = true ↔ ∀ l < 32, m.getLsbD l = true → p.getLsbD l = true := by
  rw [beq_iff_eq]
  constructor
  · intro h l _ lane
    have bit := congrArg (fun x : Lanes => x.getLsbD l) h
    simp only [BitVec.getLsbD_and, lane, Bool.and_true] at bit
    exact bit
  · intro h
    refine BitVec.eq_of_getLsbD_eq fun l hl => ?_
    rw [BitVec.getLsbD_and]
    cases lane : m.getLsbD l
    · exact Bool.and_false _
    · rw [h l hl lane]
      rfl

/-- What a group in the acceptance test votes (R129). -/
def Ctx.ballot (c : Ctx) (p : BitVec 3) : Nat := b2n ((c.g.pred p.toNat &&& c.sp.mask) == c.sp.mask)

theorem ballot_ne_zero {c : Ctx} {p : BitVec 3} :
    c.ballot p ≠ 0 ↔ ∀ l < 32, c.sp.mask.getLsbD l = true → (c.g.pred p.toNat).getLsbD l = true := by
  rw [← vote_iff]
  unfold Ctx.ballot b2n
  split <;> simp_all

section
variable {s : State} {c : Ctx} {p : BitVec 3} {b : Block} {r : List Block} (hi : MayIssue s c (.accept p))
  (blocks : c.wg.blocks = b :: r) (test : b.inTest = true) (watches : c.g.watches = []) (pend : c.g.pend = [])
  (delayed : c.g.delayed = [])
include hi blocks test watches pend delayed

theorem exec_accept : exec (.accept p) s =
    .next (((s.released c 1).park c .accept 21 (c.ballot p)).wgSettle c.wk) := by
  have run : exec (.accept p) s = .next _ := hi.issue rfl _
  rw [blocks] at run
  dsimp only at run
  rw [test, watching_none watches, accessing_none pend, due_none delayed, struck_none watches] at run
  simp only [Bool.not_true, Bool.false_eq_true, if_false, Bool.or_self, Bool.not_false, Bool.and_true] at run
  exact run

end

section
variable {s : State} {c : Ctx} {p : BitVec 3} {b : Block} {r : List Block} (hi : MayIssue s c (.accept p))
  (watches : c.g.watches = []) (dirty : c.wg.dirty = []) (only : c.g.splits = [c.sp])
include hi watches dirty only

/-- The issuing group waits alone at ACCEPT, with its vote. -/
theorem accept_parked : ∃ g q, mget? ((s.released c 1).park c .accept 21 (c.ballot p)).groups c.gk = some g ∧
    g.sameButSplits { c.g with pub := pubUp 1 c.g.pub } ∧ g.splits = [q] ∧ q.mask = c.sp.mask ∧ q.pc = c.sp.pc ∧
    q.st = .waiting .accept ∧ q.arg = c.ballot p := by
  have ix : c.ix = 0 := getElem?_single (only ▸ hi.ctxOf.split)
  have group := releasedPark_group dirty 1 .accept 21 (c.ballot p) hi.ctxOf
  rw [ix] at group
  refine ⟨_, _, group, ?_, parked_single (g := c.g.afterRelease 1) only (by decide) 21 _ _, rfl, rfl, rfl, rfl⟩
  rw [← afterRelease_noWatches watches]
  exact parked_same ..

variable (blocks : c.wg.blocks = b :: r) (test : b.inTest = true) (pend : c.g.pend = []) (delayed : c.g.delayed = [])
  (conv : c.wg.conv = none ∨ c.wg.convl = [])
include blocks test pend delayed conv

/-- Beside a group that has not arrived, a group waits with its vote (R129, R331). -/
theorem accept_waits (beside : ∃ k h, k ≠ c.gk ∧ (k, h) ∈ s.groups ∧ h.wg = c.wk ∧ ∃ q ∈ h.splits, ∀ w, q.st ≠ .waiting w) :
    ∃ t g q, exec (.accept p) s = .next t ∧ mget? t.groups c.gk = some g ∧
      g.sameButSplits { c.g with pub := pubUp 1 c.g.pub } ∧ g.splits = [q] ∧
      q.mask = c.sp.mask ∧ q.pc = c.sp.pc ∧ q.st = .waiting .accept ∧
      (q.arg ≠ 0 ↔ ∀ l < 32, c.sp.mask.getLsbD l = true → (c.g.pred p.toNat).getLsbD l = true) ∧
      (∀ k, k ≠ c.wk → mget? t.wgs k = mget? s.wgs k) ∧ mget? t.wgs c.wk = some (c.wg.pubUp c.g.k 1) := by
  obtain ⟨g, q, group, same, splits, mask, pc, st, arg⟩ := accept_parked (p := p) hi watches dirty only
  have wg := releasedPark_wg dirty 1 .accept 21 (c.ballot p) hi.ctxOf
  refine ⟨_, g, q, ?_, group, same, splits, mask, pc, st, arg ▸ ballot_ne_zero,
    fun k hk => releasedPark_wgs_other dirty 1 .accept 21 _ hk, wg⟩
  rw [exec_accept hi blocks test watches pend delayed, (releasedPark_underway dirty 1 .accept 21 _ beside).wgSettle wg conv]

end

/-! ## Commit of an outermost block -/

/-- The workgroup after its outermost block commits (R133). -/
def Wg.committed (w : Wg) : Wg :=
  { w with blocks := [], rbcause := 0, pushes := [], banks := mmap w.banks (fun _ b => b.commitHeld) }

/-- A commit at depth 0 with no push held (R129, R133). -/
theorem State.commit_outermost {s : State} {wk : Nat} {w : Wg} {b : Block} (here : mget? s.wgs wk = some w) (blocks : w.blocks = [b])
    (pushes : w.pushes = []) : (s.updWg wk Wg.committed).Offered (s.commit wk) := by
  unfold State.commit
  simp only [here, blocks, pushes]
  have same : (match (s.updWg wk Wg.committed).launchOf wk with
      | some (_, _, l) => (s.updWg wk Wg.committed).doPush l []
      | none => s.updWg wk Wg.committed) = s.updWg wk Wg.committed := by
    split
    · exact State.doPush_none _ _
    · rfl
  exact Eq.mpr (congrArg (fun t => State.Offered (s.updWg wk Wg.committed) (t.emitBlock wk 1 0 0)) same)
    (State.emitBlock_offered ..)

/-- The one workgroup whose block is coupled with that of a workgroup in no conversation is itself (R136). -/
theorem State.coupled_noConv {s : State} {wk : Nat} {w : Wg} (here : mget? s.wgs wk = some w) (conv : w.conv = none) :
    s.coupled wk = [wk] := by
  unfold State.coupled
  simp only [here, conv]

/-- A workgroup in no conversation all of whose groups vote true commits and goes on (R129, R331). -/
theorem State.acceptCheck_commits {s : State} {wk : Nat} {w : Wg} (here : mget? s.wgs wk = some w) (conv : w.conv = none)
    (voted : s.voted wk w.blocks.length = true) (true_ : s.votesTrue wk = true) :
    s.acceptCheck wk = (s.goOnAll wk .accept).commit wk := by
  unfold State.acceptCheck
  simp [here, coupled_noConv here conv, voted, true_]

section
variable {s : State} {c : Ctx} {p : BitVec 3} {b : Block} (hi : MayIssue s c (.accept p))
  (blocks : c.wg.blocks = [b]) (test : b.inTest = true) (watches : c.g.watches = []) (pend : c.g.pend = [])
  (delayed : c.g.delayed = []) (dirty : c.wg.dirty = []) (only : c.g.splits = [c.sp]) (conv : c.wg.conv = none)
  (pushes : c.wg.pushes = []) (one : s.groups.length = 1)
include hi blocks test watches pend delayed dirty only conv pushes one

/-- The only group of a workgroup, with a true vote, commits its outermost block and goes on (R129, R133, R331). -/
theorem accept_commits (true_ : ∀ l < 32, c.sp.mask.getLsbD l = true → (c.g.pred p.toNat).getLsbD l = true) :
    ∃ t g w, exec (.accept p) s = .next t ∧ mget? t.groups c.gk = some g ∧
      g.sameButSplits { c.g with pub := pubUp 1 c.g.pub } ∧
      g.standsAt c.sp.mask (c.sp.pc + 1) ∧ mget? t.wgs c.wk = some w ∧ w.blocks = [] ∧ w.rbcause = 0 ∧ w.sram = c.wg.sram ∧
      t.mm = s.mm := by
  have hc := hi.ctxOf
  have alone : s.groups = [(c.gk, c.g)] := by
    obtain ⟨e, eq⟩ := List.length_eq_one_iff.mp one
    have mem := mget?_mem hc.group
    rw [eq, List.mem_singleton] at mem
    rw [eq, ← mem]
  have run := exec_accept hi blocks test watches pend delayed
  obtain ⟨g, q, group, same, splits, mask, pc, st, arg⟩ := accept_parked (p := p) hi watches dirty only
  have groups := releasedPark_groups (s := s) dirty 1 .accept 21 (c.ballot p)
  have wg := releasedPark_wg dirty 1 .accept 21 (c.ballot p) hc
  have mm := releasedPark_mm (s := s) dirty 1 .accept 21 (c.ballot p)
  have elsewhere := releasedPark_elsewhere dirty 1 .accept 21 (c.ballot p) hc (by decide) (x := .wbar) (by decide)
  have all : ((s.released c 1).park c .accept 21 (c.ballot p)).groups = [(c.gk, g)] := by
    rw [alone] at groups
    rw [groups] at group ⊢
    simp only [mupd, mput, mget?, if_true, lt_irrefl, if_false, Option.some.injEq] at group ⊢
    rw [group]
  generalize (s.released c 1).park c .accept 21 (c.ballot p) = v at *
  have gWg : g.wg = c.wk := same.wg.trans hc.wgKey.symm
  have its : v.groupsOf c.wk = [(c.gk, g)] := by
    unfold State.groupsOf
    rw [all]
    simp [gWg]
  have gathered : v.gathered c.wk .accept = true := by
    unfold State.gathered Group.arrived
    simp [its, splits, st]
  have voted : v.voted c.wk (c.wg.pubUp c.g.k 1).blocks.length = true := by
    have sound : (c.wg.pubUp c.g.k 1).failing = none := hi.noFailure
    unfold State.voted
    simp [wg, sound, gathered]
  have votes : v.votesTrue c.wk = true := by
    have given : q.arg ≠ 0 := arg ▸ ballot_ne_zero.mpr true_
    unfold State.votesTrue
    simp [its, mvals, splits, given]
  have kept : (c.wg.pubUp c.g.k 1).blocks = [_] := congrArg (List.map _) blocks
  have commits := State.commit_outermost (s := v.goOnAll c.wk .accept) wg kept pushes
  have at_ : mget? ((v.goOnAll c.wk .accept).commit c.wk).groups c.gk = some (g.goOn .accept) := by
    rw [commits.groups, State.updWg_groups, State.goOnAll_groups, group, Option.map_some, if_pos gWg]
  refine ⟨_, g.goOn .accept, (c.wg.pubUp c.g.k 1).committed, ?_, at_, (goOn_same g .accept).trans same, ?_, ?_, rfl, rfl, rfl,
    commits.mm.trans mm⟩
  · rw [run, State.wgSettle, State.wbarCheck_none elsewhere, State.convlCheck_none wg (.inl conv),
      State.acceptCheck_commits wg conv voted votes]
  · have ready : (g.goOn .accept).splits =
        [({ q with st := .ready, pc := q.pc + 1, inClause := false, arg := 0 } : Split).goLive 0] :=
      settle_single_ready (by simp [splits, st]) rfl _
    exact ⟨({ q with st := .ready, pc := q.pc + 1, inClause := false, arg := 0 } : Split).goLive 0,
      ready ▸ List.mem_singleton.mpr rfl, mask, congrArg (· + 1) pc⟩
  · rw [commits.wgs]
    exact mget?_mupd_same wg

end

/-! ## CONVJ -/

theorem nbit_toNat {n : Nat} (m : BitVec n) (k : Nat) : nbit m.toNat k = m.getLsbD k := by
  unfold nbit
  rw [BitVec.getLsbD, Nat.testBit_eq_decide_div_mod_eq, beq_eq_decide]

theorem memberCount_toNat (m : BitVec 24) : memberCount m.toNat = ((List.range 24).filter (fun k => m.getLsbD k)).length :=
  congrArg (fun f => ((List.range 24).filter f).length) (funext (nbit_toNat m))

section
variable {s : State} {c : Ctx} {a : BitVec 7} {h : BitVec 4} {ps : List Access} {m : BitVec 24}
  (hi : MayIssue s c (.convj a h)) (outside : c.wg.blocks = []) (conv : c.wg.conv = none) (watches : c.g.watches = [])
  (pend : c.g.pend = []) (passing : s.passing c.wk = false) (delayed : c.g.delayed = [])
  (formed : s.formAccess c h.toNat a.toNat 64 .conv c.g.low = (.inr ps, s)) (fresh : s.stale c.l = false)
  (read : s.readParts c.g.core ps = (m.toNat, none, s)) (groups : ∀ e ∈ s.groups, e.2.conv = none)
  (wgs : ∀ e ∈ s.wgs, e.2.conv = none ∨ e.2.conv = some m.toNat)
include hi outside conv watches pend passing delayed formed fresh read groups wgs

/-- CONVJ that has read member mask m, where no group waits with another (R334). -/
theorem exec_convj : exec (.convj a h) s = .next
    (if memberCount m.toNat < 2 || 2 ^ (c.gg.w * c.gg.h) ≤ m.toNat || !m.getLsbD c.wg.k then s.raiseAll c 0x0F
      else ((s.released c 1).updGroup c.gk (fun g => { g with conv := some m.toNat })).park c .convj 23 0) := by
  have noneOf : ∀ wk (f : Group → Bool), (∀ g, g.conv = none → f g = false) → (mvals (s.groupsOf wk)).any f = false := by
    intro wk f clear
    refine List.any_eq_false.mpr fun g hg => ?_
    obtain ⟨e, he, rfl⟩ := List.mem_map.mp hg
    rw [clear e.2 (groups e (List.mem_filter.mp he).1)]
    exact Bool.false_ne_true
  have noMember : ∀ f : Nat → Bool, (∀ k, f k = false) → (upto 24).any f = false := fun f clear =>
    List.any_eq_false.mpr fun k _ => by rw [clear k]; exact Bool.false_ne_true
  have small : m.toNat % 2 ^ 24 = m.toNat := Nat.mod_eq_of_lt m.isLt
  have upper : m.toNat / 2 ^ 24 = 0 := Nat.div_eq_of_lt m.isLt
  have run : exec (.convj a h) s = .next _ := hi.issue rfl _
  rw [accessing_none pend, passing, Bool.or_false, relCheck_ok (watching_none watches) delayed (struck_none watches),
    inBlock_eq_false.mpr outside, conv, formed] at run
  dsimp only [Bool.or_false] at run
  rw [fresh, read] at run
  dsimp only at run
  rw [small, upper, noneOf _ _ ?own, noMember _ ?other] at run
  case own =>
    intro g free
    rw [free]
  case other =>
    intro k
    rw [noneOf _ _ (fun g free => by rw [free]), Bool.and_false, Bool.or_false]
    cases at_ : mget? s.wgs (wgKey c.nk k) with
    | none => exact Bool.and_false _
    | some w =>
      have known : w.conv = none ∨ w.conv = some m.toNat := wgs _ (mget?_mem at_)
      rcases known with eq | eq <;> simp [eq]
  simp only [Option.isSome_none, Bool.or_false, Bool.false_eq_true, if_false, ne_eq, not_true_eq_false, decide_false,
    Bool.false_or, nbit_toNat] at run
  exact run

theorem convj_parksAt (dirty : c.wg.dirty = []) (two : 2 ≤ ((List.range 24).filter (fun k => m.getLsbD k)).length)
    (own : m.getLsbD c.wg.k = true) (inside : m.toNat < 2 ^ (c.gg.w * c.gg.h)) :
    ParksAt (.convj a h) s c .convj (fun g => { g with conv := some m.toNat, pub := pubUp 1 g.pub }) := by
  have released := mget?_mupd_same (f := (·.afterRelease 1)) hi.ctxOf.group
  rw [afterRelease_noWatches watches] at released
  refine parksAt_of (u := (s.released c 1).updGroup c.gk (fun g => { g with conv := some m.toNat })) hi (by decide) ?_ rfl
    (fun k hk => ?_) (released_mm dirty 1) (released_regs dirty 1) (r := 23) (arg := 0) ?_
  · rw [State.updGroup_groups, released_groups dirty]
    exact mget?_mupd_same released
  · rw [State.updGroup_groups, mget?_mupd_other _ _ hk, released_groups dirty, mget?_mupd_other _ _ hk]
  · rw [exec_convj hi outside conv watches pend passing delayed formed fresh read groups wgs, memberCount_toNat, own,
      decide_eq_false (Nat.not_lt.mpr two), decide_eq_false (Nat.not_le.mpr inside)]
    rfl

theorem convj_faults (bad : ((List.range 24).filter (fun k => m.getLsbD k)).length < 2 ∨ m.getLsbD c.wg.k = false) :
    exec (.convj a h) s = .next (s.raiseAll c 0x0F) := by
  rw [exec_convj hi outside conv watches pend passing delayed formed fresh read groups wgs, memberCount_toNat]
  rcases bad with few | out
  · rw [decide_eq_true few]
    rfl
  · rw [out, Bool.not_false, Bool.or_true]
    rfl

end

end Sys2Proof.Machine

namespace Sys2Proof.Proofs
open Sys2Proof.Machine

/-- Settles O17: ACCEPT parks its split with its vote, and the last true vote commits; CONVJ judges the mask it has read. -/
theorem acceptAndConversationJoin : Obligations.AcceptAndConversationJoin := by
  unfold Obligations.AcceptAndConversationJoin
  constructor
  · intro s c p b r hi blocks test watches pend delayed dirty only conv
    refine ⟨accept_waits hi watches dirty only blocks test pend delayed conv, ?_⟩
    rintro rfl noConv pushes - one true_
    exact accept_commits hi blocks test watches pend delayed dirty only noConv pushes one true_
  · rintro s c a h ps v m hi outside conv watches pend passing delayed dirty - formed - fresh read rfl groups wgs
    exact ⟨convj_parksAt hi outside conv watches pend passing delayed formed fresh read groups wgs dirty,
      convj_faults hi outside conv watches pend passing delayed formed fresh read groups wgs⟩

end Sys2Proof.Proofs
end

section
/-! SUPPORT. Faults and escapes in an open block (R123, R135, R197), and what a failure leaves (R130, R131). -/

namespace Sys2Proof.Machine

/-! ## Faults in an open block -/

theorem codeMask_raise (m : Lanes) (k : Nat) : codeMask (fun l => if m.getLsbD l then some k else none) = m := by
  refine BitVec.eq_of_getLsbD_eq fun l hl => ?_
  unfold codeMask
  rw [getLsbD_maskOf, decide_eq_true hl, Bool.true_and]
  cases lane : m.getLsbD l <;> simp [lane]

theorem filterMap_raise (m : Lanes) (k : Nat) :
    (lanesOf m).filterMap (fun l => if m.getLsbD l then some k else none) = (lanesOf m).map (fun _ => k) := by
  refine List.filterMap_eq_map_iff_forall_eq_some.mpr fun l hl => ?_
  rw [if_pos (mem_lanesOf.mp hl).2]

theorem lanesOf_ne_nil {m : Lanes} (h : m ≠ 0#32) : lanesOf m ≠ [] := by
  intro none_
  refine h (BitVec.eq_of_getLsbD_eq fun l hl => ?_)
  rw [BitVec.getLsbD_zero]
  refine Bool.eq_false_iff.mpr fun lane => ?_
  have mem : l ∈ lanesOf m := mem_lanesOf.mpr ⟨hl, lane⟩
  rw [none_] at mem
  exact absurd mem List.not_mem_nil

theorem foldl_min_replicate (n x : Nat) : (List.replicate n x).foldl min x = x := by
  induction n with
  | zero => rfl
  | succ n ih => rw [List.replicate_succ, List.foldl_cons, min_self, ih]

/-- Faults with causes, in an open block, fail it with the lowest of them (R123, R130). -/
theorem takeFaultAt_fails {s : State} {c : Ctx} {code : Nat → Option Nat} {x : Nat} {xs : List Nat} (open_ : c.wg.blocks ≠ [])
    (causes : ((lanesOf (codeMask code)).filterMap code).filterMap faultCause = x :: xs) (pc : Nat)
    (place : Group → List Split → Group) :
    s.takeFaultAt c code pc place = s.failBlock c.wk (xs.foldl min x) 0 pc false := by
  unfold State.takeFaultAt
  dsimp only
  rw [causes, inBlock_iff.mpr open_]

/-- A fault of the whole split that has a cause fails the innermost open block with it (R123). -/
theorem raiseAll_fails {s : State} {c : Ctx} {k cause : Nat} (lanes : c.sp.mask ≠ 0#32) (open_ : c.wg.blocks ≠ [])
    (named : faultCause k = some cause) : s.raiseAll c k = s.failBlock c.wk cause 0 c.sp.pc false := by
  obtain ⟨l, r, list⟩ := List.exists_cons_of_ne_nil (lanesOf_ne_nil lanes)
  have causes : ((lanesOf c.sp.mask).map (fun _ => k)).filterMap faultCause = cause :: List.replicate r.length cause := by
    rw [list, List.map_const', List.filterMap_replicate_of_some named]
    rfl
  unfold State.raiseAll State.takeFault
  rw [takeFaultAt_fails (x := cause) (xs := List.replicate r.length cause) open_, foldl_min_replicate]
  rw [codeMask_raise, filterMap_raise, causes]

/-! ## Escapes -/

theorem act_ne_zero {c : Ctx} {l : Nat} (h : c.opLane = some l) : c.act ≠ 0#32 := by
  intro none_
  unfold Ctx.opLane at h
  rw [none_, show lowLane 0#32 = none from by decide] at h
  exact Option.some_ne_none l h.symm

/-- Global writes that nothing so wide has published stay so beside newer writes (R197). -/
theorem mergePub_unpublished {old : List (Option Nat × Nat)} {k : Nat} (new : List (Option Nat × Nat))
    (h : ∃ y ∈ old, y.1 = none ∧ y.2 < k) : ∃ y ∈ mergePub old new, y.1 = none ∧ y.2 < k := by
  unfold mergePub
  refine List.foldlRecOn new _ (motive := fun l : List (Option Nat × Nat) => ∃ y ∈ l, y.1 = none ∧ y.2 < k) h
    fun l ⟨y, mem, global, narrow⟩ e _ => ?_
  split
  · refine ⟨if y.1 = e.1 then (y.1, min y.2 e.2) else y, List.mem_map_of_mem mem, ?_⟩
    split
    · exact ⟨global, lt_of_le_of_lt (min_le_left _ _) narrow⟩
    · exact ⟨global, narrow⟩
  · exact ⟨y, List.mem_append_left _ mem, global, narrow⟩

/-- What makes an access of scope k an escape of an open block (R135, R197): it is wider than WG, and the workgroup is in no
conversation or the group has global writes that nothing so wide has published. -/
def Ctx.Wide (c : Ctx) (k : Nat) : Prop :=
  2 ≤ k ∧ (c.wg.conv = none ∨ ∃ y ∈ c.g.pub, y.1 = none ∧ y.2 < k)

theorem Ctx.Wide.escapeOf {c : Ctx} {k : Nat} (h : c.Wide k) (open_ : c.wg.blocks ≠ []) (own : List (Option Nat × Nat)) :
    c.escapeOf k own = true := by
  have inside : ({ c with g := { c.g with pub := mergePub c.g.pub own } } : Ctx).inBlock = true := inBlock_iff.mpr open_
  obtain ⟨wide, alone⟩ := h
  unfold Ctx.escapeOf Ctx.escapes
  rw [inside, decide_eq_true wide, Bool.true_and, Bool.true_and, Bool.not_eq_true']
  rcases alone with conv | unpublished
  · simp only [conv]
  · split
    · obtain ⟨y, mem, global, narrow⟩ := mergePub_unpublished own unpublished
      refine List.all_eq_false.mpr ⟨y, mem, ?_⟩
      simp [global, narrow]
    · rfl

/-- A release of so wide a scope that nothing holds back and no lane of which faults escapes (R135). -/
theorem MayRelease.escapes {s : State} {c : Ctx} {k : Nat} (h : MayRelease s c k) (wide : c.Wide k) (open_ : c.wg.blocks ≠ [])
    (r : Nat) (own : List (Option Nat × Nat)) {code : Nat → Option Nat} (clean : ∀ l < 32, code l = none) (go : State → State) :
    s.relThen c r k own code go = s.failBlock c.wk 9 0 c.sp.pc false := by
  rw [h.relThen, if_pos (wide.escapeOf open_ own), escape_clean clean]

/-- A release that nothing holds back, of an instruction that is an escape at any scope (R135). -/
theorem MayRelease.escapes_open {s : State} {c : Ctx} {k : Nat} (h : MayRelease s c k) (open_ : c.wg.blocks ≠ []) (r : Nat)
    (go : State → State) :
    s.relThen c r k [] noFault (fun t => if c.inBlock then s.escape c noFault else go t) =
      s.failBlock c.wk 9 0 c.sp.pc false := by
  rw [h.relThen, inBlock_iff.mpr open_, if_pos rfl, ite_self, escape_clean (code := noFault) fun _ _ => rfl]

theorem MayRelease.relWaits {s : State} {c : Ctx} {k : Nat} (h : MayRelease s c k) : s.relWaits c k = false := by
  unfold State.relWaits
  rw [h.resolved, h.performed]
  rfl

theorem MayRelease.storesOnly {s : State} {c : Ctx} {k : Nat} (h : MayRelease s c k) : s.storesOnly c k = false := by
  unfold State.storesOnly
  rw [h.performed]
  rfl

/-- Accesses whose checks all passed fault in no lane (R363). -/
theorem forms_clean {s : State} {c : Ctx} {h : BitVec 4} {a : BitVec 7} {n : Nat} {k : AccKind} {fs : Forms}
    (formed : s.forms c h a n k fs) (l : Nat) : fs.code l = none := by
  obtain ⟨_, right⟩ := formed
  unfold Forms.code
  refine List.findSome?_eq_none_iff.mpr fun e mem => ?_
  cases at_ : e.2 with
  | inl _ => exact absurd (right e mem) (by simp [at_])
  | inr _ => rfl

section
variable {s : State} {c : Ctx} {d a : BitVec 7} {h : BitVec 4} {z k : BitVec 3} {fs : Forms} {l : Nat}
  (open_ : c.wg.blocks ≠ []) (lane : c.opLane = some l) (wide : c.Wide k.toNat)
include open_ lane wide

theorem strl_escapes (hi : MayIssue s c (.strl d a h z k)) (bank : s.bankWait c h a = false)
    (room : c.g.flagFull c.sp.setB = false) (hr : MayRelease s c k.toNat) (formed : s.forms c h a (2 ^ z.toNat) .store fs) :
    exec (.strl d a h z k) s = .next (s.failBlock c.wk 9 0 c.sp.pc false) := by
  refine (hi.issue rfl _).trans ?_
  rw [if_neg (act_ne_zero lane), room, hr.relWaits, bank, if_neg Bool.false_ne_true, if_neg Bool.false_ne_true,
    if_neg Bool.false_ne_true, show sizeBytes z = 2 ^ z.toNat from rfl, formed.1]
  exact congrArg _ (hr.escapes wide open_ 16 _ (fun l _ => forms_clean formed l) _)

theorem sc_escapes (hi : MayIssue s c (.sc d a h z 1#1 k)) (room : c.g.flagFull c.sp.setA = false)
    (hr : MayRelease s c k.toNat) (formed : s.forms c h a (2 ^ z.toNat) .lrsc fs) :
    exec (.sc d a h z 1#1 k) s = .next (s.failBlock c.wk 9 0 c.sp.pc false) := by
  refine (hi.issue rfl _).trans ?_
  rw [if_neg (act_ne_zero lane), room, if_neg Bool.false_ne_true, show sizeBytes z = 2 ^ z.toNat from rfl, formed.1]
  exact congrArg _ (hr.escapes wide open_ 16 _ (fun l _ => forms_clean formed l) _)

/-- An ATOM of any order escapes, releasing or not (R135, R371). -/
theorem atomOp_escapes {n : BitVec 1} {o : BitVec 3} (ord : AtomOrd) (bank : s.bankWait c h a = false)
    (room : c.g.flagFull (if n = 0#1 then c.sp.setA else c.sp.setB) = false)
    (acq : ord.acq = true → c.g.watchingLanes c.sp.mask = false) (rel : ord.rel = true → MayRelease s c k.toNat)
    (formed : s.forms c h a 4 .atom fs) : s.atomOp c d a h k n o ord = s.failBlock c.wk 9 0 c.sp.pc false := by
  have noWait : (ord.rel && s.relWaits c k.toNat) = false := by
    cases releases : ord.rel
    · rfl
    · exact (rel releases).relWaits
  have noWatch : (ord.acq && c.g.watchingLanes c.sp.mask) = false := by
    cases acquires : ord.acq
    · rfl
    · exact acq acquires
  have clean := fun l (_ : l < 32) => forms_clean formed l
  unfold State.atomOp
  simp only [if_neg (act_ne_zero lane), room, noWait, noWatch, bank, formed.1, Bool.false_eq_true, if_false]
  cases releases : ord.rel
  · rw [if_neg Bool.false_ne_true, if_pos (wide.escapeOf open_ _), escape_clean clean]
  · rw [if_pos rfl, (rel releases).escapes wide open_ 16 _ clean]

theorem atom_escapes {n : BitVec 1} {o : BitVec 3} {i : Instr} {acq rel : Bool} (row : (i, acq, rel) ∈ atomRows d a h k n o)
    (hi : MayIssue s c i) (typed : o = 4#3 ∨ o = 5#3 → tyOf c.g.m ≤ 1) (bank : s.bankWait c h a = false)
    (room : c.g.flagFull (if n = 0#1 then c.sp.setA else c.sp.setB) = false)
    (acquires : acq = true → c.g.watchingLanes c.sp.mask = false) (releases : rel = true → MayRelease s c k.toNat)
    (formed : s.forms c h a 4 .atom fs) : exec i s = .next (s.failBlock c.wk 9 0 c.sp.pc false) := by
  have mode : atomMode o c = true := by
    unfold atomMode
    by_cases minmax : o = 4#3 ∨ o = 5#3
    · simp [typed minmax]
    · obtain ⟨notMin, notMax⟩ := not_or.mp minmax
      simp [notMin, notMax]
  have escapes := atomOp_escapes open_ lane wide (d := d) (o := o) ⟨acq, rel⟩ bank room acquires releases formed
  simp only [atomRows, List.mem_cons, Prod.mk.injEq, List.not_mem_nil, or_false] at row
  rcases row with ⟨rfl, rfl, rfl⟩ | ⟨rfl, rfl, rfl⟩ | ⟨rfl, rfl, rfl⟩ | ⟨rfl, rfl, rfl⟩ <;>
    exact (hi.issue mode _).trans (congrArg _ escapes)

/-- A FENCE that is no release escapes once what it acquires is there (R135, R370). -/
theorem fence_escapes {p : BitVec 1} {kind : BitVec 3} (hi : MayIssue s c (.fence p k kind)) (narrow : kind.toNat < 2)
    (acquired : kind = 1#3 → c.g.watchingLanes c.act = false ∧ c.g.loading c.act = false)
    (performed : p = 1#1 → c.g.accessing c.act = false) :
    exec (.fence p k kind) s = .next (s.failBlock c.wk 9 0 c.sp.pc false) := by
  have three : kind.toNat ≠ 3 := by omega
  have noWait : ((decide (kind.toNat = 1) || decide (3 ≤ kind.toNat)) && (c.g.watchingLanes c.act || c.g.loading c.act) ||
      (decide (p = 1#1) || decide (kind.toNat = 4)) && c.g.accessing c.act) = false := by
    rw [decide_eq_false (p := 3 ≤ kind.toNat) (by omega), decide_eq_false (p := kind.toNat = 4) (by omega), Bool.or_false,
      Bool.or_false, Bool.or_eq_false_iff]
    constructor
    · by_cases acquires : kind.toNat = 1
      · obtain ⟨noWatch, noLoad⟩ := acquired (BitVec.eq_of_toNat_eq acquires)
        rw [noWatch, noLoad]
        exact Bool.and_false _
      · rw [decide_eq_false acquires]
        rfl
    · by_cases all : p = 1#1
      · rw [performed all]
        exact Bool.and_false _
      · rw [decide_eq_false all]
        rfl
  refine (hi.issue rfl _).trans ?_
  dsimp only
  rw [if_neg (act_ne_zero lane), if_neg (Nat.not_le.mpr narrow), noWait, if_neg Bool.false_ne_true,
    if_pos (wide.escapeOf open_ _), escape_clean (code := noFault) fun _ _ => rfl]

/-- A releasing FENCE escapes (R135, R370); an AR fence has used a free value. -/
theorem fence_escapes_release {p : BitVec 1} {kind : BitVec 3} (hi : MayIssue s c (.fence p k kind)) (releases : 2 ≤ kind.toNat)
    (hr : MayRelease s c k.toNat) : exec (.fence p k kind) s =
      .next (({ s with draws := if kind = 3#3 then s.draws + 1 else s.draws } : State).failBlock c.wk 9 0 c.sp.pc false) := by
  have isAr : kind.toNat = 3 ↔ kind = 3#3 := ⟨fun same => BitVec.eq_of_toNat_eq same, congrArg BitVec.toNat⟩
  have drawn : (if kind.toNat = 3 then s.draw 1 else s) =
      ({ s with draws := if kind = 3#3 then s.draws + 1 else s.draws } : State) := by
    by_cases ar : kind = 3#3
    · rw [if_pos ar, if_pos (isAr.mpr ar)]
      rfl
    · rw [if_neg ar, if_neg (mt isAr.mp ar)]
  have after : MayRelease ({ s with draws := if kind = 3#3 then s.draws + 1 else s.draws } : State) c k.toNat :=
    ⟨hr.resolved, hr.performed, hr.noDelayed, hr.noStrike, hr.pushed⟩
  refine (hi.issue rfl _).trans ?_
  dsimp only
  rw [if_neg (act_ne_zero lane), if_pos releases, hr.storesOnly, Bool.and_false, Bool.false_and, if_neg Bool.false_ne_true, drawn,
    after.escapes wide open_ 16 _ (code := noFault) fun _ _ => rfl]

end

section
variable {s : State} {c : Ctx} {l : Nat} (open_ : c.wg.blocks ≠ []) (lane : c.opLane = some l)
include open_ lane

/-- EVSIG of an event in the partition's range, with operands that are not poisoned, escapes (R135, R415). -/
theorem evsig_escapes {a : BitVec 7} {v : Nat → Val} (op : Nat) (hr : MayRelease s c 4) (named : (c.g.lane a.toNat l).p = none)
    (value : (v l).p = none) (number : (c.g.lane a.toNat l).w.toNat < 0x10000)
    (low : s.fld (0x40 + c.l.part) 15 0 ≤ (c.g.lane a.toNat l).w.toNat)
    (high : (c.g.lane a.toNat l).w.toNat < s.fld (0x40 + c.l.part) 15 0 + s.fld (0x40 + c.l.part) 48 32) :
    s.evsig c op a v = s.failBlock c.wk 9 0 c.sp.pc false := by
  have event : s.eventOf c a l = .inr (c.g.lane a.toNat l).w.toNat := by
    unfold State.eventOf State.evInRange
    simp [named, decide_eq_true low, decide_eq_true high, number]
  unfold State.evsig
  simp only [lane, named, value, event, Option.isSome_none, Bool.or_self, Bool.false_eq_true, if_false]
  exact hr.escapes_open open_ 16 _

theorem evsigs_escape {a b : BitVec 7} {i : Instr} {v : Val}
    (row : (i, v) ∈ [(Instr.evsigAdd a b, c.g.lane b.toNat l), (.evsigSet a b, c.g.lane b.toNat l), (.evsigClr a, clean 0#32)])
    (hi : MayIssue s c i) (hr : MayRelease s c 4) (named : (c.g.lane a.toNat l).p = none) (value : v.p = none)
    (number : (c.g.lane a.toNat l).w.toNat < 0x10000)
    (low : s.fld (0x40 + c.l.part) 15 0 ≤ (c.g.lane a.toNat l).w.toNat)
    (high : (c.g.lane a.toNat l).w.toNat < s.fld (0x40 + c.l.part) 15 0 + s.fld (0x40 + c.l.part) 48 32) :
    exec i s = .next (s.failBlock c.wk 9 0 c.sp.pc false) := by
  have escapes := fun (op : Nat) (u : Nat → Val) (clear : (u l).p = none) =>
    evsig_escapes open_ lane (v := u) op hr named clear number low high
  simp only [List.mem_cons, Prod.mk.injEq, List.not_mem_nil, or_false] at row
  rcases row with ⟨rfl, rfl⟩ | ⟨rfl, rfl⟩ | ⟨rfl, rfl⟩ <;> exact (hi.issue rfl _).trans (congrArg _ (escapes _ _ value))

theorem sysw_escapes {d : BitVec 7} {x : BitVec 16} (hi : MayIssue s c (.sysw d x)) (hr : MayRelease s c 4)
    (low : (c.g.lane d.toNat l).p = none) (high : (c.g.lane (d.toNat + 1) l).p = none)
    (may : s.mayWrite c.l.part x.toNat
      (BitVec.ofNat 64 ((c.g.lane d.toNat l).w.toNat + (c.g.lane (d.toNat + 1) l).w.toNat * 2 ^ 32)) = true) :
    exec (.sysw d x) s = .next (s.failBlock c.wk 9 0 c.sp.pc false) := by
  refine (hi.issue rfl _).trans ?_
  simp only [lane, low, high, may, Option.isSome_none, Bool.or_self, Bool.not_true, Bool.false_eq_true, if_false]
  exact congrArg _ (hr.escapes_open open_ 31 _)

theorem bankm_escapes {d : BitVec 7} {e : BitVec 3} {m : BitVec 2} {b : BitVec 5} (hi : MayIssue s c (.bankm d e m b)) :
    exec (.bankm d e m b) s = .next (s.failBlock c.wk 9 0 c.sp.pc false) := by
  refine (hi.issue rfl _).trans ?_
  rw [if_neg (act_ne_zero lane), if_pos (inBlock_iff.mpr open_)]

end

/-! ## A failure -/

/-- A group after a failure of its workgroup: its operations that have not started are cancelled (R131). -/
def Group.cancelled (g : Group) : Group := { g with ops := g.ops.filter (·.started) }

/-- The first failure of the innermost block of a workgroup in no conversation freezes the workgroup (R130, R131). -/
theorem failBlock_first {s : State} {wk : Nat} {w : Wg} (here : mget? s.wgs wk = some w) (open_ : w.blocks ≠ [])
    (sound : w.failing = none) (conv : w.conv = none) (cause pc : Nat) : s.failBlock wk cause 0 pc false =
    { s with
      wgs := mupd s.wgs wk (fun w => { w with
        gen := w.gen + 1, failing := some { cause := cause, clk := s.clk, depth := 0, pc := pc, atAccept := false } })
      groups := mmap s.groups (fun _ g => if g.wg = wk then g.cancelled else g) } := by
  have inside : w.blocks.isEmpty = false := List.isEmpty_eq_false_iff.mpr open_
  unfold State.failBlock State.failHere
  simp only [here, inside, sound, conv, Bool.false_eq_true, if_false]
  rfl

end Sys2Proof.Machine

namespace Sys2Proof.Proofs
open Sys2Proof.Machine

/-- Settles O21: a fault with a cause and an escape both fail the innermost block, and a failure writes the workgroup and cancels
operations, nothing else. -/
theorem blockFaultsAndFailure : Obligations.BlockFaultsAndFailure := by
  unfold Obligations.BlockFaultsAndFailure
  refine ⟨fun s c k cause _ lanes open_ row => raiseAll_fails lanes open_ ?_, ?_, ?_⟩
  · simp only [List.mem_cons, Prod.mk.injEq, List.not_mem_nil, or_false] at row
    rcases row with ⟨rfl, rfl⟩ | ⟨rfl, rfl⟩ | ⟨rfl, rfl⟩ | ⟨rfl, rfl⟩ | ⟨rfl, rfl⟩ | ⟨rfl, rfl⟩ | ⟨rfl, rfl⟩ | ⟨rfl, rfl⟩ |
      ⟨rfl, rfl⟩ <;> rfl
  · intro s c d a b h z k kind n p o x e m bk fs l open_ lane
    refine ⟨fun wide bank => ⟨?_, ?_, ?_⟩, fun wide hi => ⟨?_, ?_⟩, ?_, ?_, ?_, ?_⟩
    · exact fun hi room hr formed => strl_escapes open_ lane wide hi bank room hr formed
    · exact fun hi room hr formed => sc_escapes open_ lane wide hi room hr formed
    · exact fun i acq rel row hi typed room acquires releases formed =>
        atom_escapes open_ lane wide row hi typed bank room acquires releases formed
    · exact fun narrow acquired performed => fence_escapes open_ lane wide hi narrow acquired performed
    · exact fun releases hr => fence_escapes_release open_ lane wide hi releases hr
    · exact fun i v row hi hr named value number low high => evsigs_escape open_ lane row hi hr named value number low high
    · exact fun hi hr low high may => sysw_escapes open_ lane hi hr low high may
    · intro hi hr
      rw [exec_gbar hi hr, if_pos (inBlock_iff.mpr open_)]
    · exact fun hi => bankm_escapes open_ lane hi
  · intro s wk cause pc w here open_ sound conv
    rw [failBlock_first here open_ sound conv]
    refine ⟨_, _, mget?_mupd_same here, rfl, rfl, rfl, rfl, rfl, ?_, rfl, fun k g at_ own => ⟨g.cancelled, ?_, rfl, rfl, rfl⟩,
      fun k hk => mget?_mupd_other _ _ hk⟩
    · rw [← sound]
    · rw [mget?_mmap s.groups, at_, Option.map_some, if_pos own]

end Sys2Proof.Proofs
end

section
/-! SUPPORT. What a completion entry leaves alone (R78, R124, R187): the workgroups and, but for their reservations, the groups. -/

namespace Sys2Proof.Machine

/-- A group but for its reservations. -/
def Group.unreserved (g : Group) : Group := { g with resv := [] }

/-- The groups but for their reservations, and the workgroups. -/
def State.unreserved (s : State) : Map Group × Map Wg := (mmap s.groups (fun _ g => g.unreserved), s.wgs)

theorem State.wgs_of_unreserved {s t : State} (h : t.unreserved = s.unreserved) : t.wgs = s.wgs := congrArg (·.2) h

/-- A group is still there, and differs in its reservations only. -/
theorem State.group_of_unreserved {s t : State} (h : t.unreserved = s.unreserved) {k : Nat} {g : Group}
    (at_ : mget? s.groups k = some g) : ∃ g', mget? t.groups k = some g' ∧ ({ g' with resv := g.resv } : Group) = g := by
  have groups : mmap t.groups (fun _ g => g.unreserved) = mmap s.groups (fun _ g => g.unreserved) := congrArg (·.1) h
  have same : (mget? t.groups k).map Group.unreserved = some g.unreserved := by
    rw [← mget?_mmap t.groups (fun _ g => g.unreserved), groups, mget?_mmap s.groups, at_, Option.map_some]
  obtain ⟨g', at', eq⟩ := Option.map_eq_some_iff.mp same
  have back := congrArg (fun x : Group => ({ x with resv := g.resv } : Group)) eq
  exact ⟨g', at', back⟩

theorem State.unreserved_ite {c : Prop} [Decidable c] {s t u : State} (h : t.unreserved = s.unreserved)
    (h' : u.unreserved = s.unreserved) : (if c then t else u).unreserved = s.unreserved := by
  split
  · exact h
  · exact h'

/-- What every step of a fold leaves, the fold leaves. -/
theorem State.unreserved_foldl {α : Type} {f : State → α → State} (h : ∀ s a, (f s a).unreserved = s.unreserved) (l : List α)
    (s : State) : (l.foldl f s).unreserved = s.unreserved :=
  List.foldlRecOn l f (motive := fun t : State => t.unreserved = s.unreserved) rfl fun t ht a _ => (h t a).trans ht

/-! ## Small updates, and records

A proof (rfl) keeps simp from using the equation as a definitional one, which the kernel would check by unfolding states. -/

@[simp] theorem State.setMM_unreserved (s : State) (m : MemSys) : (s.setMM m).unreserved = s.unreserved := (rfl)
@[simp] theorem State.flipBit_unreserved (s : State) (ln b : Nat) : (s.flipBit ln b).unreserved = s.unreserved := (rfl)
@[simp] theorem State.updLine_unreserved (s : State) (ln : Nat) (f : Line → Line) :
    (s.updLine ln f).unreserved = s.unreserved := (rfl)
@[simp] theorem State.dropDie_unreserved (s : State) (d ln : Nat) : (s.dropDie d ln).unreserved = s.unreserved := (rfl)
@[simp] theorem State.keepV_unreserved (s : State) (d ln : Nat) : (s.keepV d ln).unreserved = s.unreserved := (rfl)
@[simp] theorem State.draw_unreserved (s : State) (n : Nat) : (s.draw n).unreserved = s.unreserved := (rfl)
@[simp] theorem State.setReg_unreserved (s : State) (n : Nat) (v : BitVec 64) : (s.setReg n v).unreserved = s.unreserved := (rfl)
@[simp] theorem State.setRel_unreserved (s : State) (r : Rel) : ({ s with rel := r } : State).unreserved = s.unreserved := (rfl)
@[simp] theorem State.setCq_unreserved (s : State) (c : Nat) (x : Cq) : (s.setCq c x).unreserved = s.unreserved := (rfl)

theorem State.Offered.unreserved {s t : State} (h : s.Offered t) : t.unreserved = s.unreserved := by
  obtain ⟨_, rfl⟩ := h
  rfl

@[simp] theorem State.dropFlaws_unreserved (s : State) (p : FlawAt → Bool) : (s.dropFlaws p).unreserved = s.unreserved := by
  rw [State.dropFlaws_eq]
  rfl

@[simp] theorem State.toHost_unreserved (s : State) (p : Tlp) : (s.toHost p).unreserved = s.unreserved := by
  unfold State.toHost
  split
  · rfl
  · split <;> rfl

@[simp] theorem State.interrupt_unreserved (s : State) (n : Nat) : (s.interrupt n).unreserved = s.unreserved :=
  State.unreserved_ite rfl (s.toHost_unreserved _)

/-! ## Writes at homes (R155), and error records (R219) -/

@[simp] theorem State.takeBack_unreserved (s : State) (ln : Nat) : (s.takeBack ln).1.unreserved = s.unreserved := by
  unfold State.takeBack
  dsimp only
  split
  · rfl
  · split <;> rfl

@[simp] theorem State.bumpVersion_unreserved (s : State) (ln : Nat) : (s.bumpVersion ln).unreserved = s.unreserved :=
  State.unreserved_ite rfl rfl

/-- Reservations are all that a write at a home takes from the groups (R187). -/
@[simp] theorem State.loseResv_unreserved (s : State) (ln : Nat) : (s.loseResv ln).unreserved = s.unreserved := by
  refine State.unreserved_ite ?_ rfl
  have same : mmap (mmap s.groups (fun _ g => { g with resv := g.resv.filter (fun r => resvLine r.2 != ln) }))
      (fun _ g => g.unreserved) = mmap s.groups (fun _ g => g.unreserved) := List.map_map
  exact congrArg (·, s.wgs) same

@[simp] theorem State.recalled_unreserved (s : State) (ln : Nat) : (s.recalled ln).unreserved = s.unreserved := by
  unfold State.recalled
  split <;> simp

@[simp] theorem State.merged_unreserved (s : State) (ln pa : Nat) (bs : List Byte) (p : Option PTag) :
    (s.merged ln pa bs p).unreserved = s.unreserved :=
  State.unreserved_ite (State.dropFlaws_unreserved ..) rfl

@[simp] theorem State.homeWriteLine_unreserved (s : State) (pa : Nat) (bs : List Byte) (p : Option PTag) :
    (s.homeWriteLine pa bs p).unreserved = s.unreserved := by
  rw [State.homeWriteLine_eq]
  split <;> simp

@[simp] theorem State.recStore_unreserved (s : State) (i : Nat) : (s.recStore i).unreserved = s.unreserved := by
  unfold State.recStore
  dsimp only
  split
  · exact State.unreserved_foldl (fun _ _ => State.homeWriteLine_unreserved ..) _ s
  · exact State.unreserved_ite rfl rfl

@[simp] theorem State.record_unreserved (s : State) (cls kind sev : Nat) (inj : Bool) (addr unit space synd : Nat)
    (o : Option (Nat × Nat)) : (s.record cls kind sev inj addr unit space synd o).2.unreserved = s.unreserved := by
  have stored : ∀ (u : State) i r, ((u.setRec i r).recStore i).unreserved = u.unreserved :=
    fun u i r => State.recStore_unreserved ..
  have told : ∀ u : State, (u.errMessage sev).unreserved = u.unreserved :=
    fun u => State.unreserved_ite (u.interrupt_unreserved _) rfl
  have fresh : ∀ (u : State) k, (State.record.go cls kind sev inj addr unit space synd o u k).2.unreserved = u.unreserved :=
    fun u k => ((State.emitErr_offered ..).unreserved.trans (told _)).trans (stored ..)
  unfold State.record
  dsimp only
  split
  · split
    · exact (State.emitErr_offered ..).unreserved.trans (stored ..)
    · exact fresh ..
  · exact fresh ..

@[simp] theorem State.findFlaw_unreserved (s : State) (p : FlawAt) (cls unit addr space : Nat) (o : Option (Nat × Nat)) :
    (s.findFlaw p cls unit addr space o).2.unreserved = s.unreserved := by
  unfold State.findFlaw
  split
  · rfl
  · split <;> simp

/-! ## Recalls, and what they find (R157, R208, R224) -/

@[simp] theorem State.checkSlice_unreserved (s : State) (d ln : Nat) : (s.checkSlice d ln).unreserved = s.unreserved := by
  unfold State.checkSlice
  split
  · rfl
  · dsimp only
    split
    · simp
    · split <;> simp

@[simp] theorem State.sendLine_unreserved (s : State) (d ln : Nat) : (s.sendLine d ln).unreserved = s.unreserved := by
  have found := s.findFlaw_unreserved (.net d ln) 5 (sliceUnit d (ln * 128)) (ln * 128) 0 none
  unfold State.sendLine
  split
  · next h => rw [h] at found; exact found
  · next h => rwa [h] at found

@[simp] theorem State.dropCore_unreserved (s : State) (c ln : Nat) : (s.dropCore c ln).unreserved = s.unreserved :=
  State.unreserved_ite rfl rfl

@[simp] theorem State.checkCopy_unreserved (s : State) (c ln : Nat) : (s.checkCopy c ln).unreserved = s.unreserved := by
  unfold State.checkCopy
  split
  · rfl
  · dsimp only
    split
    · simp
    · split
      · simp
      · split <;> simp

@[simp] theorem State.checkOwn_unreserved (s : State) (d ln : Nat) : (s.checkOwn d ln).unreserved = s.unreserved := by
  unfold State.checkOwn
  cases (s.line ln).mcore with
  | none => exact State.unreserved_ite rfl (s.checkSlice_unreserved ..)
  | some c => exact State.unreserved_ite (s.checkCopy_unreserved ..) (by simp)

@[simp] theorem State.inject_unreserved (s : State) (ln target die : Nat) :
    (s.inject ln target die).2.2.unreserved = s.unreserved := by
  unfold State.inject
  dsimp only
  split
  · split
    · exact State.unreserved_ite (by simp) (by simp)
    · split <;> simp
  · rfl

@[simp] theorem State.recall_unreserved (s : State) (ln : Nat) : (s.recall ln).1.unreserved = s.unreserved := by
  unfold State.recall
  cases (s.line ln).owner with
  | none => rfl
  | some d =>
    dsimp only
    split
    · simp
    · exact (State.keepV_unreserved ..).trans (State.unreserved_ite (by simp) (by simp))

@[simp] theorem State.devWrite_unreserved (s : State) (pa n v : Nat) : (s.devWrite pa n v).unreserved = s.unreserved :=
  State.unreserved_foldl (fun _ _ => by simp) _ s

/-! ## Queues and completion queues (R61, R72, R78) -/

@[simp] theorem State.updQueue_unreserved (s : State) (q : Nat) (f : Queue → Queue) :
    (s.updQueue q f).unreserved = s.unreserved :=
  State.unreserved_ite rfl (State.devWrite_unreserved ..)

@[simp] theorem State.coalesce_unreserved (s : State) (c : Nat) : (s.coalesce c).unreserved = s.unreserved :=
  State.unreserved_ite (State.interrupt_unreserved ..) rfl

@[simp] theorem State.cqWrite_unreserved (s : State) (c lo : Nat) : (s.cqWrite c lo).unreserved = s.unreserved :=
  State.unreserved_ite (s.toHost_unreserved _) (s.devWrite_unreserved ..)

@[simp] theorem State.cqDrain_unreserved (s : State) (c fuel : Nat) : (s.cqDrain c fuel).unreserved = s.unreserved := by
  induction fuel generalizing s with
  | zero => rfl
  | succ fuel ih =>
    unfold State.cqDrain
    dsimp only
    split
    · rfl
    · refine State.unreserved_ite ?_ rfl
      rw [ih, State.coalesce_unreserved]
      split <;> simp

@[simp] theorem State.cqStalls_unreserved (s : State) : s.cqStalls.unreserved = s.unreserved :=
  State.unreserved_foldl (fun s _ => State.unreserved_ite rfl (s.updQueue_unreserved ..)) _ s

@[simp] theorem State.postCq_unreserved (s : State) (q lo : Nat) (pair : Option Nat) :
    (s.postCq q lo pair).unreserved = s.unreserved := by
  unfold State.postCq State.postTo
  simp

/-! ## FAULTS of a queue (R72) -/

/-- Queue q is there, with n faults counted. -/
def State.counts (s : State) (q n : Nat) : Prop := ∃ x, mget? s.kul.queues q = some x ∧ x.faults = n

theorem Queue.stalled_faults (x : Queue) : x.stalled.faults = x.faults := by
  unfold Queue.stalled
  split <;> rfl

theorem State.counts_of_queues {s t : State} {q n : Nat} (h : s.counts q n) (same : t.kul.queues = s.kul.queues) :
    t.counts q n := by
  unfold State.counts
  rw [same]
  exact h

theorem State.updQueue_counts_same (s : State) (q : Nat) (f : Queue → Queue) :
    (s.updQueue q f).counts q (f (s.queue q)).faults := by
  unfold State.counts
  rw [State.updQueue_kul]
  exact ⟨_, mget?_mput_same .., Queue.stalled_faults _⟩

theorem State.updQueue_counts {s : State} {q n : Nat} (h : s.counts q n) (k : Nat) {f : Queue → Queue}
    (keeps : ∀ x, (f x).faults = x.faults) : (s.updQueue k f).counts q n := by
  obtain ⟨x, at_, faults⟩ := h
  by_cases eq : q = k
  · subst eq
    have counted := s.updQueue_counts_same q f
    rwa [keeps, State.queue, mgetD, at_, Option.getD_some, faults] at counted
  · unfold State.counts
    rw [State.updQueue_kul]
    exact ⟨x, (mget?_mput_other _ _ eq).trans at_, faults⟩

theorem State.queues_ite {c : Prop} [Decidable c] {s t u : State} (h : t.kul.queues = s.kul.queues)
    (h' : u.kul.queues = s.kul.queues) : (if c then t else u).kul.queues = s.kul.queues := by
  split
  · exact h
  · exact h'

theorem State.toHost_queues (s : State) (p : Tlp) : (s.toHost p).kul.queues = s.kul.queues :=
  congrArg (·.queues) (s.toHost_reported p).kulKept.kul

theorem State.devWrite_queues (s : State) (pa n v : Nat) : (s.devWrite pa n v).kul.queues = s.kul.queues :=
  congrArg (·.queues) (s.outsideWrite_kulKept ..).kul

theorem State.coalesce_queues (s : State) (c : Nat) : (s.coalesce c).kul.queues = s.kul.queues :=
  State.queues_ite (State.queues_ite rfl (State.toHost_queues ..)) rfl

theorem State.cqWrite_queues (s : State) (c lo : Nat) : (s.cqWrite c lo).kul.queues = s.kul.queues :=
  State.queues_ite (s.toHost_queues _) (s.devWrite_queues ..)

theorem State.cqDrain_queues (s : State) (c fuel : Nat) : (s.cqDrain c fuel).kul.queues = s.kul.queues := by
  induction fuel generalizing s with
  | zero => rfl
  | succ fuel ih =>
    unfold State.cqDrain
    dsimp only
    split
    · rfl
    · refine State.queues_ite ?_ rfl
      rw [ih, State.coalesce_queues]
      split <;> simp only [State.cqWrite_queues] <;> rfl

theorem State.cqStalls_counts {s : State} {q n : Nat} (h : s.counts q n) : s.cqStalls.counts q n :=
  List.foldlRecOn _ _ (motive := fun t : State => t.counts q n) h fun t ht e _ => by
    split
    · exact ht
    · exact State.updQueue_counts ht e.1 fun _ => rfl

/-- Posting a completion entry leaves FAULTS of every queue (R78). -/
theorem State.postCq_counts {s : State} {q n : Nat} (h : s.counts q n) (k lo : Nat) (pair : Option Nat) :
    (s.postCq k lo pair).counts q n :=
  State.cqStalls_counts (State.counts_of_queues h (State.cqDrain_queues ..))

end Sys2Proof.Machine
end

section
/-! SUPPORT. Taking a fault outside a block (R122, R124): the fault entry, and the faulted split. -/

namespace Sys2Proof.Machine

/-! ## A split that leaves its group's splits as one part -/

/-- A live split that goes on as one keeps its live index (R111). -/
theorem divide_one_mem {g : Group} {ix i : Nat} {p q : Split} (at_ : g.splits[ix]? = some p) (live : p.st = .live i)
    (lanes : q.mask ≠ 0#32) (sound : q.st ≠ .faulted) : { q with st := .live i } ∈ (g.divide ix [q]).splits := by
  have run : sortBy (·.rank) ([q].filter (fun q => q.mask != 0#32 && q.st != .faulted)) = [q] := by
    simp [lanes, sound, sortBy, insertBy]
  unfold Group.divide
  rw [at_]
  simp [run, Split.liveIx, live]

/-- The splits of a group one split of which leaves as a faulted one: it takes no slot, and nothing else moves (R124). -/
theorem divide_faulted {g : Group} {ix : Nat} {p q : Split} (at_ : g.splits[ix]? = some p) (lanes : q.mask ≠ 0#32)
    (faulted : q.st = .faulted) :
    (g.divide ix [q]).splits = (g.splits.eraseIdx ix).take ix ++ [q] ++ (g.splits.eraseIdx ix).drop ix := by
  have run : [q].filter (fun q => q.mask != 0#32 && q.st != .faulted) = [] := by simp [faulted]
  have bad : [q].filter (fun q => q.mask != 0#32 && q.st == .faulted) = [q] := by simp [faulted, lanes]
  unfold Group.divide
  rw [at_]
  dsimp only
  rw [run, bad]
  simp [sortBy]

/-- A faulted split stays as it is where its group settles (R124). -/
theorem settle_faulted {g : Group} {ix : Nat} {p q : Split} (at_ : g.splits[ix]? = some p) (lanes : q.mask ≠ 0#32)
    (faulted : q.st = .faulted) : q ∈ ((g.divide ix [q]).settle g.splits).splits := by
  have splits := divide_faulted at_ lanes faulted
  have there : q ∈ (g.divide ix [q]).splits := by rw [splits]; simp
  have stood : ∀ r ∈ (g.divide ix [q]).splits, r.isWaiting = true ∨ r.st = .ready → r.stood g.splits = true := by
    intro r mem parked
    rw [splits, List.mem_append, List.mem_append, List.mem_singleton] at mem
    rcases mem with (before | rfl) | after
    · exact stood_self (List.mem_of_mem_eraseIdx (List.mem_of_mem_take before))
    · simp [Split.isWaiting, faulted] at parked
    · exact stood_self (List.mem_of_mem_eraseIdx (List.mem_of_mem_drop after))
  unfold Group.settle
  rw [mergeParked_stood stood, joinRelease_of there (by simp [faulted])]
  rcases refillList_mem 4 there with kept | ⟨ready, -⟩
  · exact kept
  · rw [faulted] at ready
    cases ready

/-! ## A fault of the whole split -/

/-- The fault entry is taken: the launch has one, and the split is not in it already (R124). -/
def Ctx.enters (c : Ctx) : Bool := c.l.faulten && !c.sp.handler

/-- The group as a fault k of the whole split leaves it, before its splits divide: the lanes' reservations are lost, and where the
fault entry is taken FAULTINFO is set (R124, R187). -/
def Ctx.struckBy (c : Ctx) (k : Nat) (g : Group) : Group :=
  { g with
    resv := g.resv.filter (fun r => !c.sp.mask.getLsbD r.1)
    finfo := if c.enters then (lanesOf c.sp.mask).foldl (fun f l => mput f l (faultInfo k c.sp.pc)) g.finfo else g.finfo }

/-- The state in which the lanes of the whole split stand at the fault entry, or form a faulted split, before the FAULT record. -/
def State.divided (s : State) (c : Ctx) (k : Nat) : State :=
  s.updGroup c.gk (fun g => ((c.struckBy k g).divide c.ix [faultSplit c c.sp.mask c.sp.pc k]).settle g.splits)

theorem foldl_mput_congr {α : Type} {l : List Nat} {v w : Nat → α} (h : ∀ x ∈ l, v x = w x) (m : Map α) :
    l.foldl (fun f x => mput f x (v x)) m = l.foldl (fun f x => mput f x (w x)) m :=
  List.foldl_ext _ _ m fun f x mem => congrArg (mput f x) (h x mem)

/-- A fault of the whole split outside a block (R122, R124). -/
theorem raiseAll_outside {s : State} {c : Ctx} (k : Nat) (lanes : c.sp.mask ≠ 0#32) (outside : c.wg.blocks = []) :
    s.raiseAll c k =
      let bad := faultSplit c c.sp.mask c.sp.pc k
      let t := (s.divided c k).emitFault c bad.fcode c.sp.pc
      if c.enters then t else t.postFault c bad.fcode c.sp.pc := by
  obtain ⟨l, r, list⟩ := List.exists_cons_of_ne_nil (lanesOf_ne_nil lanes)
  have lowest : ((lanesOf c.sp.mask).map (fun _ => k)).headD 0 = k := by rw [list]; rfl
  have info : ∀ g : Group, (lanesOf c.sp.mask).foldl (fun f l => mput f l
      (faultInfo ((if c.sp.mask.getLsbD l then some k else none : Option Nat).getD 0) c.sp.pc)) g.finfo =
      (lanesOf c.sp.mask).foldl (fun f l => mput f l (faultInfo k c.sp.pc)) g.finfo := fun g =>
    foldl_mput_congr (fun l mem => by rw [if_pos (mem_lanesOf.mp mem).2]; rfl) g.finfo
  unfold State.raiseAll State.takeFault State.takeFaultAt
  dsimp only
  rw [codeMask_raise, filterMap_raise, inBlock_eq_false.mpr outside]
  dsimp only
  rw [if_neg lanes, lowest]
  simp only [info]
  rfl

theorem enters_iff {c : Ctx} : c.enters = true ↔ c.l.faulten = true ∧ c.sp.handler = false := by
  unfold Ctx.enters
  simp

/-- What FAULTINFO reads after a fault of these lanes (R124). -/
theorem mgetD_foldl_mput {α : Type} (ls : List Nat) (m : Map α) (v d : α) (l : Nat) :
    mgetD (ls.foldl (fun f x => mput f x v) m) l d = if l ∈ ls then v else mgetD m l d := by
  induction ls generalizing m with
  | nil => simp
  | cons x r ih =>
    rw [List.foldl_cons, ih]
    by_cases later : l ∈ r
    · simp [later]
    · by_cases here : l = x
      · subst here
        simp [later, mgetD_mput_same]
      · simp [later, here, mgetD_mput_other]

theorem divided_group {s : State} {c : Ctx} (hc : CtxOf s c) (k : Nat) : mget? (s.divided c k).groups c.gk =
    some (((c.struckBy k c.g).divide c.ix [faultSplit c c.sp.mask c.sp.pc k]).settle c.g.splits) :=
  mget?_mupd_same hc.group

theorem divided_other {s : State} {c : Ctx} (k : Nat) {j : Nat} (h : j ≠ c.gk) :
    mget? (s.divided c k).groups j = mget? s.groups j := mget?_mupd_other _ _ h

/-- The group after a fault, but for its splits. -/
theorem divided_same (c : Ctx) (k : Nat) :
    (((c.struckBy k c.g).divide c.ix [faultSplit c c.sp.mask c.sp.pc k]).settle c.g.splits).sameButSplits (c.struckBy k c.g) :=
  (settle_same _ _).trans (divide_same ..)

section
variable {c : Ctx} {k : Nat} {g : Group} (same : g.sameButSplits (c.struckBy k c.g))
include same

theorem struckBy_resv_eq : g.resv = (c.struckBy k c.g).resv := by
  have eq := congrArg Group.resv same
  exact eq

theorem struckBy_finfo_eq : g.finfo = (c.struckBy k c.g).finfo := by
  have eq := congrArg Group.finfo same
  exact eq

theorem struckBy_resv {x : Nat × Nat} (mem : x ∈ g.resv) : x ∈ c.g.resv ∧ c.sp.mask.getLsbD x.1 = false := by
  rw [struckBy_resv_eq same] at mem
  obtain ⟨old, kept⟩ := List.mem_filter.mp mem
  exact ⟨old, by simpa using kept⟩

theorem struckBy_rest : ({ g with finfo := c.g.finfo, resv := c.g.resv, splits := c.g.splits } : Group) = c.g := by
  have back := congrArg (fun g : Group => ({ g with finfo := c.g.finfo, resv := c.g.resv, splits := c.g.splits } : Group)) same
  exact back

theorem struckBy_rest_out (out : c.enters = false) : ({ g with resv := c.g.resv, splits := c.g.splits } : Group) = c.g := by
  have kept : (c.struckBy k c.g).finfo = c.g.finfo := if_neg (ne_true_of_eq_false out)
  have back := struckBy_rest same
  rwa [← kept, ← struckBy_finfo_eq same] at back

end

theorem faultInfo_eq {k pc : Nat} (code : k < 256) (word : pc < 2 ^ 22) : faultInfo k pc = BitVec.ofNat 32 (k + pc * 2 ^ 8) := by
  unfold faultInfo
  rw [Nat.mod_eq_of_lt code, Nat.mod_eq_of_lt word]

/-- FAULTINFO where the fault entry is taken (R124). -/
theorem struckBy_finfo {c : Ctx} {k : Nat} (enters : c.enters = true) (g : Group) {l : Nat} (hl : l < 32) :
    mgetD (c.struckBy k g).finfo l 0#32 = if c.sp.mask.getLsbD l then faultInfo k c.sp.pc else mgetD g.finfo l 0#32 := by
  unfold Ctx.struckBy
  rw [if_pos enters, mgetD_foldl_mput]
  simp [mem_lanesOf, hl]

/-- The lanes of a fault that takes the fault entry stand there (R124). -/
theorem divided_enters {c : Ctx} {g : Group} {ix : Nat} (at_ : g.splits[c.ix]? = some c.sp) (live : c.sp.st = .live ix)
    (lanes : c.sp.mask ≠ 0#32) (enters : c.enters = true) (k : Nat) :
    ∃ p ∈ ((g.divide c.ix [faultSplit c c.sp.mask c.sp.pc k]).settle g.splits).splits, p.mask = c.sp.mask ∧
      p.pc = c.l.faultoff ∧ p.handler = true ∧ p.ret = c.sp.pc ∧ p.inClause = false := by
  have form : ∃ q : Split, faultSplit c c.sp.mask c.sp.pc k = q ∧ q.st = .ready ∧ q.mask = c.sp.mask ∧ q.pc = c.l.faultoff ∧
      q.handler = true ∧ q.ret = c.sp.pc ∧ q.inClause = false :=
    ⟨_, if_pos enters, rfl, rfl, rfl, rfl, rfl, rfl⟩
  obtain ⟨q, eq, ready, mask, pc, handler, ret, clause⟩ := form
  have some_ : q.mask ≠ 0#32 := mask ▸ lanes
  have sound : q.st ≠ .faulted := by simp [ready]
  rw [eq]
  obtain ⟨_, p, mem, same⟩ := settle_spec (divide_one_stood at_ live some_ sound) (divide_one_mem at_ live some_ sound)
    (by simp)
  have masks := congrArg Split.mask same
  have pcs := congrArg Split.pc same
  have handlers := congrArg Split.handler same
  have rets := congrArg Split.ret same
  have clauses := congrArg Split.inClause same
  exact ⟨p, mem, masks.trans mask, pcs.trans pc, handlers.trans handler, rets.trans ret, clauses.trans clause⟩

/-- The lanes of a fault that cannot take the fault entry form a faulted split (R124). -/
theorem divided_faulted {c : Ctx} {g : Group} (at_ : g.splits[c.ix]? = some c.sp) (lanes : c.sp.mask ≠ 0#32)
    (out : c.enters = false) (k : Nat) :
    ∃ p ∈ ((g.divide c.ix [faultSplit c c.sp.mask c.sp.pc k]).settle g.splits).splits, p.mask = c.sp.mask ∧
      p.pc = c.sp.pc ∧ p.st = .faulted ∧ p.fcode = (if c.sp.handler then 0x11 else k) := by
  have form : ∃ q : Split, faultSplit c c.sp.mask c.sp.pc k = q ∧ q.mask = c.sp.mask ∧ q.pc = c.sp.pc ∧ q.st = .faulted ∧
      q.fcode = (if c.sp.handler then 0x11 else k) :=
    ⟨_, if_neg (ne_true_of_eq_false out), rfl, rfl, rfl, rfl⟩
  obtain ⟨q, eq, mask, pc, faulted, code⟩ := form
  rw [eq]
  exact ⟨q, settle_faulted at_ (mask ▸ lanes) faulted, mask, pc, faulted, code⟩

theorem emitFault_offered (s : State) (c : Ctx) (code ret : Nat) : s.Offered (s.emitFault c code ret) := s.emitL_offered ..

theorem postFault_unreserved (s : State) (c : Ctx) (code pc : Nat) : (s.postFault c code pc).unreserved = s.unreserved :=
  (State.postCq_unreserved ..).trans (State.updQueue_unreserved ..)

/-- A fault that no handler takes counts in FAULTS of the queue (R79, R124). -/
theorem postFault_counts (s : State) (c : Ctx) (code pc : Nat) :
    (s.postFault c code pc).counts c.l.queue (min 0xFFFF ((s.queue c.l.queue).faults + 1)) :=
  State.postCq_counts (s.updQueue_counts_same c.l.queue fun q => { q with faults := satAdd 0xFFFF q.faults 1 }) ..

end Sys2Proof.Machine

namespace Sys2Proof.Proofs
open Sys2Proof.Machine

/-- Settles O20: the lanes leave their split as one part, and what the completion entry of a faulted split writes costs reservations
only. -/
theorem faultEntryAndFaultedSplit : Obligations.FaultEntryAndFaultedSplit := by
  unfold Obligations.FaultEntryAndFaultedSplit
  constructor
  · rintro s c k hc ⟨ix, live⟩ lanes outside on notIn word code
    have enters := enters_iff.mpr ⟨on, notIn⟩
    obtain ⟨p, mem, mask, pc, handler, ret, clause⟩ := divided_enters (g := c.struckBy k c.g) hc.split live lanes enters k
    have raised := raiseAll_outside (s := s) k lanes outside
    simp only [enters, if_true] at raised
    rw [raised]
    have offered := emitFault_offered (s.divided c k) c (faultSplit c c.sp.mask c.sp.pc k).fcode c.sp.pc
    have at_ := (congrArg (fun gs => mget? gs c.gk) offered.groups).trans (divided_group hc k)
    have same := divided_same c k
    refine ⟨_, p, at_, mem, mask, pc, handler, ret, clause, fun l hl => ?_, fun x hx => struckBy_resv same hx, struckBy_rest same,
      offered.mm, offered.wgs, offered.regs, offered.kul, fun j hj => ?_⟩
    · rw [struckBy_finfo_eq same, struckBy_finfo enters c.g hl, faultInfo_eq code word]
    · rw [offered.groups]
      exact divided_other k hj
  · rintro s c k hc - lanes outside noEntry
    have out : c.enters = false := by
      unfold Ctx.enters
      rcases noEntry with off | inside
      · simp [off]
      · simp [inside]
    obtain ⟨p, mem, mask, pc, faulted, code⟩ := divided_faulted (g := c.struckBy k c.g) hc.split lanes out k
    have raised := raiseAll_outside (s := s) k lanes outside
    simp only [out, Bool.false_eq_true, if_false] at raised
    rw [raised]
    generalize (faultSplit c c.sp.mask c.sp.pc k).fcode = fcode
    have offered := emitFault_offered (s.divided c k) c fcode c.sp.pc
    have kept := (postFault_unreserved ((s.divided c k).emitFault c fcode c.sp.pc) c fcode c.sp.pc).trans offered.unreserved
    have counted := postFault_counts ((s.divided c k).emitFault c fcode c.sp.pc) c fcode c.sp.pc
    rw [State.queue, offered.kul] at counted
    obtain ⟨g, at_, same⟩ := State.group_of_unreserved kept (divided_group hc k)
    refine ⟨g, p, at_, ?_, mask, pc, faulted, code, ?_, (State.wgs_of_unreserved kept).trans rfl, counted, fun j h hj there =>
      State.group_of_unreserved kept ((divided_other k hj).trans there)⟩
    · have splits := congrArg (fun g : Group => g.splits) same
      exact splits ▸ mem
    · have rest := congrArg (fun x : Group => ({ x with resv := c.g.resv, splits := c.g.splits } : Group)) same
      exact Eq.trans rest (struckBy_rest_out (divided_same c k) out)

end Sys2Proof.Proofs
end

section
/-! SUPPORT. Memory in its canonical form (R141): the predicate, and what passes it on. Of all operations of the model only
State.putBytes writes the bytes of memory; every other passes on what it is given. -/

namespace Sys2Proof.Machine

variable {s : State}

/-- Memory is in its canonical form. -/
def State.MemWf (s : State) : Prop := Memory.wf s.mm.bytes = true

/-- The next state that a step answers, if it answers one, has its memory in canonical form. -/
def AnswerWf : Host.Outcome State Fault Refusal → Prop
  | .next t => t.MemWf
  | _ => True

/-- The state in which a turn goes on, or which it leaves, has its memory in canonical form. -/
def Ready.MemWf : Ready → Prop
  | .instr _ s => s.MemWf
  | .done s => s.MemWf

/-- The state of a pair has its memory in canonical form. It says `x.2.MemWf` where the kernel, asked for `x.2`, would run x. -/
def PairWf {α : Type} (x : α × State) : Prop := x.2.MemWf

/-! ## What passes it on: records, branches, pairs, folds -/

/-- A change of the memory system that leaves the bytes alone. -/
theorem State.MemWf.setMM {lines vcopy held flips wcopy icache lowL2 lowCore run tlb olds marks asMark gens asBusy deadDie
    deadStack deadCtl salvaged} (wf : s.MemWf) :
    (s.setMM { bytes := s.mm.bytes, lines, vcopy, held, flips, wcopy, icache, lowL2, lowCore, run, tlb, olds, marks, asMark,
               gens, asBusy, deadDie, deadStack, deadCtl, salvaged }).MemWf := wf

/-- A change of what is not memory. -/
theorem State.MemWf.elsewhere {groups wgs gangs launches saved lastPos engPos stops kul boot rel peal links power regs time clk
    skips nextId focus agenda draws} (wf : s.MemWf) :
    State.MemWf { groups, wgs, gangs, launches, saved, lastPos, engPos, stops, mm := s.mm, kul, boot, rel, peal, links, power,
                  regs, time, clk, skips, nextId, focus, agenda, draws } := wf

/-- A fact about an intermediate state, used more than once on the way to a later one. -/
theorem State.MemWf.andThen {t u : State} (wf : t.MemWf) (rest : t.MemWf → u.MemWf) : u.MemWf := rest wf

theorem State.MemWf.ite {c : Prop} [Decidable c] {t u : State} (wf : t.MemWf) (wf' : u.MemWf) :
    (if c then t else u).MemWf := by
  split
  · exact wf
  · exact wf'

theorem State.MemWf.ite_2 {c : Prop} [Decidable c] {α : Type} {t u : α × State} (wf : t.2.MemWf) (wf' : u.2.MemWf) :
    (if c then t else u).2.MemWf := by
  split
  · exact wf
  · exact wf'

theorem State.MemWf.ite_1 {c : Prop} [Decidable c] {α : Type} {t u : State × α} (wf : t.1.MemWf) (wf' : u.1.MemWf) :
    (if c then t else u).1.MemWf := by
  split
  · exact wf
  · exact wf'

theorem State.MemWf.ite_22 {c : Prop} [Decidable c] {α β : Type} {t u : α × β × State} (wf : t.2.2.MemWf)
    (wf' : u.2.2.MemWf) :
    (if c then t else u).2.2.MemWf := by
  split
  · exact wf
  · exact wf'

theorem State.MemWf.snd {α : Type} {a : α} (wf : s.MemWf) : (a, s).2.MemWf := wf

theorem State.MemWf.fst {α : Type} {a : α} (wf : s.MemWf) : (s, a).1.MemWf := wf

theorem State.MemWf.snd_2 {α β : Type} {a : α} {x : β × State} (wf : x.2.MemWf) : (a, x).2.2.MemWf := wf

theorem State.MemWf.thd {α β : Type} {a : α} {b : β} (wf : s.MemWf) : (a, b, s).2.2.MemWf := wf

theorem State.MemWf.foldr {α : Type} {f : α → State → State} {l : List α} (wf : s.MemWf)
    (step : ∀ a s, s.MemWf → (f a s).MemWf) : (l.foldr f s).MemWf :=
  List.foldrRecOn l f wf (fun t wf a _ => step a t wf)

theorem State.MemWf.inRun {done err bad pois oor skip code bytes dst} (wf : s.MemWf) :
    (Run.mk s done err bad pois oor skip code bytes dst).s.MemWf := wf

theorem State.MemWf.iteRun {c : Prop} [Decidable c] {t u : Run} (wf : t.s.MemWf) (wf' : u.s.MemWf) :
    (if c then t else u).s.MemWf := by
  split
  · exact wf
  · exact wf'

theorem AnswerWf.ite {c : Prop} [Decidable c] {t u : Host.Outcome State Fault Refusal} (wf : AnswerWf t) (wf' : AnswerWf u) :
    AnswerWf (if c then t else u) := by
  split
  · exact wf
  · exact wf'

theorem Ready.MemWf.ite {c : Prop} [Decidable c] {t u : Ready} (wf : t.MemWf) (wf' : u.MemWf) :
    (if c then t else u).MemWf := by
  split
  · exact wf
  · exact wf'

theorem State.MemWf.foldl {α : Type} {f : State → α → State} {l : List α} (wf : s.MemWf)
    (step : ∀ s a, s.MemWf → (f s a).MemWf) : (l.foldl f s).MemWf :=
  List.foldlRecOn l f wf (fun t wf a _ => step t a wf)

theorem State.MemWf.foldl_2 {α β : Type} {f : β × State → α → β × State} {l : List α} {x : β × State} (wf : x.2.MemWf)
    (step : ∀ x a, x.2.MemWf → (f x a).2.MemWf) : (l.foldl f x).2.MemWf :=
  List.foldlRecOn l f (motive := fun y => y.2.MemWf) wf (fun y wf a _ => step y a wf)

theorem State.MemWf.foldl_1 {α β : Type} {f : State × β → α → State × β} {l : List α} {x : State × β} (wf : x.1.MemWf)
    (step : ∀ x a, x.1.MemWf → (f x a).1.MemWf) : (l.foldl f x).1.MemWf :=
  List.foldlRecOn l f (motive := fun y => y.1.MemWf) wf (fun y wf a _ => step y a wf)

theorem State.MemWf.foldl_22 {α β γ : Type} {f : β × γ × State → α → β × γ × State} {l : List α} {x : β × γ × State}
    (wf : x.2.2.MemWf) (step : ∀ x a, x.2.2.MemWf → (f x a).2.2.MemWf) : (l.foldl f x).2.2.MemWf :=
  List.foldlRecOn l f (motive := fun y => y.2.2.MemWf) wf (fun y wf a _ => step y a wf)

theorem State.MemWf.foldlRun {α : Type} {f : Run → α → Run} {l : List α} {x : Run} (wf : x.s.MemWf)
    (step : ∀ x a, x.s.MemWf → (f x a).s.MemWf) : (l.foldl f x).s.MemWf :=
  List.foldlRecOn l f (motive := fun y => y.s.MemWf) wf (fun y wf a _ => step y a wf)

theorem State.MemWf.of_2 {α : Type} {x : α × State} {a : α} (wf : x.2.MemWf) (e : x = (a, s)) : s.MemWf := by
  rw [e] at wf
  exact wf

theorem State.MemWf.of_1 {α : Type} {x : State × α} {a : α} (wf : x.1.MemWf) (e : x = (s, a)) : s.MemWf := by
  rw [e] at wf
  exact wf

theorem State.MemWf.of_22 {α β : Type} {x : α × β × State} {a : α} {b : β} (wf : x.2.2.MemWf) (e : x = (a, b, s)) :
    s.MemWf := by
  rw [e] at wf
  exact wf

theorem State.MemWf.of_next {o : Host.Outcome State Fault Refusal} {t : State} (wf : AnswerWf o) (e : o = .next t) :
    t.MemWf := by
  rw [e] at wf
  exact wf

theorem AnswerWf.next {t : State} (wf : t.MemWf) : AnswerWf (.next t) := wf

theorem Ready.MemWf.instr {i : Instr} (wf : s.MemWf) : (Ready.instr i s).MemWf := wf

theorem Ready.MemWf.done (wf : s.MemWf) : (Ready.done s).MemWf := wf

theorem PairWf.mk {α : Type} {a : α} (wf : s.MemWf) : PairWf (a, s) := wf

theorem PairWf.foldl {α β : Type} {f : β × State → α → β × State} {l : List α} {x : β × State} (wf : PairWf x)
    (step : ∀ x a, x.2.MemWf → PairWf (f x a)) : PairWf (l.foldl f x) :=
  List.foldlRecOn l f wf (fun y wf a _ => step y a wf)

theorem PairWf.of {α : Type} {x : α × State} {a : α} (wf : PairWf x) (e : x = (a, s)) : s.MemWf := by
  rw [e] at wf
  exact wf

end Sys2Proof.Machine
end

section
/-! SUPPORT. Memory in its canonical form through the operations on memory (R141 to R170, R209 to R230). -/

namespace Sys2Proof.Machine

variable {s : State}

/-! ## Machine/State.lean -/

theorem State.MemWf.reset : State.reset.MemWf := rfl

/-! ## Machine/Mem.lean -/

theorem State.MemWf.putBytes {pa : Nat} {bs : List Byte} (wf : s.MemWf) : (s.putBytes pa bs).MemWf :=
  memPutL_wf _ _ _ wf

theorem State.MemWf.setLine {ln : Nat} {x : Line} (wf : s.MemWf) : (s.setLine ln x).MemWf := .setMM wf

theorem State.MemWf.updLine {ln : Nat} {f : Line → Line} (wf : s.MemWf) : (s.updLine ln f).MemWf := .setLine wf

theorem State.MemWf.dropCopies {ln : Nat} (wf : s.MemWf) : (s.dropCopies ln).MemWf := .setMM wf

theorem State.MemWf.bumpVersion {ln : Nat} (wf : s.MemWf) : (s.bumpVersion ln).MemWf :=
  .ite (.dropCopies (.setLine wf)) (.setLine wf)

theorem State.MemWf.loseResv {ln : Nat} (wf : s.MemWf) : (s.loseResv ln).MemWf := .ite (.elsewhere wf) wf

theorem State.MemWf.setReg {n : Nat} {v : BitVec 64} (wf : s.MemWf) : (s.setReg n v).MemWf := .elsewhere wf

theorem State.MemWf.setFld {n hi lo x : Nat} (wf : s.MemWf) : (s.setFld n hi lo x).MemWf := .setReg wf

theorem State.MemWf.dropFlaws {p : FlawAt → Bool} (wf : s.MemWf) : (s.dropFlaws p).MemWf := .ite wf (.elsewhere wf)

theorem State.MemWf.flipBit {ln b : Nat} (wf : s.MemWf) : (s.flipBit ln b).MemWf := .putBytes wf

theorem State.MemWf.takeBack {ln : Nat} (wf : s.MemWf) : (s.takeBack ln).1.MemWf := by
  unfold State.takeBack
  dsimp only
  split
  · exact .fst wf
  · refine .fst (.setMM (.setLine ?_))
    split
    · exact .flipBit wf
    · exact wf

theorem State.MemWf.dropDie {d ln : Nat} (wf : s.MemWf) : (s.dropDie d ln).MemWf := .setMM wf

theorem State.MemWf.keepV {d ln : Nat} (wf : s.MemWf) : (s.keepV d ln).MemWf := .setMM wf

theorem State.MemWf.homeWriteLine {pa : Nat} {bs : List Byte} {pois : Option PTag} (wf : s.MemWf) :
    (s.homeWriteLine pa bs pois).MemWf := by
  unfold State.homeWriteLine
  split
  · exact wf
  · refine .loseResv (.bumpVersion (.ite (.dropFlaws (.updLine (.putBytes ?_))) (.updLine (.putBytes ?_))))
    · split
      · exact .keepV (.takeBack wf)
      · exact .takeBack wf
    · split
      · exact .keepV (.takeBack wf)
      · exact .takeBack wf

theorem State.MemWf.homeWrite {pa : Nat} {bs : List Byte} {pois : Option PTag} (wf : s.MemWf) :
    (s.homeWrite pa bs pois).MemWf :=
  .foldl wf (fun _ _ wf => .homeWriteLine wf)

theorem State.MemWf.updGroup {g : Nat} {f : Group → Group} (wf : s.MemWf) : (s.updGroup g f).MemWf := .elsewhere wf

theorem State.MemWf.updWg {w : Nat} {f : Wg → Wg} (wf : s.MemWf) : (s.updWg w f).MemWf := .elsewhere wf

theorem State.MemWf.updGang {g : Nat} {f : Gang → Gang} (wf : s.MemWf) : (s.updGang g f).MemWf := .elsewhere wf

theorem State.MemWf.updLaunch {l : Nat} {f : Launch → Launch} (wf : s.MemWf) : (s.updLaunch l f).MemWf :=
  .elsewhere wf

theorem State.MemWf.takeId (wf : s.MemWf) : s.takeId.2.MemWf := .snd (.elsewhere wf)

theorem State.MemWf.draw {n : Nat} (wf : s.MemWf) : (s.draw n).MemWf := .elsewhere wf

theorem State.MemWf.send {o : OutItem} (wf : s.MemWf) : (s.send o).MemWf := .elsewhere wf

/-! ## Machine/Trace.lean -/

theorem State.MemWf.emitTo {p die sclass sinst kind payload : Nat} (wf : s.MemWf) :
    (s.emitTo p die sclass sinst kind payload).MemWf :=
  .ite (.elsewhere wf) wf

theorem State.MemWf.emitDev {sclass sinst kind payload : Nat} (wf : s.MemWf) :
    (s.emitDev sclass sinst kind payload).MemWf :=
  .foldl wf (fun _ _ wf => .ite (.emitTo wf) wf)

theorem State.MemWf.emitQ {p sinst kind payload : Nat} (wf : s.MemWf) : (s.emitQ p sinst kind payload).MemWf :=
  .ite (.emitTo wf) wf

theorem State.MemWf.emitL {l : Launch} {die sclass sinst kind payload : Nat} (wf : s.MemWf) :
    (s.emitL l die sclass sinst kind payload).MemWf :=
  .ite (.emitTo wf) wf

theorem State.MemWf.toHost {p : Tlp} (wf : s.MemWf) : (s.toHost p).MemWf := by
  unfold State.toHost
  refine .ite (.send wf) ?_
  split
  · exact .send wf
  · exact wf

theorem State.MemWf.setPci {p : Pci} (wf : s.MemWf) : (s.setPci p).MemWf := .elsewhere wf

theorem State.MemWf.interrupt {n : Nat} (wf : s.MemWf) : (s.interrupt n).MemWf := .ite (.setPci wf) (.toHost wf)

theorem State.MemWf.recStore {i : Nat} (wf : s.MemWf) : (s.recStore i).MemWf :=
  .ite (.elsewhere (.homeWrite wf)) (.ite wf (.elsewhere wf))

theorem State.MemWf.setRec {i : Nat} {r : ErrRec} (wf : s.MemWf) : (s.setRec i r).MemWf := .elsewhere wf

theorem State.MemWf.countErr {c : Nat} (wf : s.MemWf) : (s.countErr c).MemWf := .elsewhere wf

theorem State.MemWf.emitErr {i kind sev : Nat} {merge : Bool} {owner : Option (Nat × Nat)} (wf : s.MemWf) :
    (s.emitErr i kind sev merge owner).MemWf := by
  unfold State.emitErr
  split
  · exact .ite (.emitTo wf) wf
  · exact .emitDev wf

theorem State.MemWf.errMessage {sev : Nat} (wf : s.MemWf) : (s.errMessage sev).MemWf := .ite (.interrupt wf) wf

theorem State.MemWf.record_go {cls kind sev : Nat} {inj : Bool} {addr unit space synd : Nat}
    {owner : Option (Nat × Nat)} {k : Nat} (wf : s.MemWf) :
    (State.record.go cls kind sev inj addr unit space synd owner s k).2.MemWf :=
  .snd (.emitErr (.errMessage (.recStore (.setRec wf))))

theorem State.MemWf.record {cls kind sev : Nat} {inj : Bool} {addr unit space synd : Nat} {owner : Option (Nat × Nat)}
    (wf : s.MemWf) : (s.record cls kind sev inj addr unit space synd owner).2.MemWf := by
  unfold State.record
  dsimp only
  split
  · exact .ite_2 (.snd (.emitErr (.recStore (.setRec (.countErr wf))))) (.record_go (.countErr wf))
  · exact .record_go (.countErr wf)

theorem State.MemWf.findFlaw {p : FlawAt} {cls unit addr space : Nat} {owner : Option (Nat × Nat)} (wf : s.MemWf) :
    (s.findFlaw p cls unit addr space owner).2.MemWf := by
  unfold State.findFlaw
  split
  · exact .snd wf
  · exact .ite_2 (.snd (.record (.dropFlaws wf))) (.snd (.record (.dropFlaws wf)))

/-! ## Machine/Coherence.lean -/

theorem State.MemWf.strike {g n cause : Nat} (wf : s.MemWf) : (s.strike g n cause).MemWf := by
  unfold State.strike
  dsimp only
  split
  · exact wf
  · split
    · exact wf
    · split
      · exact .updGroup wf
      · split
        · exact .updGroup wf
        · split
          · exact .updGroup wf
          · exact .emitL (.updGroup wf)

theorem State.MemWf.strikeLine {ln cause : Nat} {p : Group → Bool} (wf : s.MemWf) : (s.strikeLine ln cause p).MemWf :=
  .foldl wf (fun _ _ wf => .ite (.foldl wf (fun _ _ wf => .strike wf)) wf)

theorem State.MemWf.strikeLost {ln : Nat} (wf : s.MemWf) : (s.strikeLost ln).MemWf := .draw (.strikeLine wf)

theorem State.MemWf.checkSlice {d ln : Nat} (wf : s.MemWf) : (s.checkSlice d ln).MemWf := by
  unfold State.checkSlice
  split
  · exact wf
  · exact .ite (.updLine (.record (.dropFlaws wf)))
      (.ite (.record (.dropFlaws wf)) (.dropDie (.record (.dropFlaws wf))))

theorem State.MemWf.checkArray {ln : Nat} (wf : s.MemWf) : (s.checkArray ln).MemWf := by
  unfold State.checkArray
  split
  · next e1 =>
      exact .updLine (.of_2 (.findFlaw wf) e1)
  · next e1 =>
      exact .of_2 (.findFlaw wf) e1

theorem State.MemWf.loseEntry {p : FlawAt} {cls unit ln : Nat} (wf : s.MemWf) :
    (s.loseEntry p cls unit ln).MemWf := by
  unfold State.loseEntry
  dsimp only
  split
  · exact wf
  · refine .ite (.record (.dropFlaws wf)) (.ite (.ite (.bumpVersion ?_) ?_) (.updLine (.ite (.bumpVersion ?_) ?_)))
    · split
      · exact .dropDie (.takeBack (.strikeLost (.record (.dropFlaws wf))))
      · exact .takeBack (.strikeLost (.record (.dropFlaws wf)))
    · split
      · exact .dropDie (.takeBack (.strikeLost (.record (.dropFlaws wf))))
      · exact .takeBack (.strikeLost (.record (.dropFlaws wf)))
    · split
      · exact .dropDie (.takeBack (.strikeLost (.record (.dropFlaws wf))))
      · exact .takeBack (.strikeLost (.record (.dropFlaws wf)))
    · split
      · exact .dropDie (.takeBack (.strikeLost (.record (.dropFlaws wf))))
      · exact .takeBack (.strikeLost (.record (.dropFlaws wf)))

theorem State.MemWf.checkDir {d ln : Nat} (wf : s.MemWf) : (s.checkDir d ln).MemWf := .ite (.loseEntry wf) wf

theorem State.MemWf.checkEntry {ln : Nat} (wf : s.MemWf) : (s.checkEntry ln).MemWf := .loseEntry wf

theorem State.MemWf.sendLine {d ln : Nat} (wf : s.MemWf) : (s.sendLine d ln).MemWf := by
  unfold State.sendLine
  split
  · next e1 =>
      exact .updLine (.of_2 (.findFlaw wf) e1)
  · next e1 =>
      exact .of_2 (.findFlaw wf) e1

theorem State.MemWf.fetchLine {d ln : Nat} (wf : s.MemWf) : (s.fetchLine d ln).MemWf := by
  unfold State.fetchLine
  split
  · exact .record (.dropFlaws wf)
  · exact wf

theorem State.MemWf.inject {ln target die : Nat} (wf : s.MemWf) : (s.inject ln target die).2.2.MemWf :=
  .ite_22 (.andThen (.setReg (.record wf)) fun wf => .ite_22 (.thd (.ite (.updLine wf) (.setMM wf)))
    (.ite_22 (.thd wf) (.thd wf))) (.thd wf)

theorem State.MemWf.dropCore {core ln : Nat} (wf : s.MemWf) : (s.dropCore core ln).MemWf :=
  .ite (.updLine (.setMM wf)) (.setMM wf)

theorem State.MemWf.checkCopy {core ln : Nat} (wf : s.MemWf) : (s.checkCopy core ln).MemWf := by
  unfold State.checkCopy
  split
  · exact wf
  · exact .ite (.dropFlaws wf) (.andThen (.draw (.dropFlaws wf)) fun wf => .ite (.updLine (.record wf))
      (.ite (.record wf) (.dropCore (.record wf))))

theorem State.MemWf.checkOwn {d ln : Nat} (wf : s.MemWf) : (s.checkOwn d ln).MemWf := by
  unfold State.checkOwn
  refine .ite ?_ (.checkSlice ?_)
  · split
    · exact .checkCopy wf
    · exact wf
  · split
    · exact .checkCopy wf
    · exact wf

theorem State.MemWf.recall {ln : Nat} (wf : s.MemWf) : (s.recall ln).1.MemWf := by
  unfold State.recall
  dsimp only
  split
  · exact .fst wf
  · split
    · exact .fst (.flipBit (.dropDie (.takeBack (.updLine (.inject (.checkOwn wf))))))
    · exact .fst (.keepV (.andThen (.inject (.checkOwn wf)) fun wf => .ite (.sendLine (.takeBack wf)) (.takeBack wf)))

theorem State.MemWf.recallStep {ln : Nat} (wf : s.MemWf) : (s.recallStep ln).1.MemWf := by
  unfold State.recallStep
  refine .ite_1 (.fst ?_) (.fst (.recall wf))
  split
  · exact .andThen (.bumpVersion (.recall wf)) fun wf =>
      .ite (.keepV wf) wf
  · exact .bumpVersion (.recall wf)

theorem State.MemWf.useEntry {ln : Nat} (wf : s.MemWf) : (s.useEntry ln).MemWf := by
  unfold State.useEntry
  refine .ite (.updLine (.takeId wf)) ?_
  split
  · exact .updLine (.recallStep (.draw (.updLine (.takeId wf))))
  · split
    · exact .updLine (.recallStep (.strikeLine (.updLine (.takeId wf))))
    · exact .updLine (.takeId wf)

theorem State.MemWf.evictL2 {d ln : Nat} (wf : s.MemWf) : (s.evictL2 d ln).MemWf :=
  .dropDie (.ite (.andThen (.ite (.checkOwn wf) wf) fun wf => .ite (.bumpVersion (.sendLine (.takeBack wf)))
    (.takeBack wf)) wf)

theorem State.MemWf.victim {set low : List Nat} (wf : s.MemWf) : (s.victim set low).2.MemWf := .snd (.draw wf)

theorem State.MemWf.roomL2 {d ln : Nat} {low : Bool} (wf : s.MemWf) : (s.roomL2 d ln low).MemWf := by
  unfold State.roomL2
  dsimp only
  exact .ite wf (.setMM (.ite wf (.evictL2 (.victim wf))))

theorem State.MemWf.leaveCore {core ln : Nat} (wf : s.MemWf) : (s.leaveCore core ln).MemWf :=
  .dropCore (.ite (.checkCopy wf) wf)

theorem State.MemWf.roomCore {core ln : Nat} {low : Bool} (wf : s.MemWf) : (s.roomCore core ln low).2.MemWf := by
  unfold State.roomCore
  dsimp only
  exact .ite_2 (.snd wf) (.ite_2 (.snd wf) (.snd (.setMM (.ite wf (.leaveCore (.victim wf))))))

theorem State.MemWf.fillHeld {core ln : Nat} {low : Bool} {fl : Option Nat} (wf : s.MemWf) :
    (s.fillHeld core ln low fl).MemWf :=
  .ite (.setMM (.roomCore wf)) (.roomCore wf)

theorem State.MemWf.fillCopy {core ln : Nat} {low : Bool} {c : Copy} (wf : s.MemWf) :
    (s.fillCopy core ln low c).MemWf :=
  .ite (.setMM (.roomCore wf)) (.roomCore wf)

theorem State.MemWf.weaken {ln : Nat} {keep : Option Nat} (wf : s.MemWf) : (s.weaken ln keep).MemWf :=
  .foldl (.setMM wf) (fun _ _ wf => .setMM wf)

theorem State.MemWf.bumpStamp {ln : Nat} (wf : s.MemWf) : (s.bumpStamp ln).MemWf := by
  unfold State.bumpStamp
  refine .ite ?_ (.setLine wf)
  split
  · exact .setMM (.setLine wf)
  · exact .setLine wf

theorem State.MemWf.freshLine {core ln : Nat} {k : Keep} {had : Bool} (wf : s.MemWf) :
    (s.freshLine core ln k had).2.2.MemWf :=
  .thd (.andThen (.fetchLine (.roomL2 wf)) fun wf => .andThen (.ite wf (.checkArray wf)) fun wf => .andThen
    (.ite_22 (.thd wf) (.inject wf)) fun wf => .ite (.fillCopy (.setMM wf)) (.setMM wf))

theorem State.MemWf.readLine {core ln : Nat} {k : Keep} (wf : s.MemWf) : (s.readLine core ln k).2.2.MemWf := by
  unfold State.readLine
  dsimp only
  refine .ite_22 (.andThen (.checkCopy (.checkDir wf)) fun wf1 => .andThen (.ite wf1 (.checkDir wf)) fun wf => .ite_22
    (.thd wf) (.thd (.andThen (.inject (.checkOwn wf)) fun wf => .ite (.fillHeld wf) wf))) ?_
  split
  · exact .andThen (.checkEntry (.checkDir wf)) fun wf =>
      .andThen (.ite (.useEntry wf) wf) fun wf =>
      .andThen (.checkSlice (.recallStep wf)) fun wf =>
      .ite_22 (.thd (.ite (.fillCopy (.inject wf)) (.inject wf))) (.freshLine wf)
  · exact .freshLine (.checkSlice (.recallStep (.andThen (.checkEntry (.checkDir wf)) fun wf => .ite (.useEntry wf)
      wf)))

theorem State.MemWf.prefetch {core ln : Nat} {k : Keep} (wf : s.MemWf) : (s.prefetch core ln k).MemWf := by
  unfold State.prefetch
  refine .ite (.ite (.fillHeld (.checkOwn wf)) wf) (.ite wf (.ite (.fillCopy ?_) ?_))
  · split
    · exact .ite (.checkArray wf) (.setMM (.checkArray wf))
    · exact .setMM (.roomL2 (.checkArray wf))
  · split
    · exact .ite (.checkArray wf) (.setMM (.checkArray wf))
    · exact .setMM (.roomL2 (.checkArray wf))

theorem State.MemWf.runAhead {core ln : Nat} (wf : s.MemWf) : (s.runAhead core ln).MemWf :=
  .ite (.foldl (.setMM wf) (fun _ _ wf => .prefetch wf)) (.setMM wf)

theorem State.MemWf.own {die ln : Nat} {low : Bool} (wf : s.MemWf) : (s.own die ln low).MemWf := by
  unfold State.own
  refine .ite (.checkDir wf) (.updLine ?_)
  split
  · exact .flipBit (.setMM (.andThen (.checkEntry (.checkDir wf)) fun wf => .andThen (.useEntry (.recallStep wf))
      fun wf => .andThen (.fetchLine (.roomL2 wf)) fun wf => .andThen (.ite wf (.checkArray wf)) fun wf => .ite_22
      (.thd wf) (.inject wf)))
  · exact .setMM (.andThen (.checkEntry (.checkDir wf)) fun wf => .andThen (.useEntry (.recallStep wf)) fun wf =>
      .andThen (.fetchLine (.roomL2 wf)) fun wf => .andThen (.ite wf (.checkArray wf)) fun wf => .ite_22 (.thd wf)
      (.inject wf))

theorem State.MemWf.fillFrom {core ln : Nat} (wf : s.MemWf) : (s.fillFrom core ln).MemWf := by
  unfold State.fillFrom
  dsimp only
  split
  · exact .flipBit (.setMM (.ite_2 (.snd (.checkCopy wf)) (.snd (.inject (.checkOwn (.checkCopy wf))))))
  · exact .setMM (.ite_2 (.snd (.checkCopy wf)) (.snd (.inject (.checkOwn (.checkCopy wf)))))

theorem State.MemWf.gain {core ln : Nat} {k : Keep} (wf : s.MemWf) : (s.gain core ln k).MemWf :=
  .ite (.ite (.own wf) (.updLine (.fillHeld (.bumpStamp (.weaken (.ite (.fillFrom (.own wf)) (.own wf)))))))
    (.updLine (.bumpStamp (.weaken (.ite (.checkOwn (.own wf)) (.own wf)))))

theorem State.MemWf.writeLine {core pa : Nat} {bs : List Byte} {k : Keep} {pois : Option PTag} {writer : Nat}
    (wf : s.MemWf) : (s.writeLine core pa bs k pois writer).MemWf :=
  .loseResv (.andThen (.putBytes (.gain wf)) fun wf => .ite (.dropFlaws (.updLine wf)) (.updLine wf))

theorem State.MemWf.readRO_fill {core ln : Nat} {k : Keep} (wf : s.MemWf) :
    (State.readRO.fill core ln k s).2.2.MemWf := by
  unfold State.readRO.fill
  split
  next e =>
    exact .thd (.andThen (.of_22 (.readLine wf) e) fun wf => .ite (.fillCopy wf) wf)

theorem State.MemWf.readRO {core ln : Nat} {k : Keep} (wf : s.MemWf) : (s.readRO core ln k).2.2.MemWf := by
  unfold State.readRO
  dsimp only
  split
  · exact .ite_22 (.thd (.checkCopy wf)) (.readRO_fill (.checkCopy wf))
  · exact .readRO_fill (.checkCopy wf)

theorem State.MemWf.homeReadLine {ln : Nat} (wf : s.MemWf) : (s.homeReadLine ln).2.2.MemWf :=
  .thd (.andThen (.recallStep (.checkEntry wf)) fun wf => .andThen (.ite wf (.checkArray wf)) fun wf => .ite_22
    (.thd wf) (.inject wf))

theorem State.MemWf.homeRead {pa n : Nat} (wf : s.MemWf) : (s.homeRead pa n).2.2.MemWf :=
  .foldl_22 (.thd wf) (fun _ _ wf => .thd (.homeReadLine wf))

theorem State.MemWf.outsideWrite {pa : Nat} {bs : List Byte} {pois : Option PTag} (wf : s.MemWf) :
    (s.outsideWrite pa bs pois).MemWf :=
  .foldl wf (fun _ _ wf => .homeWriteLine (.recall wf))

theorem State.MemWf.devWrite {pa n v : Nat} (wf : s.MemWf) : (s.devWrite pa n v).MemWf := .outsideWrite wf

theorem State.MemWf.readPa {core pa n : Nat} {k : Keep} (wf : s.MemWf) : (s.readPa core pa n k).2.2.MemWf := by
  unfold State.readPa
  split
  next e =>
    exact .thd (.of_22 (.readLine wf) e)

theorem State.MemWf.verdict_home {core : Nat} {w : Watch} (wf : s.MemWf) : (State.verdict.home core w s).2.MemWf := by
  unfold State.verdict.home
  dsimp only
  exact .andThen (.useEntry (.checkEntry wf)) fun wf =>
    .andThen (.snd (.recallStep wf)) fun wf1 =>
    .ite_2 wf1 (.ite_2 (.snd (.freshLine (.recallStep wf))) wf1)

theorem State.MemWf.verdict {core : Nat} {w : Watch} {stale : Bool} (wf : s.MemWf) :
    (s.verdict core w stale).2.MemWf := by
  unfold State.verdict
  refine .ite_2 (.snd wf) (.ite_2 (.ite_2 (.snd wf) (.ite_2 (.snd wf) (.snd wf)))
    (.ite_2 (.ite_2 (.snd wf) (.snd wf)) ?_))
  split
  · exact .ite_2 (.snd (.setMM wf)) (.verdict_home wf)
  · exact .verdict_home wf

theorem State.MemWf.watchedRead_other {core ln : Nat} {k : Keep} {die : Nat} {x : Line} (wf : s.MemWf) :
    (State.watchedRead.other core ln k s die x).2.2.2.2.2.2.MemWf := by
  unfold State.watchedRead.other
  dsimp only
  split
  · exact .thd (.readLine wf)
  · split
    · exact .thd (.inject (.checkSlice wf))
    · exact .thd (.readLine (.checkSlice wf))

theorem State.MemWf.watchedRead {core ln : Nat} {k : Keep} (wf : s.MemWf) :
    (s.watchedRead core ln k).2.2.2.2.2.2.MemWf := by
  unfold State.watchedRead
  dsimp only
  split
  · split
    · exact .watchedRead_other (.checkDir (.checkCopy wf))
    · exact .thd (.checkDir (.checkCopy wf))
  · exact .watchedRead_other (.checkDir (.checkCopy wf))

theorem State.MemWf.reserve {g lane ln : Nat} (wf : s.MemWf) : (s.reserve g lane ln).MemWf := by
  unfold State.reserve
  refine .ite (.updGroup (.takeId wf)) ?_
  split
  · exact .updGroup (.updGroup (.takeId wf))
  · exact .updGroup (.takeId wf)

/-! ## Machine/Report.lean -/

theorem State.MemWf.pealStore {r : PRec} (wf : s.MemWf) : (s.pealStore r).MemWf := .setFld (.devWrite wf)

theorem State.MemWf.pealDrop {r : PRec} (wf : s.MemWf) : (s.pealDrop r).MemWf := .elsewhere (.setFld wf)

theorem State.MemWf.pealTake {r : PRec} (wf : s.MemWf) : (s.pealTake r).MemWf := .elsewhere wf

theorem State.MemWf.pealWrite {r : PRec} (wf : s.MemWf) : (s.pealWrite r).MemWf :=
  .ite (.pealStore (.pealTake wf)) (.ite wf (.pealDrop (.pealTake wf)))

theorem State.MemWf.setCq {c : Nat} {x : Cq} (wf : s.MemWf) : (s.setCq c x).MemWf := .elsewhere wf

theorem State.MemWf.syncQ {q : Nat} (wf : s.MemWf) : (s.syncQ q).MemWf := .ite wf (.devWrite wf)

theorem State.MemWf.updQueue {q : Nat} {f : Queue → Queue} (wf : s.MemWf) : (s.updQueue q f).MemWf :=
  .syncQ (.elsewhere wf)

theorem State.MemWf.coalesce {c : Nat} (wf : s.MemWf) : (s.coalesce c).MemWf := .ite (.interrupt (.setCq wf)) wf

theorem State.MemWf.cqWrite {c lo : Nat} (wf : s.MemWf) : (s.cqWrite c lo).MemWf :=
  .setCq (.ite (.toHost wf) (.devWrite wf))

theorem State.MemWf.cqDrain {c fuel : Nat} (wf : s.MemWf) : (s.cqDrain c fuel).MemWf := by
  induction fuel generalizing s with
  | zero => exact wf
  | succ fuel ih =>
    unfold State.cqDrain
    dsimp only
    split
    · exact wf
    · refine .ite (ih ?_) wf
      split
      · exact .coalesce (.cqWrite (.cqWrite (.setCq wf)))
      · exact .coalesce (.cqWrite (.setCq wf))

theorem State.MemWf.cqStalls (wf : s.MemWf) : s.cqStalls.MemWf := .foldl wf (fun _ _ wf => .ite wf (.updQueue wf))

theorem State.MemWf.postTo {c q lo : Nat} {pair : Option Nat} (wf : s.MemWf) : (s.postTo c q lo pair).MemWf :=
  .cqStalls (.cqDrain (.setCq wf))

theorem State.MemWf.postCq {q lo : Nat} {pair : Option Nat} (wf : s.MemWf) : (s.postCq q lo pair).MemWf := .postTo wf

theorem State.MemWf.postErr {q tag err index : Nat} (wf : s.MemWf) : (s.postErr q tag err index).MemWf := .postCq wf

/-! ## Machine/Access.lean -/

theorem State.MemWf.tableWord {core pa : Nat} (wf : s.MemWf) : (s.tableWord core pa).2.MemWf := by
  unfold State.tableWord
  refine .ite_2 ?_ (.snd wf)
  split
  next e =>
    exact .snd (.of_22 (.readPa wf) e)

theorem State.MemWf.walkFrom {core tab va fuel : Nat} (wf : s.MemWf) : (s.walkFrom core tab va fuel).2.MemWf := by
  induction fuel generalizing s tab with
  | zero => exact wf
  | succ fuel ih =>
    unfold State.walkFrom
    dsimp only
    split
    · exact .snd (.tableWord wf)
    · exact .snd (.tableWord wf)
    · exact ih (.tableWord wf)

theorem State.MemWf.walk {core asp va : Nat} (wf : s.MemWf) : (s.walk core asp va).2.MemWf := by
  unfold State.walk
  refine .ite_2 (.snd wf) ?_
  split
  next e1 =>
    split
    next e2 =>
      have wfb := State.MemWf.of_2 (.tableWord (.of_2 (.tableWord wf) e1)) e2
      split
      · exact .walkFrom wfb
      · exact .snd wfb

theorem State.MemWf.translate {core asp va : Nat} (wf : s.MemWf) : (s.translate core asp va).2.MemWf := by
  unfold State.translate
  dsimp only
  refine .ite_2 (.snd wf) ?_
  split
  · exact .snd (.setMM (.andThen (.ite_2 (.snd wf) (.walk wf)) fun wf => .ite_2 (.snd wf) (.snd (.draw wf))))
  · exact .snd (.andThen (.ite_2 (.snd wf) (.walk wf)) fun wf => .ite_2 (.snd wf) (.snd (.draw wf)))

theorem State.MemWf.dropSram {wk a n : Nat} {p : Option PTag} (wf : s.MemWf) : (s.dropSram wk a n p).MemWf :=
  .ite wf (.dropFlaws wf)

theorem State.MemWf.checkReg {gk : Nat} {m : Lanes} {r : Nat} (wf : s.MemWf) : (s.checkReg gk m r).MemWf := by
  unfold State.checkReg
  refine .ite wf ?_
  split
  · exact wf
  · refine .foldl wf (fun _ _ wf => ?_)
    split
    · next e2 =>
        exact .updGroup (.of_2 (.findFlaw wf) e2)
    · next e2 =>
        exact .of_2 (.findFlaw wf) e2

theorem State.MemWf.checkWord {wk k : Nat} (wf : s.MemWf) : (s.checkWord wk k).MemWf := by
  unfold State.checkWord
  dsimp only
  split
  · exact wf
  · split
    · next e2 =>
        exact .updWg (.of_2 (.findFlaw wf) e2)
    · next e2 =>
        exact .of_2 (.findFlaw wf) e2

theorem State.MemWf.checkSram {wk a n : Nat} (wf : s.MemWf) : (s.checkSram wk a n).MemWf := by
  unfold State.checkSram
  refine .foldl wf (fun _ _ wf => ?_)
  split
  · exact .ite (.checkWord wf) wf
  · exact wf

theorem State.MemWf.scrLook {wk off n : Nat} (wf : s.MemWf) : (s.scrLook wk off n).2.2.MemWf := by
  unfold State.scrLook
  refine .thd ?_
  split
  · exact wf
  · split
    · exact wf
    · exact .checkSram wf

theorem State.MemWf.scrWrite {wk off : Nat} {bs : List Byte} {p : Option PTag} (wf : s.MemWf) :
    (s.scrWrite wk off bs p).MemWf := by
  unfold State.scrWrite
  split
  · exact wf
  · split
    · exact wf
    · exact .dropSram (.updWg wf)

theorem State.MemWf.pageAt {c : Ctx} {k : AccKind} {path va : Nat} (wf : s.MemWf) :
    (s.pageAt c k path va).2.2.MemWf := by
  unfold State.pageAt
  dsimp only
  split <;> exact .thd (.translate wf)

theorem State.MemWf.pageOf {c : Ctx} {k : AccKind} {path va : Nat} (wf : s.MemWf) :
    (s.pageOf c k path va).2.MemWf := by
  unfold State.pageOf
  split
  · next e1 =>
      exact .snd (.of_22 (.pageAt wf) e1)
  · next e1 =>
      exact .snd (.of_22 (.pageAt wf) e1)

theorem State.MemWf.formParts {c : Ctx} {h : Option Handle} {off addr n al : Nat} {k : AccKind} {lane : Nat}
    (wf : s.MemWf) : (s.formParts c h off addr n al k lane).2.MemWf := by
  unfold State.formParts
  refine .ite_2 (.snd wf) (.ite_2 (.ite_2 (.snd wf) ?_) (.ite_2 (.ite_2 (.snd wf) ?_) (.ite_2 (.snd wf) ?_)))
  · split <;> exact .snd wf
  · split <;> exact .snd wf
  · split
    · exact .snd wf
    · exact .snd wf
    · refine .ite_2 (.snd wf) ?_
      split
      · exact .snd wf
      · refine .ite_2 (.snd wf) ?_
        split
        · next e3 =>
            exact .snd (.of_2 (.pageOf wf) e3)
        · next e3 =>
            exact .snd (.of_2 (.pageOf wf) e3)
    · refine .ite_2 (.snd wf) ?_
      split
      · exact .snd wf
      · refine .ite_2 ?_ (.foldl_2 (.snd wf) (fun _ _ wf => ?_))
        · split
          · next e3 =>
              exact .snd (.of_2 (.pageOf wf) e3)
          · next e3 =>
              exact .snd (.of_2 (.pageOf wf) e3)
        · split
          · exact .snd wf
          · split
            · split
              · next e5 =>
                  exact .snd (.of_2 (.pageOf wf) e5)
              · next e5 =>
                  exact .snd (.of_2 (.pageOf wf) e5)
            · exact .ite_2 (.snd wf) (.snd wf)
            · exact .snd wf
    · refine .ite_2 (.snd wf) ?_
      split
      · exact .snd wf
      · split
        · next e3 =>
            exact .snd (.of_2 (.pageOf wf) e3)
        · next e3 =>
            exact .snd (.of_2 (.pageOf wf) e3)

theorem State.MemWf.formAccess {c : Ctx} {h a n : Nat} {k : AccKind} {l : Nat} (wf : s.MemWf) :
    (s.formAccess c h a n k l).2.MemWf := by
  unfold State.formAccess
  refine .ite_2 (.ite_2 (.snd wf) (.formParts wf)) (.ite_2 (.snd wf) ?_)
  split
  · exact .snd wf
  · exact .ite_2 (.snd wf) (.formParts wf)

theorem State.MemWf.reached {core ln : Nat} {a : Access} {hit : Bool} (wf : s.MemWf) :
    (s.reached core ln a hit).MemWf :=
  .ite (.runAhead wf) wf

theorem State.MemWf.readPart {core : Nat} {a : Access} (wf : s.MemWf) : (s.readPart core a).2.2.MemWf := by
  unfold State.readPart
  split
  · exact .scrLook wf
  · refine .ite_22 ?_ ?_
    · split
      next e =>
        exact .thd (.of_22 (.readRO wf) e)
    · extract_lets
      split
      next e =>
        exact .thd (.reached (.of_22 (.readPa wf) e))
  · split
    next e =>
      exact .thd (.of_22 (.readLine wf) e)

theorem State.MemWf.readParts {core : Nat} {ps : List Access} (wf : s.MemWf) : (s.readParts core ps).2.2.MemWf :=
  .foldl_22 (.thd wf) (fun _ _ wf => .thd (.readPart wf))

theorem State.MemWf.writePart {core writer : Nat} {a : Access} {bs : List Byte} {p : Option PTag} (wf : s.MemWf) :
    (s.writePart core writer a bs p).MemWf := by
  unfold State.writePart
  split
  · exact .scrWrite wf
  · exact .reached (.writeLine wf)
  · exact wf

end Sys2Proof.Machine
end

section
/-! SUPPORT. Memory in its canonical form through what instructions do to groups, blocks, flags and registers. -/

namespace Sys2Proof.Machine

variable {s : State}

/-! ## Machine/Ops.lean -/

theorem State.MemWf.stallBy {c : Ctx} {r : Nat} (wf : s.MemWf) : (s.stallBy c r).MemWf := .elsewhere (.updGroup wf)

theorem State.MemWf.emitBlock {wk what cause depth : Nat} (wf : s.MemWf) :
    (s.emitBlock wk what cause depth).MemWf := by
  unfold State.emitBlock
  split
  · exact wf
  · split
    · exact wf
    · split
      · exact wf
      · exact .emitL wf

theorem State.MemWf.failHere {wk cause depth pc : Nat} {atAccept : Bool} (wf : s.MemWf) :
    (s.failHere wk cause depth pc atAccept).MemWf := by
  unfold State.failHere
  split
  · exact wf
  · refine .ite wf ?_
    split
    · exact .ite (.updWg wf) (.ite (.updWg wf) wf)
    · exact .elsewhere (.updWg wf)

theorem State.MemWf.failBlock {wk cause depth pc : Nat} {atAccept : Bool} (wf : s.MemWf) :
    (s.failBlock wk cause depth pc atAccept).MemWf := by
  unfold State.failBlock
  dsimp only
  split
  · exact wf
  · split
    · refine .ite (.foldl (.failHere wf) (fun _ _ wf => ?_)) (.failHere wf)
      split
      · exact .ite (.failHere wf) wf
      · exact wf
    · exact .failHere wf

theorem State.MemWf.linePre {wk core ln : Nat} {low : Bool} (wf : s.MemWf) : (s.linePre wk core ln low).2.MemWf :=
  .snd (.ite (.checkOwn (.own wf)) (.own wf))

theorem State.MemWf.logFirst {wk : Nat} {e : LogEntry} {pc : Nat} (wf : s.MemWf) : (s.logFirst wk e pc).2.MemWf := by
  unfold State.logFirst
  dsimp only
  split
  · exact .snd wf
  · split
    · exact .snd wf
    · refine .ite_2 (.snd wf) ?_
      split
      · exact .snd wf
      · exact .ite_2 (.snd (.failBlock wf)) (.snd (.updWg wf))

theorem State.MemWf.postFault {c : Ctx} {code pc : Nat} (wf : s.MemWf) : (s.postFault c code pc).MemWf :=
  .postCq (.updQueue wf)

theorem State.MemWf.emitFault {c : Ctx} {code ret : Nat} (wf : s.MemWf) : (s.emitFault c code ret).MemWf := .emitL wf

theorem State.MemWf.takeFaultAt {c : Ctx} {code : Nat → Option Nat} {pc : Nat} {place : Group → List Split → Group}
    (wf : s.MemWf) : (s.takeFaultAt c code pc place).MemWf := by
  unfold State.takeFaultAt
  dsimp only
  split
  · exact .failBlock wf
  · exact .ite (.updGroup wf) (.andThen (.emitFault (.updGroup wf)) fun wf => .ite wf (.postFault wf))

theorem State.MemWf.takeFault {c : Ctx} {code : Nat → Option Nat} {pc : Nat} {next : List (Lanes × Nat)}
    (wf : s.MemWf) : (s.takeFault c code pc next).MemWf :=
  .takeFaultAt wf

theorem State.MemWf.raiseAll {c : Ctx} {code : Nat} (wf : s.MemWf) : (s.raiseAll c code).MemWf := .takeFault wf

theorem State.MemWf.failAlso {c : Ctx} {code : Nat → Option Nat} (wf : s.MemWf) : (s.failAlso c code).MemWf := by
  unfold State.failAlso
  split
  · exact .ite (.failBlock wf) wf
  · exact wf

theorem State.MemWf.endInstr {c : Ctx} {code : Nat → Option Nat} (wf : s.MemWf) : (s.endInstr c code).MemWf :=
  .ite (.failAlso wf) (.takeFault wf)

theorem State.MemWf.advance {c : Ctx} (wf : s.MemWf) : (s.advance c).MemWf := .endInstr wf

theorem State.MemWf.faultReturn {c : Ctx} {m : Lanes} {k : Nat} (wf : s.MemWf) : (s.faultReturn c m k).MemWf :=
  .updGroup wf

theorem State.MemWf.dropReg {gk d : Nat} {m : Lanes} (wf : s.MemWf) : (s.dropReg gk d m).MemWf := .dropFlaws wf

theorem State.MemWf.putReg {gk d : Nat} {m : Lanes} {t : Tag} {f : Nat → Val} (wf : s.MemWf) :
    (s.putReg gk d m t f).MemWf :=
  .ite wf (.andThen (.dropReg (.updGroup wf)) fun wf => .ite (.draw wf) wf)

theorem State.MemWf.writeV {c : Ctx} {d : Nat} {m : Lanes} {t : Tag} {f : Nat → Val} (wf : s.MemWf) :
    (s.writeV c d m t f).MemWf :=
  .ite wf (.ite (.ite (.putReg (.logFirst wf)) (.logFirst wf)) (.putReg wf))

theorem State.MemWf.writeVs {c : Ctx} {d n : Nat} {m : Lanes} {t : Tag} {f : Nat → Nat → Val} (wf : s.MemWf) :
    (s.writeVs c d n m t f).MemWf :=
  .foldl wf (fun _ _ wf => .writeV wf)

theorem State.MemWf.writeP {gk p : Nat} {m b : Lanes} (wf : s.MemWf) : (s.writeP gk p m b).MemWf :=
  .ite wf (.updGroup wf)

theorem State.MemWf.deliver {c : Ctx} {d : Delayed} (wf : s.MemWf) : (s.deliver c d).MemWf :=
  .ite (.failBlock (.updGroup wf)) (.raiseAll (.updGroup wf))

theorem State.MemWf.orMerge {c : Ctx} {run : Ctx → State} (wf : s.MemWf) (wf1 : ∀ x0, (run x0).MemWf) :
    (s.orMerge c run).MemWf := by
  unfold State.orMerge
  split
  · exact (wf1 _)
  · refine .ite (wf1 _) ?_
    split
    · exact .ite (wf1 _) (.failBlock wf)
    · exact (wf1 _)

theorem State.MemWf.noWord {c : Ctx} {k : Nat} (wf : s.MemWf) : (s.noWord c k).MemWf := by
  unfold State.noWord
  refine .orMerge wf (fun _ => .ite (.stallBy wf) (.ite (.stallBy wf) ?_))
  split
  · exact .deliver wf
  · exact .raiseAll wf

theorem AnswerWf.issue {i : Instr} {mOk : Ctx → Bool} {body : Ctx → State} (wf : s.MemWf)
    (wf1 : ∀ x0, (body x0).MemWf) : AnswerWf (s.issue i mOk body) := by
  unfold State.issue
  split
  · exact trivial
  · refine .next (.orMerge wf (fun _ => ?_))
    split
    · exact .raiseAll wf
    · exact .stallBy wf
    · exact .deliver wf
    · exact (wf1 _)

/-! ## Machine/Blocks.lean -/

theorem State.MemWf.codeLine {core ln : Nat} (wf : s.MemWf) : (s.codeLine core ln).2.MemWf := by
  unfold State.codeLine
  dsimp only
  split
  · exact .snd wf
  · exact .snd (.setMM (.readLine wf))

theorem State.MemWf.fetch {c : Ctx} {t : Nat} (wf : s.MemWf) : (s.fetch c t).2.MemWf := by
  unfold State.fetch
  dsimp only
  refine .ite_2 (.snd wf) (.ite_2 (.snd wf) (.ite_2 (.snd wf) ?_))
  split
  · exact .snd (.translate wf)
  · exact .ite_2 (.snd (.translate wf)) (.snd (.codeLine (.translate wf)))

theorem State.MemWf.landing {c : Ctx} {cont : Nat} {t : Option Nat} (wf : s.MemWf) :
    (s.landing c cont t).2.MemWf := by
  unfold State.landing
  split
  · exact .snd wf
  · refine .ite_2 (.snd wf) ?_
    split
    · next e2 =>
        exact .snd (.of_2 (.fetch wf) e2)
    · next e2 =>
        exact .snd (.of_2 (.fetch wf) e2)

theorem State.MemWf.landings {c : Ctx} {cont : Nat} {ts : List Nat} (wf : s.MemWf) : (s.landings c cont ts).2.MemWf :=
  .foldl_2 (.snd wf) (fun _ _ wf => .snd (.landing wf))

theorem State.MemWf.transfer {c : Ctx} {cont : Nat} {takes : Lanes} {tgt : Nat → ℤ} {pre : Nat → Option Nat}
    {link : Bool} (wf : s.MemWf) : (s.transfer c cont takes tgt pre link).MemWf :=
  .andThen (.writeV (.landings wf)) fun wf1 =>
  .andThen (.ite wf1 (.landings wf)) fun wf =>
  .ite wf (.takeFault wf)

theorem State.MemWf.narrow {c : Ctx} {scope : Nat} (wf : s.MemWf) : (s.narrow c scope).MemWf :=
  .ite wf (.draw (.ite (.elsewhere wf) wf))

theorem State.MemWf.pushOf {c : Ctx} {hd : Handle} (wf : s.MemWf) : (s.pushOf c hd).2.MemWf := by
  unfold State.pushOf
  refine .ite_2 (.snd wf) (.foldl_2 (.snd wf) (fun _ _ wf => .foldl_2 wf (fun _ _ wf => ?_)))
  split
  split
  next e =>
    split
    · exact .snd (.of_2 (.pageOf wf) e)
    · split
      next e' =>
        exact .snd (.of_22 (.readPa (.of_2 (.pageOf wf) e)) e')

theorem State.MemWf.doPush {l : Launch} {ws : List (Nat × Nat × Byte × Option PTag)} (wf : s.MemWf) :
    (s.doPush l ws).MemWf :=
  .ite wf (.foldl wf (fun _ _ wf => .scrWrite wf))

theorem State.MemWf.pushTiles {c : Ctx} (wf : s.MemWf) : (s.pushTiles c).MemWf :=
  .foldl wf (fun _ _ wf => .andThen (.updWg (.pushOf wf)) fun wf => .ite (.updWg wf) (.doPush wf))

theorem State.MemWf.released {c : Ctx} {scope : Nat} (wf : s.MemWf) : (s.released c scope).MemWf :=
  .andThen (.updWg (.updGroup wf)) fun wf1 =>
  .andThen (.ite wf1 (.updGroup wf)) fun wf =>
  .ite (.pushTiles wf) wf

theorem State.MemWf.park {c : Ctx} {at_ : WaitAt} {r arg : Nat} (wf : s.MemWf) : (s.park c at_ r arg).MemWf :=
  .updGroup wf

theorem State.MemWf.goOnAll {wk : Nat} {at_ : WaitAt} (wf : s.MemWf) : (s.goOnAll wk at_).MemWf := .elsewhere wf

theorem State.MemWf.emitWg {wk kind payload : Nat} (wf : s.MemWf) : (s.emitWg wk kind payload).MemWf := by
  unfold State.emitWg
  split
  · exact .emitL wf
  · exact wf

theorem State.MemWf.wbarCheck {wk : Nat} (wf : s.MemWf) : (s.wbarCheck wk).MemWf := by
  unfold State.wbarCheck
  refine .ite ?_ wf
  split
  · exact .emitWg (.goOnAll wf)
  · exact wf

theorem State.MemWf.commit {wk : Nat} (wf : s.MemWf) : (s.commit wk).MemWf := by
  unfold State.commit
  split
  · exact wf
  · split
    · exact wf
    · refine .emitBlock ?_
      split
      · exact .doPush (.updWg wf)
      · exact .updWg wf
    · exact .emitBlock (.foldl (.updWg wf) (fun _ _ wf => .updGroup wf))

theorem State.MemWf.acceptCheck {wk : Nat} (wf : s.MemWf) : (s.acceptCheck wk).MemWf := by
  unfold State.acceptCheck
  split
  · exact wf
  · exact .ite wf (.ite (.elsewhere wf) (.ite (.foldl wf (fun _ _ wf => .commit (.goOnAll wf)))
      (.foldl wf (fun _ _ wf => .failBlock wf))))

theorem State.MemWf.leaveConv {wk : Nat} (wf : s.MemWf) : (s.leaveConv wk).MemWf := by
  unfold State.leaveConv
  split
  · exact wf
  · split
    · exact wf
    · refine .foldl ?_ (fun _ _ wf => .acceptCheck wf)
      split
      · exact .updWg (.updWg (.emitWg wf))
      · exact .updWg (.emitWg wf)

theorem State.MemWf.convlCheck {wk : Nat} (wf : s.MemWf) : (s.convlCheck wk).MemWf := by
  unfold State.convlCheck
  split
  · exact wf
  · exact .ite (.leaveConv wf) wf

theorem State.MemWf.wgSettle {wk : Nat} (wf : s.MemWf) : (s.wgSettle wk).MemWf :=
  .acceptCheck (.convlCheck (.wbarCheck wf))

theorem State.MemWf.emitStop {core sched phase cause : Nat} (wf : s.MemWf) :
    (s.emitStop core sched phase cause).MemWf := by
  unfold State.emitStop
  split
  · split
    · exact .emitL wf
    · exact wf
  · exact wf

theorem State.MemWf.beginStop {core sched cause : Nat} (wf : s.MemWf) : (s.beginStop core sched cause).MemWf :=
  .ite wf (.emitStop (.elsewhere wf))

/-! ## Machine/Flags.lean -/

theorem State.MemWf.predOut {c : Ctx} {d : BitVec 3} {code : Nat → Option Nat} {f : Nat → Bool} (wf : s.MemWf) :
    (s.predOut c d code f).MemWf :=
  .endInstr (.writeP wf)

theorem State.MemWf.drew {gk : Nat} {m : Lanes} {e : Nat} (wf : s.MemWf) : (s.drew gk m e).MemWf :=
  .ite wf (.updGroup wf)

theorem State.MemWf.put {c : Ctx} {d : BitVec 7} {t : Tag} {f : Nat → Val} (wf : s.MemWf) : (s.put c d t f).MemWf :=
  .advance (.writeV wf)

theorem State.MemWf.putRes {c : Ctx} {d : BitVec 7} {n : Nat} {t : Nat → Tag} {te : BitVec 1} {e : Nat}
    {rs : Map LaneRes} (wf : s.MemWf) : (s.putRes c d n t te e rs).MemWf :=
  .endInstr (.drew (.foldl wf (fun _ _ wf => .writeV wf)))

/-! ## Machine/Replay.lean -/

theorem State.MemWf.vaOf {core : Nat} {l : Launch} {va : Nat} (wf : s.MemWf) : (s.vaOf core l va).2.MemWf :=
  .snd (.translate wf)

theorem State.MemWf.vaWrite {core : Nat} {l : Launch} {va : Nat} {bs : List Byte} (wf : s.MemWf) :
    (s.vaWrite core l va bs).MemWf := by
  unfold State.vaWrite
  dsimp only
  refine .foldl wf (fun _ _ wf => ?_)
  split
  · next e1 =>
      exact .writeLine (.of_2 (.vaOf wf) e1)
  · next e1 =>
      exact .of_2 (.vaOf wf) e1

theorem State.MemWf.vaRead {core : Nat} {l : Launch} {va n : Nat} (wf : s.MemWf) :
    (s.vaRead core l va n).2.MemWf := by
  unfold State.vaRead
  refine .foldl_2 (.snd wf) (fun _ _ wf => ?_)
  extract_lets
  split
  · next e1 =>
      split
      next e2 =>
        exact .snd (.of_22 (.readPa (.of_2 (.vaOf wf) e1)) e2)
  · next e1 =>
      exact .snd (.of_2 (.vaOf wf) e1)

theorem State.MemWf.vaNum {core : Nat} {l : Launch} {va n : Nat} (wf : s.MemWf) : (s.vaNum core l va n).2.MemWf :=
  .snd (.vaRead wf)

theorem State.MemWf.rrHeader {core : Nat} {l : Launch} {g : Nat} (wf : s.MemWf) : (s.rrHeader core l g).MemWf :=
  .ite (.vaWrite wf) wf

theorem State.MemWf.rrFlag {core : Nat} {l : Launch} {g bit : Nat} (wf : s.MemWf) : (s.rrFlag core l g bit).MemWf :=
  .vaWrite (.vaNum wf)

theorem State.MemWf.rrNumbers {nk : Nat} (wf : s.MemWf) : (s.rrNumbers nk).MemWf := by
  unfold State.rrNumbers
  refine .foldl wf (fun _ _ wf => ?_)
  split
  · exact .ite (.vaWrite wf) wf
  · exact wf

theorem State.MemWf.rrComplete {nk : Nat} (wf : s.MemWf) : (s.rrComplete nk).MemWf := by
  unfold State.rrComplete
  split
  · exact wf
  · split
    · exact wf
    · exact .ite wf (.rrFlag (.rrNumbers wf))

theorem State.MemWf.rrResume {gk : Nat} (wf : s.MemWf) : (s.rrResume gk).MemWf := by
  unfold State.rrResume
  split
  · exact wf
  · exact .ite wf (.updGroup (.vaNum wf))

theorem State.MemWf.rrRecord {c : Ctx} {k hash no value : Nat} {lanes : List Word} (wf : s.MemWf) :
    (s.rrRecord c k hash no value lanes).MemWf :=
  .ite wf (.ite (.rrFlag (.updGang wf)) (.updGang (.vaWrite (.vaWrite wf))))

theorem State.MemWf.rrScan {c : Ctx} {p : RrEntry → Bool} {pos left : Nat} (wf : s.MemWf) :
    (s.rrScan c p pos left).2.MemWf := by
  induction left generalizing s pos with
  | zero => exact wf
  | succ left ih =>
    unfold State.rrScan
    exact .ite_2 (.snd (.vaNum wf)) (ih (.vaNum wf))

theorem State.MemWf.rrNext {c : Ctx} {p : RrEntry → Bool} (wf : s.MemWf) : (s.rrNext c p).2.MemWf :=
  .rrScan (.vaNum wf)

theorem State.MemWf.rrDiverge {c : Ctx} {no expect observed : Nat} (wf : s.MemWf) :
    (s.rrDiverge c no expect observed).MemWf :=
  .updGang (.ite wf (.emitL (.rrFlag (.vaWrite wf))))

theorem State.MemWf.rrSeek {c : Ctx} {no : Nat} {best : Option RrEntry} {fuel : Nat} (wf : s.MemWf) :
    (s.rrSeek c no best fuel).2.MemWf := by
  induction fuel generalizing s best with
  | zero => exact wf
  | succ fuel ih =>
    unfold State.rrSeek
    split
    · next e1 =>
        exact ih (.of_2 (.rrNext wf) e1)
    · next e1 =>
        exact .snd (.of_2 (.rrNext wf) e1)

theorem State.MemWf.rrTake {c : Ctx} {k hash : Nat} (wf : s.MemWf) : (s.rrTake c k hash).2.MemWf := by
  unfold State.rrTake
  dsimp only
  refine .ite_2 (.snd wf) ?_
  split
  · exact .snd (.rrDiverge (.rrSeek (.vaNum wf)))
  · exact .andThen (.rrSeek (.vaNum wf)) fun wf =>
      .ite_2 (.snd (.updGroup (.ite_2 (.vaRead wf) (.snd wf)))) (.snd (.rrDiverge wf))

theorem State.MemWf.rrNumber {c : Ctx} (wf : s.MemWf) : (s.rrNumber c).2.MemWf := .snd (.updGroup wf)

theorem State.MemWf.flagDown {gk f hash : Nat} (wf : s.MemWf) : (s.flagDown gk f hash).MemWf := by
  unfold State.flagDown
  dsimp only
  refine .ite wf ?_
  split
  · exact .updGroup wf
  · refine .ite (.updGroup (.rrRecord (.rrNumber wf))) (.ite ?_ (.updGroup wf))
    split
    · exact .ite (.updGroup (.rrNext wf)) (.updGroup (.rrDiverge (.rrNext wf)))
    · exact .updGroup (.rrDiverge (.rrNext wf))

/-! ## Machine/Placement.lean -/

theorem State.MemWf.dropWay {core w : Nat} (wf : s.MemWf) : (s.dropWay core w).MemWf := by
  unfold State.dropWay
  dsimp only
  refine .ite wf (.draw (.foldl wf (fun _ _ wf => ?_)))
  split
  · exact .leaveCore wf
  · exact wf

theorem State.MemWf.shrinkPool {core n : Nat} (wf : s.MemWf) : (s.shrinkPool core n).MemWf :=
  .foldl wf (fun _ _ wf => .dropWay wf)

theorem State.MemWf.dealGroups {core wk : Nat} {gs : List Group} (wf : s.MemWf) : (s.dealGroups core wk gs).MemWf :=
  .foldl wf (fun _ _ wf => .elsewhere wf)

theorem State.MemWf.dropR {core : Nat} (wf : s.MemWf) : (s.dropR core).MemWf := .setMM wf

theorem State.MemWf.placeWg {l : Launch} {nk n core : Nat} (wf : s.MemWf) : (s.placeWg l nk n core).MemWf :=
  .shrinkPool (.dealGroups (.elsewhere (.dropR wf)))

theorem State.MemWf.placeGang {lk : Nat} {l : Launch} {index die row col : Nat} {slot : Option Nat} (wf : s.MemWf) :
    (s.placeGang lk l index die row col slot).MemWf :=
  .rrHeader (.foldl (.elsewhere wf) (fun _ _ wf => .placeWg wf))

/-! ## Machine/Float.lean -/

theorem State.MemWf.fltOp {c : Ctx} {d : BitVec 7} {rs : List (BitVec 7)} {te : BitVec 1} {rounds : Bool}
    {f : List FNum → NumOp} (wf : s.MemWf) : (s.fltOp c d rs te rounds f).MemWf :=
  .putRes wf

theorem AnswerWf.vfadd {d a b : BitVec 7} {t : BitVec 1} (wf : s.MemWf) : AnswerWf (execVfadd d a b t s) :=
  .issue wf (fun _ => .fltOp wf)

theorem AnswerWf.vfsub {d a b : BitVec 7} {t : BitVec 1} (wf : s.MemWf) : AnswerWf (execVfsub d a b t s) :=
  .issue wf (fun _ => .fltOp wf)

theorem AnswerWf.vfmul {d a b : BitVec 7} {t : BitVec 1} (wf : s.MemWf) : AnswerWf (execVfmul d a b t s) :=
  .issue wf (fun _ => .fltOp wf)

theorem AnswerWf.vfma {d a b : BitVec 7} {t : BitVec 1} (wf : s.MemWf) : AnswerWf (execVfma d a b t s) :=
  .issue wf (fun _ => .fltOp wf)

theorem AnswerWf.vfmin {d a b : BitVec 7} {t : BitVec 1} (wf : s.MemWf) : AnswerWf (execVfmin d a b t s) :=
  .issue wf (fun _ => .fltOp wf)

theorem AnswerWf.vfmax {d a b : BitVec 7} {t : BitVec 1} (wf : s.MemWf) : AnswerWf (execVfmax d a b t s) :=
  .issue wf (fun _ => .fltOp wf)

theorem AnswerWf.vfrnd {d a : BitVec 7} {t : BitVec 1} (wf : s.MemWf) : AnswerWf (execVfrnd d a t s) :=
  .issue wf (fun _ => .putRes wf)

theorem AnswerWf.vfcmp {p : BitVec 3} {a b : BitVec 7} {k : BitVec 3} (wf : s.MemWf) :
    AnswerWf (execVfcmp p a b k s) :=
  .issue wf (fun _ => .predOut wf)

theorem State.MemWf.startPend {c : Ctx} {p : Pend} {code : Nat → Option Nat} (wf : s.MemWf) :
    (s.startPend c p code).MemWf :=
  .ite (.endInstr wf) (.endInstr (.updGroup (.takeId wf)))

theorem State.MemWf.longRes {c : Ctx} {d : BitVec 7} {t : Tag} {te : BitVec 1} {e : Nat} {rs : Map LaneRes}
    (wf : s.MemWf) : (s.longRes c d t te e rs).MemWf :=
  .ite (.stallBy wf) (.startPend (.drew wf))

theorem AnswerWf.vfdiv {d a b : BitVec 7} {t : BitVec 1} (wf : s.MemWf) : AnswerWf (execVfdiv d a b t s) :=
  .issue wf (fun _ => .longRes wf)

theorem AnswerWf.vsqrt {d a : BitVec 7} {t : BitVec 1} (wf : s.MemWf) : AnswerWf (execVsqrt d a t s) :=
  .issue wf (fun _ => .longRes wf)

theorem State.MemWf.sfu {c : Ctx} {d a : BitVec 7} {t : BitVec 1} {f : FNum → NumOp} (wf : s.MemWf) :
    (s.sfu c d a t f).MemWf :=
  .longRes wf

theorem AnswerWf.vrcp {d a : BitVec 7} {t : BitVec 1} (wf : s.MemWf) : AnswerWf (execVrcp d a t s) :=
  .issue wf (fun _ => .sfu wf)

theorem AnswerWf.vrsq {d a : BitVec 7} {t : BitVec 1} (wf : s.MemWf) : AnswerWf (execVrsq d a t s) :=
  .issue wf (fun _ => .sfu wf)

theorem AnswerWf.vexp2 {d a : BitVec 7} {t : BitVec 1} (wf : s.MemWf) : AnswerWf (execVexp2 d a t s) :=
  .issue wf (fun _ => .sfu wf)

theorem AnswerWf.vlog2 {d a : BitVec 7} {t : BitVec 1} (wf : s.MemWf) : AnswerWf (execVlog2 d a t s) :=
  .issue wf (fun _ => .sfu wf)

theorem AnswerWf.vsin {d a : BitVec 7} {t : BitVec 1} (wf : s.MemWf) : AnswerWf (execVsin d a t s) :=
  .issue wf (fun _ => .sfu wf)

theorem AnswerWf.vcos {d a : BitVec 7} {t : BitVec 1} (wf : s.MemWf) : AnswerWf (execVcos d a t s) :=
  .issue wf (fun _ => .sfu wf)

theorem AnswerWf.vcvt {d a : BitVec 7} {y : BitVec 4} {t : BitVec 1} (wf : s.MemWf) : AnswerWf (execVcvt d a y t s) :=
  .issue wf (fun _ => .putRes wf)

theorem AnswerWf.vamax {d a : BitVec 7} {n : BitVec 2} (wf : s.MemWf) : AnswerWf (execVamax d a n s) :=
  .issue wf (fun _ => .put wf)

theorem AnswerWf.vscl {d a : BitVec 7} {f : BitVec 3} {t : BitVec 1} (wf : s.MemWf) : AnswerWf (execVscl d a f t s) :=
  .issue wf (fun _ => .putRes wf)

theorem AnswerWf.vcvtn {d a : BitVec 7} {f : BitVec 3} {t : BitVec 1} (wf : s.MemWf) :
    AnswerWf (execVcvtn d a f t s) :=
  .issue wf (fun _ => .putRes wf)

theorem AnswerWf.vrand {d : BitVec 7} {n : BitVec 2} (wf : s.MemWf) : AnswerWf (execVrand d n s) :=
  .issue wf (fun _ => .advance (.drew (.writeVs wf)))

end Sys2Proof.Machine
end

section
/-! SUPPORT. Memory in its canonical form through memory instructions, copies and matrix operations. -/

namespace Sys2Proof.Machine

variable {s : State}

/-! ## Machine/Memory.lean -/

theorem State.MemWf.formAll {c : Ctx} {h : BitVec 4} {a : BitVec 7} {n : Nat} {k : AccKind} (wf : s.MemWf) :
    (s.formAll c h a n k).2.MemWf :=
  .foldl_2 (.snd wf) (fun _ _ wf => .snd (.formAccess wf))

theorem State.MemWf.logRegs {c : Ctx} {d n : Nat} (wf : s.MemWf) : (s.logRegs c d n).2.MemWf :=
  .foldl_2 (.snd wf) (fun _ _ wf => .ite_2 (.logFirst wf) wf)

theorem State.MemWf.logDst {c : Ctx} {d n : Nat} {fs : Forms} (wf : s.MemWf) : (s.logDst c d n fs).2.MemWf := by
  unfold State.logDst
  refine .ite_2 (.snd wf) ?_
  split
  · next e1 =>
      exact .snd (.of_2 (.logRegs wf) e1)
  · next e1 =>
      exact .snd (.failAlso (.of_2 (.logRegs wf) e1))

theorem State.MemWf.loadOp {c : Ctx} {p : Pend} {h : BitVec 4} {a : BitVec 7} {n : Nat} {k : AccKind} (wf : s.MemWf) :
    (s.loadOp c p h a n k).MemWf :=
  .ite (.stallBy wf) (.ite (.stallBy wf) (.andThen (.logDst (.formAll wf)) fun wf => .ite (.startPend wf) wf))

theorem AnswerWf.ld {d a : BitVec 7} {h : BitVec 4} {z : BitVec 3} {x : BitVec 1} (wf : s.MemWf) :
    AnswerWf (execLd d a h z x s) :=
  .issue wf (fun _ => .loadOp wf)

theorem AnswerWf.lda {d a : BitVec 7} {h : BitVec 4} {z k : BitVec 3} (wf : s.MemWf) :
    AnswerWf (execLda d a h z k s) :=
  .issue wf (fun _ => .ite (.stallBy wf) (.ite (.stallBy wf) (.loadOp wf)))

theorem State.MemWf.storedTile {wk : Nat} {p : Pend} (wf : s.MemWf) : (s.storedTile wk p).MemWf := by
  unfold State.storedTile
  split
  · exact .updWg wf
  · exact wf

theorem State.MemWf.storeOp {c : Ctx} {p : Pend} {h : BitVec 4} {fs : Forms} {d n : Nat} (wf : s.MemWf) :
    (s.storeOp c p h fs d n).MemWf :=
  .startPend (.updGroup wf)

theorem AnswerWf.st {d a : BitVec 7} {h : BitVec 4} {z : BitVec 3} (wf : s.MemWf) : AnswerWf (execSt d a h z s) :=
  .issue wf (fun _ => .ite (.stallBy wf) (.ite (.stallBy wf) (.storeOp (.formAll wf))))

theorem State.MemWf.escape {c : Ctx} {code : Nat → Option Nat} (wf : s.MemWf) : (s.escape c code).MemWf :=
  .failBlock wf

theorem State.MemWf.relWith {c : Ctx} {r scope : Nat} {own : List (Option Nat × Nat)} {code : Nat → Option Nat}
    {held : Bool} {k : State → State} (wf : s.MemWf) (wf1 : ∀ t, t.MemWf → (k t).MemWf) :
    (s.relWith c r scope own code held k).MemWf := by
  unfold State.relWith
  split
  · exact .stallBy (.narrow wf)
  · exact .deliver wf
  · exact .raiseAll wf
  · exact .ite (.escape wf) (wf1 _ (.released wf))

theorem State.MemWf.relThen {c : Ctx} {r scope : Nat} {own : List (Option Nat × Nat)} {code : Nat → Option Nat}
    {k : State → State} (wf : s.MemWf) (wf1 : ∀ s, s.MemWf → (k s).MemWf) : (s.relThen c r scope own code k).MemWf :=
  .relWith wf wf1

theorem AnswerWf.strl {d a : BitVec 7} {h : BitVec 4} {z k : BitVec 3} (wf : s.MemWf) :
    AnswerWf (execStrl d a h z k s) :=
  .issue wf (fun _ => .ite (.advance wf) (.ite (.stallBy wf)
    (.ite (.stallBy (.narrow wf)) (.ite (.stallBy wf) (.relThen (.formAll wf) (fun _ wf => .storeOp wf))))))

theorem State.MemWf.takeWatches {c : Ctx} {id tag : Nat} {ps : List Access} (wf : s.MemWf) :
    (s.takeWatches c id tag ps).MemWf :=
  .foldl wf (fun _ _ wf => .ite wf (.updGroup (.takeId wf)))

theorem AnswerWf.ldw {d a : BitVec 7} {h : BitVec 4} {z t : BitVec 3} (wf : s.MemWf) :
    AnswerWf (execLdw d a h z t s) :=
  .issue wf (fun _ => .ite (.stallBy wf) (.andThen (.logDst (.formAll wf)) fun wf => .ite wf
    (.takeWatches (.startPend wf))))

theorem State.MemWf.chkStruck {c : Ctx} {mask : BitVec 8} (wf : s.MemWf) : (s.chkStruck c mask).2.MemWf := by
  unfold State.chkStruck
  dsimp only
  refine .foldl_2 (.snd wf) (fun _ _ wf => ?_)
  split
  · exact .snd wf
  · split
    · next e2 =>
        exact .snd (.of_2 (.rrTake wf) e2)
    · next e2 =>
        exact .snd (.rrRecord (.rrNumber (.of_2 (.rrTake wf) e2)))
    · next e2 =>
        exact .snd (.rrNumber (.of_2 (.rrTake wf) e2))

theorem AnswerWf.chk {m : BitVec 8} {o : BitVec 10} (wf : s.MemWf) : AnswerWf (execChk m o s) := by
  unfold execChk
  refine .issue wf (fun _ => .ite (.stallBy wf) ?_)
  split
  · next e1 =>
      exact .stallBy (.of_2 (.chkStruck wf) e1)
  · next e1 =>
      exact .transfer (.andThen (.of_2 (.chkStruck wf) e1) fun wf => .andThen (.ite_2 (.snd wf) (.landing wf))
        fun wf => .ite (.updGroup wf) (.emitL (.updGroup wf)))

theorem AnswerWf.fence {p : BitVec 1} {k sc : BitVec 3} (wf : s.MemWf) : AnswerWf (execFence p k sc s) :=
  .issue wf (fun _ => .ite (.advance wf) (.ite (.andThen (.ite (.draw wf) wf) fun wf1 => .ite
    (.relWith (.updGroup wf1) (fun _ wf => .ite (.stallBy wf) (.advance wf)))
    (.relThen wf1 (fun _ wf => .ite (.stallBy wf) (.advance wf))))
    (.ite (.stallBy wf) (.ite (.escape wf) (.advance wf)))))

theorem State.MemWf.rrIssue {c : Ctx} {k hash : Nat} (wf : s.MemWf) : (s.rrIssue c k hash).2.MemWf := by
  unfold State.rrIssue
  split
  · next e1 =>
      exact .snd (.of_2 (.rrTake wf) e1)
  · next e1 =>
      exact .snd (.rrNumber (.of_2 (.rrTake wf) e1))
  · next e1 =>
      exact .snd (.rrNumber (.of_2 (.rrTake wf) e1))

theorem State.MemWf.atomOp {c : Ctx} {d a : BitVec 7} {h : BitVec 4} {k : BitVec 3} {n : BitVec 1} {o : BitVec 3}
    {ord : AtomOrd} (wf : s.MemWf) : (s.atomOp c d a h k n o ord).MemWf := by
  unfold State.atomOp
  dsimp only
  refine .ite (.advance wf) (.ite (.stallBy wf) (.ite (.stallBy (.narrow wf))
    (.ite (.stallBy wf) (.ite (.stallBy wf) (.ite (.relThen (.formAll wf) (fun _ wf => ?_))
    (.ite (.escape (.formAll wf)) ?_))))))
  · split
    · next e1 =>
        exact .stallBy (.of_2 (.ite_2 (.rrIssue wf) (.snd wf)) e1)
    · next e1 =>
        exact .andThen (.ite_2 (.rrIssue wf) (.snd wf)) fun wf =>
          .andThen (.snd (.of_2 wf e1)) fun wf1 =>
          .andThen (.logDst (.of_2 wf e1)) fun wf =>
          .andThen (.updGroup (.ite_2 wf wf1)) fun wf =>
          .ite (.startPend wf) wf
  · split
    · next e1 =>
        exact .stallBy (.of_2 (.ite_2 (.rrIssue (.formAll wf)) (.snd (.formAll wf))) e1)
    · next e1 =>
        exact .andThen (.snd (.formAll wf)) fun wf1 =>
          .andThen (.rrIssue (.formAll wf)) fun wf =>
          .andThen (.of_2 (.ite_2 wf wf1) e1) fun wf =>
          .andThen (.ite_2 (.logDst wf) (.snd wf)) fun wf =>
          .ite (.startPend (.updGroup wf)) (.updGroup wf)

theorem AnswerWf.atom {d a : BitVec 7} {h : BitVec 4} {k : BitVec 3} {n : BitVec 1} {o : BitVec 3} (wf : s.MemWf) :
    AnswerWf (execAtom d a h k n o s) :=
  .issue wf (fun _ => .atomOp wf)

theorem AnswerWf.atomAcq {d a : BitVec 7} {h : BitVec 4} {k : BitVec 3} {n : BitVec 1} {o : BitVec 3} (wf : s.MemWf) :
    AnswerWf (execAtomAcq d a h k n o s) :=
  .issue wf (fun _ => .atomOp wf)

theorem AnswerWf.atomRel {d a : BitVec 7} {h : BitVec 4} {k : BitVec 3} {n : BitVec 1} {o : BitVec 3} (wf : s.MemWf) :
    AnswerWf (execAtomRel d a h k n o s) :=
  .issue wf (fun _ => .atomOp wf)

theorem AnswerWf.atomAr {d a : BitVec 7} {h : BitVec 4} {k : BitVec 3} {n : BitVec 1} {o : BitVec 3} (wf : s.MemWf) :
    AnswerWf (execAtomAr d a h k n o s) :=
  .issue wf (fun _ => .atomOp wf)

theorem AnswerWf.lr {d a : BitVec 7} {h : BitVec 4} {z : BitVec 3} {q : BitVec 1} {k : BitVec 3} (wf : s.MemWf) :
    AnswerWf (execLr d a h z q k s) := by
  unfold execLr
  dsimp only
  refine .issue wf (fun _ => .ite (.stallBy wf) (.ite (.stallBy wf) (.ite (.advance wf) ?_)))
  split
  · next e1 =>
      exact .stallBy (.of_2 (.ite_2 (.snd (.formAll wf)) (.rrIssue (.formAll wf))) e1)
  · next e1 =>
      exact .andThen (.snd (.formAll wf)) fun wf1 =>
        .andThen (.rrIssue (.formAll wf)) fun wf =>
        .andThen (.of_2 (.ite_2 wf1 wf) e1) fun wf =>
        .ite (.startPend (.logDst wf)) (.logDst wf)

theorem AnswerWf.sc {d a : BitVec 7} {h : BitVec 4} {z : BitVec 3} {q : BitVec 1} {k : BitVec 3} (wf : s.MemWf) :
    AnswerWf (execSc d a h z q k s) := by
  unfold execSc
  dsimp only
  refine .issue wf (fun _ => .ite (.advance wf) (.ite (.stallBy wf)
    (.ite (.relThen (.formAll wf) (fun _ wf => ?_)) ?_)))
  · split
    · next e1 =>
        exact .stallBy (.of_2 (.ite_2 (.snd wf) (.rrIssue wf)) e1)
    · next e1 =>
        exact .andThen (.ite_2 (.snd wf) (.rrIssue wf)) fun wf =>
          .andThen (.logDst (.of_2 wf e1)) fun wf =>
          .ite (.startPend (.updGroup wf)) (.updGroup wf)
  · split
    · next e1 =>
        exact .stallBy (.of_2 (.ite_2 (.snd (.formAll wf)) (.rrIssue (.formAll wf))) e1)
    · next e1 =>
        exact .andThen (.snd (.formAll wf)) fun wf1 =>
          .andThen (.rrIssue (.formAll wf)) fun wf =>
          .andThen (.of_2 (.ite_2 wf1 wf) e1) fun wf =>
          .andThen (.updGroup (.logDst wf)) fun wf =>
          .ite (.startPend wf) wf

theorem AnswerWf.pref {a : BitVec 7} {h : BitVec 4} {v : BitVec 1} (wf : s.MemWf) : AnswerWf (execPref a h v s) := by
  unfold execPref
  refine .issue wf (fun _ => .endInstr (.ite (.formAll wf) (.foldl (.formAll wf) (fun _ _ wf => ?_))))
  split
  · exact .prefetch wf
  · exact wf

theorem State.MemWf.dropRO {core : Nat} (wf : s.MemWf) : (s.dropRO core).MemWf := .setMM (.dropR wf)

theorem AnswerWf.cbinv (wf : s.MemWf) : AnswerWf (execCbinv s) :=
  .issue wf (fun _ => .ite (.advance wf) (.advance (.dropRO wf)))

theorem AnswerWf.hload {e h : BitVec 4} (wf : s.MemWf) : AnswerWf (execHload e h s) :=
  .issue wf (fun _ => .ite (.advance wf) (.ite (.raiseAll wf) (.updGroup wf)))

theorem State.MemWf.pieces {c : Ctx} {va n : Nat} (wf : s.MemWf) : (s.pieces c va n).2.MemWf := by
  unfold State.pieces
  dsimp only
  refine .foldl_2 (.snd wf) (fun _ _ wf => ?_)
  split
  · exact .snd wf
  · split
    · next e2 =>
        exact .snd (.of_2 (.vaOf wf) e2)
    · next e2 =>
        split
        · exact .andThen (.of_2 (.vaOf wf) e2) fun wf =>
            .ite_2 (.snd wf) (.snd wf)
        · exact .snd (.of_2 (.vaOf wf) e2)

theorem State.MemWf.fillHalo {c : Ctx} {h : Handle} {t : State} (wf : s.MemWf) (e : s.fillHalo c h = some t) :
    t.MemWf := by
  refine List.foldlRecOn (motive := fun r : Option State => ∀ t ∈ r, t.MemWf) _ _ ?_ ?_ t e
  · intro t ht
    exact (Option.some.inj ht) ▸ wf
  · intro r wf o _ t ht
    beta_reduce at ht
    split at ht
    · exact absurd ht nofun
    · next u =>
        have wfu : u.MemWf := wf u rfl
        split at ht
        · exact (Option.some.inj ht) ▸ wfu
        · split at ht
          · next e1 =>
              split at ht
              next e2 =>
                exact (Option.some.inj ht) ▸ .foldl (.of_22 (.readPa (.of_2 (.vaOf wfu) e1)) e2) (fun _ _ wf => .scrWrite wf)
          · exact absurd ht nofun

theorem State.MemWf.bindHandle {c : Ctx} {e h : Nat} (wf : s.MemWf) : (s.bindHandle c e h).MemWf := by
  unfold State.bindHandle
  split
  · next e1 =>
      exact .raiseAll (.of_2 (.vaOf wf) e1)
  · next t e1 =>
      have wft : t.MemWf := .of_2 (.vaOf wf) e1
      refine .ite (.raiseAll wft) ?_
      split
      next u e2 =>
      have wfu : u.MemWf := .of_22 (.readPa wft) e2
      extract_lets
      refine .ite (.raiseAll wfu) ?_
      split
      next v e3 =>
      have wfv : v.MemWf := by
        refine .of_2 (.ite_2 ?_ (.snd wfu)) e3
        split
        · next e4 =>
            exact .snd (.of_2 (.pieces wfu) e4)
        · next e4 =>
            split <;> exact .snd (.of_2 (.pieces wfu) e4)
      split
      · exact .raiseAll wfv
      · split
        next w e5 =>
        have wfw : w.MemWf := .of_2 (.ite_2 (.logFirst wfv) (.snd wfv)) e5
        refine .ite wfw ?_
        split
        · exact .raiseAll wfw
        · next x e6 =>
            have wfx : x.MemWf := by
              split at e6
              · exact .fillHalo wfw e6
              · exact (Option.some.inj e6) ▸ wfw
            exact .advance (.updWg (.elsewhere wfx))

theorem AnswerWf.hloadBinding {g : Nat} (wf : s.MemWf) : AnswerWf (execHloadBinding g s) := by
  unfold execHloadBinding
  refine .next ?_
  split
  · exact wf
  · split
    · exact wf
    · split
      · exact wf
      · refine .ite wf ?_
        split
        · exact .bindHandle wf
        · exact wf

theorem State.MemWf.logTarget {c : Ctx} {a : Access} (wf : s.MemWf) : (s.logTarget c a).2.MemWf := by
  unfold State.logTarget
  refine .ite_2 (.snd wf) ?_
  split
  · exact .logFirst (.linePre wf)
  · exact .foldl_2 (.snd wf) (fun _ _ wf => .ite_2 (.ite_2 (.logFirst (.scrLook wf)) wf) wf)
  · exact .snd wf

theorem State.MemWf.late {wk : Nat} (wf : s.MemWf) : (s.late wk).MemWf := .updWg wf

theorem State.MemWf.loadLane {c : Ctx} {p : Pend} {l : Nat} (wf : s.MemWf) : (s.loadLane c p l).2.2.MemWf :=
  .readParts wf

theorem State.MemWf.loadLanes {c : Ctx} {p : Pend} (wf : s.MemWf) : (s.loadLanes c p).2.MemWf :=
  .foldl_2 (.snd wf) (fun _ _ wf => .snd (.loadLane wf))

theorem State.MemWf.watchLanes {c : Ctx} {p : Pend} (wf : s.MemWf) : (s.watchLanes c p).2.MemWf := by
  unfold State.watchLanes
  dsimp only
  refine .foldl_2 (.snd wf) (fun _ _ wf => ?_)
  split
  · exact .snd (.updGroup (.watchedRead wf))
  · exact .snd (.readLine wf)

theorem State.MemWf.atomLane {c : Ctx} {o ty : Nat} {a : Access} (wf : s.MemWf) :
    (s.atomLane c o ty a).2.2.MemWf := by
  unfold State.atomLane
  dsimp only
  split
  · exact .thd (.andThen (.logTarget (.readPart wf)) fun wf => .ite (.writePart wf) wf)
  · refine .ite_22 (.thd ?_) (.thd (.andThen (.logTarget (.readPart wf)) fun wf => .ite (.writePart wf) wf))
    split
    · exact .own (.readPart wf)
    · exact .readPart wf

theorem State.MemWf.lateParts {c : Ctx} {p : Pend} (wf : s.MemWf) : (s.lateParts c p).MemWf := .ite (.late wf) wf

theorem State.MemWf.atomLanes {c : Ctx} {o ty : Nat} {p : Pend} (wf : s.MemWf) : (s.atomLanes c o ty p).2.MemWf :=
  .foldl_2 (.snd (.draw wf)) (fun _ _ wf => .ite_2 wf (.snd (.atomLane wf)))

theorem State.MemWf.scLane {c : Ctx} {a : Access} (wf : s.MemWf) : (s.scLane c a).2.MemWf := by
  unfold State.scLane
  split
  · exact .ite_2 (.andThen (.logTarget (.updGroup wf)) fun wf => .ite_2 (.snd (.writePart wf)) (.snd wf))
      (.snd (.updGroup wf))
  · exact .snd wf

theorem State.MemWf.lrLanes {c : Ctx} {p : Pend} (wf : s.MemWf) : (s.lrLanes c p).2.MemWf := by
  unfold State.lrLanes
  refine .foldl_2 (.snd wf) (fun _ _ wf => ?_)
  split
  · exact .snd (.reserve (.readPart wf))
  · exact wf

theorem State.MemWf.mergedClean {core : Nat} {ps : List Access} (wf : s.MemWf) : (s.mergedClean core ps).MemWf :=
  .foldl (.foldl wf (fun _ _ wf => .ite (.dropFlaws (.updLine wf)) wf)) (fun _ _ wf => .ite (.updWg wf) wf)

theorem State.MemWf.storeLanes {c : Ctx} {p : Pend} (wf : s.MemWf) : (s.storeLanes c p).MemWf :=
  .lateParts (.storedTile (.andThen (.foldl wf (fun _ _ wf => .ite (.writePart (.logTarget wf)) (.logTarget wf)))
    fun wf => .ite (.mergedClean wf) wf))

theorem State.MemWf.finishPend {gk : Nat} {p : Pend} (wf : s.MemWf) : (s.finishPend gk p).MemWf :=
  .flagDown (.updGroup wf)

theorem State.MemWf.writeBack {c : Ctx} {p : Pend} {m : Lanes} {f : Nat → Nat → Val} (wf : s.MemWf) :
    (s.writeBack c p m f).MemWf :=
  .foldl wf (fun _ _ wf => .ite wf (.ite (.ite (.putReg (.logFirst wf)) (.logFirst wf)) (.putReg wf)))

theorem State.MemWf.deliverRet {c : Ctx} {p : Pend} {m : Lanes} {f : Nat → Nat → Val} (wf : s.MemWf) :
    (s.deliverRet c p m f).MemWf :=
  .ite (.finishPend wf) (.ite (.late (.finishPend wf)) (.ite (.updGroup wf) (.finishPend (.writeBack wf))))

theorem State.MemWf.performRet {c : Ctx} {p : Pend} (wf : s.MemWf) : (s.performRet c p).MemWf := by
  unfold State.performRet
  split
  · exact .deliverRet (.loadLanes wf)
  · exact .deliverRet (.watchLanes wf)
  · exact .deliverRet (.rrRecord (.storedTile (.atomLanes wf)))
  · exact .deliverRet (.rrRecord (.lrLanes wf))
  · exact .deliverRet (.rrRecord (.foldl_2 (.snd (.draw wf)) (fun _ _ wf => .snd (.scLane wf))))
  · exact .deliverRet wf
  · exact .deliverRet wf
  · exact .deliverRet wf
  · exact wf

theorem AnswerWf.returnWritten {g id : Nat} (wf : s.MemWf) : AnswerWf (execReturnWritten g id s) := by
  unfold execReturnWritten
  refine .next ?_
  split
  · exact wf
  · split
    · exact wf
    · refine .ite (.finishPend wf) ?_
      split
      · exact wf
      · exact wf
      · exact .ite (.performRet wf) wf

theorem AnswerWf.writesPerformed {g id : Nat} (wf : s.MemWf) : AnswerWf (execWritesPerformed g id s) := by
  unfold execWritesPerformed
  refine .next ?_
  split
  · exact wf
  · split
    · exact wf
    · refine .ite wf ?_
      split
      · exact .finishPend (.storeLanes wf)
      · exact .finishPend (.lateParts (.storedTile (.atomLanes wf)))
      · exact wf

theorem AnswerWf.delayedAccessFault {g id : Nat} (wf : s.MemWf) : AnswerWf (execDelayedAccessFault g id s) := by
  unfold execDelayedAccessFault
  refine .next ?_
  split
  · exact wf
  · split
    · exact wf
    · refine .ite wf (.andThen (.finishPend (.updGroup wf)) fun wf1 => .andThen (.ite wf1 (.updGroup wf)) fun wf1 =>
        .ite wf1 (.foldl wf1 (fun _ _ wf => .ite wf ?_)))
      split
      · exact wf
      · split
        · exact wf
        · split
          · exact wf
          · exact .ite wf (.takeFaultAt wf)

theorem AnswerWf.watchVerdict {g n : Nat} (wf : s.MemWf) : AnswerWf (execWatchVerdict g n s) := by
  unfold execWatchVerdict
  refine .next ?_
  split
  · exact wf
  · split
    · exact wf
    · refine .ite wf ?_
      split
      · next e3 =>
          exact .updGroup (.of_2 (.verdict wf) e3)
      · next e3 =>
          exact .strike (.of_2 (.verdict wf) e3)

/-! ## Machine/Copy.lean -/

theorem State.MemWf.enqueue {c : Ctx} {o : QOp} {code : Nat → Option Nat} (wf : s.MemWf) :
    (s.enqueue c o code).MemWf :=
  .endInstr (.updGroup (.takeId wf))

theorem State.MemWf.spanPages {c : Ctx} {lane : Nat} {r : Span} (wf : s.MemWf) : (s.spanPages c lane r).2.MemWf :=
  .ite_2 (.snd wf) (.ite_2 (.snd wf) (.ite_2 (.snd wf) (.foldl_2 (.snd wf) (fun _ _ wf => .snd (.pageAt wf)))))

theorem State.MemWf.spansParts {c : Ctx} {rs : List Span} {lane : Nat} (wf : s.MemWf) :
    (s.spansParts c rs lane).2.MemWf := by
  unfold State.spansParts
  dsimp only
  refine .ite_2 (.snd wf) (.ite_2 (.snd wf) ?_)
  split <;> exact .snd (.foldl_2 (.snd wf) (fun _ _ wf => .snd (.spanPages wf)))

theorem State.MemWf.rangeParts {c : Ctx} {addr n al : Nat} {k : AccKind} {lane : Nat} (wf : s.MemWf) :
    (s.rangeParts c addr n al k lane).2.MemWf := by
  unfold State.rangeParts
  split
  · next e1 =>
      exact .snd (.of_2 (.spansParts wf) e1)
  · next e1 =>
      exact .snd (.of_2 (.spansParts wf) e1)

theorem State.MemWf.engSpans {c : Ctx} {rs : List Span} (wf : s.MemWf) : (s.engSpans c rs).2.MemWf := by
  unfold State.engSpans
  split
  · next e1 =>
      exact .snd (.of_2 (.spansParts wf) e1)
  · next e1 =>
      exact .andThen (.of_2 (.spansParts wf) e1) fun wf =>
        .ite_2 (.snd wf) (.snd wf)

theorem State.MemWf.engParts {c : Ctx} {addr n al : Nat} {k : AccKind} (wf : s.MemWf) :
    (s.engParts c addr n al k).2.MemWf := by
  unfold State.engParts
  split
  · next e1 =>
      exact .snd (.of_2 (.engSpans wf) e1)
  · next e1 =>
      exact .snd (.of_2 (.engSpans wf) e1)

theorem State.MemWf.engMove {c : Ctx} {src dst : Span} (wf : s.MemWf) : (s.engMove c src dst).2.MemWf := by
  unfold State.engMove
  split
  · next e1 =>
      exact .snd (.of_2 (.engSpans wf) e1)
  · next e1 =>
      exact .snd (.of_2 (.engSpans wf) e1)
  · next e1 =>
      exact .snd (.of_2 (.engSpans wf) e1)

theorem State.MemWf.engRead {c : Ctx} {ps : List Access} (wf : s.MemWf) : (s.engRead c ps).2.MemWf :=
  .foldl_2 (.snd wf) (fun _ _ wf => .snd (.readPart wf))

theorem State.MemWf.engLog {c : Ctx} {a : Access} (wf : s.MemWf) : (s.engLog c a).2.MemWf := by
  unfold State.engLog
  refine .ite_2 (.snd wf) ?_
  split
  · exact .logFirst (.linePre wf)
  · extract_lets
    split
    · split
      next e =>
        refine .logFirst (.of_22 ?_ e)
        exact .foldl_22 wf (fun _ _ wf => .thd (.scrLook wf))
    · exact .snd wf
  · exact .snd wf

theorem State.MemWf.engWrite {c : Ctx} {gen : Nat} {ps : List Access} {bs : List EByte} (wf : s.MemWf) :
    (s.engWrite c gen ps bs).MemWf :=
  .foldl (.updGroup wf) (fun _ _ wf => .ite (.late wf)
    (.ite (.engLog wf) (.foldl (.engLog wf) (fun _ _ wf => .writePart wf))))

theorem State.MemWf.cpyLane {c : Ctx} {d a b l : Nat} (wf : s.MemWf) : (s.cpyLane c d a b l).2.MemWf := by
  unfold State.cpyLane
  refine .ite_2 (.snd wf) (.ite_2 (.snd wf) ?_)
  split
  · next e1 =>
      exact .snd (.of_2 (.spansParts wf) e1)
  · next e1 =>
      exact .snd (.of_2 (.spansParts wf) e1)
  · next e1 =>
      exact .snd (.of_2 (.spansParts wf) e1)

theorem AnswerWf.cpy {d a b : BitVec 7} {q : BitVec 2} (wf : s.MemWf) : AnswerWf (execCpy d a b q s) :=
  .issue wf (fun _ => .ite (.advance wf) (.ite (.stallBy wf)
    (.ite (.stallBy wf) (.ite (.stallBy wf) (.andThen (.foldl_2 (.snd wf) (fun _ _ wf => .snd (.cpyLane wf)))
    fun wf => .ite (.endInstr wf) (.enqueue (.updGroup wf)))))))

theorem State.MemWf.descCopy {c : Ctx} {d a b : BitVec 7} {q : BitVec 3} {op : Nat → Nat → Nat → EngOp} (wf : s.MemWf) :
    (s.descCopy c d a b q op).MemWf := by
  unfold State.descCopy
  refine .ite (.stallBy wf) (.ite (.stallBy wf) (.ite (.stallBy wf) (.ite (.raiseAll wf) ?_)))
  split
  · next e1 =>
      exact .raiseAll (.of_2 (.formAccess wf) e1)
  · next e1 =>
      exact .enqueue (.of_2 (.formAccess wf) e1)

theorem AnswerWf.cpyb {d a b : BitVec 7} {q : BitVec 3} (wf : s.MemWf) : AnswerWf (execCpyb d a b q s) :=
  .issue wf (fun _ => .descCopy wf)

theorem AnswerWf.cpyxG {d a b : BitVec 7} {q : BitVec 3} (wf : s.MemWf) : AnswerWf (execCpyxG d a b q s) :=
  .issue wf (fun _ => .descCopy wf)

theorem AnswerWf.cpyxS {d a b : BitVec 7} {q : BitVec 3} (wf : s.MemWf) : AnswerWf (execCpyxS d a b q s) :=
  .issue wf (fun _ => .descCopy wf)

theorem AnswerWf.qfence {m : BitVec 6} (wf : s.MemWf) : AnswerWf (execQfence m s) :=
  .issue wf (fun _ => .advance (.updGroup wf))

theorem State.MemWf.run_s {self : Run} (wf : self.s.MemWf) : (Run.s self).MemWf := wf

theorem State.MemWf.run_start (wf : s.MemWf) : (Run.start s).s.MemWf := .inRun wf

theorem State.MemWf.run_plain {r : Run} {c : Ctx} {gen src dst n : Nat} (wf : r.s.MemWf) :
    (Run.plain r c gen src dst n).s.MemWf := by
  unfold Run.plain
  refine .iteRun wf ?_
  split
  · next e1 =>
      exact .inRun (.of_2 (.engMove wf) e1)
  · next e1 =>
      exact .inRun (.engWrite (.engRead (.of_2 (.engMove wf) e1)))

theorem State.MemWf.run_group {r : Run} {c : Ctx} {gen : Nat} {d : Desc} {src dst : Nat} (wf : r.s.MemWf) :
    (Run.group r c gen d src dst).s.MemWf := by
  unfold Run.group
  dsimp only
  refine .iteRun wf ?_
  split
  · next e1 =>
      exact .inRun (.of_2 (.engMove wf) e1)
  · next e1 =>
      exact .inRun (.engWrite (.engRead (.of_2 (.engMove wf) e1)))

theorem State.MemWf.run_row {r : Run} {c : Ctx} {gen : Nat} {d : Desc} {src dst i : Nat} (wf : r.s.MemWf) :
    (Run.row r c gen d src dst i).s.MemWf := by
  unfold Run.row
  refine .iteRun wf ?_
  split
  · refine .iteRun (.inRun (.iteRun (.run_plain wf) (.foldlRun wf (fun _ _ wf => ?_))))
      (.iteRun (.run_plain wf) (.foldlRun wf (fun _ _ wf => ?_)))
    · split
      · exact .run_group wf
      · exact .iteRun (.inRun wf) wf
    · split
      · exact .run_group wf
      · exact .iteRun (.inRun wf) wf
  · exact .inRun wf

theorem State.MemWf.run_fill {r : Run} {c : Ctx} {gen : Nat} {sa : Option Nat} {e : Nat} {t : Option PTag}
    (wf : r.s.MemWf) : (Run.fill r c gen sa e t).s.MemWf := by
  unfold Run.fill
  split
  · exact wf
  · split
    · next e2 =>
        exact wf
    · next e2 =>
        refine .inRun (.engWrite ?_)
        split
        · exact .snd (.of_2 (.engParts wf) e2)
        · exact .snd (.draw (.of_2 (.engParts wf) e2))

theorem State.MemWf.run_entry {r : Run} {c : Ctx} {gen : Nat} {d : Desc} {scatter : Bool} {side list i : Nat}
    (wf : r.s.MemWf) : (Run.entry r c gen d scatter side list i).s.MemWf := by
  unfold Run.entry
  refine .iteRun wf ?_
  extract_lets e handled fill
  have wfh : ∀ r : Run, r.s.MemWf → (handled r).s.MemWf := fun _ wf => .iteRun (.inRun wf) wf
  have wff : ∀ t (r : Run), r.s.MemWf → (fill r t).s.MemWf := fun _ _ wf => .iteRun wf (.run_fill wf)
  split
  · exact .inRun wf
  · split
    · next e1 =>
        exact .inRun (.of_2 (.engParts wf) e1)
    · next e1 =>
        split
        next e2 =>
          have wfr := State.MemWf.of_2 (.engRead (.of_2 (.engParts wf) e1)) e2
          extract_lets
          split
          · exact wfh _ (wff _ _ (.inRun wfr))
          · refine .iteRun (wfh _ (.inRun wfr)) (.iteRun (wfh _ (wff _ _ (.inRun wfr))) ?_)
            split
            · split
              split
              · next e3 =>
                  exact .inRun (.of_2 (.engMove wfr) e3)
              · next e3 =>
                  split
                  next e4 =>
                    exact wfh _ (.inRun (.engWrite (.of_2 (.engRead (.of_2 (.engMove wfr) e3)) e4)))
            · exact .inRun wfr

theorem State.MemWf.qOp_runLocal {o : QOp} {c : Ctx} (wf : s.MemWf) : (QOp.runLocal o c s).s.MemWf := by
  unfold QOp.runLocal
  refine .iteRun (.inRun (.run_start wf)) ?_
  split
  · exact .iteRun (.inRun (.run_start wf)) (.foldlRun (.run_start wf)
      (fun _ _ wf => .inRun (.engWrite (.engRead wf))))
  · exact .foldlRun (.run_start wf) (fun _ _ wf => .run_row wf)
  · exact .iteRun (.inRun (.run_start wf)) (.foldlRun (.run_start wf) (fun _ _ wf => .run_entry wf))
  · exact .run_start wf

theorem State.MemWf.writeStatus {c : Ctx} {o : QOp} {v : Nat} (wf : s.MemWf) : (s.writeStatus c o v).2.MemWf := by
  unfold State.writeStatus
  split
  · exact .snd wf
  · split
    · next e2 =>
        exact .snd (.of_2 (.engParts wf) e2)
    · next e2 =>
        exact .snd (.engWrite (.of_2 (.engParts wf) e2))

theorem State.MemWf.finishOp {c : Ctx} {o : QOp} {code : Nat} {escape : Bool} (wf : s.MemWf) :
    (s.finishOp c o code escape).MemWf :=
  .andThen (.updWg (.updGroup wf)) fun wf =>
  .ite (.flagDown wf) wf

theorem State.MemWf.emitCopy {c : Ctx} {o : QOp} {kind bytes : Nat} (wf : s.MemWf) :
    (s.emitCopy c o kind bytes).MemWf :=
  .emitL wf

theorem State.MemWf.updOp {gk id : Nat} {f : QOp → QOp} (wf : s.MemWf) : (s.updOp gk id f).MemWf := .updGroup wf

theorem State.MemWf.bindDesc {c : Ctx} {o : QOp} (wf : s.MemWf) : (s.bindDesc c o).2.2.MemWf := by
  unfold State.bindDesc
  split
  · exact .thd wf
  · split
    · next e2 =>
        exact .thd (.of_2 (.engParts wf) e2)
    · next e2 =>
        exact .andThen (.of_2 (.engParts wf) e2) fun wf =>
          .andThen (.thd (.engRead wf)) fun wf =>
          .ite_22 wf (.ite_22 wf wf)

theorem State.MemWf.poisonDst {c : Ctx} {gen : Nat} {ps : List Access} {t : PTag} (wf : s.MemWf) :
    (s.poisonDst c gen ps t).MemWf :=
  .foldl wf (fun _ _ wf => .draw (.engWrite wf))

theorem State.MemWf.copyMismatch {c : Ctx} {o : QOp} {f : Flaw} {ps : List Access} (wf : s.MemWf) :
    (s.copyMismatch c o f ps).MemWf :=
  .emitCopy (.finishOp (.poisonDst (.record (.dropFlaws wf))))

theorem State.MemWf.run_finish {r : Run} {c : Ctx} {o : QOp} (wf : r.s.MemWf) : (Run.finish r c o).MemWf :=
  .emitCopy (.finishOp (.writeStatus wf))

/-! ## Machine/Matrix.lean -/

theorem State.MemWf.readOperand {wk w n : Nat} (wf : s.MemWf) : (s.readOperand wk w n).2.2.MemWf := by
  unfold State.readOperand
  dsimp only
  refine .ite_22 (.thd (.foldl_22 (.thd wf) (fun _ _ wf => .thd (.scrLook wf)))) ?_
  split <;> exact .thd (.checkSram wf)

theorem State.MemWf.matrixOp {c : Ctx} {op : EngOp} (wf : s.MemWf) : (s.matrixOp c op).MemWf := .enqueue wf

theorem State.MemWf.mmaOp {c : Ctx} {chk : Bool} {f : BitVec 3} {t : BitVec 4} {a b : BitVec 7} (wf : s.MemWf) :
    (s.mmaOp c chk f t a b).MemWf := by
  unfold State.mmaOp
  dsimp only
  split
  · exact .stallBy wf
  · refine .ite (.stallBy wf) (.ite (.raiseAll wf) (.ite (.raiseAll wf) (.ite (.raiseAll wf) ?_)))
    split
    · exact .matrixOp wf
    · exact .raiseAll wf

theorem AnswerWf.mma {f : BitVec 3} {t : BitVec 4} {a b : BitVec 7} (wf : s.MemWf) : AnswerWf (execMma f t a b s) :=
  .issue wf (fun _ => .mmaOp wf)

theorem AnswerWf.mmack {f : BitVec 3} {t : BitVec 4} {a b : BitVec 7} (wf : s.MemWf) :
    AnswerWf (execMmack f t a b s) :=
  .issue wf (fun _ => .mmaOp wf)

theorem AnswerWf.mzero {m : BitVec 16} (wf : s.MemWf) : AnswerWf (execMzero m s) := by
  unfold execMzero
  refine .issue wf (fun _ => ?_)
  split
  · exact .stallBy wf
  · exact .matrixOp wf

theorem State.MemWf.formRange {c : Ctx} {h a n al : Nat} {k : AccKind} {l : Nat} (wf : s.MemWf) :
    (s.formRange c h a n al k l).2.MemWf := by
  unfold State.formRange
  refine .ite_2 (.ite_2 (.snd wf) (.rangeParts wf)) (.ite_2 (.snd wf) ?_)
  split
  · exact .snd wf
  · refine .ite_2 (.snd wf) ?_
    split
    · next e2 =>
        exact .snd (.of_2 (.rangeParts wf) e2)
    · next e2 =>
        exact .andThen (.of_2 (.rangeParts wf) e2) fun wf =>
          .ite_2 (.snd wf) (.snd wf)

theorem State.MemWf.tileMove {c : Ctx} {a : BitVec 7} {h : BitVec 4} {n : Nat} {k : AccKind}
    {go : State → List Access → State} (wf : s.MemWf) (wf1 : ∀ t a, t.MemWf → (go t a).MemWf) :
    (s.tileMove c a h n k go).MemWf := by
  unfold State.tileMove
  refine .ite (.stallBy wf) ?_
  split
  · next e1 =>
      exact .raiseAll (.of_2 (.formRange wf) e1)
  · next e1 =>
      exact (wf1 _ _ (.ite (.updGroup (.of_2 (.formRange wf) e1)) (.of_2 (.formRange wf) e1)))

theorem AnswerWf.mld {t : BitVec 4} {a : BitVec 7} {h : BitVec 4} (wf : s.MemWf) : AnswerWf (execMld t a h s) := by
  unfold execMld
  refine .issue wf (fun _ => ?_)
  split
  · exact .stallBy wf
  · exact .tileMove wf (fun _ _ wf => .matrixOp wf)

theorem AnswerWf.mst {t : BitVec 4} {a : BitVec 7} {h : BitVec 4} (wf : s.MemWf) : AnswerWf (execMst t a h s) := by
  unfold execMst
  refine .issue wf (fun _ => ?_)
  split
  · exact .stallBy wf
  · exact .tileMove wf (fun _ _ wf => .matrixOp wf)

theorem AnswerWf.mstn {f : BitVec 3} {t : BitVec 4} {a : BitVec 7} {h : BitVec 4} (wf : s.MemWf) :
    AnswerWf (execMstn f t a h s) := by
  unfold execMstn
  dsimp only
  refine .issue wf (fun _ => ?_)
  split
  · exact .stallBy wf
  · exact .ite (.raiseAll wf) (.ite (.raiseAll wf)
      (.tileMove wf (fun _ _ wf => .ite (.drew (.matrixOp wf)) (.matrixOp wf))))

theorem AnswerWf.mckv {d : BitVec 7} {t : BitVec 4} {b : BitVec 7} (wf : s.MemWf) : AnswerWf (execMckv d t b s) := by
  unfold execMckv
  dsimp only
  refine .issue wf (fun _ => ?_)
  split
  · exact .stallBy wf
  · exact .ite (.raiseAll wf) (.ite (.raiseAll wf) (.ite (.enqueue (.logRegs wf)) (.logRegs wf)))

theorem AnswerWf.mckc {t : BitVec 4} {q : BitVec 7} (wf : s.MemWf) : AnswerWf (execMckc t q s) := by
  unfold execMckc
  refine .issue wf (fun _ => ?_)
  split
  · exact .stallBy wf
  · exact .ite (.raiseAll wf) (.matrixOp wf)

theorem State.MemWf.checkRow {wk t m : Nat} (wf : s.MemWf) : (s.checkRow wk t m).MemWf := by
  unfold State.checkRow
  split
  · exact .updWg (.record (.dropFlaws wf))
  · exact wf

theorem State.MemWf.checkTile {wk t n : Nat} (wf : s.MemWf) : (s.checkTile wk t n).MemWf :=
  .ite wf (.foldl wf (fun _ _ wf => .checkRow wf))

theorem State.MemWf.dropTiles {c : Ctx} {gen : Nat} {ts : List Nat} (wf : s.MemWf) : (s.dropTiles c gen ts).MemWf :=
  .ite wf (.dropFlaws wf)

theorem State.MemWf.putTiles {c : Ctx} {gen : Nat} {ts : List (Nat × Tile)} (wf : s.MemWf) :
    (s.putTiles c gen ts).MemWf :=
  .ite (.late wf) (.andThen (.foldl_2 (.snd wf) (fun _ _ wf => .ite_2 (.logFirst (.checkTile wf)) wf)) fun wf => .ite
    (.updWg wf) wf)

theorem State.MemWf.mmaMismatch {c : Ctx} {o : QOp} {f : Flaw} {chk : Bool} {t : Nat} (wf : s.MemWf) :
    (s.mmaMismatch c o f chk t).MemWf :=
  .finishOp (.putTiles (.draw (.record (.dropFlaws wf))))

theorem State.MemWf.runMma {c : Ctx} {gen : Nat} {chk : Bool} {f t aw bw : Nat} {sc : List Val} (wf : s.MemWf) :
    (s.runMma c gen chk f t aw bw sc).2.MemWf := by
  unfold State.runMma
  extract_lets
  split
  next e1 =>
    split
    next e2 =>
      have wf1 := State.MemWf.of_22 (.readOperand (.of_22 (.readOperand wf) e1)) e2
      extract_lets s1 s2 _ _ _ bad
      have wf2 : s2.MemWf := .ite (.checkTile (.checkTile wf1)) (.checkTile wf1)
      clear_value s2 bad
      refine .ite_2 (.snd wf2) ?_
      cases bad with
      | some g => exact .snd (.putTiles (.draw wf2))
      | none => exact .ite_2 (.snd (.putTiles wf2)) (.snd (.putTiles wf2))

theorem State.MemWf.runMld {c : Ctx} {gen t : Nat} {ps : List Access} (wf : s.MemWf) :
    (s.runMld c gen t ps).2.MemWf :=
  .ite_2 (.snd wf) (.snd (.dropTiles (.putTiles (.ite (.engRead wf) (.draw (.engRead wf))))))

theorem State.MemWf.engStore {c : Ctx} {gen : Nat} {ps : List Access} {bs : List EByte} (wf : s.MemWf) :
    (s.engStore c gen ps bs).MemWf :=
  .andThen (.foldl_2 (.snd wf) (fun _ _ wf => .ite_2 (.engLog wf) wf)) fun wf =>
  .ite (.engWrite wf) wf

theorem State.MemWf.runMst {c : Ctx} {gen t : Nat} {ps : List Access} (wf : s.MemWf) :
    (s.runMst c gen t ps).2.MemWf :=
  .ite_2 (.snd wf) (.snd (.engStore (.checkTile wf)))

theorem State.MemWf.runMstn {c : Ctx} {gen f t : Nat} {ps : List Access} {sc : List Val} {sr : List Word}
    (wf : s.MemWf) : (s.runMstn c gen f t ps sc sr).2.MemWf :=
  .ite_2 (.snd wf) (.snd (.engStore (.checkTile wf)))

theorem State.MemWf.runMckv {c : Ctx} {o : QOp} {d t : Nat} {tau : Val} (wf : s.MemWf) :
    (s.runMckv c o d t tau).MemWf :=
  .updGroup (.checkTile (.checkTile wf))

/-- The body is named before it is opened, so that the kernel compares the two forms of it without running `oneBit`. -/
theorem State.MemWf.runMckc {c : Ctx} {gen t : Nat} {ms : List Nat} (wf : s.MemWf) :
    (s.runMckc c gen t ms).MemWf := by
  generalize body : @State.runMckc = f
  delta State.runMckc at body
  subst body
  beta_reduce
  split
  · exact .putTiles (.draw (.checkTile (.checkTile wf)))
  · exact wf

theorem State.MemWf.emitMat {c : Ctx} {o : QOp} {kind : Nat} (wf : s.MemWf) : (s.emitMat c o kind).MemWf := .emitL wf

theorem AnswerWf.matrixOpStart {core : BitVec 8} (wf : s.MemWf) : AnswerWf (execMatrixOpStart core s) := by
  unfold execMatrixOpStart
  dsimp only
  refine .next (.ite wf ?_)
  split
  · exact wf
  · split
    · exact .ite wf (.emitMat (.updOp (.elsewhere wf)))
    · exact wf

theorem AnswerWf.matrixOpDone {core : BitVec 8} (wf : s.MemWf) : AnswerWf (execMatrixOpDone core s) := by
  unfold execMatrixOpDone
  dsimp only
  refine .next ?_
  split
  · exact wf
  · split
    · split
      · split
        · exact .mmaMismatch (.emitMat wf)
        · exact .finishOp (.runMma (.emitMat wf))
      · exact .finishOp (.dropTiles (.putTiles (.emitMat wf)))
      · exact .finishOp (.runMld (.emitMat wf))
      · exact .finishOp (.runMst (.emitMat wf))
      · exact .finishOp (.runMstn (.emitMat wf))
      · exact .runMckv (.emitMat wf)
      · exact .finishOp (.runMckc (.emitMat wf))
      · exact .finishOp (.emitMat wf)
    · exact wf

end Sys2Proof.Machine
end

section
/-! SUPPORT. Memory in its canonical form through vector and control instructions, saves and the dispatcher. -/

namespace Sys2Proof.Machine

variable {s : State}

/-! ## Machine/Retire.lean -/

theorem State.MemWf.emitPerturb {p die sclass sinst : Nat} {ok : Bool} (wf : s.MemWf) :
    (s.emitPerturb p die sclass sinst ok).MemWf := by
  unfold State.emitPerturb
  dsimp only
  split
  · exact wf
  · exact .elsewhere (.ite (.emitTo wf) wf)

theorem State.MemWf.perturbGang {nk : Nat} {l : Launch} (wf : s.MemWf) : (s.perturbGang nk l).MemWf :=
  .foldl (.foldl wf (fun _ _ wf => .emitPerturb wf)) (fun _ _ wf => .ite (.emitPerturb wf) wf)

theorem State.MemWf.writeCounters {gk : Nat} {saved : Bool} (wf : s.MemWf) : (s.writeCounters gk saved).MemWf := by
  unfold State.writeCounters
  split
  · exact wf
  · split
    · exact wf
    · exact .ite (.setFld (.devWrite wf)) wf

theorem State.MemWf.wantPass {p : Nat} (wf : s.MemWf) : (s.wantPass p).MemWf := .ite wf (.elsewhere wf)

theorem State.MemWf.unplace {nk : Nat} (wf : s.MemWf) : (s.unplace nk).MemWf := .elsewhere wf

theorem State.MemWf.retireGang {nk : Nat} (wf : s.MemWf) : (s.retireGang nk).MemWf := by
  unfold State.retireGang
  split
  · exact wf
  · split
    · exact wf
    · exact .wantPass (.elsewhere (.unplace (.emitL (.rrComplete (.perturbGang wf)))))

theorem State.MemWf.wgDone {wk : Nat} (wf : s.MemWf) : (s.wgDone wk).MemWf := by
  unfold State.wgDone
  dsimp only
  refine .ite ?_ wf
  split
  · exact .updWg (.leaveConv wf)
  · exact .andThen (.updWg (.leaveConv wf)) fun wf =>
      .ite (.retireGang (.dropR wf)) (.dropR wf)

theorem AnswerWf.groupRetire {g : Nat} (wf : s.MemWf) : AnswerWf (execGroupRetire g s) := by
  unfold execGroupRetire
  refine .next ?_
  split
  · exact wf
  · exact .ite wf (.wgDone (.wgSettle (.updWg (.updGroup (.writeCounters wf)))))

theorem State.MemWf.unblock {q : Nat} (wf : s.MemWf) : (s.unblock q).MemWf := .ite (.updQueue wf) (.syncQ wf)

theorem State.MemWf.handOver {u : EvUpd} (wf : s.MemWf) : (s.handOver u).MemWf := .elsewhere wf

theorem AnswerWf.launchRetire {l : Nat} (wf : s.MemWf) : AnswerWf (execLaunchRetire l s) := by
  unfold execLaunchRetire
  refine .next ?_
  split
  · exact wf
  · refine .ite wf (.unblock (.ite (.handOver ?_) ?_))
    · split
      · exact .postErr (.elsewhere wf)
      · exact .ite (.postCq (.elsewhere wf)) (.elsewhere wf)
    · split
      · exact .postErr (.elsewhere wf)
      · exact .ite (.postCq (.elsewhere wf)) (.elsewhere wf)

/-! ## Machine/Vector.lean -/

theorem State.MemWf.intOp2 {c : Ctx} {d a b : BitVec 7} {t : Tag} {f : ℤ → ℤ → ℤ} (wf : s.MemWf) :
    (s.intOp2 c d a b t f).MemWf :=
  .put wf

theorem State.MemWf.intOp1 {c : Ctx} {d a : BitVec 7} {t : Tag} {f : ℤ → ℤ} (wf : s.MemWf) :
    (s.intOp1 c d a t f).MemWf :=
  .put wf

theorem AnswerWf.vadd {d a b : BitVec 7} (wf : s.MemWf) : AnswerWf (execVadd d a b s) :=
  .issue wf (fun _ => .intOp2 wf)

theorem AnswerWf.vsub {d a b : BitVec 7} (wf : s.MemWf) : AnswerWf (execVsub d a b s) :=
  .issue wf (fun _ => .intOp2 wf)

theorem AnswerWf.vmul {d a b : BitVec 7} (wf : s.MemWf) : AnswerWf (execVmul d a b s) :=
  .issue wf (fun _ => .intOp2 wf)

theorem AnswerWf.vmulh {d a b : BitVec 7} (wf : s.MemWf) : AnswerWf (execVmulh d a b s) :=
  .issue wf (fun _ => .intOp2 wf)

theorem AnswerWf.vmad {d a b : BitVec 7} (wf : s.MemWf) : AnswerWf (execVmad d a b s) := .issue wf (fun _ => .put wf)

theorem AnswerWf.vmin {d a b : BitVec 7} (wf : s.MemWf) : AnswerWf (execVmin d a b s) :=
  .issue wf (fun _ => .intOp2 wf)

theorem AnswerWf.vmax {d a b : BitVec 7} (wf : s.MemWf) : AnswerWf (execVmax d a b s) :=
  .issue wf (fun _ => .intOp2 wf)

theorem AnswerWf.vabs {d a : BitVec 7} (wf : s.MemWf) : AnswerWf (execVabs d a s) := .issue wf (fun _ => .intOp1 wf)

theorem AnswerWf.vneg {d a : BitVec 7} (wf : s.MemWf) : AnswerWf (execVneg d a s) := .issue wf (fun _ => .intOp1 wf)

theorem AnswerWf.vdot4 {d a b : BitVec 7} (wf : s.MemWf) : AnswerWf (execVdot4 d a b s) :=
  .issue wf (fun _ => .put wf)

theorem State.MemWf.wordOp2 {c : Ctx} {d a b : BitVec 7} {t : Tag} {f : Word → Word → Word} (wf : s.MemWf) :
    (s.wordOp2 c d a b t f).MemWf :=
  .put wf

theorem State.MemWf.wordOp1 {c : Ctx} {d a : BitVec 7} {t : Tag} {f : Word → Word} (wf : s.MemWf) :
    (s.wordOp1 c d a t f).MemWf :=
  .put wf

theorem AnswerWf.vand {d a b : BitVec 7} (wf : s.MemWf) : AnswerWf (execVand d a b s) :=
  .issue wf (fun _ => .wordOp2 wf)

theorem AnswerWf.vor {d a b : BitVec 7} (wf : s.MemWf) : AnswerWf (execVor d a b s) :=
  .issue wf (fun _ => .wordOp2 wf)

theorem AnswerWf.vxor {d a b : BitVec 7} (wf : s.MemWf) : AnswerWf (execVxor d a b s) :=
  .issue wf (fun _ => .wordOp2 wf)

theorem AnswerWf.vshl {d a b : BitVec 7} (wf : s.MemWf) : AnswerWf (execVshl d a b s) :=
  .issue wf (fun _ => .wordOp2 wf)

theorem AnswerWf.vshr {d a b : BitVec 7} (wf : s.MemWf) : AnswerWf (execVshr d a b s) :=
  .issue wf (fun _ => .wordOp2 wf)

theorem AnswerWf.vrol {d a b : BitVec 7} (wf : s.MemWf) : AnswerWf (execVrol d a b s) :=
  .issue wf (fun _ => .wordOp2 wf)

theorem AnswerWf.vclz {d a : BitVec 7} (wf : s.MemWf) : AnswerWf (execVclz d a s) := .issue wf (fun _ => .wordOp1 wf)

theorem AnswerWf.vpopc {d a : BitVec 7} (wf : s.MemWf) : AnswerWf (execVpopc d a s) :=
  .issue wf (fun _ => .wordOp1 wf)

theorem AnswerWf.vbrev {d a : BitVec 7} (wf : s.MemWf) : AnswerWf (execVbrev d a s) :=
  .issue wf (fun _ => .wordOp1 wf)

theorem AnswerWf.vbfe {d a b : BitVec 7} (wf : s.MemWf) : AnswerWf (execVbfe d a b s) :=
  .issue wf (fun _ => .wordOp2 wf)

theorem AnswerWf.vbfi {d a b : BitVec 7} (wf : s.MemWf) : AnswerWf (execVbfi d a b s) := .issue wf (fun _ => .put wf)

theorem AnswerWf.vmov {d a : BitVec 7} (wf : s.MemWf) : AnswerWf (execVmov d a s) := .issue wf (fun _ => .put wf)

theorem AnswerWf.vtag {d a : BitVec 7} (wf : s.MemWf) : AnswerWf (execVtag d a s) := .issue wf (fun _ => .put wf)

theorem AnswerWf.vpack {d a b : BitVec 7} (wf : s.MemWf) : AnswerWf (execVpack d a b s) :=
  .issue wf (fun _ => .wordOp2 wf)

theorem AnswerWf.vunpk {d a : BitVec 7} (wf : s.MemWf) : AnswerWf (execVunpk d a s) :=
  .issue wf (fun _ => .advance (.writeVs wf))

theorem AnswerWf.vsel {d a : BitVec 7} {e : BitVec 1} {p : BitVec 3} {b : BitVec 7} (wf : s.MemWf) :
    AnswerWf (execVsel d a e p b s) :=
  .issue wf (fun _ => .put wf)

theorem AnswerWf.vaddi {d a : BitVec 7} {i : BitVec 11} (wf : s.MemWf) : AnswerWf (execVaddi d a i s) :=
  .issue wf (fun _ => .intOp1 wf)

theorem AnswerWf.vandi {d a : BitVec 7} {i : BitVec 11} (wf : s.MemWf) : AnswerWf (execVandi d a i s) :=
  .issue wf (fun _ => .wordOp1 wf)

theorem AnswerWf.vori {d a : BitVec 7} {i : BitVec 11} (wf : s.MemWf) : AnswerWf (execVori d a i s) :=
  .issue wf (fun _ => .wordOp1 wf)

theorem AnswerWf.vxori {d a : BitVec 7} {i : BitVec 11} (wf : s.MemWf) : AnswerWf (execVxori d a i s) :=
  .issue wf (fun _ => .wordOp1 wf)

theorem AnswerWf.vshli {d a : BitVec 7} {k : BitVec 5} (wf : s.MemWf) : AnswerWf (execVshli d a k s) :=
  .issue wf (fun _ => .wordOp1 wf)

theorem AnswerWf.vshri {d a : BitVec 7} {k : BitVec 5} (wf : s.MemWf) : AnswerWf (execVshri d a k s) :=
  .issue wf (fun _ => .wordOp1 wf)

theorem AnswerWf.vaff {d a : BitVec 7} {i : BitVec 11} (wf : s.MemWf) : AnswerWf (execVaff d a i s) :=
  .issue wf (fun _ => .put wf)

theorem AnswerWf.vmovi {d : BitVec 7} {i : BitVec 18} (wf : s.MemWf) : AnswerWf (execVmovi d i s) :=
  .issue wf (fun _ => .put wf)

theorem AnswerWf.vlui {d : BitVec 7} {i : BitVec 18} (wf : s.MemWf) : AnswerWf (execVlui d i s) :=
  .issue wf (fun _ => .put wf)

theorem AnswerWf.vcmp {p : BitVec 3} {a b : BitVec 7} {k : BitVec 4} (wf : s.MemWf) : AnswerWf (execVcmp p a b k s) :=
  .issue wf (fun _ => .predOut wf)

theorem AnswerWf.vcmpi {k : BitVec 4} {p : BitVec 3} {a : BitVec 7} {i : BitVec 11} (wf : s.MemWf) :
    AnswerWf (execVcmpi k p a i s) :=
  .issue wf (fun _ => .predOut wf)

theorem AnswerWf.vbcast {d a b : BitVec 7} (wf : s.MemWf) : AnswerWf (execVbcast d a b s) :=
  .issue wf (fun _ => .put wf)

theorem AnswerWf.vshfl {d a b : BitVec 7} (wf : s.MemWf) : AnswerWf (execVshfl d a b s) :=
  .issue wf (fun _ => .put wf)

theorem AnswerWf.vshfx {d a b : BitVec 7} (wf : s.MemWf) : AnswerWf (execVshfx d a b s) :=
  .issue wf (fun _ => .put wf)

theorem AnswerWf.vred {d a : BitVec 7} {o : BitVec 4} (wf : s.MemWf) : AnswerWf (execVred d a o s) :=
  .issue wf (fun _ => .put wf)

theorem AnswerWf.vscan {d a : BitVec 7} {e : BitVec 1} {o : BitVec 4} (wf : s.MemWf) :
    AnswerWf (execVscan d a e o s) :=
  .issue wf (fun _ => .put wf)

theorem State.MemWf.predOp {c : Ctx} {d : BitVec 3} {b : Lanes} (wf : s.MemWf) : (s.predOp c d b).MemWf :=
  .advance (.writeP wf)

theorem AnswerWf.pand {d a b : BitVec 3} (wf : s.MemWf) : AnswerWf (execPand d a b s) :=
  .issue wf (fun _ => .predOp wf)

theorem AnswerWf.por {d a b : BitVec 3} (wf : s.MemWf) : AnswerWf (execPor d a b s) := .issue wf (fun _ => .predOp wf)

theorem AnswerWf.pxor {d a b : BitVec 3} (wf : s.MemWf) : AnswerWf (execPxor d a b s) :=
  .issue wf (fun _ => .predOp wf)

theorem AnswerWf.pnot {d a : BitVec 3} (wf : s.MemWf) : AnswerWf (execPnot d a s) := .issue wf (fun _ => .predOp wf)

theorem AnswerWf.ballot {d : BitVec 7} {a : BitVec 3} (wf : s.MemWf) : AnswerWf (execBallot d a s) :=
  .issue wf (fun _ => .put wf)

theorem AnswerWf.pmask {d : BitVec 3} {a : BitVec 7} (wf : s.MemWf) : AnswerWf (execPmask d a s) :=
  .issue wf (fun _ => .predOut wf)

theorem AnswerWf.vspr {d : BitVec 7} {n : BitVec 18} (wf : s.MemWf) : AnswerWf (execVspr d n s) :=
  .issue wf (fun _ => .advance (.writeVs wf))

/-! ## Machine/Save.lean -/

theorem State.MemWf.vaPut {core : Nat} {l : Launch} {va : Nat} {bs : List Byte} {pois : Nat → Option PTag}
    (wf : s.MemWf) : (s.vaPut core l va bs pois).MemWf := by
  unfold State.vaPut
  dsimp only
  refine .foldl wf (fun _ _ wf => ?_)
  split
  · next e1 =>
      exact .writeLine (.of_2 (.vaOf wf) e1)
  · next e1 =>
      exact .of_2 (.vaOf wf) e1

theorem State.MemWf.vaGet {core : Nat} {l : Launch} {va n : Nat} (wf : s.MemWf) : (s.vaGet core l va n).2.MemWf := by
  unfold State.vaGet
  refine .foldl_2 (.snd wf) (fun _ _ wf => ?_)
  split
  extract_lets
  split
  · next e1 =>
      split
      next e2 =>
        exact .snd (.of_22 (.readPa (.of_2 (.vaOf wf) e1)) e2)
  · next e1 =>
      exact .snd (.of_2 (.vaOf wf) e1)

theorem State.MemWf.checkWg {wk : Nat} {l : Launch} (wf : s.MemWf) : (s.checkWg wk l).MemWf := by
  unfold State.checkWg
  refine .ite wf (.foldl ?_ (fun _ _ wf => .checkTile wf))
  split
  · exact .foldl (.foldl wf (fun _ _ wf => .foldl wf (fun _ _ wf => .checkReg wf))) (fun _ _ wf => .checkSram wf)
  · exact .foldl wf (fun _ _ wf => .foldl wf (fun _ _ wf => .checkReg wf))

theorem State.MemWf.saveWg {nk : Nat} {l : Launch} {base k : Nat} (wf : s.MemWf) : (s.saveWg nk l base k).MemWf := by
  unfold State.saveWg
  dsimp only
  split
  · exact .checkWg wf
  · exact .foldl (.foldl (.foldl (.draw (.vaPut (.checkWg wf))) (fun _ _ wf => .vaPut (.vaPut wf)))
      (fun _ _ wf => .draw (.vaPut wf))) (fun _ _ wf => .vaPut wf)

theorem State.MemWf.strikeFault {gk ix : Nat} (wf : s.MemWf) : (s.strikeFault gk ix).MemWf := by
  unfold State.strikeFault
  split
  · exact wf
  · exact .ite wf (.takeFaultAt wf)

theorem State.MemWf.delayedFault {gk : Nat} (wf : s.MemWf) : (s.delayedFault gk).MemWf := by
  unfold State.delayedFault
  dsimp only
  split
  · exact wf
  · split
    · exact wf
    · split
      · exact .updGroup wf
      · exact .ite (.failBlock (.updGroup wf)) (.takeFaultAt (.updGroup wf))

theorem State.MemWf.delayedFaults {nk : Nat} (wf : s.MemWf) : (s.delayedFaults nk).MemWf :=
  .foldl wf (fun _ _ wf => .foldl wf (fun _ _ wf => .delayedFault wf))

theorem State.MemWf.strikeFaults {nk : Nat} (wf : s.MemWf) : (s.strikeFaults nk).MemWf := by
  unfold State.strikeFaults
  exact .foldl wf (fun _ _ wf => .foldr wf (fun _ _ wf => .strikeFault wf))

theorem State.MemWf.saveGang {nk : Nat} {gg : Gang} {l : Launch} (wf : s.MemWf) : (s.saveGang nk gg l).MemWf :=
  .wantPass (.updLaunch (.updGang (.unplace (.elsewhere
    (.emitL (.perturbGang (.foldl (.foldl (.vaPut (.rrNumbers wf)) (fun _ _ wf => .saveWg wf))
    (fun _ _ wf => .writeCounters wf))))))))

theorem State.MemWf.restoreWg {nk : Nat} {l : Launch} {base core : Nat} {w : Wg} {gs : List Group} (wf : s.MemWf) :
    (s.restoreWg nk l base core w gs).MemWf := by
  unfold State.restoreWg
  extract_lets
  split
  next e1 =>
    have wf1 := State.MemWf.of_2 (.vaGet (.dropR wf)) e1
    split
    next e2 =>
      have wf2 := PairWf.of (.foldl (.mk wf1) (fun _ _ wf => ?banks)) e2
      case banks =>
        split
        next e =>
          exact .mk (.of_2 (.vaGet wf) e)
      split
      next e3 =>
        have wf3 := PairWf.of (.foldl (.mk wf2) (fun _ _ wf => ?tiles)) e3
        case tiles =>
          split
          next e =>
            exact .mk (.of_2 (.vaGet wf) e)
        split
        next e4 =>
          have wf4 := PairWf.of (.foldl (.mk wf3) (fun _ _ wf => ?groups)) e4
          case groups =>
            extract_lets
            split
            next e =>
              split
              next e' =>
                exact .mk (.of_2 (.vaGet (.of_2 (.vaGet wf) e)) e')
          exact .shrinkPool (.foldl (.dealGroups (.elsewhere wf4)) (fun _ _ wf => .rrResume wf))

theorem State.MemWf.restoreGang {nk die row col : Nat} (wf : s.MemWf) : (s.restoreGang nk die row col).MemWf := by
  unfold State.restoreGang
  split
  · split
    · exact wf
    · refine .updGang (.elsewhere (.foldl wf (fun _ _ wf => ?_)))
      split
      · exact .restoreWg wf
      · exact wf
  · exact wf

/-! ## Machine/Dispatcher.lean -/

theorem State.MemWf.dropAnchor {p : Nat → Bool} (wf : s.MemWf) : (s.dropAnchor p).MemWf := .elsewhere wf

theorem State.MemWf.endLaunch {lk code : Nat} (wf : s.MemWf) : (s.endLaunch lk code).MemWf :=
  .dropAnchor (.elsewhere (.updLaunch wf))

theorem State.MemWf.endUnfit {p : Nat} (wf : s.MemWf) : (s.endUnfit p).MemWf :=
  .foldl wf (fun _ _ wf => .ite (.endLaunch wf) wf)

theorem State.MemWf.setCpart {n : Nat} {v : BitVec 64} (wf : s.MemWf) : (s.setCpart n v).MemWf :=
  .foldl (.setReg wf) (fun _ _ wf => .wantPass (.endUnfit wf))

theorem State.MemWf.writeCpart {n : Nat} {v : BitVec 64} (wf : s.MemWf) : (s.writeCpart n v).MemWf :=
  .ite wf (.ite (.setFld wf) (.setCpart wf))

theorem AnswerWf.cpartWrite {n : BitVec 8} {v : BitVec 64} (wf : s.MemWf) : AnswerWf (execCpartWrite n v s) :=
  .next (.writeCpart wf)

theorem State.MemWf.writePartctl {n : Nat} {v : BitVec 64} (wf : s.MemWf) : (s.writePartctl n v).MemWf :=
  .ite (.setFld wf) (.setReg wf)

theorem AnswerWf.partctlWrite {n : BitVec 4} {v : BitVec 64} (wf : s.MemWf) : AnswerWf (execPartctlWrite n v s) :=
  .next (.writePartctl wf)

theorem State.MemWf.placeHead {h : Head} {o : Nat × Nat × Nat} (wf : s.MemWf) : (s.placeHead h o).MemWf :=
  .emitL (.ite (.restoreGang wf) (.updLaunch (.placeGang wf)))

theorem State.MemWf.anchor {p : Nat} {h : Head} (wf : s.MemWf) : (s.anchor p h).MemWf := by
  unfold State.anchor
  dsimp only
  split
  · exact .elsewhere wf
  · exact wf

theorem State.MemWf.placedHead {p nk : Nat} (wf : s.MemWf) : (s.placedHead p nk).MemWf := by
  unfold State.placedHead
  dsimp only
  split
  · exact .ite (.elsewhere (.dropAnchor wf)) (.dropAnchor wf)
  · exact .dropAnchor wf

theorem State.MemWf.blockedHead {p : Nat} {h : Head} (wf : s.MemWf) : (s.blockedHead p h).MemWf :=
  .ite (.anchor (.elsewhere wf)) (.elsewhere wf)

theorem State.MemWf.passQueue {p q : Nat} {blocked : Bool} {fuel : Nat} (wf : s.MemWf) :
    (s.passQueue p q blocked fuel).2.MemWf := by
  induction fuel generalizing s with
  | zero => exact wf
  | succ fuel ih =>
    unfold State.passQueue
    split
    · exact wf
    · refine .ite_2 (.snd wf) ?_
      split
      · exact ih (.placedHead (.placeHead wf))
      · exact .snd (.ite wf (.blockedHead wf))

theorem State.MemWf.pass {p : Nat} (wf : s.MemWf) : (s.pass p).MemWf :=
  .foldl_2 (.snd wf) (fun _ _ wf => .passQueue wf)

theorem State.MemWf.runPass {p : Nat} (wf : s.MemWf) : (s.runPass p).MemWf := .ite wf (.elsewhere (.pass wf))

theorem AnswerWf.placementPass {p : BitVec 4} (wf : s.MemWf) : AnswerWf (execPlacementPass p s) :=
  .next (.ite (.runPass wf) wf)

theorem AnswerWf.placementRetry {p : BitVec 4} (wf : s.MemWf) : AnswerWf (execPlacementRetry p s) :=
  .next (.ite (.runPass wf) wf)

theorem State.MemWf.startLadder {q top : Nat} {hold disable : Bool} {done : List (Nat × Nat × Nat × Bool)}
    (wf : s.MemWf) : (s.startLadder q top hold disable done).MemWf := by
  unfold State.startLadder
  split
  · exact .updQueue wf
  · exact .foldl (.updQueue (.dropAnchor wf)) (fun _ _ wf => .updLaunch (.updGang wf))

theorem State.MemWf.postDone {q kind tag index detail : Nat} {cqe_ : Bool} (wf : s.MemWf) :
    (s.postDone q kind tag index detail cqe_).MemWf :=
  .ite (.postCq wf) wf

theorem State.MemWf.letGo {q : Nat} (wf : s.MemWf) : (s.letGo q).MemWf := .ite (.wantPass wf) wf

theorem State.MemWf.dropWaits {q : Nat} (wf : s.MemWf) : (s.dropWaits q).MemWf := .elsewhere wf

theorem State.MemWf.endLadder {q : Nat} (wf : s.MemWf) : (s.endLadder q).MemWf := by
  unfold State.endLadder
  split
  · exact wf
  · exact .letGo (.andThen (.emitQ (.updQueue wf)) fun wf1 => .andThen (.foldl wf1 (fun _ _ wf => .postDone wf))
      fun wf1 => .andThen (.foldl wf1 (fun _ _ wf => .unblock wf)) fun wf => .ite (.dropWaits wf) wf)

theorem State.MemWf.checkLadder {q : Nat} (wf : s.MemWf) : (s.checkLadder q).MemWf := .ite (.endLadder wf) wf

theorem State.MemWf.reach {q r : Nat} (wf : s.MemWf) : (s.reach q r).MemWf := .updQueue wf

theorem State.MemWf.resetGang {nk : Nat} (wf : s.MemWf) : (s.resetGang nk).MemWf := by
  unfold State.resetGang
  split
  · exact wf
  · split
    · exact wf
    · exact .elsewhere (.unplace (.emitL (.foldl wf (fun _ _ wf => .foldl wf (fun _ _ wf => .emitBlock wf)))))

theorem State.MemWf.destroyLaunch {lk code : Nat} (wf : s.MemWf) : (s.destroyLaunch lk code).MemWf := by
  unfold State.destroyLaunch
  split
  · exact wf
  · exact .wantPass (.unblock (.postErr (.elsewhere
      (.dropAnchor (.endLaunch (.foldl wf (fun _ _ wf => .resetGang wf)))))))

theorem State.MemWf.resetAll {q : Nat} {nks : List (Nat × Gang)} (wf : s.MemWf) : (s.resetAll q nks).MemWf :=
  .ite wf (.foldl (.reach wf) (fun _ _ wf => .destroyLaunch wf))

theorem AnswerWf.drainComplete {q : BitVec 10} (wf : s.MemWf) : AnswerWf (execDrainComplete q s) :=
  .next (.ite (.checkLadder wf) wf)

theorem AnswerWf.drainLimit {q : BitVec 10} (wf : s.MemWf) : AnswerWf (execDrainLimit q s) := by
  unfold execDrainLimit
  refine .next ?_
  split
  · exact wf
  · exact .ite (.checkLadder (.resetAll (.foldl (.updQueue wf) (fun _ _ wf => .updGang wf)))) wf

theorem AnswerWf.save {gang : Nat} (wf : s.MemWf) : AnswerWf (execSave gang s) := by
  unfold execSave
  refine .next ?_
  split
  · exact wf
  · split
    · exact wf
    · exact .ite wf (.andThen (.ite (.strikeFaults wf) wf) fun wf => .andThen (.ite (.delayedFaults wf) wf) fun wf =>
        .ite wf (.checkLadder (.reach (.saveGang wf))))

theorem AnswerWf.saveLimit {q : BitVec 10} (wf : s.MemWf) : AnswerWf (execSaveLimit q s) := by
  unfold execSaveLimit
  refine .next ?_
  split
  · exact wf
  · exact .ite (.checkLadder (.resetAll wf)) wf

theorem State.MemWf.fresume {v : BitVec 64} {f : Group → Nat → Split → Group} (wf : s.MemWf) :
    (s.fresume v f).MemWf := by
  unfold State.fresume
  split
  · exact .setFld wf
  · split
    · exact .setFld wf
    · split
      · exact .setFld wf
      · split
        · exact .setFld wf
        · exact .wgSettle (.setFld (.updGroup wf))

theorem State.MemWf.writeFresume {v : BitVec 64} (wf : s.MemWf) : (s.writeFresume v).MemWf := by
  unfold State.writeFresume
  split
  · exact .fresume wf
  · exact .fresume wf
  · exact .fresume wf
  · exact .setFld wf

theorem AnswerWf.fresumeReplay {v : BitVec 64} (wf : s.MemWf) : AnswerWf (execFresumeReplay v s) :=
  .next (.writeFresume wf)

theorem AnswerWf.fresumeSkip {v : BitVec 64} (wf : s.MemWf) : AnswerWf (execFresumeSkip v s) :=
  .next (.writeFresume wf)

theorem AnswerWf.fresumeExit {v : BitVec 64} (wf : s.MemWf) : AnswerWf (execFresumeExit v s) :=
  .next (.writeFresume wf)

end Sys2Proof.Machine
end

section
/-! SUPPORT. Memory in its canonical form through power, synchronization and Kulintang. -/

namespace Sys2Proof.Machine

variable {s : State}

/-! ## Machine/Power.lean -/

theorem State.MemWf.setPower {p : Power} (wf : s.MemWf) : (s.setPower p).MemWf := .elsewhere wf

theorem State.MemWf.emitTocsin {susp : Bool} (wf : s.MemWf) : (s.emitTocsin susp).MemWf := .emitDev wf

theorem State.MemWf.suspend (wf : s.MemWf) : s.suspend.MemWf := .foldl (.elsewhere wf) (fun _ _ wf => .pealDrop wf)

theorem State.MemWf.applyGrade (wf : s.MemWf) : s.applyGrade.MemWf := by
  unfold State.applyGrade
  split
  · exact wf
  · exact .emitTocsin (.ite (.suspend (.setPower wf)) (.setPower wf))

theorem State.MemWf.liftGrade (wf : s.MemWf) : s.liftGrade.MemWf := by
  unfold State.liftGrade
  split
  · exact wf
  · exact .emitTocsin (.andThen (.elsewhere (.setPower wf)) fun wf1 => .andThen (.ite wf1 (.setPower wf)) fun wf =>
      .ite (.elsewhere wf) wf)

theorem State.MemWf.abortReplan (wf : s.MemWf) : s.abortReplan.MemWf :=
  .setPower (.foldl wf (fun _ _ wf => .setFld wf))

theorem State.MemWf.orderFrom {old level src : Nat} (wf : s.MemWf) : (s.orderFrom old level src).MemWf := by
  unfold State.orderFrom
  split
  · exact wf
  · exact .setPower wf
  · exact .emitTocsin (.andThen (.setPower (.abortReplan wf)) fun wf => .ite (.setPower wf) wf)

theorem State.MemWf.order {level src : Nat} (wf : s.MemWf) : (s.order level src).MemWf := .orderFrom wf

theorem AnswerWf.tocsin {tsel : BitVec 3} (wf : s.MemWf) : AnswerWf (execTocsin tsel s) :=
  .next (.order (.setPower wf))

theorem AnswerWf.tocsinMessage {level : BitVec 3} (wf : s.MemWf) : AnswerWf (execTocsinMessage level s) := by
  unfold execTocsinMessage
  refine .next (.ite wf ?_)
  split
  · exact .ite wf (.order wf)
  · exact .order wf

theorem State.MemWf.writeTslvl {n : Nat} {v : BitVec 64} (wf : s.MemWf) : (s.writeTslvl n v).MemWf :=
  .ite (.setFld wf) (.ite (.orderFrom (.setReg wf)) (.setReg wf))

theorem AnswerWf.tslvlWrite {n : BitVec 3} {v : BitVec 64} (wf : s.MemWf) : AnswerWf (execTslvlWrite n v s) :=
  .next (.writeTslvl wf)

theorem AnswerWf.taborLoopTick {projected : Nat} {seen : Sensed} (wf : s.MemWf) :
    AnswerWf (execTaborLoopTick projected seen s) := by
  unfold execTaborLoopTick
  refine .next (.ite wf (.ite (.setPower (.andThen (.setFld (.setPower wf)) fun wf => .ite (.applyGrade wf)
    (.ite (.liftGrade wf) wf))) ?_))
  split
  · exact .andThen (.setFld (.setPower wf)) fun wf =>
      .andThen (.ite (.liftGrade wf) wf) fun wf1 =>
      .andThen (.ite (.applyGrade wf) wf1) fun wf =>
      .ite (.setPower (.setFld wf)) wf
  · exact .andThen (.setFld (.setPower wf)) fun wf =>
      .ite (.applyGrade wf) (.ite (.liftGrade wf) wf)

theorem AnswerWf.currentLimitTrip {amps : Nat} (wf : s.MemWf) : AnswerWf (execCurrentLimitTrip amps s) :=
  .next (.ite (.setPower wf) wf)

theorem AnswerWf.currentLimitStep {amps : Nat} (wf : s.MemWf) : AnswerWf (execCurrentLimitStep amps s) :=
  .next (.ite wf (.ite (.setPower wf) (.setPower wf)))

theorem AnswerWf.currentLimitRestore (wf : s.MemWf) : AnswerWf (execCurrentLimitRestore s) :=
  .next (.ite wf (.setPower wf))

theorem State.MemWf.writeMargcmd {v : BitVec 64} (wf : s.MemWf) : (s.writeMargcmd v).MemWf :=
  .ite wf (.ite (.setFld wf) (.ite wf (.setPower (.setFld wf))))

theorem AnswerWf.margcmdStart {v : BitVec 64} (wf : s.MemWf) : AnswerWf (execMargcmdStart v s) :=
  .next (.writeMargcmd wf)

theorem AnswerWf.replanTimer {hours : Nat} (wf : s.MemWf) : AnswerWf (execReplanTimer hours s) :=
  .next (.ite (.setPower (.setPower wf)) wf)

theorem State.MemWf.syncMargin {i : Nat} (wf : s.MemWf) : (s.syncMargin i).MemWf := .setFld (.setFld wf)

theorem State.MemWf.excludeMonitor {i m : Nat} (wf : s.MemWf) : (s.excludeMonitor i m).MemWf := .setFld (.record wf)

theorem State.MemWf.setMargin {i op m : Nat} (wf : s.MemWf) : (s.setMargin i op m).MemWf :=
  .ite (.setPower wf) (.setPower wf)

theorem State.MemWf.replanPoint {i op : Nat} {rs bad : List Nat} (wf : s.MemWf) : (s.replanPoint i op rs bad).MemWf :=
  .ite (.setFld (.setFld (.record (.setMargin wf)))) (.setMargin wf)

theorem AnswerWf.replanIsland {readings : List (List Nat)} (wf : s.MemWf) :
    AnswerWf (execReplanIsland readings s) := by
  unfold execReplanIsland
  refine .next ?_
  split
  · exact wf
  · exact .syncMargin (.setFld (.setFld (.setFld (.setPower
      (.foldl (.foldl (.setFld (.setPower wf)) (fun _ _ wf => .excludeMonitor wf))
      (fun _ _ wf => .replanPoint wf))))))

theorem AnswerWf.marginLowerApply {island : BitVec 8} (wf : s.MemWf) : AnswerWf (execMarginLowerApply island s) := by
  unfold execMarginLowerApply
  refine .next (.ite (.syncMargin (.foldl wf (fun _ _ wf => ?_))) wf)
  split
  · exact .setPower wf
  · exact wf

/-! ## Machine/Sync.lean -/

theorem AnswerWf.wbar (wf : s.MemWf) : AnswerWf (execWbar s) :=
  .issue wf (fun _ => .relThen wf (fun _ wf => .wgSettle (.park wf)))

theorem AnswerWf.gbar (wf : s.MemWf) : AnswerWf (execGbar s) :=
  .issue wf (fun _ => .relThen wf (fun _ wf' => .ite (.escape wf) (.wgSettle (.park wf'))))

theorem AnswerWf.gbarRelease {gang : Nat} (wf : s.MemWf) : AnswerWf (execGbarRelease gang s) := by
  unfold execGbarRelease
  dsimp only
  refine .next (.ite ?_ wf)
  split
  · exact .emitWg (.foldl (.updGang wf) (fun _ _ wf => .goOnAll wf))
  · exact .foldl (.updGang wf) (fun _ _ wf => .goOnAll wf)

theorem State.MemWf.updBank {wk b : Nat} {f : Bank → Bank} (wf : s.MemWf) : (s.updBank wk b f).MemWf := .updWg wf

theorem State.MemWf.logFifo {c : Ctx} {b : Nat} {k : Bank} (wf : s.MemWf) : (s.logFifo c b k).2.MemWf :=
  .ite_2 (.logFirst wf) (.snd wf)

theorem State.MemWf.pushSlot {wk o a n : Nat} (wf : s.MemWf) : (s.pushSlot wk o a n).MemWf :=
  .foldl wf (fun _ _ wf => .dropSram (.updWg (.scrLook wf)))

theorem AnswerWf.fpush {d : BitVec 7} {b : BitVec 5} (wf : s.MemWf) : AnswerWf (execFpush d b s) := by
  unfold execFpush
  refine .issue wf (fun _ => ?_)
  split
  · exact .advance wf
  · refine .ite (.stallBy wf) ?_
    split
    · exact .raiseAll wf
    · exact .ite (.raiseAll wf) (.ite (.raiseAll wf)
        (.ite (.stallBy wf) (.ite (.raiseAll wf) (.ite (.stallBy wf)
        (.ite (.stallBy wf) (.ite (.logFifo wf) (.advance (.updBank (.pushSlot (.logFifo wf))))))))))

theorem AnswerWf.fpop {d : BitVec 7} {b : BitVec 5} (wf : s.MemWf) : AnswerWf (execFpop d b s) := by
  unfold execFpop
  refine .issue wf (fun _ => .ite (.advance wf) (.ite (.stallBy wf) ?_))
  split
  · exact .raiseAll wf
  · exact .ite (.stallBy wf) (.ite (.logFifo wf) (.advance (.writeV (.updBank (.logFifo wf)))))

theorem AnswerWf.bankm {d : BitVec 7} {e : BitVec 3} {m : BitVec 2} {b : BitVec 5} (wf : s.MemWf) :
    AnswerWf (execBankm d e m b s) :=
  .issue wf (fun _ => .ite (.advance wf) (.ite (.failBlock wf) (.updGroup (.takeId wf))))

theorem State.MemWf.setBank {wk core b : Nat} {k : Bank} {m : BankMode} {e : Nat} (wf : s.MemWf) :
    (s.setBank wk core b k m e).MemWf :=
  .andThen (.dropFlaws (.updWg wf)) fun wf =>
  .ite (.shrinkPool wf) wf

theorem AnswerWf.bankmCompletion {g : Nat} (wf : s.MemWf) : AnswerWf (execBankmCompletion g s) := by
  unfold execBankmCompletion
  refine .next ?_
  split
  · exact wf
  · split
    · exact wf
    · split
      · exact wf
      · split
        · exact .ite wf (.advance (.writeV (.ite (.setBank wf) wf)))
        · exact wf

theorem State.MemWf.evsig {c : Ctx} {op : Nat} {a : BitVec 7} {v : Nat → Val} (wf : s.MemWf) :
    (s.evsig c op a v).MemWf := by
  unfold State.evsig
  split
  · exact .advance wf
  · refine .ite (.raiseAll wf) ?_
    split
    · exact .raiseAll wf
    · exact .relThen wf (fun _ wf' => .ite (.escape wf) (.advance (.handOver wf')))

theorem AnswerWf.evsigAdd {a b : BitVec 7} (wf : s.MemWf) : AnswerWf (execEvsigAdd a b s) :=
  .issue wf (fun _ => .evsig wf)

theorem AnswerWf.evsigSet {a b : BitVec 7} (wf : s.MemWf) : AnswerWf (execEvsigSet a b s) :=
  .issue wf (fun _ => .evsig wf)

theorem AnswerWf.evsigClr {a : BitVec 7} (wf : s.MemWf) : AnswerWf (execEvsigClr a s) :=
  .issue wf (fun _ => .evsig wf)

theorem AnswerWf.evqry {d a : BitVec 7} (wf : s.MemWf) : AnswerWf (execEvqry d a s) := by
  unfold execEvqry
  dsimp only
  refine .issue wf (fun _ => ?_)
  split
  · exact .advance wf
  · refine .ite (.stallBy wf) (.ite (.stallBy wf) ?_)
    split
    · exact .raiseAll wf
    · exact .ite (.startPend (.logRegs wf)) (.logRegs wf)

theorem AnswerWf.trace {d : BitVec 7} {k : BitVec 16} (wf : s.MemWf) : AnswerWf (execTrace d k s) := by
  unfold execTrace
  refine .issue wf (fun _ => ?_)
  split
  · exact .advance wf
  · exact .advance (.emitL wf)

theorem AnswerWf.tmark {k : BitVec 16} (wf : s.MemWf) : AnswerWf (execTmark k s) :=
  .issue wf (fun _ => .ite (.advance wf) (.advance (.emitL wf)))

theorem AnswerWf.waitf {m : BitVec 12} (wf : s.MemWf) : AnswerWf (execWaitf m s) := by
  unfold execWaitf
  refine .issue wf (fun _ => .ite (.advance wf) (.ite (.stallBy wf) ?_))
  split
  · exact .deliver wf
  · exact .advance wf

theorem AnswerWf.halt (wf : s.MemWf) : AnswerWf (execHalt s) :=
  .issue wf (fun _ => .ite (.advance wf) (.ite (.failBlock wf)
    (.ite (.stallBy wf) (.ite (.raiseAll wf) (.elsewhere (.updGang wf))))))

/-! ## Machine/Kulintang.lean -/

theorem State.MemWf.readCtl {addr : Nat} (wf : s.MemWf) : (s.readCtl addr).2.2.MemWf :=
  .ite_22 (.thd (.homeRead wf)) (.thd wf)

theorem State.MemWf.queueError {q code tag index : Nat} (wf : s.MemWf) : (s.queueError q code tag index).MemWf :=
  .postErr (.updQueue wf)

theorem State.MemWf.badCtl {q b : Nat} {pois : Bool} (wf : s.MemWf) : (s.badCtl q b pois).MemWf :=
  .ite (.postTo (.updQueue wf)) (.updQueue wf)

theorem State.MemWf.enableQueue {q addr : Nat} (wf : s.MemWf) : (s.enableQueue q addr).MemWf :=
  .ite wf (.andThen (.elsewhere (.readCtl wf)) fun wf => .ite (.badCtl (.dropWaits wf))
    (.letGo (.syncQ (.dropWaits wf))))

theorem State.MemWf.disableQueue {q : Nat} (wf : s.MemWf) : (s.disableQueue q).MemWf :=
  .ite (.startLadder (.updQueue wf)) (.updQueue (.dropWaits (.updQueue wf)))

theorem State.MemWf.writeQbase {q : Nat} {v : BitVec 64} (wf : s.MemWf) : (s.writeQbase q v).MemWf :=
  .ite (.ite (.disableQueue wf) wf) (.ite (.enableQueue wf) (.ite (.elsewhere wf) wf))

theorem AnswerWf.queueEnable {q : BitVec 10} {v : BitVec 64} (wf : s.MemWf) : AnswerWf (execQueueEnable q v s) :=
  .next (.writeQbase wf)

theorem AnswerWf.queueDisable {q : BitVec 10} {v : BitVec 64} (wf : s.MemWf) : AnswerWf (execQueueDisable q v s) :=
  .next (.writeQbase wf)

theorem State.MemWf.announce {q wr : Nat} (wf : s.MemWf) : (s.announce q wr).MemWf := .updQueue wf

theorem State.MemWf.classify {q wr : Nat} (wf : s.MemWf) : (s.classify q wr).MemWf :=
  .ite wf (.ite (.announce wf) (.queueError wf))

theorem State.MemWf.doorbell {q : Nat} {v : BitVec 64} (wf : s.MemWf) : (s.doorbell q v).MemWf := by
  unfold State.doorbell
  dsimp only
  exact .ite wf (.ite (.badCtl (.readCtl wf)) (.andThen (.updQueue (.readCtl wf)) fun wf => .andThen
    (.ite (.updQueue wf) wf) fun wf => .andThen (.ite (.updQueue wf) wf) fun wf => .ite (.classify wf) wf))

theorem AnswerWf.doorbell {q : BitVec 10} {v : BitVec 64} (wf : s.MemWf) : AnswerWf (execDoorbell q v s) :=
  .next (.doorbell wf)

theorem AnswerWf.doorbellRsy {q : BitVec 10} {v : BitVec 64} (wf : s.MemWf) : AnswerWf (execDoorbellRsy q v s) :=
  .next (.doorbell wf)

theorem AnswerWf.doorbellClrerr {q : BitVec 10} {v : BitVec 64} (wf : s.MemWf) :
    AnswerWf (execDoorbellClrerr q v s) :=
  .next (.doorbell wf)

theorem State.MemWf.patDeny {src : Nat} (wf : s.MemWf) : (s.patDeny src).MemWf := .elsewhere wf

theorem State.MemWf.peerWrite {src q : Nat} {packet : BitVec 512} (wf : s.MemWf) : (s.peerWrite src q packet).MemWf :=
  .ite (.patDeny wf) (.ite (.announce (.devWrite wf)) (.updQueue wf))

theorem State.MemWf.peerDoorbell {src q wr : Nat} (wf : s.MemWf) : (s.peerDoorbell src q wr).MemWf :=
  .ite (.patDeny wf) (.doorbell wf)

theorem State.MemWf.applyEvent {u : EvUpd} (wf : s.MemWf) : (s.applyEvent u).MemWf :=
  .ite (.ite (.emitTo (.elsewhere wf)) (.elsewhere wf)) (.ite (.emitQ (.elsewhere wf)) (.elsewhere wf))

theorem State.MemWf.addWaiter {ev th : Nat} {o : WaitOwner} {p : Nat} (wf : s.MemWf) :
    (s.addWaiter ev th o p).MemWf :=
  .elsewhere wf

theorem AnswerWf.waiterFire {n : Nat} (wf : s.MemWf) : AnswerWf (execWaiterFire n s) := by
  unfold execWaiterFire
  dsimp only
  refine .next ?_
  split
  · exact wf
  · refine .ite wf ?_
    split
    · exact .postDone (.ite (.updQueue (.elsewhere wf)) (.elsewhere wf))
    · split
      · exact .andThen (.updLaunch (.elsewhere wf)) fun wf =>
          .ite (.wantPass wf) wf
      · exact .updLaunch (.elsewhere wf)

theorem State.MemWf.handLaunch {l : Launch} {lane : Nat} (wf : s.MemWf) : (s.handLaunch l lane).MemWf :=
  .wantPass (.syncQ (.emitQ (.foldl (.elsewhere wf) (fun _ _ wf => .ite wf (.addWaiter wf)))))

theorem State.MemWf.resync {s0 : State} {p dest n : Nat} (wf : s.MemWf) :
    (s.resync s0 p dest n).2.2.MemWf :=
  .thd (.draw (.outsideWrite wf))

theorem State.MemWf.takeLanes (wf : s.MemWf) : s.takeLanes.MemWf :=
  .foldl wf (fun _ _ wf => .ite (.elsewhere (.updQueue wf)) (.updQueue wf))

theorem State.MemWf.release {q : Nat} {st : QState} (wf : s.MemWf) : (s.release q st).MemWf := .updQueue wf

theorem State.MemWf.bindPacket {lane q ix v : Nat} (wf : s.MemWf) : (s.bindPacket lane q ix v).2.MemWf :=
  .ite_2 (.snd (.release (.updQueue wf))) (.ite_2 (.snd (.updQueue wf)) (.snd (.updQueue wf)))

theorem State.MemWf.copyPacket {lane q : Nat} (wf : s.MemWf) : (s.copyPacket lane q).2.MemWf := by
  unfold State.copyPacket
  refine .ite_2 (.snd wf) (.ite_2 (.snd (.updQueue wf)) (.ite_2 (.snd wf) (.ite_2 (.snd (.release wf)) ?_)))
  split
  · exact .bindPacket wf
  · exact .ite_2 (.snd (.release wf)) (.andThen (.updQueue (.homeRead wf)) fun wf1 => .ite_2 (.snd (.queueError wf1))
      (.ite_2 (.snd (.queueError (.homeRead wf))) (.bindPacket wf1)))

theorem State.MemWf.work_resync {w : Work} {s0 : State} (wf : s.MemWf) : (Work.resync w s0 s).MemWf :=
  .ite (.updQueue (.resync wf)) (.postDone (.resync wf))

theorem State.MemWf.work_preempt {w : Work} (wf : s.MemWf) : (Work.preempt w s).MemWf :=
  .ite (.queueError wf) (.ite (.postDone (.ite (.letGo (.updQueue wf)) wf)) (.startLadder wf))

theorem State.MemWf.work_signal {w : Work} (wf : s.MemWf) : (Work.signal w s).MemWf :=
  .ite (.queueError wf) (.postDone (.applyEvent wf))

theorem State.MemWf.work_wait {w : Work} (wf : s.MemWf) : (Work.wait w s).MemWf :=
  .ite (.queueError wf) (.ite (.postDone wf) (.updQueue (.addWaiter wf)))

theorem State.MemWf.work_launch {w : Work} (wf : s.MemWf) : (Work.launch w s).MemWf := by
  unfold Work.launch
  refine .ite (.queueError (.homeRead wf)) ?_
  split
  · exact .handLaunch (.homeRead wf)
  · exact .queueError (.homeRead wf)

theorem State.MemWf.work_serve {w : Work} {s0 : State} (wf : s.MemWf) : (Work.serve w s0 s).MemWf := by
  unfold Work.serve
  split
  · exact .work_resync wf
  · exact .work_preempt wf
  · exact .work_signal wf
  · exact .work_wait wf
  · exact .work_launch wf
  · exact .postDone wf

theorem State.MemWf.work_goOn {w : Work} (wf : s.MemWf) : (Work.goOn w s).MemWf :=
  .ite wf (.ite (.release wf) (.ite (.release wf) (.ite (.release wf) (.updQueue wf))))

theorem AnswerWf.kulintangRound {s0 : State} (wf : s0.MemWf) : AnswerWf (execKulintangRound s0) :=
  .next (.foldl (.elsewhere (.foldl (.foldl (.foldl_2 (.snd (.takeLanes wf)) (fun _ _ wf => .snd (.copyPacket wf)))
    (fun _ _ wf => .foldl wf (fun _ _ wf => .work_serve wf))) (fun _ _ wf => .work_goOn wf)))
    (fun _ _ wf => .applyEvent wf))

theorem State.MemWf.cqKick {c : Nat} (wf : s.MemWf) : (s.cqKick c).MemWf := .cqStalls (.cqDrain (.coalesce wf))

theorem State.MemWf.writeCqcfg {c : Nat} {v : BitVec 64} (wf : s.MemWf) : (s.writeCqcfg c v).MemWf :=
  .ite wf (.cqKick (.setCq wf))

theorem AnswerWf.cqEnable {q : BitVec 8} {v : BitVec 64} (wf : s.MemWf) : AnswerWf (execCqEnable q v s) :=
  .next (.writeCqcfg wf)

theorem State.MemWf.writeCqhead {c : Nat} {v : BitVec 64} (wf : s.MemWf) : (s.writeCqhead c v).MemWf :=
  .cqKick (.setCq wf)

theorem AnswerWf.cqheadWrite {q : BitVec 8} {v : BitVec 64} (wf : s.MemWf) : AnswerWf (execCqheadWrite q v s) :=
  .next (.writeCqhead wf)

theorem State.MemWf.writeCqcoal {c : Nat} {v : BitVec 64} (wf : s.MemWf) : (s.writeCqcoal c v).MemWf :=
  .coalesce (.setCq wf)

theorem AnswerWf.cqCoalesceTimer {q : BitVec 8} (wf : s.MemWf) : AnswerWf (execCqCoalesceTimer q s) :=
  .next (.ite (.interrupt (.setCq wf)) wf)

end Sys2Proof.Machine
end

section
/-! SUPPORT. Memory in its canonical form through failures, remote operations and links. -/

namespace Sys2Proof.Machine

variable {s : State}

/-! ## Machine/Reliab.lean -/

theorem State.MemWf.writeErrbase {v : BitVec 64} (wf : s.MemWf) : (s.writeErrbase v).MemWf :=
  .ite (.foldl (.setReg wf) (fun _ _ wf => .errMessage (.recStore wf))) (.setReg wf)

theorem AnswerWf.errbaseEnable {v : BitVec 64} (wf : s.MemWf) : AnswerWf (execErrbaseEnable v s) :=
  .next (.writeErrbase wf)

theorem State.MemWf.freeRec {i : Nat} (wf : s.MemWf) : (s.freeRec i).MemWf := by
  unfold State.freeRec
  split
  · exact wf
  · exact .ite (.recStore (.elsewhere wf)) (.elsewhere wf)

theorem State.MemWf.writeErrack {v : BitVec 64} (wf : s.MemWf) : (s.writeErrack v).MemWf := .ite (.freeRec wf) wf

theorem AnswerWf.errackFree {v : BitVec 64} (wf : s.MemWf) : AnswerWf (execErrackFree v s) := .next (.writeErrack wf)

theorem State.MemWf.writeInjCtl {v : BitVec 64} (wf : s.MemWf) : (s.writeInjCtl v).MemWf := .setReg wf

theorem AnswerWf.injArm {v : BitVec 64} (wf : s.MemWf) : AnswerWf (execInjArm v s) := .next (.writeInjCtl wf)

theorem State.MemWf.writeScrubctl {v : BitVec 64} (wf : s.MemWf) : (s.writeScrubctl v).MemWf :=
  .ite (.setFld wf) (.setFld (.setFld wf))

theorem State.MemWf.scrubBad {ln : Nat} {die : Option Nat} {synd : Nat} (wf : s.MemWf) :
    (s.scrubBad ln die synd).MemWf := by
  unfold State.scrubBad
  split
  · exact .updLine (.record wf)
  · exact .ite (.updLine (.record wf)) (.setMM (.record wf))

theorem State.MemWf.scrubAt {ln : Nat} {die : Option Nat} (wf : s.MemWf) : (s.scrubAt ln die).MemWf := by
  unfold State.scrubAt
  dsimp only
  split
  · exact wf
  · refine .ite (.scrubBad (.dropFlaws wf)) ?_
    split <;> exact .record (.dropFlaws wf)

theorem AnswerWf.scrub {found : BitVec 2} (wf : s.MemWf) : AnswerWf (execScrub found s) := by
  unfold execScrub
  refine .next (.ite wf (.ite (.setFld (.elsewhere ?_)) (.elsewhere ?_)))
  · split
    · exact .record (.foldl (.scrubAt wf) (fun _ _ wf => .scrubAt wf))
    · exact .scrubBad (.foldl (.scrubAt wf) (fun _ _ wf => .scrubAt wf))
    · exact .scrubBad (.foldl (.scrubAt wf) (fun _ _ wf => .scrubAt wf))
    · exact .foldl (.scrubAt wf) (fun _ _ wf => .scrubAt wf)
  · split
    · exact .record (.foldl (.scrubAt wf) (fun _ _ wf => .scrubAt wf))
    · exact .scrubBad (.foldl (.scrubAt wf) (fun _ _ wf => .scrubAt wf))
    · exact .scrubBad (.foldl (.scrubAt wf) (fun _ _ wf => .scrubAt wf))
    · exact .foldl (.scrubAt wf) (fun _ _ wf => .scrubAt wf)

theorem State.MemWf.cutHome {home : Nat} (wf : s.MemWf) : (s.cutHome home).MemWf :=
  .setMM (.foldl wf (fun _ _ wf => .strikeLost wf))

theorem State.MemWf.failDie {d : Nat} (wf : s.MemWf) : (s.failDie d).MemWf :=
  .ite wf (.foldl (.foldl (.elsewhere (.setMM (.foldl (.setMM (.record wf))
    (fun _ _ wf => .andThen (.ite (.strikeLost wf) wf) fun wf => .ite (.updLine (.bumpVersion (.takeBack wf)))
    (.takeBack wf))))) (fun _ _ wf => .setCpart wf)) (fun _ _ wf => .destroyLaunch wf))

theorem AnswerWf.dieFailure {die : BitVec 2} (wf : s.MemWf) : AnswerWf (execDieFailure die s) := .next (.failDie wf)

theorem State.MemWf.salvageHeader (wf : s.MemWf) : s.salvageHeader.MemWf := .devWrite wf

theorem State.MemWf.salvage {ln d : Nat} (wf : s.MemWf) : (s.salvage ln d).MemWf :=
  .takeBack (.setMM (.devWrite (.checkOwn wf)))

theorem State.MemWf.loseWaiters {st : Nat} (wf : s.MemWf) : (s.loseWaiters st).MemWf := by
  unfold State.loseWaiters
  refine .foldl (.elsewhere wf) (fun _ _ wf => ?_)
  split
  · split
    · exact .queueError (.updQueue wf)
    · exact wf
  · exact .destroyLaunch wf

theorem State.MemWf.failStack {st : Nat} (wf : s.MemWf) : (s.failStack st).MemWf :=
  .ite wf (.salvageHeader (.loseWaiters (.setMM (.cutHome
    (.foldl (.draw (.record wf)) (fun _ _ wf => .salvage wf))))))

theorem AnswerWf.stackFailure {stack : BitVec 3} (wf : s.MemWf) : AnswerWf (execStackFailure stack s) :=
  .next (.failStack wf)

theorem State.MemWf.failController {c : Nat} (wf : s.MemWf) : (s.failController c).MemWf :=
  .ite wf (.setMM (.cutHome (.record wf)))

theorem AnswerWf.controllerFailure {ctl : BitVec 1} (wf : s.MemWf) : AnswerWf (execControllerFailure ctl s) :=
  .next (.failController wf)

theorem AnswerWf.ownershipRequest {die : BitVec 2} {line : Nat} (wf : s.MemWf) :
    AnswerWf (execOwnershipRequest die line s) :=
  .next (.ite (.own wf) wf)

theorem AnswerWf.revalidation {die : BitVec 2} {line : Nat} (wf : s.MemWf) : AnswerWf (execRevalidation die line s) :=
  .next (.ite (.readLine wf) wf)

theorem AnswerWf.wrapClear {die : Option (BitVec 2)} {line : Nat} (wf : s.MemWf) :
    AnswerWf (execWrapClear die line s) := by
  unfold execWrapClear
  refine .next ?_
  split <;> exact .ite wf (.updLine wf)

theorem State.MemWf.dropSpace {a : Nat} (wf : s.MemWf) : (s.dropSpace a).MemWf := .elsewhere wf

theorem State.MemWf.writeAsctl {v : BitVec 64} (wf : s.MemWf) : (s.writeAsctl v).MemWf :=
  .ite (.setFld wf) (.andThen (.setFld (.setFld wf)) fun wf1 => .andThen (.ite wf1 (.setFld wf)) fun wf => .ite
    (.setMM (.ite (.dropSpace wf) wf)) wf)

theorem AnswerWf.asctlInval {v : BitVec 64} (wf : s.MemWf) : AnswerWf (execAsctlInval v s) := .next (.writeAsctl wf)

theorem AnswerWf.asctlAdvance {v : BitVec 64} (wf : s.MemWf) : AnswerWf (execAsctlAdvance v s) :=
  .next (.writeAsctl wf)

theorem AnswerWf.asctlDone (wf : s.MemWf) : AnswerWf (execAsctlDone s) := by
  unfold execAsctlDone
  refine .next ?_
  split
  · exact wf
  · exact .setMM wf

/-! ## Machine/Remote.lean -/

theorem State.MemWf.updPort {n : Nat} {f : Port → Port} (wf : s.MemWf) : (s.updPort n f).MemWf := .elsewhere wf

theorem State.MemWf.conn {n : Nat} (wf : s.MemWf) : (s.conn n).2.MemWf := .ite_2 (.snd wf) (.snd (.homeRead wf))

theorem State.MemWf.dmvSend {n v : Nat} {op : Option (Nat × Nat)} {off len roff rkey flags code : Nat}
    {data : List Byte} (wf : s.MemWf) : (s.dmvSend n v op off len roff rkey flags code data).MemWf :=
  .send (.elsewhere (.devWrite wf))

theorem State.MemWf.sendPart {c : Ctx} {o : QOp} {off n : Nat} {data : List Byte} (wf : s.MemWf) :
    (s.sendPart c o off n data).MemWf := by
  unfold State.sendPart
  refine .ite (.send (.updPort (.updOp wf))) ?_
  split
  · next e1 =>
      exact .updOp (.of_2 (.conn wf) e1)
  · next e1 =>
      exact .dmvSend (.updOp (.of_2 (.conn wf) e1))

theorem State.MemWf.sendNext {c : Ctx} {o : QOp} (wf : s.MemWf) : (s.sendNext c o).MemWf := by
  unfold State.sendNext
  refine .ite (.sendPart wf) ?_
  split
  · exact .updOp wf
  · split
    · next e2 =>
        exact .updOp (.of_2 (.engParts wf) e2)
    · next e2 =>
        exact .andThen (.of_2 (.engParts wf) e2) fun wf =>
          .andThen (.sendPart (.engRead wf)) fun wf1 =>
          .andThen (.ite (.engRead wf) wf1) fun wf =>
          .ite (.updOp wf) wf

theorem State.MemWf.land {c : Ctx} {o : QOp} {off : Nat} {data : List Byte} {pois : Option PTag} (wf : s.MemWf) :
    (s.land c o off data pois).MemWf := by
  unfold State.land
  split
  · exact .updOp wf
  · split
    · next e2 =>
        exact .updOp (.of_2 (.engParts wf) e2)
    · next e2 =>
        exact .updOp (.engWrite (.of_2 (.engParts wf) e2))

theorem State.MemWf.landBytes {c : Ctx} {o : QOp} {off : Nat} {data : List Byte} {pois : Option PTag} (wf : s.MemWf) :
    (s.landBytes c o off data pois).MemWf :=
  .ite (.updOp wf) (.land wf)

theorem State.MemWf.pump {gk id fuel : Nat} (wf : s.MemWf) : (s.pump gk id fuel).MemWf := by
  induction fuel generalizing s with
  | zero => exact wf
  | succ fuel ih =>
    unfold State.pump
    split
    · exact wf
    · split
      · exact wf
      · refine .ite wf ?_
        split
        · exact ih (.land (.updOp wf))
        · exact .ite (.ite (.updOp wf) (ih (.sendNext wf))) wf

theorem State.MemWf.startRemote {c : Ctx} {o : QOp} (wf : s.MemWf) : (s.startRemote c o).MemWf := by
  unfold State.startRemote
  dsimp only
  split
  · next e1 =>
      exact .updOp (.of_2 (.rangeParts wf) e1)
  · next e1 =>
      refine .ite ?_ ?_
      · split
        · exact .updOp (.of_2 (.rangeParts wf) e1)
        · exact .pump (.updOp (.of_2 (.rangeParts wf) e1))
      · split
        · next e2 =>
            exact .updOp (.of_2 (.conn (.of_2 (.rangeParts wf) e1)) e2)
        · next e2 =>
            exact .pump (.of_2 (.conn (.of_2 (.rangeParts wf) e1)) e2)

theorem AnswerWf.copyStart {g : Nat} {q : BitVec 3} (wf : s.MemWf) : AnswerWf (execCopyStart g q s) := by
  unfold execCopyStart
  refine .next ?_
  split
  · exact wf
  · refine .ite wf ?_
    split
    · split
      · exact .ite (.pump wf) wf
      · exact wf
    · exact .ite wf (.andThen (.updOp (.bindDesc wf)) fun wf => .ite (.startRemote (.emitCopy wf)) (.emitCopy wf))

theorem State.MemWf.finishRemote {c : Ctx} {o : QOp} (wf : s.MemWf) : (s.finishRemote c o).MemWf :=
  .emitCopy (.finishOp (.writeStatus wf))

theorem State.MemWf.endCopy {g q : Nat} {stop : Bool} (wf : s.MemWf) : (s.endCopy g q stop).MemWf := by
  unfold State.endCopy
  split
  · exact wf
  · refine .ite wf ?_
    split
    · exact wf
    · refine .ite wf (.ite (.ite ?_ wf) (.ite wf ?_))
      · split
        · exact .copyMismatch (.ite_2 (.rangeParts wf) (.snd wf))
        · exact .finishRemote wf
      · split
        · exact .copyMismatch wf
        · exact .run_finish (.qOp_runLocal wf)

theorem AnswerWf.copyDone {g : Nat} {q : BitVec 3} (wf : s.MemWf) : AnswerWf (execCopyDone g q s) :=
  .next (.endCopy wf)

theorem AnswerWf.copyStop {g : Nat} {q : BitVec 3} (wf : s.MemWf) : AnswerWf (execCopyStop g q s) :=
  .next (.endCopy wf)

/-! ## Machine/Links.lean -/

theorem State.MemWf.train {n : Nat} (wf : s.MemWf) : (s.train n).MemWf := .ite (.send wf) wf

theorem State.MemWf.writeSlstat {n : Nat} {v : BitVec 64} (wf : s.MemWf) : (s.writeSlstat n v).MemWf :=
  .ite (.train (.updPort wf)) (.updPort wf)

theorem AnswerWf.ldownClear {port : BitVec 4} (wf : s.MemWf) : AnswerWf (execLdownClear port s) :=
  .next (.ite (.train (.updPort wf)) wf)

theorem State.MemWf.trainHost (wf : s.MemWf) : s.trainHost.MemWf := .draw (.setPci wf)

theorem AnswerWf.linkTraining {port : BitVec 4} {peer : BitVec 12} (wf : s.MemWf) :
    AnswerWf (execLinkTraining port peer s) :=
  .next (.ite (.trainHost wf) (.ite (.updPort wf) wf))

theorem State.MemWf.writeDevnum {v : BitVec 64} (wf : s.MemWf) : (s.writeDevnum v).MemWf :=
  .ite wf (.ite (.setReg wf) (.foldl (.setReg wf) (fun _ _ wf => .ite (.train wf) wf)))

theorem AnswerWf.devnumWrite {v : BitVec 64} (wf : s.MemWf) : AnswerWf (execDevnumWrite v s) :=
  .next (.writeDevnum wf)

theorem AnswerWf.portNarrow {port : BitVec 4} (wf : s.MemWf) : AnswerWf (execPortNarrow port s) :=
  .next (.ite wf (.ite (.draw (.send (.updPort wf))) (.ite (.updPort wf) wf)))

theorem State.MemWf.someLane (wf : s.MemWf) : s.someLane.2.MemWf := .snd (.draw wf)

theorem AnswerWf.flitCrcFail {port : BitVec 4} {fail : FlitRun} (wf : s.MemWf) :
    AnswerWf (execFlitCrcFail port fail s) :=
  .next (.ite (.record (.someLane (.updPort wf))) (.ite (.setPci wf) wf))

theorem AnswerWf.portDown {port : BitVec 4} (wf : s.MemWf) : AnswerWf (execPortDown port s) :=
  .next (.ite wf (.foldl (.updPort (.record wf)) (fun _ _ wf => .updOp wf)))

theorem AnswerWf.beatCrcFail {bridge : BitVec 2} {fail : BeatRun} (wf : s.MemWf) :
    AnswerWf (execBeatCrcFail bridge fail s) :=
  .next (.ite wf (.record (.elsewhere wf)))

theorem AnswerWf.bridgeFailed {bridge : BitVec 2} {lost : List Nat} (wf : s.MemWf) :
    AnswerWf (execBridgeFailed bridge lost s) :=
  .next (.ite wf (.foldl (.foldl (.elsewhere (.record wf))
    (fun _ _ wf => .ite (.updLine (.bumpVersion (.dropDie (.takeBack wf)))) wf))
    (fun _ _ wf => .ite (.failDie wf) wf)))

theorem AnswerWf.pqw {port : BitVec 4} {beat packet : BitVec 512} (wf : s.MemWf) :
    AnswerWf (execPqw port beat packet s) :=
  .next (.ite wf (.ite (.patDeny wf) (.peerWrite wf)))

theorem AnswerWf.pdb {port : BitVec 4} {beat : BitVec 512} (wf : s.MemWf) : AnswerWf (execPdb port beat s) :=
  .next (.ite wf (.peerDoorbell wf))

theorem State.MemWf.complete {port src status : Nat} {data : List Byte} (wf : s.MemWf) :
    (s.complete port src status data).MemWf :=
  .send wf

theorem State.MemWf.openBytes {n : Nat} (wf : s.MemWf) : (s.openBytes n).2.MemWf := .snd (.draw wf)

theorem State.MemWf.homeServe {pa n : Nat} (wf : s.MemWf) : (s.homeServe pa n).2.2.MemWf :=
  .foldl_22 (.thd wf) (fun _ _ wf => .ite_22 (.thd (.openBytes (.homeReadLine wf))) (.thd (.homeReadLine wf)))

theorem AnswerWf.mrd {port : BitVec 4} {beat : BitVec 512} (wf : s.MemWf) : AnswerWf (execMrd port beat s) :=
  .next (.ite wf (.ite (.complete (.patDeny wf)) (.complete (.homeServe wf))))

theorem AnswerWf.mwr {port : BitVec 4} {beat : BitVec 512} {data : List Byte} (wf : s.MemWf) :
    AnswerWf (execMwr port beat data s) :=
  .next (.ite wf (.ite (.complete (.patDeny wf)) (.complete (.outsideWrite wf))))

theorem State.MemWf.answer {gk id off n st : Nat} {data : List Byte} {unit : Nat} (wf : s.MemWf) :
    (s.answer gk id off n st data unit).MemWf := by
  unfold State.answer
  split
  · exact wf
  · split
    · exact wf
    · exact .ite wf (.ite (.updOp wf) (.ite (.updOp wf)
        (.pump (.ite (.updOp wf) (.ite (.landBytes (.record (.someLane wf))) (.landBytes wf))))))

theorem AnswerWf.cpl {port : BitVec 4} {beat : BitVec 512} {data : List Byte} (wf : s.MemWf) :
    AnswerWf (execCpl port beat data s) := by
  unfold execCpl
  refine .next (.ite wf ?_)
  split
  · exact wf
  · exact .answer (.updPort wf)

theorem AnswerWf.lct {port : BitVec 4} {beat : BitVec 512} (wf : s.MemWf) : AnswerWf (execLct port beat s) :=
  .next (.ite (.draw (.updPort wf)) wf)

theorem AnswerWf.badpkt {port : BitVec 4} {beat : BitVec 512} (wf : s.MemWf) : AnswerWf (execBadpkt port beat s) :=
  .next (.ite (.updPort wf) wf)

theorem State.MemWf.aerSet {b : Nat} (wf : s.MemWf) : (s.aerSet b).MemWf := .setPci wf

theorem State.MemWf.taken {ecrc : Bool} {body : State → State} (wf : s.MemWf) (wf1 : ∀ t, t.MemWf → (body t).MemWf) :
    (s.taken ecrc body).MemWf :=
  .ite (.aerSet wf) (wf1 _ wf)

theorem State.MemWf.hostRead {pa n : Nat} (wf : s.MemWf) : (s.hostRead pa n).MemWf :=
  .ite wf (.ite (.aerSet wf) (.ite (.toHost wf) (.toHost (.homeServe wf))))

theorem AnswerWf.hostMemoryRead {at_ : BarAt} {n : Nat} (wf : s.MemWf) : AnswerWf (execHostMemoryRead at_ n s) :=
  .next (.taken wf (fun _ wf => .hostRead wf))

theorem State.MemWf.countDropped {t : PTag} (wf : s.MemWf) : (s.countDropped t).MemWf := by
  unfold State.countDropped
  split
  · exact wf
  · exact .recStore (.elsewhere wf)

theorem State.MemWf.hostWrite {pa : Nat} {data : List Byte} {ep : Bool} (wf : s.MemWf) :
    (s.hostWrite pa data ep).MemWf := by
  unfold State.hostWrite
  dsimp only
  refine .ite (.aerSet wf) (.ite (.ite (.aerSet wf) wf) ?_)
  split
  · exact .countDropped (.outsideWrite (.andThen (.ite (.aerSet wf) wf) fun wf => .ite_2
      (.snd (.record (.someLane wf))) (.snd wf)))
  · exact .outsideWrite (.andThen (.ite (.aerSet wf) wf) fun wf => .ite_2 (.snd (.record (.someLane wf))) (.snd wf))

theorem AnswerWf.hostMemoryWrite {at_ : BarAt} {data : List Byte} {ep : Bool} (wf : s.MemWf) :
    AnswerWf (execHostMemoryWrite at_ data ep s) :=
  .next (.taken wf (fun _ wf => .hostWrite wf))

theorem State.MemWf.dmvDrop (wf : s.MemWf) : s.dmvDrop.MemWf := .setFld wf

theorem State.MemWf.dmvFrame {udp : BitVec 16} {body : State → State} (wf : s.MemWf)
    (wf1 : ∀ t, t.MemWf → (body t).MemWf) : (s.dmvFrame udp body).MemWf :=
  .ite wf (.ite (.dmvDrop wf) (wf1 _ wf))

theorem State.MemWf.dmvReply {v op psn : Nat} (wf : s.MemWf) : (s.dmvReply v op psn).MemWf := .send wf

theorem State.MemWf.dmvAck {v : Nat} (wf : s.MemWf) : (s.dmvAck v).MemWf := .draw (.dmvReply wf)

theorem State.MemWf.dmvTake {h : BitVec 256} {op : Nat} {len : Bool} {ok : Nat → Bool} {body : State → Nat → State}
    (wf : s.MemWf) (wf1 : ∀ t a, t.MemWf → (body t a).MemWf) : (s.dmvTake h op len ok body).MemWf := by
  unfold State.dmvTake
  refine .ite (.dmvDrop wf) ?_
  split
  · next e1 =>
      exact .dmvDrop (.of_2 (.conn wf) e1)
  · next e1 =>
      exact .andThen (.of_2 (.conn wf) e1) fun wf =>
        .ite (.dmvDrop wf) (.ite (.dmvReply wf) (wf1 _ _ wf))

theorem State.MemWf.psnOn {h : BitVec 256} {v : Nat} (wf : s.MemWf) : (s.psnOn h v).1.MemWf := .fst (.devWrite wf)

theorem State.MemWf.ackAsked {h : BitVec 256} {v : Nat} (wf : s.MemWf) : (s.ackAsked h v).MemWf :=
  .ite (.dmvAck wf) wf

theorem AnswerWf.damaviWrite {at_ : EthAt} {hdr : BitVec 256} {data : List Byte} (wf : s.MemWf) :
    AnswerWf (execDamaviWrite at_ hdr data s) :=
  .next (.dmvFrame wf (fun _ wf => .dmvTake wf (fun _ _ wf => .ackAsked (.outsideWrite (.psnOn wf)))))

theorem AnswerWf.damaviRead {at_ : EthAt} {hdr : BitVec 256} (wf : s.MemWf) :
    AnswerWf (execDamaviRead at_ hdr s) := by
  unfold execDamaviRead
  refine .next (.dmvFrame wf (fun _ wf => .dmvTake wf (fun _ _ wf => ?_)))
  split
  next e1 =>
    have wfa := State.MemWf.of_1 (.psnOn wf) e1
    extract_lets
    split
    next e2 =>
      have wfr := State.MemWf.of_22 (.homeRead (.ackAsked wfa)) e2
      exact .ite wfr (.dmvSend wfr)

theorem State.MemWf.setUnacked {m : Map Unacked} (wf : s.MemWf) : (s.setUnacked m).MemWf := .elsewhere wf

theorem AnswerWf.damaviReadResp {at_ : EthAt} {hdr : BitVec 256} {data : List Byte} (wf : s.MemWf) :
    AnswerWf (execDamaviReadResp at_ hdr data s) := by
  unfold execDamaviReadResp
  dsimp only
  refine .next (.dmvFrame wf (fun _ wf => .dmvTake wf (fun _ _ wf => ?_)))
  split
  · exact .ackAsked (.psnOn wf)
  · split
    · exact .answer (.setUnacked (.ackAsked (.psnOn wf)))
    · exact .setUnacked (.ackAsked (.psnOn wf))

theorem State.MemWf.dmvAcked {conn p : Nat} (wf : s.MemWf) : (s.dmvAcked conn p).MemWf := by
  unfold State.dmvAcked
  refine .foldl wf (fun _ _ wf => .ite (.setUnacked wf) ?_)
  split
  · exact .updOp (.setUnacked wf)
  · exact .setUnacked wf

theorem State.MemWf.resend {key : Nat} {free : Bool} (wf : s.MemWf) : (s.resend key free).MemWf := by
  unfold State.resend
  split
  · exact wf
  · refine .ite ?_ (.send (.setUnacked wf))
    split
    · exact .updOp (.setUnacked wf)
    · exact .setUnacked wf

theorem State.MemWf.resendFrom {conn p : Nat} {free : Bool} (wf : s.MemWf) : (s.resendFrom conn p free).MemWf :=
  .foldl wf (fun _ _ wf => .resend wf)

theorem AnswerWf.damaviAck {at_ : EthAt} {hdr : BitVec 256} (wf : s.MemWf) : AnswerWf (execDamaviAck at_ hdr s) := by
  unfold execDamaviAck
  refine .next (.dmvFrame wf (fun _ wf => .ite (.dmvDrop wf) ?_))
  split
  · next e1 =>
      exact .dmvDrop (.of_2 (.conn wf) e1)
  · next e1 =>
      exact .andThen (.of_2 (.conn wf) e1) fun wf =>
        .ite (.dmvDrop wf) (.dmvAcked wf)

theorem AnswerWf.damaviNak {at_ : EthAt} {hdr : BitVec 256} (wf : s.MemWf) : AnswerWf (execDamaviNak at_ hdr s) := by
  unfold execDamaviNak
  dsimp only
  refine .next (.dmvFrame wf (fun _ wf => .ite (.dmvDrop wf) ?_))
  split
  · next e1 =>
      exact .dmvDrop (.of_2 (.conn wf) e1)
  · next e1 =>
      refine .ite (.dmvDrop (.of_2 (.conn wf) e1)) ?_
      split
      · exact .andThen (.of_2 (.conn wf) e1) fun wf =>
          .ite (.setUnacked (.dmvAcked wf)) (.resendFrom (.dmvAcked wf))
      · exact .resendFrom (.dmvAcked (.of_2 (.conn wf) e1))

theorem AnswerWf.damaviSend {at_ : EthAt} {hdr : BitVec 256} {data : List Byte} (wf : s.MemWf) :
    AnswerWf (execDamaviSend at_ hdr data s) :=
  .next (.dmvFrame wf (fun _ wf => .dmvTake wf (fun _ _ wf => .ite (.dmvReply (.homeRead wf))
    (.dmvAck (.andThen (.psnOn (.homeRead wf)) fun wf => .andThen (.outsideWrite (.outsideWrite wf)) fun wf => .ite
    (.handOver (.devWrite wf)) (.devWrite wf))))))

theorem AnswerWf.damaviRetransmit {conn psn : BitVec 24} (wf : s.MemWf) :
    AnswerWf (execDamaviRetransmit conn psn s) := by
  unfold execDamaviRetransmit
  refine .next ?_
  split
  · exact .ite (.resendFrom wf) wf
  · exact wf

theorem AnswerWf.sendRetry {conn psn : BitVec 24} (wf : s.MemWf) : AnswerWf (execSendRetry conn psn s) := by
  unfold execSendRetry
  refine .next ?_
  split
  · split
    · exact .ite (.resendFrom wf) wf
    · exact wf
  · exact wf

theorem AnswerWf.otherFrame {_port : BitVec 2} (wf : s.MemWf) : AnswerWf (execOtherFrame _port s) :=
  .next (.ite (.dmvDrop wf) wf)

theorem State.MemWf.emitTime (wf : s.MemWf) : s.emitTime.MemWf := .foldl wf (fun _ _ wf => .emitTo wf)

theorem AnswerWf.timeRecord (wf : s.MemWf) : AnswerWf (execTimeRecord s) :=
  .next (.ite (.elsewhere (.emitTime (.elsewhere wf))) wf)

theorem State.MemWf.toMaster {t : Nat} (wf : s.MemWf) : (s.toMaster t).MemWf := .ite (.elsewhere wf) (.elsewhere wf)

theorem AnswerWf.ptpMessage {port : BitVec 2} {domain : BitVec 16} {sec : Nat} {rest : PtpRest} (wf : s.MemWf) :
    AnswerWf (execPtpMessage port domain sec rest s) := by
  unfold execPtpMessage
  refine .next (.ite wf (.ite wf ?_))
  split
  · exact .toMaster wf
  · exact .andThen (.elsewhere (.toMaster wf)) fun wf =>
      .ite (.emitTime wf) wf

theorem AnswerWf.holdover (wf : s.MemWf) : AnswerWf (execHoldover s) := .next (.ite wf (.emitTime (.elsewhere wf)))

theorem AnswerWf.ppsEdge {ns : Nat} (wf : s.MemWf) : AnswerWf (execPpsEdge ns s) := .next (.elsewhere wf)

end Sys2Proof.Machine
end

section
/-! SUPPORT. Memory in its canonical form through boot, control, Peal, debug, drain, registers and recovery. -/

namespace Sys2Proof.Machine

variable {s : State}

/-! ## Machine/Boot.lean -/

theorem State.MemWf.setBoot {b : Boot} (wf : s.MemWf) : (s.setBoot b).MemWf := .elsewhere wf

theorem AnswerWf.bootgo (wf : s.MemWf) : AnswerWf (execBootgo s) := .next (.ite wf (.setBoot wf))

theorem AnswerWf.bundleStart (wf : s.MemWf) : AnswerWf (execBundleStart s) :=
  .next (.ite wf (.ite (.setBoot wf) (.andThen (.setBoot (.homeRead wf)) fun wf => .ite wf wf)))

theorem AnswerWf.commit (wf : s.MemWf) : AnswerWf (execCommit s) := .next (.ite (.setBoot wf) wf)

theorem AnswerWf.atgo (wf : s.MemWf) : AnswerWf (execAtgo s) := .next (.ite wf (.setBoot wf))

theorem AnswerWf.atdone (wf : s.MemWf) : AnswerWf (execAtdone s) :=
  .next (.ite wf (.andThen (.ite_2 (.openBytes wf) (.snd wf)) fun wf => .ite (.setBoot (.setBoot wf))
    (.setBoot (.outsideWrite (.setBoot wf)))))

theorem State.MemWf.after {o : Host.Outcome State Fault Refusal} (wf : AnswerWf o) (wf1 : s.MemWf) :
    (after o s).MemWf := by
  unfold Machine.after
  split
  · exact wf
  · exact wf1

theorem State.MemWf.writeBoot {o : Nat} {v : BitVec 64} (wf : s.MemWf) : (s.writeBoot o v).MemWf := by
  unfold State.writeBoot
  split
  · exact .setBoot wf
  · exact .setBoot wf
  · exact .ite (.after (.bootgo wf) wf) wf
  · exact .ite (.after (.commit wf) wf) wf
  · exact .setBoot wf
  · exact .setBoot wf
  · exact .setBoot wf
  · exact .setBoot wf
  · exact .setBoot wf
  · exact .ite (.after (.atgo wf) wf) wf
  · exact wf

/-! ## Machine/Control.lean -/

theorem AnswerWf.clause {w : BitVec 12} {a b l : BitVec 4} {y : BitVec 1} (wf : s.MemWf) :
    AnswerWf (execClause w a b l y s) := by
  unfold execClause
  split
  · exact trivial
  · exact .next (.ite (.noWord wf) (.ite (.noWord wf) (.updGroup wf)))

theorem AnswerWf.bra {o : BitVec 22} (wf : s.MemWf) : AnswerWf (execBra o s) := .issue wf (fun _ => .transfer wf)

theorem AnswerWf.braAny {o : BitVec 22} (wf : s.MemWf) : AnswerWf (execBraAny o s) :=
  .issue wf (fun _ => .transfer wf)

theorem AnswerWf.braAll {o : BitVec 22} (wf : s.MemWf) : AnswerWf (execBraAll o s) :=
  .issue wf (fun _ => .transfer wf)

theorem AnswerWf.call {o : BitVec 22} (wf : s.MemWf) : AnswerWf (execCall o s) := .issue wf (fun _ => .transfer wf)

theorem State.MemWf.jumpReg {c : Ctx} {a : Nat} {link : Bool} (wf : s.MemWf) : (s.jumpReg c a link).MemWf :=
  .transfer wf

theorem AnswerWf.callx {a : BitVec 7} (wf : s.MemWf) : AnswerWf (execCallx a s) := .issue wf (fun _ => .jumpReg wf)

theorem AnswerWf.brx {a : BitVec 7} (wf : s.MemWf) : AnswerWf (execBrx a s) := .issue wf (fun _ => .jumpReg wf)

theorem AnswerWf.ret {a : BitVec 7} (wf : s.MemWf) : AnswerWf (execRet a s) := .issue wf (fun _ => .jumpReg wf)

theorem State.MemWf.tableWords {c : Ctx} {n : Nat} (wf : s.MemWf) : (s.tableWords c n).2.MemWf := by
  unfold State.tableWords
  refine .foldl_2 (.snd wf) (fun _ _ wf => ?_)
  split
  · exact .snd wf
  · split
    · next e2 =>
        exact .snd (.of_2 (.fetch wf) e2)
    · next e2 =>
        exact .snd (.of_2 (.fetch wf) e2)

theorem AnswerWf.jtab {a : BitVec 7} {n : BitVec 11} (wf : s.MemWf) : AnswerWf (execJtab a n s) := by
  unfold execJtab
  refine .issue wf (fun _ => ?_)
  split
  · next e1 =>
      exact .raiseAll (.of_2 (.tableWords wf) e1)
  · next e1 =>
      exact .andThen (.of_2 (.tableWords wf) e1) fun wf =>
        .ite (.raiseAll wf) (.transfer wf)

theorem AnswerWf.switch {a : BitVec 7} {n : BitVec 11} (wf : s.MemWf) : AnswerWf (execSwitch a n s) := by
  unfold execSwitch
  refine .issue wf (fun _ => ?_)
  split
  · next e1 =>
      exact .raiseAll (.of_2 (.tableWords wf) e1)
  · next e1 =>
      exact .transfer (.of_2 (.tableWords wf) e1)

theorem AnswerWf.join (wf : s.MemWf) : AnswerWf (execJoin s) := .issue wf (fun _ => .park wf)

theorem AnswerWf.exit (wf : s.MemWf) : AnswerWf (execExit s) := by
  unfold execExit
  refine .issue wf (fun _ => .ite (.advance wf) (.ite (.failBlock wf) (.ite (.stallBy wf) ?_)))
  split
  · exact .deliver wf
  · exact .ite (.raiseAll wf) (.wgSettle (.updGroup wf))

theorem AnswerWf.nop (wf : s.MemWf) : AnswerWf (execNop s) := .issue wf (fun _ => .advance wf)

theorem AnswerWf.yield (wf : s.MemWf) : AnswerWf (execYield s) := .issue wf (fun _ => .updGroup wf)

theorem AnswerWf.splitRotation {g ix : Nat} (wf : s.MemWf) : AnswerWf (execSplitRotation g ix s) :=
  .next (.updGroup wf)

theorem AnswerWf.ensure {cr : BitVec 7} {e : BitVec 18} (wf : s.MemWf) : AnswerWf (execEnsure cr e s) := by
  unfold execEnsure
  refine .issue wf (fun _ => .ite (.raiseAll wf) (.ite (.raiseAll wf) (.ite (.stallBy wf) ?_)))
  split
  · exact .stallBy wf
  · exact .deliver wf
  · exact .raiseAll wf
  · split
    · exact .ite (.raiseAll wf) (.park (.released wf))
    · exact .park (.updWg (.released wf))

theorem AnswerWf.blockOpen {wk : Nat} (wf : s.MemWf) : AnswerWf (execBlockOpen wk s) := by
  unfold execBlockOpen
  refine .next ?_
  split
  · exact wf
  · exact .ite wf (.ite (.failBlock (.updWg wf)) (.andThen (.updWg (.updWg wf)) fun wf => .andThen
      (.emitBlock (.elsewhere wf)) fun wf => .ite (.goOnAll wf) (.failBlock (.goOnAll wf))))

theorem State.MemWf.terminator {c : Ctx} (wf : s.MemWf) : (s.terminator c).MemWf := by
  unfold State.terminator
  split
  · exact .raiseAll wf
  · exact .ite (.raiseAll wf) (.park wf)

theorem AnswerWf.elseby {n : BitVec 22} (wf : s.MemWf) : AnswerWf (execElseby n s) :=
  .issue wf (fun _ => .terminator wf)

theorem AnswerWf.elseerr (wf : s.MemWf) : AnswerWf (execElseerr s) := .issue wf (fun _ => .terminator wf)

theorem State.MemWf.termAt {c : Ctx} {t : Nat} (wf : s.MemWf) : (s.termAt c t).2.MemWf := by
  unfold State.termAt
  split
  · next e1 =>
      exact .snd (.of_2 (.fetch wf) e1)
  · next e1 =>
      exact .snd (.of_2 (.fetch wf) e1)

theorem State.MemWf.chain {c : Ctx} {t fuel : Nat} (wf : s.MemWf) : (s.chain c t fuel).2.MemWf := by
  induction fuel generalizing s t with
  | zero => exact wf
  | succ fuel ih =>
    unfold State.chain
    split
    · next e1 =>
        exact ih (.of_2 (.termAt wf) e1)
    · next e1 =>
        exact .snd (.of_2 (.termAt wf) e1)
    · next e1 =>
        exact .snd (.of_2 (.termAt wf) e1)

theorem State.MemWf.raiseWg {wk code : Nat} {pc : Option Nat} (wf : s.MemWf) : (s.raiseWg wk code pc).MemWf := by
  unfold State.raiseWg
  refine .foldl wf (fun _ _ wf => ?_)
  split
  · exact wf
  · refine .foldr wf (fun _ _ wf => ?_)
    split
    · exact wf
    · exact .takeFault wf

theorem AnswerWf.routineEnd {wk : Nat} (wf : s.MemWf) : AnswerWf (execRoutineEnd wk s) := by
  unfold execRoutineEnd
  refine .next ?_
  split
  · split
    · exact wf
    · refine .ite wf ?_
      split
      · split
        · exact .deliver wf
        · exact wf
      · split
        · next e4 =>
            exact .raiseWg (.of_2 (.chain wf) e4)
        · next e4 =>
            exact .elsewhere (.updWg (.of_2 (.chain wf) e4))
  · exact wf

theorem AnswerWf.accept {p : BitVec 3} (wf : s.MemWf) : AnswerWf (execAccept p s) := by
  unfold execAccept
  refine .issue wf (fun _ => ?_)
  split
  · exact .raiseAll wf
  · refine .ite (.raiseAll wf) (.ite (.stallBy wf) ?_)
    split
    · exact .deliver wf
    · exact .wgSettle (.park (.released wf))

theorem AnswerWf.reject (wf : s.MemWf) : AnswerWf (execReject s) :=
  .issue wf (fun _ => .ite (.failBlock wf) (.advance wf))

theorem AnswerWf.convj {a : BitVec 7} {h : BitVec 4} (wf : s.MemWf) : AnswerWf (execConvj a h s) := by
  unfold execConvj
  refine .issue wf (fun _ => .ite (.raiseAll wf) ?_)
  split
  · exact .stallBy wf
  · exact .deliver wf
  · exact .raiseAll wf
  · split
    · next e2 =>
        exact .raiseAll (.of_2 (.formAccess wf) e2)
    · next e2 =>
        refine .ite (.raiseAll (.of_2 (.formAccess wf) e2)) (.ite (.raiseAll ?_) (.park (.updGroup (.released ?_))))
        · split
          · next e3 =>
              exact .snd (.of_22 (.readParts (.of_2 (.formAccess wf) e2)) e3)
          · next e3 =>
              exact .snd (.draw (.of_22 (.readParts (.of_2 (.formAccess wf) e2)) e3))
        · split
          · next e3 =>
              exact .snd (.of_22 (.readParts (.of_2 (.formAccess wf) e2)) e3)
          · next e3 =>
              exact .snd (.draw (.of_22 (.readParts (.of_2 (.formAccess wf) e2)) e3))

theorem AnswerWf.conversationJoined {gang : Nat} {members : BitVec 24} (wf : s.MemWf) :
    AnswerWf (execConversationJoined gang members s) :=
  .next (.ite (.foldl wf (fun _ _ wf => .emitWg (.goOnAll (.elsewhere (.updWg wf))))) wf)

theorem AnswerWf.convl (wf : s.MemWf) : AnswerWf (execConvl s) :=
  .issue wf (fun _ => .ite (.failBlock wf) (.ite (.advance wf) (.convlCheck (.updWg (.advance wf)))))

theorem State.MemWf.setMode {c : Ctx} {v : Nat} (wf : s.MemWf) : (s.setMode c v).MemWf :=
  .ite (.updGroup (.advance wf)) (.raiseAll wf)

theorem AnswerWf.setm {v : BitVec 16} (wf : s.MemWf) : AnswerWf (execSetm v s) :=
  .issue wf (fun _ => .ite (.advance wf) (.setMode wf))

theorem AnswerWf.setmRegister {r : BitVec 7} (wf : s.MemWf) : AnswerWf (execSetmRegister r s) := by
  unfold execSetmRegister
  refine .issue wf (fun _ => ?_)
  split
  · exact .advance wf
  · exact .ite (.raiseAll wf) (.setMode wf)

theorem AnswerWf.getm {d : BitVec 7} (wf : s.MemWf) : AnswerWf (execGetm d s) :=
  .issue wf (fun _ => .advance (.writeV wf))

theorem State.MemWf.trapLanes {c : Ctx} {code : Nat} (wf : s.MemWf) : (s.trapLanes c code).MemWf := .endInstr wf

theorem AnswerWf.trap {k : BitVec 16} (wf : s.MemWf) : AnswerWf (execTrap k s) := .issue wf (fun _ => .trapLanes wf)

theorem AnswerWf.bkpt {t : BitVec 16} (wf : s.MemWf) : AnswerWf (execBkpt t s) :=
  .issue wf (fun _ => .ite (.advance wf) (.ite (.beginStop (.advance wf)) (.trapLanes wf)))

theorem State.MemWf.eret {c : Ctx} {k : Nat} (wf : s.MemWf) : (s.eret c k).MemWf :=
  .ite (.raiseAll wf) (.ite (.advance wf) (.faultReturn wf))

theorem AnswerWf.eret (wf : s.MemWf) : AnswerWf (execEret s) := .issue wf (fun _ => .eret wf)

theorem AnswerWf.eretSkip (wf : s.MemWf) : AnswerWf (execEretSkip s) := .issue wf (fun _ => .eret wf)

/-! ## Machine/PealEv.lean -/

theorem AnswerWf.sourceTimeReport {sclass : BitVec 8} {sinst : BitVec 12} (wf : s.MemWf) :
    AnswerWf (execSourceTimeReport sclass sinst s) :=
  .next (.elsewhere wf)

theorem AnswerWf.pealRecordWrite {p : BitVec 4} (wf : s.MemWf) : AnswerWf (execPealRecordWrite p s) := by
  unfold execPealRecordWrite
  refine .next ?_
  split
  · exact .pealWrite wf
  · exact wf

theorem AnswerWf.deviceRecordTimeout {p : BitVec 4} (wf : s.MemWf) : AnswerWf (execDeviceRecordTimeout p s) := by
  unfold execDeviceRecordTimeout
  refine .next ?_
  split
  · exact .ite (.pealDrop (.pealTake wf)) wf
  · exact wf

theorem State.MemWf.countStalls (wf : s.MemWf) : s.countStalls.MemWf := .elsewhere wf

theorem AnswerWf.perturb {sclass : BitVec 8} {sinst : BitVec 12} (wf : s.MemWf) :
    AnswerWf (execPerturb sclass sinst s) := by
  unfold execPerturb
  refine .next ?_
  split
  · exact .ite (.emitPerturb wf) wf
  · exact wf

theorem AnswerWf.sample {core : BitVec 8} {sched : BitVec 2} (wf : s.MemWf) : AnswerWf (execSample core sched s) := by
  unfold execSample
  refine .next ?_
  split
  · exact wf
  · exact .ite wf (.elsewhere (.emitTo wf))

theorem State.MemWf.writePctl {p : Nat} {v : BitVec 64} (wf : s.MemWf) : (s.writePctl p v).MemWf :=
  .ite (.elsewhere (.setFld (.setFld (.setReg (.setReg wf))))) (.ite (.elsewhere (.setReg wf)) (.setReg wf))

theorem AnswerWf.pctlEnable {p : BitVec 4} {v : BitVec 64} (wf : s.MemWf) : AnswerWf (execPctlEnable p v s) :=
  .next (.writePctl wf)

theorem State.MemWf.writePbuf {p : Nat} {v : BitVec 64} (wf : s.MemWf) : (s.writePbuf p v).MemWf :=
  .ite wf (.setReg wf)

theorem State.MemWf.writePptr {p : Nat} {v : BitVec 64} (wf : s.MemWf) : (s.writePptr p v).MemWf := by
  unfold State.writePptr
  dsimp only
  refine .ite wf ?_
  split
  · exact .ite (.setFld wf) (.elsewhere (.emitTo (.setFld wf)))
  · exact .setFld wf

theorem AnswerWf.rpWrite {p : BitVec 4} {v : BitVec 64} (wf : s.MemWf) : AnswerWf (execRpWrite p v s) :=
  .next (.writePptr wf)

theorem State.MemWf.writePcnt {p : Nat} {v : BitVec 64} (wf : s.MemWf) : (s.writePcnt p v).MemWf :=
  .ite wf (.setReg wf)

/-! ## Machine/Debug.lean -/

theorem State.MemWf.dbgResult {r : Nat} (wf : s.MemWf) : (s.dbgResult r).MemWf := .setFld wf

theorem State.MemWf.stopReport {core sched : Nat} {st : Stop} (wf : s.MemWf) : (s.stopReport core sched st).MemWf :=
  .outsideWrite wf

theorem AnswerWf.quietPoint {core : BitVec 8} {sched : BitVec 2} (wf : s.MemWf) :
    AnswerWf (execQuietPoint core sched s) := by
  unfold execQuietPoint
  refine .next ?_
  split
  · exact wf
  · exact .ite wf (.emitStop (.stopReport (.elsewhere wf)))

theorem State.MemWf.applyHeld {gk : Nat} (wf : s.MemWf) : (s.applyHeld gk).MemWf := by
  unfold State.applyHeld
  split
  · exact wf
  · refine .updGroup (.foldl wf (fun _ _ wf => ?_))
    split
    · exact wf
    · exact .ite (.finishPend wf) (.ite (.late (.finishPend wf)) (.finishPend (.writeBack wf)))

theorem State.MemWf.endStop {core sched : Nat} {st : Stop} (wf : s.MemWf) : (s.endStop core sched st).MemWf :=
  .emitStop (.foldl (.elsewhere wf) (fun _ _ wf => .applyHeld wf))

theorem State.MemWf.resumeHalted {q ix : Nat} (wf : s.MemWf) : (s.resumeHalted q ix).MemWf := by
  unfold State.resumeHalted
  split
  · exact .dbgResult (.updGang wf)
  · exact .dbgResult wf

theorem State.MemWf.writeDbgctl {v : BitVec 64} (wf : s.MemWf) : (s.writeDbgctl v).MemWf := by
  unfold State.writeDbgctl
  dsimp only
  split
  · exact .setFld wf
  · exact .ite (.dbgResult (.setFld wf)) (.dbgResult (.beginStop (.setFld wf)))
  · split
    · exact .dbgResult (.endStop (.setFld wf))
    · exact .dbgResult (.setFld wf)
  · exact .resumeHalted (.setFld wf)
  · exact .dbgResult (.setFld wf)

theorem AnswerWf.debugStop {v : BitVec 64} (wf : s.MemWf) : AnswerWf (execDebugStop v s) := .next (.writeDbgctl wf)

theorem AnswerWf.debugStopEnd {v : BitVec 64} (wf : s.MemWf) : AnswerWf (execDebugStopEnd v s) :=
  .next (.writeDbgctl wf)

theorem AnswerWf.resumeHaltedGang {v : BitVec 64} (wf : s.MemWf) : AnswerWf (execResumeHaltedGang v s) :=
  .next (.writeDbgctl wf)

theorem State.MemWf.readDbgd (wf : s.MemWf) : s.readDbgd.2.MemWf := by
  unfold State.readDbgd
  refine .ite_2 (.snd (.dbgResult (.setFld wf))) ?_
  split
  · exact .ite_2 (.snd (.dbgResult (.setFld wf)))
      (.ite_2 (.snd (.dbgResult (.setFld (.openBytes (.setFld wf)))))
      (.snd (.dbgResult (.setFld (.homeRead (.setFld wf))))))
  · split
    · exact .snd (.dbgResult (.setFld wf))
    · exact .snd (.dbgResult (.setFld (.setFld wf)))
  · exact .snd (.dbgResult (.setFld wf))

theorem State.MemWf.pokeReg {gk r l : Nat} {v : BitVec 64} (wf : s.MemWf) : (s.pokeReg gk r l v).MemWf :=
  .updGroup (.putReg wf)

theorem State.MemWf.writeDbgd {v : BitVec 64} (wf : s.MemWf) : (s.writeDbgd v).MemWf := by
  unfold State.writeDbgd
  dsimp only
  refine .ite (.dbgResult wf) ?_
  split
  · exact .ite (.dbgResult wf) (.ite (.dbgResult wf) (.dbgResult (.outsideWrite wf)))
  · split
    · exact .dbgResult wf
    · split
      · exact .dbgResult (.pokeReg wf)
      · exact .dbgResult wf
  · exact .dbgResult wf

theorem AnswerWf.dbgdRead (wf : s.MemWf) : AnswerWf (execDbgdRead s) := .next (.toHost (.readDbgd wf))

theorem AnswerWf.dbgdWrite {v : BitVec 64} (wf : s.MemWf) : AnswerWf (execDbgdWrite v s) := .next (.writeDbgd wf)

/-! ## Machine/Drain.lean -/

theorem State.MemWf.updDrain {k : Nat} {f : Drain → Drain} (wf : s.MemWf) : (s.updDrain k f).MemWf := .setPower wf

theorem AnswerWf.powerFail {energy : Nat} (wf : s.MemWf) : AnswerWf (execPowerFail energy s) :=
  .next (.ite wf (.draw (.setPower (.elsewhere wf))))

theorem AnswerWf.drainSectionEnd (wf : s.MemWf) : AnswerWf (execDrainSectionEnd s) := by
  unfold execDrainSectionEnd
  refine .next ?_
  split
  · exact .ite (.updDrain wf) wf
  · exact wf

theorem AnswerWf.drainEnd (wf : s.MemWf) : AnswerWf (execDrainEnd s) := by
  unfold execDrainEnd
  refine .next ?_
  split
  · exact .ite (.setPower (.updDrain wf)) wf
  · exact wf

theorem AnswerWf.holdupExhausted {saved : Nat} (wf : s.MemWf) : AnswerWf (execHoldupExhausted saved s) := by
  unfold execHoldupExhausted
  refine .next ?_
  split
  · exact .setPower (.ite (.updDrain wf) wf)
  · exact wf

theorem AnswerWf.inputReturn (wf : s.MemWf) : AnswerWf (execInputReturn s) := by
  unfold execInputReturn
  refine .next ?_
  split
  · exact wf
  · exact .setPower wf
  · exact .ite wf (.setPower wf)

theorem AnswerWf.powerOnReset {sl15 : Bool} (wf : s.MemWf) : AnswerWf (execPowerOnReset sl15 s) :=
  .next (.ite (.elsewhere .reset) wf)

theorem AnswerWf.sidebandPowerOn (wf : s.MemWf) : AnswerWf (execSidebandPowerOn s) := .next (.ite (.setPower wf) wf)

theorem AnswerWf.sidebandPowerOff (wf : s.MemWf) : AnswerWf (execSidebandPowerOff s) :=
  .next (.ite (.setPower (.elsewhere wf)) wf)

theorem State.MemWf.poisonLine {ln : Nat} {t : PTag} (wf : s.MemWf) : (s.poisonLine ln t).MemWf := .updLine wf

theorem State.MemWf.poisonUnsaved {cls : Nat} {ls : List Nat} (wf : s.MemWf) : (s.poisonUnsaved cls ls).MemWf := by
  unfold State.poisonUnsaved
  split
  · exact wf
  · exact .foldl (.ite (.record wf) (.recStore (.setRec (.record wf)))) (fun _ _ wf => .poisonLine wf)

theorem State.MemWf.copySection {d : Drain} {base k : Nat} (wf : s.MemWf) : (s.copySection d base k).MemWf :=
  .foldl wf (fun _ _ wf => .outsideWrite wf)

theorem State.MemWf.doRestore (wf : s.MemWf) : s.doRestore.MemWf := by
  unfold State.doRestore
  split
  · exact .setFld wf
  · exact .ite (.setFld wf) (.foldl (.poisonUnsaved
      (.poisonUnsaved (.foldl (.setPower wf) (fun _ _ wf => .outsideWrite wf)))) (fun _ _ wf => .copySection wf))

theorem AnswerWf.restore (wf : s.MemWf) : AnswerWf (execRestore s) := .next (.doRestore wf)

theorem AnswerWf.restored (wf : s.MemWf) : AnswerWf (execRestored s) := .next (.ite (.setFld (.setPower wf)) wf)

theorem State.MemWf.doClaim (wf : s.MemWf) : s.doClaim.MemWf := by
  unfold State.doClaim
  split
  · exact .updDrain wf
  · exact .setFld wf

theorem AnswerWf.claim (wf : s.MemWf) : AnswerWf (execClaim s) := .next (.doClaim wf)

/-! ## Machine/SysRegs.lean -/

theorem State.MemWf.sysRead {n : Nat} (wf : s.MemWf) : (s.sysRead n).2.MemWf :=
  .ite_2 (.snd wf) (.ite_2 (.snd wf) (.ite_2 (.snd wf)
    (.ite_2 (.snd wf) (.ite_2 (.snd wf) (.ite_2 (.snd wf)
    (.ite_2 (.snd wf) (.ite_2 (.readDbgd wf) (.ite_2 (.snd wf) (.snd wf)))))))))

theorem State.MemWf.clear1 {n : Nat} {mask v : BitVec 64} (wf : s.MemWf) : (s.clear1 n mask v).MemWf := .setReg wf

theorem State.MemWf.sysWrite {n : Nat} {v : BitVec 64} (wf : s.MemWf) : (s.sysWrite n v).MemWf :=
  .ite (.writeSlstat wf) (.ite (.writeTslvl wf) (.ite (.clear1 wf)
    (.ite (.writeMargcmd wf) (.ite (.andThen (.doRestore (.clear1 wf)) fun wf1 => .andThen (.ite wf1 (.clear1 wf))
    fun wf => .ite (.doClaim wf) wf) (.ite (.setReg wf)
    (.ite (.clear1 wf) (.ite (.setReg wf) (.ite (.writeFresume wf)
    (.ite (.setReg wf) (.ite (.writeAsctl wf) (.ite (.writeErrbase wf)
    (.ite (.setReg wf) (.ite (.writeErrack wf) (.ite (.setReg wf)
    (.ite (.writeInjCtl wf) (.ite (.writeScrubctl wf)
    (.ite (.writeDbgctl wf) (.ite (.setReg wf) (.ite (.setReg wf)
    (.ite (.writeDbgd wf) (.ite (.setReg wf) (.ite (.ite (.setFld wf) (.setReg wf))
    (.ite (.setFld (.clear1 wf)) (.ite (.setReg wf)
    (.ite (.setReg wf) (.ite (.setReg wf) (.ite (.writeDevnum wf)
    (.ite (.writePartctl wf) (.ite (.setReg wf) (.ite (.writeCpart wf)
    (.ite (.clear1 wf) (.ite (.writePctl wf) (.ite (.writePbuf wf)
    (.ite (.writePptr wf) (.ite (.writePcnt wf) wf)))))))))))))))))))))))))))))))))))

theorem AnswerWf.sysr {d : BitVec 7} {n : BitVec 16} (wf : s.MemWf) : AnswerWf (execSysr d n s) :=
  .issue wf (fun _ => .ite (.advance wf) (.ite (.raiseAll wf) (.advance (.writeVs (.sysRead wf)))))

theorem AnswerWf.sysw {d : BitVec 7} {n : BitVec 16} (wf : s.MemWf) : AnswerWf (execSysw d n s) := by
  unfold execSysw
  refine .issue wf (fun _ => ?_)
  split
  · exact .advance wf
  · exact .ite (.raiseAll wf) (.ite (.raiseAll wf)
      (.relThen wf (fun _ wf' => .ite (.escape wf) (.sysWrite (.advance wf')))))

theorem State.MemWf.writeCqReg {c o : Nat} {v : BitVec 64} (wf : s.MemWf) : (s.writeCqReg c o v).MemWf := by
  unfold State.writeCqReg
  split
  · exact .setCq wf
  · exact .writeCqcfg wf
  · exact .writeCqhead wf
  · exact .writeCqcoal wf

theorem State.MemWf.bar0Write {off : Nat} {v : BitVec 64} (wf : s.MemWf) : (s.bar0Write off v).MemWf :=
  .ite wf (.ite (.doorbell wf) (.ite (.writeQbase wf)
    (.ite (.writeCqReg wf) (.ite (.elsewhere wf) (.ite (.elsewhere wf)
    (.ite (.writeBoot wf) (.ite (.sysWrite wf) wf)))))))

theorem State.MemWf.bar0Read {off : Nat} (wf : s.MemWf) : (s.bar0Read off).2.MemWf := by
  unfold State.bar0Read
  dsimp only
  exact .ite_2 (.snd wf) (.ite_2 (.snd wf) (.ite_2 (.snd wf)
    (.ite_2 (.snd wf) (.ite_2 (.snd wf) (.ite_2 (.snd wf)
    (.ite_2 (.snd wf) (.ite_2 (.ite_2 (.sysRead wf) (.snd wf)) (.snd wf))))))))

/-! ## Machine/HostPort.lean -/

theorem State.MemWf.sendPending (wf : s.MemWf) : s.sendPending.MemWf := .foldl (.setPci wf) (fun _ _ wf => .toHost wf)

theorem State.MemWf.setVector {n : Nat} {f : BitVec 64 × BitVec 32 × BitVec 32 → BitVec 64 × BitVec 32 × BitVec 32}
    (wf : s.MemWf) : (s.setVector n f).MemWf :=
  .ite (.sendPending (.setPci wf)) wf

theorem State.MemWf.hostRegWrite {r : HostReg} {v : BitVec 64} (wf : s.MemWf) : (s.hostRegWrite r v).MemWf := by
  unfold State.hostRegWrite
  split
  · exact .bar0Write wf
  · exact .setVector wf
  · exact .setVector wf
  · exact .setVector wf
  · exact wf
  · exact .sendPending (.setPci wf)
  · exact .ite (.setPci wf) wf
  · exact .ite (.sendPending (.setPci wf)) (.ite (.setPci wf) wf)
  · exact .setPci wf
  · exact .setPci wf
  · exact .setPci wf
  · exact .setPci wf
  · exact wf
  · exact wf
  · exact wf
  · exact wf
  · exact wf

theorem State.MemWf.hostRegRead {r : HostReg} (wf : s.MemWf) : (s.hostRegRead r).2.MemWf := by
  unfold State.hostRegRead
  split
  · exact .bar0Read wf
  · exact .snd wf
  · exact .snd wf
  · exact .snd wf
  · exact .snd wf
  · exact .snd wf
  · exact .snd wf
  · exact .snd wf
  · exact .snd wf
  · exact .snd wf
  · exact .snd wf
  · exact .snd wf
  · exact .snd wf
  · exact .snd wf
  · exact .snd wf
  · exact .snd wf
  · exact .snd wf

theorem AnswerWf.registerWrite {at_ : RegAt} {v : BitVec 64} (wf : s.MemWf) :
    AnswerWf (execRegisterWrite at_ v s) := by
  unfold execRegisterWrite
  refine .next ?_
  split
  · exact .taken wf (fun _ wf => .ite (.hostRegWrite wf) wf)
  · exact .ite (.hostRegWrite wf) wf

theorem State.MemWf.hostTlp {p : Tlp} (wf : s.MemWf) : (s.hostTlp p).MemWf := by
  unfold State.hostTlp
  split
  · exact .ite (.toHost (.hostRegRead wf)) wf
  · exact .ite (.hostRegWrite wf) wf
  · exact .hostRead wf
  · exact .hostWrite wf
  · exact .taken wf (fun _ wf => wf)
  · exact wf
  · exact wf
  · exact wf

theorem AnswerWf.htn {port : BitVec 4} {beat : BitVec 512} {tlp : Tlp} (wf : s.MemWf) :
    AnswerWf (execHtn port beat tlp s) := by
  unfold execHtn
  refine .next (.ite wf (.ite ?_ (.ite wf (.ite (.send wf) (.hostTlp (.elsewhere wf))))))
  split
  · exact .ite (.send wf) wf
  · exact wf

/-! ## Machine/Recovery.lean -/

theorem AnswerWf.cycleLimit {wk : Nat} (wf : s.MemWf) : AnswerWf (execCycleLimit wk s) := by
  unfold execCycleLimit
  refine .next ?_
  split
  · exact wf
  · split
    · exact .ite wf (.failBlock wf)
    · exact wf

theorem State.MemWf.scrRestore {wk off : Nat} {bs : List Byte} {ps : List (Option PTag)} (wf : s.MemWf) :
    (s.scrRestore wk off bs ps).MemWf := by
  unfold State.scrRestore
  split
  · exact wf
  · split
    · exact wf
    · exact .foldl (.updWg wf) (fun _ _ wf => .dropSram wf)

theorem State.MemWf.checkLog {wk lo hi : Nat} (wf : s.MemWf) : (s.checkLog wk lo hi).2.MemWf := by
  unfold State.checkLog
  dsimp only
  split
  · exact .snd wf
  · refine .foldl_2 (.snd wf) (fun _ _ wf => ?_)
    split
    · split
      · refine .ite_2 ?_ wf
        split
        · next e4 =>
            exact .snd (.of_2 (.findFlaw wf) e4)
        · next e4 =>
            exact .snd (.of_2 (.findFlaw wf) e4)
      · exact wf
    · exact wf

theorem State.MemWf.restoreEntry {wk core writer : Nat} {e : LogEntry} (wf : s.MemWf) :
    (s.restoreEntry wk core writer e).MemWf := by
  unfold State.restoreEntry
  split
  · exact .dropReg (.updGroup wf)
  · exact .scrRestore wf
  · exact .updLine (.writeLine wf)
  · exact .dropFlaws (.updWg wf)
  · exact .updWg wf
  · exact .updWg wf
  · exact .scrRestore wf

theorem State.MemWf.undo {wk : Nat} (wf : s.MemWf) : (s.undo wk).MemWf := by
  unfold State.undo
  dsimp only
  split
  · exact wf
  · split
    · exact wf
    · split
      · exact .foldl (.foldl (.elsewhere (.updWg (.draw (.checkLog wf)))) (fun _ _ wf => .restoreEntry wf))
          (fun _ _ wf => .restoreEntry wf)
      · exact .emitBlock (.draw (.foldl (.updWg (.foldl
          (.foldl (.elsewhere (.updWg (.draw (.checkLog wf)))) (fun _ _ wf => .restoreEntry wf))
          (fun _ _ wf => .restoreEntry wf))) (fun _ _ wf => .updGroup wf)))

theorem State.MemWf.startAt {wk t : Nat} (wf : s.MemWf) : (s.startAt wk t).MemWf := .elsewhere wf

theorem State.MemWf.closing {c : Ctx} {t r d fuel : Nat} (wf : s.MemWf) : (s.closing c t r d fuel).2.MemWf := by
  induction fuel generalizing s t r d with
  | zero => exact wf
  | succ fuel ih =>
    unfold State.closing
    split
    · next e1 =>
        exact .snd (.of_2 (.fetch wf) e1)
    · next u e1 =>
        have wfu : u.MemWf := .of_2 (.fetch wf) e1
        refine .ite_2 (.ite_2 (ih wfu) (.snd wfu)) ?_
        split
        · exact ih wfu
        · exact .ite_2 (.snd wfu) (ih wfu)
        · exact ih wfu
        · exact ih wfu
        · exact ih wfu

theorem State.MemWf.propagate {wk : Nat} {f : Failing} {term : Nat} (wf : s.MemWf) :
    (s.propagate wk f term).MemWf := by
  unfold State.propagate
  split
  · exact wf
  · refine .ite (.failBlock (.updWg wf)) (.ite (.startAt (.updLaunch (.updWg wf))) ?_)
    split
    · exact .updLaunch (.updWg wf)
    · split
      · next e3 =>
          exact .raiseWg (.of_2 (.chain (.updLaunch (.updWg wf))) e3)
      · next e3 =>
          split
          · next e4 =>
              exact .startAt (.of_2 (.closing (.of_2 (.chain (.updLaunch (.updWg wf))) e3)) e4)
          · next e4 =>
              exact .raiseWg (.of_2 (.closing (.of_2 (.chain (.updLaunch (.updWg wf))) e3)) e4)

theorem State.MemWf.nextRoutine {wk : Nat} {last : Bool} (wf : s.MemWf) : (s.nextRoutine wk last).MemWf := by
  unfold State.nextRoutine
  split
  · split
    · refine .ite (.raiseWg (.updWg (.termAt wf))) (.ite (.propagate (.termAt wf)) ?_)
      split
      · exact .startAt (.updWg (.termAt wf))
      · exact .termAt wf
    · exact .updWg wf
  · exact .updWg wf
  · exact wf

theorem State.MemWf.noneLeft {wk : Nat} (wf : s.MemWf) : (s.noneLeft wk).2.MemWf := by
  unfold State.noneLeft
  split
  · split
    · split
      · next e3 =>
          exact .snd (.of_2 (.termAt wf) e3)
      · next e3 =>
          exact .snd (.of_2 (.termAt wf) e3)
    · exact .snd wf
  · exact .snd wf

theorem AnswerWf.rollback {wk : Nat} (wf : s.MemWf) : AnswerWf (execRollback wk s) := by
  unfold execRollback
  refine .next ?_
  split
  · exact wf
  · exact .ite wf (.foldl (.foldl_2 (.snd (.foldl wf (fun _ _ wf => .undo wf))) (fun _ _ wf => .snd (.noneLeft wf)))
      (fun _ _ wf => .nextRoutine wf))

end Sys2Proof.Machine
end

section
/-! O58: every step keeps memory in its canonical form. -/

namespace Sys2Proof.Machine

variable {s : State}

/-! ## Machine/Dispatch.lean -/

theorem exec_answerWf {i : Instr} (wf : s.MemWf) : AnswerWf (exec i s) := by
  cases i with
  | clause => exact .clause wf
  | bra => exact .bra wf
  | braAny => exact .braAny wf
  | braAll => exact .braAll wf
  | call => exact .call wf
  | brx => exact .brx wf
  | callx => exact .callx wf
  | ret => exact .ret wf
  | jtab => exact .jtab wf
  | switch => exact .switch wf
  | join => exact .join wf
  | exit => exact .exit wf
  | nop => exact .nop wf
  | yield => exact .yield wf
  | ensure => exact .ensure wf
  | elseby => exact .elseby wf
  | elseerr => exact .elseerr wf
  | accept => exact .accept wf
  | reject => exact .reject wf
  | convj => exact .convj wf
  | convl => exact .convl wf
  | setm => exact .setm wf
  | setmRegister => exact .setmRegister wf
  | getm => exact .getm wf
  | trap => exact .trap wf
  | bkpt => exact .bkpt wf
  | eret => exact .eret wf
  | eretSkip => exact .eretSkip wf
  | vadd => exact .vadd wf
  | vsub => exact .vsub wf
  | vmul => exact .vmul wf
  | vmulh => exact .vmulh wf
  | vmad => exact .vmad wf
  | vmin => exact .vmin wf
  | vmax => exact .vmax wf
  | vabs => exact .vabs wf
  | vneg => exact .vneg wf
  | vdot4 => exact .vdot4 wf
  | vand => exact .vand wf
  | vor => exact .vor wf
  | vxor => exact .vxor wf
  | vshl => exact .vshl wf
  | vshr => exact .vshr wf
  | vrol => exact .vrol wf
  | vclz => exact .vclz wf
  | vpopc => exact .vpopc wf
  | vbrev => exact .vbrev wf
  | vbfe => exact .vbfe wf
  | vbfi => exact .vbfi wf
  | vmov => exact .vmov wf
  | vtag => exact .vtag wf
  | vpack => exact .vpack wf
  | vunpk => exact .vunpk wf
  | vcmp => exact .vcmp wf
  | vsel => exact .vsel wf
  | vaddi => exact .vaddi wf
  | vandi => exact .vandi wf
  | vori => exact .vori wf
  | vxori => exact .vxori wf
  | vshli => exact .vshli wf
  | vshri => exact .vshri wf
  | vcmpi => exact .vcmpi wf
  | vaff => exact .vaff wf
  | vmovi => exact .vmovi wf
  | vlui => exact .vlui wf
  | vbcast => exact .vbcast wf
  | vshfl => exact .vshfl wf
  | vshfx => exact .vshfx wf
  | vred => exact .vred wf
  | vscan => exact .vscan wf
  | pand => exact .pand wf
  | por => exact .por wf
  | pxor => exact .pxor wf
  | pnot => exact .pnot wf
  | ballot => exact .ballot wf
  | pmask => exact .pmask wf
  | vfadd => exact .vfadd wf
  | vfsub => exact .vfsub wf
  | vfmul => exact .vfmul wf
  | vfma => exact .vfma wf
  | vfmin => exact .vfmin wf
  | vfmax => exact .vfmax wf
  | vfdiv => exact .vfdiv wf
  | vfcmp => exact .vfcmp wf
  | vrcp => exact .vrcp wf
  | vrsq => exact .vrsq wf
  | vsqrt => exact .vsqrt wf
  | vexp2 => exact .vexp2 wf
  | vlog2 => exact .vlog2 wf
  | vsin => exact .vsin wf
  | vcos => exact .vcos wf
  | vfrnd => exact .vfrnd wf
  | vcvt => exact .vcvt wf
  | vcvtn => exact .vcvtn wf
  | vamax => exact .vamax wf
  | vscl => exact .vscl wf
  | vrand => exact .vrand wf
  | vspr => exact .vspr wf
  | ld => exact .ld wf
  | st => exact .st wf
  | lda => exact .lda wf
  | strl => exact .strl wf
  | ldw => exact .ldw wf
  | chk => exact .chk wf
  | fence => exact .fence wf
  | atom => exact .atom wf
  | atomAcq => exact .atomAcq wf
  | atomRel => exact .atomRel wf
  | atomAr => exact .atomAr wf
  | lr => exact .lr wf
  | sc => exact .sc wf
  | pref => exact .pref wf
  | hload => exact .hload wf
  | cbinv => exact .cbinv wf
  | cpy => exact .cpy wf
  | cpyb => exact .cpyb wf
  | cpyxG => exact .cpyxG wf
  | cpyxS => exact .cpyxS wf
  | qfence => exact .qfence wf
  | mma => exact .mma wf
  | mmack => exact .mmack wf
  | mzero => exact .mzero wf
  | mld => exact .mld wf
  | mst => exact .mst wf
  | mstn => exact .mstn wf
  | mckv => exact .mckv wf
  | mckc => exact .mckc wf
  | wbar => exact .wbar wf
  | gbar => exact .gbar wf
  | fpush => exact .fpush wf
  | fpop => exact .fpop wf
  | bankm => exact .bankm wf
  | evsigAdd => exact .evsigAdd wf
  | evsigSet => exact .evsigSet wf
  | evsigClr => exact .evsigClr wf
  | evqry => exact .evqry wf
  | trace => exact .trace wf
  | tmark => exact .tmark wf
  | sysr => exact .sysr wf
  | sysw => exact .sysw wf
  | waitf => exact .waitf wf
  | halt => exact .halt wf
  | splitRotation => exact .splitRotation wf
  | gbarRelease => exact .gbarRelease wf
  | delayedAccessFault => exact .delayedAccessFault wf
  | blockOpen => exact .blockOpen wf
  | routineEnd => exact .routineEnd wf
  | cycleLimit => exact .cycleLimit wf
  | rollback => exact .rollback wf
  | conversationJoined => exact .conversationJoined wf
  | returnWritten => exact .returnWritten wf
  | writesPerformed => exact .writesPerformed wf
  | groupRetire => exact .groupRetire wf
  | launchRetire => exact .launchRetire wf
  | cqCoalesceTimer => exact .cqCoalesceTimer wf
  | kulintangRound => exact .kulintangRound wf
  | waiterFire => exact .waiterFire wf
  | damaviRetransmit => exact .damaviRetransmit wf
  | sendRetry => exact .sendRetry wf
  | taborLoopTick => exact .taborLoopTick wf
  | powerFail => exact .powerFail wf
  | drainSectionEnd => exact .drainSectionEnd wf
  | drainEnd => exact .drainEnd wf
  | holdupExhausted => exact .holdupExhausted wf
  | inputReturn => exact .inputReturn wf
  | powerOnReset => exact .powerOnReset wf
  | sidebandPowerOn => exact .sidebandPowerOn wf
  | sidebandPowerOff => exact .sidebandPowerOff wf
  | restore => exact .restore wf
  | restored => exact .restored wf
  | claim => exact .claim wf
  | margcmdStart => exact .margcmdStart wf
  | replanTimer => exact .replanTimer wf
  | replanIsland => exact .replanIsland wf
  | marginLowerApply => exact .marginLowerApply wf
  | bootgo => exact .bootgo wf
  | bundleStart => exact .bundleStart wf
  | commit => exact .commit wf
  | atgo => exact .atgo wf
  | atdone => exact .atdone wf
  | cpartWrite => exact .cpartWrite wf
  | partctlWrite => exact .partctlWrite wf
  | placementPass => exact .placementPass wf
  | placementRetry => exact .placementRetry wf
  | drainComplete => exact .drainComplete wf
  | drainLimit => exact .drainLimit wf
  | save => exact .save wf
  | saveLimit => exact .saveLimit wf
  | fresumeReplay => exact .fresumeReplay wf
  | fresumeSkip => exact .fresumeSkip wf
  | fresumeExit => exact .fresumeExit wf
  | ownershipRequest => exact .ownershipRequest wf
  | revalidation => exact .revalidation wf
  | watchVerdict => exact .watchVerdict wf
  | wrapClear => exact .wrapClear wf
  | asctlInval => exact .asctlInval wf
  | asctlAdvance => exact .asctlAdvance wf
  | asctlDone => exact .asctlDone wf
  | copyStart => exact .copyStart wf
  | copyDone => exact .copyDone wf
  | copyStop => exact .copyStop wf
  | matrixOpStart => exact .matrixOpStart wf
  | matrixOpDone => exact .matrixOpDone wf
  | scrub => exact .scrub wf
  | injArm => exact .injArm wf
  | errackFree => exact .errackFree wf
  | errbaseEnable => exact .errbaseEnable wf
  | dieFailure => exact .dieFailure wf
  | stackFailure => exact .stackFailure wf
  | controllerFailure => exact .controllerFailure wf
  | timeRecord => exact .timeRecord wf
  | sourceTimeReport => exact .sourceTimeReport wf
  | pealRecordWrite => exact .pealRecordWrite wf
  | deviceRecordTimeout => exact .deviceRecordTimeout wf
  | perturb => exact .perturb wf
  | sample => exact .sample wf
  | pctlEnable => exact .pctlEnable wf
  | rpWrite => exact .rpWrite wf
  | debugStop => exact .debugStop wf
  | quietPoint => exact .quietPoint wf
  | debugStopEnd => exact .debugStopEnd wf
  | resumeHaltedGang => exact .resumeHaltedGang wf
  | dbgdRead => exact .dbgdRead wf
  | dbgdWrite => exact .dbgdWrite wf
  | hloadBinding => exact .hloadBinding wf
  | bankmCompletion => exact .bankmCompletion wf
  | portDown => exact .portDown wf
  | portNarrow => exact .portNarrow wf
  | bridgeFailed => exact .bridgeFailed wf
  | doorbell => exact .doorbell wf
  | doorbellRsy => exact .doorbellRsy wf
  | doorbellClrerr => exact .doorbellClrerr wf
  | queueEnable => exact .queueEnable wf
  | queueDisable => exact .queueDisable wf
  | cqEnable => exact .cqEnable wf
  | cqheadWrite => exact .cqheadWrite wf
  | pqw => exact .pqw wf
  | pdb => exact .pdb wf
  | mrd => exact .mrd wf
  | mwr => exact .mwr wf
  | cpl => exact .cpl wf
  | htn => exact .htn wf
  | lct => exact .lct wf
  | badpkt => exact .badpkt wf
  | flitCrcFail => exact .flitCrcFail wf
  | linkTraining => exact .linkTraining wf
  | ldownClear => exact .ldownClear wf
  | devnumWrite => exact .devnumWrite wf
  | beatCrcFail => exact .beatCrcFail wf
  | hostMemoryRead => exact .hostMemoryRead wf
  | hostMemoryWrite => exact .hostMemoryWrite wf
  | registerWrite => exact .registerWrite wf
  | damaviWrite => exact .damaviWrite wf
  | damaviRead => exact .damaviRead wf
  | damaviReadResp => exact .damaviReadResp wf
  | damaviAck => exact .damaviAck wf
  | damaviNak => exact .damaviNak wf
  | damaviSend => exact .damaviSend wf
  | otherFrame port => exact .otherFrame (_port := port) wf
  | ptpMessage => exact .ptpMessage wf
  | holdover => exact .holdover wf
  | ppsEdge => exact .ppsEdge wf
  | tocsin => exact .tocsin wf
  | tocsinMessage => exact .tocsinMessage wf
  | tslvlWrite => exact .tslvlWrite wf
  | currentLimitTrip => exact .currentLimitTrip wf
  | currentLimitStep => exact .currentLimitStep wf
  | currentLimitRestore => exact .currentLimitRestore wf

/-! ## Machine/Schedule.lean -/

theorem State.MemWf.aim {gk ix : Nat} (wf : s.MemWf) : (s.aim gk ix).MemWf := by
  unfold State.aim
  split <;> exact .elsewhere wf

theorem State.MemWf.headerBefore {c : Ctx} {t fuel : Nat} (wf : s.MemWf) : (s.headerBefore c t fuel).2.MemWf := by
  induction fuel generalizing s t with
  | zero => exact wf
  | succ fuel ih =>
    unfold State.headerBefore
    refine .ite_2 (.snd wf) ?_
    split
    · next e1 =>
        exact .snd (.of_2 (.fetch wf) e1)
    · next e1 =>
        exact .andThen (.of_2 (.fetch wf) e1) fun wf =>
          .ite_2 (.snd wf) (ih wf)

theorem State.MemWf.skippedPast {c : Ctx} {t : Nat} (wf : s.MemWf) : (s.skippedPast c t).2.MemWf := by
  unfold State.skippedPast
  refine .ite_2 (.snd wf) ?_
  split
  · next e1 =>
      exact .snd (.of_2 (.fetch wf) e1)
  · next u e1 =>
      have wfu : u.MemWf := .of_2 (.fetch wf) e1
      refine .ite_2 (.snd wfu) ?_
      split
      · next e2 =>
          split <;> exact .snd (.of_2 (.headerBefore wfu) e2)
      · next e2 =>
          exact .snd (.of_2 (.headerBefore wfu) e2)

theorem State.MemWf.pastTable {c : Ctx} (wf : s.MemWf) : (s.pastTable c).2.MemWf := by
  unfold State.pastTable
  refine .ite_2 (.snd wf) ?_
  split
  · next e1 =>
      exact .snd (.of_2 (.fetch wf) e1)
  · next e1 =>
      exact .snd (.of_2 (.fetch wf) e1)

theorem State.MemWf.reenter {c : Ctx} (wf : s.MemWf) : (s.reenter c).MemWf := by
  unfold State.reenter
  dsimp only
  refine .updGroup (.ite_2 (.pastTable ?_) (.snd ?_))
  · split
    · exact .skippedPast (.headerBefore wf)
    · exact .snd (.headerBefore wf)
  · split
    · exact .skippedPast (.headerBefore wf)
    · exact .snd (.headerBefore wf)

theorem Ready.MemWf.checked {c : Ctx} {i : Instr} (wf : s.MemWf) : (s.checked c i).MemWf := by
  unfold State.checked
  dsimp only
  refine .ite (.instr wf) ?_
  split
  · exact .instr (.foldl (.foldl wf (fun _ _ wf => .checkReg wf)) (fun _ _ wf => .ite (.checkReg wf) wf))
  · refine .ite (.instr (.foldl (.foldl wf (fun _ _ wf => .checkReg wf)) (fun _ _ wf => .ite (.checkReg wf) wf)))
      (.done ?_)
    split
    · exact .raiseAll (.record (.dropFlaws (.foldl (.foldl wf (fun _ _ wf => .checkReg wf))
        (fun _ _ wf => .ite (.checkReg wf) wf))))
    · exact .record (.dropFlaws (.foldl (.foldl wf (fun _ _ wf => .checkReg wf))
        (fun _ _ wf => .ite (.checkReg wf) wf)))

theorem Ready.MemWf.fetchWord (wf : s.MemWf) : s.fetchWord.MemWf := by
  unfold State.fetchWord
  split
  · exact .done wf
  · split
    · next e2 =>
        exact .done (.noWord (.of_2 (.fetch wf) e2))
    · next e2 =>
        split
        · split
          · exact .checked (.of_2 (.fetch wf) e2)
          · exact .done (.of_2 (.fetch wf) e2)
        · exact .done (.noWord (.of_2 (.fetch wf) e2))

theorem Ready.MemWf.beginClause {c : Ctx} (wf : s.MemWf) : (s.beginClause c).MemWf := by
  unfold State.beginClause
  split
  · next e1 =>
      exact .done (.noWord (.of_2 (.fetch wf) e1))
  · next w u e1 =>
      have wfu : u.MemWf := .of_2 (.fetch wf) e1
      refine .ite (.done (.noWord wfu)) ?_
      split
      · next t e2 =>
          have wft : t.MemWf := .of_next (exec_answerWf wfu) e2
          split
          · exact .ite (.fetchWord wft) (.done wft)
          · exact .done wft
      · exact .done (.noWord wfu)

theorem Ready.MemWf.aimed (wf : s.MemWf) : s.aimed.MemWf := by
  unfold State.aimed
  split
  · exact .done wf
  · next c _ =>
      split
      · exact .done (.stallBy wf)
      · extract_lets s1
        have wf1 : s1.MemWf := .ite (.reenter wf) wf
        split
        · exact .done wf1
        · exact .ite (.fetchWord wf1) (.beginClause wf1)

theorem Ready.MemWf.attempt {gk ix : Nat} (wf : s.MemWf) : (s.attempt gk ix).MemWf := .aimed (.aim wf)

theorem Ready.MemWf.run {a : Ready} (wf : a.MemWf) : AnswerWf a.run := by
  cases a with
  | instr i s => exact exec_answerWf wf
  | done s => exact .next wf

theorem State.MemWf.updSplit {p : Place} {f : Split → Split} (wf : s.MemWf) : (s.updSplit p f).MemWf := .updGroup wf

theorem State.MemWf.begun {gk : Nat} (wf : s.MemWf) : (s.begun gk).MemWf := by
  unfold State.begun
  split
  · exact .ite (.updGang wf) wf
  · exact wf

theorem State.MemWf.yieldsOver {core sched : Nat} (wf : s.MemWf) : (s.yieldsOver core sched).MemWf :=
  .ite (.elsewhere wf) wf

theorem State.MemWf.settleTurn {core sched : Nat} {e : List Place} {stalled : List (Place × Nat)} {p : Option Place}
    (wf : s.MemWf) : (s.settleTurn core sched e stalled p).MemWf := by
  unfold State.settleTurn
  split
  · exact .elsewhere (.foldl (.foldl (.yieldsOver wf) (fun _ _ wf => .updSplit wf))
      (fun _ _ wf => .ite (.updGroup (.updSplit (.begun wf))) (.updSplit wf)))
  · exact .foldl (.foldl (.yieldsOver wf) (fun _ _ wf => .updSplit wf))
      (fun _ _ wf => .ite (.updGroup (.updSplit (.begun wf))) (.updSplit wf))

theorem State.MemWf.unfocus (wf : s.MemWf) : s.unfocus.MemWf := .elsewhere wf

theorem AnswerWf.issueTurn {core sched : Nat} (wf : s.MemWf) : AnswerWf (s.issueTurn core sched) := by
  unfold State.issueTurn
  dsimp only
  split
  · exact .next (.settleTurn wf)
  · next p _ =>
      have wfr : AnswerWf (((s.settleTurn core sched (s.eligible core sched).1 (s.eligible core sched).2 (some p)).attempt
          p.g p.ix).run) := Ready.MemWf.run (.attempt (.settleTurn wf))
      split
      · next e =>
          exact .next (.updGroup (.unfocus (.of_next wfr e)))
      · exact trivial
      · exact trivial

theorem State.MemWf.pick {core sched : Nat} (wf : s.MemWf) : (s.pick core sched).2.MemWf :=
  .ite_2 (.snd wf) (.snd (.elsewhere wf))

theorem State.MemWf.cycle (wf : s.MemWf) : s.cycle.MemWf := .elsewhere (.countStalls wf)

theorem State.MemWf.suffer (wf : s.MemWf) : s.suffer.MemWf := .elsewhere wf

theorem State.MemWf.tick (wf : s.MemWf) : s.tick.MemWf := .elsewhere (.suffer (.cycle wf))

theorem AnswerWf.turn {a : Turn} (wf : s.MemWf) : AnswerWf (s.turn a) := by
  unfold State.turn
  split
  · exact .issueTurn (.pick wf)
  · exact exec_answerWf wf

/-! ## Machine/Step.lean -/

theorem step_answerWf (wf : s.MemWf) : AnswerWf (step s) := by
  unfold step
  split
  · exact .turn (.elsewhere wf)
  · dsimp only
    split
    · exact .turn (.elsewhere (.tick wf))
    · exact .next (.tick wf)

end Sys2Proof.Machine

namespace Sys2Proof.Proofs

open Sys2Proof.Machine

/-- Settles O58: the operations of a step pass the canonical form on, each given that those it calls do, and the one that writes
bytes of memory, State.putBytes, keeps it (`memPutL_wf`). -/
theorem memoryStaysCanonical : Obligations.MemoryStaysCanonical := by
  intro s t wf h
  exact State.MemWf.of_next (step_answerWf wf) h

end Sys2Proof.Proofs
end

section
/-! SUPPORT. Forming an access (R143, R146, R163, R165, R363): what `State.formParts` gives on each path. -/

namespace Sys2Proof.Machine

theorem nbits_eq_zero_iff {x hi lo : Nat} (top : x < 2 ^ (hi + 1)) (h : lo ≤ hi + 1) : nbits x hi lo = 0 ↔ x < 2 ^ lo := by
  have small : x / 2 ^ lo < 2 ^ (hi + 1 - lo) := by
    rw [Nat.div_lt_iff_lt_mul (by positivity), ← pow_add, Nat.sub_add_cancel h]
    exact top
  rw [nbits, Nat.mod_eq_of_lt small, Nat.div_eq_zero_iff_lt (by positivity)]

/-- The 60 bits below the path, and the path (R143). -/
theorem path_of_addr {o : Nat} (ho : o < 2 ^ 60) (p : Nat) : (p * 2 ^ 60 + o) / 2 ^ 60 = p ∧ (p * 2 ^ 60 + o) % 2 ^ 60 = o := by
  omega

theorem pathOk_iff_permitted {k : AccKind} {p : Nat} (hp : p ≤ 5) : k.pathOk p false = true ↔ permitted k p := by
  cases k <;> simp [AccKind.pathOk, permitted] <;> omega

theorem pathOk_own_iff_permitted {k : AccKind} : k.pathOk 7 true = true ↔ permitted k 7 := by
  cases k <;> simp [AccKind.pathOk, permitted]

/-- Only a load and a prefetch may be made on paths 0x6 and 0x7 wherever they go (R363). -/
theorem pathOk_view_iff {k : AccKind} {p : Nat} (hp : p = 6 ∨ p = 7) : k.pathOk p false = true ↔ k = .load ∨ k = .pref := by
  rcases hp with rfl | rfl <;> cases k <;> simp [AccKind.pathOk]

/-! ## The ends of the checks -/

/-- Steps 3 to 5 of R363 in the banks of workgroup w: n bytes from byte b, low the address bits whose alignment counts. -/
def State.scrReach (s : State) (w : Wg) (b low n : Nat) (right : Bool) (x : Access) : Sum Nat (List Access) × State :=
  if w.scrOk b (if low % n = 0 then n else 1) = false then (.inl 5, s)
  else if low % n ≠ 0 then (.inl 4, s)
  else if right = false then (.inl 5, s)
  else (.inr [x], s)

theorem reachesScr_scrReach {s : State} {right : Bool} {key : Nat} {w : Wg} {b low p n l : Nat} {x : Access}
    (loc : x.loc = .scr key b) (size : x.n = n) (off : x.off = 0) (lane : x.lane = l) (path : x.path = p) :
    reachesScr s right key w b low p n l (s.scrReach w b low n right x) := by
  refine ⟨fun odd => ?_, fun even bad => ?_, fun even ok has => ⟨x, ?_, loc, size, off, lane, path⟩⟩
  · cases ok : w.scrOk b 1 <;> simp [State.scrReach, odd, ok]
  · rcases bad with bad | bad <;> simp [State.scrReach, even, bad]
  · simp [State.scrReach, even, ok, has]

/-- Steps 4 to 7 of R363 for a translated address: low the address bits whose alignment counts, va what is translated, x the access
by its physical address. -/
def State.pageReach (s : State) (c : Ctx) (right : Bool) (k : AccKind) (p va low n : Nat) (x : Nat → Access) :
    Sum Nat (List Access) × State :=
  if low % n ≠ 0 then (.inl 4, s)
  else if right = false then (.inl 5, s)
  else match s.pageOf c k p va with
    | (.inl f, s) => (.inl f, s)
    | (.inr pa, s) => (.inr [x pa], s)

section
variable {s : State} {c : Ctx} {right : Bool} {k : AccKind} {p va low n l : Nat} {x : Nat → Access}

theorem pageReach_misaligned (odd : low % n ≠ 0) : s.pageReach c right k p va low n x = (.inl 4, s) := by
  simp [State.pageReach, odd]

theorem pageReach_noRight (even : low % n = 0) (no : right = false) : s.pageReach c right k p va low n x = (.inl 5, s) := by
  simp [State.pageReach, even, no]

theorem pageReach_page (even : low % n = 0) (has : right = true) : s.pageReach c right k p va low n x =
    match s.pageOf c k p va with
    | (.inl f, s) => (.inl f, s)
    | (.inr pa, s) => (.inr [x pa], s) := by
  simp [State.pageReach, even, has]

theorem pageOf_untranslated (no : s.translate c.g.core c.l.aspace va = (none, s)) : s.pageOf c k p va = (.inl 7, s) := by
  simp [State.pageOf, State.pageAt, no, PageAt.code]

/-- Step 7 of R363: a page that may not be written, or lies where path 0x5 does not reach. -/
theorem pageOf_refused {t : Trans} (at_ : s.translate c.g.core c.l.aspace va = (some t, s))
    (home : k.writes = true → s.deadHome (t.base + va % 65536) = none)
    (bad : (p = 5 ∧ inTier2 (t.base + va % 65536) = false) ∨ (k.writes = true ∧ t.w = false)) :
    s.pageOf c k p va = (.inl 5, s) := by
  by_cases tier : p = 5 ∧ inTier2 (t.base + va % 65536) = false
  · simp [State.pageOf, State.pageAt, at_, tier, PageAt.code]
  · obtain ⟨writes, ro⟩ := bad.resolve_left tier
    have tier' : (decide (p = 5) && !inTier2 (t.base + va % 65536)) = false := by simpa using tier
    simp [State.pageOf, State.pageAt, at_, tier', home writes, writes, ro, PageAt.code]

theorem pageOf_ok {t : Trans} (at_ : s.translate c.g.core c.l.aspace va = (some t, s))
    (home : k.writes = true → s.deadHome (t.base + va % 65536) = none)
    (tier : ¬ (p = 5 ∧ inTier2 (t.base + va % 65536) = false)) (may : k.writes = false ∨ t.w = true) :
    s.pageOf c k p va = (.inr (t.base + va % 65536), s) := by
  have tier' : (decide (p = 5) && !inTier2 (t.base + va % 65536)) = false := by simpa using tier
  cases writes : k.writes with
  | false => simp [State.pageOf, State.pageAt, at_, tier', writes]
  | true => simp [State.pageOf, State.pageAt, at_, tier', writes, home writes, may.resolve_left (by simp [writes])]

/-- Steps 6 and 7 of R363 on a path q that the pages see as path p: both are 0x5, or neither is. -/
theorem reachesPage_pageReach {q : Nat} (same : q = 5 ↔ p = 5) (even : low % n = 0) (has : right = true)
    (loc : ∀ pa, (x pa).loc = .mem pa) (size : ∀ pa, (x pa).n = n) (off : ∀ pa, (x pa).off = 0) (lane : ∀ pa, (x pa).lane = l)
    (path : ∀ pa, (x pa).path = q) : reachesPage s c k q va n l (s.pageReach c right k p va low n x) := by
  rw [pageReach_page even has]
  refine ⟨fun no => ?_, fun t at_ home => ⟨fun bad => ?_, fun tier may => ?_⟩⟩
  · rw [pageOf_untranslated no]
  · rw [pageOf_refused at_ home (by rwa [← same])]
  · rw [pageOf_ok at_ home (by rwa [← same]) may]
    exact ⟨_, rfl, loc _, size _, off _, lane _, path _⟩

end

/-! ## formParts, path by path -/

section
variable {s : State} {c : Ctx} {h : Option Handle} {hd : Handle} {off o n l : Nat} {k : AccKind}

theorem formParts_reserved {p : Nat} (hp : 8 ≤ p) (ho : o < 2 ^ 60) :
    s.formParts c h off (p * 2 ^ 60 + o) n n k l = (.inl 5, s) := by
  unfold State.formParts
  simp only [path_of_addr ho p, hp, if_true]

/-- Path 0x3, the own scratchpad. -/
theorem formParts_own (ho : o < 2 ^ 60) : s.formParts c h off (3 * 2 ^ 60 + o) n n k l =
    if 2 ^ 22 ≤ o ∨ c.l.scratch ≤ o ∨ k.pathOk 3 false = false then (.inl 5, s)
    else s.scrReach c.wg o o n (k.rights h) (mkAcc l (3 * 2 ^ 60 + o) 3 (.scr c.wk o) 0 n (keepOf 3 h)) := by
  have far : nbits o 59 22 = 0 ↔ o < 2 ^ 22 := nbits_eq_zero_iff ho (by decide)
  obtain ⟨path, low⟩ := path_of_addr ho 3
  unfold State.formParts
  rw [path, low]
  by_cases out : 2 ^ 22 ≤ o ∨ c.l.scratch ≤ o ∨ k.pathOk 3 false = false
  · rw [if_pos out]
    rw [← Nat.not_lt, ← far] at out
    rcases out with out | out | out <;> simp [out]
  · rw [if_neg out]
    simp only [not_or, Bool.not_eq_false] at out
    obtain ⟨near, within, may⟩ := out
    rw [Nat.not_le, ← far] at near
    unfold State.scrReach
    cases k.rights h <;> by_cases even : o % n = 0 <;> simp [near, within, may, even]

/-- Path 0x4, the scratchpad of workgroup o / 0x400000 of the gang. -/
theorem formParts_gang {w : Wg} (ho : o < 2 ^ 60) (there : mget? s.wgs (wgKey c.nk (o / 0x400000)) = some w) :
    s.formParts c h off (4 * 2 ^ 60 + o) n n k l =
    if 2 ^ 27 ≤ o ∨ c.gg.w * c.gg.h ≤ o / 0x400000 ∨ c.l.scratch ≤ o % 0x400000 ∨ k.pathOk 4 false = false then (.inl 5, s)
    else s.scrReach w (o % 0x400000) o n (k.rights h)
      (mkAcc l (4 * 2 ^ 60 + o) 4 (.scr (wgKey c.nk (o / 0x400000)) (o % 0x400000)) 0 n (keepOf 4 h)) := by
  have far : nbits o 59 27 = 0 ↔ o < 2 ^ 27 := nbits_eq_zero_iff ho (by decide)
  obtain ⟨path, low⟩ := path_of_addr ho 4
  unfold State.formParts
  rw [path, low]
  by_cases out : 2 ^ 27 ≤ o ∨ c.gg.w * c.gg.h ≤ o / 0x400000 ∨ c.l.scratch ≤ o % 0x400000 ∨ k.pathOk 4 false = false
  · rw [if_pos out]
    rw [← Nat.not_lt, ← far] at out
    rcases out with out | out | out | out <;> simp [out]
  · rw [if_neg out]
    simp only [not_or, Bool.not_eq_false] at out
    obtain ⟨near, member, within, may⟩ := out
    rw [Nat.not_le, ← far] at near
    unfold State.scrReach
    cases k.rights h <;> by_cases even : o % n = 0 <;>
      simp [near, member, within, may, even, there]

theorem formParts_gang_out (ho : o < 2 ^ 60)
    (out : 2 ^ 27 ≤ o ∨ c.gg.w * c.gg.h ≤ o / 0x400000 ∨ c.l.scratch ≤ o % 0x400000 ∨ k.pathOk 4 false = false) :
    s.formParts c h off (4 * 2 ^ 60 + o) n n k l = (.inl 5, s) := by
  have far : nbits o 59 27 = 0 ↔ o < 2 ^ 27 := nbits_eq_zero_iff ho (by decide)
  obtain ⟨path, low⟩ := path_of_addr ho 4
  unfold State.formParts
  rw [path, low]
  rw [← Nat.not_lt, ← far] at out
  rcases out with out | out | out | out <;> simp [out]

theorem formParts_high {p : Nat} (hp : p ∈ [0, 1, 2, 5, 6, 7]) (ho : o < 2 ^ 60) (high : 2 ^ 52 ≤ o) :
    s.formParts c h off (p * 2 ^ 60 + o) n n k l = (.inl 5, s) := by
  have far : nbits o 59 52 ≠ 0 := by
    rw [Ne, nbits_eq_zero_iff ho (by decide)]
    exact Nat.not_lt.mpr high
  obtain ⟨path, low⟩ := path_of_addr ho p
  unfold State.formParts
  rw [path, low]
  fin_cases hp <;> simp [far]

/-- Paths 0x6 and 0x7 are those of a slot (R143). -/
theorem formParts_flat_view {p : Nat} (hp : p = 6 ∨ p = 7) (ho : o < 2 ^ 60) :
    s.formParts c none off (p * 2 ^ 60 + o) n n k l = (.inl 5, s) := by
  obtain ⟨path, low⟩ := path_of_addr ho p
  unfold State.formParts
  rw [path, low]
  rcases hp with rfl | rfl <;> simp

/-- Paths 0x0, 0x1, 0x2 and 0x5, which are translated. -/
theorem formParts_page {p : Nat} (hp : p ∈ [0, 1, 2, 5]) (near : o < 2 ^ 52) : s.formParts c h off (p * 2 ^ 60 + o) n n k l =
    if k.pathOk p false = false then (.inl 5, s)
    else s.pageReach c (k.rights h) k p o o n (fun pa => mkAcc l (p * 2 ^ 60 + o) p (.mem pa) 0 n (keepOf p h)) := by
  have ho : o < 2 ^ 60 := by omega
  have low52 : nbits o 59 52 = 0 := (nbits_eq_zero_iff ho (by decide)).mpr near
  obtain ⟨path, low⟩ := path_of_addr ho p
  unfold State.formParts State.pageReach
  rw [path, low]
  cases may : k.pathOk p false
  · fin_cases hp <;> simp [low52, may]
  · fin_cases hp <;> cases k.rights h <;> by_cases even : o % n = 0 <;> simp [low52, may, even] <;> rfl

/-- Path 0x6, a sparse view (R165): the width w of the format code sets how many bytes of the view a line of memory holds. -/
theorem formParts_sparse {w : Nat} (hw : fmtWidth (nbits hd.kinfo.toNat 4 0) = w) (near : o < 2 ^ 52) :
    s.formParts c (some hd) off (6 * 2 ^ 60 + o) n n k l =
    if k.pathOk 6 false = false then (.inl 5, s)
    else if off % n = 0 ∧ k.rights (some hd) = true ∧ w = 0 then (.inl 6, s)
    else s.pageReach c (k.rights (some hd)) k 0 (hd.base + 128 * (off / (16 * w))) off n (fun pa =>
      mkAcc l (6 * 2 ^ 60 + o) 6 (.sparse pa (off % (16 * w)) w (nbits hd.kinfo.toNat 11 5)) 0 n (keepOf 6 (some hd))) := by
  have ho : o < 2 ^ 60 := by omega
  have low52 : nbits o 59 52 = 0 := (nbits_eq_zero_iff ho (by decide)).mpr near
  obtain ⟨path, low⟩ := path_of_addr ho 6
  unfold State.formParts State.pageReach
  rw [path, low]
  cases may : k.pathOk 6 false
  · simp [low52, may]
  · cases k.rights (some hd) <;> by_cases even : off % n = 0 <;> by_cases zero : w = 0 <;>
      simp [low52, may, even, zero, hw] <;> rfl

/-! ## Path 0x7, a tiled-halo view (R162, R163) -/

theorem Halo.at_own_iff {x : Halo} {w hh k b : Nat} : x.at w hh k b = .own ↔ x.owns w k b = true := by
  unfold Halo.at
  cases x.owns w k b
  · cases x.places w hh k b <;> simp
  · simp

theorem Halo.at_out_iff {x : Halo} {w hh k b : Nat} :
    x.at w hh k b = .out ↔ x.owns w k b = false ∧ ¬ ∃ q, x.at w hh k b = .rep q := by
  rw [← Bool.not_eq_true, ← at_own_iff (hh := hh)]
  cases x.at w hh k b <;> simp

theorem Halo.owns_iff {x : Halo} {w k b : Nat} (tw : x.tw ≠ 0) (th : x.th ≠ 0) (hw : w ≠ 0) :
    x.owns w k b = true ↔ b / (w * x.tw) / x.th * w + b % (w * x.tw) / x.tw = k := by
  simp [Halo.owns, tw, th, hw]

theorem formParts_tile_refused (near : o < 2 ^ 52)
    (bad : (∃ i < n, hd.halo.at c.gg.w c.gg.h c.wg.k (off + i) = .out) ∨
      k.pathOk 7 ((upto n).all (fun i => hd.halo.at c.gg.w c.gg.h c.wg.k (off + i) = .own)) = false) :
    s.formParts c (some hd) off (7 * 2 ^ 60 + o) n n k l = (.inl 5, s) := by
  have ho : o < 2 ^ 60 := by omega
  have low52 : nbits o 59 52 = 0 := (nbits_eq_zero_iff ho (by decide)).mpr near
  obtain ⟨path, low⟩ := path_of_addr ho 7
  unfold State.formParts
  rw [path, low]
  rcases bad with ⟨i, hi, out⟩ | bad
  · have some_out : ¬ ∀ i ∈ upto n, ¬ hd.halo.at c.gg.w c.gg.h c.wg.k (off + i) = .out :=
      fun none_out => none_out i (List.mem_range.mpr hi) out
    simp [low52, some_out]
  · simp [low52, bad]

/-- All bytes in the own tile: it lies in memory. -/
theorem formParts_tile_own (near : o < 2 ^ 52) (may : k.pathOk 7 true = true)
    (own : ∀ i < n, hd.halo.at c.gg.w c.gg.h c.wg.k (off + i) = .own) :
    s.formParts c (some hd) off (7 * 2 ^ 60 + o) n n k l =
    s.pageReach c (k.rights (some hd)) k 0 o o n (fun pa => mkAcc l (7 * 2 ^ 60 + o) 7 (.mem pa) 0 n (keepOf 7 (some hd))) := by
  have ho : o < 2 ^ 60 := by omega
  have low52 : nbits o 59 52 = 0 := (nbits_eq_zero_iff ho (by decide)).mpr near
  obtain ⟨path, low⟩ := path_of_addr ho 7
  have all_own : ∀ i ∈ upto n, hd.halo.at c.gg.w c.gg.h c.wg.k (off + i) = .own := fun i hi => own i (List.mem_range.mp hi)
  have none_out : ((upto n).all fun i => decide (hd.halo.at c.gg.w c.gg.h c.wg.k (off + i) ≠ .out)) = true := by
    rw [List.all_eq_true]
    intro i hi
    simp [all_own i hi]
  have own_true : ((upto n).all fun i => decide (hd.halo.at c.gg.w c.gg.h c.wg.k (off + i) = .own)) = true := by
    simpa [List.all_eq_true] using all_own
  unfold State.formParts State.pageReach
  rw [path, low]
  simp only [own_true, none_out]
  cases k.rights (some hd) <;> by_cases even : o % n = 0 <;> simp [low52, may, even] <;> rfl

/-- A fold over the bytes of an access that forms part y i for each byte i forms them all. -/
theorem foldl_parts {f : Sum Nat (List Access) × State → Nat → Sum Nat (List Access) × State} {s : State} {y : Nat → Access}
    {n : Nat} (step : ∀ i < n, ∀ ps, f (.inr ps, s) i = (.inr (ps ++ [y i]), s)) :
    (upto n).foldl f (.inr [], s) = (.inr ((upto n).map y), s) := by
  induction n with
  | zero => rfl
  | succ n ih =>
    rw [upto, List.range_succ, List.foldl_append, ← upto, ih fun i hi => step i (by omega)]
    simp [step n (by omega)]

/-- A load that leaves the own tile is formed byte by byte. -/
theorem formParts_tile_halo {loc : Nat → Loc} (near : o < 2 ^ 52) (may : k.pathOk 7 false = true) (reads : k.writes = false)
    (even : o % n = 0) (has : k.rights (some hd) = true)
    (leaves : ∃ i < n, hd.halo.at c.gg.w c.gg.h c.wg.k (off + i) ≠ .own)
    (at_ : ∀ i < n,
      (hd.halo.at c.gg.w c.gg.h c.wg.k (off + i) = .own ∧
        ∃ t, s.translate c.g.core c.l.aspace (o + i) = (some t, s) ∧ loc i = .mem (t.base + (o + i) % 65536)) ∨
      ∃ q, hd.halo.at c.gg.w c.gg.h c.wg.k (off + i) = .rep q ∧ c.wg.scrOk (hd.halo.hoff + q) 1 = true ∧
        loc i = .scr c.wk (hd.halo.hoff + q)) :
    s.formParts c (some hd) off (7 * 2 ^ 60 + o) n n k l =
    (.inr ((upto n).map (fun i => mkAcc l (7 * 2 ^ 60 + o) 7 (loc i) i 1 (keepOf 7 (some hd)))), s) := by
  have ho : o < 2 ^ 60 := by omega
  have low52 : nbits o 59 52 = 0 := (nbits_eq_zero_iff ho (by decide)).mpr near
  obtain ⟨path, low⟩ := path_of_addr ho 7
  have not_own : ((upto n).all fun i => decide (hd.halo.at c.gg.w c.gg.h c.wg.k (off + i) = .own)) = false := by
    obtain ⟨i, hi, out⟩ := leaves
    rw [List.all_eq_false]
    exact ⟨i, List.mem_range.mpr hi, by simp [out]⟩
  have none_out : ((upto n).all fun i => decide (hd.halo.at c.gg.w c.gg.h c.wg.k (off + i) ≠ .out)) = true := by
    rw [List.all_eq_true]
    intro i hi
    rcases at_ i (List.mem_range.mp hi) with ⟨own, -⟩ | ⟨q, rep, -⟩ <;> simp [*]
  unfold State.formParts
  rw [path, low]
  simp only [not_own, none_out]
  simp only [Nat.reduceLeDiff, ↓reduceIte, Nat.reduceEqDiff, low52, ne_eq, not_true_eq_false, Bool.not_true, may, Bool.or_self,
    Bool.false_eq_true, Nat.succ_ne_self, even, BEq.rfl, has]
  refine foldl_parts fun i hi ps => ?_
  rcases at_ i hi with ⟨own, t, tr, lc⟩ | ⟨q, rep, bank, lc⟩
  · have page := pageOf_ok (k := k) (p := 0) tr (by simp [reads]) (by simp) (.inl reads)
    simp [own, page, lc]
  · simp [rep, bank, lc]

end

/-! ## Accesses -/

section
variable {s : State} {c : Ctx} {h a n l : Nat} {k : AccKind}

theorem formAccess_poisoned (slot : h ≠ 0) (bad : (c.g.lane a l).p.isSome = true) : s.formAccess c h a n k l = (.inl 9, s) := by
  simp [State.formAccess, slot, bad]

theorem formAccess_flat_poisoned (bad : (c.g.pair a l).2.isSome = true) : s.formAccess c 0 a n k l = (.inl 9, s) := by
  simp [State.formAccess, bad]

theorem formAccess_flat {addr : Nat} (at_ : c.g.pair a l = (addr, none)) :
    s.formAccess c 0 a n k l = s.formParts c none 0 addr n n k l := by
  simp [State.formAccess, at_]

theorem formAccess_exceeded (slot : h ≠ 0) (clean : (c.g.lane a l).p = none)
    (bad : mget? c.wg.handles h = none ∨ ∃ x, mget? c.wg.handles h = some x ∧ x.limit < (c.g.lane a l).w.toNat + n - 1) :
    s.formAccess c h a n k l = (.inl 6, s) := by
  rcases bad with none_ | ⟨x, some_, past⟩
  · simp [State.formAccess, slot, clean, none_]
  · simp [State.formAccess, slot, clean, some_, past]

theorem formAccess_slot {x : Handle} (slot : h ≠ 0) (clean : (c.g.lane a l).p = none) (some_ : mget? c.wg.handles h = some x)
    (within : (c.g.lane a l).w.toNat + n - 1 ≤ x.limit) : s.formAccess c h a n k l =
    s.formParts c (some x) (c.g.lane a l).w.toNat (x.path * 2 ^ 60 + (x.base + (c.g.lane a l).w.toNat) % 2 ^ 60) n n k l := by
  simp [State.formAccess, slot, clean, some_, Nat.not_lt.mpr within]

end

/-- A path that does not permit the access (R363 step 3). -/
theorem formParts_refused {s : State} {c : Ctx} {h : Option Handle} {off o n l p : Nat} {k : AccKind} (ho : o < 2 ^ 60)
    (hp : p ≤ 5) (no : k.pathOk p false = false) : s.formParts c h off (p * 2 ^ 60 + o) n n k l = (.inl 5, s) := by
  by_cases scr : p = 3
  · subst scr
    rw [formParts_own ho, if_pos (.inr (.inr no))]
  by_cases gang : p = 4
  · subst gang
    exact formParts_gang_out ho (.inr (.inr (.inr no)))
  have page : p ∈ [0, 1, 2, 5] := by
    simp only [List.mem_cons, List.not_mem_nil, or_false]
    omega
  by_cases near : o < 2 ^ 52
  · rw [formParts_page page near, if_pos no]
  · exact formParts_high (List.mem_append_left [6, 7] page) ho (Nat.not_lt.mp near)

/-- R363, steps 3 to 7, on every path that is no view. -/
theorem reaches_formParts {s : State} {c : Ctx} {h : Option Handle} {off o n l p : Nat} {k : AccKind} (ho : o < 2 ^ 60) :
    reaches s c (k.rights h) k p o n l (s.formParts c h off (p * 2 ^ 60 + o) n n k l) := by
  refine ⟨?_, ?_, ?_, ?_⟩
  · rintro (reserved | ⟨low, no⟩ | ⟨page, high⟩)
    · exact formParts_reserved reserved ho
    · rw [← pathOk_iff_permitted low, Bool.not_eq_true] at no
      exact formParts_refused ho low no
    · exact formParts_high (List.mem_append_left [6, 7] page) ho high
  · rintro rfl may
    rw [← pathOk_iff_permitted (by decide)] at may
    rw [formParts_own ho]
    refine ⟨fun out => ?_, fun near within => ?_⟩
    · rw [if_pos (out.imp_right .inl)]
    · rw [if_neg (by simp [may]; omega)]
      exact reachesScr_scrReach rfl rfl rfl rfl rfl
  · rintro rfl may
    rw [← pathOk_iff_permitted (by decide)] at may
    refine ⟨fun out => formParts_gang_out ho (out.imp_right (.imp_right .inl)), fun w near member within there => ?_⟩
    rw [formParts_gang ho there, if_neg (by simp [may]; omega)]
    exact reachesScr_scrReach rfl rfl rfl rfl rfl
  · intro page may near
    rw [← pathOk_iff_permitted (by fin_cases page <;> decide)] at may
    rw [formParts_page page near, if_neg (by simp [may])]
    exact ⟨pageReach_misaligned, pageReach_noRight, fun even has =>
      reachesPage_pageReach Iff.rfl even has (fun _ => rfl) (fun _ => rfl) (fun _ => rfl) (fun _ => rfl) (fun _ => rfl)⟩

/-! ## Views -/

section
variable {s : State} {c : Ctx} {hd : Handle} {off o n l w : Nat} {k : AccKind}

theorem formParts_sparse_refused (near : o < 2 ^ 52) (no : ¬ (k = .load ∨ k = .pref)) :
    s.formParts c (some hd) off (6 * 2 ^ 60 + o) n n k l = (.inl 5, s) := by
  rw [← pathOk_view_iff (.inl rfl), Bool.not_eq_true] at no
  rw [formParts_sparse rfl near, if_pos no]

theorem formParts_sparse_read (near : o < 2 ^ 52) (reads : k = .load ∨ k = .pref)
    (hw : fmtWidth (nbits hd.kinfo.toNat 4 0) = w) (nonzero : off % n = 0 → k.rights (some hd) = true → w ≠ 0) :
    s.formParts c (some hd) off (6 * 2 ^ 60 + o) n n k l =
    s.pageReach c (k.rights (some hd)) k 0 (hd.base + 128 * (off / (16 * w))) off n (fun pa =>
      mkAcc l (6 * 2 ^ 60 + o) 6 (.sparse pa (off % (16 * w)) w (nbits hd.kinfo.toNat 11 5)) 0 n (keepOf 6 (some hd))) := by
  have may := (pathOk_view_iff (.inl rfl)).mpr reads
  rw [formParts_sparse hw near, if_neg (by simp [may]), if_neg fun ⟨even, has, zero⟩ => nonzero even has zero]

/-- An access through a tiled-halo handle that is none, or leaves tile and halo, or the tile without being a load (R163). -/
theorem formParts_tile_out {own : Nat → Prop} (near : o < 2 ^ 52)
    (tile : ∀ i, hd.halo.at c.gg.w c.gg.h c.wg.k (off + i) = .own ↔ own i)
    (bad : k = .lrsc ∨ k = .conv ∨ ((k = .store ∨ k = .atom ∨ k = .watched) ∧ ∃ i < n, ¬ own i) ∨
      ∃ i < n, ¬ own i ∧ ¬ ∃ q, hd.halo.at c.gg.w c.gg.h c.wg.k (off + i) = .rep q) :
    s.formParts c (some hd) off (7 * 2 ^ 60 + o) n n k l = (.inl 5, s) := by
  refine formParts_tile_refused near ?_
  rcases bad with rfl | rfl | ⟨kinds, i, hi, no⟩ | ⟨i, hi, no, noHalo⟩
  · exact .inr rfl
  · exact .inr rfl
  · have leaves : ((upto n).all fun i => decide (hd.halo.at c.gg.w c.gg.h c.wg.k (off + i) = .own)) = false := by
      rw [List.all_eq_false]
      exact ⟨i, List.mem_range.mpr hi, by simpa [tile i] using no⟩
    rw [leaves]
    rcases kinds with rfl | rfl | rfl <;> exact .inr rfl
  · refine .inl ⟨i, hi, ?_⟩
    cases at_ : hd.halo.at c.gg.w c.gg.h c.wg.k (off + i) with
    | own => exact absurd ((tile i).mp at_) no
    | rep q => exact absurd ⟨q, at_⟩ noHalo
    | out => rfl

end

/-! ## The fault that all lanes fail with (R122) -/

theorem mput_mput {α : Type} (m : Map α) (n : Nat) (a b : α) : mput (mput m n a) n b = mput m n b := by
  induction m with
  | nil => simp [mput]
  | cons e r ih =>
    obtain ⟨k, v⟩ := e
    by_cases below : n < k
    · simp [mput, below]
    · by_cases same : n = k <;> simp [mput, below, same, ih]

theorem State.updGroup_updGroup (s : State) (k : Nat) (f f' : Group → Group) :
    (s.updGroup k f).updGroup k f' = s.updGroup k (f' ∘ f) := by
  have maps : mupd (mupd s.groups k f) k f' = mupd s.groups k (f' ∘ f) := by
    unfold mupd
    cases there : mget? s.groups k with
    | none => simp [there]
    | some g => simp [mput_mput]
  unfold State.updGroup
  rw [maps]

theorem divide_drop_empty (g : Group) (ix : Nat) {p : Split} (no : p.mask = 0#32) (ps : List Split) :
    g.divide ix (p :: ps) = g.divide ix ps := by
  simp [Group.divide, no]

/-- Where all lanes of the split fail with one code, the instruction ends with the fault of the whole split (R122). -/
theorem endInstr_all {s : State} {c : Ctx} {code : Nat} (running : s.frozen c.wk = false) :
    s.endInstr c (fun l => if c.sp.mask.getLsbD l then some code else none) = s.raiseAll c code := by
  have none_left : c.sp.mask &&& ~~~ codeMask (fun l => if c.sp.mask.getLsbD l then some code else none) = 0#32 := by
    rw [codeMask_raise]
    simp
  have parts : c.splitUp [{ c.sp.goTo (c.sp.pc + 1) with mask := 0#32 }] = c.splitUp [] := by
    funext g bad
    simp only [Ctx.splitUp, List.cons_append, List.nil_append, divide_drop_empty]
  simp only [State.endInstr, running, State.raiseAll, State.takeFault, none_left, List.map_cons, List.map_nil, parts]
  simp

/-- The forms of an instruction whose lanes all fail with one code. -/
def Forms.allFail (m : Lanes) (code : Nat) : Forms := (lanesOf m).map (fun l => (l, .inl code))

theorem formAll_lanes (s : State) (c : Ctx) (h : BitVec 4) (a : BitVec 7) (n : Nat) (k : AccKind) :
    (s.formAll c h a n k).1.map Prod.fst = lanesOf c.act := by
  have each : ∀ (ls : List Nat) (acc : Forms × State), ((ls.foldl (fun acc l =>
      let (r, s) := acc.2.formAccess c h.toNat a.toNat n k l
      (acc.1 ++ [(l, r)], s)) acc).1).map Prod.fst = acc.1.map Prod.fst ++ ls := by
    intro ls
    induction ls with
    | nil => simp
    | cons l ls ih =>
      intro acc
      rw [List.foldl_cons, ih]
      simp
  exact each _ _

theorem formAll_allFail {s t : State} {c : Ctx} {h : BitVec 4} {a : BitVec 7} {n : Nat} {k : AccKind} {fs : Forms} {code : Nat}
    (formed : s.formAll c h a n k = (fs, t)) (fail : ∀ e ∈ fs, e.2 = .inl code) : fs = .allFail c.act code := by
  have lanes := formAll_lanes s c h a n k
  rw [formed] at lanes
  rw [Forms.allFail, ← lanes, List.map_map]
  refine (List.map_id fs).symm.trans (List.map_congr_left fun e he => ?_)
  exact Prod.ext rfl (fail e he)

section
variable {m : Lanes} {code : Nat}

theorem allFail_code : (Forms.allFail m code).code = fun l => if m.getLsbD l then some code else none := by
  funext l
  by_cases there : l ∈ lanesOf m
  · rw [if_pos (mem_lanesOf.mp there).2]
    have found : (Forms.allFail m code).code l ≠ none := by
      simp only [Forms.code, Forms.allFail, ne_eq, List.findSome?_eq_none_iff, List.mem_map, not_forall]
      exact ⟨_, ⟨l, there, rfl⟩, by simp⟩
    obtain ⟨x, hx⟩ := Option.ne_none_iff_exists'.mp found
    rw [hx]
    simp only [Forms.code, Forms.allFail] at hx
    obtain ⟨e, he, is⟩ := List.exists_of_findSome?_eq_some hx
    obtain ⟨j, -, rfl⟩ := List.mem_map.mp he
    simp only at is
    split at is
    · exact is.symm
    · exact absurd is nofun
  · have off : m.getLsbD l = false := by
      by_contra on
      exact there (mem_lanesOf.mpr ⟨BitVec.lt_of_getLsbD (by simpa using on), by simpa using on⟩)
    rw [off]
    simp only [Forms.code, Forms.allFail, Bool.false_eq_true, if_false, List.findSome?_eq_none_iff, List.mem_map]
    rintro e ⟨j, hj, rfl⟩
    exact if_neg fun same : j = l => there (same ▸ hj)

theorem allFail_good : (Forms.allFail m code).good = 0#32 := by
  refine BitVec.eq_of_getLsbD_eq fun l hl => ?_
  rw [Forms.good, getLsbD_maskOf]
  simp [Forms.allFail]

theorem allFail_parts : (Forms.allFail m code).parts = [] := by
  simp [Forms.parts, Forms.allFail]

end

theorem MayIssue.running {s : State} {c : Ctx} {i : Instr} (h : MayIssue s c i) : s.frozen c.wk = false := by
  simp [State.frozen, h.ctxOf.wg, h.noFailure]

/-- An operation none of whose lanes passed its checks is not issued: its end is the fault of the whole split. -/
theorem startPend_allFail {s : State} {c : Ctx} {p : Pend} {code : Nat} (running : s.frozen c.wk = false)
    (whole : c.act = c.sp.mask) (none_ : p.lanes = 0#32) :
    s.startPend c p (Forms.allFail c.act code).code = s.raiseAll c code := by
  rw [State.startPend, if_pos none_, allFail_code, whole, endInstr_all running]

section
variable {s : State} {c : Ctx} {h : BitVec 4} {a : BitVec 7} {n code : Nat} {k : AccKind}

theorem loadOp_allFail (running : s.frozen c.wk = false) (whole : c.act = c.sp.mask) (room : c.g.flagFull c.sp.setA = false)
    (noWait : s.bankWait c h a = false) (formed : s.formAll c h a n k = (.allFail c.act code, s)) (p : Pend) :
    s.loadOp c p h a n k = s.raiseAll c code := by
  simp only [State.loadOp, room, noWait, formed, State.logDst, allFail_good, Bool.false_eq_true, if_false, if_true]
  exact startPend_allFail running whole rfl

/-- A store of no lane publishes nothing, so that only the fault is left of it. -/
theorem storeOp_allFail (running : s.frozen c.wk = false) (whole : c.act = c.sp.mask) (lanes : c.sp.mask ≠ 0#32)
    (outside : c.wg.blocks = []) (p : Pend) (d : Nat) : s.storeOp c p h (.allFail c.act code) d n = s.raiseAll c code := by
  have publishes : (fun g : Group => { g with pub := mergePub g.pub (pubOf (c.withData d n [])) }) = id := rfl
  have same : (s.updGroup c.gk id).divided c code = s.divided c code := State.updGroup_updGroup s c.gk id _
  simp only [State.storeOp, allFail_parts, publishes]
  rw [startPend_allFail (s := s.updGroup c.gk id) running whole allFail_good, raiseAll_outside code lanes outside,
    raiseAll_outside code lanes outside, same]

end

end Sys2Proof.Machine

namespace Sys2Proof.Proofs

open Sys2Proof.Machine

/-- Settles O24: path by path, the parts that are formed or the fault of the first check that fails (`reaches_formParts` and the
lemmas on views); where all lanes fail with one code the operation is issued for no lane (`startPend_allFail`). -/
theorem accessChecks : Obligations.AccessChecks := by
  refine ⟨fun s c h a n l k => ⟨formAccess_poisoned, formAccess_exceeded, formAccess_flat_poisoned, ?flat, ?slot⟩, ?faults⟩
  case flat =>
    intro p o at_ ho
    rw [formAccess_flat at_]
    exact ⟨fun view => formParts_flat_view view ho, reaches_formParts ho⟩
  case slot =>
    intro x slot clean there off o r right within
    have ho : o < 2 ^ 60 := Nat.mod_lt _ (by decide)
    have right_eq : right = k.rights (some x) := by cases k <;> rfl
    have parts : r = s.formParts c (some x) off (x.path * 2 ^ 60 + o) n n k l := formAccess_slot slot clean there within
    clear_value r right
    subst parts right_eq
    refine ⟨fun _ _ => reaches_formParts ho, fun sparse near => ?sparse, fun tiled near tw th gw => ?tiled⟩
    case sparse =>
      intro w va
      rw [sparse]
      refine ⟨formParts_sparse_refused near, fun reads => ⟨fun odd => ?_, fun even no => ?_, fun even has nonzero => ?_⟩⟩
      · rw [formParts_sparse_read near reads rfl fun even => absurd even odd, pageReach_misaligned odd]
      · have noRight : k.rights (some x) = false := by rcases reads with rfl | rfl <;> exact no
        rw [formParts_sparse_read near reads rfl fun _ has => absurd has (by simp [noRight]), pageReach_noRight even noRight]
      · have reading : k.writes = false := by rcases reads with rfl | rfl <;> rfl
        have rights : k.rights (some x) = true := by rcases reads with rfl | rfl <;> exact has
        rw [formParts_sparse_read near reads rfl fun _ _ => nonzero, pageReach_page even rights]
        refine ⟨fun no => ?_, fun t at_ => ?_⟩
        · rw [pageOf_untranslated no]
        · rw [pageOf_ok at_ (by simp [reading]) (by simp) (.inl reading)]
          exact ⟨_, rfl, rfl, rfl, rfl, rfl, rfl⟩
    case tiled =>
      intro own inHalo
      rw [tiled]
      have tile : ∀ i, x.halo.at c.gg.w c.gg.h c.wg.k (off + i) = .own ↔ own i := fun i =>
        Halo.at_own_iff.trans (Halo.owns_iff tw th gw)
      refine ⟨formParts_tile_out near tile, fun all may => ?_, fun loc reads leaves even has at_ => ?_⟩
      · rw [formParts_tile_own near (pathOk_own_iff_permitted.mpr may) fun i hi => (tile i).mpr (all i hi)]
        exact ⟨pageReach_misaligned, pageReach_noRight, fun even has => reachesPage_pageReach (by simp) even has
          (fun _ => rfl) (fun _ => rfl) (fun _ => rfl) (fun _ => rfl) (fun _ => rfl)⟩
      · have reading : k.writes = false := by rcases reads with rfl | rfl <;> rfl
        have rights : k.rights (some x) = true := by rcases reads with rfl | rfl <;> exact has
        obtain ⟨j, hj, out⟩ := leaves
        rw [formParts_tile_halo near ((pathOk_view_iff (.inr rfl)).mpr reads) reading even rights
          ⟨j, hj, fun at_own => out ((tile j).mp at_own)⟩
          fun i hi => (at_ i hi).imp (fun ⟨mine, page⟩ => ⟨(tile i).mpr mine, page⟩) And.right]
        exact ⟨_, rfl, by simp [upto], fun i hi =>
          ⟨mkAcc l (7 * 2 ^ 60 + o) 7 (loc i) i 1 (keepOf 7 (some x)), by simp [upto, hi], rfl, rfl, rfl, rfl⟩⟩
  case faults =>
    intro s c d a h z k x i kind fs code form may outside whole roomA roomB noWait noWatch formed fail
    have forms := formAll_allFail formed fail
    rw [forms] at formed
    have load := fun p => loadOp_allFail (p := p) may.running whole roomA noWait formed
    have rows : (i = .ld d a h z x ∧ kind = .load) ∨ (i = .lda d a h z k ∧ kind = .load) ∨ (i = .ldw d a h z k ∧ kind = .watched) ∨
        (i = .st d a h z ∧ kind = .store) := by simpa using form
    rcases rows with ⟨rfl, rfl⟩ | ⟨rfl, rfl⟩ | ⟨rfl, rfl⟩ | ⟨rfl, rfl⟩
    · exact (may.issue (mOk := anyMode) rfl _).trans (congrArg _ (load _))
    · refine (may.issue (mOk := anyMode) rfl _).trans (congrArg _ ?_)
      rw [if_neg (by simp [roomA]), if_neg (by simp [noWatch])]
      exact load _
    · refine (may.issue (mOk := anyMode) rfl _).trans (congrArg _ ?_)
      have formed' : s.formAll c h a (sizeBytes z) .watched = (.allFail c.act code, s) := formed
      simp only [roomA, formed', State.logDst, allFail_good, Bool.false_eq_true, if_false, if_true, Bool.not_true]
      rw [startPend_allFail may.running whole rfl]
      rfl
    · refine (may.issue (mOk := anyMode) rfl _).trans (congrArg _ ?_)
      have formed' : s.formAll c h a (sizeBytes z) .store = (.allFail c.act code, s) := formed
      rw [if_neg (by simp [roomB]), if_neg (by simp [noWait]), formed']
      exact storeOp_allFail may.running whole may.lanes outside _ _

end Sys2Proof.Proofs
end

section
/-! SUPPORT. A state in which a statement about FIFOs does not hold: a slot that is poisoned from an earlier push. -/

namespace Sys2Proof.Proofs
open Sys2Proof.Machine

/-- A launch with one bank of scratchpad, bank 0, and bank 5 for a FIFO (R150). -/
def fifoLaunch : Launch := { Launch.single 0 0 with scratch := 0x20000, bankplan := 1 + 2 * 4 ^ 5 }

/-- The empty FIFO: 1,024 slots of 128 bytes. -/
def emptyFifo : Bank := { Bank.placed .fifo (some 1) with e := 0 }

/-- The workgroup: the first sector of its scratchpad is poisoned with tag 5, and that of slot 0 of the FIFO with tag 1. -/
def fifoWg : Wg :=
  { Wg.placed fifoLaunch 0 0 0 [] with
    banks := [(0, Bank.placed .scratch (some 0)), (5, emptyFifo)], spois := [(0, 5#12), (5 * 0x1000, 1#12)] }

/-- Its one split of 32 lanes, at word 1 of a clause of two words. -/
def fifoSplit : Split := { Split.start (BitVec.allOnes 32) 1 with st := .live 0, inClause := true, clauseEnd := 2 }

/-- The context of an FPUSH; all registers are 0. -/
def fifoCtx : Ctx :=
  { gk := 0, ix := 0, sp := fifoSplit, g := { Group.placed 0 0 0 0 0 0 with splits := [fifoSplit] }, wk := 0, wg := fifoWg, nk := 0
    gg := { launch := 0, index := 0, st := .running, die := 0, origin := 0, w := 1, h := 1, slot := none, steps := 0,
            halted := false, free := false, rrn := 0, rrpos := 0, rrovf := false, rrdiv := false, ended := false }
    lk := 0, l := fifoLaunch }

/-- The module that holds it. -/
def fifoModule : State :=
  { State.reset with
    groups := [(0, fifoCtx.g)], wgs := [(0, fifoWg)], gangs := [(0, fifoCtx.gg)], launches := [(0, fifoLaunch)]
    focus := some { g := 0, ix := 0, stall := 0, look := false } }

theorem fpush_mayIssue : MayIssue fifoModule fifoCtx (.fpush 0 5) where
  ctx := by decide +kernel
  lanes := by decide
  live := ⟨0, rfl⟩
  noStop := rfl
  noHalt := rfl
  noSave := by decide
  notBusy := rfl
  noFailure := rfl
  waited := by decide +kernel
  noDelayed := .inl rfl
  noPending := by decide +kernel
  noAcquire := by decide +kernel
  fullDuty := by decide
  clocked := by decide +kernel
  place := { wf := by decide +kernel, encoded := by decide +kernel, inClause := rfl, lastWord := by decide +kernel }
  converged := fun group => absurd group (by decide +kernel)
  budget := ⟨by decide +kernel, by decide +kernel⟩

/-- The poison of the first 32 bytes of slot 0 after a step that answers a next state. -/
def slotPoison : Host.Outcome State Fault Refusal → Option (Option PTag)
  | .next t => (mget? t.wgs 0).map (fun w => (w.bankRead (5 * 0x20000) 32).2)
  | _ => none

/-- The slot keeps the lesser tag, which was its own. -/
theorem fpush_keeps_lesserTag : slotPoison (exec (.fpush 0 5) fifoModule) = some (some 1#12) := by decide +kernel

/-- Refutes O35: the clause of FPUSH says that the slot reads as the source does, poison and all, with no word of poison that the slot
holds from before; a poisoned sector keeps the lesser of the two tags (Wg.bankWrite, R213, R216). -/
theorem not_fifosAndBanks : ¬ Obligations.FifosAndBanks := by
  unfold Obligations.FifosAndBanks
  intro h
  obtain ⟨push, -⟩ := h fifoModule fifoCtx 0 5 emptyFifo rfl
  obtain ⟨-, pushed⟩ := push 0 fpush_mayIssue (by decide +kernel) (by decide +kernel)
  obtain ⟨t, g, w, x, he, -, -, -, hw, -, -, -, -, -, slot, -⟩ := pushed (by decide +kernel) rfl rfl (by decide +kernel)
    (by decide +kernel) (by decide +kernel) rfl (by decide +kernel) (by decide +kernel) (by decide +kernel) (by decide +kernel)
    (by decide +kernel) (by decide +kernel)
  have kept := fpush_keeps_lesserTag
  have there : mget? t.wgs 0 = some w := hw
  have source : (fifoModule.scrRead 0 0 32).2 = some 5#12 := by decide +kernel
  have tag : (w.bankRead (5 * 0x20000) 32).2 = some 5#12 := (congrArg Prod.snd (slot 0 (by decide +kernel))).trans source
  rw [he] at kept
  simp [slotPoison, there, tag] at kept

end Sys2Proof.Proofs
end

section
/-! SUPPORT. Work of a group that no split issues: its context, a flag counted down outside record and replay (R270), an access that
is rejected where it is served (R363, R170), the verdict on a watch (R160), and the binding of an HLOAD (R374). -/

namespace Sys2Proof.Machine

/-! ## The context of such work -/

/-- The group, workgroup, gang and launch of the context are those of the state. -/
theorem gctx_some {s : State} {gk : Nat} {c : Ctx} (h : s.gctx gk = some c) :
    mget? s.groups gk = some c.g ∧ s.launchOf c.g.wg = some (c.wg, c.gg, c.l) ∧ c.wk = c.g.wg := by
  unfold State.gctx at h
  split at h
  · cases h
  next g group =>
    split at h
    · cases h
    next w gg l launch =>
      cases h
      exact ⟨group, launch, rfl⟩

/-- What gctx finds, for a group and what its launch is. -/
theorem gctx_of {s : State} {gk : Nat} {g : Group} {w : Wg} {gg : Gang} {l : Launch} (group : mget? s.groups gk = some g)
    (launch : s.launchOf g.wg = some (w, gg, l)) : ∃ c, s.gctx gk = some c ∧ c.g = g ∧ c.l = l := by
  unfold State.gctx
  simp only [group, launch]
  exact ⟨_, rfl, rfl, rfl⟩

/-- The context of the first split of a group. -/
def firstCtx (gk : Nat) (g : Group) (q : Split) (w : Wg) (gg : Gang) (l : Launch) : Ctx :=
  { gk := gk, ix := 0, g := g, sp := q, wk := g.wg, wg := w, nk := w.gang, gg := gg, lk := gg.launch, l := l }

theorem ctxOf_first {s : State} {gk : Nat} {g : Group} {q : Split} {w : Wg} {gg : Gang} {l : Launch}
    (group : mget? s.groups gk = some g) (only : g.splits = [q]) (launch : s.launchOf g.wg = some (w, gg, l)) :
    s.ctxOf gk 0 = some (firstCtx gk g q w gg l) := by
  unfold State.launchOf at launch
  split at launch
  · cases launch
  next v wg =>
    split at launch
    · cases launch
    next hgang gang =>
      split at launch
      · cases launch
      next launch' =>
        cases launch
        unfold State.ctxOf
        simp only [group, only, List.getElem?_cons_zero, wg, gang, launch']
        rfl

theorem frozen_of_launch {s : State} {wk : Nat} {w : Wg} {gg : Gang} {l : Launch} (launch : s.launchOf wk = some (w, gg, l))
    (sound : w.failing = none) : s.frozen wk = false := by
  unfold State.frozen
  simp [launchOf_wg launch, sound]

/-! ## Flags counted down -/

theorem flagDec_none {g : Group} {f : Nat} (h : 12 ≤ f) : g.flagDec f = g := if_pos h

theorem flag_flagDec (g : Group) (f k : Nat) : (g.flagDec f).flag k = if k = f ∧ k < 12 then g.flag k - 1 else g.flag k := by
  unfold Group.flagDec
  split
  next none_ => rw [if_neg (by omega)]
  next named =>
    by_cases same : k = f
    · subst same
      rw [if_pos ⟨rfl, by omega⟩]
      exact mgetD_mput_same ..
    · rw [if_neg (fun h => same h.1)]
      exact mgetD_mput_other _ _ _ same

/-- Without record and replay a decrement is made at once (R258, R270). -/
theorem flagDown_live {s : State} {gk : Nat} (live : ∀ c, s.gctx gk = some c → c.l.rrMode = 0) (f hash : Nat) :
    s.flagDown gk f hash = s.updGroup gk (·.flagDec f) ∨ 12 ≤ f ∧ s.flagDown gk f hash = s := by
  unfold State.flagDown
  split
  next none_ => exact .inr ⟨none_, rfl⟩
  · left
    split
    · rfl
    next c at_ =>
      have off : ∀ n, n ≠ 0 → c.rrOn n = false := fun n h => by
        unfold Ctx.rrOn
        simp [live c at_, Ne.symm h]
      simp [off 1 (by decide), off 2 (by decide)]

/-- A group without its operation p; the release ranges that no earlier operation holds any more go too (R186). -/
def Group.dropPend (p : Pend) (g : Group) : Group :=
  { g with pend := g.pend.filter (fun q => q.id != p.id), ars := g.ars.filter (g.arHolds p.id) }

/-- The group besides counts down the flag of p (R270). -/
def Group.without (p : Pend) (g : Group) : Group := (g.dropPend p).flagDec p.flag

/-- An operation goes away and its flag is counted down (R270). -/
theorem finishPend_live {s : State} {gk : Nat} {c : Ctx} (at_ : s.gctx gk = some c) (live : c.l.rrMode = 0) (p : Pend) :
    s.finishPend gk p = s.updGroup gk (Group.without p) := by
  obtain ⟨group, launch, -⟩ := gctx_some at_
  have there : mget? (s.updGroup gk (Group.dropPend p)).groups gk = some (c.g.dropPend p) := mget?_mupd_same group
  have off : ∀ d, (s.updGroup gk (Group.dropPend p)).gctx gk = some d → d.l.rrMode = 0 := by
    intro d hd
    obtain ⟨e, he, -, hl⟩ := gctx_of there launch
    rw [he] at hd
    cases hd
    rw [hl, live]
  change (s.updGroup gk (Group.dropPend p)).flagDown gk p.flag p.dhash = _
  rcases flagDown_live off p.flag p.dhash with down | ⟨none_, kept⟩
  · rw [down, State.updGroup_updGroup]
    rfl
  · have same : Group.without p = Group.dropPend p := funext fun g => flagDec_none none_
    rw [kept, same]

/-- Dropping an operation changes nothing else of its group than what waits on it and its flag. -/
theorem without_eq (p : Pend) (g : Group) : ∃ flags, g.without p = { g.dropPend p with flags := flags } := by
  unfold Group.without Group.flagDec
  split
  · exact ⟨(g.dropPend p).flags, rfl⟩
  · exact ⟨_, rfl⟩

/-! ## A fault away from the issue of an instruction -/

/-- A group the lanes m of which a fault k takes to the fault entry, before its splits change: their reservations are lost, and their
FAULTINFO names the fault (R124, R187). -/
def Group.faultMarked (m : Lanes) (k pc : Nat) (g : Group) : Group :=
  { g with
    resv := g.resv.filter (fun r => !m.getLsbD r.1)
    finfo := (lanesOf m).foldl (fun f l => mput f l (faultInfo k pc)) g.finfo }

/-- FAULTINFO of such a lane (R124). -/
theorem faultMarked_finfo (g : Group) {m : Lanes} {l k pc : Nat} (lane : m.getLsbD l = true) (hl : l < 32) (code : k < 256)
    (word : pc < 2 ^ 22) : (mgetD (g.faultMarked m k pc).finfo l 0#32).toNat = k + pc * 2 ^ 8 := by
  unfold Group.faultMarked
  rw [mgetD_foldl_mput, if_pos (mem_lanesOf.mpr ⟨hl, lane⟩), faultInfo_eq code word, toNat_ofNat_of_lt (by omega)]

/-- A fault k of the lanes m that takes the fault entry, outside a block: the lanes lose their reservations and get FAULTINFO, and the
split that they form is placed (R122, R124). -/
theorem takeFaultAt_enters {s : State} {c : Ctx} {m : Lanes} (lanes : m ≠ 0#32) (outside : c.wg.blocks = [])
    (enters : c.enters = true) (k pc : Nat) (place : Group → List Split → Group) :
    s.takeFaultAt c (fun l => if m.getLsbD l then some k else none) pc place =
      (s.updGroup c.gk (fun g => place (g.faultMarked m k pc) [faultSplit c m pc k])).emitFault c (faultSplit c m pc k).fcode pc := by
  obtain ⟨l, r, list⟩ := List.exists_cons_of_ne_nil (lanesOf_ne_nil lanes)
  have lowest : ((lanesOf m).map (fun _ => k)).headD 0 = k := by rw [list]; rfl
  have info : ∀ g : Group, (lanesOf m).foldl (fun f l => mput f l
      (faultInfo ((if m.getLsbD l then some k else none : Option Nat).getD 0) pc)) g.finfo =
      (lanesOf m).foldl (fun f l => mput f l (faultInfo k pc)) g.finfo := fun g =>
    foldl_mput_congr (fun l mem => by rw [if_pos (mem_lanesOf.mp mem).2]; rfl) g.finfo
  have entry : (c.l.faulten && !c.sp.handler) = true := enters
  unfold State.takeFaultAt
  dsimp only
  rw [codeMask_raise, filterMap_raise, inBlock_eq_false.mpr outside]
  dsimp only
  rw [if_neg lanes, lowest]
  simp only [info, entry, if_true]
  rfl

/-- Lanes that are all a group's only split is leave nothing of it. -/
theorem pullLanes_whole {g : Group} {q : Split} (only : g.splits = [q]) (bad : List Split) :
    pullLanes 0 q.mask g bad = ({ g with splits := bad } : Group).settle [q] := by
  have none_ : q.mask &&& ~~~ q.mask = 0#32 := by ext i; simp
  unfold pullLanes
  simp [only, none_]

/-! ## The lanes of an access that is rejected where it is served -/

/-- With a stale generation every lane of an operation that accesses memory is rejected with 0x08 (R170, R363). -/
theorem lateCode_stale {s : State} {c : Ctx} {p : Pend} (accesses : p.acc ≠ []) (stale : s.stale c.l = true) :
    s.lateCode c p = fun l => if p.lanes.getLsbD l then some 8 else none := by
  funext l
  unfold State.lateCode
  cases p.lanes.getLsbD l <;> simp [accesses, stale]

/-- A rejected lane takes its fault with the other rejected lanes of the split that holds it now, of which it is the lowest. -/
def State.lateLane (s : State) (gk wk : Nat) (code : Nat → Option Nat) (live : Lanes) (pc l : Nat) : State :=
  if s.frozen wk then s
  else match mget? s.groups gk with
    | none => s
    | some gr => match gr.splits.findIdx? (fun q => q.mask.getLsbD l) with
      | none => s
      | some ix => match s.ctxOf gk ix with
        | none => s
        | some sc =>
          let here := sc.sp.mask &&& live
          if lowLane here ≠ some l then s
          else s.takeFaultAt sc (fun k => if here.getLsbD k then code k else none) pc (pullLanes ix here)

/-- A group all of whose lanes leave operation p, with the watches ws left of their lanes (R363). -/
def Group.rejecting (p : Pend) (ws : List Watch) (g : Group) : Group :=
  { g with
    pend := g.pend.map (fun q => if q.id = p.id then q.less p.lanes else q)
    watches := (ws.map (fun w => if w.id = p.id then { w with lanes := w.lanes &&& ~~~ p.lanes } else w)).filter
      (fun w => w.lanes != 0#32) }

section
variable {s : State} {gk : Nat} {g : Group} {q : Split} {w : Wg} {gg : Gang} {l : Launch}
variable (group : mget? s.groups gk = some g) (only : g.splits = [q]) (launch : s.launchOf g.wg = some (w, gg, l))
variable (running : w.failing = none)
include group only launch running

/-- A lane of the only split of a group takes the fault if it is the lowest of the lanes that are rejected. -/
theorem lateLane_single {n : Nat} (lane : q.mask.getLsbD n = true) (code : Nat → Option Nat) (live : Lanes) (pc : Nat) :
    s.lateLane gk g.wg code live pc n =
      if lowLane (q.mask &&& live) ≠ some n then s
      else s.takeFaultAt (firstCtx gk g q w gg l) (fun k => if (q.mask &&& live).getLsbD k then code k else none) pc
        (pullLanes 0 (q.mask &&& live)) := by
  have found : g.splits.findIdx? (fun q => q.mask.getLsbD n) = some 0 := by rw [only]; simp [List.findIdx?_cons, lane]
  unfold State.lateLane
  simp only [frozen_of_launch launch running, group, found, ctxOf_first group only launch, Bool.false_eq_true, if_false]
  rfl

end

theorem nodup_lanesOf (m : Lanes) : (lanesOf m).Nodup := List.nodup_range.filter _

theorem State.Offered.launchOf {s t : State} (h : s.Offered t) (wk : Nat) : t.launchOf wk = s.launchOf wk := by
  obtain ⟨_, rfl⟩ := h
  rfl

/-- The group whose only split of lanes m has taken the fault entry with code k. -/
def Group.faulted (gk : Nat) (g : Group) (q : Split) (w : Wg) (gg : Gang) (l : Launch) (k pc : Nat) : Group :=
  pullLanes 0 q.mask (g.faultMarked q.mask k pc) [faultSplit (firstCtx gk g q w gg l) q.mask pc k]

section
variable {gk : Nat} {g : Group} {q : Split} {w : Wg} {gg : Gang} {l : Launch} (only : g.splits = [q])
variable (entry : l.faulten = true) (notIn : q.handler = false)
include only

theorem faulted_settled (k pc : Nat) : g.faulted gk q w gg l k pc =
    ({ g.faultMarked q.mask k pc with splits := [faultSplit (firstCtx gk g q w gg l) q.mask pc k] } : Group).settle [q] :=
  pullLanes_whole (g := g.faultMarked q.mask k pc) only _

theorem faulted_same (k pc : Nat) : (g.faulted gk q w gg l k pc).sameButSplits (g.faultMarked q.mask k pc) := by
  rw [faulted_settled only]
  exact (settle_same _ _).trans rfl

include entry notIn

/-- The split stands at the fault entry, live, with the operation's word as return point (R124). -/
theorem faulted_splits (k pc : Nat) : ∃ b, (g.faulted gk q w gg l k pc).splits = [b] ∧ b.mask = q.mask ∧ b.pc = l.faultoff ∧
    b.ret = pc ∧ b.handler = true := by
  have split : ∃ b, faultSplit (firstCtx gk g q w gg l) q.mask pc k = b ∧ b.st = .ready ∧ b.mask = q.mask ∧ b.pc = l.faultoff ∧
      b.ret = pc ∧ b.handler = true := ⟨_, if_pos (by simp [firstCtx, entry, notIn]), rfl, rfl, rfl, rfl, rfl⟩
  obtain ⟨b, form, ready, mask, at_, ret, handler⟩ := split
  refine ⟨b.goLive 0, ?_, mask, at_, ret, handler⟩
  rw [faulted_settled only, form]
  exact settle_single_ready rfl ready _

variable {s : State} (group : mget? s.groups gk = some g) (launch : s.launchOf g.wg = some (w, gg, l))
variable (running : w.failing = none) (outside : w.blocks = []) (lanes : q.mask ≠ 0#32)
include group launch running outside lanes

/-- The lanes of the only split of a group, all rejected with one code, take one fault (R363, R124). -/
theorem lateLanes_whole (k pc : Nat) :
    ∃ t, (lanesOf q.mask).foldl (fun s n =>
        s.lateLane gk g.wg (fun l => if q.mask.getLsbD l then some k else none) q.mask pc n) s = t ∧
      mget? t.groups gk = some (g.faulted gk q w gg l k pc) ∧ t.mm = s.mm := by
  obtain ⟨n, r, list⟩ := List.exists_cons_of_ne_nil (lanesOf_ne_nil lanes)
  have whole : q.mask &&& q.mask = q.mask := BitVec.and_self
  have low : lowLane q.mask = some n := by unfold lowLane; rw [list]; rfl
  have mem : ∀ x ∈ n :: r, q.mask.getLsbD x = true := fun x hx => (mem_lanesOf.mp (list ▸ hx)).2
  have code : (fun l => if q.mask.getLsbD l then (if q.mask.getLsbD l then some k else none) else none) =
      fun l => if q.mask.getLsbD l then some k else none := by
    funext l
    split <;> rfl
  have enters : (firstCtx gk g q w gg l).enters = true := enters_iff.mpr ⟨entry, notIn⟩
  have first := lateLane_single group only launch running (mem n List.mem_cons_self)
    (fun l => if q.mask.getLsbD l then some k else none) q.mask pc
  rw [whole, if_neg (not_not.mpr low), code, takeFaultAt_enters lanes outside enters] at first
  obtain ⟨t, taken⟩ : ∃ t, s.lateLane gk g.wg (fun l => if q.mask.getLsbD l then some k else none) q.mask pc n = t := ⟨_, rfl⟩
  rw [taken] at first
  have offered := first ▸ emitFault_offered (s.updGroup gk _) ..
  have there : mget? t.groups gk = some (g.faulted gk q w gg l k pc) := by
    rw [offered.groups]
    exact mget?_mupd_same group
  obtain ⟨b, splits, mask, -⟩ := faulted_splits (gk := gk) (w := w) (gg := gg) only entry notIn k pc
  have wg : (g.faulted gk q w gg l k pc).wg = g.wg := (faulted_same only k pc).wg
  have launched : t.launchOf (g.faulted gk q w gg l k pc).wg = some (w, gg, l) := by rw [wg, offered.launchOf]; exact launch
  have later : ∀ x ∈ r, t.lateLane gk g.wg (fun l => if q.mask.getLsbD l then some k else none) q.mask pc x = t := by
    intro x hx
    have other : n ≠ x := fun e => (List.nodup_cons.mp (list ▸ nodup_lanesOf q.mask)).1 (e ▸ hx)
    have single := lateLane_single there splits launched running (mask ▸ mem x (List.mem_cons_of_mem _ hx))
      (fun l => if q.mask.getLsbD l then some k else none) q.mask pc
    rw [wg, mask, whole, low, if_pos (by simpa using other)] at single
    exact single
  refine ⟨t, ?_, there, offered.mm⟩
  rw [list, List.foldl_cons, taken]
  exact List.foldlRecOn (motive := (· = t)) r _ rfl fun u hu x hx => by rw [hu, later x hx]

end

/-- Of a group whose only operation has been rejected in all its lanes, besides its watches only the operation and its flag change. -/
theorem rejected_eq (g : Group) (p : Pend) (own : g.pend = [p]) (ws : List Watch) : ∃ flags ars watches,
    (g.rejecting p ws).without p = { g with pend := [], flags := flags, ars := ars, watches := watches } := by
  obtain ⟨flags, eq⟩ := without_eq p (g.rejecting p ws)
  have gone : ((g.rejecting p ws).dropPend p).pend = [] := by simp [Group.rejecting, Group.dropPend, own, Pend.less]
  refine ⟨flags, ((g.rejecting p ws).dropPend p).ars, (g.rejecting p ws).watches, ?_⟩
  rw [eq, ← gone]
  rfl

theorem rejected_flag (g : Group) (p : Pend) (ws : List Watch) (k : Nat) :
    ((g.rejecting p ws).without p).flag k = if k = p.flag ∧ k < 12 then g.flag k - 1 else g.flag k :=
  flag_flagDec _ p.flag k

/-- A group whose only operation is rejected in all its lanes, none of which has exited (R363). -/
theorem delayedAccessFault_eq {s : State} {gk : Nat} {c : Ctx} {p : Pend} (at_ : s.gctx gk = some c) (own : c.g.pend = [p])
    (code : s.lateCode c p = fun l => if p.lanes.getLsbD l then some 8 else none) (lanes : p.lanes ≠ 0#32)
    (here : p.lanes &&& c.g.exited = 0#32) (running : c.wg.failing = none) (live : c.l.rrMode = 0) :
    exec (.delayedAccessFault gk p.id) s = .next ((lanesOf p.lanes).foldl (fun t l =>
      t.lateLane gk c.g.wg (fun l => if p.lanes.getLsbD l then some 8 else none) p.lanes p.pc l)
      (s.updGroup gk (fun g => (g.rejecting p c.g.watches).without p))) := by
  obtain ⟨group, launch, wk⟩ := gctx_some at_
  have present : p.lanes &&& ~~~ c.g.exited = p.lanes := by
    refine BitVec.eq_of_getLsbD_eq fun l hl => ?_
    have lane := congrArg (fun m : Lanes => m.getLsbD l) here
    simp only [BitVec.getLsbD_and, BitVec.getLsbD_zero] at lane
    simp only [BitVec.getLsbD_and, BitVec.getLsbD_not, hl, decide_true, Bool.true_and]
    cases held : p.lanes.getLsbD l <;> simp_all
  have all : p.lanes &&& ~~~ p.lanes = 0#32 := by ext i; simp
  have found : c.g.pend.find? (fun q => q.id == p.id) = some p := by simp [own]
  have there : mget? (s.updGroup gk (Group.rejecting p c.g.watches)).groups gk = some (c.g.rejecting p c.g.watches) :=
    mget?_mupd_same group
  obtain ⟨d, atD, -, launchD⟩ := gctx_of there launch
  have finished : (s.updGroup gk (Group.rejecting p c.g.watches)).finishPend gk p =
      s.updGroup gk (fun g => (g.rejecting p c.g.watches).without p) := by
    rw [finishPend_live atD (launchD ▸ live), State.updGroup_updGroup]
    rfl
  have moves : (s.updGroup gk (fun g => (g.rejecting p c.g.watches).without p)).frozen c.wk = false :=
    frozen_of_launch (wk ▸ launch) running
  change execDelayedAccessFault gk p.id s = _
  unfold execDelayedAccessFault
  simp only [at_, found]
  rw [code, codeMask_raise, if_neg lanes, if_pos all, present]
  change Host.Outcome.next (if ((s.updGroup gk (Group.rejecting p c.g.watches)).finishPend gk p).frozen c.wk = true then
      (s.updGroup gk (Group.rejecting p c.g.watches)).finishPend gk p
    else (lanesOf p.lanes).foldl (fun t l =>
      t.lateLane gk c.wk (fun l => if p.lanes.getLsbD l then some 8 else none) p.lanes p.pc l)
      ((s.updGroup gk (Group.rejecting p c.g.watches)).finishPend gk p)) = _
  rw [finished, if_neg (by simp [moves]), wk]

/-- All lanes of a group's only operation are rejected with a stale generation: they take the fault entry (R363 steps 8 and 9). -/
theorem delayedAccessFault_enters {s : State} {gk : Nat} {c : Ctx} {p : Pend} {q : Split} (at_ : s.gctx gk = some c)
    (own : c.g.pend = [p]) (accesses : p.acc ≠ []) (stale : s.stale c.l = true) (only : c.g.splits = [q]) (mask : q.mask = p.lanes)
    (lanes : p.lanes ≠ 0#32) (here : p.lanes &&& c.g.exited = 0#32) (outside : c.wg.blocks = []) (running : c.wg.failing = none)
    (entry : c.l.faulten = true) (notIn : q.handler = false) (live : c.l.rrMode = 0) (word : p.pc < 2 ^ 22) :
    ∃ t g' b, exec (.delayedAccessFault gk p.id) s = .next t ∧ mget? t.groups gk = some g' ∧ g'.splits = [b] ∧
      b.mask = p.lanes ∧ b.pc = c.l.faultoff ∧ b.ret = p.pc ∧ b.handler = true ∧ g'.pend = [] ∧ g'.regs = c.g.regs ∧
      (∀ k, g'.flag k = if k = p.flag ∧ k < 12 then c.g.flag k - 1 else c.g.flag k) ∧
      (∀ l < 32, p.lanes.getLsbD l = true → (mgetD g'.finfo l 0#32).toNat = 8 + p.pc * 2 ^ 8) ∧ t.mm = s.mm := by
  obtain ⟨group, launch, -⟩ := gctx_some at_
  obtain ⟨flags, ars, watches, eq⟩ := rejected_eq c.g p own c.g.watches
  have gone := congrArg Group.pend eq
  have kept := congrArg Group.regs eq
  have splits : ((c.g.rejecting p c.g.watches).without p).splits = [q] := by rw [eq]; exact only
  have wg : ((c.g.rejecting p c.g.watches).without p).wg = c.g.wg := by rw [eq]
  obtain ⟨t, folded, there, mm⟩ := lateLanes_whole splits entry notIn
    (s := s.updGroup gk (fun g => (g.rejecting p c.g.watches).without p)) (mget?_mupd_same group) (wg ▸ launch) running outside
    (mask ▸ lanes) 8 p.pc
  rw [mask, wg] at folded
  have performed := delayedAccessFault_eq at_ own (lateCode_stale accesses stale) lanes here running live
  rw [folded] at performed
  obtain ⟨b, one, bmask, pc, ret, handler⟩ := faulted_splits (gk := gk) (w := c.wg) (gg := c.gg) splits entry notIn 8 p.pc
  have same := faulted_same (gk := gk) (w := c.wg) (gg := c.gg) (l := c.l) splits 8 p.pc
  have pend := congrArg Group.pend same
  have regs := congrArg Group.regs same
  have flag := fun k => congrArg (fun g : Group => g.flag k) same
  have finfo := congrArg Group.finfo same
  refine ⟨t, _, b, performed, there, one, bmask.trans mask, pc, ret, handler, pend.trans gone, regs.trans kept,
    fun k => (flag k).trans (rejected_flag ..), fun l hl lane => ?_, mm⟩
  exact (congrArg (fun f => (mgetD f l 0#32).toNat) finfo).trans (faultMarked_finfo _ (mask ▸ lane) hl (by decide) word)

/-! ## Verdicts on watches (R160) -/

/-- A group whose watch entry n has been struck. -/
def Group.struckEntry (n : Nat) (g : Group) : Group :=
  { g with watches := g.watches.map (fun v => if v.n = n then { v with st := .struck } else v) }

/-- A strike marks its entry and changes nothing else of groups or memory (R160). -/
theorem strike_marks {s : State} {gk n k : Nat} {g : Group} {w : Watch} (group : mget? s.groups gk = some g)
    (found : g.watches.find? (fun w => w.n == n && w.st == .pending) = some w) :
    mget? (s.strike gk n k).groups gk = some (g.struckEntry n) ∧ (s.strike gk n k).mm = s.mm := by
  have offered : (s.updGroup gk (Group.struckEntry n)).Offered (s.strike gk n k) := by
    unfold State.strike
    simp only [group, found]
    split
    · exact .refl _
    · split
      · exact .refl _
      · split
        · exact .refl _
        · exact State.emitL_offered ..
  exact ⟨by rw [offered.groups]; exact mget?_mupd_same group, offered.mm⟩

/-- The pending entry that a verdict names. -/
theorem find_pending {ws : List Watch} {w : Watch} {n : Nat} (mem : w ∈ ws) (named : w.n = n) (pending : w.st = .pending)
    (one : ∀ x ∈ ws, x.n = n → x = w) : ws.find? (fun w => w.n == n && w.st == .pending) = some w := by
  cases found : ws.find? (fun w => w.n == n && w.st == .pending) with
  | none =>
    have none_ := List.find?_eq_none.mp found w mem
    simp [named, pending] at none_
  | some x =>
    have holds := List.find?_some found
    simp only [Bool.and_eq_true, beq_iff_eq] at holds
    rw [one x (List.mem_of_find?_eq_some found) holds.1]

/-- Where one entry has number n, and is pending, that it is pending need not be asked. -/
theorem map_pending {ws : List Watch} {w : Watch} {n : Nat} (pending : w.st = .pending) (one : ∀ x ∈ ws, x.n = n → x = w)
    (f : Watch → Watch) :
    ws.map (fun v => if (v.n = n && v.st == .pending) then f v else v) = ws.map (fun v => if v.n = n then f v else v) :=
  List.map_congr_left fun x mem => by
    by_cases named : x.n = n
    · simp [one x mem named, pending]
    · simp [named]

section
variable {s : State} {gk : Nat} {c : Ctx} {w : Watch} {n : Nat} (at_ : s.gctx gk = some c)
variable (found : c.g.watches.find? (fun w => w.n == n && w.st == .pending) = some w) (passing : s.passing c.wk = false)
include at_ found passing

theorem watchVerdict_confirms (verdict : s.verdict c.g.core w (s.asGen c.l.aspace != w.gen) = (none, s)) :
    exec (.watchVerdict gk n) s = .next (s.updGroup gk (fun x => { x with
      watches := x.watches.map (fun v => if v.n = n && v.st == .pending then { v with st := .confirmed } else v) })) := by
  change execWatchVerdict gk n s = _
  unfold execWatchVerdict
  simp only [at_, found, passing, Bool.false_eq_true, if_false, verdict]

theorem watchVerdict_strikes {k : Nat} (verdict : s.verdict c.g.core w (s.asGen c.l.aspace != w.gen) = (some k, s)) :
    exec (.watchVerdict gk n) s = .next (s.strike gk n k) := by
  change execWatchVerdict gk n s = _
  unfold execWatchVerdict
  simp only [at_, found, passing, Bool.false_eq_true, if_false, verdict]

end

/-! ## The binding of HLOAD (R374) -/

/-- The split of an instruction that ends without a fault goes on at the next word (R270). -/
theorem endInstr_goesOn {t : State} {c : Ctx} {g : Group} {ix : Nat} (group : mget? t.groups c.gk = some g)
    (split : g.splits[c.ix]? = some c.sp) (live : c.sp.st = .live ix) (lanes : c.sp.mask ≠ 0#32) (running : t.frozen c.wk = false) :
    ∃ g', mget? (t.advance c).groups c.gk = some g' ∧ g'.sameButSplits g ∧ g'.standsAt c.sp.mask (c.sp.pc + 1) ∧
      (t.advance c).wgs = t.wgs ∧ (t.advance c).mm = t.mm := by
  obtain ⟨q, next, mask, pc, st⟩ : ∃ q, ({ c.sp.goTo (c.sp.pc + 1) with mask := c.sp.mask } : Split) = q ∧ q.mask = c.sp.mask ∧
      q.pc = c.sp.pc + 1 ∧ q.st = c.sp.st := ⟨_, rfl, rfl, rfl, rfl⟩
  have some_ : q.mask ≠ 0#32 := mask ▸ lanes
  have sound : q.st ≠ .faulted := by simp [st, live]
  unfold State.advance
  rw [endInstr_noFault t c noFault (fun _ _ => rfl) running, next]
  refine ⟨_, mget?_mupd_same group, (settle_same _ _).trans (divide_same _ _ _), ?_, rfl, rfl⟩
  obtain ⟨_, p, mem, same⟩ := settle_spec (divide_one_stood split live some_ sound) (divide_one_mem split live some_ sound) (by simp)
  have masks := congrArg Split.mask same
  have pcs := congrArg Split.pc same
  exact ⟨p, mem, masks.trans mask, pcs.trans pc⟩

/-- Slot h of the issuing workgroup takes the entry hd, and the split goes on (R144, R374). -/
theorem boundSlot_goesOn {s : State} {c : Ctx} {ix : Nat} (hc : CtxOf s c) (live : c.sp.st = .live ix) (lanes : c.sp.mask ≠ 0#32)
    (running : c.wg.failing = none) (h : Nat) (hd : Handle) :
    let t := (s.updWg c.wk (fun w => { w with handles := mput w.handles h hd })).advance c
    ∃ g', mget? t.groups c.gk = some g' ∧ g'.sameButSplits c.g ∧ g'.standsAt c.sp.mask (c.sp.pc + 1) ∧
      mget? t.wgs c.wk = some { c.wg with handles := mput c.wg.handles h hd } ∧ t.mm = s.mm := by
  obtain ⟨u, put⟩ : ∃ u, s.updWg c.wk (fun w => { w with handles := mput w.handles h hd }) = u := ⟨_, rfl⟩
  have wg : mget? u.wgs c.wk = some { c.wg with handles := mput c.wg.handles h hd } := by
    rw [← put]
    exact mget?_mupd_same hc.wg
  have same : u.groups = s.groups ∧ u.mm = s.mm := by
    rw [← put]
    exact ⟨rfl, rfl⟩
  have goes : u.frozen c.wk = false := by
    unfold State.frozen
    simp [wg, running]
  obtain ⟨g', there, rest, stands, wgs, mm⟩ := endInstr_goesOn (same.1 ▸ hc.group) hc.split live lanes goes
  rw [put]
  exact ⟨g', there, rest, stands, (congrArg (mget? · c.wk) wgs).trans wg, mm.trans same.2⟩

/-- A context is that of the group and split that are asked for. -/
theorem ctxOf_place {s : State} {gk ix : Nat} {c : Ctx} (h : s.ctxOf gk ix = some c) : c.gk = gk ∧ c.ix = ix := by
  unfold State.ctxOf at h
  repeat' split at h
  all_goals cases h
  exact ⟨rfl, rfl⟩

section
variable {s : State} {gk e h pa : Nat} {c : Ctx} {bs : List Byte} (at_ : s.ctxOf gk 0 = some c) (only : c.g.splits = [c.sp])
variable (busy : c.sp.busy = some (.hload e h)) (passing : s.passing c.wk = false) (running : c.wg.failing = none)
variable (fresh : s.stale c.l = false) (translated : s.vaOf c.g.core c.l (c.l.htab + 32 * e) = (some pa, s))
variable (read : s.readPa c.g.core pa 32 .l2 = (bs, none, s))

include at_ running in
theorem ctxOf_frozen : s.frozen c.wk = false := by
  unfold State.frozen
  simp [(ctxOf_some at_).wg, running]

include at_ only busy passing running in
/-- An HLOAD that waits in the only split of its group completes (R374). -/
theorem hloadBinding_eq : exec (.hloadBinding gk) s = .next (s.bindHandle c e h) := by
  obtain ⟨rfl, -⟩ := ctxOf_place at_
  change execHloadBinding c.gk s = _
  unfold execHloadBinding
  simp only [(ctxOf_some at_).group, Group.busyIx, only, List.findIdx?_cons, busy, if_true, at_, ctxOf_frozen at_ running, passing,
    Bool.or_self, Bool.false_eq_true, if_false]

include fresh translated read in
/-- A bad entry raises 0x06 (R145). -/
theorem bindHandle_bad (bad : handleBad c (ofBytesLE bs) = true) : s.bindHandle c e h = s.raiseAll c 6 := by
  unfold State.bindHandle
  simp only [translated, fresh, read, bad, Bool.or_true, Bool.false_eq_true, if_false, if_true]

include fresh translated read in
/-- Any other entry that is neither kept for long nor tiled goes into its slot (R144). -/
theorem bindHandle_good (outside : c.wg.blocks = []) (good : handleBad c (ofBytesLE bs) = false)
    (brief : (handleOf (ofBytesLE bs)).persist = false) (untiled : (handleOf (ofBytesLE bs)).kind ≠ 1) :
    s.bindHandle c e h = (s.updWg c.wk (fun w => { w with handles := mput w.handles h (handleOf (ofBytesLE bs)) })).advance c := by
  unfold State.bindHandle
  simp only [translated, fresh, read, good, brief, if_neg untiled, inBlock_eq_false.mpr outside, Option.isSome_none, Bool.or_false,
    Bool.false_eq_true, if_false, Bool.not_true]

end

/-- The fields of an entry (R144). -/
theorem handleOf_fields (v : Nat) : (handleOf v).base = v % 2 ^ 64 ∧ (handleOf v).limit = v / 2 ^ 64 % 2 ^ 32 ∧
    (handleOf v).path = v / 2 ^ 96 % 16 ∧ (handleOf v).kind = v / 2 ^ 100 % 4 ∧
    (v / 2 ^ 108 % 2 = 0 → (handleOf v).persist = false) := by
  refine ⟨?_, rfl, rfl, rfl, fun bit => ?_⟩
  · change v / 2 ^ 0 % 2 ^ 64 = v % 2 ^ 64
    rw [Nat.pow_zero, Nat.div_one]
  · change (v / 2 ^ 108 % 2 == 1) = false
    rw [bit]
    rfl

end Sys2Proof.Machine

namespace Sys2Proof.Proofs
open Sys2Proof.Machine

/-- Settles O39: no verdict, late fault or binding touches more than its group, its slot and what is reported. -/
theorem accessEvents : Obligations.AccessEvents := by
  unfold Obligations.AccessEvents
  intro s gk g group
  refine ⟨fun c w n at_ mem named pending one passing => ?_, fun c p q at_ own accesses stale only mask lanes notFaulted here outside
    running entry notIn word live => ?_, fun c e h pa bs at_ only busy live passing lanes running outside fresh translated read => ?_⟩
  · obtain ⟨there, -⟩ := gctx_some at_
    cases there.symm.trans group
    have found := find_pending mem named pending one
    refine ⟨fun verdict => ?_, fun k verdict => ?_⟩
    · refine ⟨_, _, watchVerdict_confirms at_ found passing verdict, mget?_mupd_same group, ?_, rfl, rfl⟩
      exact map_pending pending one _
    · obtain ⟨marked, mm⟩ := strike_marks (k := k) group found
      exact ⟨_, _, watchVerdict_strikes at_ found passing verdict, marked, rfl, rfl, mm⟩
  · obtain ⟨there, -⟩ := gctx_some at_
    cases there.symm.trans group
    exact delayedAccessFault_enters at_ own accesses stale only mask lanes here outside running entry notIn live word
  · obtain ⟨rfl, ix⟩ := ctxOf_place at_
    have of := ctxOf_some at_
    cases of.group.symm.trans group
    obtain ⟨place, live⟩ := live
    have bound := hloadBinding_eq at_ only busy passing running
    refine ⟨fun bad => ?_, fun good brief untiled => ?_⟩
    · rw [bound, bindHandle_bad fresh translated read bad]
    · obtain ⟨base, limit, path, kind, persist⟩ := handleOf_fields (ofBytesLE bs)
      rw [bindHandle_good fresh translated read outside good (persist brief) untiled] at bound
      obtain ⟨g', there, rest, stands, wg, mm⟩ := boundSlot_goesOn of live lanes running h (handleOf (ofBytesLE bs))
      exact ⟨_, g', _, _, bound, there, rest, stands, wg, mget?_mput_same .., base, limit, path, kind,
        fun j hj => mget?_mput_other _ _ hj, rfl, mm⟩

end Sys2Proof.Proofs
end

section
/-! SUPPORT. A state in which a statement about revalidations does not hold: the table of a home names a line that no address reaches,
whose copy on one die has the key of another line's copy on another die. -/

namespace Sys2Proof.Proofs
open Sys2Proof.Machine

/-- The first line of the second tier. -/
def tierLine : Nat := 2 ^ 37

/-- A line number beyond the 44 bits that the key of a copy has for it: copyKey 0 strayLine is copyKey 1 tierLine. -/
def strayLine : Nat := 2 ^ 44 + tierLine

/-- Fifteen other lines in their set of the home's table, each waiting for the dies to drop their copies. -/
def setPeers : List Nat := (upto 15).map (fun j => tierLine + 2 ^ 14 * 3 * (j + 1))

/-- A pending watch on each line of the set, so that the least recently used entry is the one to go: the stray line's. -/
def setWatches : List Watch :=
  (setPeers ++ [strayLine]).zipIdx.map (fun e =>
    { n := e.2, id := 0, tag := 0, lanes := 1#32, line := e.1, gen := 0, ver := 0, stamp := 0,
      ofW := false, st := .pending, used := 0#32 })

/-- Die 1 holds an older version of the second tier's first line, whose first byte is 1; die 0 owns the stray line. -/
def strayModule : State :=
  { State.reset with
    groups := [(0, { Group.placed 0 0 0 0 0 0 with watches := setWatches })]
    mm := { State.reset.mm with
      bytes := [(tierLine * 128, 1#8)]
      lines := setPeers.map (fun n => (n, { Line.fresh with wrap := true, used := 1 })) ++
        [(strayLine, { Line.fresh with owner := some 0 })]
      vcopy := [(copyKey 1 tierLine, { ver := 1, stamp := 0, data := 0#1024, pois := none, ro := false })] } }

/-- The data of die 1's copy of the line after a step that answers a next state. -/
def tierCopy : Host.Outcome State Fault Refusal → Option (BitVec 1024)
  | .next t => (mget? t.mm.vcopy (copyKey 1 tierLine)).map (·.data)
  | _ => none

/-- The copy that die 0 keeps of the stray line stands in the place of die 1's copy, and its version passes for the line's. -/
theorem revalidation_answers_strayLine : tierCopy (exec (.revalidation 1#2 tierLine) strayModule) = some 0#1024 := by decide +kernel

theorem lineData_tierLine : strayModule.lineData tierLine ≠ 0#1024 := by decide +kernel

/-- Refutes O41: the clause of a revalidation of an older version asks nothing of the table of lines. Where it names a line beyond
the 44 bits of a copy's key, the copy that a recall of that line leaves on die 0 (R155, R158) is taken for die 1's copy of the line
that is asked for, and die 1 keeps data that are not the line's. -/
theorem not_coherenceEvents : ¬ Obligations.CoherenceEvents := by
  unfold Obligations.CoherenceEvents
  intro h
  obtain ⟨asked, -⟩ := h strayModule 1#2 tierLine (by decide +kernel) (by decide +kernel) rfl
  obtain ⟨-, revalidated⟩ := asked (by decide +kernel)
  obtain ⟨-, older⟩ := revalidated { ver := 1, stamp := 0, data := 0#1024, pois := none, ro := false } (by decide +kernel)
    (by decide +kernel)
  obtain ⟨t, k, he, hk, -, data, -⟩ := older (by decide +kernel)
  have kept := revalidation_answers_strayLine
  have there : mget? t.mm.vcopy (copyKey 1 tierLine) = some k := hk
  rw [he] at kept
  simp only [tierCopy, there, Option.map_some, Option.some.injEq] at kept
  exact lineData_tierLine (data.symm.trans kept)

end Sys2Proof.Proofs
end

section
/-! SUPPORT. Stores, atomics and store-conditionals at issue (R186, R270, R365, R366, R371, R372): the state where an instruction
issues its operation, after a release or none, and the end of one whose operation is left to be performed. -/

namespace Sys2Proof.Machine

/-! ## The issuing group and its workgroup alone, in two steps -/

theorem OnlyGroup.trans {s t u : State} {c : Ctx} (h : OnlyGroup s t c) (h' : OnlyGroup t u c)
    (logs : ∃ w, mget? u.wgs c.wk = some w ∧ w.sameButLogs c.wg) : OnlyGroup s u c :=
  { rest := by
      have rest := congrArg (fun x : State => { x with
        groups := s.groups, wgs := s.wgs, draws := s.draws, nextId := s.nextId
        rel := { x.rel with latent := s.rel.latent } }) h'.rest
      exact rest.trans h.rest
    flaws := fun x hx => (h'.flaws x hx).trans (h.flaws x hx)
    groups := fun k hk => (h'.groups k hk).trans (h.groups k hk)
    wgs := fun k hk => (h'.wgs k hk).trans (h.wgs k hk)
    logs := logs }

/-! ## Releases leave the log of a workgroup as it is (R132, R197) -/

theorem pubUp_loggedReg (w : Wg) (k scope j d : Nat) : (w.pubUp k scope).loggedReg j d = w.loggedReg j d := by
  unfold Wg.loggedReg Wg.pubUp
  cases w.blocks <;> rfl

theorem pubUp_logUsed (w : Wg) (k scope : Nat) (l : Launch) : (w.pubUp k scope).logUsed l = w.logUsed l := by
  unfold Wg.logUsed Wg.pubUp
  rw [List.map_map]
  rfl

theorem pubUp_roomFor {w : Wg} {c : Ctx} {d n : Nat} (k scope : Nat) (h : w.roomFor c d n) :
    (w.pubUp k scope).roomFor c d n := by
  rcases h with closed | logged | room
  · rw [Wg.pubUp_noBlock closed]
    exact .inl closed
  · exact .inr (.inl fun j hj => (pubUp_loggedReg ..).trans (logged j hj))
  · refine .inr (.inr ?_)
    rw [pubUp_logUsed]
    exact room

/-! ## The state where an operation issues -/

/-- State t is what an instruction of context c has made of s when nothing is left to it but to issue its operation: memory and
all other groups are untouched, the issuing group is g, and its workgroup, which has not failed, is w but for its logs. -/
structure IssueReady (s t : State) (c : Ctx) (w : Wg) (g : Group) : Prop where
  mid     : Mid s t { c with wg := w } g
  running : w.failing = none
  ids     : t.nextId = s.nextId

/-- State t stands so before the destination is logged: the workgroup is w, and its log has the room that it had. -/
structure Entered (s t : State) (c : Ctx) (w : Wg) (g : Group) : Prop extends IssueReady s t c w g where
  wg      : mget? t.wgs c.wk = some w
  gang    : w.gang = c.wg.gang
  room    : ∀ {d n}, c.logRoom d n → w.roomFor c d n
  owner   : g.wg = c.g.wg
  number  : g.k = c.g.k

theorem IssueReady.updGroup {s t : State} {c : Ctx} {w : Wg} {g : Group} (h : IssueReady s t c w g) (f : Group → Group)
    (splits : (f g).splits = g.splits) : IssueReady s (t.updGroup c.gk f) c w (f g) :=
  ⟨h.mid.updGroup f splits, h.running, h.ids⟩

theorem MayIssue.entered {s : State} {c : Ctx} {i : Instr} (hi : MayIssue s c i) : Entered s s c c.wg c.g :=
  { mid := .refl hi.ctxOf, wg := hi.ctxOf.wg, gang := rfl, running := hi.noFailure, room := roomFor_ctx
    owner := rfl, number := rfl, ids := rfl }

theorem released_onlyGroup {s : State} {c : Ctx} (hc : CtxOf s c) (dirty : c.wg.dirty = []) (scope : Nat) :
    OnlyGroup s (s.released c scope) { c with wg := c.wg.pubUp c.g.k scope } :=
  { rest := by rw [released_clean dirty]; split <;> rfl
    flaws := fun _ _ => by rw [released_clean dirty]; split <;> rfl
    groups := fun k hk => by rw [released_groups dirty]; exact mget?_mupd_other _ _ hk
    wgs := fun k hk => released_wgs_other dirty scope hk
    logs := ⟨_, released_wg dirty scope hc.wg, .refl _⟩ }

theorem MayRelease.entered {s : State} {c : Ctx} {i : Instr} {scope : Nat} (hr : MayRelease s c scope) (hi : MayIssue s c i) :
    Entered s (s.released c scope) c (c.wg.pubUp c.g.k scope) (c.g.afterRelease scope) :=
  { mid := ⟨released_onlyGroup hi.ctxOf hr.pushed scope,
      by rw [released_groups hr.pushed]; exact mget?_mupd_same hi.ctxOf.group, rfl⟩
    wg := released_wg hr.pushed scope hi.ctxOf.wg
    gang := rfl, running := hi.noFailure, room := fun h => pubUp_roomFor _ _ (roomFor_ctx h), owner := rfl, number := rfl
    ids := by rw [released_clean hr.pushed]; split <;> rfl }

/-- An instruction that releases where rel says so, and nothing holds back, issues after the release. -/
theorem entered_of_rel {s : State} {c : Ctx} {i : Instr} {scope : Nat} {rel : Bool} (hi : MayIssue s c i)
    (hr : rel = true → MayRelease s c scope) :
    Entered s (if rel then s.released c scope else s) c (if rel then c.wg.pubUp c.g.k scope else c.wg)
      (if rel then c.g.afterRelease scope else c.g) := by
  cases rel
  · exact hi.entered
  · exact (hr rfl).entered hi

section
variable {s u : State} {c : Ctx} {w : Wg} {g : Group}

theorem Entered.updGroup (h : Entered s u c w g) (f : Group → Group) (splits : (f g).splits = g.splits)
    (owner : (f g).wg = g.wg) (number : (f g).k = g.k) : Entered s (u.updGroup c.gk f) c w (f g) :=
  { h with mid := h.mid.updGroup f splits, owner := owner.trans h.owner, number := number.trans h.number }

/-- The context of such a state. -/
theorem Entered.ctxOf (h : Entered s u c w g) (hc : CtxOf s c) : CtxOf u { c with wg := w, g := g } :=
  { group := h.mid.group
    split := h.mid.splits ▸ hc.split
    wgKey := hc.wgKey.trans h.owner.symm
    wg := h.wg
    nk := hc.nk.trans h.gang.symm
    gang := h.mid.only.gangs ▸ hc.gang
    lk := hc.lk
    launch := h.mid.only.launches ▸ hc.launch }

theorem logFirst_nextId {t t' : State} {wk pc : Nat} {e : LogEntry} (h : t.logFirst wk e pc = (true, t')) :
    t'.nextId = t.nextId := by
  have branches : (t.logFirst wk e pc).1 = true → (t.logFirst wk e pc).2.nextId = t.nextId := by
    unfold State.logFirst
    dsimp only
    repeat' split
    all_goals simp
  rw [h] at branches
  exact branches rfl

/-- The first write of a register is logged where its workgroup's log has room (R132). -/
theorem Entered.logFirst (h : Entered s u c w g) (hc : CtxOf s c) {d : Nat} (room : c.logRoom d 1) (old : Reg) :
    ∃ t, u.logFirst c.wk (.reg c.g.k d old) c.sp.pc = (true, t) ∧ IssueReady s t c w g := by
  have later := h.ctxOf hc
  have roomy : w.roomFor { c with wg := w, g := g } d 1 := by
    have there := h.room room
    unfold Wg.roomFor at there ⊢
    dsimp only
    rw [h.number]
    exact there
  obtain ⟨t, w', did, mid, there, same, -, -⟩ :=
    logFirst_reg later (.refl later) later.wg (.refl _) d 0 c.sp.pc old roomy
  dsimp only at did
  rw [h.number] at did
  have alone : OnlyGroup u t { c with wg := w } :=
    ⟨mid.only.rest, mid.only.flaws, mid.only.groups, mid.only.wgs, mid.only.logs⟩
  exact ⟨t, did, ⟨h.mid.only.trans alone ⟨w', there, same⟩, mid.group, h.mid.splits⟩, h.running,
    (logFirst_nextId did).trans h.ids⟩

theorem logRegs_one (s : State) (c : Ctx) (d : Nat) : s.logRegs c d 1 =
    if c.inBlock && d ≠ 0 then s.logFirst c.wk (.reg c.g.k d (c.g.reg d)) c.sp.pc else (true, s) := by
  change (if true && c.inBlock && d ≠ 0 then _ else _) = _
  rw [Bool.true_and]
  rfl

theorem Entered.logRegs (h : Entered s u c w g) (hc : CtxOf s c) {d : Nat} (room : c.logRoom d 1) :
    ∃ t, u.logRegs c d 1 = (true, t) ∧ IssueReady s t c w g := by
  rw [logRegs_one]
  split
  · exact h.logFirst hc room (c.g.reg d)
  · exact ⟨u, rfl, h.toIssueReady⟩

/-- The destination register of an operation is logged as it issues (R364). -/
theorem Entered.logDst (h : Entered s u c w g) (hc : CtxOf s c) {d : Nat} (room : c.logRoom d 1) (fs : Forms) :
    ∃ t, u.logDst c d 1 fs = (true, t) ∧ IssueReady s t c w g := by
  unfold State.logDst
  split
  · exact ⟨u, rfl, h.toIssueReady⟩
  · obtain ⟨t, did, ready⟩ := h.logRegs hc room
    exact ⟨t, by rw [did], ready⟩

end

/-! ## The end of an instruction whose operation waits to be performed (R270) -/

theorem flag_flagInc (g : Group) (f k : Nat) : (g.flagInc f).flag k = if k = f ∧ k < 12 then g.flag k + 1 else g.flag k := by
  unfold Group.flagInc
  split
  next none_ => rw [if_neg (by omega)]
  next named =>
    by_cases same : k = f
    · subst same
      rw [if_pos ⟨rfl, by omega⟩]
      exact mgetD_mput_same ..
    · rw [if_neg (fun h => same h.1)]
      exact mgetD_mput_other _ _ _ same

/-- The group with one more operation to be performed, which is counted on its flag (R270). -/
def Group.issuing (q : Pend) (g : Group) : Group := ({ g with pend := g.pend ++ [q] } : Group).flagInc q.flag

/-- Of its group an operation changes the list of operations and the flags only. -/
theorem issuing_eq (q : Pend) (g : Group) : ∃ flags, g.issuing q = { g with pend := g.pend ++ [q], flags := flags } := by
  unfold Group.issuing Group.flagInc
  split
  · exact ⟨g.flags, rfl⟩
  · exact ⟨_, rfl⟩

theorem flag_issuing (q : Pend) (g : Group) (k : Nat) :
    (g.issuing q).flag k = if k = q.flag ∧ k < 12 then g.flag k + 1 else g.flag k :=
  flag_flagInc { g with pend := g.pend ++ [q] } q.flag k

/-- An operation of some lane takes a fresh identifier and waits to be performed (R270). -/
theorem startPend_eq {s : State} {c : Ctx} {p : Pend} (lanes : p.lanes ≠ 0#32) (code : Nat → Option Nat) :
    ∃ dh, s.startPend c p code =
      (s.takeId.2.updGroup c.gk (Group.issuing { p with id := s.nextId, dhash := dh })).endInstr c code := by
  unfold State.startPend
  rw [if_neg lanes]
  exact ⟨_, rfl⟩

/-- The split goes on after an instruction no lane of which faults, whatever its release has made of the workgroup. -/
theorem Mid.goesOn {s t : State} {c : Ctx} {i : Instr} {w : Wg} {g : Group} (hi : MayIssue s c i)
    (h : Mid s t { c with wg := w } g) (running : w.failing = none) {code : Nat → Option Nat} (clean : ∀ l < 32, code l = none) :
    OnlyGroup s (t.endInstr c code) { c with wg := w } ∧ (t.endInstr c code).nextId = t.nextId ∧
    ∃ g', mget? (t.endInstr c code).groups c.gk = some g' ∧ g'.sameButSplits g ∧ g'.standsAt c.sp.mask (c.sp.pc + 1) := by
  have goes : t.frozen c.wk = false := h.failing running
  obtain ⟨k, live⟩ := hi.live
  obtain ⟨g', group, same, stands, -, -⟩ :=
    endInstr_goesOn (c := c) h.group (h.splits ▸ hi.ctxOf.split) live hi.lanes goes
  have ended : t.endInstr c code = t.advance c :=
    (endInstr_noFault t c code clean goes).trans (endInstr_noFault t c noFault (fun _ _ => rfl) goes).symm
  refine ⟨?_, ?_, g', ended ▸ group, same, stands⟩
  · rw [endInstr_noFault t c code clean goes]
    exact h.only.updGroup _
  · rw [endInstr_noFault t c code clean goes]
    rfl

/-- What the issue of an operation changes, its operations, flags, stochastic counters and splits, group a still has from b. -/
def Group.unissuedSince (a b : Group) : Prop :=
  ({ a with pend := b.pend, flags := b.flags, srctr := b.srctr, splits := b.splits } : Group) = a

/-- The operation is of the split's instruction and of the generation of its workgroup, and its return is wanted (R131, R270). -/
def Ctx.owns (c : Ctx) (p : Pend) : Prop := p.pc = c.sp.pc ∧ p.gen = c.wg.gen ∧ p.drop = false

/-- An instruction that ends with State.startPend issues the operation, the group being f of what it was. -/
theorem issuesPending_of {s t : State} {c : Ctx} {i : Instr} {w : Wg} {f : Group → Group} {p : Pend} {code : Nat → Option Nat}
    {ok : Pend → Prop} (hi : MayIssue s c i) (ready : IssueReady s t c w (f c.g)) (keeps : (f c.g).unissuedSince c.g)
    (lanes : p.lanes ≠ 0#32) (clean : ∀ l < 32, code l = none) (owns : c.owns p)
    (holds : ∀ dh, ok { p with id := s.nextId, dhash := dh }) (he : exec i s = .next (t.startPend c p code)) :
    IssuesPending i s c w f 0 ok := by
  obtain ⟨mid, running, ids⟩ := ready
  obtain ⟨pc, gen, kept⟩ := owns
  unfold Group.unissuedSince at keeps
  obtain ⟨dh, put⟩ := startPend_eq (s := t) (c := c) lanes code
  rw [put, ids] at he
  have described := holds dh
  obtain ⟨q, is⟩ : ∃ q : Pend, { p with id := s.nextId, dhash := dh } = q := ⟨_, rfl⟩
  rw [is] at he described
  obtain ⟨fl, changed⟩ := issuing_eq q (f c.g)
  have taken : Mid s t.takeId.2 { c with wg := w } (f c.g) := ⟨mid.only.takeId, mid.group, mid.splits⟩
  obtain ⟨only, nextId, g, group, same, stands⟩ :=
    (taken.updGroup (Group.issuing q) (by rw [changed])).goesOn hi running clean
  have rest : ({ g with splits := ((f c.g).issuing q).splits } : Group) = (f c.g).issuing q := same
  refine ⟨_, g, q, he, only, group, described, ?group, ?pend, is ▸ rfl, nextId.trans (congrArg (· + 1) ids), is ▸ pc, is ▸ gen,
    is ▸ kept, fun k => ?flags, fun l _ => ?words, stands⟩
  case group =>
    exact (congrArg (fun x : Group => { x with
      pend := c.g.pend, flags := c.g.flags, srctr := c.g.srctr, splits := c.g.splits }) (rest.trans changed)).trans keeps
  case pend =>
    have before : (f c.g).pend = c.g.pend := (congrArg Group.pend keeps).symm
    exact (congrArg Group.pend (rest.trans changed)).trans (congrArg (· ++ [q]) before)
  case flags =>
    have before : (f c.g).flag k = c.g.flag k := (congrArg (Group.flag · k) keeps).symm
    rw [← before, ← flag_issuing]
    have after := congrArg (Group.flag · k) rest
    exact after
  case words =>
    have before : (f c.g).sr l = c.g.sr l := (congrArg (Group.sr · l) keeps).symm
    have after := congrArg (Group.sr · l) (rest.trans changed)
    exact (after.trans before).trans (by simp)

/-! ## Accesses that all pass their checks -/

section
variable {s : State} {c : Ctx} {h : BitVec 4} {a : BitVec 7} {n : Nat} {k : AccKind} {fs : Forms}

/-- Where every access passes its checks the operation is issued for all active lanes (R363). -/
theorem forms_good (formed : s.forms c h a n k fs) : fs.good = c.act := by
  obtain ⟨form, right⟩ := formed
  have lanes := formAll_lanes s c h a n k
  rw [form] at lanes
  refine BitVec.eq_of_getLsbD_eq fun l hl => Bool.eq_iff_iff.mpr ?_
  have asked : l ∈ lanesOf c.act ↔ ∃ e ∈ fs, e.1 = l := by
    rw [← lanes]
    exact List.mem_map
  rw [Forms.good, getLsbD_maskOf, decide_eq_true hl, Bool.true_and, List.any_eq_true]
  constructor
  · rintro ⟨e, mem, is⟩
    rw [Bool.and_eq_true, beq_iff_eq] at is
    exact (mem_lanesOf.mp (asked.mpr ⟨e, mem, is.1⟩)).2
  · intro on
    obtain ⟨e, mem, is⟩ := asked.mp (mem_lanesOf.mpr ⟨hl, on⟩)
    exact ⟨e, mem, by rw [right e mem, Bool.and_true, beq_iff_eq]; exact is⟩

end

section
variable (c : Ctx) (h : BitVec 4) (d n : Nat) (cas : Bool) (ps : List Access)

/-- What an operation publishes, like the tile that it stores to, depends on its places alone, not on its data (R164, R197). -/
theorem pubOf_withData : pubOf (c.withData d n ps) = pubOf ps := by
  unfold pubOf Ctx.withData
  rw [List.map_map]
  rfl

theorem tileOf_withData : c.tileOf h (c.withData d n ps) = c.tileOf h ps := by
  unfold Ctx.tileOf Ctx.withData
  rw [List.any_map]
  rfl

theorem pubOf_atomData : pubOf (c.atomData d cas ps) = pubOf ps := by
  unfold pubOf Ctx.atomData
  rw [List.map_map]
  cases cas <;> rfl

theorem tileOf_atomData : c.tileOf h (c.atomData d cas ps) = c.tileOf h ps := by
  unfold Ctx.tileOf Ctx.atomData
  rw [List.any_map]
  cases cas <;> rfl

end

/-- The group with its writes to the places of these parts not published yet (R197). -/
def Group.publishing (ps : List Access) (g : Group) : Group := { g with pub := mergePub g.pub (pubOf ps) }

/-! ## ST and STRL (R365, R366) -/

/-- The operation of a plain store of n bytes, with its lanes' data from register d on. -/
def Ctx.storeOf (c : Ctx) (d : BitVec 7) (h : BitVec 4) (n : Nat) (fs : Forms) (p : Pend) : Prop :=
  p.op = .store n ∧ p.nreg = 0 ∧ p.lanes = c.act ∧ p.flag = c.sp.setB ∧ p.tile = c.tileOf h fs.parts ∧
    p.acc = c.withData d.toNat n fs.parts

theorem storeOp_issues {s u : State} {c : Ctx} {i : Instr} {w : Wg} {f : Group → Group} {d a : BitVec 7} {h : BitVec 4}
    {n : Nat} {fs : Forms} (hi : MayIssue s c i) (at_ : Entered s u c w (f c.g))
    (keeps : (f c.g).unissuedSince c.g) (formed : s.forms c h a n .store fs) (lanes : c.act ≠ 0#32)
    (he : exec i s = .next (u.storeOp c (c.pend (.store n) 0 0 0#32 .G [] 15) h fs d.toNat n)) :
    IssuesPending i s c w (fun g => (f g).publishing fs.parts) 0 (c.storeOf d h n fs) := by
  have published := at_.toIssueReady.updGroup (Group.publishing fs.parts) rfl
  have good := forms_good formed
  unfold State.storeOp at he
  dsimp only at he
  rw [pubOf_withData, tileOf_withData] at he
  exact issuesPending_of hi (f := fun g => (f g).publishing fs.parts) published (congrArg (Group.publishing fs.parts) keeps)
    (ne_of_eq_of_ne good lanes) (fun l _ => forms_clean formed l) ⟨rfl, rfl, rfl⟩ (fun _ => ⟨rfl, rfl, good, rfl, rfl, rfl⟩) he

section
variable {s : State} {c : Ctx} {d a : BitVec 7} {h : BitVec 4} {z k : BitVec 3} {fs : Forms} (lanes : c.act ≠ 0#32)
  (bank : s.bankWait c h a = false) (room : c.g.flagFull c.sp.setB = false)
include bank room

theorem exec_st (hi : MayIssue s c (.st d a h z)) (formed : s.forms c h a (2 ^ z.toNat) .store fs) :
    exec (.st d a h z) s =
      .next (s.storeOp c (c.pend (.store (2 ^ z.toNat)) 0 0 0#32 .G [] 15) h fs d.toNat (2 ^ z.toNat)) := by
  refine (hi.issue rfl _).trans ?_
  rw [room, bank, if_neg Bool.false_ne_true, if_neg Bool.false_ne_true, show sizeBytes z = 2 ^ z.toNat from rfl, formed.1]

include lanes

/-- An STRL whose earlier accesses are performed comes to what stands before its release (R193, R366). -/
theorem exec_strl (hi : MayIssue s c (.strl d a h z k)) (noWait : s.relWaits c k.toNat = false)
    (formed : s.forms c h a (2 ^ z.toNat) .store fs) : exec (.strl d a h z k) s =
      .next (s.relThen c 16 k.toNat (pubOf fs.parts) fs.code fun s =>
        s.storeOp c (c.pend (.store (2 ^ z.toNat)) 0 0 0#32 .G [] 15) h fs d.toNat (2 ^ z.toNat)) := by
  refine (hi.issue rfl _).trans ?_
  rw [if_neg lanes, room, noWait, bank, if_neg Bool.false_ne_true, if_neg Bool.false_ne_true, if_neg Bool.false_ne_true,
    show sizeBytes z = 2 ^ z.toNat from rfl, formed.1]

theorem strl_issues (hi : MayIssue s c (.strl d a h z k)) (open_ : c.wg.blocks = [] ∨ k.toNat < 2)
    (formed : s.forms c h a (2 ^ z.toNat) .store fs) (hr : MayRelease s c k.toNat) :
    IssuesPending (.strl d a h z k) s c (c.wg.pubUp c.g.k k.toNat) (fun g => (g.afterRelease k.toNat).publishing fs.parts) 0
      (c.storeOf d h (2 ^ z.toNat) fs) := by
  have he := exec_strl lanes bank room hi hr.relWaits formed
  rw [hr.relThen, escapeOf_false open_, if_neg Bool.false_ne_true] at he
  exact storeOp_issues hi (hr.entered hi) rfl formed lanes he

/-- An unconsumed strike is raised where an STRL would release (R193). -/
theorem strl_struck (hi : MayIssue s c (.strl d a h z k)) (formed : s.forms c h a (2 ^ z.toNat) .store fs)
    (noWait : s.relWaits c k.toNat = false) (noDelayed : c.g.delayed = []) (struck : c.g.struck = true) :
    exec (.strl d a h z k) s = .next (s.raiseAll c 0x0C) := by
  have check : c.relCheck 16 (s.relHeld c k.toNat) = .strike := by
    unfold Ctx.relCheck
    rw [show (c.g.watching || s.relHeld c k.toNat) = false from noWait, due_none noDelayed, struck]
    rfl
  rw [exec_strl lanes bank room hi noWait formed, State.relThen, State.relWith, check]

omit bank in
theorem strl_waits (hi : MayIssue s c (.strl d a h z k)) (waits : s.relWaits c k.toNat = true) :
    exec (.strl d a h z k) s = .next ((s.narrow c k.toNat).stallBy c 16) := by
  refine (hi.issue rfl _).trans ?_
  rw [if_neg lanes, room, waits, if_neg Bool.false_ne_true, if_pos rfl]

end

/-! ## Atomics and SC (R371, R372) -/

/-- Without replay an instruction that produces an event takes the group's next number and runs with its live outcome (R258,
R260). -/
theorem rrIssue_live {s : State} {c : Ctx} (live : c.rrOn 2 = false) (k hash : Nat) :
    ∃ no, s.rrIssue c k hash = (some (no, none), s.updGroup c.gk (fun g => { g with evno := g.evno + 1 })) := by
  unfold State.rrIssue State.rrTake
  rw [live]
  exact ⟨_, rfl⟩

/-- What stands before a release where an instruction releases, and an escape where it does not, lets it go on (R135, R186). -/
theorem relThen_of_rel {s : State} {c : Ctx} {scope : Nat} {rel : Bool} (hr : rel = true → MayRelease s c scope)
    (open_ : c.wg.blocks = [] ∨ scope < 2) (r : Nat) (own : List (Option Nat × Nat)) (code : Nat → Option Nat)
    (go : State → State) :
    (if rel then s.relThen c r scope own code go else if c.escapeOf scope own then s.escape c code else go s) =
      go (if rel then s.released c scope else s) := by
  rw [escapeOf_false open_]
  cases rel
  · rfl
  · rw [if_pos rfl, (hr rfl).relThen, escapeOf_false open_]
    rfl

/-- What an atomic access changes of its group besides its operation: its release where it releases, its event number where it
returns a value, and what it publishes (R197, R258). -/
def Group.atomIssued (k : Nat) (rel : Bool) (n : BitVec 1) (ps : List Access) (g : Group) : Group :=
  ({ (if rel then g.afterRelease k else g) with evno := if n = 0#1 then g.evno + 1 else g.evno } : Group).publishing ps

theorem atomIssued_keeps (k : Nat) (rel : Bool) (n : BitVec 1) (ps : List Access) (g : Group) :
    (g.atomIssued k rel n ps).unissuedSince g := by
  cases rel <;> rfl

/-- An SC changes of its group what an atomic access with a return does, and is a release with REL (R372). -/
theorem atomIssued_sc (k : Nat) (q : BitVec 1) (ps : List Access) : Group.atomIssued k (q == 1#1) 0#1 ps = fun g =>
    ({ (if q = 1#1 then g.afterRelease k else g) with evno := g.evno + 1 } : Group).publishing ps := by
  funext g
  simp only [Group.atomIssued, beq_iff_eq, if_true]

/-- The operation of an ATOM of these parts, class A with a return and class B without. -/
def Ctx.atomOf (c : Ctx) (d : BitVec 7) (h : BitVec 4) (k : BitVec 3) (n : BitVec 1) (o : BitVec 3) (acq : Bool) (fs : Forms)
    (p : Pend) : Prop :=
  p.op = .atom o.toNat (tyOf c.g.m) (n == 0#1) ∧ p.lanes = c.act ∧ p.acq = acq ∧ p.scope = k.toNat ∧
    p.tile = c.tileOf h fs.parts ∧ p.acc = c.atomData d.toNat (o == 7#3) fs.parts ∧
    (if n = 0#1 then p.dst = d.toNat ∧ p.nreg = 1 ∧ p.flag = c.sp.setA ∧ p.tag = .G else p.nreg = 0 ∧ p.flag = c.sp.setB)

/-- The operation of an SC of n bytes, class A, with its lanes' data from register d on. -/
def Ctx.scOf (c : Ctx) (d : BitVec 7) (n : Nat) (fs : Forms) (p : Pend) : Prop :=
  p.op = .sc n ∧ p.dst = d.toNat ∧ p.nreg = 1 ∧ p.lanes = c.act ∧ p.flag = c.sp.setA ∧ p.acc = c.withData d.toNat n fs.parts

section
variable {s : State} {c : Ctx} {i : Instr} {d a : BitVec 7} {h : BitVec 4} {z k : BitVec 3} {n : BitVec 1} {o : BitVec 3}
  {fs : Forms} {rel : Bool}

/-- After its release, if it is one, an atomic access takes its event number, logs its destination and publishes its places,
each where it has one; then its operation is issued. -/
theorem atomIssued_ready (hi : MayIssue s c i) (hr : rel = true → MayRelease s c k.toNat) (live : c.rrOn 2 = false)
    (logged : n = 0#1 → c.logRoom d.toNat 1) (e hash : Nat) (fs : Forms) :
    let u := if rel then s.released c k.toNat else s
    ∃ no v t, (if n = 0#1 then u.rrIssue c e hash else (some (0, none), u)) = (some (no, none), v) ∧
      (if n = 0#1 then v.logDst c d.toNat 1 fs else (true, v)) = (true, t) ∧
      IssueReady s (t.updGroup c.gk (Group.publishing fs.parts)) c (if rel then c.wg.pubUp c.g.k k.toNat else c.wg)
        (c.g.atomIssued k.toNat rel n fs.parts) := by
  intro u
  have before := entered_of_rel hi hr
  have event : (if rel then c.g.afterRelease k.toNat else c.g).evno = c.g.evno := by cases rel <;> rfl
  unfold Group.atomIssued
  by_cases returns : n = 0#1
  · obtain ⟨no, numbered⟩ := rrIssue_live (s := u) live e hash
    have at_ := before.updGroup (fun g => { g with evno := g.evno + 1 }) rfl rfl rfl
    obtain ⟨t, did, ready⟩ := at_.logDst hi.ctxOf (logged returns) fs
    rw [event] at ready
    simp only [if_pos returns]
    exact ⟨no, _, t, numbered, did, ready.updGroup _ rfl⟩
  · simp only [if_neg returns, ← event]
    exact ⟨0, u, u, rfl, rfl, before.toIssueReady.updGroup _ rfl⟩

variable (lanes : c.act ≠ 0#32) (live : c.rrOn 2 = false)
include lanes live

/-- An ATOM that nothing holds back issues its operation. -/
theorem atomOp_issues {ord : AtomOrd} (hi : MayIssue s c i) (open_ : c.wg.blocks = [] ∨ k.toNat < 2)
    (bank : s.bankWait c h a = false) (formed : s.forms c h a 4 .atom fs)
    (room : c.g.flagFull (if n = 0#1 then c.sp.setA else c.sp.setB) = false)
    (acq : ord.acq = true → c.g.watchingLanes c.sp.mask = false) (hr : ord.rel = true → MayRelease s c k.toNat)
    (logged : n = 0#1 → c.logRoom d.toNat 1) (he : exec i s = .next (s.atomOp c d a h k n o ord)) :
    IssuesPending i s c (if ord.rel then c.wg.pubUp c.g.k k.toNat else c.wg) (Group.atomIssued k.toNat ord.rel n fs.parts) 0
      (c.atomOf d h k n o ord.acq fs) := by
  have noWait : (ord.rel && s.relWaits c k.toNat) = false := by
    cases releases : ord.rel
    · rfl
    · exact (hr releases).relWaits
  have noWatch : (ord.acq && c.g.watchingLanes c.sp.mask) = false := by
    cases acquires : ord.acq
    · rfl
    · exact acq acquires
  have good := forms_good formed
  have some_ : fs.good ≠ 0#32 := ne_of_eq_of_ne good lanes
  obtain ⟨no, v, t, numbered, did, ready⟩ := atomIssued_ready hi hr live logged 4 (c.addrHash h a) fs
  unfold State.atomOp at he
  simp only [if_neg lanes, room, noWait, noWatch, bank, formed.1, Bool.false_eq_true, if_false] at he
  rw [relThen_of_rel hr open_] at he
  simp only [some_, ne_eq, not_false_eq_true, decide_true, Bool.and_true, decide_eq_true_eq, numbered, did, if_true,
    pubOf_atomData, tileOf_atomData] at he
  refine issuesPending_of hi ready (atomIssued_keeps ..) some_ (fun l _ => forms_clean formed l) ⟨rfl, rfl, rfl⟩
    (fun _ => ⟨rfl, good, rfl, rfl, rfl, rfl, ?_⟩) he
  split
  next returns => exact ⟨rfl, rfl, rfl, rfl⟩
  next silent => exact ⟨rfl, rfl⟩

/-- An SC that nothing holds back issues its operation; with REL it is a release (R372). -/
theorem sc_issues {q : BitVec 1} (hi : MayIssue s c (.sc d a h z q k)) (open_ : c.wg.blocks = [] ∨ k.toNat < 2)
    (formed : s.forms c h a (2 ^ z.toNat) .lrsc fs) (room : c.g.flagFull c.sp.setA = false)
    (hr : (q == 1#1) = true → MayRelease s c k.toNat) (logged : c.logRoom d.toNat 1) :
    IssuesPending (.sc d a h z q k) s c (if q == 1#1 then c.wg.pubUp c.g.k k.toNat else c.wg)
      (Group.atomIssued k.toNat (q == 1#1) 0#1 fs.parts) 0 (c.scOf d (2 ^ z.toNat) fs) := by
  have good := forms_good formed
  have some_ : fs.good ≠ 0#32 := ne_of_eq_of_ne good lanes
  have goes : ∀ go : State → State, (if q = 1#1 then s.relThen c 16 k.toNat (pubOf fs.parts) fs.code go else go s) =
      go (if q == 1#1 then s.released c k.toNat else s) := by
    intro go
    have passes := relThen_of_rel hr open_ 16 (pubOf fs.parts) fs.code go
    rw [escapeOf_false open_, if_neg Bool.false_ne_true] at passes
    simpa only [beq_iff_eq] using passes
  obtain ⟨no, v, t, numbered, did, ready⟩ := atomIssued_ready (n := 0#1) hi hr live (fun _ => logged) 3 (c.addrHash h a) fs
  have he : exec (.sc d a h z q k) s = _ := hi.issue rfl _
  dsimp only at he
  rw [if_neg lanes, room, if_neg Bool.false_ne_true, show sizeBytes z = 2 ^ z.toNat from rfl, formed.1] at he
  dsimp only at he
  rw [goes] at he
  simp only [if_true] at numbered did
  simp only [some_, if_false, numbered, did, if_true, pubOf_withData] at he
  exact issuesPending_of hi ready (atomIssued_keeps ..) some_ (fun l _ => forms_clean formed l) ⟨rfl, rfl, rfl⟩
    (fun _ => ⟨rfl, rfl, rfl, good, rfl, rfl⟩) he

end

theorem atomMode_of {c : Ctx} {o : BitVec 3} (typed : o = 4#3 ∨ o = 5#3 → tyOf c.g.m ≤ 1) : atomMode o c = true := by
  unfold atomMode
  by_cases minmax : o = 4#3 ∨ o = 5#3
  · simp [typed minmax]
  · obtain ⟨notMin, notMax⟩ := not_or.mp minmax
    simp [notMin, notMax]

/-- Each of the four ATOM majors runs with its order (R371). -/
theorem exec_atomRow {s : State} {c : Ctx} {d a : BitVec 7} {h : BitVec 4} {k : BitVec 3} {n : BitVec 1} {o : BitVec 3}
    {i : Instr} {acq rel : Bool} (row : (i, acq, rel) ∈ atomRows d a h k n o) (hi : MayIssue s c i)
    (typed : o = 4#3 ∨ o = 5#3 → tyOf c.g.m ≤ 1) : exec i s = .next (s.atomOp c d a h k n o ⟨acq, rel⟩) := by
  simp only [atomRows, List.mem_cons, Prod.mk.injEq, List.not_mem_nil, or_false] at row
  rcases row with ⟨rfl, rfl, rfl⟩ | ⟨rfl, rfl, rfl⟩ | ⟨rfl, rfl, rfl⟩ | ⟨rfl, rfl, rfl⟩ <;>
    exact hi.issue (atomMode_of typed) _

end Sys2Proof.Machine

namespace Sys2Proof.Proofs
open Sys2Proof.Machine

/-- Settles O26: what stands before a release decides between a wait, fault 0x0C and the state where the operation issues
(`exec_strl`, `relThen_of_rel`); from there each instruction leaves one operation to be performed (`issuesPending_of`). -/
theorem storesIssue : Obligations.StoresIssue := by
  unfold Obligations.StoresIssue
  intro s c d a h z k fs lanes bank open_
  refine ⟨?st, ?strl, ?waits, ?struck, ?atom, ?sc⟩
  case st =>
    exact fun hi formed room => storeOp_issues (f := id) hi hi.entered rfl formed lanes (exec_st bank room hi formed)
  case strl => exact fun hi formed room hr => strl_issues lanes bank room hi open_ formed hr
  case waits => exact fun hi room waits => strl_waits lanes room hi waits
  case struck =>
    exact fun hi formed room _ noWait noDelayed struck => strl_struck lanes bank room hi formed noWait noDelayed struck
  case atom =>
    exact fun i acq rel n o row hi formed typed room acquires hr live logged =>
      atomOp_issues lanes live hi open_ bank formed room acquires hr logged (exec_atomRow row hi typed)
  case sc =>
    intro q hi formed room hr live logged
    have issues := sc_issues lanes live hi open_ formed room (fun rel => hr (beq_iff_eq.mp rel)) logged
    rw [atomIssued_sc] at issues
    exact issues

end Sys2Proof.Proofs
end

section
/-! SUPPORT. Faults of data: poison that a predicate instruction meets (R217), and arithmetic events that trap (R305, R343). -/

namespace Sys2Proof.Machine

/-! ## Nothing is written where every lane fails -/

theorem and_not_codeMask_raise (m : Lanes) (k : Nat) :
    m &&& ~~~ codeMask (fun l => if m.getLsbD l then some k else none) = 0#32 := by
  rw [codeMask_raise]
  simp

theorem State.writeV_no_lanes (s : State) (c : Ctx) (d : Nat) (t : Tag) (f : Nat → Val) : s.writeV c d 0#32 t f = s := by
  simp [State.writeV]

theorem State.writeP_no_lanes (s : State) (gk p : Nat) (b : Lanes) : s.writeP gk p 0#32 b = s := by
  simp [State.writeP]

/-- No lane draws: at most the group is put back as it is. -/
theorem State.drew_no_lanes (s : State) (gk e : Nat) : s.drew gk 0#32 e = s ∨ s.drew gk 0#32 e = s.updGroup gk id := by
  unfold State.drew
  split
  · exact .inl rfl
  · refine .inr (congrArg (s.updGroup gk) (funext fun g => ?_))
    rw [lanesOf_zero]
    rfl

/-- Putting the issuing group back as it is does not show in a fault of the whole split outside a block. -/
theorem raiseAll_updGroup_id {s : State} {c : Ctx} (k : Nat) (lanes : c.sp.mask ≠ 0#32) (outside : c.wg.blocks = []) :
    (s.updGroup c.gk id).raiseAll c k = s.raiseAll c k := by
  have same : (s.updGroup c.gk id).divided c k = s.divided c k := State.updGroup_updGroup ..
  rw [raiseAll_outside k lanes outside, raiseAll_outside k lanes outside, same]

/-! ## Poison in the source of a predicate (R217) -/

section
variable {s : State} {c : Ctx} {i : Instr}

theorem Ctx.poisonUse_all {rs : List (BitVec 7)}
    (poisoned : ∀ l < 32, c.act.getLsbD l = true → ∃ r ∈ rs, (c.src r l).p.isSome = true) :
    c.poisonUse rs = fun l => if c.act.getLsbD l then some 9 else none := by
  funext l
  unfold Ctx.poisonUse
  cases on : c.act.getLsbD l with
  | false => rfl
  | true =>
    have found := List.any_eq_true.mpr (poisoned l (BitVec.lt_of_getLsbD on) on)
    simp [found]

/-- A predicate instruction whose lanes, the whole split, all meet poison raises fault 0x09 and writes nothing. -/
theorem predOut_poisoned (may : MayIssue s c i) (whole : c.act = c.sp.mask) {rs : List (BitVec 7)}
    (poisoned : ∀ l < 32, c.act.getLsbD l = true → ∃ r ∈ rs, (c.src r l).p.isSome = true) (p : BitVec 3) (f : Nat → Bool) :
    s.predOut c p (c.poisonUse rs) f = s.raiseAll c 9 := by
  unfold State.predOut
  rw [Ctx.poisonUse_all poisoned]
  dsimp only
  rw [and_not_codeMask_raise, State.writeP_no_lanes, whole, endInstr_all may.running]

/-! ## Arithmetic events (R305, R343) -/

theorem mget?_results (f : Nat → LaneRes) (l : Nat) :
    mget? (c.results f) l = if c.act.getLsbD l then some (f l) else none := by
  have entries : ∀ ls : List Nat, mget? (ls.map (fun l => (l, f l))) l = if l ∈ ls then some (f l) else none := by
    intro ls
    induction ls with
    | nil => rfl
    | cons k ls ih =>
      by_cases here : l = k
      · simp [mget?, here]
      · simp [mget?, here, ih]
  have on : l ∈ lanesOf c.act ↔ c.act.getLsbD l = true := mem_lanesOf.trans ⟨And.right, fun h => ⟨BitVec.lt_of_getLsbD h, h⟩⟩
  rw [Ctx.results, entries]
  simp only [on]

theorem trapped_all {f : Nat → LaneRes} (events : ∀ l < 32, c.act.getLsbD l = true → (f l).ev = true) :
    trapped (c.results f) 1#1 = fun l => if c.act.getLsbD l then some 0x0A else none := by
  funext l
  unfold trapped
  rw [mget?_results]
  cases on : c.act.getLsbD l with
  | false => rfl
  | true => simp [events l (BitVec.lt_of_getLsbD on) on]

/-- Results whose lanes, the whole split, all have an event that traps raise fault 0x0A, and nothing is written or drawn. -/
theorem putRes_trapped (may : MayIssue s c i) (outside : c.wg.blocks = []) (whole : c.act = c.sp.mask) {f : Nat → LaneRes}
    (events : ∀ l < 32, c.act.getLsbD l = true → (f l).ev = true) (d : BitVec 7) (n : Nat) (t : Nat → Tag) (e : Nat) :
    s.putRes c d n t 1#1 e (c.results f) = s.raiseAll c 0x0A := by
  have unwritten : (upto n).foldl (fun s j => s.writeV c (d.toNat + j) 0#32 (t j) (resWord (c.results f) j)) s = s := by
    simp only [State.writeV_no_lanes]
    exact List.foldlRecOn _ _ (motive := fun u : State => u = s) rfl fun _ h _ _ => h
  unfold State.putRes
  rw [trapped_all events]
  dsimp only
  rw [and_not_codeMask_raise, unwritten, whole]
  rcases s.drew_no_lanes c.gk e with drew | drew <;> rw [drew]
  · exact endInstr_all may.running
  · have running : (s.updGroup c.gk id).frozen c.wk = false := may.running
    exact (endInstr_all running).trans (raiseAll_updGroup_id _ may.lanes outside)

/-- A rounding instruction draws one word for each element under RND = SR (R306, R308, R354). -/
theorem fltLane_word (float : 6 ≤ tyOf c.g.m ∧ tyOf c.g.m ≤ 8) (rounds : Bool) (l e : Nat) :
    (if (if rounds then c.srCount else 0) = 0 then 0 else c.sr l e) = if rounds then c.drawnWord l e else 0 := by
  have some_ : tyCount (tyOf c.g.m) ≠ 0 := by
    obtain ⟨least, most⟩ := float
    interval_cases tyOf c.g.m <;> decide
  unfold Ctx.srCount Ctx.drawnWord
  cases rounds with
  | false => rfl
  | true => by_cases sr : rndOf c.g.m = 5 <;> simp [sr, some_]

/-- The operation of a list of source elements is the operation f of the elements by number. -/
def Takes (rs : List (BitVec 7)) (op : List FNum → NumOp) (f : (Nat → FNum) → NumOp) : Prop :=
  ∀ (x : BitVec 7 → Word) (h : Word → FNum), op (rs.map (fun r => h (x r))) = f (fun k => h ((rs.map x).getD k 0#32))

/-- A float instruction that writes at once has the events of its elements. -/
theorem fltLane_ev (float : 6 ≤ tyOf c.g.m ∧ tyOf c.g.m ≤ 8) {rs : List (BitVec 7)} {op : List FNum → NumOp}
    {f : (Nat → FNum) → NumOp} (takes : Takes rs op f) {rounds : Bool} {l : Nat}
    (event : ∃ e < tyCount (tyOf c.g.m), (floatElement c.g.m (fun e => if rounds then c.drawnWord l e else 0) f
      (fun k => (rs.map (fun r => (c.src r l).w)).getD k 0#32) e).ev = true) :
    (c.fltLane rs (if rounds then c.srCount else 0) op l).ev = true := by
  obtain ⟨e, below, ev⟩ := event
  have elem_ := takes (fun r => (c.src r l).w)
    (fun w => (tyFmt (tyOf c.g.m)).read (ftzOf c.g.m) (elem (tyWidth (tyOf c.g.m)) w e))
  refine List.any_eq_true.mpr ⟨_, List.mem_map.mpr ⟨e, List.mem_range.mpr below, rfl⟩, ?_⟩
  dsimp only
  rw [fltLane_word float, elem_]
  exact ev

/-- A float instruction that writes at once raises fault 0x0A where its lanes, the whole split, all have an event. -/
theorem fltOp_trapped (may : MayIssue s c i) (outside : c.wg.blocks = []) (whole : c.act = c.sp.mask)
    (float : 6 ≤ tyOf c.g.m ∧ tyOf c.g.m ≤ 8) {rs : List (BitVec 7)} {op : List FNum → NumOp} {f : (Nat → FNum) → NumOp}
    (takes : Takes rs op f) {rounds : Bool}
    (events : ∀ l < 32, c.act.getLsbD l = true → ∃ e < tyCount (tyOf c.g.m),
      (floatElement c.g.m (fun e => if rounds then c.drawnWord l e else 0) f
        (fun k => (rs.map (fun r => (c.src r l).w)).getD k 0#32) e).ev = true) (d : BitVec 7) :
    s.fltOp c d rs 1#1 rounds op = s.raiseAll c 0x0A :=
  putRes_trapped may outside whole (fun l below on => fltLane_ev float takes (events l below on)) ..

end

/-- What each row of the float instructions does with its sources (R354). -/
theorem floatRows_exec {d a b : BitVec 7} {t : BitVec 1} {rnd : Nat} {i : Instr} {rs : List (BitVec 7)}
    {f : (Nat → FNum) → NumOp} {rounds : Bool} (row : (i, rs, f, rounds) ∈ floatRows d a b t rnd) :
    ∃ op : Ctx → List FNum → NumOp, (∀ c : Ctx, rndOf c.g.m = rnd → Takes rs (op c) f) ∧
      ∀ s, exec i s = s.issue i Ctx.fltMode fun c => s.fltOp c d rs t rounds (op c) := by
  simp only [floatRows, List.mem_cons, Prod.mk.injEq, List.not_mem_nil, or_false] at row
  rcases row with ⟨rfl, rfl, rfl, rfl⟩ | ⟨rfl, rfl, rfl, rfl⟩ | ⟨rfl, rfl, rfl, rfl⟩ | ⟨rfl, rfl, rfl, rfl⟩ |
    ⟨rfl, rfl, rfl, rfl⟩ | ⟨rfl, rfl, rfl, rfl⟩
  · exact ⟨fun c => num2 (numAdd (rndOf c.g.m)), fun c same _ _ => by subst same; rfl, fun _ => rfl⟩
  · exact ⟨fun c => num2 (fun x y => numAdd (rndOf c.g.m) x y.neg), fun c same _ _ => by subst same; rfl, fun _ => rfl⟩
  · exact ⟨fun _ => num2 numMul, fun _ _ _ _ => rfl, fun _ => rfl⟩
  · exact ⟨fun c => num3 (numFma (rndOf c.g.m)), fun c same _ _ => by subst same; rfl, fun _ => rfl⟩
  · exact ⟨fun _ => num2 (fun x y => (numMin x y, false)), fun _ _ _ _ => rfl, fun _ => rfl⟩
  · exact ⟨fun _ => num2 (fun x y => (numMax x y, false)), fun _ _ _ _ => rfl, fun _ => rfl⟩

/-- The predicate instructions that read registers, and the mode each needs (R350, R353, R355). -/
theorem predicateRows_exec {p : BitVec 3} {a b : BitVec 7} {k : BitVec 4} {k3 : BitVec 3} {n : BitVec 11} {i : Instr}
    {rs : List (BitVec 7)}
    (row : (i, rs) ∈ [(Instr.pmask p a, [a]), (Instr.vcmp p a b k, [a, b]), (Instr.vcmpi k p a n, [a]),
      (Instr.vfcmp p a b k3, [a, b])]) {m : BitVec 16}
    (mode : i = .pmask p a ∨ tyOf m ≤ 1 ∧ i ≠ .vfcmp p a b k3 ∨ tyOf m = 6 ∧ i = .vfcmp p a b k3) :
    ∃ (ok : Ctx → Bool) (f : Ctx → Nat → Bool), (∀ c : Ctx, c.g.m = m → ok c = true) ∧
      ∀ s, exec i s = s.issue i ok fun c => s.predOut c p (c.poisonUse rs) (f c) := by
  simp only [List.mem_cons, Prod.mk.injEq, List.not_mem_nil, or_false] at row
  rcases row with ⟨rfl, rfl⟩ | ⟨rfl, rfl⟩ | ⟨rfl, rfl⟩ | ⟨rfl, rfl⟩
  · exact ⟨anyMode, _, fun _ _ => rfl, fun _ => rfl⟩
  · have ty : tyOf m ≤ 1 := by simpa using mode
    exact ⟨Ctx.cmpMode, _, fun c same => by simp [Ctx.cmpMode, same, ty], fun _ => rfl⟩
  · have ty : tyOf m ≤ 1 := by simpa using mode
    exact ⟨Ctx.cmpMode, _, fun c same => by simp [Ctx.cmpMode, same, ty], fun _ => rfl⟩
  · have ty : tyOf m = 6 := by simpa using mode
    exact ⟨Ctx.f32Mode, _, fun c same => by simp [Ctx.f32Mode, same, ty], fun _ => rfl⟩

end Sys2Proof.Machine

namespace Sys2Proof.Proofs
open Sys2Proof.Machine

/-- Settles O11: where all lanes of the split fail with one code, the lanes that write are none, and the end of the instruction is
the fault of the whole split. -/
theorem dataFaults : Obligations.DataFaults := by
  unfold Obligations.DataFaults
  refine ⟨?_, ?_⟩
  · intro s c p a b k k3 n i rs row may mode outside whole poisoned
    obtain ⟨ok, f, accepts, does⟩ := predicateRows_exec row mode
    rw [does, may.issue (accepts c rfl), predOut_poisoned may whole poisoned]
  · intro s c d a b i rs f rounds row may least most outside whole events
    obtain ⟨op, takes, does⟩ := floatRows_exec row
    have mode : c.fltMode = true := by simp [Ctx.fltMode, fltTy, least, most]
    rw [does, may.issue mode, fltOp_trapped may outside whole ⟨least, most⟩ (takes c rfl) events]

end Sys2Proof.Proofs
end

section
/-! SUPPORT. What writes of the device's own units and the end of a launch leave alone: which dies, stacks and controllers have
failed (R228 to R230). -/

namespace Sys2Proof.Machine

/-- The tags of the dies, the stacks and the controllers that have failed. -/
def State.failed (s : State) : Map PTag × Map PTag × Map PTag := (s.mm.deadDie, s.mm.deadStack, s.mm.deadCtl)

theorem State.deadDie_of_failed {s t : State} (h : t.failed = s.failed) : t.mm.deadDie = s.mm.deadDie := congrArg (·.1) h

theorem State.deadStack_of_failed {s t : State} (h : t.failed = s.failed) : t.mm.deadStack = s.mm.deadStack :=
  congrArg (·.2.1) h

theorem State.failed_ite {c : Prop} [Decidable c] {s t u : State} (h : t.failed = s.failed) (h' : u.failed = s.failed) :
    (if c then t else u).failed = s.failed := by
  split
  · exact h
  · exact h'

/-- What every step of a fold leaves, the fold leaves. -/
theorem State.failed_foldl {α : Type} {f : State → α → State} (h : ∀ s a, (f s a).failed = s.failed) (l : List α) (s : State) :
    (l.foldl f s).failed = s.failed :=
  List.foldlRecOn l f (motive := fun t : State => t.failed = s.failed) rfl fun t ht a _ => (h t a).trans ht

/-! ## Small updates, and records

A proof (rfl) keeps simp from using the equation as a definitional one, which the kernel would check by unfolding states. -/

@[simp] theorem State.flipBit_failed (s : State) (ln b : Nat) : (s.flipBit ln b).failed = s.failed := (rfl)
@[simp] theorem State.updLine_failed (s : State) (ln : Nat) (f : Line → Line) : (s.updLine ln f).failed = s.failed := (rfl)
@[simp] theorem State.dropDie_failed (s : State) (d ln : Nat) : (s.dropDie d ln).failed = s.failed := (rfl)
@[simp] theorem State.keepV_failed (s : State) (d ln : Nat) : (s.keepV d ln).failed = s.failed := (rfl)
@[simp] theorem State.draw_failed (s : State) (n : Nat) : (s.draw n).failed = s.failed := (rfl)
@[simp] theorem State.setReg_failed (s : State) (n : Nat) (v : BitVec 64) : (s.setReg n v).failed = s.failed := (rfl)
@[simp] theorem State.setCq_failed (s : State) (c : Nat) (x : Cq) : (s.setCq c x).failed = s.failed := (rfl)
@[simp] theorem State.dropAnchor_failed (s : State) (p : Nat → Bool) : (s.dropAnchor p).failed = s.failed := (rfl)
@[simp] theorem State.endLaunch_failed (s : State) (lk code : Nat) : (s.endLaunch lk code).failed = s.failed := (rfl)

theorem State.Offered.failed {s t : State} (h : s.Offered t) : t.failed = s.failed := by
  obtain ⟨_, rfl⟩ := h
  rfl

@[simp] theorem State.emitL_failed (s : State) (l : Launch) (die c i k pl : Nat) : (s.emitL l die c i k pl).failed = s.failed :=
  State.failed_ite (s.emitTo_offered ..).failed rfl

@[simp] theorem State.emitBlock_failed (s : State) (wk what cause depth : Nat) :
    (s.emitBlock wk what cause depth).failed = s.failed := by
  unfold State.emitBlock
  split
  · rfl
  · split
    · rfl
    · split
      · rfl
      · exact s.emitL_failed ..

@[simp] theorem State.dropFlaws_failed (s : State) (p : FlawAt → Bool) : (s.dropFlaws p).failed = s.failed := by
  rw [State.dropFlaws_eq]
  rfl

@[simp] theorem State.toHost_failed (s : State) (p : Tlp) : (s.toHost p).failed = s.failed := by
  unfold State.toHost
  split
  · rfl
  · split <;> rfl

@[simp] theorem State.interrupt_failed (s : State) (n : Nat) : (s.interrupt n).failed = s.failed :=
  State.failed_ite rfl (s.toHost_failed _)

@[simp] theorem State.wantPass_failed (s : State) (p : Nat) : (s.wantPass p).failed = s.failed :=
  State.failed_ite rfl rfl

/-! ## Writes at homes (R155), and error records (R219) -/

@[simp] theorem State.takeBack_failed (s : State) (ln : Nat) : (s.takeBack ln).1.failed = s.failed := by
  unfold State.takeBack
  dsimp only
  split
  · rfl
  · split <;> rfl

@[simp] theorem State.bumpVersion_failed (s : State) (ln : Nat) : (s.bumpVersion ln).failed = s.failed :=
  State.failed_ite rfl rfl

@[simp] theorem State.loseResv_failed (s : State) (ln : Nat) : (s.loseResv ln).failed = s.failed :=
  State.failed_ite rfl rfl

@[simp] theorem State.recalled_failed (s : State) (ln : Nat) : (s.recalled ln).failed = s.failed := by
  unfold State.recalled
  split <;> simp

@[simp] theorem State.merged_failed (s : State) (ln pa : Nat) (bs : List Byte) (p : Option PTag) :
    (s.merged ln pa bs p).failed = s.failed :=
  State.failed_ite (State.dropFlaws_failed ..) rfl

@[simp] theorem State.homeWriteLine_failed (s : State) (pa : Nat) (bs : List Byte) (p : Option PTag) :
    (s.homeWriteLine pa bs p).failed = s.failed := by
  rw [State.homeWriteLine_eq]
  split <;> simp

@[simp] theorem State.homeWrite_failed (s : State) (pa : Nat) (bs : List Byte) (p : Option PTag) :
    (s.homeWrite pa bs p).failed = s.failed :=
  State.failed_foldl (fun _ _ => State.homeWriteLine_failed ..) _ s

theorem State.setRel_failed (s : State) (r : Rel) : ({ s with rel := r } : State).failed = s.failed := (rfl)

@[simp] theorem State.recStore_failed (s : State) (i : Nat) : (s.recStore i).failed = s.failed := by
  unfold State.recStore
  dsimp only
  split
  · exact (State.setRel_failed ..).trans (s.homeWrite_failed ..)
  · exact State.failed_ite rfl rfl

@[simp] theorem State.record_failed (s : State) (cls kind sev : Nat) (inj : Bool) (addr unit space synd : Nat)
    (o : Option (Nat × Nat)) : (s.record cls kind sev inj addr unit space synd o).2.failed = s.failed := by
  have stored : ∀ (u : State) i r, ((u.setRec i r).recStore i).failed = u.failed := fun u i r => State.recStore_failed ..
  have told : ∀ u : State, (u.errMessage sev).failed = u.failed := fun u => State.failed_ite (u.interrupt_failed _) rfl
  have fresh : ∀ (u : State) k, (State.record.go cls kind sev inj addr unit space synd o u k).2.failed = u.failed :=
    fun u k => ((State.emitErr_offered ..).failed.trans (told _)).trans (stored ..)
  unfold State.record
  dsimp only
  split
  · split
    · exact (State.emitErr_offered ..).failed.trans (stored ..)
    · exact fresh ..
  · exact fresh ..

/-! ## Recalls, and what they find (R157, R208, R224) -/

@[simp] theorem State.sendLine_failed (s : State) (d ln : Nat) : (s.sendLine d ln).failed = s.failed := by
  unfold State.sendLine State.findFlaw
  cases s.flaw (.net d ln) with
  | none => rfl
  | some f => cases hard : f.fixed <;> simp [hard]

@[simp] theorem State.checkSlice_failed (s : State) (d ln : Nat) : (s.checkSlice d ln).failed = s.failed := by
  unfold State.checkSlice
  split
  · rfl
  · dsimp only
    split
    · simp
    · split <;> simp

@[simp] theorem State.dropCore_failed (s : State) (c ln : Nat) : (s.dropCore c ln).failed = s.failed :=
  State.failed_ite rfl rfl

@[simp] theorem State.checkCopy_failed (s : State) (c ln : Nat) : (s.checkCopy c ln).failed = s.failed := by
  unfold State.checkCopy
  split
  · rfl
  · dsimp only
    split
    · simp
    · split
      · simp
      · split <;> simp

@[simp] theorem State.checkOwn_failed (s : State) (d ln : Nat) : (s.checkOwn d ln).failed = s.failed := by
  unfold State.checkOwn
  cases (s.line ln).mcore with
  | none => exact State.failed_ite rfl (s.checkSlice_failed ..)
  | some c => exact State.failed_ite (s.checkCopy_failed ..) (by simp)

@[simp] theorem State.inject_failed (s : State) (ln target die : Nat) : (s.inject ln target die).2.2.failed = s.failed := by
  have noted : ∀ kind unit bit k v, ((s.record 7 0x06 kind true (ln * 128) unit 0 bit none).2.setReg k v).failed = s.failed :=
    fun _ _ _ _ _ => by simp
  unfold State.inject
  dsimp only
  split
  · split
    · exact State.failed_ite ((State.updLine_failed ..).trans (noted ..)) (noted ..)
    · split <;> exact noted ..
  · rfl

@[simp] theorem State.recall_failed (s : State) (ln : Nat) : (s.recall ln).1.failed = s.failed := by
  unfold State.recall
  cases (s.line ln).owner with
  | none => rfl
  | some d =>
    dsimp only
    split
    · simp
    · exact (State.keepV_failed ..).trans (State.failed_ite (by simp) (by simp))

@[simp] theorem State.devWrite_failed (s : State) (pa n v : Nat) : (s.devWrite pa n v).failed = s.failed :=
  State.failed_foldl (fun _ _ => by simp) _ s

/-! ## Queues, completion queues and launches (R61, R70, R71, R78, R104) -/

@[simp] theorem State.syncQ_failed (s : State) (q : Nat) : (s.syncQ q).failed = s.failed :=
  State.failed_ite rfl (s.devWrite_failed ..)

@[simp] theorem State.updQueue_failed (s : State) (q : Nat) (f : Queue → Queue) : (s.updQueue q f).failed = s.failed :=
  State.syncQ_failed ..

@[simp] theorem State.coalesce_failed (s : State) (c : Nat) : (s.coalesce c).failed = s.failed :=
  State.failed_ite (State.interrupt_failed ..) rfl

@[simp] theorem State.cqWrite_failed (s : State) (c lo : Nat) : (s.cqWrite c lo).failed = s.failed :=
  State.failed_ite (s.toHost_failed _) (s.devWrite_failed ..)

@[simp] theorem State.cqDrain_failed (s : State) (c fuel : Nat) : (s.cqDrain c fuel).failed = s.failed := by
  induction fuel generalizing s with
  | zero => rfl
  | succ fuel ih =>
    unfold State.cqDrain
    dsimp only
    split
    · rfl
    · refine State.failed_ite ?_ rfl
      rw [ih, State.coalesce_failed]
      split <;> simp

@[simp] theorem State.cqStalls_failed (s : State) : s.cqStalls.failed = s.failed :=
  State.failed_foldl (fun s _ => State.failed_ite rfl (s.updQueue_failed ..)) _ s

@[simp] theorem State.postErr_failed (s : State) (q tag err ix : Nat) : (s.postErr q tag err ix).failed = s.failed := by
  unfold State.postErr State.postCq State.postTo
  simp

@[simp] theorem State.queueError_failed (s : State) (q code tag ix : Nat) : (s.queueError q code tag ix).failed = s.failed :=
  (State.postErr_failed ..).trans (State.updQueue_failed ..)

@[simp] theorem State.unblock_failed (s : State) (q : Nat) : (s.unblock q).failed = s.failed :=
  State.failed_ite (s.updQueue_failed ..) (s.syncQ_failed q)

@[simp] theorem State.resetGang_failed (s : State) (nk : Nat) : (s.resetGang nk).failed = s.failed := by
  unfold State.resetGang
  split
  · rfl
  · split
    · rfl
    · exact (State.emitL_failed ..).trans
        (State.failed_foldl (fun s _ => State.failed_foldl (fun s _ => s.emitBlock_failed ..) _ s) _ s)

@[simp] theorem State.destroyLaunch_failed (s : State) (lk code : Nat) : (s.destroyLaunch lk code).failed = s.failed := by
  unfold State.destroyLaunch
  split
  · rfl
  · have reset := State.failed_foldl (fun s nk => s.resetGang_failed nk) (mkeys (s.gangs.filter (fun e => e.2.launch == lk))) s
    exact (State.wantPass_failed ..).trans ((State.unblock_failed ..).trans
      ((State.postErr_failed ..).trans ((State.endLaunch_failed _ lk code).trans reset)))

@[simp] theorem State.loseWaiters_failed (s : State) (st : Nat) : (s.loseWaiters st).failed = s.failed := by
  refine State.failed_foldl (fun s w => ?_) _ _
  split
  · split
    · simp
    · rfl
  · simp

end Sys2Proof.Machine
end

section
/-! SUPPORT. The failures of dies and controllers (R228, R230): what a die that fails leaves of the lines it owns, and a home that
fails of the lines it keeps. -/

namespace Sys2Proof.Machine

/-! ## Moves that leave the memory system (R92, R158) -/

theorem State.mm_foldl {α : Type} {f : State → α → State} (h : ∀ s a, (f s a).mm = s.mm) (l : List α) (s : State) :
    (l.foldl f s).mm = s.mm :=
  List.foldlRecOn l f (motive := fun t : State => t.mm = s.mm) rfl fun t ht a _ => (h t a).trans ht

theorem State.mm_ite {c : Prop} [Decidable c] {s t u : State} (h : t.mm = s.mm) (h' : u.mm = s.mm) :
    (if c then t else u).mm = s.mm := by
  split
  · exact h
  · exact h'

theorem State.emitL_mm (s : State) (l : Launch) (die c i k pl : Nat) : (s.emitL l die c i k pl).mm = s.mm :=
  State.mm_ite (State.mm_ite rfl rfl) rfl

/-- A strike is the group's and Peal's alone (R160, R235). -/
theorem State.strike_mm (s : State) (g n cause : Nat) : (s.strike g n cause).mm = s.mm := by
  unfold State.strike
  split
  · rfl
  · split
    · rfl
    · dsimp only
      split
      · rfl
      · split
        · rfl
        · split
          · rfl
          · exact State.emitL_mm ..

theorem State.strikeLost_mm (s : State) (ln : Nat) : (s.strikeLost ln).mm = s.mm :=
  State.mm_foldl (fun s _ => State.mm_ite (State.mm_foldl (fun s _ => s.strike_mm ..) _ s) rfl) _ s

theorem State.wantPass_mm (s : State) (p : Nat) : (s.wantPass p).mm = s.mm := State.mm_ite rfl rfl

theorem State.endLaunch_mm (s : State) (lk code : Nat) : (s.endLaunch lk code).mm = s.mm := rfl

theorem State.endUnfit_mm (s : State) (p : Nat) : (s.endUnfit p).mm = s.mm := by
  unfold State.endUnfit
  exact State.mm_foldl (fun (s : State) (e : Nat × Launch) => State.mm_ite (s.endLaunch_mm e.1 3) rfl) _ s

/-- A change of CPARTn is the dispatcher's alone (R92, R100). -/
theorem State.setCpart_mm (s : State) (n : Nat) (v : BitVec 64) : (s.setCpart n v).mm = s.mm :=
  State.mm_foldl (fun s p => ((s.endUnfit p).wantPass_mm p).trans (s.endUnfit_mm p)) _ (s.setReg (0x100 + n) v)

theorem State.line_congr {s t : State} (h : t.mm = s.mm) (ln : Nat) : t.line ln = s.line ln := by
  unfold State.line
  rw [h]

/-! ## A line that a die gives back -/

/-- A line record after a die has given its line back (R157). -/
theorem State.takeBack_line (s : State) (n k : Nat) : (s.takeBack n).1.line k =
    if k = n ∧ (s.line n).owner.isSome = true then (s.line n).givenBack else s.line k := by
  cases owned : (s.line n).owner with
  | none => simp [State.takeBack_unowned owned]
  | some d =>
    have given : ∀ u : State, u.mm.lines = s.mm.lines →
        (u.setLine n (s.line n).givenBack).line k = if k = n then (s.line n).givenBack else s.line k := fun u same => by
      have before : u.line k = s.line k := by unfold State.line; rw [same]
      rw [State.line_setLine, before]
    unfold State.takeBack
    simp only [owned, Option.isSome_some, and_true]
    split
    · exact given _ rfl
    · exact given _ rfl

theorem State.dropCopies_line (s : State) (n k : Nat) : (s.dropCopies n).line k = s.line k := rfl

theorem State.bumpVersion_line_other (s : State) {n k : Nat} (other : k ≠ n) : (s.bumpVersion n).line k = s.line k := by
  unfold State.bumpVersion
  dsimp only
  split <;> simp [State.dropCopies_line, State.line_setLine, other]

theorem State.bumpVersion_owner (s : State) (n : Nat) : ((s.bumpVersion n).line n).owner = (s.line n).owner := by
  unfold State.bumpVersion
  dsimp only
  split <;> simp [State.dropCopies_line, State.line_setLine]

/-! ## The lines of a die that fails (R228 step 2) -/

/-- A failed die's line of entry e is taken back, and a modified one is lost: its watches are struck, and it is poisoned with the
tag of the failure. -/
def State.reclaim (t : PTag) (s : State) (e : Nat × Line) : State :=
  let s := if e.2.dirty then s.strikeLost e.1 else s
  let s := (s.takeBack e.1).1
  if e.2.dirty then (s.bumpVersion e.1).updLine e.1 (fun x => { x with pois := tagMin (some t) x.pois }) else s

theorem tagMin_some_isSome (t : PTag) (p : Option PTag) : (tagMin (some t) p).isSome = true := by
  cases p <;> rfl

theorem State.reclaim_line_other (t : PTag) (s : State) {e : Nat × Line} {k : Nat} (other : k ≠ e.1) :
    (s.reclaim t e).line k = s.line k := by
  have back : ∀ u : State, (u.takeBack e.1).1.line k = u.line k := fun u => by simp [State.takeBack_line, other]
  unfold State.reclaim
  cases dirty : e.2.dirty with
  | false => exact back s
  | true =>
    exact ((State.line_setLine ..).trans (if_neg other)).trans ((State.bumpVersion_line_other _ other).trans
      ((back _).trans (State.line_congr (s.strikeLost_mm _) k)))

theorem State.reclaim_owner (t : PTag) (s : State) (e : Nat × Line) : ((s.reclaim t e).line e.1).owner = none := by
  have back : ∀ u : State, ((u.takeBack e.1).1.line e.1).owner = none := fun u => by
    rw [State.takeBack_line]
    cases owned : (u.line e.1).owner <;> simp [owned, Line.givenBack]
  unfold State.reclaim
  cases dirty : e.2.dirty with
  | false => exact back s
  | true =>
    refine (congrArg Line.owner ((State.line_setLine ..).trans (if_pos rfl))).trans ?_
    exact (State.bumpVersion_owner ..).trans (back _)

theorem State.reclaim_pois (t : PTag) (s : State) {e : Nat × Line} (dirty : e.2.dirty = true) :
    ((s.reclaim t e).line e.1).pois.isSome = true := by
  unfold State.reclaim
  simp only [dirty, if_true]
  rw [State.updLine, State.line_setLine, if_pos rfl]
  exact tagMin_some_isSome ..

/-- A line that has poison keeps it as the lines are taken back. -/
theorem State.reclaim_pois_kept (t : PTag) {s : State} {n : Nat} (poisoned : (s.line n).pois.isSome = true) (e : Nat × Line) :
    ((s.reclaim t e).line n).pois.isSome = true := by
  by_cases other : n ≠ e.1
  · rwa [State.reclaim_line_other t s other]
  · obtain rfl := not_not.mp other
    cases dirty : e.2.dirty with
    | true => exact State.reclaim_pois t s dirty
    | false =>
      unfold State.reclaim
      simp only [dirty, Bool.false_eq_true, if_false]
      rw [State.takeBack_line]
      split
      · exact poisoned
      · exact poisoned

theorem State.reclaim_owner_kept (t : PTag) {s : State} {n : Nat} (free : (s.line n).owner = none) (e : Nat × Line) :
    ((s.reclaim t e).line n).owner = none := by
  by_cases other : n ≠ e.1
  · rwa [State.reclaim_line_other t s other]
  · obtain rfl := not_not.mp other
    exact State.reclaim_owner t s e

theorem State.reclaim_failed (t : PTag) (s : State) (e : Nat × Line) : (s.reclaim t e).failed = s.failed := by
  have struck : ∀ ln, (s.strikeLost ln).failed = s.failed := fun ln => by unfold State.failed; rw [State.strikeLost_mm]
  unfold State.reclaim
  cases dirty : e.2.dirty <;> simp [struck]

theorem State.reclaim_lodging (t : PTag) (s : State) (e : Nat × Line) : (s.reclaim t e).lodging = s.lodging := by
  unfold State.reclaim
  cases dirty : e.2.dirty <;> simp

/-- What one step of a fold brings about and every step keeps holds at its end. -/
theorem foldl_brings {α β : Type} {f : β → α → β} {P : β → Prop} (keeps : ∀ x a, P x → P (f x a)) {l : List α} {a : α} (mem : a ∈ l)
    (brings : ∀ x, P (f x a)) (x : β) : P (l.foldl f x) := by
  obtain ⟨before, after, rfl⟩ := List.append_of_mem mem
  rw [List.foldl_append, List.foldl_cons]
  exact List.foldlRecOn after f (brings _) fun x hx a _ => keeps x a hx

/-- The record of a line that a die owns is in the table. -/
theorem State.line_mem {s : State} {ln d : Nat} (owned : (s.line ln).owner = some d) : (ln, s.line ln) ∈ s.mm.lines := by
  unfold State.line mgetD at owned ⊢
  cases at_ : mget? s.mm.lines ln with
  | none => rw [at_] at owned; exact absurd owned nofun
  | some x => exact mget?_mem at_

/-- Every line of die d is taken back. -/
def State.relieved (s : State) (d : Nat) (t : PTag) : State :=
  (s.mm.lines.filter (fun e => e.2.owner == some d)).foldl (State.reclaim t) s

/-- The die owns no line then, and those that it had modified are poisoned. -/
theorem State.relieved_line {s : State} {d n : Nat} (t : PTag) (owned : (s.line n).owner = some d) :
    ((s.relieved d t).line n).owner = none ∧
      ((s.line n).dirty = true → ((s.relieved d t).line n).pois.isSome = true) := by
  have mem : (n, s.line n) ∈ s.mm.lines.filter (fun e => e.2.owner == some d) :=
    List.mem_filter.mpr ⟨State.line_mem owned, by simp [owned]⟩
  exact ⟨foldl_brings (P := fun u : State => (u.line n).owner = none) (fun _ e free => State.reclaim_owner_kept t free e) mem
      (fun u => State.reclaim_owner t u (n, s.line n)) s,
    fun dirty => foldl_brings (P := fun u : State => (u.line n).pois.isSome = true)
      (fun _ e poisoned => State.reclaim_pois_kept t poisoned e) mem (fun u => State.reclaim_pois t u dirty) s⟩

theorem State.relieved_failed (s : State) (d : Nat) (t : PTag) : (s.relieved d t).failed = s.failed :=
  State.failed_foldl (State.reclaim_failed t) _ s

theorem State.relieved_lodging (s : State) (d : Nat) (t : PTag) : (s.relieved d t).lodging = s.lodging :=
  State.lodging_foldl (State.reclaim_lodging t) _ s

/-! ## A die fails (R228) -/

/-- The state in which die d is dead, with tag t (R228 step 1). -/
def State.buried (s : State) (d : Nat) (t : PTag) : State :=
  s.setMM { s.mm with deadDie := mput s.mm.deadDie d t }

/-- The copies of a dead die are gone, and the reservations of its groups. -/
def State.cleared (s : State) (d : Nat) : State :=
  let s := s.setMM { s.mm with
    vcopy := s.mm.vcopy.filter (fun e => e.1 / 2 ^ 44 != d)
    wcopy := s.mm.wcopy.filter (fun e => (e.1 / 2 ^ 44) / 48 != d)
    icache := s.mm.icache.filter (fun e => (e.1 / 2 ^ 44) / 48 != d) }
  { s with groups := mmap s.groups (fun _ g => if g.die = d then { g with resv := [] } else g) }

/-- The cores of a dead die leave their partitions (R228 step 3). -/
def State.withdrawn (s : State) (d : Nat) : State :=
  (upto 48).foldl (fun s c => s.setCpart (d * 48 + c) (setBits (s.reg (0x100 + d * 48 + c)) 4 4 0)) s

theorem State.withdrawn_mm (s : State) (d : Nat) : (s.withdrawn d).mm = s.mm :=
  State.mm_foldl (fun s _ => s.setCpart_mm ..) _ s

/-- The failure of a die step by step, where there is no gang to be reset (R228). -/
theorem State.failDie_eq {s : State} {d : Nat} (alive : mget? s.mm.deadDie d = none) (idle : s.gangs = []) :
    s.failDie d =
      let r := s.record 6 0x07 3 false 0 (d * 48) 0 0 none
      (((r.2.buried d (mkTag 6 r.1)).relieved d (mkTag 6 r.1)).cleared d).withdrawn d := by
  have none_ : ∀ (u : State) t, u.lodging = s.lodging → (u.relieved d t).gangs = [] := fun u t same =>
    (State.gangs_of_lodging ((u.relieved_lodging d t).trans same)).trans idle
  unfold State.failDie
  rw [alive]
  change List.foldl _ _ (dedup (List.filterMap _ (State.relieved _ d _).gangs)) = _
  rw [none_]
  · rfl
  · exact State.record_lodging ..

/-- A die that fails is dead; it owns no line, and those that it had modified are poisoned (R228). -/
theorem State.failDie_leaves {s : State} {d : Nat} (held : s.fld 0x23 0 0 = 0) (alive : mget? s.mm.deadDie d = none)
    (idle : s.gangs = []) :
    (mget? (s.failDie d).mm.deadDie d).isSome = true ∧
      ∀ ln, (s.line ln).owner = some d → ((s.failDie d).line ln).owner = none ∧
        ((s.line ln).dirty = true → ((s.failDie d).line ln).pois.isSome = true) := by
  rw [State.failDie_eq alive idle]
  dsimp only
  have logged := (State.record_logged held 6 0x07 3 false 0 (d * 48) 0 0 none).mm
  generalize s.record 6 0x07 3 false 0 (d * 48) 0 0 none = r at logged ⊢
  obtain ⟨k, u⟩ := r
  dsimp only at logged ⊢
  have dead : ((u.buried d (mkTag 6 k)).relieved d (mkTag 6 k)).mm.deadDie = (u.buried d (mkTag 6 k)).mm.deadDie :=
    State.deadDie_of_failed (State.relieved_failed ..)
  have lines : ∀ (v : State) ln, ((v.cleared d).withdrawn d).line ln = v.line ln := fun v ln =>
    State.line_congr (State.withdrawn_mm ..) ln
  have before : ∀ ln, (u.buried d (mkTag 6 k)).line ln = s.line ln := fun ln => State.line_congr logged ln
  refine ⟨?_, fun ln owned => ?_⟩
  · rw [State.withdrawn_mm]
    change (mget? ((u.buried d (mkTag 6 k)).relieved d (mkTag 6 k)).mm.deadDie d).isSome = true
    rw [dead]
    exact congrArg Option.isSome (mget?_mput_same ..)
  · have left := State.relieved_line (mkTag 6 k) ((congrArg Line.owner (before ln)).trans owned)
    rw [before] at left
    rwa [lines]

/-! ## A stack or a controller fails (R229, R230) -/

theorem State.salvageHeader_failed (s : State) : s.salvageHeader.failed = s.failed := by
  unfold State.salvageHeader
  exact State.devWrite_failed ..

/-- A stack that fails is dead (R229). -/
theorem State.failStack_dead {s : State} {k : Nat} (alive : mget? s.mm.deadStack k = none) :
    (mget? (s.failStack k).mm.deadStack k).isSome = true := by
  have kept : ∀ u : State, ((u.loseWaiters k).salvageHeader).mm.deadStack = u.mm.deadStack := fun u =>
    State.deadStack_of_failed ((State.salvageHeader_failed _).trans (u.loseWaiters_failed k))
  unfold State.failStack
  rw [alive]
  simp only [Option.isSome_none, Bool.false_eq_true, if_false]
  rw [kept, State.setMM_mm, mget?_mput_same]
  rfl

/-- A line of a home that is cut off has no owner (R229 step 2). -/
theorem State.cutHome_owner (s : State) {home ln : Nat} (at_ : homeOf (ln * 128) = home) :
    ((s.cutHome home).line ln).owner = none := by
  unfold State.cutHome State.line mgetD
  dsimp only
  rw [State.setMM_mm, mget?_mmap]
  cases mget? _ ln with
  | none => rfl
  | some x => simp [at_]

/-- A controller that fails is dead, and no line that it keeps has an owner (R230). -/
theorem State.failController_leaves {s : State} {c : Nat} (alive : mget? s.mm.deadCtl c = none) :
    (mget? (s.failController c).mm.deadCtl c).isSome = true ∧
      ∀ ln, homeOf (ln * 128) = 8 + c → ((s.failController c).line ln).owner = none := by
  unfold State.failController
  rw [alive]
  simp only [Option.isSome_none, Bool.false_eq_true, if_false]
  refine ⟨?_, fun ln at_ => ?_⟩
  · rw [State.setMM_mm, mget?_mput_same]
    rfl
  · exact State.cutHome_owner (s.record 1 0x08 3 false 0 (254 + c) 0 0 none).2 at_

end Sys2Proof.Machine
end

section
/-! SUPPORT. The error registers: records, injection and the scrubber (R219 to R225), and the statement of their events. -/

namespace Sys2Proof.Machine

/-! ## Records (R219, R222) -/

/-- Before ERRBASE is enabled a record is freed where it is held (R222). -/
theorem State.freeRec_held {s : State} (held : s.fld 0x23 0 0 = 0) {i : Nat} {r : ErrRec} (at_ : mget? s.rel.recs i = some r) :
    s.freeRec i = { s with rel := { s.rel with
      recs := mput s.rel.recs i { r with valid := false, ovf := false, count := 0 }
      heldR := s.rel.heldR.filter (· != i) } } := by
  unfold State.freeRec
  rw [at_]
  exact if_neg (by change ¬ s.fld 0x23 0 0 = 1; omega)

theorem State.writeErrbase_none {s : State} (none_ : s.rel.heldR = []) (v : BitVec 64) :
    s.writeErrbase v = s.setReg 0x23 (v &&& 0x1FFFFFFC0001#64) := by
  have nothing : (s.setReg 0x23 (v &&& 0x1FFFFFFC0001#64)).rel.heldR = [] := none_
  unfold State.writeErrbase
  dsimp only
  rw [nothing]
  exact ite_self _

/-! ## Injection (R223) -/

/-- The fields of INJ_CTL that a write sets. -/
theorem b64_injCtl (v old : BitVec 64) {hi lo : Nat} (writes : b64 0xFFC00327#64 hi lo = 2 ^ (hi + 1 - lo) - 1)
    (keeps : b64 0x3FF800#64 hi lo = 0) :
    b64 ((v &&& 0xFFC00327#64) ||| (old &&& 0x3FF800#64 &&& ~~~(v &&& 0x1800#64))) hi lo = b64 v hi lo := by
  rw [b64_or, b64_and_ones v writes, b64_and, b64_and, keeps, Nat.and_zero, Nat.zero_and, Nat.or_zero]

/-- The kind and the place of the injection that v asks for are allowed (R223). -/
def State.armable (s : State) (v : BitVec 64) : Prop := b64 v 2 1 ≠ 3 ∧ paReachable (s.fld 0x26 47 7 * 128) = true

section
variable {s : State} {v : BitVec 64}

theorem State.writeInjCtl_rest : ({ s.writeInjCtl v with regs := s.regs } : State) = s := rfl

theorem State.writeInjCtl_arms (ok : s.armable v) {hi lo : Nat} (writes : b64 0xFFC00327#64 hi lo = 2 ^ (hi + 1 - lo) - 1)
    (keeps : b64 0x3FF800#64 hi lo = 0) : (s.writeInjCtl v).fld 0x27 hi lo = b64 v hi lo := by
  obtain ⟨kind, place⟩ := ok
  unfold State.writeInjCtl State.fld at *
  simp only [kind, place, decide_false, Bool.not_true, Bool.or_self, Bool.and_false, Bool.false_eq_true, if_false,
    State.reg_setReg_same]
  exact b64_injCtl v _ writes keeps

/-- A refused arming leaves ARM at 0 and sets ERR (R223). -/
theorem State.writeInjCtl_refuses (arm : b64 v 0 0 = 1) (no : ¬ s.armable v) :
    (s.writeInjCtl v).fld 0x27 0 0 = 0 ∧ (s.writeInjCtl v).fld 0x27 11 11 = 1 := by
  have refused : (decide (b64 v 0 0 = 1) && (decide (b64 v 2 1 = 3) || !paReachable (s.fld 0x26 47 7 * 128))) = true := by
    unfold State.armable at no
    by_cases kind : b64 v 2 1 = 3
    · simp [arm, kind]
    · simpa [arm, kind] using no
  unfold State.writeInjCtl
  dsimp only
  rw [if_pos refused]
  unfold State.fld
  rw [State.reg_setReg_same]
  refine ⟨?_, ?_⟩
  · rw [b64_setBits_other _ _ (by decide) (by decide) (.inl (by decide))]
    exact b64_setBits_same _ _ (by decide) (by decide)
  · exact b64_setBits_same _ _ (by decide) (by decide)

end

/-! ## The scrubber (R225) -/

theorem State.scrubAt_clean {s : State} (clean : s.rel.latent = []) (ln : Nat) (die : Option Nat) : s.scrubAt ln die = s := by
  unfold State.scrubAt
  simp only [State.flaw_none clean]

/-- The scrubber's next line, within stacked DRAM. -/
theorem scrubNext_next {ln : Nat} (inside : ln + 1 < 2 ^ 32) : scrubNext ln = (ln + 1, false) := by
  unfold scrubNext
  rw [if_neg (by omega), if_neg (by omega)]

theorem execScrub_off {s : State} (off : s.fld 0x28 0 0 = 0) (found : BitVec 2) : execScrub found s = .next s := by
  simp [execScrub, off]

/-- Where no error lies unfound and none is found, the scrubber goes on to its next line. -/
theorem execScrub_clean {s : State} (on : s.fld 0x28 0 0 = 1) (unstaged : s.power.applied.contains 1 = false)
    (inside : s.rel.scrubAt + 1 < 2 ^ 32) (clean : s.rel.latent = []) :
    execScrub 0#2 s = .next { s with rel := { s.rel with scrubAt := s.rel.scrubAt + 1 } } := by
  have read : (upto 4).foldl (fun t d => t.scrubAt s.rel.scrubAt (some d)) s = s :=
    List.foldlRecOn _ _ (motive := fun t : State => t = s) rfl fun t same d _ => by
      rw [same]
      exact State.scrubAt_clean clean ..
  unfold execScrub
  simp only [on, unstaged, State.scrubAt_clean clean, read, scrubNext_next inside]
  rfl

end Sys2Proof.Machine

namespace Sys2Proof.Proofs
open Sys2Proof.Machine

/-- Settles O42: an event at a time; the lines of a die that fails are followed through the fold that takes them back, and the mark of
a stack that fails through the queues and launches that it ends. -/
theorem reliabilityEvents : Obligations.ReliabilityEvents := by
  unfold Obligations.ReliabilityEvents
  intro s held
  have bit : ∀ v : BitVec 64, b64 v 0 0 = v.toNat % 2 := fun v => b64_low v 0
  refine ⟨?_, ?_, ?_, ?_, ?_, ?_, ?_, ?_, ?_⟩
  · intro v r free at_
    have freed : s.writeErrack v = s.freeRec (v.toNat / 2 % 2 ^ 12) := if_pos ((bit v).trans free)
    refine ⟨_, congrArg Host.Outcome.next (freed.trans (State.freeRec_held held at_)), rfl, rfl, ?_⟩
    exact mget?_mput_same ..
  · intro v even
    exact congrArg Host.Outcome.next (if_neg (by rw [bit]; omega))
  · intro v none_
    exact congrArg Host.Outcome.next (State.writeErrbase_none none_ v)
  · intro v arm
    refine ⟨_, rfl, State.writeInjCtl_rest, ?_, ?_⟩
    · intro kind place
      have ok : s.armable v := ⟨kind, place⟩
      refine ⟨?_, ?_, ?_⟩
      · rw [State.writeInjCtl_arms ok (by decide) (by decide), bit, arm]
      · exact State.writeInjCtl_arms ok (by decide) (by decide)
      · exact State.writeInjCtl_arms ok (by decide) (by decide)
    · intro bad
      refine State.writeInjCtl_refuses ((bit v).trans arm) fun ok => ?_
      obtain ⟨kind, place⟩ := ok
      rcases bad with bad | bad
      · exact kind bad
      · rw [place] at bad
        exact absurd bad nofun
  · intro off f
    exact execScrub_off off f
  · intro on unstaged inside clean
    exact ⟨_, execScrub_clean on unstaged inside clean, rfl, rfl⟩
  · intro d alive idle _
    exact ⟨_, rfl, State.failDie_leaves held alive idle⟩
  · intro k alive
    exact ⟨_, rfl, State.failStack_dead alive⟩
  · intro k alive
    exact ⟨_, rfl, State.failController_leaves alive⟩

end Sys2Proof.Proofs
end

section
/-! SUPPORT. Writes of the device's own units where no error lies unfound and no injection is armed: they change memory and
reservations only (R155, R157, R187, R224). -/

namespace Sys2Proof.Machine

/-- No error lies unfound, and no injection is armed. -/
structure State.Calm (s : State) : Prop where
  noFlaw : s.rel.latent = []
  noArm  : b64 (s.reg 0x27) 0 0 = 0

/-- t is s but for the memory system and the groups, which lose reservations. -/
def State.Stored (s t : State) : Prop := ∃ mm gs, t = { s with mm := mm, groups := gs }

theorem State.Stored.refl (s : State) : s.Stored s := ⟨s.mm, s.groups, rfl⟩

theorem State.Stored.trans {s t u : State} (h : s.Stored t) (h' : t.Stored u) : s.Stored u := by
  obtain ⟨_, _, rfl⟩ := h
  obtain ⟨mm, gs, rfl⟩ := h'
  exact ⟨mm, gs, rfl⟩

theorem State.Stored.calm {s t : State} (h : s.Stored t) (calm : s.Calm) : t.Calm := by
  obtain ⟨_, _, rfl⟩ := h
  exact ⟨calm.noFlaw, calm.noArm⟩

theorem State.Stored.regs {s t : State} (h : s.Stored t) : t.regs = s.regs := by obtain ⟨_, _, rfl⟩ := h; rfl
theorem State.Stored.peal {s t : State} (h : s.Stored t) : t.peal = s.peal := by obtain ⟨_, _, rfl⟩ := h; rfl

theorem State.setMM_stored (s : State) (m : MemSys) : s.Stored (s.setMM m) := ⟨m, s.groups, rfl⟩

theorem State.takeBack_stored (s : State) (ln : Nat) : s.Stored (s.takeBack ln).1 := by
  unfold State.takeBack
  dsimp only
  split
  · exact .refl s
  · split <;> exact State.setMM_stored ..

theorem State.bumpVersion_stored (s : State) (ln : Nat) : s.Stored (s.bumpVersion ln) := by
  unfold State.bumpVersion
  dsimp only
  split <;> exact State.setMM_stored ..

theorem State.loseResv_stored (s : State) (ln : Nat) : s.Stored (s.loseResv ln) := by
  obtain ⟨gs, lost⟩ := s.loseResv_groups ln
  exact ⟨s.mm, gs, lost⟩

/-- The recall of a line finds nothing (R157, R208, R224). -/
theorem State.Calm.recall_stored {s : State} (h : s.Calm) (ln : Nat) : s.Stored (s.recall ln).1 := by
  unfold State.recall
  cases (s.line ln).owner with
  | none => exact .refl s
  | some d =>
    have back := s.takeBack_stored ln
    dsimp only
    rw [State.checkOwn_none h.noFlaw, State.inject_unarmed h.noArm]
    dsimp only
    rw [State.sendLine_none (back.calm h).noFlaw, ite_self]
    exact back.trans (State.setMM_stored ..)

theorem State.recalled_stored (s : State) (ln : Nat) : s.Stored (s.recalled ln) := by
  unfold State.recalled
  split
  · exact (s.takeBack_stored ln).trans (State.setMM_stored ..)
  · exact s.takeBack_stored ln

theorem State.Calm.merged_stored {s : State} (h : s.Calm) (ln pa : Nat) (bs : List Byte) (p : Option PTag) :
    s.Stored (s.merged ln pa bs p) := by
  unfold State.merged
  dsimp only
  split
  · rw [State.dropFlaws_none (by exact h.noFlaw)]
    exact (State.setMM_stored ..).trans (State.setMM_stored ..)
  · exact (State.setMM_stored ..).trans (State.setMM_stored ..)

theorem State.Calm.homeWriteLine_stored {s : State} (h : s.Calm) (pa : Nat) (bs : List Byte) (p : Option PTag) :
    s.Stored (s.homeWriteLine pa bs p) := by
  have called := s.recalled_stored (pa / 128)
  rw [State.homeWriteLine_eq]
  split
  · exact .refl s
  · exact ((called.trans ((called.calm h).merged_stored ..)).trans (State.bumpVersion_stored ..)).trans
      (State.loseResv_stored ..)

theorem State.Calm.outsideWrite_stored {s : State} (h : s.Calm) (pa : Nat) (bs : List Byte) (p : Option PTag) :
    s.Stored (s.outsideWrite pa bs p) :=
  List.foldlRecOn _ _ (.refl s) fun _ stored ln _ =>
    have called := (stored.calm h).recall_stored ln
    (stored.trans called).trans (((stored.trans called).calm h).homeWriteLine_stored ..)

end Sys2Proof.Machine
end

section
/-! SUPPORT. Records of Peal on their way to their buffer (R236 to R243). -/

namespace Sys2Proof.Machine

/-! ## Fields of other registers -/

theorem State.fld_setReg_same (s : State) (n : Nat) (v : BitVec 64) (hi lo : Nat) : (s.setReg n v).fld n hi lo = b64 v hi lo := by
  unfold State.fld
  rw [State.reg_setReg_same]

theorem State.fld_setReg_other (s : State) {n k : Nat} (v : BitVec 64) (hi lo : Nat) (h : k ≠ n) :
    (s.setReg n v).fld k hi lo = s.fld k hi lo := by
  unfold State.fld
  rw [State.reg_setReg_other s v h]

/-- Registers are read out of what is stored. -/
theorem State.reg_congr {s t : State} (h : t.regs = s.regs) (n : Nat) : t.reg n = s.reg n := by
  unfold State.reg
  rw [h]

/-! ## Offers (R237, R242) -/

theorem mem_pealInsert {r x : PRec} {l : List PRec} : x ∈ pealInsert r l ↔ x = r ∨ x ∈ l := by
  induction l with
  | nil => simp [pealInsert]
  | cons y ys ih =>
    unfold pealInsert
    split
    · rw [List.mem_cons, ih, List.mem_cons]
      tauto
    · rw [List.mem_cons]

theorem State.emitTo_on {s : State} {p : Nat} (on : s.pealOn p = true) (die sclass sinst kind payload : Nat) :
    (s.emitTo p die sclass sinst kind payload).peal.wait = pealInsert
      { part := p, ts := s.copyTime die, die := die, sclass := sclass, sinst := sinst, kind := kind, payload := payload
        stalled := false } s.peal.wait := by
  unfold State.emitTo
  dsimp only
  rw [if_pos on]

/-- An offer takes no record away. -/
theorem State.mem_emitTo {s : State} {x : PRec} (h : x ∈ s.peal.wait) (p die sclass sinst kind payload : Nat) :
    x ∈ (s.emitTo p die sclass sinst kind payload).peal.wait := by
  by_cases on : s.pealOn p = true
  · rw [State.emitTo_on on]
    exact mem_pealInsert.mpr (.inr h)
  · unfold State.emitTo
    dsimp only
    rwa [if_neg on]

/-! ## TIME records (R236) -/

/-- The TIME record that Tabor offers partition p. -/
def State.timeRec (s : State) (p : Nat) : PRec :=
  { part := p, ts := s.copyTime 4, die := 4, sclass := 5, sinst := 0, kind := 0x01
    payload := s.second % 2 ^ 48 + b2n s.links.pps * 2 ^ 48 + b2n s.links.holdover * 2 ^ 49, stalled := false }

theorem State.Offered.timeRec {s t : State} (h : s.Offered t) (p : Nat) : t.timeRec p = s.timeRec p := by
  obtain ⟨_, rfl⟩ := h
  rfl

theorem State.Offered.pealOn {s t : State} (h : s.Offered t) (p : Nat) : t.pealOn p = s.pealOn p := by
  obtain ⟨_, rfl⟩ := h
  rfl

/-- Every partition whose buffer is in use is offered its TIME record. -/
theorem State.timeRec_mem_emitTime {s : State} {p : Nat} (hp : p < 16) (on : s.pealOn p = true) :
    s.timeRec p ∈ s.emitTime.peal.wait := by
  have offers : ∀ (l : List Nat) (t : State), s.Offered t → p ∈ l ∨ s.timeRec p ∈ t.peal.wait →
      s.timeRec p ∈ (l.foldl (fun s q => s.emitTo q 4 5 0 0x01
        (s.second % 2 ^ 48 + b2n s.links.pps * 2 ^ 48 + b2n s.links.holdover * 2 ^ 49)) t).peal.wait := by
    intro l
    induction l with
    | nil => exact fun t _ h => h.resolve_left List.not_mem_nil
    | cons q l ih =>
      intro t offered h
      refine ih _ (offered.trans (t.emitTo_offered ..)) ?_
      rcases h with h | h
      · rcases List.mem_cons.mp h with rfl | h
        · right
          rw [State.emitTo_on (by rw [offered.pealOn, on])]
          exact mem_pealInsert.mpr (.inl (offered.timeRec p).symm)
        · exact .inl h
      · exact .inr (State.mem_emitTo h ..)
  exact offers (upto 16) s (.refl s) (.inl (List.mem_range.mpr hp))

/-- A second has begun at the package's copy of Peal time: its TIME record is stamped with the boundary. -/
theorem execTimeRecord_offers {s : State} (due : s.links.ptpSec < s.packSecond) :
    ∃ t, execTimeRecord s = .next t ∧ t.links.ptpSec = s.links.ptpSec + 1 ∧ t.time = s.time ∧ t.peal.copies = s.peal.copies ∧
      ∀ p < 16, s.pealOn p = true → ∃ r ∈ t.peal.wait, r.part = p ∧ r.kind = 1 ∧ r.sclass = 5 ∧
        r.ts = (s.links.ptpSec + 1) * 16000000000 ∧ r.payload % 2 ^ 48 = (s.links.ptpSec + 1) % 2 ^ 48 := by
  unfold execTimeRecord
  rw [if_pos due]
  refine ⟨_, rfl, ?_, rfl, rfl, fun p hp on => ⟨_, State.timeRec_mem_emitTime hp on, rfl, rfl, rfl, rfl, ?_⟩⟩
  · exact congrArg Links.ptpSec (State.emitTime_offered _).logged.links
  have second : (s.links.ptpSec + 1) * 16000000000 / 16000000000 = s.links.ptpSec + 1 := by omega
  unfold State.timeRec State.second
  dsimp only
  rw [second]
  omega

/-! ## The next record of a buffer (R242, R243, R438) -/

/-- The next record is one of the partition's own; a DROP record waits for room. -/
theorem State.nextRec_some {s : State} {p : Nat} {r : PRec} (h : s.nextRec p = some r) :
    r.part = p ∧ (s.pealFull p = true → r.kind ≠ 0x02) := by
  unfold State.nextRec at h
  split at h
  · next x found =>
    split at h
    · cases h
      have fits := List.find?_some found
      simp only [Bool.and_eq_true, beq_iff_eq, Bool.not_eq_true', Bool.and_eq_false_iff, beq_eq_false_iff_ne] at fits
      obtain ⟨own, room⟩ := fits
      exact ⟨own, fun full => room.resolve_right (by simp [full])⟩
    · cases h
  · cases h

theorem State.lateRec_part {s : State} {p : Nat} {r : PRec} (h : s.lateRec p = some r) : r.part = p := by
  have late := List.find?_some h
  simp only [Bool.and_eq_true, beq_iff_eq] at late
  exact late.1.1.1

theorem State.pealWrite_room {s : State} {r : PRec} (room : s.pealFull r.part = false) :
    s.pealWrite r = (s.pealTake r).pealStore r := by
  unfold State.pealWrite
  simp [room]

theorem State.pealWrite_drops {s : State} {r : PRec} (full : s.pealFull r.part = true) (lossy : s.effLL r.part = false)
    (kind : r.kind ≠ 0x02) : s.pealWrite r = (s.pealTake r).pealDrop r := by
  unfold State.pealWrite
  simp [full, lossy, kind]

theorem State.pealWrite_waits {s : State} {r : PRec} (full : s.pealFull r.part = true) (lossless : s.effLL r.part = true) :
    s.pealWrite r = s := by
  unfold State.pealWrite
  simp [full, lossless]

/-- Where no error is found on the way, a record that is stored advances WP, and but for that only memory changes (R240). -/
theorem State.Calm.pealStore_eq {s : State} (h : s.Calm) (r : PRec) :
    ∃ u, s.Stored u ∧ s.pealStore r = u.setFld (nPPTR r.part) 31 0 (s.fld (nPPTR r.part) 31 0 + 1) :=
  ⟨_, h.outsideWrite_stored .., rfl⟩

theorem State.Calm.pealWrite_stores {s : State} (h : s.Calm) {r : PRec} (room : s.pealFull r.part = false) :
    (s.pealWrite r).peal.wait = s.peal.wait.erase r ∧
      (s.pealWrite r).fld (nPPTR r.part) 31 0 = (s.fld (nPPTR r.part) 31 0 + 1) % 2 ^ 32 ∧
      (s.pealWrite r).fld (nPPTR r.part) 63 32 = s.fld (nPPTR r.part) 63 32 := by
  have taken : (s.pealTake r).Calm := ⟨h.noFlaw, h.noArm⟩
  obtain ⟨u, stored, eq⟩ := taken.pealStore_eq r
  rw [State.pealWrite_room room, eq]
  refine ⟨?_, ?_, ?_⟩
  · rw [State.setFld_peal, stored.peal]
    rfl
  · rw [State.fld_setFld_same _ _ _ (by omega) (by omega)]
    rfl
  · rw [State.fld_setFld_other _ _ _ _ (by omega) (by omega) (by omega), State.fld_congr stored.regs]
    rfl

/-- A record that is dropped counts in DROPS (R243). -/
theorem State.pealDrop_counts (s : State) (r : PRec) :
    (s.pealDrop r).peal.wait = s.peal.wait ∧ (s.pealDrop r).mm = s.mm ∧
      (s.pealDrop r).reg (nPPTR r.part) = s.reg (nPPTR r.part) ∧
      (s.pealDrop r).fld (nPSTAT r.part) 63 32 = min (2 ^ 32 - 1) (s.fld (nPSTAT r.part) 63 32 + 1) := by
  have apart : nPPTR r.part ≠ nPSTAT r.part := by unfold nPPTR nPSTAT; omega
  refine ⟨rfl, rfl, State.reg_setReg_other _ _ apart, ?_⟩
  refine (State.fld_setFld_same _ _ _ (by omega) (by omega)).trans (Nat.mod_eq_of_lt ?_)
  unfold satAdd
  omega

/-! ## Reports of stalls and samples (R244, R248) -/

theorem State.emitPerturb_clears (s : State) (p die sclass sinst : Nat) (ok : Bool) :
    mget? (s.emitPerturb p die sclass sinst ok).peal.perturb (sclass * 4096 + sinst) = none := by
  unfold State.emitPerturb
  dsimp only
  split
  · next none_ => exact none_
  · rw [mget?_mdel, if_pos rfl]

/-- The entry that is sampled next: the first in a slot after the last one sampled, or else the first of all. -/
def nextSampled (x : Nat × Group × Gang × Launch) (rest : List (Nat × Group × Gang × Launch)) (last : Nat) :
    Nat × Group × Gang × Launch :=
  ((x :: rest).find? (fun e => last < e.2.1.slot)).getD x

theorem nextSampled_mem (x : Nat × Group × Gang × Launch) (rest : List (Nat × Group × Gang × Launch)) (last : Nat) :
    nextSampled x rest last ∈ x :: rest := by
  unfold nextSampled
  cases found : (x :: rest).find? (fun e => last < e.2.1.slot) with
  | none => exact List.mem_cons_self
  | some e => exact List.mem_of_find?_eq_some found

theorem nextSampled_after (x : Nat × Group × Gang × Launch) (rest : List (Nat × Group × Gang × Launch)) (last : Nat) :
    last < (nextSampled x rest last).2.1.slot ∨
      nextSampled x rest last = x ∧ ∀ y ∈ x :: rest, y.2.1.slot ≤ last := by
  unfold nextSampled
  cases found : (x :: rest).find? (fun e => last < e.2.1.slot) with
  | none => exact .inr ⟨rfl, by simpa using found⟩
  | some e => exact .inl (by simpa using List.find?_some found)

/-- At the end of an interval the entry that comes next is sampled. -/
theorem execSample_samples {s : State} {core : BitVec 8} {sched : BitVec 2} {x : Nat × Group × Gang × Launch}
    {rest : List (Nat × Group × Gang × Launch)} (some_ : s.samplable core.toNat sched.toNat = x :: rest)
    (interval : s.coreClk core.toNat % 2 ^ (s.fld (nPCTL x.2.2.2.part) 19 16 + 8) = 0)
    (edge : s.edgeAt (s.clk - 1) core.toNat = true) :
    ∃ t, execSample core sched s = .next t ∧ t.groups = s.groups ∧ t.mm = s.mm ∧
      mget? t.peal.sampled (core.toNat * 4 + sched.toNat) =
        some (nextSampled x rest (mgetD s.peal.sampled (core.toNat * 4 + sched.toNat) 15)).2.1.slot := by
  unfold execSample
  rw [some_]
  dsimp only
  rw [if_neg (by simp [interval, edge])]
  exact ⟨_, rfl, (State.emitTo_offered ..).groups, (State.emitTo_offered ..).mm, mget?_mput_same ..⟩

/-- Between the ends of intervals nothing is sampled. -/
theorem execSample_between {s : State} {core : BitVec 8} {sched : BitVec 2} {x : Nat × Group × Gang × Launch}
    {rest : List (Nat × Group × Gang × Launch)} (some_ : s.samplable core.toNat sched.toNat = x :: rest)
    (between : ¬ (s.coreClk core.toNat % 2 ^ (s.fld (nPCTL x.2.2.2.part) 19 16 + 8) = 0 ∧
      s.edgeAt (s.clk - 1) core.toNat = true)) :
    execSample core sched s = .next s := by
  unfold execSample
  rw [some_]
  dsimp only
  rw [if_pos]
  rw [Bool.or_eq_true, decide_eq_true_eq, Bool.not_eq_true', ← Bool.not_eq_true]
  exact not_and_or.mp between

/-! ## Registers of a buffer (R239, R240, R438) -/

/-- The registers of a buffer that comes into use: WP and RP, DROPS and CNTIDX are 0 (R239). -/
def State.emptied (s : State) (p : Nat) : State :=
  ((s.setReg (nPPTR p) 0#64).setFld (nPSTAT p) 63 32 0).setFld (nPCNT p) 63 48 0

theorem State.emptied_pointers (s : State) (p : Nat) : (s.emptied p).reg (nPPTR p) = 0#64 := by
  have drops : nPPTR p ≠ nPSTAT p := by unfold nPPTR nPSTAT; omega
  have counters : nPPTR p ≠ nPCNT p := by unfold nPPTR nPCNT; omega
  unfold State.emptied State.setFld
  rw [State.reg_setReg_other _ _ counters, State.reg_setReg_other _ _ drops, State.reg_setReg_same]

theorem State.emptied_drops (s : State) (p : Nat) : (s.emptied p).fld (nPSTAT p) 63 32 = 0 := by
  have counters : nPSTAT p ≠ nPCNT p := by unfold nPSTAT nPCNT; omega
  unfold State.emptied
  rw [State.fld_setFld_other _ _ _ _ (by omega) (by omega) (.inl counters), State.fld_setFld_same _ _ _ (by omega) (by omega),
    Nat.zero_mod]

theorem State.emptied_ctl (s : State) (p hi lo : Nat) : (s.emptied p).fld (nPCTL p) hi lo = s.fld (nPCTL p) hi lo := by
  have pointers : nPCTL p ≠ nPPTR p := by unfold nPCTL nPPTR; omega
  have drops : nPCTL p ≠ nPSTAT p := by unfold nPCTL nPSTAT; omega
  have counters : nPCTL p ≠ nPCNT p := by unfold nPCTL nPCNT; omega
  unfold State.emptied
  rw [State.fld_setFld_other _ _ _ _ (by omega) (by omega) (.inl counters),
    State.fld_setFld_other _ _ _ _ (by omega) (by omega) (.inl drops), State.fld_setReg_other _ _ _ _ pointers]

/-- The registers that a write of PCTL leaves. -/
theorem State.writePctl_regs (s : State) (p : Nat) (v : BitVec 64) :
    (s.writePctl p v).regs =
      if !s.pealOn p && b64 v 0 0 = 1 then ((s.setReg (nPCTL p) (v &&& 0xF001F#64)).emptied p).regs
      else (s.setReg (nPCTL p) (v &&& 0xF001F#64)).regs := by
  unfold State.writePctl State.emptied
  dsimp only
  split
  · rfl
  · split <;> rfl

/-- A buffer that comes into use is empty, and has dropped nothing (R239). -/
theorem State.writePctl_begins {s : State} {p : Nat} {v : BitVec 64} (off : s.pealOn p = false) (enable : b64 v 0 0 = 1) :
    (s.writePctl p v).reg (nPPTR p) = 0#64 ∧ (s.writePctl p v).fld (nPSTAT p) 63 32 = 0 := by
  have empty := s.writePctl_regs p v
  rw [off, enable, if_pos (by rfl)] at empty
  rw [State.reg_congr empty, State.fld_congr empty]
  exact ⟨State.emptied_pointers .., State.emptied_drops ..⟩

/-- A buffer that goes out of use has no record that waits (R239). -/
theorem State.writePctl_ends {s : State} {p : Nat} {v : BitVec 64} (on : s.pealOn p = true) (disable : b64 v 0 0 = 0) :
    ∀ r ∈ (s.writePctl p v).peal.wait, r.part ≠ p := by
  unfold State.writePctl
  dsimp only
  rw [on, disable, if_neg (by decide), if_pos (by rfl)]
  intro r mem
  simpa using (List.mem_filter.mp mem).2

/-- A write of PCTL stores ENABLE (R239). -/
theorem State.writePctl_pealOn (s : State) (p : Nat) (v : BitVec 64) : (s.writePctl p v).pealOn p = (b64 v 0 0 == 1) := by
  have stored : (s.setReg (nPCTL p) (v &&& 0xF001F#64)).fld (nPCTL p) 0 0 = b64 v 0 0 :=
    (State.fld_setReg_same ..).trans (b64_and_ones v (by decide))
  have enable : (s.writePctl p v).fld (nPCTL p) 0 0 = b64 v 0 0 := by
    have regs := s.writePctl_regs p v
    split at regs
    · rw [State.fld_congr regs, State.emptied_ctl, stored]
    · rw [State.fld_congr regs, stored]
  unfold State.pealOn
  rw [enable]

theorem State.writePctl_mm (s : State) (p : Nat) (v : BitVec 64) : (s.writePctl p v).mm = s.mm := by
  unfold State.writePctl
  dsimp only
  split
  · rfl
  · split <;> rfl

/-- RP moves within [RP, WP] (R240). -/
theorem State.writePptr_moves {s : State} {p : Nat} {v : BitVec 64} (on : s.pealOn p = true)
    (within : (b64 v 63 32 + 2 ^ 32 - s.fld (nPPTR p) 63 32) % 2 ^ 32 ≤
      (s.fld (nPPTR p) 31 0 + 2 ^ 32 - s.fld (nPPTR p) 63 32) % 2 ^ 32) :
    ∃ u, (s.setFld (nPPTR p) 63 32 (b64 v 63 32)).Offered u ∧
      (s.writePptr p v).regs = u.regs ∧ (s.writePptr p v).mm = u.mm := by
  unfold State.writePptr
  dsimp only
  rw [if_neg (by simpa [on] using within)]
  split
  · split
    · exact ⟨_, .refl _, rfl, rfl⟩
    · exact ⟨_, State.emitTo_offered .., rfl, rfl⟩
  · exact ⟨_, .refl _, rfl, rfl⟩

theorem State.writePptr_ignored {s : State} {p : Nat} {v : BitVec 64} (bad : s.pealOn p = false ∨
    ¬ (b64 v 63 32 + 2 ^ 32 - s.fld (nPPTR p) 63 32) % 2 ^ 32 ≤
      (s.fld (nPPTR p) 31 0 + 2 ^ 32 - s.fld (nPPTR p) 63 32) % 2 ^ 32) : s.writePptr p v = s := by
  unfold State.writePptr
  dsimp only
  rw [if_pos]
  rw [Bool.or_eq_true, decide_eq_true_eq, Bool.not_eq_true', ← Nat.not_le]
  exact bad

end Sys2Proof.Machine

namespace Sys2Proof.Proofs
open Sys2Proof.Machine

/-- Settles O49: an event at a time; what a record's write leaves follows from what writes leave where no error is found. -/
theorem pealEvents : Obligations.PealEvents := by
  unfold Obligations.PealEvents
  intro s p v c n
  refine ⟨?_, ?_, ?_, ?_, ?_, ?_, ?_, ?_, ?_, ?_, ?_⟩
  · intro due
    obtain ⟨t, ends, second, time, copies, offers⟩ := execTimeRecord_offers due
    exact ⟨t, ends, second, time, copies, offers p.toNat p.isLt⟩
  · intro early
    exact congrArg Host.Outcome.next (if_neg (by omega))
  · exact ⟨_, rfl, mget?_mput_same .., rfl⟩
  · intro r next_
    obtain ⟨own, room⟩ := State.nextRec_some next_
    have written : exec (.pealRecordWrite p) s = .next (s.pealWrite r) := by
      refine congrArg Host.Outcome.next ?_
      rw [next_]
    rw [← own] at room ⊢
    refine ⟨?_, ?_, ?_⟩
    · intro fits clean unarmed
      have calm : s.Calm := ⟨clean, unarmed⟩
      exact ⟨_, written, calm.pealWrite_stores fits⟩
    · intro full lossy
      obtain ⟨wait, mm, ptr, drops⟩ := (s.pealTake r).pealDrop_counts r
      rw [State.pealWrite_drops full lossy (room full)] at written
      exact ⟨_, written, wait, mm, ptr, drops⟩
    · intro full lossless
      rw [written, State.pealWrite_waits full lossless]
  · intro none_
    refine congrArg Host.Outcome.next ?_
    rw [none_]
  · intro r late full
    obtain ⟨wait, mm, _, _⟩ := (s.pealTake r).pealDrop_counts r
    have dropped : exec (.deviceRecordTimeout p) s = .next ((s.pealTake r).pealDrop r) := by
      refine congrArg Host.Outcome.next ?_
      rw [late]
      exact if_pos full
    exact ⟨_, dropped, wait, mm⟩
  · intro none_
    refine congrArg Host.Outcome.next ?_
    rw [none_]
  · intro x counted
    have reports : ∀ b : Bool, s.periodEnd (c.toNat * 4096 + n.toNat) = b → exec (.perturb c n) s = .next
        (if b then s.emitPerturb x.2.2 (sourceCore (c.toNat * 4096 + n.toNat) / 48) c.toNat n.toNat
          (s.perturbOk (sourceCore (c.toNat * 4096 + n.toNat))) else s) := by
      rintro b rfl
      refine congrArg Host.Outcome.next ?_
      rw [counted]
    exact ⟨fun ended => ⟨_, reports true ended, State.emitPerturb_clears ..⟩, reports false⟩
  · intro h x rest some_
    refine ⟨?_, execSample_between some_⟩
    rintro ⟨interval, edge⟩
    obtain ⟨t, ends, groups, mm, sampled⟩ := execSample_samples some_ interval edge
    exact ⟨t, _, ends, nextSampled_mem .., sampled, nextSampled_after .., groups, mm⟩
  · exact ⟨_, rfl, State.writePctl_pealOn .., State.writePctl_mm .., State.writePctl_begins, State.writePctl_ends⟩
  · refine ⟨fun bad => congrArg Host.Outcome.next (State.writePptr_ignored bad), fun on within => ?_⟩
    obtain ⟨u, offered, regs, mm⟩ := State.writePptr_moves on within
    have moved := fun hi lo => (State.fld_congr regs (nPPTR p.toNat) hi lo).trans (State.fld_congr offered.regs ..)
    refine ⟨_, rfl, ?_, ?_, mm.trans offered.mm⟩
    · rw [moved, State.fld_setFld_same _ _ _ (by omega) (by omega)]
      exact Nat.mod_eq_of_lt (b64_lt ..)
    · rw [moved, State.fld_setFld_other _ _ _ _ (by omega) (by omega) (by omega)]

end Sys2Proof.Proofs
end

section
/-! SUPPORT. What accesses to memory leave alone, whatever errors they find: all of the state but what `State.besides` puts out of
sight (R152 to R158, R166 to R168, R208, R219, R224). -/

namespace Sys2Proof.Machine

/-- The state without what accesses to memory change: memory, the groups (reservations are lost, watches struck), error records,
Peal, messages, the registers of an injection, and the numbers drawn and given out. -/
def State.besides (s : State) : State :=
  { s with
    groups := [], mm := MemSys.reset, rel := Rel.reset, peal := Peal.reset, links := Links.reset, regs := [], nextId := 0
    draws := 0 }

theorem State.stops_of_besides {s t : State} (h : t.besides = s.besides) : t.stops = s.stops := by
  have same := congrArg State.stops h
  exact same

theorem State.besides_ite {c : Prop} [Decidable c] {s t u : State} (h : t.besides = s.besides) (h' : u.besides = s.besides) :
    (if c then t else u).besides = s.besides := by
  split
  · exact h
  · exact h'

/-- The same of what a read answers with its state. -/
theorem State.besides_ite_read {α β : Type} {c : Prop} [Decidable c] {x y : α × β × State} {s : State}
    (h : x.2.2.besides = s.besides) (h' : y.2.2.besides = s.besides) : (if c then x else y).2.2.besides = s.besides := by
  split
  · exact h
  · exact h'

/-- What every step of a fold leaves, the fold leaves. -/
theorem State.besides_foldl {α : Type} {f : State → α → State} (h : ∀ s a, (f s a).besides = s.besides) (l : List α)
    (s : State) : (l.foldl f s).besides = s.besides :=
  List.foldlRecOn l f (motive := fun t : State => t.besides = s.besides) rfl fun t ht a _ => (h t a).trans ht

/-- The same of a fold that reads. -/
theorem State.besides_foldl_snd {α β : Type} {f : β × State → α → β × State} (h : ∀ x a, (f x a).2.besides = x.2.besides)
    (l : List α) (x : β × State) : (l.foldl f x).2.besides = x.2.besides :=
  List.foldlRecOn l f (motive := fun y : β × State => y.2.besides = x.2.besides) rfl fun y hy a _ => (h y a).trans hy

/-! ## Small updates, records and writes at homes

A proof (rfl) keeps simp from using the equation as a definitional one, which the kernel would check by unfolding states. -/

@[simp] theorem State.setMM_besides (s : State) (m : MemSys) : (s.setMM m).besides = s.besides := (rfl)
@[simp] theorem State.putBytes_besides (s : State) (pa : Nat) (bs : List Byte) : (s.putBytes pa bs).besides = s.besides := (rfl)
@[simp] theorem State.flipBit_besides (s : State) (ln b : Nat) : (s.flipBit ln b).besides = s.besides := (rfl)
@[simp] theorem State.updLine_besides (s : State) (ln : Nat) (f : Line → Line) : (s.updLine ln f).besides = s.besides := (rfl)
@[simp] theorem State.dropDie_besides (s : State) (d ln : Nat) : (s.dropDie d ln).besides = s.besides := (rfl)
@[simp] theorem State.keepV_besides (s : State) (d ln : Nat) : (s.keepV d ln).besides = s.besides := (rfl)
@[simp] theorem State.draw_besides (s : State) (n : Nat) : (s.draw n).besides = s.besides := (rfl)
@[simp] theorem State.takeId_besides (s : State) : s.takeId.2.besides = s.besides := (rfl)
@[simp] theorem State.setReg_besides (s : State) (n : Nat) (v : BitVec 64) : (s.setReg n v).besides = s.besides := (rfl)
@[simp] theorem State.updGroup_besides (s : State) (k : Nat) (f : Group → Group) : (s.updGroup k f).besides = s.besides := (rfl)

theorem State.Reported.besides {s t : State} (h : s.Reported t) : t.besides = s.besides := by
  obtain ⟨_, _, _, _, _, rfl⟩ := h
  rfl

@[simp] theorem State.emitL_besides (s : State) (l : Launch) (die c i k pl : Nat) :
    (s.emitL l die c i k pl).besides = s.besides :=
  (s.emitL_offered ..).reported.besides

@[simp] theorem State.dropFlaws_besides (s : State) (p : FlawAt → Bool) : (s.dropFlaws p).besides = s.besides :=
  (s.dropFlaws_reported p).besides

@[simp] theorem State.takeBack_besides (s : State) (ln : Nat) : (s.takeBack ln).1.besides = s.besides :=
  (s.takeBack_reported ln).besides

@[simp] theorem State.bumpVersion_besides (s : State) (ln : Nat) : (s.bumpVersion ln).besides = s.besides :=
  (s.bumpVersion_reported ln).besides

@[simp] theorem State.loseResv_besides (s : State) (ln : Nat) : (s.loseResv ln).besides = s.besides :=
  (s.loseResv_reported ln).besides

@[simp] theorem State.homeWriteLine_besides (s : State) (pa : Nat) (bs : List Byte) (p : Option PTag) :
    (s.homeWriteLine pa bs p).besides = s.besides :=
  (s.homeWriteLine_reported pa bs p).besides

@[simp] theorem State.record_besides (s : State) (cls kind sev : Nat) (inj : Bool) (addr unit space synd : Nat)
    (o : Option (Nat × Nat)) : (s.record cls kind sev inj addr unit space synd o).2.besides = s.besides :=
  (s.record_reported ..).besides

/-! ## Reads that find errors, and recalls (R157, R208, R224, R226) -/

/-- An error found, whose poison goes to the line. -/
theorem State.foundFlaw_besides (s : State) (p : FlawAt) (cls unit addr space : Nat) (o : Option (Nat × Nat)) (ln : Nat) :
    (match s.findFlaw p cls unit addr space o with
      | (some t, s) => s.updLine ln (fun x => { x with pois := tagMin (some t) x.pois })
      | (none, s) => s).besides = s.besides := by
  unfold State.findFlaw
  cases s.flaw p with
  | none => rfl
  | some f => cases hard : f.fixed <;> simp [hard]

@[simp] theorem State.checkArray_besides (s : State) (ln : Nat) : (s.checkArray ln).besides = s.besides :=
  s.foundFlaw_besides ..

@[simp] theorem State.sendLine_besides (s : State) (d ln : Nat) : (s.sendLine d ln).besides = s.besides :=
  s.foundFlaw_besides ..

@[simp] theorem State.fetchLine_besides (s : State) (d ln : Nat) : (s.fetchLine d ln).besides = s.besides := by
  unfold State.fetchLine
  split <;> simp

@[simp] theorem State.checkSlice_besides (s : State) (d ln : Nat) : (s.checkSlice d ln).besides = s.besides := by
  unfold State.checkSlice
  split
  · rfl
  · dsimp only
    split
    · simp
    · split <;> simp

@[simp] theorem State.dropCore_besides (s : State) (c ln : Nat) : (s.dropCore c ln).besides = s.besides :=
  State.besides_ite rfl rfl

@[simp] theorem State.checkCopy_besides (s : State) (c ln : Nat) : (s.checkCopy c ln).besides = s.besides := by
  unfold State.checkCopy
  split
  · rfl
  · dsimp only
    split
    · simp
    · split
      · simp
      · split <;> simp

@[simp] theorem State.checkOwn_besides (s : State) (d ln : Nat) : (s.checkOwn d ln).besides = s.besides := by
  unfold State.checkOwn
  cases (s.line ln).mcore with
  | none => exact State.besides_ite rfl (s.checkSlice_besides ..)
  | some c => exact State.besides_ite (s.checkCopy_besides ..) (by simp)

@[simp] theorem State.inject_besides (s : State) (ln target die : Nat) :
    (s.inject ln target die).2.2.besides = s.besides := by
  unfold State.inject
  dsimp only
  split
  · split
    · exact State.besides_ite (by simp) (by simp)
    · split <;> simp
  · rfl

@[simp] theorem State.recall_besides (s : State) (ln : Nat) : (s.recall ln).1.besides = s.besides := by
  unfold State.recall
  cases (s.line ln).owner with
  | none => rfl
  | some d =>
    dsimp only
    split
    · simp
    · exact (State.keepV_besides ..).trans (State.besides_ite (by simp) (by simp))

@[simp] theorem State.recallStep_besides (s : State) (ln : Nat) : (s.recallStep ln).1.besides = s.besides := by
  unfold State.recallStep
  dsimp only
  split
  · dsimp only
    split
    · exact State.besides_ite (by simp) (by simp)
    · simp
  · simp

@[simp] theorem State.outsideWrite_besides (s : State) (pa : Nat) (bs : List Byte) (p : Option PTag) :
    (s.outsideWrite pa bs p).besides = s.besides :=
  State.besides_foldl (fun _ _ => by simp) _ s

@[simp] theorem State.strike_besides (s : State) (g n cause : Nat) : (s.strike g n cause).besides = s.besides := by
  unfold State.strike
  split
  · rfl
  · split
    · rfl
    · dsimp only
      repeat' split
      all_goals simp

@[simp] theorem State.strikeLine_besides (s : State) (ln cause : Nat) (p : Group → Bool) :
    (s.strikeLine ln cause p).besides = s.besides :=
  State.besides_foldl (fun s _ =>
    State.besides_ite (State.besides_foldl (fun s _ => s.strike_besides ..) _ s) rfl) _ s

@[simp] theorem State.strikeLost_besides (s : State) (ln : Nat) : (s.strikeLost ln).besides = s.besides :=
  s.strikeLine_besides ..

@[simp] theorem State.loseEntry_besides (s : State) (p : FlawAt) (cls unit ln : Nat) :
    (s.loseEntry p cls unit ln).besides = s.besides := by
  unfold State.loseEntry
  split
  · rfl
  · dsimp only
    repeat' split
    all_goals simp

@[simp] theorem State.checkDir_besides (s : State) (d ln : Nat) : (s.checkDir d ln).besides = s.besides :=
  State.besides_ite (s.loseEntry_besides ..) rfl

@[simp] theorem State.checkEntry_besides (s : State) (ln : Nat) : (s.checkEntry ln).besides = s.besides :=
  s.loseEntry_besides ..

/-! ## Places in caches (R147, R152, R158) -/

@[simp] theorem State.useEntry_besides (s : State) (ln : Nat) : (s.useEntry ln).besides = s.besides := by
  unfold State.useEntry
  dsimp only
  split
  · rfl
  · split
    · simp
    · split <;> simp

@[simp] theorem State.evictL2_besides (s : State) (d ln : Nat) : (s.evictL2 d ln).besides = s.besides := by
  have own : (if (s.line ln).dirty then s.checkOwn d ln else s).besides = s.besides :=
    State.besides_ite (s.checkOwn_besides ..) rfl
  unfold State.evictL2
  dsimp only
  refine (State.dropDie_besides ..).trans (State.besides_ite (State.besides_ite ?_ ?_) rfl) <;> simp [own]

@[simp] theorem State.roomL2_besides (s : State) (d ln : Nat) (low : Bool) : (s.roomL2 d ln low).besides = s.besides :=
  State.besides_ite rfl ((State.setMM_besides ..).trans (State.besides_ite rfl (State.evictL2_besides ..)))

@[simp] theorem State.leaveCore_besides (s : State) (c ln : Nat) : (s.leaveCore c ln).besides = s.besides :=
  (State.dropCore_besides ..).trans (State.besides_ite (s.checkCopy_besides ..) rfl)

@[simp] theorem State.roomCore_besides (s : State) (c ln : Nat) (low : Bool) : (s.roomCore c ln low).2.besides = s.besides := by
  unfold State.roomCore State.victim
  dsimp only
  split
  · rfl
  · split
    · rfl
    · exact (State.setMM_besides ..).trans (State.besides_ite rfl (by simp))

@[simp] theorem State.fillHeld_besides (s : State) (c ln : Nat) (low : Bool) (fl : Option Nat) :
    (s.fillHeld c ln low fl).besides = s.besides :=
  State.besides_ite (s.roomCore_besides ..) (s.roomCore_besides ..)

@[simp] theorem State.fillCopy_besides (s : State) (c ln : Nat) (low : Bool) (x : Copy) :
    (s.fillCopy c ln low x).besides = s.besides :=
  State.besides_ite (s.roomCore_besides ..) (s.roomCore_besides ..)

@[simp] theorem State.weaken_besides (s : State) (ln : Nat) (keep : Option Nat) : (s.weaken ln keep).besides = s.besides :=
  State.besides_foldl (fun s _ => s.setMM_besides _) _ _

@[simp] theorem State.bumpStamp_besides (s : State) (ln : Nat) : (s.bumpStamp ln).besides = s.besides := by
  unfold State.bumpStamp
  dsimp only
  split
  · split <;> rfl
  · rfl

/-! ## Loads and stores of cores (R153, R156, R157) -/

@[simp] theorem State.freshLine_besides (s : State) (c ln : Nat) (k : Keep) (had : Bool) :
    (s.freshLine c ln k had).2.2.besides = s.besides := by
  unfold State.freshLine
  cases had <;> exact State.besides_ite (by simp) (by simp)

@[simp] theorem State.readLine_besides (s : State) (c ln : Nat) (k : Keep) : (s.readLine c ln k).2.2.besides = s.besides := by
  unfold State.readLine
  dsimp only
  split
  · exact State.besides_ite_read (by simp [apply_ite State.besides]) (by simp [apply_ite State.besides])
  · generalize hu : ((State.recallStep _ ln).1.checkSlice (c / 48) ln) = u
    have entered : u.besides = s.besides := by
      rw [← hu]
      simp [apply_ite State.besides]
    split
    · exact State.besides_ite_read (by simp [apply_ite State.besides, entered]) (by simp [entered])
    · simp [entered]

@[simp] theorem State.own_besides (s : State) (die ln : Nat) (low : Bool) : (s.own die ln low).besides = s.besides := by
  unfold State.own
  dsimp only
  refine State.besides_ite (by simp) ?_
  simp only [State.updLine_besides]
  split
  · simp only [State.flipBit_besides, State.setMM_besides]
    split <;> simp
  · simp only [State.setMM_besides]
    split <;> simp

@[simp] theorem State.fillFrom_besides (s : State) (c ln : Nat) : (s.fillFrom c ln).besides = s.besides := by
  unfold State.fillFrom
  dsimp only
  split
  · split <;> simp
  · split <;> simp

@[simp] theorem State.gain_besides (s : State) (c ln : Nat) (k : Keep) : (s.gain c ln k).besides = s.besides := by
  unfold State.gain
  dsimp only
  refine State.besides_ite (State.besides_ite (by simp) ?_) ?_ <;> simp [apply_ite State.besides]

@[simp] theorem State.writeLine_besides (s : State) (c pa : Nat) (bs : List Byte) (k : Keep) (p : Option PTag) (w : Nat) :
    (s.writeLine c pa bs k p w).besides = s.besides := by
  unfold State.writeLine
  dsimp only
  rw [State.loseResv_besides]
  split <;> simp

/-! ## Translation, and accesses at virtual addresses (R166 to R168) -/

@[simp] theorem State.tableWord_besides (s : State) (c pa : Nat) : (s.tableWord c pa).2.besides = s.besides := by
  unfold State.tableWord State.readPa
  split
  · exact s.readLine_besides ..
  · rfl

@[simp] theorem State.walkFrom_besides (s : State) (c tab va fuel : Nat) :
    (s.walkFrom c tab va fuel).2.besides = s.besides := by
  induction fuel generalizing s tab with
  | zero => rfl
  | succ fuel ih =>
    unfold State.walkFrom
    dsimp only
    split <;> simp [ih]

@[simp] theorem State.walk_besides (s : State) (c asp va : Nat) : (s.walk c asp va).2.besides = s.besides := by
  unfold State.walk
  split
  · rfl
  · dsimp only
    split <;> simp

@[simp] theorem State.translate_besides (s : State) (c asp va : Nat) : (s.translate c asp va).2.besides = s.besides := by
  unfold State.translate
  split
  · rfl
  · dsimp only
    repeat' split
    all_goals simp

/-- A translation, with the state after it. -/
theorem State.besides_of_vaOf {s u : State} {c va : Nat} {l : Launch} {x : Option Nat} (h : s.vaOf c l va = (x, u)) :
    u.besides = s.besides := by
  have found : (s.vaOf c l va).2.besides = s.besides := s.translate_besides ..
  rwa [h] at found

@[simp] theorem State.vaWrite_besides (s : State) (c : Nat) (l : Launch) (va : Nat) (bs : List Byte) :
    (s.vaWrite c l va bs).besides = s.besides := by
  refine State.besides_foldl (fun s ln => ?_) _ s
  dsimp only
  split
  · next h => exact (State.writeLine_besides ..).trans (State.besides_of_vaOf h)
  · next h => exact State.besides_of_vaOf h

@[simp] theorem State.vaRead_besides (s : State) (c : Nat) (l : Launch) (va n : Nat) :
    (s.vaRead c l va n).2.besides = s.besides := by
  refine State.besides_foldl_snd (fun x ln => ?_) _ ([], s)
  dsimp only
  split
  · next h => exact (State.readLine_besides ..).trans (State.besides_of_vaOf h)
  · next h => exact State.besides_of_vaOf h

@[simp] theorem State.vaNum_besides (s : State) (c : Nat) (l : Launch) (va n : Nat) :
    (s.vaNum c l va n).2.besides = s.besides :=
  s.vaRead_besides ..

end Sys2Proof.Machine
end

section
/-! SUPPORT. Debug stops go on through what returns do: records of replay, flags, logs and registers (R132, R253, R254, R258 to R260,
R270). -/

namespace Sys2Proof.Machine

theorem State.Offered.stops {s t : State} (h : s.Offered t) : t.stops = s.stops := by obtain ⟨_, rfl⟩ := h; rfl

@[simp] theorem State.vaWrite_stops (s : State) (c : Nat) (l : Launch) (va : Nat) (bs : List Byte) :
    (s.vaWrite c l va bs).stops = s.stops :=
  State.stops_of_besides (s.vaWrite_besides ..)

@[simp] theorem State.vaNum_stops (s : State) (c : Nat) (l : Launch) (va n : Nat) : (s.vaNum c l va n).2.stops = s.stops :=
  State.stops_of_besides (s.vaNum_besides ..)

@[simp] theorem State.outsideWrite_stops (s : State) (pa : Nat) (bs : List Byte) (p : Option PTag) :
    (s.outsideWrite pa bs p).stops = s.stops :=
  State.stops_of_besides (s.outsideWrite_besides ..)

@[simp] theorem State.dropFlaws_stops (s : State) (p : FlawAt → Bool) : (s.dropFlaws p).stops = s.stops :=
  State.stops_of_besides (s.dropFlaws_besides p)

@[simp] theorem State.emitL_stops (s : State) (l : Launch) (die c i k pl : Nat) : (s.emitL l die c i k pl).stops = s.stops :=
  (s.emitL_offered ..).stops

/-! ## Record and replay (R258 to R260) -/

@[simp] theorem State.rrFlag_stops (s : State) (c : Nat) (l : Launch) (g bit : Nat) : (s.rrFlag c l g bit).stops = s.stops :=
  (State.vaWrite_stops ..).trans (State.vaNum_stops ..)

@[simp] theorem State.rrRecord_stops (s : State) (c : Ctx) (k hash no value : Nat) (lanes : List Word) :
    (s.rrRecord c k hash no value lanes).stops = s.stops := by
  unfold State.rrRecord
  dsimp only
  split
  · rfl
  · repeat' split
    all_goals simp

@[simp] theorem State.rrScan_stops (s : State) (c : Ctx) (p : RrEntry → Bool) (pos left : Nat) :
    (s.rrScan c p pos left).2.stops = s.stops := by
  induction left generalizing s pos with
  | zero => rfl
  | succ left ih =>
    unfold State.rrScan
    dsimp only
    split <;> simp [ih]

@[simp] theorem State.rrNext_stops (s : State) (c : Ctx) (p : RrEntry → Bool) : (s.rrNext c p).2.stops = s.stops :=
  (State.rrScan_stops ..).trans (State.vaNum_stops ..)

@[simp] theorem State.rrDiverge_stops (s : State) (c : Ctx) (no expect observed : Nat) :
    (s.rrDiverge c no expect observed).stops = s.stops := by
  unfold State.rrDiverge
  dsimp only
  rw [State.updGang_stops]
  split <;> simp

@[simp] theorem State.flagDown_stops (s : State) (gk f hash : Nat) : (s.flagDown gk f hash).stops = s.stops := by
  unfold State.flagDown
  split
  · rfl
  · split
    · rfl
    · dsimp only
      split
      · simp [State.rrNumber]
      · split
        · split
          · split <;> simp
          · simp
        · rfl

/-! ## Logs, registers and returns (R130 to R132, R254, R270) -/

@[simp] theorem State.failHere_stops (s : State) (wk cause depth pc : Nat) (b : Bool) :
    (s.failHere wk cause depth pc b).stops = s.stops := by
  unfold State.failHere
  dsimp only
  repeat' split
  all_goals rfl

@[simp] theorem State.failBlock_stops (s : State) (wk cause depth pc : Nat) (b : Bool) :
    (s.failBlock wk cause depth pc b).stops = s.stops := by
  unfold State.failBlock
  split
  · rfl
  · split
    · split
      · refine List.foldlRecOn _ _ (motive := fun t : State => t.stops = s.stops) (s.failHere_stops ..) fun t ht k _ => ?_
        dsimp only
        repeat' split
        all_goals simp [ht]
      · simp
    · simp

@[simp] theorem State.logFirst_stops (s : State) (wk : Nat) (e : LogEntry) (pc : Nat) : (s.logFirst wk e pc).2.stops = s.stops := by
  unfold State.logFirst
  dsimp only
  repeat' split
  all_goals simp

@[simp] theorem State.putReg_stops (s : State) (gk d : Nat) (m : Lanes) (t : Tag) (f : Nat → Val) :
    (s.putReg gk d m t f).stops = s.stops := by
  unfold State.putReg State.dropReg
  dsimp only
  split
  · rfl
  · split <;> simp

@[simp] theorem State.finishPend_stops (s : State) (gk : Nat) (p : Pend) : (s.finishPend gk p).stops = s.stops :=
  State.flagDown_stops ..

@[simp] theorem State.writeBack_stops (s : State) (c : Ctx) (p : Pend) (m : Lanes) (f : Nat → Nat → Val) :
    (s.writeBack c p m f).stops = s.stops := by
  refine List.foldlRecOn _ _ (motive := fun t : State => t.stops = s.stops) rfl fun t ht j _ => ?_
  dsimp only
  repeat' split
  all_goals simp [ht]

/-- Whatever the held returns of a group do, no scheduler stops or goes on (R254). -/
@[simp] theorem State.applyHeld_stops (s : State) (gk : Nat) : (s.applyHeld gk).stops = s.stops := by
  unfold State.applyHeld
  split
  · rfl
  · refine List.foldlRecOn _ _ (motive := fun t : State => t.stops = s.stops) rfl fun t ht p _ => ?_
    split
    · exact ht
    · split
      · simp [ht]
      · split
        · exact (State.finishPend_stops ..).trans ht
        · simp [ht]

end Sys2Proof.Machine
end

section
/-! SUPPORT. Debug stops and gangs that replay has halted (R251 to R254, R261). -/

namespace Sys2Proof.Machine

/-! ## DBGCTL and DBGSTAT (R251) -/

theorem State.dbgResult_fld (s : State) {r : Nat} (h : r < 4) : (s.dbgResult r).fld 0x2A 1 0 = r :=
  (State.fld_setFld_same _ _ _ (by omega) (by omega)).trans (Nat.mod_eq_of_lt h)

/-- An order to DBGCTL has its OP, and its other fields are those of v. -/
theorem b64_order (v : BitVec 64) {op : Nat} (h : op < 8) :
    b64 (setBits v 62 60 op) 62 60 = op ∧
      ∀ hi lo, hi < 60 ∨ 62 < lo → b64 (setBits v 62 60 op) hi lo = b64 v hi lo :=
  ⟨(b64_setBits_same _ _ (by omega) (by omega)).trans (Nat.mod_eq_of_lt h),
    fun _ _ other => b64_setBits_other _ _ (by omega) (by omega) other⟩

/-- ATTACH is written with every order (R251). -/
def State.attach (s : State) (v : BitVec 64) : State := s.setFld 0x29 63 63 (b64 v 63 63)

theorem State.writeDbgctl_stop (s : State) (v : BitVec 64) :
    s.writeDbgctl (setBits v 62 60 1) =
      if 192 ≤ b64 v 35 28 then (s.attach v).dbgResult 2
      else ((s.attach v).beginStop (b64 v 35 28) (b64 v 37 36) 0).dbgResult 1 := by
  obtain ⟨op, others⟩ := b64_order v (op := 1) (by omega)
  unfold State.writeDbgctl State.attach
  dsimp only
  rw [op, others 63 63 (by omega), others 35 28 (by omega), others 37 36 (by omega)]
  rfl

theorem State.writeDbgctl_end (s : State) (v : BitVec 64) :
    s.writeDbgctl (setBits v 62 60 2) =
      match mget? s.stops (b64 v 35 28 * 4 + b64 v 37 36) with
      | some st => ((s.attach v).endStop (b64 v 35 28) (b64 v 37 36) st).dbgResult 1
      | none => (s.attach v).dbgResult 2 := by
  obtain ⟨op, others⟩ := b64_order v (op := 2) (by omega)
  unfold State.writeDbgctl State.attach
  dsimp only
  rw [op, others 63 63 (by omega), others 35 28 (by omega), others 37 36 (by omega)]
  rfl

theorem State.writeDbgctl_resume (s : State) (v : BitVec 64) :
    s.writeDbgctl (setBits v 62 60 3) = (s.attach v).resumeHalted (b64 v 9 0) (b64 v 27 10) := by
  obtain ⟨op, others⟩ := b64_order v (op := 3) (by omega)
  unfold State.writeDbgctl State.attach
  dsimp only
  rw [op, others 63 63 (by omega), others 9 0 (by omega), others 27 10 (by omega)]
  rfl

/-! ## A stop begins, comes to its quiet point, and ends (R252 to R254) -/

theorem State.emitStop_offered (s : State) (core sched phase cause : Nat) : s.Offered (s.emitStop core sched phase cause) := by
  unfold State.emitStop
  split
  · split
    · exact s.emitL_offered ..
    · exact .refl s
  · exact .refl s

theorem State.beginStop_begins {s : State} {core sched : Nat} (cause : Nat) (runs : mget? s.stops (core * 4 + sched) = none) :
    ∃ st, mget? (s.beginStop core sched cause).stops (core * 4 + sched) = some st ∧ st.cause = cause ∧ st.quiet = none ∧
      st.time = s.time ∧ (s.beginStop core sched cause).groups = s.groups ∧ (s.beginStop core sched cause).mm = s.mm := by
  unfold State.beginStop
  dsimp only
  rw [runs, Option.isSome_none, if_neg Bool.false_ne_true, (State.emitStop_offered ..).stops,
    (State.emitStop_offered ..).groups, (State.emitStop_offered ..).mm]
  exact ⟨_, mget?_mput_same .., rfl, rfl, rfl, rfl, rfl⟩

/-- At the quiet point of a stop its time is kept with it (R253). -/
theorem execQuietPoint_quiet {s : State} {core : BitVec 8} {sched : BitVec 2} {st : Stop}
    (stopped : mget? s.stops (core.toNat * 4 + sched.toNat) = some st) (waits : st.quiet = none)
    (quiet : s.isQuiet core.toNat sched.toNat = true) :
    ∃ t, execQuietPoint core sched s = .next t ∧
      mget? t.stops (core.toNat * 4 + sched.toNat) = some { st with quiet := some s.time } := by
  unfold execQuietPoint
  dsimp only
  rw [stopped]
  dsimp only
  rw [waits, quiet, if_neg (by decide)]
  refine ⟨_, rfl, ?_⟩
  unfold State.stopReport
  rw [(State.emitStop_offered ..).stops, State.outsideWrite_stops]
  exact mget?_mput_same ..

theorem execQuietPoint_idle {s : State} {core : BitVec 8} {sched : BitVec 2}
    (h : mget? s.stops (core.toNat * 4 + sched.toNat) = none ∨ s.isQuiet core.toNat sched.toNat = false) :
    execQuietPoint core sched s = .next s := by
  unfold execQuietPoint
  dsimp only
  split
  · rfl
  · next stopped =>
    have busy := h.resolve_left (by rw [stopped]; exact nofun)
    rw [busy, if_pos (by simp)]

/-- From s to t no group has changed, nor has memory. -/
def State.Still (s t : State) : Prop := (∀ g, mget? t.groups g = mget? s.groups g) ∧ t.mm = s.mm

/-- Groups that await no return await none where no group has changed. -/
theorem State.Still.idle {s t : State} (h : s.Still t) (idle : ∀ g x, mget? s.groups g = some x → x.pend = []) :
    ∀ g x, mget? t.groups g = some x → x.pend = [] :=
  fun g x at_ => idle g x (by rw [← h.1, at_])

/-- A group that awaits no return has none to apply (R254). -/
theorem State.applyHeld_still {s : State} (idle : ∀ g x, mget? s.groups g = some x → x.pend = []) (gk : Nat) :
    s.Still (s.applyHeld gk) := by
  unfold State.applyHeld
  cases at_ : mget? s.groups gk with
  | none => exact ⟨fun _ => rfl, rfl⟩
  | some x =>
    have none_ : x.pend = [] := idle gk x at_
    have same : ({ x with pend := x.pend.map (fun p => { p with cut := [] }) } : Group) = x := by
      obtain ⟨⟩ := x
      cases none_
      rfl
    dsimp only
    rw [none_]
    refine ⟨fun g => ?_, rfl⟩
    show mget? (mupd s.groups gk _) g = mget? s.groups g
    rw [mget?_mupd, at_, Option.map_some, same]
    split
    · next eq => rw [eq, at_]
    · rfl

/-- The stop of a scheduler is over, and only what was held for it changes (R254). -/
theorem State.endStop_ends (s : State) (core sched : Nat) (st : Stop) :
    mget? (s.endStop core sched st).stops (core * 4 + sched) = none ∧
      ((∀ g x, mget? s.groups g = some x → x.pend = []) → s.Still (s.endStop core sched st)) := by
  unfold State.endStop
  dsimp only
  generalize hu : ({ s with stops := mdel s.stops (core * 4 + sched) } : State) = u
  have resumed : mget? u.stops (core * 4 + sched) = none := by
    rw [← hu]
    exact (mget?_mdel ..).trans (if_pos rfl)
  have told := ((u.groupsAt core sched).foldl (fun s e => s.applyHeld e.1) u).emitStop_offered core sched 2 st.cause
  constructor
  · rw [told.stops, List.foldlRecOn _ _ (motive := fun t : State => t.stops = u.stops) rfl
      fun t ht e _ => (t.applyHeld_stops e.1).trans ht]
    exact resumed
  · intro idle
    have still : s.Still u := by
      rw [← hu]
      exact ⟨fun _ => rfl, rfl⟩
    have applied := List.foldlRecOn (u.groupsAt core sched) (fun s e => s.applyHeld e.1) (motive := fun t : State => s.Still t)
      still fun t ht e _ =>
        have next := State.applyHeld_still (ht.idle idle) e.1
        ⟨fun g => (next.1 g).trans (ht.1 g), next.2.trans ht.2⟩
    exact ⟨fun g => (congrArg (mget? · g) told.groups).trans (applied.1 g), told.mm.trans applied.2⟩

/-! ## Halted gangs (R261) -/

theorem State.resumeHalted_none {s : State} (none_ : ∀ e ∈ s.gangs, e.2.halted = false) (q ix : Nat) :
    s.resumeHalted q ix = s.dbgResult 2 := by
  unfold State.resumeHalted
  split
  · next found =>
    have halted := List.find?_some found
    rw [none_ _ (List.mem_of_find?_eq_some found)] at halted
    cases halted
  · rfl

theorem State.resumeHalted_only {s : State} {nk q ix : Nat} {gg : Gang} {l : Launch} (only : s.gangs = [(nk, gg)])
    (halted : gg.halted = true) (index : gg.index % 2 ^ 18 = ix) (launch : mget? s.launches gg.launch = some l)
    (queue : l.queue = q) :
    s.resumeHalted q ix = (s.updGang nk (fun g => { g with halted := false, free := true })).dbgResult 1 := by
  subst index
  unfold State.resumeHalted
  rw [only, List.find?_cons_of_pos]
  simp [halted, launch, queue]

theorem State.updGang_only {s : State} {nk : Nat} {gg : Gang} (only : s.gangs = [(nk, gg)]) (f : Gang → Gang) :
    (s.updGang nk f).gangs = [(nk, f gg)] := by
  rw [State.updGang_gangs, only]
  simp [mupd, mget?, mput]

end Sys2Proof.Machine
end

section
/-! SUPPORT. The debugger's reads and writes of physical memory (R256), and the statement of debug events. -/

namespace Sys2Proof.Machine

/-! ## Accesses within a line -/

theorem getD_bytesLE {n j : Nat} (h : j < n) (x : Nat) : (bytesLE n x).getD j 0#8 = BitVec.ofNat 8 (x / 2 ^ (8 * j)) := by
  induction n generalizing j x with
  | zero => omega
  | succ n ih =>
    cases j with
    | zero => simp [bytesLE]
    | succ j =>
      rw [bytesLE, List.getD_cons_succ, ih (by omega), Nat.div_div_eq_div_mul, Nat.mul_succ, Nat.add_comm (8 * j), Nat.pow_add]

/-- Eight bytes read as a 64-bit number are the bytes of that number. -/
theorem bytesLE_ofNat_ofBytesLE {bs : List Byte} (h : bs.length = 8) : bytesLE 8 (BitVec.ofNat 64 (ofBytesLE bs)).toNat = bs := by
  have small : ofBytesLE bs < 2 ^ 64 := by
    have lt := ofBytesLE_lt bs
    rwa [h] at lt
  rw [toNat_ofNat_of_lt small, bytesLE_ofBytesLE _ _ (by omega), ← h, List.take_length]

theorem linesOf_within {pa n : Nat} (pos : 0 < n) (fits : pa % 128 + n ≤ 128) : linesOf pa n = [pa / 128] := by
  have one : (pa + n + 127) / 128 - pa / 128 = 1 := by omega
  unfold linesOf
  rw [one]
  rfl

/-- A read at the home of bytes within a line gives them, with the poison of the line (R155). -/
theorem State.Sound.homeRead_within {s : State} (h : s.Sound) {pa n : Nat} (pos : 0 < n) (fits : pa % 128 + n ≤ 128) :
    s.homeRead pa n =
      ((List.range n).map (fun j => s.byteAt (pa + j)), s.linePois (pa / 128), (s.recallStep (pa / 128)).1) := by
  have start : max pa (pa / 128 * 128) = pa := by omega
  have stop : min (pa + n) ((pa / 128 + 1) * 128) = pa + n := by omega
  have base : pa / 128 * 128 + (pa - pa / 128 * 128) = pa := by omega
  unfold State.homeRead
  rw [linesOf_within pos fits, List.foldl_cons, List.foldl_nil]
  dsimp only
  rw [h.homeReadLine_eq]
  dsimp only
  rw [start, stop, Nat.add_sub_cancel_left, lineBytes_lineData _ _ _ _ (by omega), base, List.nil_append]
  rfl

/-- Soundness speaks of no register but that of injection. -/
theorem State.Sound.setFld {s : State} (h : s.Sound) {n : Nat} (other : 0x27 ≠ n) (hi lo x : Nat) : (s.setFld n hi lo x).Sound where
  memory := h.memory
  noArm := by
    unfold State.setFld
    rw [State.reg_setReg_other _ _ other]
    exact h.noArm
  noFlip := h.noFlip
  noSent := h.noSent
  noFlaw := h.noFlaw
  noDead := h.noDead

theorem State.toHost_mm (s : State) (p : Tlp) : (s.toHost p).mm = s.mm := by
  unfold State.toHost
  split
  · rfl
  · split <;> rfl

/-! ## DBGD in window 0 (R256) -/

/-- An address below the overflow areas is one of window 0, and there is memory behind it. -/
theorem window0_dram {a : Nat} (h : a < 0x7FFE000000) :
    nbits a 59 56 = 0 ∧ nbits a 47 0 = a ∧ paExists a = true ∧ inOvf a = false := by
  unfold nbits paExists inStack inOvf
  refine ⟨by omega, by omega, ?_, ?_⟩
  · rw [decide_eq_true (by omega), Bool.true_or, Bool.true_or]
  · rw [decide_eq_false (by omega), Bool.false_and]

theorem State.readDbgd_misaligned {s : State} (h : (s.reg 0x2C).toNat % 8 ≠ 0) :
    s.readDbgd = (0#64, (s.setFld 0x2A 2 2 0).dbgResult 3) := by
  unfold State.readDbgd
  dsimp only
  rw [if_pos h]

theorem State.readDbgd_dram {s : State} (aligned : (s.reg 0x2C).toNat % 8 = 0) (below : (s.reg 0x2C).toNat < 0x7FFE000000) :
    s.readDbgd =
      let (bs, p, t) := (s.setFld 0x2A 2 2 0).homeRead (s.reg 0x2C).toNat 8
      (BitVec.ofNat 64 (ofBytesLE bs), (t.setFld 0x2A 2 2 (b2n p.isSome)).dbgResult 1) := by
  obtain ⟨window, pa, exists_, ovf⟩ := window0_dram below
  unfold State.readDbgd
  dsimp only
  rw [if_neg (by omega), window, pa, exists_, ovf, Bool.not_true, Bool.false_and, if_neg Bool.false_ne_true, if_neg Bool.false_ne_true]
  rfl

theorem State.writeDbgd_misaligned {s : State} (h : (s.reg 0x2C).toNat % 8 ≠ 0) (v : BitVec 64) :
    s.writeDbgd v = s.dbgResult 3 := by
  unfold State.writeDbgd
  dsimp only
  rw [if_pos h]

theorem State.writeDbgd_dram {s : State} (aligned : (s.reg 0x2C).toNat % 8 = 0) (below : (s.reg 0x2C).toNat < 0x7FFE000000)
    (v : BitVec 64) :
    s.writeDbgd v = (s.outsideWrite (s.reg 0x2C).toNat (bytesLE 8 v.toNat) none).dbgResult 1 := by
  obtain ⟨window, pa, exists_, ovf⟩ := window0_dram below
  unfold State.writeDbgd
  dsimp only
  rw [if_neg (by omega), window, pa, exists_, ovf, Bool.not_true, if_neg Bool.false_ne_true, if_neg Bool.false_ne_true]
  rfl

/-- A read of a clean line answers its bytes and leaves them (R256). -/
theorem State.Sound.dbgdRead_bytes {s : State} (h : s.Sound) (aligned : (s.reg 0x2C).toNat % 8 = 0)
    (below : (s.reg 0x2C).toNat < 0x7FFE000000) (clean : s.linePois ((s.reg 0x2C).toNat / 128) = none) :
    ∃ t, execDbgdRead s = .next t ∧ t.fld 0x2A 1 0 = 1 ∧ t.fld 0x2A 2 2 = 0 ∧ (∀ b, t.byteAt b = s.byteAt b) ∧
      (s.links.sl15 = true → t.links.out = s.links.out ++
        [.host (.data ((List.range 8).map (fun j => s.byteAt ((s.reg 0x2C).toNat + j))) false)]) := by
  have sound := h.setFld (n := 0x2A) (by omega) 2 2 0
  have read := State.readDbgd_dram aligned below
  generalize (s.reg 0x2C).toNat = a at *
  have moved := sound.recallStep_moves (a / 128)
  rw [sound.homeRead_within (by omega) (by omega)] at read
  obtain ⟨mm, at_⟩ := moved.rest
  generalize ((s.setFld 0x2A 2 2 0).recallStep (a / 128)).1 = u at *
  have links : u.links = s.links := by rw [at_]; rfl
  have poison : (s.setFld 0x2A 2 2 0).linePois (a / 128) = none := clean
  have given : execDbgdRead s = .next (((u.setFld 0x2A 2 2 0).dbgResult 1).toHost
      (.data ((List.range 8).map (fun j => s.byteAt (a + j))) false)) := by
    unfold execDbgdRead
    rw [read]
    dsimp only
    rw [bytesLE_ofNat_ofBytesLE (by simp), poison]
    rfl
  have regs := (State.toHost_reported ((u.setFld 0x2A 2 2 0).dbgResult 1)
    (.data ((List.range 8).map (fun j => s.byteAt (a + j))) false)).regs
  refine ⟨_, given, ?_, ?_, fun b => ?_, fun direct => ?_⟩
  · rw [State.fld_congr regs, State.dbgResult_fld _ (by omega)]
  · rw [State.fld_congr regs]
    unfold State.dbgResult
    rw [State.fld_setFld_other _ _ _ _ (by omega) (by omega) (by omega), State.fld_setFld_same _ _ _ (by omega) (by omega),
      Nat.zero_mod]
  · refine Eq.trans ?_ (moved.byteAt b)
    unfold State.byteAt
    rw [State.toHost_mm]
    rfl
  · rw [State.toHost_direct (by exact (congrArg Links.sl15 links).trans direct), State.send_links]
    exact congrArg (· ++ _) (congrArg Links.out links)

/-- A write stores its eight bytes (R256). -/
theorem State.Sound.writeDbgd_bytes {s : State} (h : s.Sound) (aligned : (s.reg 0x2C).toNat % 8 = 0)
    (below : (s.reg 0x2C).toNat < 0x7FFE000000) (v : BitVec 64) (b : Nat) :
    (s.writeDbgd v).byteAt b =
      if (s.reg 0x2C).toNat ≤ b ∧ b < (s.reg 0x2C).toNat + 8 then
        BitVec.ofNat 8 (v.toNat / 2 ^ (8 * (b - (s.reg 0x2C).toNat)))
      else s.byteAt b := by
  have stored := (h.outsideWrite_wrote (s.reg 0x2C).toNat (bytesLE 8 v.toNat) none).bytes b
  rw [length_bytesLE] at stored
  rw [State.writeDbgd_dram aligned below]
  refine Eq.trans (rfl : State.byteAt (State.dbgResult _ 1) b = _) (stored.trans ?_)
  split
  · next inside => exact getD_bytesLE (by omega) _
  · rfl

end Sys2Proof.Machine

namespace Sys2Proof.Proofs
open Sys2Proof.Machine

/-- Settles O50: each order to DBGCTL, the quiet point, and DBGD in window 0, in turn; that a stop is over after its returns are
applied rests on what those leave alone. -/
theorem debugEvents : Obligations.DebugEvents := by
  unfold Obligations.DebugEvents
  intro s v k
  have stop : exec (.debugStop v) s = .next (s.writeDbgctl (setBits v 62 60 1)) := rfl
  have end_ : exec (.debugStopEnd v) s = .next (s.writeDbgctl (setBits v 62 60 2)) := rfl
  have resume : exec (.resumeHaltedGang v) s = .next (s.writeDbgctl (setBits v 62 60 3)) := rfl
  rw [State.writeDbgctl_stop] at stop
  rw [State.writeDbgctl_end] at end_
  rw [State.writeDbgctl_resume] at resume
  refine ⟨?_, ?_, ?_, ?_, ?_, ?_, fun c h => ⟨?_, ?_⟩, ?_, ?_⟩
  · intro core runs
    obtain ⟨st, begun, cause, quiet, time, groups, mm⟩ := State.beginStop_begins (s := s.attach v) 0 runs
    rw [if_neg (by omega)] at stop
    exact ⟨_, st, stop, begun, cause, quiet, time, State.dbgResult_fld _ (by omega), groups, mm⟩
  · intro beyond
    rw [if_pos beyond] at stop
    exact ⟨_, stop, rfl, State.dbgResult_fld _ (by omega)⟩
  · intro runs
    rw [runs] at end_
    exact ⟨_, end_, State.dbgResult_fld _ (by omega), rfl⟩
  · intro st stopped
    obtain ⟨ended, still⟩ := (s.attach v).endStop_ends (b64 v 35 28) (b64 v 37 36) st
    rw [stopped] at end_
    exact ⟨_, end_, ended, State.dbgResult_fld _ (by omega), fun idle => still fun g x at_ => idle _ (mget?_mem at_)⟩
  · intro none_
    rw [State.resumeHalted_none (s := s.attach v) none_] at resume
    exact ⟨_, resume, rfl, State.dbgResult_fld _ (by omega)⟩
  · intro nk gg l only halted index launch queue
    rw [State.resumeHalted_only (s := s.attach v) only halted index launch queue] at resume
    exact ⟨_, resume, State.updGang_only (s := s.attach v) only _, State.dbgResult_fld _ (by omega)⟩
  · exact fun st => execQuietPoint_quiet
  · exact execQuietPoint_idle
  · intro misaligned
    constructor
    · have read : execDbgdRead s = .next (((s.setFld 0x2A 2 2 0).dbgResult 3).toHost (.data (bytesLE 8 (0#64).toNat) false)) := by
        unfold execDbgdRead
        rw [State.readDbgd_misaligned misaligned]
      exact ⟨_, read, (State.fld_congr (State.toHost_reported ..).regs ..).trans (State.dbgResult_fld _ (by omega)),
        State.toHost_mm ..⟩
    · exact ⟨_, congrArg Host.Outcome.next (State.writeDbgd_misaligned misaligned v), State.dbgResult_fld _ (by omega), rfl⟩
  · intro aligned below sound
    refine ⟨sound.dbgdRead_bytes aligned below, _, rfl, ?_, sound.writeDbgd_bytes aligned below v⟩
    rw [State.writeDbgd_dram aligned below]
    exact State.dbgResult_fld _ (by omega)

end Sys2Proof.Proofs
end

section
/-! SUPPORT. The words of instructions (R273 to R281): how the encoder's formats are read back, field by field, and how a word that
decodes is put together from its fields. -/

namespace Sys2Proof

/-! ## Fields -/

section
variable {n k lo w : Nat}

theorem toNat_fieldOf : (fieldOf n lo w).toNat = w / 2 ^ lo % 2 ^ n := BitVec.toNat_ofNat ..

theorem fieldOf_eq {x : BitVec n} (h : w / 2 ^ lo % 2 ^ n = x.toNat) : fieldOf n lo w = x :=
  BitVec.eq_of_toNat_eq (toNat_fieldOf.trans h)

/-- A part of a field is a field of the word. -/
theorem extractLsb'_fieldOf (s : Nat) (inside : s + k ≤ n) : (fieldOf n lo w).extractLsb' s k = fieldOf k (lo + s) w := by
  apply BitVec.eq_of_toNat_eq
  obtain ⟨r, rfl⟩ := Nat.exists_eq_add_of_le inside
  rw [BitVec.extractLsb'_toNat, toNat_fieldOf, toNat_fieldOf, Nat.shiftRight_eq_div_pow, Nat.add_assoc, Nat.pow_add,
    Nat.mod_mul_right_div_self, Nat.div_div_eq_div_mul, ← Nat.pow_add, Nat.pow_add 2 k, Nat.mod_mul_right_mod]

/-- The fields of a word are those of its 32 bits. -/
theorem fieldOf_mod (inside : lo + n ≤ 32) : fieldOf n lo (w % 2 ^ 32) = fieldOf n lo w := by
  obtain ⟨r, above⟩ := Nat.exists_eq_add_of_le inside
  refine fieldOf_eq ?_
  rw [toNat_fieldOf, above, Nat.add_assoc, Nat.pow_add, Nat.mod_mul_right_div_self, Nat.pow_add, Nat.mod_mul_right_mod]

theorem part_toNat (x : BitVec n) (s k : Nat) : (x.extractLsb' s k).toNat = x.toNat / 2 ^ s % 2 ^ k := by
  rw [BitVec.extractLsb'_toNat, Nat.shiftRight_eq_div_pow]

/-- Two parts side by side, as the encoder adds them up. -/
theorem toNat_append_eq {m : Nat} (x : BitVec m) (y : BitVec n) : (x ++ y).toNat = x.toNat * 2 ^ n + y.toNat := by
  rw [BitVec.toNat_append, Nat.shiftLeft_eq, Nat.mul_comm, Nat.two_pow_add_eq_or_of_lt y.isLt]

theorem toNat_append_eq_zero {m : Nat} {x : BitVec m} {y : BitVec n} : (x ++ y).toNat = 0 ↔ x.toNat = 0 ∧ y.toNat = 0 := by
  rw [BitVec.toNat_append, Nat.or_eq_zero_iff, Nat.shiftLeft_eq_zero_iff]

theorem unusedZero_eq_ok {u : BitVec n} {i j : Instr} : unusedZero u i = .ok j ↔ u.toNat = 0 ∧ i = j := by
  unfold unusedZero
  split <;> simp_all [← BitVec.toNat_inj]

theorem ok_eq_ok {i j : Instr} : (.ok i : Except Reject Instr) = .ok j ↔ True ∧ i = j := by
  rw [true_and, Except.ok.injEq]

end

/-- The rules that read the parts of a field: of fields that stand side by side, and of a value in a wider field. -/
theorem field_parts :
    (∀ (m n : Nat) (x : BitVec m) (y : BitVec n), (x ++ y).extractLsb' n m = x) ∧
    (∀ (m n : Nat) (x : BitVec m) (y : BitVec n), (x ++ y).extractLsb' 0 n = y) ∧
    (∀ (m n : Nat) (x : BitVec m) (y : BitVec n) (s k : Nat), s + k ≤ n → (x ++ y).extractLsb' s k = y.extractLsb' s k) ∧
    (∀ (n : Nat) (x : BitVec n) (m s k : Nat), s + k ≤ m → (x.setWidth m).extractLsb' s k = x.extractLsb' s k) ∧
    (∀ (n : Nat) (x : BitVec n), x.extractLsb' 0 n = x) ∧
    ∀ (n : Nat) (x : BitVec n) (s k : Nat), n ≤ s → x.extractLsb' s k = 0#k := by
  refine ⟨fun _ _ _ _ => BitVec.extractLsb'_append_eq_left, fun _ _ _ _ => BitVec.extractLsb'_append_eq_right,
    fun _ _ _ _ _ _ => BitVec.extractLsb'_append_eq_of_add_le, fun _ _ _ _ _ => BitVec.extractLsb'_setWidth_of_le,
    fun _ _ => BitVec.extractLsb'_eq_self, fun n x s k above => BitVec.eq_of_toNat_eq ?_⟩
  rw [BitVec.extractLsb'_toNat, Nat.shiftRight_eq_div_pow,
    Nat.div_eq_of_lt (Nat.lt_of_lt_of_le x.isLt (Nat.pow_le_pow_right (by decide) above)), Nat.zero_mod, BitVec.toNat_ofNat, Nat.zero_mod]

/-! ## From the instruction to its word and back

One lemma for each format of R273: where the family that decodes the major's words gives r for the fields, the word of these fields
decodes to r. That the family decodes the major is the match of decodeNat at that literal. -/

section
variable {M : Nat} {r : Except Reject Instr}

/-- F3 with a minor of four bits. -/
theorem decode_f3 {d a b : BitVec 7} {m : Nat} (dec : BitVec 7 → BitVec 7 → BitVec 7 → Nat → Except Reject Instr)
    (value : dec d a b m = r) (hM : M < 128 := by decide) (hm : m < 16 := by decide)
    (family : ∀ w, w / 2 ^ 25 % 128 = M → decodeNat w = dec (fieldOf 7 18 w) (fieldOf 7 11 w) (fieldOf 7 4 w) (w % 16) := by
      intro w h; unfold decodeNat; rw [h]; rfl) : decodeNat (f3 M d.toNat a.toNat b.toNat m) = r := by
  rw [family _ (by unfold f3; omega), fieldOf_eq (x := d), fieldOf_eq (x := a), fieldOf_eq (x := b),
    show f3 M d.toNat a.toNat b.toNat m % 16 = m by unfold f3; omega, value]
  all_goals unfold f3; omega

/-- F3 whose minor is a field. -/
theorem decode_f3_field {d a b : BitVec 7} {m : BitVec 4} (dec : BitVec 7 → BitVec 7 → BitVec 7 → BitVec 4 → Except Reject Instr)
    (value : dec d a b m = r) (hM : M < 128 := by decide)
    (family : ∀ w, w / 2 ^ 25 % 128 = M → decodeNat w = dec (fieldOf 7 18 w) (fieldOf 7 11 w) (fieldOf 7 4 w) (fieldOf 4 0 w) := by
      intro w h; unfold decodeNat; rw [h]; rfl) : decodeNat (f3 M d.toNat a.toNat b.toNat m.toNat) = r := by
  rw [family _ (by unfold f3; omega), fieldOf_eq (x := d), fieldOf_eq (x := a), fieldOf_eq (x := b), fieldOf_eq (x := m), value]
  all_goals unfold f3; omega

/-- F3 of a float operation: its minor is TE and three bits (R343). -/
theorem decode_f3_float {d a b : BitVec 7} {t : BitVec 1} {m : Nat}
    (dec : BitVec 7 → BitVec 7 → BitVec 7 → BitVec 1 → Nat → Except Reject Instr)
    (value : dec d a b t m = r) (hM : M < 128 := by decide) (hm : m < 8 := by decide)
    (family : ∀ w, w / 2 ^ 25 % 128 = M →
        decodeNat w = dec (fieldOf 7 18 w) (fieldOf 7 11 w) (fieldOf 7 4 w) (fieldOf 1 3 w) (w % 8) := by
      intro w h; unfold decodeNat; rw [h]; rfl) : decodeNat (f3 M d.toNat a.toNat b.toNat (t.toNat * 2 ^ 3 + m)) = r := by
  rw [family _ (by unfold f3; omega), fieldOf_eq (x := d), fieldOf_eq (x := a), fieldOf_eq (x := b), fieldOf_eq (x := t),
    show f3 M d.toNat a.toNat b.toNat (t.toNat * 2 ^ 3 + m) % 8 = m by unfold f3; omega, value]
  all_goals unfold f3; omega

theorem decode_fi {d a : BitVec 7} {i : BitVec 11} (dec : BitVec 7 → BitVec 7 → BitVec 11 → Except Reject Instr)
    (value : dec d a i = r) (hM : M < 128 := by decide)
    (family : ∀ w, w / 2 ^ 25 % 128 = M → decodeNat w = dec (fieldOf 7 18 w) (fieldOf 7 11 w) (fieldOf 11 0 w) := by
      intro w h; unfold decodeNat; rw [h]; rfl) : decodeNat (fi M d.toNat a.toNat i.toNat) = r := by
  rw [family _ (by unfold fi; omega), fieldOf_eq (x := d), fieldOf_eq (x := a), fieldOf_eq (x := i), value]
  all_goals unfold fi; omega

theorem decode_fu {d : BitVec 7} {i : BitVec 18} (dec : BitVec 7 → BitVec 18 → Except Reject Instr)
    (value : dec d i = r) (hM : M < 128 := by decide)
    (family : ∀ w, w / 2 ^ 25 % 128 = M → decodeNat w = dec (fieldOf 7 18 w) (fieldOf 18 0 w) := by
      intro w h; unfold decodeNat; rw [h]; rfl) : decodeNat (fu M d.toNat i.toNat) = r := by
  rw [family _ (by unfold fu; omega), fieldOf_eq (x := d), fieldOf_eq (x := i), value]
  all_goals unfold fu; omega

theorem decode_fb {k : Nat} {o : BitVec 22} (dec : Nat → BitVec 22 → Except Reject Instr)
    (value : dec k o = r) (hM : M < 128 := by decide) (hk : k < 8 := by decide)
    (family : ∀ w, w / 2 ^ 25 % 128 = M → decodeNat w = dec (w / 2 ^ 22 % 8) (fieldOf 22 0 w) := by
      intro w h; unfold decodeNat; rw [h]; rfl) : decodeNat (fb M k o.toNat) = r := by
  rw [family _ (by unfold fb; omega), fieldOf_eq (x := o), show fb M k o.toNat / 2 ^ 22 % 8 = k by unfold fb; omega, value]
  unfold fb; omega

theorem decode_fm {d a : BitVec 7} {h : BitVec 4} {s : BitVec 3} {m : BitVec 4}
    (dec : BitVec 7 → BitVec 7 → BitVec 4 → BitVec 3 → BitVec 4 → Except Reject Instr)
    (value : dec d a h s m = r) (hM : M < 128 := by decide)
    (family : ∀ w, w / 2 ^ 25 % 128 = M →
        decodeNat w = dec (fieldOf 7 18 w) (fieldOf 7 11 w) (fieldOf 4 7 w) (fieldOf 3 4 w) (fieldOf 4 0 w) := by
      intro w h; unfold decodeNat; rw [h]; rfl) : decodeNat (fm M d.toNat a.toNat h.toNat s.toNat m.toNat) = r := by
  rw [family _ (by unfold fm; omega), fieldOf_eq (x := d), fieldOf_eq (x := a), fieldOf_eq (x := h), fieldOf_eq (x := s),
    fieldOf_eq (x := m), value]
  all_goals unfold fm; omega

end

/-- The decoder reads back the word of every instruction, each from its fields: those that stand alone in theirs, those of a value
in a wider field, and those that stand side by side. -/
theorem decodeNat_of_encodeNat {w : Nat} {i : Instr} (h : encodeNat i = some w) : decodeNat w = .ok i := by
  cases i <;> cases h
  case bra | braAny | braAll => all_goals exact decode_fb dec01 rfl
  case call => exact decode_fb dec02 rfl
  case elseby => exact decode_fb dec11 rfl
  case elseerr => exact decode_fb (o := 0) dec12 rfl
  case brx | callx | ret => all_goals exact decode_f3 (d := 0) (b := 0) dec03 rfl
  case join | exit | nop | yield => all_goals exact decode_f3 (d := 0) (a := 0) (b := 0) dec06 rfl
  case reject => exact decode_f3 (d := 0) (a := 0) (b := 0) dec13 rfl
  case convl => exact decode_f3 (d := 0) (a := 0) (b := 0) dec15 rfl
  case vadd | vsub | vmul | vmulh | vmad | vmin | vmax | vdot4 => all_goals exact decode_f3 dec20 rfl
  case vabs | vneg => all_goals exact decode_f3 (b := 0) dec20 rfl
  case vand | vor | vxor | vshl | vshr | vrol => all_goals exact decode_f3 dec21 rfl
  case vclz | vpopc | vbrev => all_goals exact decode_f3 (b := 0) dec21 rfl
  case vbfe | vbfi | vpack => all_goals exact decode_f3 dec22 rfl
  case vmov | vtag | vunpk => all_goals exact decode_f3 (b := 0) dec22 rfl
  case vbcast | vshfl | vshfx => all_goals exact decode_f3 dec38 rfl
  case vfadd | vfsub | vfmul | vfma | vfmin | vfmax | vfdiv => all_goals exact decode_f3_float dec40 rfl
  case vrcp | vrsq | vsqrt | vexp2 | vlog2 | vsin | vcos | vfrnd => all_goals exact decode_f3_float (b := 0) dec42 rfl
  case wbar | gbar => all_goals exact decode_f3 (d := 0) (a := 0) (b := 0) dec70 rfl
  case evsigAdd | evsigSet => all_goals exact decode_f3 (d := 0) dec73 rfl
  case evsigClr => exact decode_f3 (d := 0) (b := 0) dec73 rfl
  case evqry => exact decode_f3 (b := 0) dec73 rfl
  case jtab => exact decode_fi (d := 0) dec04 rfl
  case switch => exact decode_fi (d := 0) dec05 rfl
  case vaddi => exact decode_fi dec28 rfl
  case vandi => exact decode_fi dec29 rfl
  case vori => exact decode_fi dec2A rfl
  case vxori => exact decode_fi dec2B rfl
  case vaff => exact decode_fi dec2F rfl
  case ensure => exact decode_fu dec10 rfl
  case setmRegister => exact decode_fu (i := 0x10000) dec18 rfl
  case getm => exact decode_fu (i := 0) dec19 rfl
  case eret => exact decode_fu (d := 0) (i := 0) dec1C rfl
  case eretSkip => exact decode_fu (d := 0) (i := 1) dec1C rfl
  case vmovi => exact decode_fu dec30 rfl
  case vlui => exact decode_fu dec31 rfl
  case vspr => exact decode_fu dec44 rfl
  case cbinv => exact decode_fu (d := 0) (i := 0) dec5F rfl
  case halt => exact decode_fu (d := 0) (i := 0) dec77 rfl
  case convj => exact decode_fm (d := 0) (s := 0) (m := 0) dec14 rfl
  case st => exact decode_fm (m := 0) dec51 rfl
  case accept p => exact decode_f3 (d := 0) (a := p.setWidth 7) (b := 0) dec13 (by
    simp (disch := decide) only [dec13, field_parts]; rfl)
  case vcmp p a b c => exact decode_f3_field (d := p.setWidth 7) dec23 (by
    simp (disch := decide) only [dec23, field_parts]; rfl)
  case vred d a o => exact decode_f3 (b := o.setWidth 7) dec38 (by
    simp (disch := decide) only [dec38, field_parts]; rfl)
  case vscan d a e o =>
    rw [← toNat_append_eq]
    exact decode_f3 (b := (e ++ o).setWidth 7) dec38 (by simp (disch := decide) only [dec38, field_parts]; rfl)
  case pand p q r => exact decode_f3 (d := p.setWidth 7) (a := q.setWidth 7) (b := r.setWidth 7) dec39 (by
    simp (disch := decide) only [dec39, field_parts]; rfl)
  case por p q r => exact decode_f3 (d := p.setWidth 7) (a := q.setWidth 7) (b := r.setWidth 7) dec39 (by
    simp (disch := decide) only [dec39, field_parts]; rfl)
  case pxor p q r => exact decode_f3 (d := p.setWidth 7) (a := q.setWidth 7) (b := r.setWidth 7) dec39 (by
    simp (disch := decide) only [dec39, field_parts]; rfl)
  case pnot p q => exact decode_f3 (d := p.setWidth 7) (a := q.setWidth 7) (b := 0) dec39 (by
    simp (disch := decide) only [dec39, field_parts]; rfl)
  case ballot d q => exact decode_f3 (a := q.setWidth 7) (b := 0) dec39 (by
    simp (disch := decide) only [dec39, field_parts]; rfl)
  case pmask p a => exact decode_f3 (d := p.setWidth 7) (b := 0) dec39 (by
    simp (disch := decide) only [dec39, field_parts]; rfl)
  case vfcmp p a b c =>
    exact decode_f3_field (d := p.setWidth 7) (m := c.setWidth 4) (fun d a b m => dec41 d a b (m.extractLsb' 3 1) (m.extractLsb' 0 3))
      (by simp (disch := decide) only [dec41, field_parts]; rfl)
      (family := fun w h => by unfold decodeNat; rw [h, extractLsb'_fieldOf 3 (by decide), extractLsb'_fieldOf 0 (by decide)]; rfl)
  case vcvt d a y t => exact decode_f3_float (b := y.setWidth 7) dec43 (by
    simp (disch := decide) only [dec43, field_parts]; rfl)
  case vcvtn d a f t => exact decode_f3_float (b := f.setWidth 7) dec43 (by
    simp (disch := decide) only [dec43, field_parts]; rfl)
  case vscl d a f t => exact decode_f3_float (b := f.setWidth 7) dec43 (by
    simp (disch := decide) only [dec43, field_parts]; rfl)
  case vamax d a n => exact decode_f3_float (b := n.setWidth 7) (t := 0) (m := 2) dec43 (by
    simp (disch := decide) only [dec43, field_parts]; rfl)
  case vrand d n => exact decode_f3_float (a := 0) (b := n.setWidth 7) (t := 0) (m := 4) dec43 (by
    simp (disch := decide) only [dec43, field_parts]; rfl)
  case cpy d a b q => exact decode_f3_field (m := q.setWidth 4) dec60 (by
    simp (disch := decide) only [dec60, field_parts]; rfl)
  case cpyb d a b q => exact decode_f3_field (m := q.setWidth 4) dec61 (by
    simp (disch := decide) only [dec61, field_parts]; rfl)
  case cpyxG d a b q => exact decode_f3_field (m := q.setWidth 4) dec62 (by
    simp (disch := decide) only [dec62, field_parts]; rfl)
  case cpyxS d a b q =>
    rw [show 8 + q.toNat = (1#1 ++ q).toNat from (toNat_append_eq 1#1 q).symm]
    exact decode_f3_field dec62 (by simp (disch := decide) only [dec62, field_parts]; rfl)
  case mma f t a b =>
    rw [← toNat_append_eq]
    exact decode_f3  dec68 (by simp (disch := decide) only [dec68, field_parts])
  case mmack f t a b =>
    rw [← toNat_append_eq]
    exact decode_f3  dec69 (by simp (disch := decide) only [dec69, field_parts])
  case mckv d t b => exact decode_f3_field (a := t.setWidth 7) (m := 0) dec6E (by
    simp (disch := decide) only [dec6E, field_parts]; rfl)
  case mckc t q => exact decode_f3_field (d := t.setWidth 7) (b := 0) (m := 0) dec6F (by
    simp (disch := decide) only [dec6F, field_parts]; rfl)
  case vsel d a s p b =>
    rw [Nat.add_assoc, ← toNat_append_eq, ← toNat_append_eq]
    exact decode_fi dec24 (by simp (disch := decide) only [dec24, field_parts])
  case vshli d a k => exact decode_fi (i := k.setWidth 11) dec2C (by
    simp (disch := decide) only [dec2C, field_parts]; rfl)
  case vshri d a k => exact decode_fi (i := k.setWidth 11) dec2D (by
    simp (disch := decide) only [dec2D, field_parts]; rfl)
  case vcmpi c p a i =>
    rw [← toNat_append_eq]
    exact decode_fi  dec2E (by simp (disch := decide) only [dec2E, field_parts])
  case setm v => exact decode_fu (d := 0) (i := v.setWidth 18) dec18 (by
    simp (disch := decide) only [dec18, field_parts]; rfl)
  case trap c => exact decode_fu (d := 0) (i := c.setWidth 18) dec1A (by
    simp (disch := decide) only [dec1A, field_parts]; rfl)
  case bkpt t => exact decode_fu (d := 0) (i := t.setWidth 18) dec1B (by
    simp (disch := decide) only [dec1B, field_parts]; rfl)
  case qfence m => exact decode_fu (d := 0) (i := m.setWidth 18) dec63 (by
    simp (disch := decide) only [dec63, field_parts]; rfl)
  case mzero m => exact decode_fu (d := 0) (i := m.setWidth 18) dec6A (by
    simp (disch := decide) only [dec6A, field_parts]; rfl)
  case fpush d b => exact decode_fu (i := b.setWidth 18) dec71 (by
    simp (disch := decide) only [dec71, field_parts]; rfl)
  case trace d c => exact decode_fu (i := c.setWidth 18) dec74 (by
    simp (disch := decide) only [dec74, field_parts]; rfl)
  case sysr d n => exact decode_fu (i := n.setWidth 18) dec75 (by
    simp (disch := decide) only [dec75, field_parts]; rfl)
  case waitf m => exact decode_fu (d := 0) (i := m.setWidth 18) dec76 (by
    simp (disch := decide) only [dec76, field_parts]; rfl)
  case fpop d b =>
    rw [show 2 ^ 17 + b.toNat = (1#1 ++ b.setWidth 17).toNat from (toNat_append_eq 1#1 (b.setWidth 17)).symm]
    exact decode_fu dec71 (by simp (disch := decide) only [dec71, field_parts]; rfl)
  case tmark c =>
    rw [show 2 ^ 17 + c.toNat = (1#1 ++ c.setWidth 17).toNat from (toNat_append_eq 1#1 (c.setWidth 17)).symm]
    exact decode_fu (d := 0) dec74 (by simp (disch := decide) only [dec74, field_parts]; rfl)
  case sysw d n =>
    rw [show 2 ^ 17 + n.toNat = (1#1 ++ n.setWidth 17).toNat from (toNat_append_eq 1#1 (n.setWidth 17)).symm]
    exact decode_fu dec75 (by simp (disch := decide) only [dec75, field_parts]; rfl)
  case chk m o =>
    rw [← toNat_append_eq]
    exact decode_fu (d := 0) dec55 (by simp (disch := decide) only [dec55, field_parts]; rfl)
  case hload e s =>
    rw [← toNat_append_eq]
    exact decode_fu (d := 0) (i := (e ++ s).setWidth 18) dec5E (by simp (disch := decide) only [dec5E, field_parts]; rfl)
  case fence p s k =>
    rw [Nat.add_assoc, ← toNat_append_eq, ← toNat_append_eq]
    exact decode_fu (d := 0) (i := (p ++ (s ++ k)).setWidth 18) dec56 (by simp (disch := decide) only [dec56, field_parts]; rfl)
  case bankm d e m b =>
    rw [Nat.add_assoc, ← toNat_append_eq, ← toNat_append_eq]
    exact decode_fu (i := (e ++ (m ++ b)).setWidth 18) dec72 (by simp (disch := decide) only [dec72, field_parts]; rfl)
  case ld d a h s x => exact decode_fm (m := x.setWidth 4) dec50 (by
    simp (disch := decide) only [dec50, field_parts]; rfl)
  case lda d a h s c => exact decode_fm (m := c.setWidth 4) dec52 (by
    simp (disch := decide) only [dec52, field_parts]; rfl)
  case strl d a h s c => exact decode_fm (m := c.setWidth 4) dec53 (by
    simp (disch := decide) only [dec53, field_parts]; rfl)
  case ldw d a h s t => exact decode_fm (m := t.setWidth 4) dec54 (by
    simp (disch := decide) only [dec54, field_parts]; rfl)
  case atom d a h s n o =>
    rw [← toNat_append_eq]
    exact decode_fm  dec57 (by simp (disch := decide) only [dec57, field_parts])
  case atomAcq d a h s n o =>
    rw [← toNat_append_eq]
    exact decode_fm  dec58 (by simp (disch := decide) only [dec58, field_parts])
  case atomRel d a h s n o =>
    rw [← toNat_append_eq]
    exact decode_fm  dec59 (by simp (disch := decide) only [dec59, field_parts])
  case atomAr d a h s n o =>
    rw [← toNat_append_eq]
    exact decode_fm  dec5A (by simp (disch := decide) only [dec5A, field_parts])
  case lr d a h s n o =>
    rw [← toNat_append_eq]
    exact decode_fm  dec5B (by simp (disch := decide) only [dec5B, field_parts])
  case sc d a h s n o =>
    rw [← toNat_append_eq]
    exact decode_fm  dec5C (by simp (disch := decide) only [dec5C, field_parts])
  case pref a h l => exact decode_fm (d := 0) (s := 0) (m := l.setWidth 4) dec5D (by
    simp (disch := decide) only [dec5D, field_parts]; rfl)
  case mld t a h => exact decode_fm (d := t.setWidth 7) (s := 0) (m := 0) dec6B (by
    simp (disch := decide) only [dec6B, field_parts]; rfl)
  case mst t a h => exact decode_fm (d := t.setWidth 7) (s := 0) (m := 0) dec6C (by
    simp (disch := decide) only [dec6C, field_parts]; rfl)
  case mstn f t a h =>
    rw [← toNat_append_eq]
    exact decode_fm (s := 0) (m := 0) dec6D (by simp (disch := decide) only [dec6D, field_parts]; rfl)
  case clause w a b l y =>
    unfold decodeNat
    rw [show (0x7F * 2 ^ 25 + w.toNat * 2 ^ 13 + a.toNat * 2 ^ 9 + b.toNat * 2 ^ 5 + l.toNat * 2 + y.toNat) / 2 ^ 25 % 128 = 0x7F by
      omega]
    refine congrArg Except.ok ?_
    rw [decHeader, fieldOf_eq (x := w), fieldOf_eq (x := a), fieldOf_eq (x := b), fieldOf_eq (x := l), fieldOf_eq (x := y)]
    all_goals omega

/-! ## From a word to its instruction and back

One lemma for each format: where whatever the major's family decodes from fields has the word of these fields, a word of that major
is the word of what it decodes to. -/

section
variable {M w : Nat} {i : Instr}

theorem encode_f3 {dec : BitVec 7 → BitVec 7 → BitVec 7 → Nat → Except Reject Instr} (hw : w < 2 ^ 32) (major : w / 2 ^ 25 % 128 = M)
    (h : dec (fieldOf 7 18 w) (fieldOf 7 11 w) (fieldOf 7 4 w) (w % 16) = .ok i)
    (family : ∀ d a b m, dec d a b m = .ok i → encodeNat i = some (f3 M d.toNat a.toNat b.toNat m)) : encodeNat i = some w := by
  rw [family _ _ _ _ h]
  simp only [f3, toNat_fieldOf, ← major]
  congr 1
  omega
theorem encode_f3_field {dec : BitVec 7 → BitVec 7 → BitVec 7 → BitVec 4 → Except Reject Instr} (hw : w < 2 ^ 32) (major : w / 2 ^ 25 % 128 = M)
    (h : dec (fieldOf 7 18 w) (fieldOf 7 11 w) (fieldOf 7 4 w) (fieldOf 4 0 w) = .ok i)
    (family : ∀ d a b m, dec d a b m = .ok i → encodeNat i = some (f3 M d.toNat a.toNat b.toNat m.toNat)) : encodeNat i = some w := by
  rw [family _ _ _ _ h]
  simp only [f3, toNat_fieldOf, ← major]
  congr 1
  omega
theorem encode_f3_float {dec : BitVec 7 → BitVec 7 → BitVec 7 → BitVec 1 → Nat → Except Reject Instr} (hw : w < 2 ^ 32) (major : w / 2 ^ 25 % 128 = M)
    (h : dec (fieldOf 7 18 w) (fieldOf 7 11 w) (fieldOf 7 4 w) (fieldOf 1 3 w) (w % 8) = .ok i)
    (family : ∀ d a b t m, dec d a b t m = .ok i → encodeNat i = some (f3 M d.toNat a.toNat b.toNat (t.toNat * 2 ^ 3 + m))) : encodeNat i = some w := by
  rw [family _ _ _ _ _ h]
  simp only [f3, toNat_fieldOf, ← major]
  congr 1
  omega
theorem encode_fi {dec : BitVec 7 → BitVec 7 → BitVec 11 → Except Reject Instr} (hw : w < 2 ^ 32) (major : w / 2 ^ 25 % 128 = M)
    (h : dec (fieldOf 7 18 w) (fieldOf 7 11 w) (fieldOf 11 0 w) = .ok i)
    (family : ∀ d a n, dec d a n = .ok i → encodeNat i = some (fi M d.toNat a.toNat n.toNat)) : encodeNat i = some w := by
  rw [family _ _ _ h]
  simp only [fi, toNat_fieldOf, ← major]
  congr 1
  omega
theorem encode_fu {dec : BitVec 7 → BitVec 18 → Except Reject Instr} (hw : w < 2 ^ 32) (major : w / 2 ^ 25 % 128 = M)
    (h : dec (fieldOf 7 18 w) (fieldOf 18 0 w) = .ok i)
    (family : ∀ d n, dec d n = .ok i → encodeNat i = some (fu M d.toNat n.toNat)) : encodeNat i = some w := by
  rw [family _ _ h]
  simp only [fu, toNat_fieldOf, ← major]
  congr 1
  omega
theorem encode_fb {dec : Nat → BitVec 22 → Except Reject Instr} (hw : w < 2 ^ 32) (major : w / 2 ^ 25 % 128 = M)
    (h : dec (w / 2 ^ 22 % 8) (fieldOf 22 0 w) = .ok i)
    (family : ∀ k o, dec k o = .ok i → encodeNat i = some (fb M k o.toNat)) : encodeNat i = some w := by
  rw [family _ _ h]
  simp only [fb, toNat_fieldOf, ← major]
  congr 1
  omega
theorem encode_fm {dec : BitVec 7 → BitVec 7 → BitVec 4 → BitVec 3 → BitVec 4 → Except Reject Instr} (hw : w < 2 ^ 32) (major : w / 2 ^ 25 % 128 = M)
    (h : dec (fieldOf 7 18 w) (fieldOf 7 11 w) (fieldOf 4 7 w) (fieldOf 3 4 w) (fieldOf 4 0 w) = .ok i)
    (family : ∀ d a x s m, dec d a x s m = .ok i → encodeNat i = some (fm M d.toNat a.toNat x.toNat s.toNat m.toNat)) : encodeNat i = some w := by
  rw [family _ _ _ _ _ h]
  simp only [fm, toNat_fieldOf, ← major]
  congr 1
  omega

end

/-- A word below 2^32 that decodes is the word of its instruction. First the format of each major; then what its family answers:
the fields that it does not use are zero, and those that it uses are the instruction's. -/
theorem encodeNat_of_decodeNat {w : Nat} {i : Instr} (hw : w < 2 ^ 32) (h : decodeNat w = .ok i) : encodeNat i = some w := by
  unfold decodeNat at h
  split at h
  case h_76 =>
    cases h
    refine congrArg some ?_
    simp only [toNat_fieldOf]
    omega
  case h_77 => cases h
  case' h_3 _ major | h_6 _ major | h_10 _ major | h_12 _ major | h_18 _ major | h_19 _ major | h_20 _ major | h_33 _ major |
    h_34 _ major | h_60 _ major | h_61 _ major | h_68 _ major | h_71 _ major =>
    all_goals refine encode_f3 hw (by assumption) h (fun d a b m h => ?_)
  case' h_35 _ major | h_37 _ major | h_38 _ major =>
    all_goals refine encode_f3_float hw (by assumption) h (fun d a b t m h => ?_)
  case' h_21 _ major | h_56 _ major | h_57 _ major | h_66 _ major | h_67 _ major | h_58 _ major =>
    all_goals refine encode_f3_field hw (by assumption) h (fun d a b m h => ?_)
  case' h_36 _ major =>
    rw [show fieldOf 1 3 w = (fieldOf 4 0 w).extractLsb' 3 1 from (extractLsb'_fieldOf 3 (by decide)).symm,
      show fieldOf 3 0 w = (fieldOf 4 0 w).extractLsb' 0 3 from (extractLsb'_fieldOf 0 (by decide)).symm] at h
    refine encode_f3_field (dec := fun d a b m => dec41 d a b (m.extractLsb' 3 1) (m.extractLsb' 0 3)) hw major h
      (fun d a b m h => ?_)
  case' h_4 _ major | h_5 _ major | h_22 _ major | h_23 _ major | h_24 _ major | h_25 _ major | h_26 _ major | h_27 _ major |
    h_28 _ major | h_29 _ major | h_30 _ major =>
    all_goals refine encode_fi hw (by assumption) h (fun d a n h => ?_)
  case' h_7 _ major | h_13 _ major | h_14 _ major | h_15 _ major | h_16 _ major | h_17 _ major | h_31 _ major | h_32 _ major |
    h_39 _ major | h_45 _ major | h_46 _ major | h_54 _ major | h_55 _ major | h_59 _ major | h_62 _ major | h_69 _ major |
    h_70 _ major | h_72 _ major | h_73 _ major | h_74 _ major | h_75 _ major =>
    all_goals refine encode_fu hw (by assumption) h (fun d n h => ?_)
  case' h_1 _ major | h_2 _ major | h_8 _ major | h_9 _ major =>
    all_goals refine encode_fb hw (by assumption) h (fun k o h => ?_)
  case' h_11 _ major | h_40 _ major | h_41 _ major | h_42 _ major | h_43 _ major | h_44 _ major | h_47 _ major | h_48 _ major |
    h_49 _ major | h_50 _ major | h_51 _ major | h_52 _ major | h_53 _ major | h_63 _ major | h_64 _ major | h_65 _ major =>
    all_goals refine encode_fm hw (by assumption) h (fun d a x s m h => ?_)
  all_goals dsimp only [dec01, dec02, dec03, dec04, dec05, dec06, dec10, dec11, dec12, dec13, dec14, dec15, dec18, dec19,
    dec1A, dec1B, dec1C, dec20, dec21, dec22, dec23, dec24, dec28, dec29, dec2A, dec2B, dec2C, dec2D, dec2E, dec2F, dec30,
    dec31, dec38, dec39, dec40, dec41, dec42, dec43, dec44, dec50, dec51, dec52, dec53, dec54, dec55, dec56, dec57, dec58,
    dec59, dec5A, dec5B, dec5C, dec5D, dec5E, dec5F, dec60, dec61, dec62, dec63, dec68, dec69, dec6A, dec6B, dec6C, dec6D,
    dec6E, dec6F, dec70, dec71, dec72, dec73, dec74, dec75, dec76, dec77] at h
  any_goals split at h
  all_goals simp only [unusedZero_eq_ok, toNat_append_eq_zero, part_toNat, ok_eq_ok, ← BitVec.toNat_inj, BitVec.toNat_ofNat,
    reduceCtorEq] at *
  all_goals
    obtain ⟨unused, rfl⟩ := h
    refine congrArg some ?_
    congr 1 <;> (try simp only [part_toNat]) <;> omega

/-- The decoder looks at the 32 bits of a word only. -/
theorem decodeNat_mod (w : Nat) : decodeNat (w % 2 ^ 32) = decodeNat w := by
  have major : w % 2 ^ 32 / 2 ^ 25 % 128 = w / 2 ^ 25 % 128 := by omega
  have kind : w % 2 ^ 32 / 2 ^ 22 % 8 = w / 2 ^ 22 % 8 := by omega
  have minor : w % 2 ^ 32 % 16 = w % 16 := by omega
  have minor3 : w % 2 ^ 32 % 8 = w % 8 := by omega
  unfold decodeNat decHeader
  rw [major, kind, minor, minor3]
  simp (disch := decide) only [fieldOf_mod]

end Sys2Proof

namespace Sys2Proof.Proofs

/-- Settles O54: each format is read back as it was written, and a word that decodes is put together from its fields again. -/
theorem encodeDecodeAgree : Obligations.EncodeDecodeAgree := by
  unfold Obligations.EncodeDecodeAgree
  refine ⟨fun i w _ h => ?_, fun i w h => ?_⟩
  · obtain ⟨n, written, rfl⟩ := Option.map_eq_some_iff.mp h
    rw [decodeWord, BitVec.toNat_ofNat, decodeNat_mod]
    exact decodeNat_of_encodeNat written
  · rw [encode, encodeNat_of_decodeNat w.isLt h, Option.map_some, BitVec.ofNat_toNat, BitVec.setWidth_eq]
end Sys2Proof.Proofs
end

section
/-! SUPPORT. The words that the spec works out (R273, R286, R318). -/

namespace Sys2Proof.Proofs
open Sys2Proof.Machine

/-- Settles O55: each word is fixed, and its decoding is evaluated. -/
theorem workedWords : Obligations.WorkedWords := by
  unfold Obligations.WorkedWords
  decide

end Sys2Proof.Proofs
end

section
/-! SUPPORT. The checks at issue (R263): what the waits of R246 leave of them when nothing holds the split, and that every
instruction with a word goes through them. -/

namespace Sys2Proof.Machine

/-- Every instruction that has a word, CLAUSE apart, passes through the checks at issue (R263). -/
theorem exec_issues (i : Instr) (h : (encode i).isSome = true) (hc : ∀ w a b l y, i ≠ .clause w a b l y) (s : State) :
    ∃ mOk body, exec i s = s.issue i mOk body := by
  cases i
  case clause w a b l y => exact absurd rfl (hc w a b l y)
  case splitRotation | gbarRelease | delayedAccessFault | blockOpen | routineEnd | cycleLimit | rollback |
    conversationJoined | returnWritten | writesPerformed | groupRetire | launchRetire | cqCoalesceTimer |
    kulintangRound | waiterFire | damaviRetransmit | sendRetry | taborLoopTick | powerFail | drainSectionEnd |
    drainEnd | holdupExhausted | inputReturn | powerOnReset | sidebandPowerOn | sidebandPowerOff | restore |
    restored | claim | margcmdStart | replanTimer | replanIsland | marginLowerApply | bootgo | bundleStart | commit |
    atgo | atdone | cpartWrite | partctlWrite | placementPass | placementRetry | drainComplete | drainLimit | save |
    saveLimit | fresumeReplay | fresumeSkip | fresumeExit | ownershipRequest | revalidation | watchVerdict |
    wrapClear | asctlInval | asctlAdvance | asctlDone | copyStart | copyDone | copyStop | matrixOpStart |
    matrixOpDone | scrub | injArm | errackFree | errbaseEnable | dieFailure | stackFailure | controllerFailure |
    timeRecord | sourceTimeReport | pealRecordWrite | deviceRecordTimeout | perturb | sample | pctlEnable | rpWrite |
    debugStop | quietPoint | debugStopEnd | resumeHaltedGang | dbgdRead | dbgdWrite | hloadBinding |
    bankmCompletion | portDown | portNarrow | bridgeFailed | doorbell | doorbellRsy | doorbellClrerr | queueEnable |
    queueDisable | cqEnable | cqheadWrite | pqw | pdb | mrd | mwr | cpl | htn | lct | badpkt | flitCrcFail |
    linkTraining | ldownClear | devnumWrite | beatCrcFail | hostMemoryRead | hostMemoryWrite | registerWrite |
    damaviWrite | damaviRead | damaviReadResp | damaviAck | damaviNak | damaviSend | otherFrame | ptpMessage |
    holdover | ppsEdge | tocsin | tocsinMessage | tslvlWrite | currentLimitTrip | currentLimitStep |
    currentLimitRestore =>
    exact absurd h Bool.false_ne_true
  all_goals exact ⟨_, _, rfl⟩

theorem Unheld.holds_none {s : State} {c : Ctx} {i : Instr} (h : Unheld s c i) : s.holds c = none := by
  have moving : (s.isStopped c.g || c.gg.halted) = false := by simp [State.isStopped, h.noStop, h.noHalt]
  have unsaved : ¬ (c.gg.st = GangState.saving ∨ c.gg.st = GangState.saved) := not_or.mpr h.noSave
  simp [State.holds, State.foremost, moving, unsaved, h.notBusy]

theorem Unheld.not_throttled {s : State} {c : Ctx} {i : Instr} (h : Unheld s c i) : s.throttled c.g.core i = false := by
  have matrix : s.matrixDuty = 8 := by simp [State.matrixDuty, h.fullDuty.1, h.fullDuty.2]
  have vector : s.vectorDuty = 8 := by simp [State.vectorDuty, h.fullDuty.2]
  simp only [State.throttled, matrix, vector, h.clocked, ite_self]
  simp

theorem clauseDue_none {c : Ctx}
    (h : c.sp.wait = 0#12 ∨ ∀ d ∈ c.g.delayed, ¬ (d.flag < 12 ∧ c.sp.wait.getLsbD d.flag = true)) : c.clauseDue = none := by
  unfold Ctx.clauseDue
  rcases h with none_ | unnamed
  · exact if_pos none_
  · rw [due_unnamed unnamed, ite_self]

theorem legalPlace_iff {c : Ctx} {i : Instr} : LegalPlace c i ↔
    (!i.wf || !c.encoded i || !c.sp.inClause || (lastOnly i && c.sp.pc + 1 != c.sp.clauseEnd)) = false := by
  constructor
  · rintro ⟨wf, encoded, inClause, last⟩
    cases lastWord : lastOnly i
    · simp [wf, encoded, inClause]
    · simp [wf, encoded, inClause, last lastWord]
  · intro h
    simp only [Bool.or_eq_false_iff, Bool.not_eq_false', Bool.and_eq_false_iff, bne_eq_false_iff_eq] at h
    obtain ⟨⟨⟨wf, encoded⟩, inClause⟩, last⟩ := h
    exact ⟨wf, encoded, inClause, fun only => last.resolve_left (by simp [only])⟩

theorem converges_iff {c : Ctx} {i : Instr} : Converges c i ↔ (isGroup i && !c.converged) = false := by
  cases group : isGroup i <;> simp [Converges, group, Ctx.converged]

theorem inBudget_iff {c : Ctx} {i : Instr} : InBudget c i ↔
    ((regNums (regsOf c.g.m i)).any (fun r => decide (c.budget ≤ r)) ||
      (tilesOf i).any (fun t => decide (c.l.tiles ≤ t))) = false := by
  simp [InBudget]

/-- What the checks answer where none of the waits of R246 holds the split: the faults of R263 in their order. -/
theorem Unheld.pre {s : State} {c : Ctx} {i : Instr} (h : Unheld s c i) (mOk : Bool) : s.pre c i mOk =
    open Classical in
    if ¬ LegalPlace c i then .fault 1 else if ¬ Converges c i then .fault 2 else if ¬ InBudget c i then .fault 3
    else if mOk then .go else .fault 1 := by
  have settled : (i.wf && c.g.pendingOn (regNums (regsOf c.g.m i))) = false := by
    cases wf : i.wf
    · rfl
    · simp [h.noPending wf]
  have performed : (isMemory i && c.g.acquiring c.sp.mask) = false := by
    cases memory : isMemory i
    · rfl
    · simp [h.noAcquire memory]
  unfold State.pre
  simp only [h.holds_none, flagsZero_of h.waited, settled, performed, h.noFailure, h.not_throttled,
    clauseDue_none h.noDelayed, legalPlace_iff, converges_iff, inBudget_iff, Option.isSome_none, Bool.not_true,
    Bool.false_eq_true, if_false, Bool.not_eq_false]
  cases mOk <;> rfl

/-- A check that fails raises its fault in every lane of the split (R263). -/
theorem Unheld.fault {s : State} {c : Ctx} {i : Instr} {k : Nat} (h : Unheld s c i) (word : (encode i).isSome = true)
    (body_ : ∀ w a b l y, i ≠ .clause w a b l y) (fails : ∀ mOk, s.pre c i mOk = .fault k) :
    exec i s = .next (s.raiseAll c k) := by
  obtain ⟨mOk, body, run⟩ := exec_issues i word body_ s
  rw [run]
  simp only [State.issue, State.orMerge, h.ctx, h.noFailure, fails]

end Sys2Proof.Machine

namespace Sys2Proof.Proofs
open Sys2Proof.Machine

/-- Settles O19: nothing holds the split, so the first check of R263 that fails decides. -/
theorem issueChecks : Obligations.IssueChecks := by
  unfold Obligations.IssueChecks
  intro s c i word body_ h
  refine ⟨fun bad => h.fault word body_ fun m => ?_, fun legal apart => h.fault word body_ fun m => ?_,
    fun legal converged beyond => h.fault word body_ fun m => ?_⟩
  · rw [h.pre, if_pos bad]
  · rw [h.pre, if_neg (not_not.mpr legal), if_pos apart]
  · rw [h.pre, if_neg (not_not.mpr legal), if_neg (not_not.mpr converged), if_pos beyond]

end Sys2Proof.Proofs
end

section
/-! SUPPORT. The header of a clause (R269) and YIELD (R327): what the split becomes, and what merging makes of it where other splits
stand at its word (R112). -/

namespace Sys2Proof.Machine

/-! ## Merging takes no lane to another word (R112) -/

/-- Each lane of the splits qs stands, at the same word, in a split of ps. -/
def LanesFrom (ps qs : List Split) : Prop :=
  ∀ r ∈ qs, ∀ l, r.mask.getLsbD l = true → ∃ q ∈ ps, q.pc = r.pc ∧ q.mask.getLsbD l = true

theorem LanesFrom.refl (ps : List Split) : LanesFrom ps ps := fun r mem _ on => ⟨r, mem, rfl, on⟩

theorem LanesFrom.trans {ps qs rs : List Split} (h : LanesFrom ps qs) (h' : LanesFrom qs rs) : LanesFrom ps rs := by
  intro r mem l on
  obtain ⟨q, mem', pc, on'⟩ := h' r mem l on
  obtain ⟨p, mem'', pc', on''⟩ := h q mem' l on'
  exact ⟨p, mem'', pc'.trans pc, on''⟩

theorem mergeTwo_pc {m e : Split} (pc : e.pc = m.pc) : (mergeTwo m e).pc = m.pc := by
  unfold mergeTwo
  dsimp only
  split
  · exact pc
  · rfl

theorem mergeAt_from (g : Group) (ix : Nat) : LanesFrom g.splits (g.mergeAt ix).1.splits := by
  unfold Group.mergeAt
  split
  · exact .refl _
  next p hp =>
    dsimp only
    split
    · exact .refl _
    next =>
      generalize ho : g.splits.zipIdx.filter (fun e => e.2 != ix && canMerge p e.1) = others
      have whole : (others.foldl (fun a e => mergeTwo a e.1) p).pc = p.pc ∧
          ∀ l, (others.foldl (fun a e => mergeTwo a e.1) p).mask.getLsbD l = true →
            ∃ q ∈ g.splits, q.pc = p.pc ∧ q.mask.getLsbD l = true := by
        refine List.foldlRecOn others _ (motive := fun a : Split => a.pc = p.pc ∧
          ∀ l, a.mask.getLsbD l = true → ∃ q ∈ g.splits, q.pc = p.pc ∧ q.mask.getLsbD l = true)
          ⟨rfl, fun l on => ⟨p, List.mem_of_getElem? hp, rfl, on⟩⟩ fun a ⟨pc, from_⟩ e he => ?_
        rw [← ho, List.mem_filter, Bool.and_eq_true] at he
        obtain ⟨mem, -, may⟩ := he
        have same := (canMerge_iff_waits may).1
        refine ⟨(mergeTwo_pc (same.trans pc.symm)).trans pc, fun l on => ?_⟩
        rw [show (mergeTwo a e.1).mask = a.mask ||| e.1.mask from rfl, BitVec.getLsbD_or, Bool.or_eq_true] at on
        rcases on with on | on
        · exact from_ l on
        · exact ⟨e.1, List.mem_of_getElem? (List.mem_zipIdx_iff_getElem?.mp mem), same, on⟩
      generalize others.foldl (fun a e => mergeTwo a e.1) p = m at whole
      intro r mem l on
      obtain ⟨e, kept, rfl⟩ := List.mem_map.mp mem
      have place := List.mem_zipIdx_iff_getElem?.mp (List.mem_filter.mp kept).1
      rcases List.mem_or_eq_of_mem_set (List.mem_of_getElem? place) with old | new
      · exact ⟨e.1, old, rfl, on⟩
      · rw [new, whole.1]
        exact whole.2 l (new ▸ on)

theorem mergeParked_from (g : Group) (old : List Split) : LanesFrom g.splits (g.mergeParked old).splits := by
  unfold Group.mergeParked
  refine List.foldlRecOn _ _ (motive := fun a : Group => LanesFrom g.splits a.splits) (.refl _) fun a from_ p _ => from_.trans ?_
  unfold Group.mergeSplit
  split
  · exact mergeAt_from a _
  · exact .refl _

/-! ## The header of a clause (R268, R269) -/

section
variable {s : State} {c : Ctx} {w : BitVec 12} {a b l : BitVec 4} {y : BitVec 1} (here : s.ctx = some c)
include here

/-- The split as its clause's header leaves it. -/
theorem exec_clause (outside : c.sp.inClause = false) (wf : (Instr.clause w a b l y).wf = true) :
    exec (.clause w a b l y) s = .next (s.updGroup c.gk (fun g => { g with splits := g.splits.modify c.ix (fun p =>
      { p with
        inClause := true, setA := a.toNat, setB := b.toNat, clauseEnd := c.sp.pc + 1 + l.toNat, yieldHint := y == 1#1
        wait := w, pc := c.sp.pc + 1, resume := false }) })) := by
  change execClause w a b l y s = _
  unfold execClause
  simp [here, outside, wf]

/-- A header where none may stand raises the fault of an illegal instruction, once its clause's wait is over (R269). -/
theorem exec_clause_misplaced (running : c.wg.failing = none)
    (bad : c.sp.inClause = true ∨ (Instr.clause w a b l y).wf = false)
    (waited : ∀ f < 12, c.sp.wait.getLsbD f = true → c.g.flag f = 0)
    (noDelayed : c.sp.wait = 0#12 ∨ ∀ d ∈ c.g.delayed, ¬ (d.flag < 12 ∧ c.sp.wait.getLsbD d.flag = true)) :
    exec (.clause w a b l y) s = .next (s.raiseAll c 1) := by
  have raised : s.noWord c 1 = s.raiseAll c 1 := by
    simp [State.noWord, State.orMerge, running, flagsZero_of waited, clauseDue_none noDelayed]
  change execClause w a b l y s = _
  unfold execClause
  simp only [here, raised]
  rcases bad with inside | ill
  · rw [if_pos inside]
  · rw [ill]
    exact congrArg _ (ite_self _)

end

/-! ## YIELD (R327) -/

/-- What refill takes does not depend on the split at the position it leaves out. -/
theorem nextReady_set (ps : List Split) (ix : Nat) (p : Split) :
    nextReady (ps.set ix p) (some ix) = nextReady ps (some ix) := by
  have others : ∀ (ps : List Split) (ix n : Nat),
      ((ps.set ix p).zipIdx n).filter (fun e => e.1.st == .ready && some e.2 != some (n + ix)) =
        (ps.zipIdx n).filter (fun e => e.1.st == .ready && some e.2 != some (n + ix)) := by
    intro ps
    induction ps with
    | nil => exact fun _ _ => rfl
    | cons q r ih =>
      rintro (_ | ix) n
      · simp [List.zipIdx_cons]
      · have rest := ih ix (n + 1)
        rw [show n + 1 + ix = n + (ix + 1) from by omega] at rest
        simp only [List.set_cons_succ, List.zipIdx_cons, List.filter_cons, rest]
  have all := others ps ix 0
  rw [Nat.zero_add] at all
  unfold nextReady
  rw [all]

/-- The split that yields, at its next word (R327). -/
def Ctx.onward (c : Ctx) (yielded : Bool) : Split := { c.sp.goTo (c.sp.pc + 1) with issued := 0, yielded := yielded }

@[simp] theorem Ctx.onward_mask (c : Ctx) (y : Bool) : (c.onward y).mask = c.sp.mask := rfl
@[simp] theorem Ctx.onward_pc (c : Ctx) (y : Bool) : (c.onward y).pc = c.sp.pc + 1 := rfl
@[simp] theorem Ctx.onward_st (c : Ctx) (y : Bool) : (c.onward y).st = c.sp.st := rfl

/-- The issuing group with its split gone on. -/
def Ctx.wentOn (c : Ctx) (yielded : Bool) : Group := { c.g with splits := c.g.splits.set c.ix (c.onward yielded) }

/-- A group that has changed in its splits alone is what an instruction that writes nothing leaves. -/
theorem Group.sameButSplits.holds_nothing {c : Ctx} {g : Group} (h : g.sameButSplits c.g) : Effect.nothing.Holds c g := by
  have regs : g.regs = c.g.regs := (congrArg Group.regs h :)
  have preds : g.preds = c.g.preds := (congrArg Group.preds h :)
  have srctr : g.srctr = c.g.srctr := (congrArg Group.srctr h :)
  refine ⟨?_, fun r _ => reg_of_regs regs r, fun j _ hj => absurd hj (Nat.not_lt_zero j),
    fun j _ hj => absurd hj (Nat.not_lt_zero j), fun q l _ _ => ?_, fun l _ => ?_⟩
  · rw [← h]
  · rw [if_neg fun ⟨seven, other, _⟩ => other seven, pred_of_preds preds]
  · rw [if_neg (by simp [Effect.nothing, Effect.regs]), Group.sr, srctr]
    rfl

/-- The group that YIELD leaves: the split that goes on gives its slot away where another is ready (R327). -/
def Ctx.afterYield (c : Ctx) : Group :=
  if (nextReady c.g.splits (some c.ix)).isSome then (c.wentOn false).giveWay c.ix else c.wentOn true

theorem exec_yield {s : State} {c : Ctx} (hi : MayIssue s c .yield) :
    ∃ t, exec .yield s = .next t ∧ OnlyGroup s t c ∧ mget? t.groups c.gk = some c.afterYield := by
  obtain ⟨k, live⟩ := hi.live
  refine ⟨_, hi.issue rfl _, (OnlyGroup.refl hi.ctxOf).updGroup _, (mget?_mupd_same hi.ctxOf.group).trans (congrArg some ?_)⟩
  unfold Ctx.afterYield
  simp only [Split.liveIx, live, Option.isSome_some, Bool.and_true]
  rfl

section
variable {s : State} {c : Ctx} {i : Nat} (hc : CtxOf s c) (live : c.sp.st = .live i)
include hc

theorem wentOn_at (y : Bool) : (c.wentOn y).splits[c.ix]? = some (c.onward y) :=
  List.getElem?_set_self (List.getElem?_eq_some_iff.mp hc.split).1

/-- Where the split has gone on, its lanes are one split, with no other lane (R112). -/
theorem wentOn_from {y : Bool} {r : Split} {l : Nat} {ps : List Split} (from_ : LanesFrom (c.wentOn y).splits ps) (mem : r ∈ ps)
    (pc : r.pc = c.sp.pc + 1) (on : r.mask.getLsbD l = true) (other : c.sp.mask.getLsbD l = false) :
    ∃ k q, k ≠ c.ix ∧ c.g.splits[k]? = some q ∧ q.pc = c.sp.pc + 1 ∧ q.mask.getLsbD l = true := by
  obtain ⟨q, mem', pc', on'⟩ := from_ r mem l on
  obtain ⟨j, at_⟩ := List.mem_iff_getElem?.mp mem'
  by_cases self : j = c.ix
  · rw [self, wentOn_at hc y] at at_
    cases at_
    exact absurd (other.symm.trans on') Bool.false_ne_true
  · refine ⟨j, q, self, ?_, pc'.trans pc, on'⟩
    rwa [Ctx.wentOn, List.getElem?_set_ne (Ne.symm self)] at at_

theorem wentOn_joinsAt (y : Bool) : (c.wentOn y).joinsAt c c.sp.mask (c.sp.pc + 1) :=
  ⟨c.onward y, List.mem_of_getElem? (wentOn_at hc y), rfl, fun _ _ => ⟨id, fun on other =>
    absurd (other.symm.trans on) Bool.false_ne_true⟩⟩

end

section
variable {g : Group} {ix k i : Nat} {p : Split} (at_ : g.splits[ix]? = some p) (live : p.st = .live i)
  (next_ : nextReady g.splits (some ix) = some k)
include at_ live next_

/-- A split that gives its slot away stands ready, alone or merged, and takes no lane along from another word (R111, R112). -/
theorem giveWay_keeps : (g.giveWay ix).sameButSplits g ∧ LanesFrom g.splits (g.giveWay ix).splits ∧
    ∃ r ∈ (g.giveWay ix).splits, r.pc = p.pc ∧ ∀ l, p.mask.getLsbD l = true → r.mask.getLsbD l = true := by
  obtain ⟨-, -, -, ne⟩ := nextReady_some next_
  have ne : k ≠ ix := fun h => ne (congrArg some h)
  obtain ⟨ready, hr⟩ : ∃ r : Split, { p with st := .ready, issued := 0, age := 0, stall := 12 } = r := ⟨_, rfl⟩
  have stays : ready.pc = p.pc ∧ ready.mask = p.mask := hr ▸ ⟨rfl, rfl⟩
  obtain ⟨a, ha⟩ : ∃ a : Group, { g with splits := (g.splits.set ix ready).modify k (·.goLive i) } = a := ⟨_, rfl⟩
  have gave : g.giveWay ix = a.mergeParked g.splits := by
    unfold Group.giveWay
    simp only [at_, Split.liveIx, live, next_, hr, ha]
  have splits : a.splits = (g.splits.set ix ready).modify k (·.goLive i) := ha ▸ rfl
  have from_ : LanesFrom g.splits a.splits := by
    intro r mem l on
    obtain ⟨j, place⟩ := List.mem_iff_getElem?.mp mem
    rw [splits, List.getElem?_modify] at place
    obtain ⟨x, found, rfl⟩ := Option.map_eq_some_iff.mp place
    have same : ∀ q : Split, (if k = j then q.goLive i else q).pc = q.pc ∧ (if k = j then q.goLive i else q).mask = q.mask := by
      intro q
      split <;> exact ⟨rfl, rfl⟩
    rw [(same x).1]
    rw [(same x).2] at on
    rcases List.mem_or_eq_of_mem_set (List.mem_of_getElem? found) with old | rfl
    · exact ⟨x, old, rfl, on⟩
    · exact ⟨p, List.mem_of_getElem? at_, stays.1.symm, stays.2 ▸ on⟩
  have there : ready ∈ a.splits := by
    refine List.mem_of_getElem? (i := ix) ?_
    rw [splits, List.getElem?_modify_ne _ _ ne, List.getElem?_set_self (List.getElem?_eq_some_iff.mp at_).1]
  obtain ⟨r, mem, holds⟩ := mergeParked_holds a g.splits there
  rw [gave]
  exact ⟨(mergeParked_same a g.splits).trans (ha ▸ rfl), from_.trans (mergeParked_from a g.splits), r, mem,
    holds.pc.trans stays.1, fun l on => holds.lanes l (stays.2 ▸ on)⟩

end

theorem afterYield_joins {s : State} {c : Ctx} (hi : MayIssue s c .yield) :
    c.afterYield.sameButSplits c.g ∧ c.afterYield.joinsAt c c.sp.mask (c.sp.pc + 1) := by
  have hc := hi.ctxOf
  obtain ⟨i, live⟩ := hi.live
  unfold Ctx.afterYield
  split
  next some_ =>
    obtain ⟨k, next_⟩ := Option.isSome_iff_exists.mp some_
    have next_ : nextReady (c.wentOn false).splits (some c.ix) = some k := (nextReady_set _ _ _).trans next_
    obtain ⟨same, from_, r, mem, pc, on⟩ := giveWay_keeps (wentOn_at hc false) live next_
    exact ⟨same.trans rfl, r, mem, pc, fun l _ => ⟨on l, wentOn_from hc from_ mem pc⟩⟩
  next => exact ⟨rfl, wentOn_joinsAt hc true⟩

section
variable {s : State} {c : Ctx} (hi : MayIssue s c .yield)
  (alone : ∀ k q, k ≠ c.ix → c.g.splits[k]? = some q → q.pc ≠ c.sp.pc + 1)
include hi alone

/-- Where no other split stands at its next word, the split that yields gives its slot to the one that refill takes (R327). -/
theorem afterYield_gives {k i : Nat} {q : Split} (live : c.sp.st = .live i) (next_ : nextReady c.g.splits (some c.ix) = some k)
    (at_ : c.g.splits[k]? = some q) :
    ∃ r, r.st = .ready ∧ r.mask = c.sp.mask ∧ r.pc = c.sp.pc + 1 ∧ c.afterYield.splits[c.ix]? = some r ∧
      c.afterYield.splits[k]? = some (q.goLive i) := by
  have hc := hi.ctxOf
  obtain ⟨-, -, -, ne⟩ := nextReady_some next_
  have ne : k ≠ c.ix := fun h => ne (congrArg some h)
  have next' : nextReady (c.wentOn false).splits (some c.ix) = some k := (nextReady_set _ _ _).trans next_
  have apart : ∀ j x, j ≠ c.ix → (c.wentOn false).splits[j]? = some x → x.pc ≠ (c.onward false).pc := fun j x self place =>
    alone j x self (by rwa [Ctx.wentOn, List.getElem?_set_ne (Ne.symm self)] at place)
  have gave := giveWay_eq (wentOn_at hc false) live next' apart
  have len := (List.getElem?_eq_some_iff.mp (wentOn_at hc false)).1
  unfold Ctx.afterYield
  rw [next_, Option.isSome_some, if_pos rfl, gave]
  refine ⟨{ c.onward false with st := .ready, issued := 0, age := 0, stall := 12 }, rfl, rfl, rfl,
    (List.getElem?_modify_ne _ _ ne).trans (List.getElem?_set_self len), ?_⟩
  rw [List.getElem?_modify_eq, List.getElem?_set_ne (Ne.symm ne), Ctx.wentOn, List.getElem?_set_ne (Ne.symm ne), at_]
  rfl

theorem yield_completes : Completes .yield s c .nothing := by
  obtain ⟨i, live⟩ := hi.live
  obtain ⟨t, run, only, group⟩ := exec_yield hi
  refine ⟨t, c.afterYield, run, only, group, (afterYield_joins hi).1.holds_nothing, ?_⟩
  cases next_ : nextReady c.g.splits (some c.ix) with
  | none =>
    refine ⟨c.onward true, ?_, rfl, rfl⟩
    rw [Ctx.afterYield, next_]
    exact List.mem_of_getElem? (wentOn_at hi.ctxOf true)
  | some k =>
    obtain ⟨q, at_, -⟩ := nextReady_some next_
    obtain ⟨r, -, mask, pc, place, -⟩ := afterYield_gives hi alone live next_ at_
    exact ⟨r, List.mem_of_getElem? place, mask, pc⟩

end

end Sys2Proof.Machine

namespace Sys2Proof.Proofs
open Sys2Proof.Machine

/-- Settles O12: the header changes its split alone; YIELD sets its split one word on and parks it, and merging takes no lane from
one word to another. -/
theorem clauseStartNopAndYield : Obligations.ClauseStartNopAndYield := by
  unfold Obligations.ClauseStartNopAndYield
  refine ⟨fun s c w a b l y here outside wf => ?_, fun s c w a b l y here running bad waited noDelayed =>
    exec_clause_misplaced here running bad waited noDelayed, fun s c => ⟨fun hi => completes_advance hi (hi.issue rfl _), fun hi =>
    ⟨?_, fun alone => ⟨yield_completes hi alone, fun k q next_ at_ => ?_⟩⟩⟩⟩
  · have hc := ctx_some here
    refine ⟨_, _, _, exec_clause here outside wf, (OnlyGroup.refl hc).updGroup _, mget?_mupd_same hc.group, rfl,
      fun k other => List.getElem?_modify_ne _ _ (Ne.symm other),
      (List.getElem?_modify_eq _ _ _).trans (congrArg (Option.map _) hc.split), rfl, rfl, rfl, rfl, rfl, rfl, rfl, rfl, ?_⟩
    exact beq_eq_decide y 1#1
  · obtain ⟨t, run, only, group⟩ := exec_yield hi
    obtain ⟨same, joins⟩ := afterYield_joins hi
    exact ⟨t, _, run, only, group, same, joins⟩
  · obtain ⟨i, live⟩ := hi.live
    obtain ⟨t, run, -, group⟩ := exec_yield hi
    obtain ⟨r, ready, mask, -, place, took⟩ := afterYield_gives hi alone live next_ at_
    exact ⟨t, _, _, r, run, group, took, live.symm, rfl, rfl, place, ready, mask⟩

end Sys2Proof.Proofs
end

section
/-! SUPPORT. The special values (R264, R337, R361) and the words of VRAND (R307, R360). -/

namespace Sys2Proof.Machine

/-- A value like a clean one is clean and has its word. -/
theorem like_clean {v : Val} {w : Word} (h : v.like (clean w)) : v.p = none ∧ v.w = w := ⟨h.1, h.2 rfl⟩

/-! ## Special values -/

/-- Each row of the special values is what VSPR writes, word by word. -/
theorem special_of_row {s : State} {c : Ctx} {n k : Nat} {f : Nat → Nat} (row : (n, k, f) ∈ specialRows s c) :
    (if [5, 10, 11].contains n then 2 else 1) = k ∧
      ∀ l, ∀ j < k, c.special s n l / 2 ^ (32 * j) % 2 ^ 32 = f l / 2 ^ (32 * j) % 2 ^ 32 := by
  simp only [specialRows, List.mem_cons, List.not_mem_nil, or_false, Prod.mk.injEq] at row
  obtain live | clock | same :
      (n = 8 ∧ k = 1 ∧ f = fun _ => match c.sp.st with
        | .live ix => ix
        | _ => 0) ∨ (n = 10 ∧ k = 2 ∧ f = fun _ => s.coreClk c.g.core) ∨
      ((if [5, 10, 11].contains n then 2 else 1) = k ∧ f = c.special s n) := by
    rcases row with ⟨rfl, rfl, rfl⟩ | ⟨rfl, rfl, rfl⟩ | ⟨rfl, rfl, rfl⟩ | ⟨rfl, rfl, rfl⟩ | ⟨rfl, rfl, rfl⟩ | ⟨rfl, rfl, rfl⟩ |
      ⟨rfl, rfl, rfl⟩ | ⟨rfl, rfl, rfl⟩ | live | ⟨rfl, rfl, rfl⟩ | clock | ⟨rfl, rfl, rfl⟩ | ⟨rfl, rfl, rfl⟩ | ⟨rfl, rfl, rfl⟩ |
      ⟨rfl, rfl, rfl⟩
    case inr.inr.inr.inr.inr.inr.inr.inr.inl => exact .inl live
    case inr.inr.inr.inr.inr.inr.inr.inr.inr.inr.inl => exact .inr (.inl clock)
    all_goals exact .inr (.inr ⟨rfl, rfl⟩)
  · obtain ⟨rfl, rfl, rfl⟩ := live
    refine ⟨rfl, fun l j _ => ?_⟩
    simp only [Ctx.special, Split.liveIx]
    cases c.sp.st <;> rfl
  · obtain ⟨rfl, rfl, rfl⟩ := clock
    refine ⟨rfl, fun l j small => ?_⟩
    simp only [Ctx.special]
    obtain rfl | rfl : j = 0 ∨ j = 1 := by omega
    · omega
    · omega
  · obtain ⟨count, rfl⟩ := same
    exact ⟨count, fun _ _ _ => rfl⟩

theorem vspr_completes {s : State} {c : Ctx} {d : BitVec 7} {n : BitVec 18} {k : Nat} {f : Nat → Nat}
    (row : (n.toNat, k, f) ∈ specialRows s c) (hi : MayIssue s c (.vspr d n)) (room : c.logRoom d.toNat k) :
    Completes (.vspr d n) s c (.regs c.act d.toNat k (fun j l v => v.p = none ∧ v.w.toNat = f l / 2 ^ (32 * j) % 2 ^ 32)) := by
  obtain ⟨count, values⟩ := special_of_row row
  refine completes_writeVs hi room (tg := fun _ => specialTag n.toNat)
    (f := fun j l => clean (BitVec.ofNat 32 (c.special s n.toNat l / 2 ^ (32 * j)))) (fun j l v small _ _ like => ?_) ?_
  · obtain ⟨clean_, word⟩ := like_clean like
    exact ⟨clean_, by rw [word, BitVec.toNat_ofNat, values l j small]⟩
  · refine (hi.issue rfl _).trans ?_
    rw [count]
    rfl

/-! ## The words of a stochastic block -/

theorem philoxGo_words (n : Nat) : ∀ {k0 k1 c0 c1 c2 c3 : Nat}, k0 < 2 ^ 32 → k1 < 2 ^ 32 →
    (c0 < 2 ^ 32 ∧ c1 < 2 ^ 32 ∧ c2 < 2 ^ 32 ∧ c3 < 2 ^ 32) →
    ∀ x ∈ [(philoxGo n k0 k1 (c0, c1, c2, c3)).1, (philoxGo n k0 k1 (c0, c1, c2, c3)).2.1,
      (philoxGo n k0 k1 (c0, c1, c2, c3)).2.2.1, (philoxGo n k0 k1 (c0, c1, c2, c3)).2.2.2], x < 2 ^ 32 := by
  induction n with
  | zero =>
    rintro k0 k1 c0 c1 c2 c3 - - ⟨h0, h1, h2, h3⟩
    simpa [philoxGo] using ⟨h0, h1, h2, h3⟩
  | succ n ih =>
    rintro k0 k1 c0 c1 c2 c3 hk0 hk1 ⟨h0, h1, h2, h3⟩
    refine ih (Nat.mod_lt _ (by decide)) (Nat.mod_lt _ (by decide)) ⟨?_, Nat.mod_lt _ (by decide), ?_, Nat.mod_lt _ (by decide)⟩
    · exact Nat.xor_lt_two_pow (Nat.xor_lt_two_pow (by omega) h1) hk0
    · exact Nat.xor_lt_two_pow (Nat.xor_lt_two_pow (by omega) h3) hk1

theorem philox_word_lt {k0 k1 c0 c1 c2 c3 : Nat} (hk0 : k0 < 2 ^ 32) (hk1 : k1 < 2 ^ 32)
    (h : c0 < 2 ^ 32 ∧ c1 < 2 ^ 32 ∧ c2 < 2 ^ 32 ∧ c3 < 2 ^ 32) (j : Nat) :
    (philox k0 k1 c0 c1 c2 c3).getD j 0 < 2 ^ 32 := by
  rw [List.getD_eq_getElem?_getD]
  cases at_ : (philox k0 k1 c0 c1 c2 c3)[j]? with
  | none => exact Nat.two_pow_pos 32
  | some x => exact philoxGo_words 10 hk0 hk1 h x (List.mem_of_getElem? at_)

/-- The first four words of a draw are those of the block that the lane's counter names (R308). -/
theorem Ctx.sr_block (c : Ctx) (l : Nat) {j : Nat} (small : j < 4) :
    c.sr l j = (philox (b64 c.l.seed 31 0) (b64 c.l.seed 63 32) (c.g.sr l).toNat 0 (c.gl l % 2 ^ 32)
      (c.gl l / 2 ^ 32 % 2 ^ 32)).getD j 0 ∧ c.sr l j < 2 ^ 32 := by
  have block : c.sr l j = (philox (b64 c.l.seed 31 0) (b64 c.l.seed 63 32) (c.g.sr l).toNat 0 (c.gl l % 2 ^ 32)
      (c.gl l / 2 ^ 32 % 2 ^ 32)).getD j 0 := by
    unfold Ctx.sr drawWord
    rw [Nat.div_eq_of_lt small, Nat.mod_eq_of_lt small, Nat.add_zero, Nat.mod_eq_of_lt (c.g.sr l).isLt]
  refine ⟨block, block ▸ philox_word_lt (Nat.mod_lt _ (by decide)) (Nat.mod_lt _ (by decide))
    ⟨(c.g.sr l).isLt, by decide, Nat.mod_lt _ (by decide), Nat.mod_lt _ (by decide)⟩ j⟩

/-! ## Registers written and words drawn -/

/-- The active lanes draw e words each, and nothing else of the group changes (R308). -/
theorem Mid.drew {s t : State} {c : Ctx} {g : Group} (h : Mid s t c g) (m : Lanes) (e : Nat) :
    ∃ g', Mid s (t.drew c.gk m e) c g' ∧ ({ g' with srctr := g.srctr } : Group) = g ∧
      ∀ l < 32, g'.sr l = if m.getLsbD l = true then g.sr l + BitVec.ofNat 32 ((e + 3) / 4) else g.sr l := by
  unfold State.drew
  by_cases none_ : e = 0
  · rw [if_pos none_]
    exact ⟨g, h, rfl, fun l _ => by simp [none_]⟩
  · rw [if_neg none_]
    exact ⟨_, h.updGroup _ rfl, rfl, fun l below => drew_sr g m _ l below⟩

/-- A group whose registers have been written, whose lanes have then drawn, and whose splits have gone on. -/
theorem WroteAll.holds {c : Ctx} {g1 g2 g3 : Group} {d n e : Nat} {f : Nat → Nat → Val} {val : Nat → Nat → Val → Prop}
    (wrote : WroteAll c.g g1 d n c.act f) (drew : ({ g2 with srctr := g1.srctr } : Group) = g1)
    (words : ∀ l < 32, g2.sr l = if c.act.getLsbD l = true then g1.sr l + BitVec.ofNat 32 ((e + 3) / 4) else g1.sr l)
    (same : g3.sameButSplits g2)
    (values : ∀ j l v, j < n → l < 32 → c.act.getLsbD l = true → v.like (f j l) → val j l v) :
    Effect.Holds { Effect.regs c.act d n val with drawn := e } c g3 := by
  have both : ({ g3 with srctr := g1.srctr, splits := g1.splits } : Group) = g1 :=
    (congrArg (fun x : Group => { x with srctr := g1.srctr, splits := g1.splits }) same :).trans
      (congrArg (fun x : Group => { x with splits := g1.splits }) drew)
  have regs : g3.regs = g1.regs := (congrArg Group.regs both :)
  have preds : g3.preds = c.g.preds := (congrArg Group.preds both :).trans (congrArg Group.preds wrote.rest :)
  have counted : ∀ l, g3.sr l = g2.sr l := fun l => (congrArg (Group.sr · l) same :)
  have before : ∀ l, g1.sr l = c.g.sr l := fun l => (congrArg (Group.sr · l) wrote.rest :)
  have lanes : ∀ r l, g3.lane r l = g1.lane r l := fun r l => by unfold Group.lane; rw [reg_of_regs regs]
  refine ⟨?_, fun r out => (reg_of_regs regs r).trans (wrote.others r out), fun j l small below some_ on => ?_,
    fun j l small below off => (lanes _ _).trans (wrote.lanes j l small below off), fun q l _ _ => ?_, fun l below => ?_⟩
  · have onto {a b : Group} (eq : a = b) := congrArg (fun x : Group => { x with
      regs := c.g.regs, preds := c.g.preds, srctr := c.g.srctr, splits := c.g.splits }) eq
    exact (onto both).trans (onto wrote.rest :)
  · exact values j l _ small below on (lanes _ _ ▸ wrote.values j l small below some_ on)
  · rw [if_neg fun ⟨seven, other, _⟩ => other seven, pred_of_preds preds]
  · rw [counted, words l below, before]
    rfl

theorem completes_drawn {s : State} {c : Ctx} {i : Instr} (hi : MayIssue s c i) {d n e : Nat} (room : c.logRoom d n)
    {tag : Tag} {f : Nat → Nat → Val} {val : Nat → Nat → Val → Prop}
    (values : ∀ j l v, j < n → l < 32 → c.act.getLsbD l = true → v.like (f j l) → val j l v)
    (run : exec i s = .next (((s.writeVs c d n c.act tag f).drew c.gk c.act e).advance c)) :
    Completes i s c { Effect.regs c.act d n val with drawn := e } := by
  obtain ⟨g1, written, wrote⟩ := Mid.writeVs hi.ctxOf hi.noFailure c.act (fun _ => tag) f d n room
  obtain ⟨g2, drawn, drew, words⟩ := written.drew c.act e
  obtain ⟨only, g3, group, same, stands⟩ := drawn.ended (code := noFault) hi fun _ _ => rfl
  exact ⟨_, g3, run, only, group, wrote.holds drew words same values, stands⟩

theorem vrand_completes {s : State} {c : Ctx} {d : BitVec 7} {n : BitVec 2} (hi : MayIssue s c (.vrand d n))
    (room : c.logRoom d.toNat (2 ^ n.toNat)) :
    Completes (.vrand d n) s c { Effect.regs c.act d.toNat (2 ^ n.toNat) (fun j l v =>
      v.p = none ∧ v.w.toNat = (philox (b64 c.l.seed 31 0) (b64 c.l.seed 63 32) (c.g.sr l).toNat 0
        (c.gl l % 2 ^ 32) (c.gl l / 2 ^ 32 % 2 ^ 32)).getD j 0) with drawn := 4 } := by
  have count : countRegs n = 2 ^ n.toNat ∧ 2 ^ n.toNat ≤ 4 := by
    have wf := hi.place.wf
    have named : n ≠ 3#2 := by
      rintro rfl
      simp [Instr.wf] at wf
    revert named
    clear * - n
    revert n
    decide
  refine completes_drawn hi room (tag := .G) (f := fun j l => clean (BitVec.ofNat 32 (c.sr l j)))
    (fun j l v small _ _ like => ?_) ?_
  · obtain ⟨clean_, word⟩ := like_clean like
    obtain ⟨block, below⟩ := c.sr_block l (Nat.lt_of_lt_of_le small count.2)
    exact ⟨clean_, by rw [word, BitVec.toNat_ofNat, Nat.mod_eq_of_lt below, block]⟩
  · rw [← count.1]
    exact hi.issue rfl _

theorem getm_completes {s : State} {c : Ctx} {d : BitVec 7} (hi : MayIssue s c (.getm d)) (room : c.logRoom d.toNat 1) :
    Completes (.getm d) s c (.regs c.act d.toNat 1 (fun _ _ v => v.p = none ∧ v.w.toNat = c.g.m.toNat)) := by
  refine completes_writeVs hi room (tg := fun _ => .U) (f := fun _ _ => clean (c.g.m.setWidth 32))
    (fun j l v _ _ _ like => ?_) (hi.issue rfl _)
  obtain ⟨clean_, word⟩ := like_clean like
  refine ⟨clean_, ?_⟩
  rw [word, BitVec.toNat_setWidth, Nat.mod_eq_of_lt (Nat.lt_trans c.g.m.isLt (by decide))]

end Sys2Proof.Machine

namespace Sys2Proof.Proofs
open Sys2Proof.Machine

/-- Settles O6: each instruction writes clean words, and the words are those of the table, of the mode and of the block. -/
theorem specialValues : Obligations.SpecialValues := by
  unfold Obligations.SpecialValues
  exact fun s c d => ⟨fun n k f row hi room => vspr_completes row hi room, getm_completes, fun n => vrand_completes⟩

end Sys2Proof.Proofs
end

section
/-! SUPPORT. Long-latency float results (R270, R354, R356): the codes of a format fit its width, so the elements of a word are the
results that it was made of; and the issue of an operation whose lanes draw stochastic words. -/

namespace Sys2Proof.Machine

/-! ## The codes of a format (R292) -/

/-- The magnitudes that a format delivers, finite, infinite and NaN, fit its code. -/
structure Fmt.Fits (f : Fmt) : Prop where
  magnitude : f.over < 2 ^ (f.eb + f.mb)
  canonical : f.nan < 2 ^ (f.eb + f.mb)

theorem tyFmt_fits (t : Nat) : (tyFmt t).Fits := by
  unfold tyFmt
  repeat' split
  all_goals exact ⟨by decide, by decide⟩

theorem f32_fits : f32.Fits := tyFmt_fits 6

theorem tyFmt_width {t : Nat} (least : 6 ≤ t) (most : t ≤ 8) : (tyFmt t).width = tyWidth t := by
  obtain rfl | rfl | rfl : t = 6 ∨ t = 7 ∨ t = 8 := by omega
  all_goals rfl

section
variable {f : Fmt} (fits : f.Fits)

theorem Fmt.signed_lt {x : Nat} (small : x < 2 ^ (f.eb + f.mb)) (neg : Bool) : f.sign neg + x < 2 ^ f.width := by
  have width : 2 ^ f.width = 2 ^ (f.eb + f.mb) + 2 ^ (f.eb + f.mb) := by
    rw [Fmt.width, Nat.add_assoc, Nat.add_comm, Nat.pow_succ, Nat.mul_two]
  have sign : f.sign neg ≤ 2 ^ (f.eb + f.mb) := by
    unfold Fmt.sign
    split
    · exact Nat.le_refl _
    · exact Nat.zero_le _
  omega

include fits

theorem Fmt.Fits.round_lt (mode u : Nat) (neg : Bool) (p q : Nat) : (f.round mode u neg p q).bits < 2 ^ f.width := by
  have infinite : f.infinity neg < 2 ^ f.width := signed_lt fits.magnitude neg
  have greatest : f.max neg < 2 ^ f.width := Nat.lt_of_le_of_lt (Nat.sub_le ..) (signed_lt fits.magnitude neg)
  have either : ∀ b : Bool, (if b then f.infinity neg else f.max neg) < 2 ^ f.width := by
    rintro (_ | _)
    · exact greatest
    · exact infinite
  unfold Fmt.round
  split
  · exact signed_lt (Nat.two_pow_pos _) neg
  · dsimp only
    generalize Int.toNat _ * 2 ^ f.mb + _ = code
    split
    next below => exact signed_lt (Nat.lt_trans below fits.magnitude) neg
    next => exact either _

/-- What is delivered to a format is one of its codes. -/
theorem Fmt.Fits.out_lt (mode u : Nat) (ftz invalid : Bool) (x : FNum) : (f.out mode u ftz invalid x).bits < 2 ^ f.width := by
  cases x with
  | nan => simpa [Fmt.out, Fmt.sign] using signed_lt fits.canonical false
  | inf neg => exact signed_lt fits.magnitude neg
  | fin neg p q =>
    refine Nat.lt_of_le_of_lt ?_ (fits.round_lt mode u neg p q)
    dsimp only [Fmt.out, Fmt.flush]
    split
    · exact Nat.div_mul_le_self ..
    · exact Nat.le_refl _

/-- A special function delivers codes of its format (R356). -/
theorem Fmt.Fits.sfuElem_lt (ftz : Bool) (op : FNum → NumOp) (x : Nat) : (sfuElem f ftz op x).bits < 2 ^ f.width := by
  unfold sfuElem
  dsimp only
  split
  next same => rw [same]; exact f32_fits.out_lt ..
  next => exact fits.out_lt ..

end

/-! ## The elements of a word -/

theorem packElems_elem {w : Nat} : ∀ (xs : List Nat) (i : Nat), (∀ x ∈ xs, x < 2 ^ w) →
    packElems w xs < 2 ^ (w * xs.length) ∧ packElems w xs / 2 ^ (w * i) % 2 ^ w = xs.getD i 0 := by
  intro xs
  induction xs with
  | nil => exact fun i _ => ⟨by simp [packElems], by simp [packElems]⟩
  | cons x xs ih =>
    intro i small
    have head : x < 2 ^ w := small x List.mem_cons_self
    have tail : ∀ y ∈ xs, y < 2 ^ w := fun y mem => small y (List.mem_cons_of_mem x mem)
    have split_ : packElems w (x :: xs) = x + 2 ^ w * packElems w xs := by rw [packElems, Nat.mod_eq_of_lt head]
    refine ⟨?_, ?_⟩
    · rw [split_, List.length_cons, Nat.mul_succ, Nat.add_comm (w * _), Nat.pow_add]
      calc x + 2 ^ w * packElems w xs < 2 ^ w + 2 ^ w * packElems w xs := Nat.add_lt_add_right head _
        _ = 2 ^ w * (packElems w xs + 1) := by rw [Nat.mul_succ, Nat.add_comm]
        _ ≤ 2 ^ w * 2 ^ (w * xs.length) := Nat.mul_le_mul_left _ (ih 0 tail).1
    · rw [split_]
      cases i with
      | zero => simp [Nat.mod_eq_of_lt head]
      | succ i =>
        rw [Nat.mul_succ, Nat.add_comm (w * i), Nat.pow_add, ← Nat.div_div_eq_div_mul,
          Nat.add_mul_div_left _ _ (Nat.two_pow_pos w), Nat.div_eq_of_lt head, Nat.zero_add, (ih i tail).2]
        rfl

/-- A word made of as many results as its TYPE has elements has them as its elements. -/
theorem elem_mkWord {t : Nat} {f : Nat → Nat} (small : ∀ e, f e < 2 ^ tyWidth t) {e : Nat} (below : e < tyCount t) :
    elem (tyWidth t) (mkWord (tyWidth t) ((upto (tyCount t)).map f)) e = f e := by
  have all : ∀ x ∈ (upto (tyCount t)).map f, x < 2 ^ tyWidth t := by
    intro x mem
    obtain ⟨k, -, rfl⟩ := List.mem_map.mp mem
    exact small k
  obtain ⟨fits, is⟩ := packElems_elem _ e all
  have len : tyWidth t * ((upto (tyCount t)).map f).length ≤ 32 := by
    rw [List.length_map, upto, List.length_range]
    exact Nat.mul_div_le 32 (tyWidth t)
  rw [elem, mkWord, BitVec.toNat_ofNat, Nat.mod_eq_of_lt (Nat.lt_of_lt_of_le fits (Nat.pow_le_pow_right (by decide) len)), is]
  simp [upto, below]

/-! ## The results of a lane -/

section
variable {c : Ctx} (least : 6 ≤ tyOf c.g.m) (most : tyOf c.g.m ≤ 8)
include least most

/-- A float operation that rounds delivers, in each lane, the element-wise results of its sources (R215, R354). -/
theorem fltLane_determined {rs : List (BitVec 7)} {op : List FNum → NumOp} {f : (Nat → FNum) → NumOp} (takes : Takes rs op f)
    (l : Nat) : c.determined rs l (floatwise c.g.m (c.drawnWord l) f)
      ((c.fltLane rs c.srCount op l).vals.getD 0 (clean 0#32)) := by
  refine ⟨by simp only [Ctx.fltLane, List.getD_cons_zero, Ctx.poisOf, List.map_map]; rfl, fun _ e below => ?_⟩
  have element := takes (fun r => (c.src r l).w)
    (fun w => (tyFmt (tyOf c.g.m)).read (ftzOf c.g.m) (elem (tyWidth (tyOf c.g.m)) w e))
  have word := fltLane_word (c := c) ⟨least, most⟩ true l e
  simp only [if_true] at word
  change elem _ (mkWord _ ((List.map _ _).map _)) e = _
  rw [List.map_map, elem_mkWord (fun k => tyFmt_width least most ▸ (tyFmt_fits _).out_lt ..) below]
  dsimp only [Function.comp_apply]
  rw [element, word]
  rfl

theorem fltLane_quiet {rs : List (BitVec 7)} {op : List FNum → NumOp} {f : (Nat → FNum) → NumOp} (takes : Takes rs op f)
    {l : Nat} (none_ : ∀ e < tyCount (tyOf c.g.m), (floatElement c.g.m (c.drawnWord l) f
      (fun k => (rs.map (fun r => (c.src r l).w)).getD k 0#32) e).ev = false) :
    (c.fltLane rs c.srCount op l).ev = false := by
  refine List.any_eq_false.mpr fun r mem => ?_
  obtain ⟨e, below, rfl⟩ := List.mem_map.mp mem
  have element := takes (fun r => (c.src r l).w)
    (fun w => (tyFmt (tyOf c.g.m)).read (ftzOf c.g.m) (elem (tyWidth (tyOf c.g.m)) w e))
  have word := fltLane_word (c := c) ⟨least, most⟩ true l e
  simp only [if_true] at word
  dsimp only
  rw [element, word]
  exact Bool.eq_false_iff.mp (none_ e (List.mem_range.mp below))

/-- A special function delivers, in each lane, its results on the elements of its source (R356). -/
theorem sfuLane_determined (a : BitVec 7) (f : FNum → NumOp) (l : Nat) :
    c.determined [a] l (fun x r => ∀ e < tyCount (tyOf c.g.m), elem (tyWidth (tyOf c.g.m)) r e =
      (sfuElem (tyFmt (tyOf c.g.m)) (ftzOf c.g.m) f (elem (tyWidth (tyOf c.g.m)) (x 0) e)).bits)
      ((c.sfuLane a f l).vals.getD 0 (clean 0#32)) := by
  refine ⟨by cases h : (c.src a l).p <;> simp [Ctx.sfuLane, tagMinL, tagMin, h], fun _ e below => ?_⟩
  change elem _ (mkWord _ ((List.map _ _).map _)) e = _
  rw [List.map_map, elem_mkWord (fun k => tyFmt_width least most ▸ (tyFmt_fits _).sfuElem_lt ..) below]
  rfl

end

theorem sfuLane_quiet {c : Ctx} {a : BitVec 7} {f : FNum → NumOp} {l : Nat}
    (none_ : ∀ e < tyCount (tyOf c.g.m), (sfuElem (tyFmt (tyOf c.g.m)) (ftzOf c.g.m) f
      (elem (tyWidth (tyOf c.g.m)) (c.src a l).w e)).ev = false) : (c.sfuLane a f l).ev = false := by
  refine List.any_eq_false.mpr fun r mem => ?_
  obtain ⟨e, below, rfl⟩ := List.mem_map.mp mem
  exact Bool.eq_false_iff.mp (none_ e (List.mem_range.mp below))

theorem trapped_none {c : Ctx} {f : Nat → LaneRes} {te : BitVec 1}
    (quiet : te = 0#1 ∨ ∀ l < 32, c.act.getLsbD l = true → (f l).ev = false) (l : Nat) : trapped (c.results f) te l = none := by
  unfold trapped
  rw [mget?_results]
  cases on : c.act.getLsbD l with
  | false => rfl
  | true =>
    rcases quiet with off | none_
    · simp [off]
    · simp [none_ l (BitVec.lt_of_getLsbD on) on]

/-! ## The issue of an operation whose lanes draw (R270, R308) -/

/-- An instruction that draws e words in each lane of its operation and ends with State.startPend issues the operation. -/
theorem issuesPending_drawn {s : State} {c : Ctx} {i : Instr} {e : Nat} {p : Pend} {code : Nat → Option Nat} {ok : Pend → Prop}
    (hi : MayIssue s c i) (active : c.act ≠ 0#32) (lanes : p.lanes = c.act) (clean : ∀ l < 32, code l = none) (owns : c.owns p)
    (holds : ∀ dh, ok { p with id := s.nextId, dhash := dh })
    (run : exec i s = .next ((s.drew c.gk c.act e).startPend c p code)) : IssuesPending i s c c.wg id e ok := by
  obtain ⟨g1, mid, drew, words⟩ := (Mid.refl hi.ctxOf).drew c.act e
  have ids : (s.drew c.gk c.act e).nextId = s.nextId := by
    unfold State.drew
    split <;> rfl
  obtain ⟨pc, gen, kept⟩ := owns
  obtain ⟨dh, put⟩ := startPend_eq (s := s.drew c.gk c.act e) (c := c) (lanes ▸ active : p.lanes ≠ 0#32) code
  rw [put, ids] at run
  have described := holds dh
  obtain ⟨q, is⟩ : ∃ q : Pend, { p with id := s.nextId, dhash := dh } = q := ⟨_, rfl⟩
  rw [is] at run described
  obtain ⟨fl, changed⟩ := issuing_eq q g1
  have taken : Mid s (s.drew c.gk c.act e).takeId.2 { c with wg := c.wg } g1 := ⟨mid.only.takeId, mid.group, mid.splits⟩
  obtain ⟨only, nextId, g, group, same, stands⟩ :=
    (taken.updGroup (Group.issuing q) (by rw [changed])).goesOn hi hi.noFailure clean
  have rest : ({ g with splits := (g1.issuing q).splits } : Group) = g1.issuing q := same
  refine ⟨_, g, q, run, only, group, described, ?group, ?pend, is ▸ rfl, nextId.trans (congrArg (· + 1) ids), is ▸ pc, is ▸ gen,
    is ▸ kept, fun k => ?flags, fun l below => ?words, stands⟩
  case group =>
    exact (congrArg (fun x : Group => { x with
      pend := c.g.pend, flags := c.g.flags, srctr := c.g.srctr, splits := c.g.splits }) (rest.trans changed) :).trans
        (congrArg (fun x : Group => { x with pend := c.g.pend, flags := c.g.flags, splits := c.g.splits }) drew)
  case pend =>
    exact (congrArg Group.pend (rest.trans changed) :).trans (congrArg (· ++ [q]) (congrArg Group.pend drew :))
  case flags =>
    rw [show g.flag k = (g1.issuing q).flag k from (congrArg (Group.flag · k) rest :), flag_issuing,
      show g1.flag k = c.g.flag k from (congrArg (Group.flag · k) drew :)]
  case words =>
    rw [show g.sr l = g1.sr l from (congrArg (Group.sr · l) (rest.trans changed) :), words l below, ← is, lanes]

/-- A computed class A result none of whose lanes traps is issued for all active lanes (R270). -/
theorem longRes_issues {s : State} {c : Ctx} {i : Instr} {d : BitVec 7} {t : Tag} {te : BitVec 1} {e : Nat} {f : Nat → LaneRes}
    {val : Nat → Val → Prop} (hi : MayIssue s c i) (active : c.act ≠ 0#32) (room : c.g.flagFull c.sp.setA = false)
    (quiet : te = 0#1 ∨ ∀ l < 32, c.act.getLsbD l = true → (f l).ev = false)
    (values : ∀ l, val l ((f l).vals.getD 0 (clean 0#32))) (run : exec i s = .next (s.longRes c d t te e (c.results f))) :
    IssuesPending i s c c.wg id e (fun p =>
      p.dst = d.toNat ∧ p.nreg = 1 ∧ p.lanes = c.act ∧ p.flag = c.sp.setA ∧ p.acc = [] ∧
      ∃ vals u, p.op = .value vals u ∧ ∀ l < 32, c.act.getLsbD l = true → val l (vals.getD l (clean 0#32))) := by
  have good : c.act &&& ~~~ codeMask (trapped (c.results f) te) = c.act := by
    have none_ : codeMask (trapped (c.results f) te) = 0#32 := codeMask_eq_zero fun l _ => trapped_none quiet l
    rw [none_, BitVec.not_zero, BitVec.and_allOnes]
  unfold State.longRes at run
  rw [room] at run
  simp only [Bool.false_eq_true, if_false, good] at run
  refine issuesPending_drawn hi active rfl (fun l _ => trapped_none quiet l) ⟨rfl, rfl, rfl⟩
    (fun dh => ⟨rfl, rfl, rfl, rfl, rfl, _, _, rfl, fun l below on => ?_⟩) run
  have word : resWord (c.results f) 0 l = (f l).vals.getD 0 (clean 0#32) := by
    unfold resWord
    rw [mget?_results, if_pos on]
  rw [show (allLanes.map (resWord (c.results f) 0)).getD l (clean 0#32) = resWord (c.results f) 0 l by
    simp [allLanes, below], word]
  exact values l

/-! ## The rows of the instructions -/

theorem longRows_exec {d a b : BitVec 7} {te : BitVec 1} {i : Instr} {rs : List (BitVec 7)} {f : (Nat → FNum) → NumOp}
    (row : (i, rs, f) ∈ longRows d a b te) : ∃ op, Takes rs op f ∧ ∀ s, exec i s = s.issue i Ctx.fltMode fun c =>
      s.longRes c d (c.tagE (rs.map (·.toNat)) c.srCount) te c.srCount (c.results (c.fltLane rs c.srCount op)) := by
  simp only [longRows, List.mem_cons, Prod.mk.injEq, List.not_mem_nil, or_false] at row
  rcases row with ⟨rfl, rfl, rfl⟩ | ⟨rfl, rfl, rfl⟩
  · exact ⟨num2 numDiv, fun _ _ => rfl, fun _ => rfl⟩
  · exact ⟨num1 numSqrt, fun _ _ => rfl, fun _ => rfl⟩

theorem specialFunctionRows_exec {d a : BitVec 7} {te : BitVec 1} {i : Instr} {f : FNum → NumOp}
    (row : (i, f) ∈ specialFunctionRows d a te) : ∀ s, exec i s = s.issue i Ctx.fltMode fun c =>
      s.longRes c d (tagU [c.tag a]) te 0 (c.results (c.sfuLane a f)) := by
  simp only [specialFunctionRows, List.mem_cons, Prod.mk.injEq, List.not_mem_nil, or_false] at row
  rcases row with ⟨rfl, rfl⟩ | ⟨rfl, rfl⟩ | ⟨rfl, rfl⟩ | ⟨rfl, rfl⟩ | ⟨rfl, rfl⟩ | ⟨rfl, rfl⟩
  all_goals exact fun _ => rfl

end Sys2Proof.Machine

namespace Sys2Proof.Proofs
open Sys2Proof.Machine

/-- Settles O8: no lane traps, so the operation is issued for all active lanes, with the words made of their elements' results. -/
theorem longFloatArithmetic : Obligations.LongFloatArithmetic := by
  unfold Obligations.LongFloatArithmetic
  intro s c d a b te least most active room
  have mode : c.fltMode = true := by simp [Ctx.fltMode, fltTy, least, most]
  refine ⟨fun i rs f row hi quiet => ?_, fun i f row hi quiet => ?_⟩
  · obtain ⟨op, takes, does⟩ := longRows_exec row
    exact longRes_issues hi active room
      (quiet.imp_right fun none_ l below on => fltLane_quiet least most takes (none_ l below on))
      (fltLane_determined least most takes) ((does s).trans (hi.issue mode _))
  · exact longRes_issues hi active room (quiet.imp_right fun none_ l below _ => sfuLane_quiet (none_ l below))
      (sfuLane_determined least most a f) ((specialFunctionRows_exec row s).trans (hi.issue mode _))

end Sys2Proof.Proofs
end

section
/-! SUPPORT. Loads at issue (R270, R364 to R366, R372): the logging of their destination registers, and the operation that is left
to be performed. -/

namespace Sys2Proof.Machine

/-! ## The destinations of a load are logged as it issues (R132, R364) -/

theorem roomFor_shift {w : Wg} {c : Ctx} {d n : Nat} (h : w.roomFor c d (n + 1)) : w.roomFor c (d + 1) n := by
  rcases h with closed | logged | room
  · exact .inl closed
  · refine .inr (.inl fun j hj => ?_)
    rw [Nat.add_assoc, Nat.add_comm 1]
    exact logged (j + 1) (Nat.succ_lt_succ hj)
  · exact .inr (.inr (by omega))

/-- Where the log has room for the first writes of n registers, they are logged, and nothing else changes. -/
theorem Mid.logRegs {s t : State} {c : Ctx} {g : Group} (hc : CtxOf s c) (h : Mid s t c g) (wg : mget? t.wgs c.wk = some c.wg)
    {d n : Nat} (room : c.logRoom d n) :
    ∃ t', t.logRegs c d n = (true, t') ∧ Mid s t' c g ∧ t'.nextId = t.nextId := by
  suffices some_ : ∀ k ≤ n, ∃ t' w, t.logRegs c d k = (true, t') ∧ Mid s t' c g ∧ t'.nextId = t.nextId ∧
      mget? t'.wgs c.wk = some w ∧ w.sameButLogs c.wg ∧ w.roomFor c (d + k) (n - k) by
    obtain ⟨t', _, did, mid, ids, -⟩ := some_ n (Nat.le_refl n)
    exact ⟨t', did, mid, ids⟩
  intro k
  induction k with
  | zero => exact fun _ => ⟨t, c.wg, rfl, h, rfl, wg, .refl _, roomFor_ctx room⟩
  | succ k ih =>
    intro below
    obtain ⟨t1, w1, did, mid, ids, wg1, logs, left⟩ := ih (by omega)
    obtain ⟨m, rest⟩ : ∃ m, n - k = m + 1 := ⟨n - k - 1, by omega⟩
    have next_ : n - (k + 1) = m := by omega
    rw [rest] at left
    have step : t.logRegs c d (k + 1) = if c.inBlock && d + k ≠ 0 then
        t1.logFirst c.wk (.reg c.g.k (d + k) (c.g.reg (d + k))) c.sp.pc else (true, t1) := by
      have folded : t.logRegs c d (k + 1) = (fun acc : Bool × State => if acc.1 && c.inBlock && d + k ≠ 0 then
          acc.2.logFirst c.wk (.reg c.g.k (d + k) (c.g.reg (d + k))) c.sp.pc else acc) (t.logRegs c d k) := by
        unfold State.logRegs upto
        rw [List.range_succ, List.foldl_append]
        rfl
      rw [folded, did]
      simp only [Bool.true_and]
    rw [step, next_, ← Nat.add_assoc]
    split
    · obtain ⟨t2, w2, did2, mid2, wg2, logs2, left2, -⟩ := logFirst_reg hc mid wg1 logs _ _ c.sp.pc (c.g.reg (d + k)) left
      exact ⟨t2, w2, did2, mid2, (logFirst_nextId did2).trans ids, wg2, logs2, left2⟩
    · exact ⟨t1, w1, rfl, mid, ids, wg1, logs, roomFor_shift left⟩

/-- The destinations of a load some lane of which passes its checks. -/
theorem Mid.logDst {s t : State} {c : Ctx} {i : Instr} {g : Group} (hi : MayIssue s c i) (h : Mid s t c g) (wgs : t.wgs = s.wgs)
    (ids : t.nextId = s.nextId) {d n : Nat} (room : c.logRoom d n) {fs : Forms} (some_ : fs.good ≠ 0#32) :
    ∃ t', t.logDst c d n fs = (true, t') ∧ IssueReady s t' c c.wg g := by
  obtain ⟨t', did, mid, same⟩ := h.logRegs hi.ctxOf (wgs ▸ hi.ctxOf.wg) room
  unfold State.logDst
  rw [if_neg some_, did]
  exact ⟨t', rfl, mid, hi.noFailure, same.trans ids⟩

/-! ## LD, LDA and LR -/

section
variable {s : State} {c : Ctx} {i : Instr} {a : BitVec 7} {h : BitVec 4} {n : Nat} {fs : Forms} (hi : MayIssue s c i)
  (lanes : c.act ≠ 0#32) (room : c.g.flagFull c.sp.setA = false)
include hi lanes room

/-- A load of class A whose accesses all pass their checks issues its operation (R363, R364). -/
theorem loadOp_issues {k : AccKind} {p : Pend} {ok : Pend → Prop} (bank : s.bankWait c h a = false)
    (logged : c.logRoom p.dst p.nreg) (formed : s.forms c h a n k fs) (owns : c.owns p)
    (holds : ∀ dh, ok { p with lanes := c.act, acc := fs.parts, flag := c.sp.setA, id := s.nextId, dhash := dh })
    (run : exec i s = .next (s.loadOp c p h a n k)) : IssuesPending i s c c.wg id 0 ok := by
  have good := forms_good formed
  obtain ⟨t, did, ready⟩ := (Mid.refl hi.ctxOf).logDst hi rfl rfl logged (ne_of_eq_of_ne good lanes)
  unfold State.loadOp at run
  simp only [room, bank, Bool.false_eq_true, if_false, formed.1, did, if_true, good] at run
  exact issuesPending_of (f := id) (p := { p with lanes := c.act, acc := fs.parts, flag := c.sp.setA }) hi ready rfl lanes (fun l _ => forms_clean formed l) owns holds run

end

/-- What the operation of a load of n registers carries, whatever it does when it is performed. -/
def Ctx.readsOf (c : Ctx) (d a : BitVec 7) (h : BitVec 4) (n : Nat) (fs : Forms) (p : Pend) : Prop :=
  p.dst = d.toNat ∧ p.nreg = n ∧ p.lanes = c.act ∧ p.acc = fs.parts ∧ p.flag = c.sp.setA ∧ p.tag = c.loadTag h a

section
variable {s : State} {c : Ctx} {d a : BitVec 7} {h : BitVec 4} {z k : BitVec 3} {fs : Forms} (lanes : c.act ≠ 0#32)
  (room : c.g.flagFull c.sp.setA = false) (logged : c.logRoom d.toNat (sizeRegs z.toNat))
include lanes room logged

theorem ld_issues {x : BitVec 1} (hi : MayIssue s c (.ld d a h z x)) (bank : s.bankWait c h a = false)
    (formed : s.forms c h a (2 ^ z.toNat) .load fs) :
    IssuesPending (.ld d a h z x) s c c.wg id 0 (fun p =>
      c.readsOf d a h (sizeRegs z.toNat) fs p ∧ p.op = .load (2 ^ z.toNat) (x == 1#1) ∧ p.acq = false) :=
  loadOp_issues hi lanes room bank logged formed ⟨rfl, rfl, rfl⟩ (fun _ => ⟨⟨rfl, rfl, rfl, rfl, rfl, rfl⟩, rfl, rfl⟩)
    (hi.issue rfl _)

theorem lda_issues (hi : MayIssue s c (.lda d a h z k)) (bank : s.bankWait c h a = false)
    (formed : s.forms c h a (2 ^ z.toNat) .load fs) (resolved : c.g.watchingLanes c.sp.mask = false) :
    IssuesPending (.lda d a h z k) s c c.wg id 0 (fun p => c.readsOf d a h (sizeRegs z.toNat) fs p ∧
      p.op = .load (2 ^ z.toNat) false ∧ p.acq = true ∧ p.scope = k.toNat) := by
  refine loadOp_issues hi lanes room bank (p := { c.pend (.load (2 ^ z.toNat) false) d.toNat (sizeRegs z.toNat) 0#32
    (c.loadTag h a) [] 15 with acq := true, scope := k.toNat }) logged formed ⟨rfl, rfl, rfl⟩
    (fun _ => ⟨⟨rfl, rfl, rfl, rfl, rfl, rfl⟩, rfl, rfl, rfl⟩) ((hi.issue rfl _).trans ?_)
  rw [room, resolved]
  rfl

/-- An LR takes the group's next event number (R258, R372). -/
theorem lr_issues {q : BitVec 1} (hi : MayIssue s c (.lr d a h z q k)) (formed : s.forms c h a (2 ^ z.toNat) .lrsc fs)
    (live : c.rrOn 2 = false) (resolved : q = 1#1 → c.g.watchingLanes c.sp.mask = false) :
    IssuesPending (.lr d a h z q k) s c c.wg (fun g => { g with evno := g.evno + 1 }) 0 (fun p =>
      c.readsOf d a h (sizeRegs z.toNat) fs p ∧ p.op = .lr (2 ^ z.toNat) ∧ p.acq = (q == 1#1) ∧ p.scope = k.toNat ∧
        p.evno = c.g.evno) := by
  have good := forms_good formed
  have numbered : s.rrIssue c 2 (c.addrHash h a) =
      (some (c.g.evno, none), s.updGroup c.gk (fun g => { g with evno := g.evno + 1 })) := by
    simp only [State.rrIssue, State.rrTake, State.rrNumber, live, hi.ctxOf.group, Bool.not_false, if_true]
  have noWatch : (q = 1#1 && c.g.watchingLanes c.sp.mask) = false := by
    by_cases acquires : q = 1#1
    · simp [resolved acquires]
    · simp [acquires]
  have taken := (Mid.refl hi.ctxOf).updGroup (fun g => { g with evno := g.evno + 1 }) rfl
  obtain ⟨t, did, ready⟩ := taken.logDst hi rfl rfl logged (ne_of_eq_of_ne good lanes)
  have run : exec (.lr d a h z q k) s = _ := hi.issue rfl _
  simp only [room, noWatch, Bool.false_eq_true, if_false, lanes, show sizeBytes z = 2 ^ z.toNat from rfl, formed.1, good,
    numbered, did, if_true] at run
  exact issuesPending_of (f := fun g => { g with evno := g.evno + 1 }) hi ready rfl lanes (fun l _ => forms_clean formed l)
    ⟨rfl, rfl, rfl⟩ (fun _ => ⟨⟨rfl, rfl, rfl, rfl, rfl, rfl⟩, rfl, rfl, rfl, rfl⟩) run

end

end Sys2Proof.Machine

namespace Sys2Proof.Proofs
open Sys2Proof.Machine

/-- Settles O25: the accesses pass, the destinations find room in the log, and the operation issues with all active lanes. -/
theorem loadsIssue : Obligations.LoadsIssue := by
  unfold Obligations.LoadsIssue
  intro s c d a h z k x q fs lanes room bank logged
  exact ⟨fun hi formed => ld_issues lanes room logged hi bank formed,
    fun hi formed resolved => lda_issues lanes room logged hi bank formed resolved,
    fun hi formed live resolved => lr_issues lanes room logged hi formed live resolved⟩

end Sys2Proof.Proofs
end

section
/-! SUPPORT. Forms that complete (R268, R335, R351, R352, R54, R82 to R86): what lane moves leave of the group, the last CONVL of a
workgroup of one group, and restart, boot and attestation whatever errors their accesses find. -/

namespace Sys2Proof.Machine

/-! ## Lane moves and reductions (R351, R352) -/

/-- An instruction that ends with State.put completes and leaves all of its group but the destination and the split. -/
theorem put_goesOn {s : State} {c : Ctx} {i : Instr} {d : BitVec 7} {tag : Tag} {f : Nat → Val} (hi : MayIssue s c i)
    (room : c.logRoom d.toNat 1) (run : exec i s = .next (s.put c d tag f)) :
    ∃ t g, exec i s = .next t ∧ mget? t.groups c.gk = some g ∧ g.standsAt c.sp.mask (c.sp.pc + 1) ∧
      (∀ r, r ≠ d.toNat → g.reg r = c.g.reg r) ∧ g.preds = c.g.preds ∧ g.m = c.g.m ∧ t.mm = s.mm := by
  obtain ⟨g1, written, wrote⟩ := Mid.writeVs hi.ctxOf hi.noFailure c.act (fun _ => tag) (fun _ => f) d.toNat 1 room
  obtain ⟨only, g, group, same, stands⟩ := written.ended (code := noFault) hi fun _ _ => rfl
  have regs : g.regs = g1.regs := (congrArg Group.regs same :)
  have preds : g.preds = c.g.preds := (congrArg Group.preds same :).trans (congrArg Group.preds wrote.rest :)
  have mode : g.m = c.g.m := (congrArg Group.m same :).trans (congrArg Group.m wrote.rest :)
  exact ⟨_, g, run, group, stands, fun r other => (reg_of_regs regs r).trans (wrote.others r (by omega)), preds, mode,
    (congrArg State.mm only.rest :)⟩

theorem redMode_of_reductionMode {c : Ctx} {o : Nat} (h : reductionMode c.g.m o) : redMode o c = true := by
  unfold redMode
  rcases h with ⟨small, int⟩ | ⟨least, most⟩ | ⟨least, most, lo, hi, rounded⟩
  · rw [if_pos small]
    exact decide_eq_true int
  · rw [if_neg (by omega), if_pos most]
  · rw [if_neg (by omega), if_neg (by omega), fltTy, decide_eq_true lo, decide_eq_true hi]
    by_cases six : o = 6 <;> simp [six]
    exact rounded six

/-- A lane move, or a reduction in a mode that it accepts, ends with State.put. -/
theorem laneMove_puts {s : State} {c : Ctx} {d a b : BitVec 7} {o : BitVec 4} {e : BitVec 1} {i : Instr} (hi : MayIssue s c i)
    (form : i ∈ [Instr.vbcast d a b, .vshfl d a b, .vshfx d a b] ∨
      reductionMode c.g.m o.toNat ∧ i ∈ [Instr.vred d a o, .vscan d a e o]) :
    ∃ tag f, exec i s = .next (s.put c d tag f) := by
  simp only [List.mem_cons, List.not_mem_nil, or_false] at form
  rcases form with (rfl | rfl | rfl) | ⟨mode, rfl | rfl⟩
  · exact ⟨_, _, hi.issue rfl _⟩
  · exact ⟨_, _, hi.issue rfl _⟩
  · exact ⟨_, _, hi.issue rfl _⟩
  · exact ⟨_, _, hi.issue (redMode_of_reductionMode mode) _⟩
  · exact ⟨_, _, hi.issue (redMode_of_reductionMode mode) _⟩

/-! ## CONVL (R335) -/

/-- The last member of a conversation leaves it, and no other is left in it (R335). -/
theorem State.leaveConv_alone {s : State} {wk m : Nat} {w : Wg} (here : mget? s.wgs wk = some w) (conv : w.conv = some m)
    (alone : ∀ o x, mget? s.wgs o = some x → x.conv = some m → o = wk) :
    mget? (s.leaveConv wk).wgs wk = some { w with conv := none, convl := [] } ∧ (s.leaveConv wk).groups = s.groups ∧
      (s.leaveConv wk).mm = s.mm := by
  have told := s.emitWg_offered wk 0x0D (m % 2 ^ 24 + 2 ^ 24 + w.k * 2 ^ 25)
  obtain ⟨u, hu⟩ : ∃ u, (s.emitWg wk 0x0D (m % 2 ^ 24 + 2 ^ 24 + w.k * 2 ^ 25)).updWg wk
      (fun w => { w with conv := none, convl := [] }) = u := ⟨_, rfl⟩
  have eq : s.leaveConv wk = u := by
    unfold State.leaveConv
    simp only [here, conv, hu]
    generalize rest : List.filter _ ((List.filter _ _).map _) = left
    have none_ : left = [] := by
      refine rest ▸ List.filter_eq_nil_iff.mpr fun o _ => ?_
      rw [← hu, State.updWg_wgs, told.wgs]
      by_cases self : o = wk
      · rw [self, mget?_mupd_same here]
        exact Bool.false_ne_true
      · rw [mget?_mupd_other _ _ self]
        cases at_ : mget? s.wgs o with
        | none => exact Bool.false_ne_true
        | some x => exact fun joined => self (alone o x at_ (beq_iff_eq.mp joined))
    rw [none_]
    rfl
  rw [eq, ← hu]
  exact ⟨(mget?_mupd_same (told.wgs ▸ here)).trans rfl, told.groups, told.mm⟩

theorem convl_leaves {s : State} {c : Ctx} {m : Nat} (hi : MayIssue s c .convl) (outside : c.wg.blocks = [])
    (conv : c.wg.conv = some m) (hs : s.canonical) (single : ∀ k h, (k, h) ∈ s.groups → h.wg = c.wk → k = c.gk)
    (alone : ∀ e ∈ s.wgs, e.2.conv = some m → e.1 = c.wk) :
    ∃ t g w, exec .convl s = .next t ∧ mget? t.groups c.gk = some g ∧ g.standsAt c.sp.mask (c.sp.pc + 1) ∧
      mget? t.wgs c.wk = some w ∧ w.conv = none ∧ w.convl = [] ∧ t.mm = s.mm := by
  have hc := hi.ctxOf
  have running : s.frozen c.wk = false := (Mid.refl hc).failing hi.noFailure
  obtain ⟨-, g, group, same, stands⟩ := (Mid.refl hc).ended (code := noFault) hi fun _ _ => rfl
  have went : s.advance c = s.updGroup c.gk _ := endInstr_noFault s c noFault (fun _ _ => rfl) running
  obtain ⟨f, went⟩ : ∃ f, s.advance c = s.updGroup c.gk f := ⟨_, went⟩
  obtain ⟨names, listed⟩ : ∃ names : List Nat, names =
      if c.wg.convl.contains c.g.k then c.wg.convl else c.g.k :: c.wg.convl := ⟨_, rfl⟩
  have named : names.contains c.g.k = true := by
    rw [listed]
    split
    next known => exact known
    next => simp
  obtain ⟨u, hu⟩ : ∃ u, (s.advance c).updWg c.wk (fun w =>
      { w with convl := if w.convl.contains c.g.k then w.convl else c.g.k :: w.convl }) = u := ⟨_, rfl⟩
  have run : exec .convl s = .next (u.convlCheck c.wk) := by
    refine (hi.issue rfl _).trans ?_
    rw [inBlock_eq_false.mpr outside, conv, ← hu]
    rfl
  have wgs : u.wgs = mupd s.wgs c.wk (fun w =>
      { w with convl := if w.convl.contains c.g.k then w.convl else c.g.k :: w.convl }) := by
    rw [← hu, went]
    rfl
  have groups : u.groups = (s.advance c).groups := hu ▸ rfl
  have here : mget? u.wgs c.wk = some { c.wg with convl := names } := by
    rw [wgs, mget?_mupd_same hc.wg, listed]
  have number : g.k = c.g.k := (congrArg Group.k same :)
  have all : (mvals (u.groupsOf c.wk)).all (fun g => g.splits.isEmpty || names.contains g.k) = true := by
    refine List.all_eq_true.mpr fun h mem => ?_
    obtain ⟨e, listed, rfl⟩ := List.mem_map.mp mem
    obtain ⟨mem, its⟩ := List.mem_filter.mp listed
    have issuing : e.2.k = c.g.k := by
      rw [groups, went, State.updGroup_groups] at mem
      have there : mget? (mupd s.groups c.gk f) c.gk = some g := by rwa [← State.updGroup_groups, ← went]
      unfold mupd at mem there
      rw [hc.group] at mem there
      dsimp only at mem there
      rcases mem_mput mem with old | eq
      · have key := single e.1 e.2 old (beq_iff_eq.mp its)
        have at_ := mget?_of_mem hs.groups old
        rw [key, hc.group] at at_
        rw [Option.some.inj at_]
      · rw [mget?_mput_same] at there
        rw [eq, ← number]
        exact congrArg Group.k (Option.some.inj there)
    rw [issuing, named, Bool.or_true]
  have leaves : u.convlCheck c.wk = u.leaveConv c.wk := by
    have some_ : names.isEmpty = false := by
      cases names with
      | nil => exact absurd named (by simp)
      | cons => rfl
    unfold State.convlCheck
    rw [here]
    dsimp only
    rw [conv, some_, all]
    rfl
  obtain ⟨left, kept, memory⟩ := State.leaveConv_alone here conv fun o x at_ joined => by
    by_cases self : o = c.wk
    · exact self
    · rw [wgs, mget?_mupd_other _ _ self] at at_
      exact alone (o, x) (mget?_mem at_) joined
  refine ⟨_, g, _, run, ?_, stands, leaves ▸ left, rfl, rfl, ?_⟩
  · rw [leaves, kept, groups]
    exact group
  · rw [leaves, memory, ← hu, went]
    rfl

/-! ## Restart (R54, R424) -/

theorem State.recStore_besides (s : State) (i : Nat) : (s.recStore i).besides = s.besides := (s.recStore_reported i).besides

theorem State.poisonUnsaved_besides (s : State) (cls : Nat) (ls : List Nat) : (s.poisonUnsaved cls ls).besides = s.besides := by
  unfold State.poisonUnsaved
  cases ls with
  | nil => rfl
  | cons ln r =>
    dsimp only
    refine (State.besides_foldl (fun s _ => State.updLine_besides ..) _ _).trans ((State.besides_ite rfl ?_).trans
      (s.record_besides ..))
    exact (State.recStore_besides ..).trans rfl

theorem State.copySection_besides (s : State) (d : Drain) (base k : Nat) : (s.copySection d base k).besides = s.besides :=
  State.besides_foldl (fun s _ => s.outsideWrite_besides ..) _ s

/-- RESTORE is under way, whatever errors its writes find (R424). -/
theorem restore_starts {s : State} {d : Drain} (selected : s.power.selected = some d) (unlaunched : s.kul.launched = false)
    (idle : s.power.restoring = false) : ∃ t, exec .restore s = .next t ∧ t.power.restoring = true := by
  refine ⟨_, rfl, ?_⟩
  have kept : s.doRestore.besides = (s.setPower { s.power with restoring := true }).besides := by
    unfold State.doRestore
    rw [selected]
    dsimp only
    rw [unlaunched, idle, Bool.or_false, if_neg Bool.false_ne_true]
    refine (State.besides_foldl (fun s _ => s.copySection_besides ..) _ _).trans ?_
    rw [State.poisonUnsaved_besides, State.poisonUnsaved_besides]
    exact State.besides_foldl (fun s _ => s.outsideWrite_besides ..) _ _
  exact (congrArg (fun x : State => x.power.restoring) kept :)

/-! ## Boot and attestation (R82 to R86) -/

theorem bundleStart_ends {s : State} (busy : s.boot.busy = true) : ∃ t, exec .bundleStart s = .next t ∧ t.boot.busy = false := by
  refine ⟨_, rfl, ?_⟩
  rw [busy]
  dsimp only
  split
  next never => cases never
  next =>
    split
    · rfl
    · split
      · rfl
      · split <;> rfl

theorem atdone_finishes {s : State} (busy : s.boot.atbusy = true) :
    ∃ t, exec .atdone s = .next t ∧ t.boot.atbusy = false ∧ (t.boot.atdone = true ∨ t.boot.aterr = true) := by
  refine ⟨_, rfl, ?_⟩
  rw [busy]
  generalize (if s.boot.hashes.isEmpty then s.openBytes 96 else (s.boot.hashes, s)) = begun
  obtain ⟨hashes, u⟩ := begun
  dsimp only
  split
  next never => cases never
  next =>
    split
    · exact ⟨rfl, .inr rfl⟩
    · exact ⟨rfl, .inl rfl⟩

end Sys2Proof.Machine

namespace Sys2Proof.Proofs
open Sys2Proof.Machine

/-- Settles O60: each clause is the lemma about its form. -/
theorem formsThatComplete : Obligations.FormsThatComplete := by
  unfold Obligations.FormsThatComplete
  refine ⟨fun s c w a b l y here outside wf => ?clause, fun s c d a b o e i room hi form => ?moves,
    fun s c m hi outside conv hs single alone => convl_leaves hi outside conv hs single alone,
    fun s q v b good => ⟨fun idle enabled going read => ⟨fun plain next_ small level => ?doorbell, fun held => ?rsy⟩,
      fun error enabled going read plain => ?clrerr, fun running off _ read => ?enable, fun on none_ quiet => ?disable⟩,
    fun s c v => ⟨fun items coal => ⟨fun size => ?cqEnable, ?cqhead⟩, fun on timed some_ due => ?timer,
      fun core idle free => ?cpart, fun n size off => ?partctl, fun on d0 => ?register⟩,
    fun s => ⟨fun d => restore_starts, fun restoring => ?restored, fun k d sel at_ => ?claim, fun idle stopped => ?bootgo,
      bundleStart_ends, fun older => ?commit, fun idle => ?atgo, atdone_finishes⟩⟩
  case clause =>
    have hc := ctx_some here
    refine ⟨_, _, _, exec_clause here outside wf, mget?_mupd_same hc.group,
      (List.getElem?_modify_eq _ _ _).trans (congrArg (Option.map _) hc.split), rfl, rfl, rfl, rfl, rfl, rfl, rfl,
      beq_eq_decide y 1#1, rfl, rfl, fun k other => mget?_mupd_other _ _ other⟩
  case moves =>
    obtain ⟨tag, f, run⟩ := laneMove_puts hi form
    exact put_goesOn hi room run
  case doorbell =>
    have size : nbits b 67 64 < 16 := Nat.mod_lt _ (by decide)
    have ring : 2 ^ (nbits b 67 64 + 4) ≤ 2 ^ 19 := Nat.pow_le_pow_right (by decide) (by omega)
    have one : 1 ≤ 2 ^ (nbits b 67 64 + 4) := Nat.one_le_two_pow
    obtain ⟨t, run, seen, st, -⟩ := doorbell_announces (b := b) (by rw [idle]; decide) enabled going read good plain
      (by omega) (by omega) (by omega)
    exact ⟨t, run, seen, by rw [st, if_pos idle]⟩
  case rsy =>
    obtain ⟨t, run, asks, -⟩ := doorbellRsy_asks (b := b) (by rw [idle]; decide) enabled going read good held
    exact ⟨t, run, asks⟩
  case clrerr =>
    obtain ⟨t, run, clear, st⟩ := doorbellClrerr_clears (b := b) enabled going read good error plain
    exact ⟨t, run, clear, by rw [st]; split <;> decide⟩
  case enable =>
    obtain ⟨t, run, on, st, -⟩ := queueEnable_enables (b := b) good running off read
    exact ⟨t, run, on, st⟩
  case disable =>
    obtain ⟨t, run, -, st⟩ := queueDisable_disables v on none_ quiet
    exact ⟨t, run, st⟩
  case cqEnable =>
    obtain ⟨t, run, -, -, -, on, -⟩ := cqEnable_enables items coal size
    exact ⟨t, run, on⟩
  case cqhead =>
    obtain ⟨t, run, head, -⟩ := cqheadWrite_moves v items coal
    exact ⟨t, run, head⟩
  case timer =>
    obtain ⟨t, run, cq, -⟩ := cqCoalesceTimer_interrupts ⟨on, timed, some_, due⟩
    exact ⟨t, run, by rw [cq]⟩
  case cpart =>
    obtain ⟨t, run, reg, -⟩ := cpartWrite_taken core idle free v
    exact ⟨t, run, reg⟩
  case partctl =>
    have none_ : b64 (v &&& 0xF001FFFF0000FFFF#64) 48 32 = 0 := by rw [b64_and, size, Nat.zero_and]
    have fits : b64 (v &&& 0xF001FFFF0000FFFF#64) 15 0 < 65536 := b64_lt _ 15 0
    have taken : ¬ s.PartctlRefused n.toNat (v &&& 0xF001FFFF0000FFFF#64) := by
      rintro (far | ⟨k, -, -, some_, -⟩ | ⟨-, e, mem, on, -⟩)
      · omega
      · omega
      · exact Bool.false_ne_true ((off e mem).symm.trans on)
    exact ⟨_, congrArg Host.Outcome.next (State.writePartctl_taken taken), s.reg_setReg_same _ _⟩
  case register =>
    refine ⟨_, (registerWrite_host (by rw [on]; decide) d0 (.inl rfl) 0x10160 v).trans
      (congrArg Host.Outcome.next (s.bar0Write_sysReg (by decide) (by decide) (by decide) v)), s.reg_setReg_same 0x2C v⟩
  case restored =>
    obtain ⟨t, run, done, flag, -⟩ := restored_done restoring
    exact ⟨t, run, done, flag⟩
  case claim =>
    obtain ⟨t, run, slot, -⟩ := claim_selected sel
    exact ⟨t, run, by rw [slot, at_]; rfl⟩
  case bootgo =>
    obtain ⟨t, run, busy, -⟩ := bootgo_starts idle stopped
    exact ⟨t, run, busy⟩
  case commit =>
    obtain ⟨t, run, counter, -⟩ := commit_advances older
    exact ⟨t, run, counter⟩
  case atgo =>
    obtain ⟨t, run, busy, -, -, nonce⟩ := atgo_starts idle
    exact ⟨t, run, busy, nonce⟩

end Sys2Proof.Proofs
end

section
/-! SUPPORT. A store to memory where no error lies unfound, no bit is flipped and no injection is armed: lines move, watches are
struck and reservations lost, and no byte changes but those that are written (R153 to R158, R161, R187, R365). -/

namespace Sys2Proof.Machine

/-! ## What moving lines leaves -/

/-- A group but for its reservations and its watches. -/
def Group.unclaimed (g : Group) : Group := { g with resv := [], watches := [] }

/-- t is s with the bytes m in storage: lines may have moved, watches been struck, reservations lost and Peal records been offered,
and still nothing lies unfound, no bit is flipped and no injection is armed. -/
structure State.Holding (s : State) (m : List Host.Cell) (t : State) : Prop where
  bytes  : t.mm.bytes = m
  calm   : t.Calm
  noFlip : ∀ e ∈ t.mm.lines, e.2.flip = none
  noSent : t.mm.flips = []
  regs   : t.regs = s.regs
  rest   : t.besides = s.besides
  groups : ∀ k, (mget? t.groups k).map Group.unclaimed = (mget? s.groups k).map Group.unclaimed

section
variable {s t : State} {m : List Host.Cell}

theorem State.Holding.ite {c : Prop} [Decidable c] {u : State} (h : s.Holding m t) (h' : s.Holding m u) :
    s.Holding m (if c then t else u) := by
  split
  · exact h
  · exact h'

theorem State.Holding.foldl {α : Type} {f : State → α → State} (h : s.Holding m t)
    (step : ∀ u a, s.Holding m u → s.Holding m (f u a)) (l : List α) : s.Holding m (l.foldl f t) :=
  List.foldlRecOn l f h fun u hu a _ => step u a hu

/-- Copies, and what the caches note about them, may change. -/
theorem State.Holding.setMM {n : MemSys} (h : s.Holding m t) (bytes : n.bytes = t.mm.bytes) (lines : n.lines = t.mm.lines)
    (sent : n.flips = []) : s.Holding m (t.setMM n) :=
  ⟨bytes.trans h.bytes, ⟨h.calm.noFlaw, h.calm.noArm⟩, fun e he => h.noFlip e (lines ▸ he), sent, h.regs, h.rest, h.groups⟩

theorem State.Holding.setLine {ln : Nat} {x : Line} (h : s.Holding m t) (clean : x.flip = none) : s.Holding m (t.setLine ln x) :=
  ⟨h.bytes, ⟨h.calm.noFlaw, h.calm.noArm⟩, State.setLine_noFlip h.noFlip clean, h.noSent, h.regs, h.rest, h.groups⟩

theorem State.Holding.line_flip (h : s.Holding m t) (ln : Nat) : (t.line ln).flip = none := by
  unfold State.line mgetD
  cases found : mget? t.mm.lines ln with
  | none => rfl
  | some x => exact h.noFlip _ (mget?_mem found)

theorem State.Holding.updLine {ln : Nat} {f : Line → Line} (h : s.Holding m t) (clean : (f (t.line ln)).flip = none) :
    s.Holding m (t.updLine ln f) :=
  h.setLine clean

theorem State.Holding.draw (h : s.Holding m t) (n : Nat) : s.Holding m (t.draw n) :=
  ⟨h.bytes, ⟨h.calm.noFlaw, h.calm.noArm⟩, h.noFlip, h.noSent, h.regs, h.rest, h.groups⟩

theorem State.Holding.takeId (h : s.Holding m t) : s.Holding m t.takeId.2 :=
  ⟨h.bytes, ⟨h.calm.noFlaw, h.calm.noArm⟩, h.noFlip, h.noSent, h.regs, h.rest, h.groups⟩

theorem State.Holding.offered {u : State} (h : s.Holding m t) (o : t.Offered u) : s.Holding m u := by
  obtain ⟨w, rfl⟩ := o
  exact ⟨h.bytes, ⟨h.calm.noFlaw, h.calm.noArm⟩, h.noFlip, h.noSent, h.regs, h.rest, h.groups⟩

theorem State.Holding.setGroups {gs : Map Group} (h : s.Holding m t)
    (same : ∀ k, (mget? gs k).map Group.unclaimed = (mget? t.groups k).map Group.unclaimed) :
    s.Holding m { t with groups := gs } :=
  ⟨h.bytes, ⟨h.calm.noFlaw, h.calm.noArm⟩, h.noFlip, h.noSent, h.regs, h.rest, fun k => (same k).trans (h.groups k)⟩

theorem State.Holding.updGroup {k : Nat} {f : Group → Group} (h : s.Holding m t) (same : ∀ g, (f g).unclaimed = g.unclaimed) :
    s.Holding m (t.updGroup k f) := by
  refine h.setGroups fun j => ?_
  rw [mget?_mupd]
  split
  next e =>
    subst e
    cases mget? t.groups j with
    | none => rfl
    | some g => exact congrArg some (same g)
  · rfl

theorem State.Holding.loseResv (h : s.Holding m t) (ln : Nat) : s.Holding m (t.loseResv ln) := by
  unfold State.loseResv
  split
  · refine h.setGroups fun k => ?_
    rw [mget?_mmap]
    cases mget? t.groups k <;> rfl
  · exact h

/-- Watches that are struck keep all else of their groups (R160). -/
theorem State.Holding.strike (h : s.Holding m t) (g n cause : Nat) : s.Holding m (t.strike g n cause) := by
  unfold State.strike
  split
  · exact h
  · split
    · exact h
    · dsimp only
      have struck := h.updGroup (k := g) (f := fun x =>
        { x with watches := x.watches.map (fun v => if v.n = n then { v with st := .struck } else v) }) fun _ => rfl
      split
      · exact struck
      · split
        · exact struck
        · split
          · exact struck
          · exact struck.offered (State.emitL_offered ..)

theorem State.Holding.strikeLine (h : s.Holding m t) (ln cause : Nat) (p : Group → Bool) : s.Holding m (t.strikeLine ln cause p) :=
  h.foldl (fun _ _ hu => .ite (hu.foldl (fun _ _ hv => hv.strike ..) _) hu) _

/-! ## Recalls, and places in the home's table and in caches -/

theorem State.Holding.takeBack (h : s.Holding m t) (ln : Nat) : s.Holding m (t.takeBack ln).1 := by
  cases owned : (t.line ln).owner with
  | none => rw [State.takeBack_unowned owned]; exact h
  | some d =>
    have back : (t.takeBack ln).1 = (t.setLine ln (t.line ln).givenBack).setMM
        ((t.setLine ln (t.line ln).givenBack).mm.dropHeld d ln) := by
      unfold State.takeBack Line.givenBack MemSys.dropHeld
      dsimp only
      rw [owned, h.line_flip ln]
    have given : s.Holding m (t.setLine ln (t.line ln).givenBack) := h.setLine rfl
    rw [back]
    exact given.setMM rfl rfl (List.filter_eq_nil_iff.mpr fun e he => absurd (given.noSent ▸ he) List.not_mem_nil)

theorem State.Holding.bumpVersion (h : s.Holding m t) (ln : Nat) : s.Holding m (t.bumpVersion ln) := by
  have wrapped : s.Holding m (t.setLine ln { t.line ln with version := 0, wrap := true, wrapId := t.nextId }) :=
    h.setLine (h.line_flip ln)
  exact .ite (wrapped.setMM rfl rfl wrapped.noSent) (h.setLine (h.line_flip ln))

theorem State.Holding.keepV (h : s.Holding m t) (d ln : Nat) : s.Holding m (t.keepV d ln) := h.setMM rfl rfl h.noSent

theorem State.Holding.dropDie (h : s.Holding m t) (d ln : Nat) : s.Holding m (t.dropDie d ln) := h.setMM rfl rfl h.noSent

theorem State.Holding.sendLine (h : s.Holding m t) (d ln : Nat) : s.Holding m (t.sendLine d ln) := by
  rw [State.sendLine_none h.calm.noFlaw]; exact h

theorem State.Holding.checkOwn (h : s.Holding m t) (d ln : Nat) : s.Holding m (t.checkOwn d ln) := by
  rw [State.checkOwn_none h.calm.noFlaw]; exact h

theorem State.Holding.checkArray (h : s.Holding m t) (ln : Nat) : s.Holding m (t.checkArray ln) := by
  rw [State.checkArray_none h.calm.noFlaw]; exact h

theorem State.Holding.checkCopy (h : s.Holding m t) (c ln : Nat) : s.Holding m (t.checkCopy c ln) := by
  rw [State.checkCopy_none h.calm.noFlaw]; exact h

theorem State.checkDir_none {s : State} (h : s.rel.latent = []) (d ln : Nat) : s.checkDir d ln = s := by
  unfold State.checkDir State.loseEntry
  rw [State.flaw_none h, ite_self]

theorem State.fetchLine_none {s : State} (h : s.rel.latent = []) (d ln : Nat) : s.fetchLine d ln = s := by
  unfold State.fetchLine
  rw [State.flaw_none h]

theorem State.Holding.recall (h : s.Holding m t) (ln : Nat) : s.Holding m (t.recall ln).1 := by
  unfold State.recall
  cases (t.line ln).owner with
  | none => exact h
  | some d =>
    dsimp only
    rw [State.checkOwn_none h.calm.noFlaw, State.inject_unarmed h.calm.noArm]
    exact .keepV (.ite ((h.takeBack ln).sendLine ..) (h.takeBack ln)) ..

theorem State.Holding.recallStep (h : s.Holding m t) (ln : Nat) : s.Holding m (t.recallStep ln).1 := by
  unfold State.recallStep
  dsimp only
  split
  · have bumped := (h.recall ln).bumpVersion ln
    dsimp only
    split
    · exact .ite (bumped.keepV ..) bumped
    · exact bumped
  · exact h.recall ln

theorem State.Holding.useEntry (h : s.Holding m t) (ln : Nat) : s.Holding m (t.useEntry ln) := by
  have used : s.Holding m (t.takeId.2.updLine ln (fun x => { x with used := t.takeId.1 })) :=
    h.takeId.updLine (h.line_flip ln)
  have unwrapped : ∀ {u : State} (n : Nat), s.Holding m u → s.Holding m (u.updLine n (fun x => { x with wrap := false })) :=
    fun n hu => hu.updLine (hu.line_flip n)
  refine .ite used ?_
  split
  · exact unwrapped _ ((used.draw 1).recallStep _)
  · split
    · exact unwrapped _ ((used.strikeLine ..).recallStep _)
    · exact used

theorem State.Holding.evictL2 (h : s.Holding m t) (d ln : Nat) : s.Holding m (t.evictL2 d ln) := by
  have own : s.Holding m (if (t.line ln).dirty then t.checkOwn d ln else t) := .ite (h.checkOwn ..) h
  exact .dropDie (.ite (.ite (((own.takeBack ln).sendLine ..).bumpVersion ln) (own.takeBack ln)) h) ..

theorem State.Holding.roomL2 (h : s.Holding m t) (d ln : Nat) (low : Bool) : s.Holding m (t.roomL2 d ln low) := by
  have noted : ∀ {u : State} {l : List Nat}, s.Holding m u → s.Holding m (u.setMM { u.mm with lowL2 := l }) :=
    fun hu => hu.setMM rfl rfl hu.noSent
  exact .ite h (noted (.ite h ((h.draw 1).evictL2 ..)))

theorem State.Holding.dropCore (h : s.Holding m t) (c ln : Nat) : s.Holding m (t.dropCore c ln) := by
  have gone := h.setMM (n := { t.mm with
    held := t.mm.held.filter (· != copyKey c ln), wcopy := mdel t.mm.wcopy (copyKey c ln)
    flips := mdel t.mm.flips (copyKey c ln) }) rfl rfl (congrArg (fun f => mdel f (copyKey c ln)) h.noSent)
  exact .ite (gone.updLine (gone.line_flip ln)) gone

theorem State.Holding.leaveCore (h : s.Holding m t) (c ln : Nat) : s.Holding m (t.leaveCore c ln) :=
  .dropCore (.ite (h.checkCopy ..) h) ..

theorem State.Holding.roomCore (h : s.Holding m t) (c ln : Nat) (low : Bool) : s.Holding m (t.roomCore c ln low).2 := by
  have noted : ∀ {u : State} {l : List Nat}, s.Holding m u → s.Holding m (u.setMM { u.mm with lowCore := l }) :=
    fun hu => hu.setMM rfl rfl hu.noSent
  unfold State.roomCore
  dsimp only
  split
  · exact h
  · split
    · exact h
    · exact noted (.ite h ((h.draw 1).leaveCore ..))

theorem State.Holding.fillHeld (h : s.Holding m t) (c ln : Nat) (low : Bool) : s.Holding m (t.fillHeld c ln low none) := by
  have roomy := h.roomCore c ln low
  exact .ite (roomy.setMM rfl rfl (congrArg (fun f => mdel f (copyKey c ln)) roomy.noSent)) roomy

theorem State.Holding.fillCopy (h : s.Holding m t) (c ln : Nat) (low : Bool) (x : Copy) : s.Holding m (t.fillCopy c ln low x) := by
  have roomy := h.roomCore c ln low
  exact .ite (roomy.setMM rfl rfl (congrArg (fun f => mdel f (copyKey c ln)) roomy.noSent)) roomy

theorem State.Holding.weaken (h : s.Holding m t) (ln : Nat) (keep : Option Nat) : s.Holding m (t.weaken ln keep) := by
  refine .foldl ?_ (fun u k hu => ?_) _
  · exact h.setMM rfl rfl h.noSent
  · exact hu.setMM rfl rfl (congrArg (fun f => mdel f k) hu.noSent)

theorem State.Holding.bumpStamp (h : s.Holding m t) (ln : Nat) : s.Holding m (t.bumpStamp ln) := by
  unfold State.bumpStamp
  dsimp only
  split
  · have wrapped : s.Holding m (t.setLine ln { t.line ln with stamp := 0, swrap := true, swrapId := t.nextId }) :=
      h.setLine (h.line_flip ln)
    split
    · exact wrapped.setMM rfl rfl wrapped.noSent
    · exact wrapped
  · exact h.setLine (h.line_flip ln)

/-! ## Ownership, and lines brought ahead -/

/-- A die gets ownership of a line: the lines move, and the bytes stay (R157). -/
theorem State.Holding.own (h : s.Holding m t) (die ln : Nat) (low : Bool) : s.Holding m (t.own die ln low) := by
  have fetched := ((h.recallStep ln).useEntry ln).roomL2 die ln low
  unfold State.own
  dsimp only
  rw [State.checkDir_none h.calm.noFlaw, State.checkEntry_none h.calm.noFlaw]
  generalize ((t.recallStep ln).1.useEntry ln).roomL2 die ln low = u at fetched ⊢
  rw [State.fetchLine_none fetched.calm.noFlaw, State.checkArray_none fetched.calm.noFlaw, ite_self,
    State.inject_unarmed fetched.calm.noArm, ite_self]
  exact .ite h (.updLine (fetched.setMM rfl rfl fetched.noSent) rfl)

/-- A store finds its line, or fills the core, with no bit flipped (R224). -/
theorem State.Holding.fillFrom (h : s.Holding m t) (c ln : Nat) : s.Holding m (t.fillFrom c ln) := by
  have held : t.heldFlip c ln = none := by
    unfold State.heldFlip
    rw [h.noSent]
    rfl
  unfold State.fillFrom
  dsimp only
  rw [State.checkCopy_none h.calm.noFlaw, State.checkOwn_none h.calm.noFlaw, State.inject_unarmed h.calm.noArm, held, ite_self]
  exact h.setMM rfl rfl (congrArg (fun f => mdel f (copyKey c ln)) h.noSent)

theorem State.Holding.gain (h : s.Holding m t) (c ln : Nat) (k : Keep) : s.Holding m (t.gain c ln k) := by
  have own := h.own (c / 48) ln k.low
  have modified : ∀ {u : State} {o : Option Nat}, s.Holding m u → s.Holding m (u.updLine ln (fun x => { x with mcore := o })) :=
    fun hu => hu.updLine (hu.line_flip ln)
  exact .ite
    (.ite own (modified ((((State.Holding.ite (own.fillFrom ..) own).weaken ..).bumpStamp ln).fillHeld ..)))
    (modified (((State.Holding.ite (own.checkOwn ..) own).weaken ..).bumpStamp ln))

theorem State.Holding.prefetch (h : s.Holding m t) (c ln : Nat) (k : Keep) : s.Holding m (t.prefetch c ln k) := by
  have kept : ∀ {u : State} {v : Map Copy}, s.Holding m u → s.Holding m (u.setMM { u.mm with vcopy := v }) :=
    fun hu => hu.setMM rfl rfl hu.noSent
  have read := h.checkArray ln
  unfold State.prefetch
  refine .ite (.ite ((h.checkOwn ..).fillHeld ..) h) (.ite h (.ite (.fillCopy ?_ ..) ?_))
  all_goals
    split
    · exact .ite read (kept read)
    · exact kept (read.roomL2 ..)

theorem State.Holding.runAhead (h : s.Holding m t) (c ln : Nat) : s.Holding m (t.runAhead c ln) :=
  have noted := h.setMM (n := { t.mm with run := mput t.mm.run c ln }) rfl rfl h.noSent
  .ite (noted.foldl (fun _ _ hu => hu.prefetch ..) _) noted

theorem State.Holding.reached (h : s.Holding m t) (c ln : Nat) (a : Access) (hit : Bool) : s.Holding m (t.reached c ln a hit) :=
  .ite (h.runAhead ..) h

/-! ## Writes -/

theorem State.Holding.putBytes (h : s.Holding m t) (pa : Nat) (bs : List Byte) :
    s.Holding (memPutL m pa bs) (t.putBytes pa bs) :=
  ⟨congrArg (fun x => memPutL x pa bs) h.bytes, ⟨h.calm.noFlaw, h.calm.noArm⟩, h.noFlip, h.noSent, h.regs, h.rest, h.groups⟩

theorem State.Holding.dropFlaws (h : s.Holding m t) (p : FlawAt → Bool) : s.Holding m (t.dropFlaws p) := by
  rw [State.dropFlaws_none h.calm.noFlaw]; exact h

/-- A write of a line changes the bytes that it writes (R153, R157, R365). -/
theorem State.Holding.writeLine (h : s.Holding m t) (c pa : Nat) (bs : List Byte) (k : Keep) (p : Option PTag) (w : Nat) :
    s.Holding (memPutL m pa bs) (t.writeLine c pa bs k p w) := by
  have put := (h.gain c (pa / 128) k).putBytes pa bs
  have marked := put.updLine (ln := pa / 128) (f := fun x => { x with
    dirty := true, writer := w, pois := if bs.length = 128 && p.isNone then none else tagMin p x.pois }) (put.line_flip _)
  exact .loseResv (.ite (marked.dropFlaws _) marked) _

end

/-! ## Stores -/

/-- The bytes in storage after one part of a store to memory. -/
def Access.stored (a : Access) (m : List Host.Cell) : List Host.Cell :=
  match a.loc with
  | .mem pa => memPutL m pa (bytesLE a.n (a.data / 2 ^ (8 * a.off)))
  | _ => m

theorem Access.stored_wf {a : Access} {m : List Host.Cell} (h : Memory.wf m = true) : Memory.wf (a.stored m) = true := by
  unfold Access.stored
  split
  · exact memPutL_wf _ _ _ h
  · exact h

/-- A byte after one part: the data of the part where it covers the byte (R365). -/
theorem Access.memGet_stored {a : Access} {m : List Host.Cell} (h : Memory.wf m = true) (b : Nat) :
    memGet (a.stored m) b = storedByte [a] b (memGet m b) := by
  unfold Access.stored storedByte
  rw [List.foldl_cons, List.foldl_nil]
  cases a.loc with
  | mem pa =>
    dsimp only
    rw [memGet_memPutL _ _ _ _ h, length_bytesLE]
    split
    · rw [getD_bytesLE (by omega), Nat.div_div_eq_div_mul, ← Nat.pow_add, ← Nat.mul_add]
    · rfl
  | _ => rfl

/-- The bytes after all parts, in their order, are those of storedByte. -/
theorem memGet_foldl_stored (as : List Access) {m : List Host.Cell} (h : Memory.wf m = true) (b : Nat) :
    memGet (as.foldl (fun m a => a.stored m) m) b = storedByte as b (memGet m b) := by
  induction as generalizing m with
  | nil => rfl
  | cons a as ih => exact (ih (a.stored_wf h)).trans (congrArg (storedByte as b) (a.memGet_stored h b))

theorem State.logTarget_outside {s : State} {c : Ctx} (h : c.inBlock = false) (a : Access) : s.logTarget c a = (true, s) := by
  unfold State.logTarget
  rw [h]
  rfl

/-- A part of a store to memory writes its bytes (R365). -/
theorem State.Holding.writePart {s t : State} {m : List Host.Cell} (h : s.Holding m t) (core w : Nat) {a : Access}
    (mem : ∃ pa, a.loc = .mem pa) :
    s.Holding (a.stored m) (t.writePart core w a (bytesLE a.n (a.data / 2 ^ (8 * a.off))) a.pois) := by
  obtain ⟨pa, at_⟩ := mem
  unfold State.writePart Access.stored
  rw [at_]
  exact (h.writeLine ..).reached ..

/-- What the parts of a store to memory merge to clears poison, and changes no byte (R214). -/
theorem State.Holding.mergedClean {s t : State} {m : List Host.Cell} (h : s.Holding m t) (core : Nat) {ps : List Access}
    (mem : ∀ a ∈ ps, ∃ pa, a.loc = .mem pa) : s.Holding m (t.mergedClean core ps) := by
  refine List.foldlRecOn _ _ (h.foldl (fun _ _ hu => .ite (.dropFlaws (hu.updLine (hu.line_flip _)) _) hu) _)
    fun _ _ e he => ?_
  obtain ⟨a, ha, place⟩ := List.mem_filterMap.mp he
  obtain ⟨pa, at_⟩ := mem a ha
  rw [at_] at place
  cases place

/-- The lanes of a store to memory outside blocks make their writes in order. -/
theorem State.Holding.storeFold {s t : State} {m : List Host.Cell} {c : Ctx} (h : s.Holding m t) (out : c.inBlock = false)
    {ps : List Access} (mem : ∀ a ∈ ps, ∃ pa, a.loc = .mem pa) :
    s.Holding (ps.foldl (fun m a => a.stored m) m) (ps.foldl (fun s a =>
      let (ok, s) := s.logTarget c a
      if ok then s.writePart c.g.core c.l.space a (bytesLE a.n (a.data / 2 ^ (8 * a.off))) a.pois else s) t) := by
  induction ps generalizing t m with
  | nil => exact h
  | cons a ps ih =>
    rw [List.foldl_cons, List.foldl_cons, State.logTarget_outside out]
    exact ih (h.writePart _ _ (mem a List.mem_cons_self)) fun b hb => mem b (List.mem_cons_of_mem _ hb)

/-- A store to memory under the workgroup's own generation is its writes, and the mark of its tile (R164, R365). -/
theorem State.storeLanes_holding {s : State} {c : Ctx} {p : Pend} (calm : s.Calm) (noFlip : ∀ e ∈ s.mm.lines, e.2.flip = none)
    (noSent : s.mm.flips = []) (out : c.inBlock = false) (gen : p.gen = c.wg.gen) (mem : ∀ a ∈ p.acc, ∃ pa, a.loc = .mem pa) :
    ∃ t, s.Holding (p.acc.foldl (fun m a => a.stored m) s.mm.bytes) t ∧ s.storeLanes c p = t.storedTile c.wk p := by
  have none_ : ∀ a, c.dropsPart p a = false := fun a => by
    unfold Ctx.dropsPart
    rw [gen, bne_self_eq_false, Bool.false_and]
  have all : p.acc.filter (fun a => !c.dropsPart p a) = p.acc :=
    List.filter_eq_self.mpr fun a _ => by rw [none_]; rfl
  have start : s.Holding s.mm.bytes s := ⟨rfl, calm, noFlip, noSent, rfl, rfl, fun _ => rfl⟩
  have written := start.storeFold out mem
  unfold State.storeLanes State.lateParts
  dsimp only
  rw [all, if_neg (by simp [none_])]
  exact ⟨_, .ite (written.mergedClean _ mem) written, rfl⟩

/-- A workgroup in which handle h, if there is one, names a tile to be pushed by the next release (R164). -/
def Wg.soiled (w : Wg) (h : Option Handle) : Wg :=
  match h with
  | some h => if w.dirty.contains h then w else { w with dirty := w.dirty ++ [h] }
  | none => w

theorem Wg.soiled_none (w : Wg) : w.soiled none = w := rfl

theorem Wg.soiled_rest (w : Wg) (h : Option Handle) : ({ w.soiled h with dirty := w.dirty } : Wg) = w := by
  unfold Wg.soiled
  split
  · split <;> rfl
  · rfl

theorem Wg.mem_soiled (w : Wg) (h x : Handle) : x ∈ (w.soiled (some h)).dirty ↔ x ∈ w.dirty ∨ x = h := by
  unfold Wg.soiled
  dsimp only
  split
  next there =>
    have mem : h ∈ w.dirty := by simpa using there
    exact ⟨.inl, fun e => e.elim id (fun e => e ▸ mem)⟩
  · simp

/-- Workgroup wk, and no other, has the mark (R164). -/
theorem State.storedTile_wgs (s : State) (wk : Nat) (p : Pend) (k : Nat) :
    mget? (s.storedTile wk p).wgs k = if k = wk then (mget? s.wgs k).map (·.soiled p.tile) else mget? s.wgs k := by
  unfold State.storedTile
  cases p.tile with
  | none =>
    simp only [Wg.soiled_none]
    split
    · cases mget? s.wgs k <;> rfl
    · rfl
  | some h =>
    refine (mget?_mupd ..).trans ?_
    split
    next e => subst e; rfl
    · rfl

/-- Nothing but workgroups differs. -/
theorem State.storedTile_rest (s : State) (wk : Nat) (p : Pend) : ∃ ws, s.storedTile wk p = { s with wgs := ws } := by
  unfold State.storedTile
  split
  · exact ⟨_, rfl⟩
  · exact ⟨s.wgs, rfl⟩

/-! ## The end of an operation while nothing is recorded or replayed -/

/-- An operation goes away, and its flag is counted down at once, while record and replay are off (R258, R270). -/
theorem finishPend_unlogged {s : State} {gk : Nat} {g : Group} {w : Wg} {gg : Gang} {l : Launch}
    (group : mget? s.groups gk = some g) (launch : s.launchOf g.wg = some (w, gg, l)) (noRecord : l.rrMode ≠ 1)
    (noReplay : (l.rrMode == 2 && !gg.free) = false) (p : Pend) : s.finishPend gk p = s.updGroup gk (Group.without p) := by
  have there : mget? (s.updGroup gk (Group.dropPend p)).groups gk = some (g.dropPend p) := mget?_mupd_same group
  have launch' : (s.updGroup gk (Group.dropPend p)).launchOf (g.dropPend p).wg = some (w, gg, l) := launch
  change (s.updGroup gk (Group.dropPend p)).flagDown gk p.flag p.dhash = _
  unfold State.flagDown
  split
  next none_ =>
    have same : Group.without p = Group.dropPend p := funext fun g => flagDec_none none_
    rw [same]
  · unfold State.gctx
    simp only [there, launch', Ctx.rrOn, beq_false_of_ne noRecord, noReplay, Bool.false_and, Bool.false_eq_true, if_false]
    rw [State.updGroup_updGroup]
    rfl

/-- A workgroup that has changed but stays in its gang has the gang and the launch that it had. -/
theorem launchOf_changed {s t : State} {wk : Nat} {w v : Wg} {gg : Gang} {l : Launch} (launch : s.launchOf wk = some (w, gg, l))
    (wg : mget? t.wgs wk = some v) (stays : v.gang = w.gang) (gangs : t.gangs = s.gangs) (launches : t.launches = s.launches) :
    t.launchOf wk = some (v, gg, l) := by
  have before := launchOf_wg launch
  unfold State.launchOf at launch ⊢
  simp only [before] at launch
  simp only [wg, stays, gangs, launches]
  split at launch
  · cases launch
  · split at launch
    · cases launch
    · cases launch; rfl

theorem flag_without (p : Pend) (g : Group) (k : Nat) :
    (g.without p).flag k = if k = p.flag ∧ k < 12 then g.flag k - 1 else g.flag k :=
  flag_flagDec (g.dropPend p) p.flag k

theorem unclaimed_without {g g' : Group} (h : g'.unclaimed = g.unclaimed) (p : Pend) :
    (g'.without p).pend = g.pend.filter (fun q => q.id != p.id) ∧ (g'.without p).regs = g.regs ∧
      (g'.without p).preds = g.preds ∧ (g'.without p).splits = g.splits := by
  obtain ⟨flags, eq⟩ := without_eq p g'
  rw [eq]
  have pend : g'.pend = g.pend := (congrArg Group.pend h :)
  exact ⟨congrArg (List.filter (fun q : Pend => q.id != p.id)) pend, (congrArg Group.regs h :),
    (congrArg Group.preds h :), (congrArg Group.splits h :)⟩

/-! ## What is ready is performed -/

/-- The context with the word of the operation (R363). -/
def Ctx.at_ (c : Ctx) (pc : Nat) : Ctx := { c with sp := { c.sp with pc := pc } }

/-- WRITES_PERFORMED of a store that nothing keeps from being performed (R270). -/
theorem writesPerformed_store {s : State} {gk : Nat} {c : Ctx} {p : Pend} {n : Nat} (ret : MayReturn s gk c p)
    (op : p.op = .store n) : exec (.writesPerformed gk p.id) s = .next ((s.storeLanes (c.at_ p.pc) p).finishPend gk p) := by
  have ready : s.canPerform (c.at_ p.pc) p = true := ret.ready
  change execWritesPerformed gk p.id s = _
  unfold execWritesPerformed
  simp only [ret.ctx, ret.found]
  change Host.Outcome.next (if !s.canPerform (c.at_ p.pc) p then s else _) = _
  rw [ready, op]
  rfl

end Sys2Proof.Machine

namespace Sys2Proof.Proofs
open Sys2Proof.Machine

/-- Settles O30: the lanes' writes move lines and change the bytes written, the tile is marked, and the operation goes away. -/
theorem storeWritten : Obligations.StoreWritten := by
  unfold Obligations.StoreWritten
  intro s gk c p n ret op mem wf noArm noFlip noSent noFlaw
  obtain ⟨group, launch, wk⟩ := gctx_some ret.ctx
  obtain ⟨t, held, stored⟩ := State.storeLanes_holding (c := c.at_ p.pc) ⟨noFlaw, noArm⟩ noFlip noSent
    (inBlock_eq_false.mpr ret.noBlock) ret.gen mem
  obtain ⟨ws, rest⟩ := t.storedTile_rest c.wk p
  have wgs : t.wgs = s.wgs := (congrArg State.wgs held.rest :)
  have marked := t.storedTile_wgs c.wk p
  have wg : mget? s.wgs c.wk = some c.wg := by rw [wk]; exact launchOf_wg launch
  obtain ⟨g, group', same⟩ : ∃ g, mget? t.groups gk = some g ∧ g.unclaimed = c.g.unclaimed :=
    Option.map_eq_some_iff.mp (by rw [held.groups, group]; rfl)
  have launch' : (t.storedTile c.wk p).launchOf g.wg = some (c.wg.soiled p.tile, c.gg, c.l) := by
    have own : g.wg = c.g.wg := (congrArg Group.wg same :)
    rw [own, ← wk]
    refine launchOf_changed (by rw [wk]; exact launch) ?_ (congrArg Wg.gang (c.wg.soiled_rest p.tile) :) ?_ ?_
    · rw [marked, if_pos rfl, wgs, wg]; rfl
    · rw [rest]; exact (congrArg State.gangs held.rest :)
    · rw [rest]; exact (congrArg State.launches held.rest :)
  have ended := finishPend_unlogged (s := t.storedTile c.wk p) (by rw [rest]; exact group') launch' ret.noLog.1 ret.noLog.2 p
  obtain ⟨pend, -, -, -⟩ := unclaimed_without same p
  refine ⟨_, g.without p, (writesPerformed_store ret op).trans (congrArg Host.Outcome.next
    ((congrArg (fun u => State.finishPend u gk p) stored).trans ended)), ?_, fun b => ?_, fun none_ => ?_, fun h tile => ?_, ?_, pend,
    fun k => ?_, fun k h at_ => ?_⟩
  · rw [rest]; exact mget?_mupd_same group'
  · rw [rest]
    refine Eq.trans ?_ (memGet_foldl_stored p.acc wf b)
    exact congrArg (memGet · b) held.bytes
  · unfold State.storedTile
    rw [none_]
    exact wgs
  · have stored' : mget? (t.storedTile c.wk p).wgs c.wk = some (c.wg.soiled (some h)) := by
      rw [marked, if_pos rfl, wgs, wg, tile]; rfl
    refine ⟨_, stored', Wg.soiled_rest .., fun x => Wg.mem_soiled .., fun k other => ?_⟩
    exact (marked k).trans (by rw [if_neg other, wgs])
  · rw [rest]; exact held.regs
  · rw [flag_without]
    have flags : g.flags = c.g.flags := (congrArg Group.flags same :)
    unfold Group.flag
    rw [flags]
  · obtain ⟨h', there, like⟩ : ∃ h', mget? t.groups k = some h' ∧ h'.unclaimed = h.unclaimed :=
      Option.map_eq_some_iff.mp (by rw [held.groups, at_]; rfl)
    have after : mget? ((t.storedTile c.wk p).updGroup gk (Group.without p)).groups k =
        some (if k = gk then h'.without p else h') := by
      rw [rest]
      refine (mget?_mupd ..).trans ?_
      split
      next e => subst e; rw [there]; rfl
      · exact there
    refine ⟨_, after, ?_⟩
    split
    · obtain ⟨-, regs, preds, splits⟩ := unclaimed_without like p
      exact ⟨regs, preds, splits⟩
    · exact ⟨(congrArg Group.regs like :), (congrArg Group.preds like :), (congrArg Group.splits like :)⟩

end Sys2Proof.Proofs
end

section
/-! SUPPORT. A return that nothing holds back: its values go to the destination's registers, the operation goes away and its flag is
counted down (R270, R364, R365). -/

namespace Sys2Proof.Machine

/-! ## Registers written back -/

/-- From group g to g' the n registers from d took the values of f in the lanes m, V0 discarding them, and nothing else changed. -/
structure Filled (g g' : Group) (d n : Nat) (m : Lanes) (f : Nat → Nat → Val) : Prop where
  rest   : ({ g' with regs := g.regs } : Group) = g
  others : ∀ r, (r < d ∨ d + n ≤ r) → g'.reg r = g.reg r
  values : ∀ j l, j < n → l < 32 →
    if m.getLsbD l = true ∧ d + j ≠ 0 then (g'.lane (d + j) l).like (f j l) else g'.lane (d + j) l = g.lane (d + j) l

theorem Filled.none (g : Group) (d : Nat) (m : Lanes) (f : Nat → Nat → Val) : Filled g g d 0 m f :=
  ⟨rfl, fun _ _ => rfl, fun _ _ h => absurd h (Nat.not_lt_zero _)⟩

/-- One register more. -/
theorem Filled.next {g g' g'' : Group} {d n : Nat} {m : Lanes} {f : Nat → Nat → Val} (h : Filled g g' d n m f)
    (w : Wrote g' g'' (d + n) m (f n)) : Filled g g'' d (n + 1) m f where
  rest := (congrArg (fun x : Group => ({ x with regs := g.regs } : Group)) w.rest).trans h.rest
  others r hr := (w.others r (by omega)).trans (h.others r (by omega))
  values j l hj hl := by
    by_cases last : j = n
    · subst last
      have before : g'.lane (d + j) l = g.lane (d + j) l := by
        unfold Group.lane
        rw [h.others (d + j) (by omega)]
      cases bit : m.getLsbD l with
      | false => rw [if_neg (by simp)]; exact (w.lanes l hl bit).trans before
      | true =>
        split
        next on => exact w.values l hl on.2 bit
        next off =>
          have zero : d + j = 0 := by simpa using off
          unfold Group.lane Group.reg
          rw [if_pos zero, if_pos zero]
    · have kept : g''.lane (d + j) l = g'.lane (d + j) l := by
        unfold Group.lane
        rw [w.others (d + j) (by omega)]
      rw [kept]
      exact h.values j l (by omega) hl

/-- t is s but for group gk, errors that a write of registers has taken away, and numbers drawn. -/
def State.Refilled (gk : Nat) (s t : State) : Prop :=
  ∃ gs r n, t = { s with groups := gs, rel := r, draws := n } ∧ ∀ k, k ≠ gk → mget? gs k = mget? s.groups k

theorem State.Refilled.refl (gk : Nat) (s : State) : s.Refilled gk s := ⟨s.groups, s.rel, s.draws, rfl, fun _ _ => rfl⟩

theorem State.Refilled.trans {gk : Nat} {s t u : State} (h : s.Refilled gk t) (h' : t.Refilled gk u) : s.Refilled gk u := by
  obtain ⟨_, _, _, rfl, same⟩ := h
  obtain ⟨gs, r, n, rfl, same'⟩ := h'
  exact ⟨gs, r, n, rfl, fun k hk => (same' k hk).trans (same k hk)⟩

/-- A write of a register without logging. -/
theorem putReg_refilled {s : State} {gk : Nat} {g : Group} (group : mget? s.groups gk = some g) (d : Nat) (m : Lanes) (t : Tag)
    (f : Nat → Val) :
    s.Refilled gk (s.putReg gk d m t f) ∧ ∃ g', mget? (s.putReg gk d m t f).groups gk = some g' ∧ Wrote g g' d m f := by
  unfold State.putReg
  by_cases nothing : d = 0 ∨ m = 0#32
  · rw [if_pos (by simpa using nothing)]
    exact ⟨.refl gk s, g, group, .none nothing⟩
  · rw [if_neg (by simpa using nothing)]
    rw [not_or] at nothing
    have there : mget? (s.updGroup gk (fun g => { g with regs := mput g.regs d ((g.reg d).write m t f s.draws) })).groups gk =
        some { g with regs := mput g.regs d ((g.reg d).write m t f s.draws) } := mget?_mupd_same group
    have wrote := wrote_mput g d m t f s.draws nothing.1 nothing.2
    unfold State.dropReg
    rw [State.dropFlaws_eq]
    dsimp only
    split
    all_goals exact ⟨⟨_, _, _, rfl, fun k hk => mget?_mupd_other _ _ hk⟩, _, there, wrote⟩

/-- A return outside blocks writes all its registers. -/
theorem writeBack_fills {s : State} {c : Ctx} {p : Pend} {g : Group} (group : mget? s.groups c.gk = some g)
    (out : c.inBlock = false) (whole : p.cut = []) (m : Lanes) (f : Nat → Nat → Val) :
    s.Refilled c.gk (s.writeBack c p m f) ∧
      ∃ g', mget? (s.writeBack c p m f).groups c.gk = some g' ∧ Filled g g' p.dst p.nreg m f := by
  unfold State.writeBack upto
  induction p.nreg with
  | zero => exact ⟨.refl _ s, g, group, .none ..⟩
  | succ n ih =>
    obtain ⟨kept, g', there, filled⟩ := ih
    rw [List.range_succ, List.foldl_append, List.foldl_cons, List.foldl_nil]
    generalize List.foldl _ s (List.range n) = u at kept there ⊢
    dsimp only
    rw [out, whole]
    obtain ⟨kept', g'', there', wrote⟩ := putReg_refilled there (p.dst + n) m p.tag (f n)
    by_cases nothing : p.dst + n = 0 ∨ m = 0#32
    · rw [if_pos (by simpa using nothing)]
      exact ⟨kept, g', there, filled.next (.none nothing)⟩
    · rw [if_neg (by simpa using nothing), if_neg Bool.false_ne_true]
      exact ⟨kept.trans kept', g'', there', filled.next wrote⟩

/-! ## Delivery -/

/-- From u to t the return of operation p has been delivered to group gk, which was that of c, with these values by register and
lane. -/
structure Delivered (gk : Nat) (c : Ctx) (p : Pend) (got : Nat → Nat → Val) (u t : State) (g : Group) : Prop where
  group    : mget? t.groups gk = some g
  returned : Returned c p got g
  others   : ∀ k, k ≠ gk → mget? t.groups k = mget? u.groups k
  mm       : t.mm = u.mm
  wgs      : t.wgs = u.wgs
  regs     : t.regs = u.regs
  kul      : t.kul = u.kul

/-- The group after its registers took the values and the operation went away. -/
theorem returned_of_filled {c : Ctx} {p : Pend} {f got : Nat → Nat → Val} {g : Group}
    (filled : Filled c.g g p.dst p.nreg p.lanes f) (same : ∀ j l, l < 32 → p.lanes.getLsbD l = true → f j l = got j l) :
    Returned c p got (g.without p) := by
  obtain ⟨flags, eq⟩ := without_eq p g
  have pend : g.pend = c.g.pend := (congrArg Group.pend filled.rest :)
  have ars : g.ars = c.g.ars := (congrArg Group.ars filled.rest :)
  have flag : g.flags = c.g.flags := (congrArg Group.flags filled.rest :)
  have regs : (g.without p).regs = g.regs := (congrArg Group.regs eq :)
  have reg : ∀ r, (g.without p).reg r = g.reg r := fun r => by unfold Group.reg; rw [regs]
  have lane : ∀ r l, (g.without p).lane r l = g.lane r l := fun r l => by unfold Group.lane; rw [reg]
  refine ⟨?_, ?_, ?_, fun k => ?_, fun r hr => (reg r).trans (filled.others r hr), fun j l hj hl => ?_⟩
  · rw [eq]
    exact congrArg (List.filter _) pend
  · rw [eq]
    have rest := congrArg (fun x : Group => ({ x with
      pend := c.g.pend, regs := c.g.regs, flags := c.g.flags, ars := c.g.ars } : Group)) filled.rest
    exact rest
  · rw [eq]
    have holds : g.arHolds p.id = c.g.arHolds p.id := by unfold Group.arHolds; rw [pend]
    exact (congrArg (fun l => List.filter (g.arHolds p.id) l) ars).trans (by rw [holds])
  · rw [flag_without]
    unfold Group.flag
    rw [flag]
  · rw [lane]
    have value := filled.values j l hj hl
    split
    next on => rw [if_pos on, same j l hl on.1] at value; exact value
    next off => rw [if_neg off] at value; exact value

/-- A return that nothing holds back is delivered (R253, R270, R364). -/
theorem deliverRet_delivers {s u : State} {gk : Nat} {c d : Ctx} {p : Pend} {g : Group} {f got : Nat → Nat → Val}
    (ret : MayReturn s gk c p) (place : d.gk = gk) (wg : d.wg = c.wg) (at_ : d.g.core = c.g.core ∧ d.g.sched = c.g.sched)
    (stops : u.stops = s.stops) (group : mget? u.groups gk = some g) (launch : u.launchOf g.wg = some (c.wg, c.gg, c.l))
    (same : ∀ j l, l < 32 → p.lanes.getLsbD l = true → f j l = got j l) :
    ∃ t g', u.deliverRet d p p.lanes f = t ∧ Delivered gk { c with g := g } p got u t g' := by
  have out : d.inBlock = false := inBlock_eq_false.mpr (by rw [wg]; exact ret.noBlock)
  have running : (mget? u.stops (d.g.core * 4 + d.g.sched)).isSome = false := by
    rw [stops, at_.1, at_.2, ret.noStop]; rfl
  have gen : ¬ p.gen ≠ d.wg.gen := not_not.mpr (by rw [wg]; exact ret.gen)
  subst place
  obtain ⟨⟨gs, r, n, kept, others⟩, g', there, filled⟩ := writeBack_fills group out ret.whole p.lanes f
  have own : g'.wg = g.wg := (congrArg Group.wg filled.rest :)
  have ended := finishPend_unlogged (s := u.writeBack d p p.lanes f) (w := c.wg) (gg := c.gg) (l := c.l) there
    (by rw [own, kept]; exact launch) ret.noLog.1 ret.noLog.2 p
  refine ⟨_, g'.without p, rfl, ?_⟩
  unfold State.deliverRet
  rw [if_neg (by rw [ret.kept]; exact Bool.false_ne_true), if_neg gen, running, if_neg Bool.false_ne_true, ended]
  exact {
    group := mget?_mupd_same there
    returned := returned_of_filled (c := { c with g := g }) filled same
    others := fun k hk => (mget?_mupd_other _ _ hk).trans (by rw [kept]; exact others k hk)
    mm := by rw [kept]; rfl
    wgs := by rw [kept]; rfl
    regs := by rw [kept]; rfl
    kul := by rw [kept]; rfl }

end Sys2Proof.Machine
end

section
/-! SUPPORT. What RETURN_WRITTEN performs, and the values that it delivers (R270, R364, R365). -/

namespace Sys2Proof.Machine

/-! ## What is performed -/

theorem gctx_gk {s : State} {gk : Nat} {c : Ctx} (h : s.gctx gk = some c) : c.gk = gk := by
  unfold State.gctx at h
  split at h
  · cases h
  · split at h
    · cases h
    · cases h
      rfl

/-- RETURN_WRITTEN of an operation with a return that nothing keeps from being performed (R270). -/
theorem returnWritten_performs {s : State} {gk : Nat} {c : Ctx} {p : Pend} (ret : MayReturn s gk c p)
    (noStore : ∀ n, p.op ≠ .store n) (returns : ∀ o ty, p.op ≠ .atom o ty false) :
    exec (.returnWritten gk p.id) s = .next (s.performRet (c.at_ p.pc) p) := by
  have ready : s.canPerform (c.at_ p.pc) p = true := ret.ready
  change execReturnWritten gk p.id s = _
  unfold execReturnWritten
  simp only [ret.ctx, ret.found, ret.kept, Bool.false_and, Bool.false_eq_true, if_false]
  refine congrArg Host.Outcome.next ?_
  cases op : p.op with
  | store n => exact absurd op (noStore n)
  | atom o ty back =>
    cases back with
    | false => exact absurd op (returns o ty)
    | true => exact if_pos ready
  | _ => exact if_pos ready

/-- The performed return is delivered from the state that its reading leaves, when that state's group gk is g. -/
theorem MayReturn.delivers {s u : State} {gk : Nat} {c d : Ctx} {p : Pend} {g : Group} {f got : Nat → Nat → Val}
    (ret : MayReturn s gk c p) (run : exec (.returnWritten gk p.id) s = .next (u.deliverRet d p p.lanes f)) (place : d.gk = gk)
    (wg : d.wg = c.wg) (at_ : d.g.core = c.g.core ∧ d.g.sched = c.g.sched) (group : mget? u.groups gk = some g)
    (own : g.wg = c.g.wg) (stops : u.stops = s.stops) (wgs : u.wgs = s.wgs) (gangs : u.gangs = s.gangs)
    (launches : u.launches = s.launches) (same : ∀ j l, l < 32 → p.lanes.getLsbD l = true → f j l = got j l) :
    ∃ t g', exec (.returnWritten gk p.id) s = .next t ∧ Delivered gk { c with g := g } p got u t g' := by
  obtain ⟨-, launch, -⟩ := gctx_some ret.ctx
  have launch' : u.launchOf g.wg = some (c.wg, c.gg, c.l) := by
    rw [own]
    exact launchOf_changed launch (by rw [wgs]; exact launchOf_wg launch) rfl gangs launches
  obtain ⟨t, g', eq, delivered⟩ := deliverRet_delivers ret place wg at_ stops group launch' same
  exact ⟨t, g', run.trans (congrArg _ eq), delivered⟩

/-- The same where the reading changes nothing. -/
theorem MayReturn.delivers_here {s : State} {gk : Nat} {c : Ctx} {p : Pend} {f got : Nat → Nat → Val} (ret : MayReturn s gk c p)
    (run : exec (.returnWritten gk p.id) s = .next (s.deliverRet (c.at_ p.pc) p p.lanes f))
    (same : ∀ j l, l < 32 → p.lanes.getLsbD l = true → f j l = got j l) :
    ∃ t g, exec (.returnWritten gk p.id) s = .next t ∧ Delivered gk c p got s t g :=
  ret.delivers run (show c.gk = gk from gctx_gk ret.ctx) rfl ⟨rfl, rfl⟩ (gctx_some ret.ctx).1 rfl rfl rfl rfl rfl same

/-! ## Values of lanes -/

/-- A value read by its key from a list whose keys differ. -/
theorem mget?_map_key {α β : Type} {as : List α} {key : α → Nat} (differ : as.Pairwise (fun a b => key a ≠ key b)) (f : α → β)
    {a : α} (h : a ∈ as) : mget? (as.map (fun a => (key a, f a))) (key a) = some (f a) := by
  induction as with
  | nil => cases h
  | cons b as ih =>
    obtain ⟨first, rest⟩ := List.pairwise_cons.mp differ
    rw [List.map_cons, mget?]
    rcases List.mem_cons.mp h with rfl | h
    · exact if_pos rfl
    · rw [if_neg (first a h).symm]
      exact ih rest h

/-- What a load of unchanged state reads of its lanes. -/
theorem State.loadLanes_eq {s : State} {c : Ctx} {p : Pend} {v : Nat → Nat} {q : Nat → Option PTag}
    (reads : ∀ l < 32, p.lanes.getLsbD l = true → s.loadLane c p l = (v l, q l, s)) :
    s.loadLanes c p = ((lanesOf p.lanes).map (fun l => (l, (v l, q l))), s) := by
  have from_ : ∀ (ls : List Nat) (acc : Got), (∀ l ∈ ls, s.loadLane c p l = (v l, q l, s)) →
      ls.foldl (fun acc l =>
        let (v, t, s) := acc.2.loadLane c p l
        (acc.1 ++ [(l, (v, t))], s)) (acc, s) = (acc ++ ls.map (fun l => (l, (v l, q l))), s) := by
    intro ls
    induction ls with
    | nil => intro acc _; rw [List.foldl_nil, List.map_nil, List.append_nil]
    | cons l ls ih =>
      intro acc all
      rw [List.foldl_cons]
      dsimp only
      rw [all l List.mem_cons_self]
      refine (ih _ fun k hk => all k (List.mem_cons_of_mem _ hk)).trans ?_
      rw [List.map_cons, List.append_assoc, List.singleton_append]
  refine (from_ _ [] fun l hl => ?_).trans (by rw [List.nil_append])
  obtain ⟨small, on⟩ := mem_lanesOf.mp hl
  exact reads l small on

theorem Got.val_of_mget? {g : Got} {l v : Nat} {t : Option PTag} (h : mget? g l = some (v, t)) (n : Nat) (sx : Bool) (j : Nat) :
    g.val n sx j l = { w := loadWord n sx v j, p := t } := by
  unfold Got.val
  rw [h]

/-- A number of n bytes, read as a signed one, is itself or lies 2^(8n) below (R263). -/
theorem sextInt_of_lt {n v : Nat} (h : v < 2 ^ n) : sextInt n v = if v < 2 ^ (n - 1) then (v : Int) else (v : Int) - 2 ^ n := by
  unfold sextInt
  rw [Nat.mod_eq_of_lt h]
  norm_cast

/-- Register j of a load holds the sign-extended value below four bytes (R365). -/
theorem loadWord_signed {n v j : Nat} {w : Word} (short : n < 4) (h : v < 2 ^ (8 * n))
    (is : w.toInt = if v < 2 ^ (8 * n - 1) then (v : Int) else (v : Int) - 2 ^ (8 * n)) : loadWord n true v j = w := by
  unfold loadWord
  rw [if_pos short, if_pos rfl, sextInt_of_lt h, ← is, BitVec.ofInt_toInt]

/-- Without a sign it holds part j of the value (R365). -/
theorem loadWord_of_loaded {n v j : Nat} {w : Word} (h : loaded n v j w) : loadWord n false v j = w := by
  apply BitVec.eq_of_toNat_eq
  unfold loaded at h
  unfold loadWord
  split
  next short => rw [if_pos short] at h; rw [if_neg Bool.false_ne_true, BitVec.toNat_ofNat, h]
  next long => rw [if_neg long] at h; rw [BitVec.toNat_ofNat, h]

theorem loadWord_long {n j : Nat} (long : ¬ n < 4) (sx : Bool) (v : Nat) : loadWord n sx v j = loadWord n false v j := by
  unfold loadWord
  rw [if_neg long, if_neg long]

/-- Word j of an n-byte value, extended as sx says, is w (R365). -/
def extendsTo (n : Nat) (sx : Bool) (v j : Nat) (w : Word) : Prop :=
  if n < 4 then
    if sx then w.toInt = if v < 2 ^ (8 * n - 1) then (v : Int) else (v : Int) - 2 ^ (8 * n)
    else w.toNat = v
  else w.toNat = v / 2 ^ (32 * j) % 2 ^ 32

theorem loadWord_of_extends {n : Nat} {sx : Bool} {v j : Nat} {w : Word} (h : extendsTo n sx v j w) (fits : v < 2 ^ (8 * n)) :
    loadWord n sx v j = w := by
  unfold extendsTo at h
  by_cases short : n < 4
  · rw [if_pos short] at h
    cases sx with
    | true => exact loadWord_signed short fits h
    | false =>
      have small : v < 2 ^ 32 := lt_of_lt_of_le fits (Nat.pow_le_pow_right (by decide) (by omega))
      exact loadWord_of_loaded (by unfold loaded; rw [if_pos short, Nat.mod_eq_of_lt small]; exact h)
  · rw [if_neg short] at h
    rw [loadWord_long short]
    exact loadWord_of_loaded (by unfold loaded; rw [if_neg short]; exact h)

/-- Loads whose reading changes nothing deliver what they read (R364, R365). -/
theorem returnWritten_load {s : State} {gk : Nat} {c : Ctx} {p : Pend} {got : Nat → Nat → Val} {n : Nat} {sx : Bool}
    {v : Nat → Nat} {q : Nat → Option PTag} (ret : MayReturn s gk c p) (op : p.op = .load n sx)
    (reads : ∀ l < 32, p.lanes.getLsbD l = true →
      s.loadLane c p l = (v l, q l, s) ∧ v l < 2 ^ (8 * n) ∧ ∀ j, (got j l).p = q l ∧ extendsTo n sx (v l) j (got j l).w) :
    ∃ t g, exec (.returnWritten gk p.id) s = .next t ∧ Delivered gk c p got s t g := by
  have lanes : s.loadLanes (c.at_ p.pc) p = _ := State.loadLanes_eq fun l small on => (reads l small on).1
  have run := returnWritten_performs ret (by rw [op]; nofun) (by rw [op]; nofun)
  unfold State.performRet at run
  rw [op] at run
  dsimp only at run
  rw [lanes] at run
  refine ret.delivers_here run fun j l small on => ?_
  obtain ⟨-, fits, value⟩ := reads l small on
  obtain ⟨pois, word⟩ := value j
  have here : mget? ((lanesOf p.lanes).map (fun l => (l, (v l, q l)))) l = some (v l, q l) :=
    mget?_map_key (key := id) (nodup_lanesOf p.lanes) (fun l => (v l, q l)) (mem_lanesOf.mpr ⟨small, on⟩)
  refine (Got.val_of_mget? here n sx j).trans ?_
  rw [loadWord_of_extends word fits, ← pois]

end Sys2Proof.Machine
end

section
/-! SUPPORT. An LR of one lane sets its reservation while there is room (R158, R187, R372). -/

namespace Sys2Proof.Machine

theorem length_mput_le {α : Type} (m : Map α) (n : Nat) (a : α) : (mput m n a).length ≤ m.length + 1 := by
  induction m with
  | nil => exact Nat.le_refl _
  | cons e r ih =>
    obtain ⟨k, x⟩ := e
    simp only [mput]
    split
    · exact Nat.le_refl _
    · split
      · simp only [List.length_cons]; omega
      · simp only [List.length_cons]; omega

/-- Where the keys rise and one entry's list grows by at most one, so do all lists together. -/
theorem length_flatMap_mupd {α β : Type} {m : Map α} (rise : (mkeys m).Pairwise (· < ·)) (f : α → List β) (n : Nat) {g : α → α}
    (grows : ∀ a, (f (g a)).length ≤ (f a).length + 1) :
    ((mupd m n g).flatMap (fun e => f e.2)).length ≤ (m.flatMap (fun e => f e.2)).length + 1 := by
  have put : ∀ {m : Map α} {v : α}, (mkeys m).Pairwise (· < ·) → mget? m n = some v →
      ((mput m n (g v)).flatMap (fun e => f e.2)).length ≤ (m.flatMap (fun e => f e.2)).length + 1 := by
    intro m v rise at_
    induction m with
    | nil => cases at_
    | cons e r ih =>
      obtain ⟨k, x⟩ := e
      obtain ⟨below, rest⟩ := List.pairwise_cons.mp rise
      simp only [mget?] at at_
      simp only [mput]
      split at at_
      next eq =>
        cases at_
        subst eq
        have one := grows v
        simp only [Nat.lt_irrefl, if_false, if_true, List.flatMap_cons, List.length_append]
        omega
      next ne =>
        have later : k < n := below n (List.mem_map.mpr ⟨_, mget?_mem at_, rfl⟩)
        have tail := ih rest at_
        rw [if_neg (by omega), if_neg ne]
        simp only [List.flatMap_cons, List.length_append]
        omega
  unfold mupd
  split
  next v at_ => exact put rise at_
  · omega

/-- A reservation while the homes hold fewer than 8192: no other is lost (R158, R187). -/
theorem State.reserve_room {s : State} (rise : (mkeys s.groups).Pairwise (· < ·))
    (room : (s.groups.flatMap (fun e => e.2.resv)).length < 8192) (gk lane ln : Nat) :
    s.reserve gk lane ln =
      s.takeId.2.updGroup gk (fun g => { g with resv := mput g.resv lane (s.nextId * 2 ^ 44 + ln) }) := by
  have grown := length_flatMap_mupd rise Group.resv gk
    (g := fun g => { g with resv := mput g.resv lane (s.nextId * 2 ^ 44 + ln) }) fun g => length_mput_le g.resv lane _
  have atHome : ∀ (gs : Map Group) (home : Nat), (gs.flatMap (fun e =>
      (e.2.resv.filter (fun r => homeOf (resvLine r.2 * 128) == home)).map (fun r => (e.1, r.1, r.2)))).length ≤
      (gs.flatMap (fun e => e.2.resv)).length := by
    intro gs home
    induction gs with
    | nil => exact Nat.le_refl _
    | cons e gs ih =>
      have here := List.length_filter_le (fun r => homeOf (resvLine r.2 * 128) == home) e.2.resv
      simp only [List.flatMap_cons, List.length_append, List.length_map]
      omega
  exact if_pos (Nat.le_trans (atHome _ _) (Nat.le_trans grown room))

theorem resvLine_of {n ln : Nat} (h : ln < 2 ^ 44) : resvLine (n * 2 ^ 44 + ln) = ln := by
  unfold resvLine
  omega

theorem reserved_mput {g : Group} {r : Map Nat} {lane n ln : Nat} (h : ln < 2 ^ 44)
    (resv : g.resv = mput r lane (n * 2 ^ 44 + ln)) : g.reserved lane ln = true := by
  unfold Group.reserved
  rw [resv, mget?_mput_same]
  exact beq_iff_eq.mpr (resvLine_of h)

/-- Where nothing is recorded, the log stays as it is (R258). -/
theorem State.rrRecord_off {c : Ctx} (h : c.l.rrMode ≠ 1) (s : State) (k hash no value : Nat) (lanes : List Word) :
    s.rrRecord c k hash no value lanes = s :=
  if_pos (by simp [h])

theorem lane_of_laneBit {l k : Nat} (h : (laneBit l).getLsbD k = true) : k = l := by
  unfold laneBit at h
  simp only [BitVec.getLsbD_shiftLeft, BitVec.getLsbD_one, Bool.and_eq_true, Bool.not_eq_true', decide_eq_false_iff_not,
    decide_eq_true_eq] at h
  omega

/-- An LR of one lane delivers what it reads, and its group holds the reservation (R187, R372). -/
theorem returnWritten_lr {s : State} {gk : Nat} {c : Ctx} {p : Pend} {a : Access} {n pa : Nat} {bs : List Byte} {q : Option PTag}
    {got : Nat → Nat → Val} (rise : (mkeys s.groups).Pairwise (· < ·)) (ret : MayReturn s gk c p) (op : p.op = .lr n)
    (rep : p.rep = none) (acc : p.acc = [a]) (lanes : p.lanes = laneBit a.lane) (loc : a.loc = .mem pa)
    (read : s.readPart c.g.core a = (bs, q, s)) (room : (s.groups.flatMap (fun e => e.2.resv)).length < 8192)
    (value : ∀ j, (got j a.lane).p = q ∧ loaded n (ofBytesLE bs) j (got j a.lane).w) :
    ∃ t g, exec (.returnWritten gk p.id) s = .next t ∧
      Delivered gk { c with g := { c.g with resv := mput c.g.resv a.lane (s.nextId * 2 ^ 44 + pa / 128) } } p got
        (s.reserve gk a.lane (pa / 128)) t g := by
  obtain ⟨group, -, -⟩ := gctx_some ret.ctx
  have place := gctx_gk ret.ctx
  have reserved := State.reserve_room rise room gk a.lane (pa / 128)
  have reads : s.lrLanes (c.at_ p.pc) p = ([(a.lane, (ofBytesLE bs, q))], s.reserve gk a.lane (pa / 128)) := by
    unfold State.lrLanes
    rw [acc, List.foldl_cons, List.foldl_nil, loc]
    dsimp only
    rw [show s.readPart (c.at_ p.pc).g.core a = (bs, q, s) from read, show (c.at_ p.pc).gk = gk from place]
    rfl
  have run := returnWritten_performs ret (by rw [op]; nofun) (by rw [op]; nofun)
  unfold State.performRet at run
  rw [op] at run
  dsimp only at run
  rw [reads, rep, State.rrRecord_off (c := c.at_ p.pc) ret.noLog.1] at run
  refine ret.delivers run (show c.gk = gk from place) rfl ⟨rfl, rfl⟩ ?_ rfl ?_ ?_ ?_ ?_ fun j l _ on => ?_
  · rw [reserved]; exact mget?_mupd_same group
  · rw [reserved]; rfl
  · rw [reserved]; rfl
  · rw [reserved]; rfl
  · rw [reserved]; rfl
  · obtain ⟨pois, word⟩ := value j
    have only := lane_of_laneBit (lanes ▸ on)
    subst only
    have here : mget? [(a.lane, (ofBytesLE bs, q))] a.lane = some (ofBytesLE bs, q) := if_pos rfl
    refine (Got.val_of_mget? here n false j).trans ?_
    rw [loadWord_of_loaded word, ← pois]

end Sys2Proof.Machine
end

section
/-! SUPPORT. An LDW of one line: what it takes of the line, and its entry (R160, R367, R368). -/

namespace Sys2Proof.Machine

/-! ## The line as it is stored -/

/-- The data and the poison of line ln. -/
def State.lineSeen (s : State) (ln : Nat) : BitVec 1024 × Option PTag := (s.lineData ln, s.linePois ln)

theorem State.updLine_lineSeen (s : State) {n : Nat} {f : Line → Line} (kept : (f (s.line n)).pois = (s.line n).pois) (ln : Nat) :
    (s.updLine n f).lineSeen ln = s.lineSeen ln := by
  have pois : ((s.updLine n f).line ln).pois = (s.line ln).pois := by
    rw [State.updLine, State.line_setLine]
    split
    next e => rw [kept, e]
    · rfl
  have home : (s.updLine n f).deadHome (ln * 128) = s.deadHome (ln * 128) := rfl
  unfold State.lineSeen State.linePois
  rw [pois, home]
  rfl

theorem State.dropCore_lineSeen (s : State) (core n ln : Nat) : (s.dropCore core n).lineSeen ln = s.lineSeen ln := by
  unfold State.dropCore
  dsimp only
  split
  · exact (State.updLine_lineSeen _ rfl ln).trans rfl
  · rfl

theorem State.leaveCore_lineSeen {s : State} (noFlaw : s.rel.latent = []) (core n ln : Nat) :
    (s.leaveCore core n).lineSeen ln = s.lineSeen ln := by
  unfold State.leaveCore
  rw [State.checkCopy_none noFlaw, ite_self]
  exact s.dropCore_lineSeen core n ln

/-- A line that comes into a core's cache, and one that leaves it for that, stay as they are stored (R147, R153). -/
theorem State.fillHeld_lineSeen {s : State} (noFlaw : s.rel.latent = []) (core n ln : Nat) (low : Bool) (fl : Option Nat) :
    (s.fillHeld core n low fl).lineSeen ln = s.lineSeen ln := by
  have noted : ∀ {u : State} {l : List Nat}, u.lineSeen ln = s.lineSeen ln →
      (u.setMM { u.mm with lowCore := l }).lineSeen ln = s.lineSeen ln := fun same => same
  have room : (s.roomCore core n low).2.lineSeen ln = s.lineSeen ln := by
    unfold State.roomCore
    dsimp only
    split
    · rfl
    · split
      · rfl
      · refine noted ?_
        split
        · rfl
        · exact State.leaveCore_lineSeen (s := s.draw 1) noFlaw ..
  unfold State.fillHeld
  dsimp only
  split
  · exact room
  · exact room

theorem flipped_none (d : BitVec 1024) : flipped d none = d := rfl

/-! ## What a core reads of a line -/

section
variable {s : State} {core ln : Nat} {k : Keep} (noFlaw : s.rel.latent = []) (noArm : b64 (s.reg 0x27) 0 0 = 0)
include noFlaw noArm

/-- A read of a line that the die owns gives the line as it is stored (R153). -/
theorem State.readLine_owned (owned : (s.line ln).owner = some (core / 48))
    (whole : k.inCore = true → s.holdsLine core ln = true → s.heldFlip core ln = none) :
    (s.readLine core ln k).1 = s.lineData ln ∧ (s.readLine core ln k).2.1 = s.linePois ln := by
  unfold State.readLine
  dsimp only
  rw [State.checkDir_none noFlaw, if_pos owned, State.checkCopy_none noFlaw, ite_self, State.checkOwn_none noFlaw,
    State.inject_unarmed noArm]
  dsimp only
  split
  next here =>
    rw [Bool.and_eq_true] at here
    rw [whole here.1 here.2]
    exact ⟨rfl, rfl⟩
  · have seen : (if k.inCore then s.fillHeld core ln k.low none else s).lineSeen ln = s.lineSeen ln := by
      split
      · exact State.fillHeld_lineSeen noFlaw ..
      · rfl
    obtain ⟨data, pois⟩ := Prod.mk.inj seen
    exact ⟨(flipped_none _).trans data, pois⟩

omit noArm in
/-- The core's W copy is taken as it is, to be confirmed later (R160, R367). -/
theorem State.watchedRead_copy {x : Copy} (copy : mget? s.mm.wcopy (copyKey core ln) = some x) (w : x.ro = false) :
    s.watchedRead core ln k = (x.data, x.pois, false, x.ver, x.stamp, true, s) := by
  unfold State.watchedRead
  dsimp only
  rw [State.checkCopy_none noFlaw, State.checkDir_none noFlaw, copy]
  dsimp only
  rw [w, if_neg Bool.false_ne_true]

section
variable (noW : ∀ x, mget? s.mm.wcopy (copyKey core ln) = some x → x.ro = true)
include noW

omit noArm in
/-- Without a W copy it is what the die holds. -/
theorem State.watchedRead_other :
    s.watchedRead core ln k = State.watchedRead.other core ln k s (core / 48) (s.line ln) := by
  unfold State.watchedRead
  dsimp only
  rw [State.checkCopy_none noFlaw, State.checkDir_none noFlaw]
  split
  next x copy => rw [noW x copy, if_pos rfl]
  · rfl

/-- A line that the die owns is confirmed at once (R160, R367). -/
theorem State.watchedRead_owned (owned : (s.line ln).owner = some (core / 48))
    (whole : k.inCore = true → s.holdsLine core ln = true → s.heldFlip core ln = none) :
    s.watchedRead core ln k =
      (s.lineData ln, s.linePois ln, true, (s.line ln).granted, (s.line ln).stamp, false, (s.readLine core ln k).2.2) := by
  obtain ⟨data, pois⟩ := State.readLine_owned noFlaw noArm owned whole
  rw [State.watchedRead_other noFlaw noW, State.watchedRead.other, if_pos owned, ← data, ← pois]

/-- The V copy that the die keeps is taken, to be confirmed later (R160, R367). -/
theorem State.watchedRead_kept (foreign : (s.line ln).owner ≠ some (core / 48)) {x : Copy}
    (copy : mget? s.mm.vcopy (copyKey (core / 48) ln) = some x) :
    s.watchedRead core ln k = (x.data, x.pois, false, x.ver, 0, false, s) := by
  rw [State.watchedRead_other noFlaw noW, State.watchedRead.other, if_neg foreign]
  dsimp only
  rw [State.checkSlice_none noFlaw, copy]
  dsimp only
  rw [State.inject_unarmed noArm]
  cases x.pois <;> rfl

omit noArm in
/-- A line that the die does not hold is fetched, and confirmed at once (R160, R367). -/
theorem State.watchedRead_fetched (foreign : (s.line ln).owner ≠ some (core / 48))
    (copy : mget? s.mm.vcopy (copyKey (core / 48) ln) = none) {d : BitVec 1024} {q : Option PTag} {u : State}
    (read : s.readLine core ln k = (d, q, u)) :
    s.watchedRead core ln k = (d, q, true, (u.line ln).version, 0, false, u) := by
  rw [State.watchedRead_other noFlaw noW, State.watchedRead.other, if_neg foreign]
  dsimp only
  rw [State.checkSlice_none noFlaw, copy]
  dsimp only
  rw [read]

end
end

/-! ## The lanes of the LDW -/

theorem dedup_of_all_eq {l : List Nat} {x : Nat} (some_ : l ≠ []) (all : ∀ y ∈ l, y = x) : dedup l = [x] := by
  have again : ∀ l : List Nat, (∀ y ∈ l, y = x) →
      l.foldl (fun acc x => if acc.contains x then acc else acc ++ [x]) [x] = [x] := by
    intro l
    induction l with
    | nil => intro _; rfl
    | cons y l ih =>
      intro all
      rw [List.foldl_cons, all y List.mem_cons_self, if_pos (by simp)]
      exact ih fun z hz => all z (List.mem_cons_of_mem _ hz)
  cases l with
  | nil => exact absurd rfl some_
  | cons y l =>
    unfold dedup
    rw [List.foldl_cons, all y List.mem_cons_self]
    exact again l fun z hz => all z (List.mem_cons_of_mem _ hz)

/-- What an access to memory takes of its line's data d with poison q. -/
def Access.taken (d : BitVec 1024) (q : Option PTag) (a : Access) : Nat × Option PTag :=
  match a.loc with
  | .mem pa => (ofBytesLE (lineBytes d (pa % 128) a.n), q)
  | _ => (0, none)

theorem Access.taken_mem {a : Access} {pa : Nat} (loc : a.loc = .mem pa) (d : BitVec 1024) (q : Option PTag) :
    a.taken d q = (ofBytesLE (lineBytes d (pa % 128) a.n), q) := by
  unfold Access.taken
  rw [loc]

/-- A group the entry w of which stands with this version and stamp (R367). -/
def Group.setWatch (g : Group) (w : Watch) (ver stamp : Nat) (ofW : Bool) (st : WatchState) : Group :=
  { g with watches := g.watches.map (fun x => if x.n = w.n then
      { x with ver := ver, stamp := stamp, ofW := ofW, st := st } else x) }

section
variable {s : State} {c : Ctx} {p : Pend} {ln : Nat} {keep : Keep} (group : mget? s.groups c.gk = some c.g) (some_ : p.acc ≠ [])
  (all : ∀ a ∈ p.acc, a.keep = keep ∧ ∃ pa, a.loc = .mem pa ∧ pa / 128 = ln)
include group some_ all

/-- An LDW whose accesses lie in one line takes that line once. -/
theorem State.watchLanes_one {d : BitVec 1024} {q : Option PTag} {v : State}
    (takes : (∃ w now ver stamp ofW u, c.g.watches.find? (fun w => w.id == p.id && w.line == ln) = some w ∧
        s.watchedRead c.g.core ln keep = (d, q, now, ver, stamp, ofW, u) ∧
        v = u.updGroup c.gk (fun g => g.setWatch w ver stamp ofW (if now then .confirmed else .pending))) ∨
      (c.g.watches.find? (fun w => w.id == p.id && w.line == ln) = none ∧ s.readLine c.g.core ln keep = (d, q, v))) :
    s.watchLanes c p = (p.acc.map (fun a => (a.lane, a.taken d q)), v) := by
  have present : mgetD s.groups c.gk c.g = c.g := by unfold mgetD; rw [group]; rfl
  have kept : (p.acc.map (·.keep)).headD .core = keep := by
    cases acc : p.acc with
    | nil => exact absurd acc some_
    | cons a as => exact (all a (acc ▸ List.mem_cons_self)).1
  unfold State.watchLanes
  rw [dedup_of_all_eq (x := ln) ?ne ?eq]
  case ne =>
    obtain ⟨a, ha⟩ := List.exists_mem_of_ne_nil _ some_
    obtain ⟨-, pa, loc, line⟩ := all a ha
    exact List.ne_nil_of_mem (List.mem_filterMap.mpr ⟨a, ha, by rw [loc]⟩)
  case eq =>
    intro y hy
    obtain ⟨a, ha, own⟩ := List.mem_filterMap.mp hy
    obtain ⟨-, pa, loc, line⟩ := all a ha
    rw [loc] at own
    exact (Option.some.inj own).symm.trans line
  rw [List.foldl_cons, List.foldl_nil]
  dsimp only
  rw [present, List.filter_eq_self.mpr ?mine, kept]
  case mine =>
    intro a ha
    obtain ⟨-, pa, loc, line⟩ := all a ha
    rw [loc]
    exact beq_iff_eq.mpr line
  rcases takes with ⟨w, now, ver, stamp, ofW, u, entry, read, rfl⟩ | ⟨entry, read⟩
  · rw [entry]
    dsimp only
    rw [read]
    refine Prod.ext (List.map_congr_left fun a ha => ?_) rfl
    obtain ⟨-, pa, loc, -⟩ := all a ha
    rw [Access.taken_mem loc, loc]
  · rw [entry]
    dsimp only
    rw [read]
    refine Prod.ext (List.map_congr_left fun a ha => ?_) rfl
    obtain ⟨-, pa, loc, -⟩ := all a ha
    rw [Access.taken_mem loc, loc]

end

end Sys2Proof.Machine
end

section
/-! SUPPORT. An LDW performed, and the groups that LR and LDW leave (R187, R367). -/

namespace Sys2Proof.Machine

/-- The number of a part of a line (R365). -/
theorem ofBytesLE_lineBytes (d : BitVec 1024) (off n : Nat) :
    ofBytesLE (lineBytes d off n) = d.toNat / 2 ^ (8 * off) % 2 ^ (8 * n) := by
  unfold lineBytes
  rw [ofBytesLE_bytesLE, Nat.pow_mul 2 8 n]

/-- An LDW delivers what its lanes have taken (R270, R367). -/
theorem returnWritten_watched {s v : State} {gk : Nat} {c : Ctx} {p : Pend} {g : Group} {n tag : Nat} {picks : Got}
    {got : Nat → Nat → Val} (ret : MayReturn s gk c p) (op : p.op = .watched n tag)
    (reads : s.watchLanes (c.at_ p.pc) p = (picks, v)) (group : mget? v.groups gk = some g) (own : g.wg = c.g.wg)
    (at_ : g.core = c.g.core ∧ g.sched = c.g.sched) (stops : v.stops = s.stops) (wgs : v.wgs = s.wgs)
    (gangs : v.gangs = s.gangs) (launches : v.launches = s.launches)
    (same : ∀ j l, l < 32 → p.lanes.getLsbD l = true → picks.val n false j l = got j l) :
    ∃ t g', exec (.returnWritten gk p.id) s = .next t ∧ Delivered gk { c with g := g } p got v t g' := by
  have place : (c.at_ p.pc).gk = gk := gctx_gk (c := c) ret.ctx
  have run := returnWritten_performs ret (by rw [op]; nofun) (by rw [op]; nofun)
  unfold State.performRet at run
  rw [op] at run
  dsimp only at run
  rw [reads] at run
  have now : mgetD v.groups (c.at_ p.pc).gk (c.at_ p.pc).g = g := by unfold mgetD; rw [place, group]; rfl
  dsimp only at run
  rw [now] at run
  exact ret.delivers run place rfl at_ group own stops wgs gangs launches same

/-- What the lanes of an LDW have taken is the values of its accesses (R365, R367). -/
theorem watched_values {p : Pend} {ln n : Nat} {d : BitVec 1024} {q : Option PTag} {got : Nat → Nat → Val}
    (mem : ∀ a ∈ p.acc, ∃ pa, a.loc = .mem pa ∧ pa / 128 = ln) (differ : p.acc.Pairwise (fun a b => a.lane ≠ b.lane))
    (lanes : ∀ l < 32, p.lanes.getLsbD l = true ↔ ∃ a ∈ p.acc, a.lane = l)
    (values : ∀ a ∈ p.acc, ∀ pa, a.loc = .mem pa → ∀ j, (got j a.lane).p = q ∧
      loaded n (d.toNat / 2 ^ (8 * (pa % 128)) % 2 ^ (8 * a.n)) j (got j a.lane).w)
    (j l : Nat) (small : l < 32) (on : p.lanes.getLsbD l = true) :
    Got.val (p.acc.map (fun a => (a.lane, a.taken d q))) n false j l = got j l := by
  obtain ⟨a, ha, rfl⟩ := (lanes l small).mp on
  obtain ⟨pa, loc, -⟩ := mem a ha
  obtain ⟨pois, word⟩ := values a ha pa loc j
  have here := mget?_map_key differ (fun a => a.taken d q) ha
  rw [Access.taken_mem loc, ofBytesLE_lineBytes] at here
  rw [Got.val_of_mget? here, loadWord_of_loaded word, ← pois]

/-- A return to a group with other watches (R367). -/
theorem Returned.watches {c : Ctx} {p : Pend} {got : Nat → Nat → Val} {g : Group} {ws : List Watch}
    (h : Returned { c with g := { c.g with watches := ws } } p got g) :
    g.watches = ws ∧ Returned c p got { g with watches := c.g.watches } := by
  obtain ⟨pend, rest, ars, flag, others, values⟩ := h
  exact ⟨(congrArg Group.watches rest :), pend, congrArg (fun x : Group => ({ x with watches := c.g.watches } : Group)) rest, ars,
    flag, others, values⟩

/-- A return to a group with other reservations (R187). -/
theorem Returned.resv {c : Ctx} {p : Pend} {got : Nat → Nat → Val} {g : Group} {r : Map Nat}
    (h : Returned { c with g := { c.g with resv := r } } p got g) : g.resv = r ∧ Returned c p got { g with resv := c.g.resv } := by
  obtain ⟨pend, rest, ars, flag, others, values⟩ := h
  exact ⟨(congrArg Group.resv rest :), pend, congrArg (fun x : Group => ({ x with resv := c.g.resv } : Group)) rest, ars, flag,
    others, values⟩

end Sys2Proof.Machine

namespace Sys2Proof.Proofs
open Sys2Proof.Machine

/-- Settles O29: what a return reads is delivered to its group, in which an LR has set its reservation and an LDW its entry. -/
theorem returnWritten : Obligations.ReturnWritten := by
  unfold Obligations.ReturnWritten
  refine ⟨fun s gk c p got ret kind => ?_, fun s gk c p a n pa bs q got canonical ret op rep acc lane lanes loc small read room value => ?_,
    fun s gk c p n tag ln keep d q ws got u ret op some_ all differ lanes noFlaw noArm groups wgs gangs launches stops regs kul => ?_⟩
  · have delivered : ∃ t g, exec (.returnWritten gk p.id) s = .next t ∧ Delivered gk c p got s t g := by
      rcases kind with ⟨vals, unit, op, value⟩ | ⟨ev, op, value⟩ | ⟨n, sx, v, q, op, reads⟩
      · have run := returnWritten_performs ret (by rw [op]; nofun) (by rw [op]; nofun)
        unfold State.performRet at run
        rw [op] at run
        exact ret.delivers_here run fun j l _ _ => (value j l).symm
      · have run := returnWritten_performs ret (by rw [op]; nofun) (by rw [op]; nofun)
        unfold State.performRet at run
        rw [op] at run
        exact ret.delivers_here run fun j l _ _ => (value j l).symm
      · exact returnWritten_load ret op reads
    obtain ⟨t, g, run, done⟩ := delivered
    exact ⟨t, g, run, done.group, done.returned, done.others, done.mm, done.wgs, done.regs, done.kul⟩
  · obtain ⟨t, g, run, done⟩ := returnWritten_lr canonical.groups ret op rep acc lanes loc read room value
    obtain ⟨resv, returned⟩ := done.returned.resv
    have reserved := State.reserve_room canonical.groups room gk a.lane (pa / 128)
    refine ⟨t, g, run, done.group, returned, reserved_mput (by omega) resv, fun l other => ?_, fun k other => ?_, ?_, ?_, ?_, ?_⟩
    · rw [resv]; exact mget?_mput_other _ _ other
    · exact (done.others k other).trans (by rw [reserved]; exact mget?_mupd_other _ _ other)
    · rw [done.mm, reserved]; rfl
    · rw [done.wgs, reserved]; rfl
    · rw [done.regs, reserved]; rfl
    · rw [done.kul, reserved]; rfl
  · intro die entry own noW becomes takes values
    obtain ⟨group, -, -⟩ := gctx_some ret.ctx
    have place : (c.at_ p.pc).gk = gk := gctx_gk (c := c) ret.ctx
    have taken : (∃ w now ver stamp ofW, entry = some w ∧ s.watchedRead c.g.core ln keep = (d, q, now, ver, stamp, ofW, u) ∧
        ws = (c.g.setWatch w ver stamp ofW (if now then .confirmed else .pending)).watches) ∨
        (entry = none ∧ s.readLine c.g.core ln keep = (d, q, u) ∧ ws = c.g.watches) := by
      rcases takes with ⟨rfl, k, copy, writable, rfl, rfl, w, found, eq⟩ | ⟨none_, owned, whole, rfl, rfl, rfl, w, found, eq⟩ |
        ⟨rfl, none_, foreign, k, copy, rfl, rfl, w, found, eq⟩ | ⟨none_, foreign, copy, read, w, found, eq⟩ | ⟨found, read, eq⟩
      · exact .inl ⟨w, _, _, _, _, found, State.watchedRead_copy noFlaw copy writable, eq⟩
      · exact .inl ⟨w, _, _, _, _, found, State.watchedRead_owned noFlaw noArm none_ owned whole, eq⟩
      · exact .inl ⟨w, _, _, _, _, found, State.watchedRead_kept noFlaw noArm none_ foreign copy, eq⟩
      · exact .inl ⟨w, _, _, _, _, found, State.watchedRead_fetched noFlaw none_ foreign copy read, eq⟩
      · exact .inr ⟨found, read, eq⟩
    obtain ⟨gs, reads, there, others⟩ : ∃ gs, s.watchLanes (c.at_ p.pc) p =
        (p.acc.map (fun a => (a.lane, a.taken d q)), { u with groups := gs }) ∧
        mget? gs gk = some { c.g with watches := ws } ∧ ∀ k, k ≠ gk → mget? gs k = mget? s.groups k := by
      have one := @State.watchLanes_one s (c.at_ p.pc) p ln keep (by rw [place]; exact group) some_ all d q
      rcases taken with ⟨w, now, ver, stamp, ofW, found, read, rfl⟩ | ⟨found, read, rfl⟩
      · refine ⟨_, one (.inl ⟨w, now, ver, stamp, ofW, u, found, read, rfl⟩), ?_, fun k other => ?_⟩
        · rw [place, groups]; exact mget?_mupd_same group
        · rw [place, groups]; exact mget?_mupd_other _ _ other
      · exact ⟨u.groups, one (.inr ⟨found, read⟩), by rw [groups]; exact group, fun k _ => by rw [groups]⟩
    obtain ⟨t, g, run, done⟩ := returnWritten_watched ret op reads there rfl ⟨rfl, rfl⟩ stops wgs gangs launches
      (watched_values (fun a ha => (all a ha).2) differ lanes values)
    obtain ⟨watches, returned⟩ := done.returned.watches
    exact ⟨t, g, run, done.group, watches, returned, fun k other => (done.others k other).trans (others k other), done.mm,
      done.wgs.trans wgs, done.regs.trans regs, done.kul.trans kul⟩

end Sys2Proof.Proofs
end
